-- ==== Sys2Proof/Word.lean ====
section
/-!
DEFINITION. The word types: a byte, a 64-bit register word, a byte string.
-/
namespace Sys2Proof

/-- A byte. -/
abbrev Byte := BitVec 8

/-- A 64-bit register word or stream word (R12: little-endian in memory). -/
abbrev Word := BitVec 64

/-- A byte string, lowest address first. -/
abbrev Bytes := List Byte

/-- A sparse table: key and value pairs, keys strictly rising. -/
abbrev Tab (α : Type) := List (Nat × α)

end Sys2Proof
end

