-- ==== Sys2Proof/Syntax.lean ====
section
/-!
DEFINITION. The commands of the module: one constructor per row of spec/opcode_table.json, with the row's operands. What the
environment supplies (a received packet, a raw sample, a measured power, an upset) is an operand.
-/
namespace Sys2Proof

/-- A hardware fault that reaches the array in one pass of an MMA (R41, R53, R62): attempt 0 or 1, pass, row, logical column,
bit of the column sum flipped, or a product with an alignment above 31. -/
structure FaultIn where
  attempt : Nat
  pass : Nat
  row : Nat
  col : Nat
  bit : Nat
  align : Bool
deriving DecidableEq, Repr

/-- What the world adds to a unit instruction: faults in the array, and upset ECC words (key of State.ecc, 1 single bit, 2 worse). -/
structure UnitEnv where
  faults : List FaultIn
  upsets : List (Nat × Nat)
deriving DecidableEq, Repr

/-- A die-link flit as received (R187): its sequence number, whether its CRC matches, the sequence number it acknowledges. -/
structure LinkFlit where
  seq : Nat
  crcOk : Bool
  ack : Nat
deriving DecidableEq, Repr
/-- A Selvage frame as received (R304): its 36 flits as 2,304 bytes, how many of its codewords were corrected, whether every codeword could be, and whether the
partner asks with it for the frames after its ack to be sent again. -/
structure SpFrame where
  bytes : Bytes
  fixed : Nat
  intact : Bool
  again : Bool
deriving DecidableEq, Repr

/-- A Fjarux packet (R333, R334): the fields of its header flit, its data as sealed, its tag of 12 bytes. -/
structure Packet where
  dest : Nat
  src : Nat
  cls : Nat
  vc : Nat
  epoch : Nat
  mode : Nat
  flagged : Bool
  poison : Bool
  transit : Bool
  chan : Nat
  seq : Nat
  op : Nat
  act : Nat
  key : Nat
  len : Nat
  follow : Nat
  hop : Nat
  addr : Nat
  data : Bytes
  tag : Bytes
deriving DecidableEq, Repr

/-- What a retrain of a Selvage port leaves (R320): the lanes that still fail here and at the far end, and whether this end's own restore ran, not the partner's. -/
structure Retrain where
  here : Nat
  far : Nat
  own : Bool
deriving DecidableEq, Repr

/-- A message of the tray controller over SMBus (R495): the PLDM type and command, and its payload. -/
structure PldmMsg where
  type : Nat
  command : Nat
  payload : Bytes
deriving DecidableEq, Repr


/-- The commands. -/
inductive Instr where
  /-- REGISTER_WRITE (R14): A host write to a register field with no row of its own takes effect by its access code: RW fields are written, W1C bits are cleared and RO or RS fields ignore the write. -/
  | registerWrite (port : Nat) (addr : Nat) (size : Nat) (data : Nat)
  /-- ABSENT_UNIT_ACCESS (R8): An access to the register block of an absent unit reads zero, ignores the write and sets GLB_STATUS.absent_access. -/
  | absentUnitAccess (port : Nat) (addr : Nat) (write : Bool)
  /-- BAR0_BAD_ACCESS (R282): A BAR0 access that is not a naturally aligned 4-byte or 8-byte access completes with Unsupported Request; a write is dropped and a read returns no data. -/
  | bar0BadAccess (port : Nat) (addr : Nat) (size : Nat) (write : Bool)
  /-- NOP (R121): The sequencer issues a NOP instruction, which does nothing. -/
  | nop (core : Nat) (ctx : Nat)
  /-- TDSET (R122): The sequencer writes one tensor descriptor of the context. -/
  | tdset (core : Nat) (ctx : Nat)
  /-- BLD (R127): A copy from the core's bonded slice to SRAM is issued to the move engine. -/
  | bld (core : Nat) (ctx : Nat)
  /-- BST (R127): A copy from SRAM to the core's bonded slice is issued to the move engine. -/
  | bst (core : Nat) (ctx : Nat)
  /-- XLD (R127): A copy from an interleave domain of far memory to SRAM is issued to the move engine. -/
  | xld (core : Nat) (ctx : Nat)
  /-- XST (R127): A copy from SRAM to an interleave domain of far memory is issued to the move engine. -/
  | xst (core : Nat) (ctx : Nat)
  /-- MMA (R124): A matrix product over one logical tile is issued to the array queue. -/
  | mma (core : Nat) (ctx : Nat)
  /-- VOP (R125): An element-wise or row operation is issued to the vector unit. -/
  | vop (core : Nat) (ctx : Nat)
  /-- RSEND (R128): A message is issued to the route engine for one stream route of the core. -/
  | rsend (core : Nat) (ctx : Nat)
  /-- RREL (R143): The head slot of a ring is released, or the context stops with OUT_OF_RANGE if the ring holds no complete slot. -/
  | rrel (core : Nat) (ctx : Nat)
  /-- SOUT (R128): Words are issued for appending to the output staging FIFO of a stream port. -/
  | sout (core : Nat) (ctx : Nat)
  /-- JST (R129): A remote store is checked against the activity's windows and split into Fjarux packets. -/
  | jst (core : Nat) (ctx : Nat)
  /-- JLD (R129): A remote load is checked against the activity's windows and sent as LOAD requests. -/
  | jld (core : Nat) (ctx : Nat)
  /-- JAT (R129): A remote atomic is checked against the activity's windows and sent as an atomic request. -/
  | jat (core : Nat) (ctx : Nat)
  /-- FENCE (R130): A fence is issued that completes when the acknowledgement counts cover the earlier stores and atomics to the named devices and channels. -/
  | fence (core : Nat) (ctx : Nat)
  /-- COLL (R131): A collective call is passed to the CLE for its group. -/
  | coll (core : Nat) (ctx : Nat)
  /-- WAIT (R132): The context blocks until a counter reaches a value, consuming the value if asked. -/
  | wait (core : Nat) (ctx : Nat)
  /-- SIG (R132): A value is added to a counter, saturating at the all-ones value. -/
  | sig (core : Nat) (ctx : Nat)
  /-- BRC (R132): The context branches if a counter is at least a value, without consuming it. -/
  | brc (core : Nat) (ctx : Nat)
  /-- SNAP (R134): A snapshot point at which the context parks if a pause is pending. -/
  | snap (core : Nat) (ctx : Nat)
  /-- STEP (R134): The context blocks until the next step boundary and parks there if a pause is pending. -/
  | step (core : Nat) (ctx : Nat)
  /-- LOOP (R132): A counted loop over the following instructions up to the end index begins. -/
  | loop (core : Nat) (ctx : Nat)
  /-- BR (R132): The context branches to a target index. -/
  | br (core : Nat) (ctx : Nat)
  /-- HALT (R132): The context becomes IDLE until the next start command. -/
  | halt (core : Nat) (ctx : Nat)
  /-- UNIT_INSTRUCTION_START (R119): A queued instruction starts on its unit once the unit is free and its ordering conditions are met. -/
  | unitInstructionStart (core : Nat) (unit : Nat) (env : UnitEnv)
  /-- UNIT_INSTRUCTION_COMPLETE (R120): A unit instruction completes when its last write is visible and adds 1 to its completion counter if cen is set and it ended with OK or INEXACT. -/
  | unitInstructionComplete (core : Nat) (unit : Nat)
  /-- ANCHOR_PRESCAN (R90): The pre-scan reads the exponents of both operands, fixes the tile anchors and records NaN and infinity presence. -/
  | anchorPrescan (core : Nat)
  /-- RING_SLOT_COMPLETE (R143): A ring slot becomes complete when its last byte is visible in SRAM and the ring's counter rises by 1. -/
  | ringSlotComplete (core : Nat) (ring : Nat)
  /-- CANARY_DONE (R57): The canary sums are latched and compared; a failure reruns the canary once, and a second failure makes the core FAILED with cause CANARY. -/
  | canaryDone (core : Nat) (main : Nat) (early : Nat) (late : Nat) (again : Nat)
  /-- STEP_BOUNDARY (R239): A step boundary falls at a rack time when the step period divides rack time less the phase. -/
  | stepBoundary
  /-- CORE_PARKED (R135): The last core is parked, every context parked and every started unit instruction complete, which marks moment A of the pause. -/
  | coreParked (core : Nat)
  /-- SNAPSHOT_STAGING_DONE (R419): The staging engines finish copying dirty pages, the snapshot mark is journalled and the cores resume. -/
  | snapshotStagingDone
  /-- BUDGET_PERIOD_BOUNDARY (R261): At each budget period boundary every budget counter is set to its effective budget and every pool is refilled. -/
  | budgetPeriodBoundary
  /-- BUDGET_EXHAUSTED (R263): A budget counter reaches zero or too little to cover the next charge and the resource is gated for that activity in the next cycle. -/
  | budgetExhausted (act : Nat) (res : Nat) (inst : Nat)
  /-- IMG_BEGIN (R227): IMG_CTL.begin discards any partial image and starts receiving an image of the captured kind. -/
  | imgBegin (port : Nat) (kind : Nat)
  /-- IMG_DATA_WRITE (R229): A write to the IMG_DATA window appends whole words, abandons the load on a partial word, or sets stray outside RECEIVING. -/
  | imgDataWrite (port : Nat) (size : Nat) (words : List Word)
  /-- IMG_COMMIT (R230): IMG_CTL.commit starts the check run, or is refused with BUSY or ignored as stray. -/
  | imgCommit (port : Nat)
  /-- IMG_ABORT (R247): IMG_CTL.abort discards a received image outside CHECKING. -/
  | imgAbort (port : Nat)
  /-- IMG_CHECK_DONE (R227): The check run ends, IMG_RESULT is written, vector 1 is sent and a base image takes effect or an overlay becomes resident. -/
  | imgCheckDone
  /-- CMD_NOP (R292): The NOP command completes at once with no effect. -/
  | cmdNop (port : Nat) (tag : Nat)
  /-- START (R292): The START command accepts a mask of activities to start at the first step boundary at least 100 µs later. -/
  | start (port : Nat) (tag : Nat)
  /-- STOP (R292): The STOP command stops every context of the named RUNNING activities and makes them STOPPED. -/
  | stop (port : Nat) (tag : Nat)
  /-- TEARDOWN (R290): The TEARDOWN command empties the staging FIFOs and rings of the named activities and makes them IDLE. -/
  | teardown (port : Nat) (tag : Nat)
  /-- APPLY (R238): The APPLY command starts the check of a new active set of resident overlays. -/
  | apply (port : Nat) (tag : Nat)
  /-- SNAPSHOT_NOW (R292): The SNAPSHOT_NOW command requests a snapshot at the next step boundary. -/
  | snapshotNow (port : Nat) (tag : Nat)
  /-- DIE_RESET (R203): The DIE_RESET command fences, resets and reloads one compute die. -/
  | dieReset (port : Nat) (tag : Nat)
  /-- MODULE_RESET (R292): The MODULE_RESET command, with the serial as argument, schedules a module reset 1 ms after completion. -/
  | moduleReset (port : Nat) (tag : Nat)
  /-- MODULE_RESET_EXECUTE (R292): 1 ms after a MODULE_RESET completes the module resets as MOD_RESET_N would, with start cause 2. -/
  | moduleResetExecute
  /-- TEST_ENTER (R280): The TEST_ENTER command moves the module from READY to TEST. -/
  | testEnter (port : Nat) (tag : Nat)
  /-- DUMP_OPEN (R292): The DUMP_OPEN command opens space 0x5 of the memory access port and returns the dump length. -/
  | dumpOpen (port : Nat) (tag : Nat)
  /-- TOKEN_NONCE (R294): The TOKEN_NONCE command returns a new 48-byte nonce for the port, replacing any live one. -/
  | tokenNonce (port : Nat) (tag : Nat)
  /-- TOKEN_CLAIM (R295): The TOKEN_CLAIM command checks a signed claim and moves the owner-host token to the claiming port. -/
  | tokenClaim (port : Nat) (tag : Nat)
  /-- CMD_UNKNOWN_OPCODE (R292): A push with opcode 0x0C to 0xFF completes with BAD_FORMAT. -/
  | cmdUnknownOpcode (port : Nat) (opcode : Nat) (tag : Nat)
  /-- CMD_PUSH_BUSY (R291): A write to HPx_CMD_PUSH while a command is BUSY is ignored and sets overrun. -/
  | cmdPushBusy (port : Nat)
  /-- CMD_COMPLETE (R291): A command completes, its results and code are written, its state becomes DONE and vector 0 is sent. -/
  | cmdComplete (port : Nat)
  /-- NONCE_EXPIRY (R294): A live token nonce expires 10 s after it was issued. -/
  | nonceExpiry (port : Nat)
  /-- APPLY_CHECK_DONE (R238): The check of an active-set change ends and the change becomes WAITING with shadow tables prepared, or fails with its code. -/
  | applyCheckDone
  /-- ROUTING_BANK_RETRY (R243): A routing bank write refused with EPOCH_BUSY is retried every 10 µs and cancelled after 5 ms. -/
  | routingBankRetry
  /-- APPLY_RECHECK_DONE (R244): The second check ends and the change is cancelled, kept for its boundary or moved to a later boundary. -/
  | applyRecheckDone
  /-- DIE_RELOAD_DONE (R203): A per-die reload ends in RUN with activity 0 contexts restarted, or returns to FENCED. -/
  | dieReloadDone (die : Nat) (ok : Bool)
  /-- STREAM_WRITE (R286): A write TLP to an input stream aperture is appended whole within credit or dropped and counted. -/
  | streamWrite (host : Nat) (port : Nat) (offset : Nat) (aligned : Bool) (words : List Word)
  /-- STREAM_WORD_DELIVER (R287): Input words move in order from staging to their ring, far ring, journal or SGU destination. -/
  | streamWordDeliver (port : Nat)
  /-- STREAM_READ (R288): A read of an output stream aperture returns and consumes the port's words, or all ones where empty or not permitted. -/
  | streamRead (host : Nat) (port : Nat) (aligned : Bool) (count : Nat)
  /-- STREAM_CLEAR_DROPPED (R301): Writing clear_dropped clears the dropped count of a stream port. -/
  | streamClearDropped (host : Nat) (port : Nat)
  /-- MSIX_MODERATION_END (R300): At the end of a moderation interval the merged stream vector conditions send one message. -/
  | msixModerationEnd (host : Nat)
  /-- MAP_DATA_READ (R297): A read of the MAP_DATA window reaches the word at MAP_ADDR if a MAP record permits it, and advances MAP_ADDR. -/
  | mapDataRead (host : Nat)
  /-- MAP_DATA_WRITE (R297): A write from the token holder to the MAP_DATA window reaches the word at MAP_ADDR if a MAP record permits it. -/
  | mapDataWrite (host : Nat) (data : Word)
  /-- PERST_ACCEPTED (R533): PERST_N low for 1 ms resets one host port's controller, configuration space, MSI-X table, command state and MAP registers. -/
  | perstAccepted (host : Nat)
  /-- PERST_RELEASE (R533): PERST_N going high lets the port train, or counts a short pulse. -/
  | perstRelease (host : Nat) (lowNs : Nat)
  /-- FUNCTION_LEVEL_RESET (R278): A function level reset resets a host port as PERST_N does with the link kept up. -/
  | functionLevelReset (host : Nat)
  /-- D3COLD_ENTRY (R278): Entry to D3cold turns a host port's link off. -/
  | d3coldEntry (host : Nat)
  /-- D3COLD_EXIT (R278): Return to D0 from D3cold resets the port as PERST_N does. -/
  | d3coldExit (host : Nat)
  /-- HOST_LINK_DOWN (R278): A surprise host link down loses TLPs in flight and words whose read completions are lost. -/
  | hostLinkDown (host : Nat) (lostReads : List (Nat × Nat))
  /-- DIE_CLOCK_LOSS (R200): The hub detector counts 64 HCLK without a returned clock edge from a die and fences it. -/
  | dieClockLoss (die : Nat)
  /-- NEIGHBOUR_CLOCK_LOSS (R200): A neighbour's detector counts 64 ACLK without a forwarded clock edge and fences its end of the link. -/
  | neighbourClockLoss (die : Nat) (west : Bool)
  /-- ACLK_LOSS (R199): A die's ACLK monitor sees no ACLK edge for 16 DCLK and stops the die's forwarded and returned clocks. -/
  | aclkLoss (die : Nat)
  /-- LINK_FLIT_RX (R187): A die-link flit is received, checked by CRC and acknowledged, or resent from the replay buffer. -/
  | linkFlitRx (die : Nat) (link : Nat) (flit : LinkFlit)
  /-- LANE_ERROR_WINDOW (R187): A 1 ms parity error window of a die-link lane ends and its count restarts. -/
  | laneErrorWindow (die : Nat) (link : Nat) (lane : Nat) (errors : Nat)
  /-- LINK_LANE_FAIL (R188): A die-link lane fails and the link maps a spare, switches width, is removed, or fences the die. -/
  | linkLaneFail (die : Nat) (link : Nat) (lane : Nat)
  /-- LINK_RETRAIN_DONE (R190): A die-link retrain completes and the link resumes sending at the width in force. -/
  | linkRetrainDone (die : Nat) (link : Nat) (good : List Nat)
  /-- XBAR_GRANT (R197): A crossbar output grants a head with credit and budget and charges all its flits to both instances. -/
  | xbarGrant (out : Nat) (inp : Nat)
  /-- LIGHT_LINE_LOST (R310): A comb line below +6.0 dBm for 100 µs is lost, failing its transmit lanes and halving hub links when the whole fibre is lost. -/
  | lightLineLost (fibre : Nat) (lines : Nat)
  /-- LIGHT_LINE_PRESENT (R310): A comb line above +6.5 dBm for 1 ms is present again. -/
  | lightLinePresent (fibre : Nat) (line : Nat)
  /-- SP_LOCK_DONE (R311): A Selvage port's modulators and filters are locked to its lines and training begins. -/
  | spLockDone (p : Nat) (locked : Nat)
  /-- SP_TRAINING_DONE (R311): Training ends with equalisers adapted, lanes deskewed, the round trip measured and failing lanes removed. -/
  | spTrainingDone (p : Nat) (rtt : Nat) (failed : Nat) (farFailed : Nat)
  /-- SP_FEC_LOCK_DONE (R311): Codeword alignment is locked on every lane in use and frames begin. -/
  | spFecLockDone (p : Nat)
  /-- SP_BRINGUP_TIMEOUT (R312): A bring-up step exceeds its bound and the port reports LINK_DOWN and backs off. -/
  | spBringupTimeout (p : Nat)
  /-- SP_BACKOFF_EXPIRY (R312): The back-off interval ends and the port tries bring-up again. -/
  | spBackoffExpiry (p : Nat)
  /-- IDENT_SEND (R314): The periodic IDENT timer sends the port's IDENT or verdict every 10 µs, or every 1 s while held. -/
  | identSend (p : Nat)
  /-- IDENT (R315): A received IDENT is judged against the WIRING record and the port goes on, or becomes MISWIRED or LEVEL_MISMATCH. -/
  | ident (p : Nat) (msg : Bytes)
  /-- LHELLO (R466): A partner's LHELLO with its nonce and ephemeral key is received. -/
  | lhello (p : Nat) (msg : Bytes)
  /-- LATTEST (R467): A partner's LATTEST is judged and the port proceeds to keying or becomes UNATTESTED. -/
  | lattest (p : Nat) (msg : Bytes)
  /-- LFINISH (R468): A partner's LFINISH tag is verified and the port becomes UP, or UNATTESTED on failure. -/
  | lfinish (p : Nat) (msg : Bytes)
  /-- ATTEST_RETRY (R323): An UNATTESTED port retries attestation after 1 s, 2 s and 4 s and becomes DISABLED at the fourth failure. -/
  | attestRetry (p : Nat)
  /-- SP_FRAME_RX (R304): A Selvage frame is received, checked by CRC and link tag, acknowledged and its flits and credits taken, or replay is requested. -/
  | spFrameRx (p : Nat) (frame : SpFrame)
  /-- WIDTH_ORDER (R319): A width order in a link control flit is merged with the local mask and both ends switch width at the named frame. -/
  | widthOrder (p : Nat) (farMask : Nat) (switchAt : Nat)
  /-- SP_LANE_FAIL (R317): A Selvage lane fails and the port computes a new width from the lane masks. -/
  | spLaneFail (p : Nat) (lanes : Nat)
  /-- SP_UNC_WINDOW (R317): A 1 ms window of uncorrectable codeword counting per lane ends. -/
  | spUncWindow (p : Nat) (counts : List Nat)
  /-- SP_CREDIT_WATCHDOG (R322): A virtual channel without partner credit for credit_wd µs sets slow and is counted. -/
  | spCreditWatchdog (p : Nat) (vc : Nat)
  /-- SP_STALL_LIMIT (R322): A virtual channel without credit for stall_limit µs takes the port down with cause STALL. -/
  | spStallLimit (p : Nat) (vc : Nat)
  /-- SP_RETRAIN_DONE (R320): A restore retrain of every lane completes and the port resumes at the width its lanes allow. -/
  | spRetrainDone (p : Nat) (out : Retrain)
  /-- LINK_REKEY (R470): A sender's frame count reaches 2^32 and it switches to updated link keys at a named frame. -/
  | linkRekey (p : Nat)
  /-- STORE (R337): A STORE packet passes the home ingress checks and is applied, parked or refused with a NACK. -/
  | store (p : Nat) (pkt : Packet)
  /-- LOAD (R337): A LOAD packet passes the home ingress checks and is answered with LOAD_RSP or a NACK. -/
  | load (p : Nat) (pkt : Packet)
  /-- ATOMIC (R335): An atomic request is checked at the home and applied, with or without return of the old value. -/
  | atomic (p : Nat) (pkt : Packet)
  /-- LOAD_RSP (R356): A load response writes its data to the destination SRAM, or is dropped if the load has timed out. -/
  | loadRsp (p : Nat) (pkt : Packet)
  /-- ATOMIC_RSP (R352): An atomic response returns the old value and counts as the atomic's acknowledgement. -/
  | atomicRsp (p : Nat) (pkt : Packet)
  /-- ACK (R354): An acknowledgement raises the pair's acknowledged count and may complete fences and release a flagged stream. -/
  | ack (p : Nat) (pkt : Packet)
  /-- NACK (R355): A NACK completes a load or atomic with its code, or marks a store acknowledged and triggers retry for PARK_FULL or BUSY. -/
  | nack (p : Nat) (pkt : Packet)
  /-- DRAIN (R359): A drain marker for the old epoch arrives on an input and may release markers on outputs it feeds. -/
  | drain (p : Nat) (vc : Nat) (epoch : Nat)
  /-- LEASE (R367): A LEASE packet is accepted when its serial, term, number and expiry are valid, or dropped and counted. -/
  | lease (p : Nat) (pkt : Packet)
  /-- LEASE_EXPIRY (R368): The lease in force reaches its expiry in rack time. -/
  | leaseExpiry
  /-- TEARDOWN_PACKET (R357): A TEARDOWN packet from a fabric manager device stops and tears down every activity with the named job key. -/
  | teardownPacket (p : Nat) (pkt : Packet)
  /-- MGMT (R471): A MGMT message to or from the MGC is delivered by its kind. -/
  | mgmt (p : Nat) (pkt : Packet)
  /-- STAND_IN_ORDER (R442): A spare checks a stand-in order and begins ripening the lost rank. -/
  | standInOrder (p : Nat) (pkt : Packet)
  /-- KEY_LEAD (R472): The leader generates a job key if needed and adds the listed devices to its list. -/
  | keyLead (p : Nat) (pkt : Packet)
  /-- KEY_FETCH (R472): A member starts fetching a job key from the leader with KREQ messages. -/
  | keyFetch (p : Nat) (pkt : Packet)
  /-- KEY_DROP (R472): A job key is erased unless an activity that names it is RUNNING. -/
  | keyDrop (p : Nat) (pkt : Packet)
  /-- KREQ (R472): The leader checks a member's request and answers with a wrapped key or a refusal code. -/
  | kreq (p : Nat) (pkt : Packet)
  /-- KRESP (R472): A member checks the leader's report and installs the unwrapped job key. -/
  | kresp (p : Nat) (pkt : Packet)
  /-- KREQ_RETRY (R472): A member resends KREQ every 10 ms and logs KEY_UNKNOWN after 1 s without a response. -/
  | kreqRetry (key : Nat)
  /-- FJ_TRANSIT (R345): A packet not addressed to this module is routed onward as transit and charged to activity 255. -/
  | fjTransit (p : Nat) (pkt : Packet)
  /-- INGRESS_APPLY (R361): The home ingress applies a queued packet to its 64-byte line, one per cycle per line. -/
  | ingressApply (line : Nat)
  /-- PARK_TIMEOUT (R351): A packet parked for park_timeout is discarded and its stream's follow counter is set to zero. -/
  | parkTimeout (idx : Nat)
  /-- ACK_TIMEOUT (R353): A pair's oldest unacknowledged packet passes ack_timeout and the pair is marked lost. -/
  | ackTimeout (core : Nat) (dev : Nat) (chan : Nat)
  /-- LOAD_TIMEOUT (R356): A load without response by load_timeout completes with TARGET_DEAD and its destination is poisoned. -/
  | loadTimeout (idx : Nat)
  /-- FJ_RETRY (R350): A packet refused with PARK_FULL or BUSY is resent after retry_delay with the epoch in force. -/
  | fjRetry (idx : Nat)
  /-- COLL_ANCHOR (R396): An ANCHOR packet carries block maxima that are combined under integer maximum. -/
  | collAnchor (p : Nat) (pkt : Packet)
  /-- COLL_REDUCE (R397): A REDUCE packet carries partials that are residue-checked and added into the accumulated chunk. -/
  | collReduce (p : Nat) (pkt : Packet)
  /-- COLL_GATHER (R397): A GATHER packet carries final values that are stored in the CLE's buffers. -/
  | collGather (p : Nat) (pkt : Packet)
  /-- COLL_DONE (R400): Rank 0 receives a DONE and sends COMMIT to every rank once it has them all. -/
  | collDone (p : Nat) (pkt : Packet)
  /-- COLL_COMMIT (R400): A member receives COMMIT, writes its destinations and completes its local COLLs with OK. -/
  | collCommit (p : Nat) (pkt : Packet)
  /-- COLL_ABORT (R401): A received ABORT aborts the call, discards its buffers and completes its COLLs with the code. -/
  | collAbort (p : Nat) (pkt : Packet)
  /-- STEP_DEADLINE (R401): A collective step's timer passes the group deadline and the call aborts with STEP_TIMEOUT. -/
  | stepDeadline (group : Nat)
  /-- PAIR (R430): A PAIR request is checked by ward, feed rule and space, and answered with PAIR_REPLY. -/
  | pair (p : Nat) (pkt : Packet)
  /-- PAIR_REPLY (R430): A PAIR_REPLY makes the module PAIRED, or REFUSED with the code. -/
  | pairReply (p : Nat) (pkt : Packet)
  /-- PAIR_RETRY (R430): An unpaired or refused module retries pairing once per second. -/
  | pairRetry
  /-- PAGE (R432): A PAGE packet writes one Muslin page into the ward's frame. -/
  | page (p : Nat) (pkt : Packet)
  /-- RECORD (R432): A RECORD packet writes part of a schedule record into the frame's record area. -/
  | record (p : Nat) (pkt : Packet)
  /-- SEAL (R423): A flagged SEAL packet makes the ward's frame current. -/
  | seal (p : Nat) (pkt : Packet)
  /-- JOURNAL (R426): A JOURNAL packet writes journal entries into the partner's JOURNAL sub-area. -/
  | journal (p : Nat) (pkt : Packet)
  /-- DELTA (R436): A DELTA packet updates P or Q of a stripe and is appended to the delta log. -/
  | delta (p : Nat) (pkt : Packet)
  /-- FETCH (R443): A FETCH request returns a frame, journal or stripe chain portion to a ripening spare. -/
  | fetch (p : Nat) (pkt : Packet)
  /-- REBUILD (R438): A REBUILD packet carries a running sum along a chain that rebuilds a lost unit. -/
  | rebuild (p : Nat) (pkt : Packet)
  /-- RESYNC (R433): A RESYNC makes the ward PAIRING and stream its whole Muslin set. -/
  | resync (p : Nat) (pkt : Packet)
  /-- RIPENING_DONE (R443): Every part of the lost rank's state has arrived and passed its checks, and the spare becomes RIPE. -/
  | ripeningDone
  /-- REPLAY_BOUNDARY (R427): During replay a boundary is taken when all contexts are parked and the journal is replayed to its mark; replay ends after the last entry. -/
  | replayBoundary
  /-- SENSOR_SAMPLE (R498): Each sensor is sampled every 8 µs and its filtered value updated. -/
  | sensorSample (raw : List (Nat × Nat))
  /-- REFRESH_STEP_DOWN (R161): A filtered value more than 3 °C below a threshold for 10 ms lowers the refresh rate. -/
  | refreshStepDown (loc : Nat)
  /-- DRAM_REFRESH (R160): A channel's refresh interval expires and it holds its command slots for a refresh. -/
  | dramRefresh (channel : Nat)
  /-- HOT_STATE_RETURN (R499): A location below its return value for 10 ms leaves its hot state. -/
  | hotStateReturn (loc : Nat)
  /-- CONVERTER_SELF_TEST (R501): Every 100 ms each converter tests itself and a failure fails every sensor it measures. -/
  | converterSelfTest (failed : List Nat)
  /-- TRIP_RESTART (R503): 100 ms after the trip record the module starts with only the hub rail on and enters TRIPPED. -/
  | tripRestart
  /-- TRIP_ACK (R505): A TRIP_ACK write matching pending_seq acknowledges the trip records, or sets ack_bad. -/
  | tripAck (port : Nat) (seq : Nat)
  /-- ALERT_ASSERTED (R541): THERM_ALERT_IN_N low for 100 µs is taken as asserted and caps every die's budget scale at 0.75. -/
  | alertAsserted
  /-- ALERT_REMOVED (R541): THERM_ALERT_IN_N high for 1 ms is taken as removed. -/
  | alertRemoved
  /-- ALERT_SCALE_RELEASE (R500): The alert's budget cap is released 10 ms after the alert is removed. -/
  | alertScaleRelease
  /-- ALERT_LATCHED (R541): An alert lasting more than 10 s, or too frequent, is latched as a fault and ignored until rearmed. -/
  | alertLatched
  /-- GOVERNOR_CHECK (R506): Every 1 ms the governor steps g down by 4 or 1 when the power exceeds the cap thresholds. -/
  | governorCheck (meanW : Nat)
  /-- POWER_WINDOW_END (R506): At the end of a 10 ms window g steps up when power was low, pending caps take effect and cap_unmet is judged. -/
  | powerWindowEnd (meanW : Nat)
  /-- PWR_CAP_WRITE (R507): A write to PWR_CAP sets the cap from the second window boundary, or sets cap_refused when out of range. -/
  | pwrCapWrite (port : Nat) (cap : Nat)
  /-- INPUT_POWER_FAIL (R529): The 48 V input out of range for 20 µs turns the main rails off in order within 50 µs. -/
  | inputPowerFail (dv : Nat)
  /-- INPUT_POWER_RESTORED (R529): The 48 V input in range for 100 ms leads to a module start with cause 4. -/
  | inputPowerRestored (dv : Nat)
  /-- AUX_POWER_FAIL (R530): AUX_3V3 below 3.0 V for 10 µs shuts down the always-on domain and the main rails. -/
  | auxPowerFail
  /-- AUX_POWER_UP (R531): AUX_3V3 in range for 1 ms starts the module with cause 0. -/
  | auxPowerUp
  /-- STRAP_CHANGE (R534): A strap changing after sampling sets PIN_STRAPS.changed and is logged once per start. -/
  | strapChange (slot : Nat) (rack : Nat) (feed : Nat)
  /-- BOOT_READY (R489): New firmware reaching READY makes its slot active, blows rollback fuses and logs the update. -/
  | bootReady
  /-- UPDATE_WATCHDOG (R489): New firmware not at READY within 10 s resets the module to boot the active slot. -/
  | updateWatchdog
  /-- MOD_RESET_ACCEPTED (R533): MOD_RESET_N low for 1 ms holds the module and the MGC in reset. -/
  | modResetAccepted
  /-- MOD_RESET_RELEASE (R533): MOD_RESET_N going high starts the module with cause 1 after 10 µs, or counts a short pulse. -/
  | modResetRelease (lowNs : Nat)
  /-- MGC_WATCHDOG (R516): Expiry of the MGC watchdog of 100 ms is a fatal error. -/
  | mgcWatchdog
  /-- DUMP_COMPLETE (R517): The dump head, tag table and segments are written and the module enters DUMPED. -/
  | dumpComplete
  /-- RACKTICK_EDGE (R536): A RACKTICK pulse is accepted, dropped as early or counted for phase or width, and decoded into the tick frame. -/
  | racktickEdge (interval : Nat) (width : Nat)
  /-- RACKCLK_LOST (R535): No RACKCLK edge for 100 ns puts the module in holdover on its oscillator. -/
  | rackclkLost
  /-- TICK_TIMEOUT (R539): No tick accepted for 8 ms puts the module in holdover. -/
  | tickTimeout
  /-- SLEW_COMPLETE (R539): The rack time offset reaches zero and slewing ends. -/
  | slewComplete
  /-- TIME_OFFSET_UPDATE (R540): Once per second a long port places the measured partner rack-time offset in TIME_OFFSETj. -/
  | timeOffsetUpdate (j : Nat) (offset : Int)
  /-- FMC_ERROR_WINDOW (R175): A 1,000 ms window of corrected-symbol counting per far channel ends. -/
  | fmcErrorWindow (stack : Nat) (channel : Nat)
  /-- RETIRE_COPY_DONE (R176): The last granule of a retiring channel is copied and the state becomes COPIED. -/
  | retireCopyDone (stack : Nat)
  /-- PATROL_SCRUB (R155): The patrol scrub reads a word and writes back a corrected single-bit error unless newer data has been written. -/
  | patrolScrub (tier : Nat) (addr : Nat) (newer : Bool)
  /-- MARGIN_START (R180): FMC_MARGIN_CTL.start checks a margin request and runs a PRBS test on a far channel. -/
  | marginStart (port : Nat)
  /-- MARGIN_DONE (R180): A margin run ends, nominal settings are restored and FMC_MARGIN_RESULT shows the outcome. -/
  | marginDone (errors : Nat) (firstLine : Nat)
  /-- CLEAR_RETIRE (R178): In TEST, clear_retire undoes a channel retirement at the next start. -/
  | clearRetire (port : Nat) (stack : Nat)
  /-- SGU_ANALYSIS_FRAME (R109): The SGU turns one analysis input frame into a feature frame in a core ring. -/
  | sguAnalysisFrame (chan : Nat)
  /-- SGU_SYNTHESIS_FRAME (R110): The SGU turns one synthesis frame of 16 kHz samples into 8 kHz output for the host. -/
  | sguSynthesisFrame (chan : Nat)
  /-- HAUNO_ACCESS (R483): A Hauno core access to a space is performed within its HAUNO ranges or raises an access fault. -/
  | haunoAccess (core : Nat) (level : Nat) (space : Nat) (unit : Nat) (addr : Nat) (size : Nat) (write : Bool) (data : Nat)
  /-- HLC_SIG (R485): A Hauno write to HLC_SIG adds a value to a matrix core counter if permitted. -/
  | hlcSig (core : Nat) (data : Nat)
  /-- HAUNO_TIMER (R485): HLC_TIME reaches HLC_TIMER and the timer interrupt is raised. -/
  | haunoTimer (core : Nat)
  /-- MBOX_BEGIN (R460): RIND_MBOX_CTL.begin discards any partial message and starts receiving. -/
  | mboxBegin (port : Nat)
  /-- MBOX_IN_WRITE (R460): A write to the RIND_MBOX_IN window appends whole words, or sets stray. -/
  | mboxInWrite (port : Nat) (size : Nat) (words : List Word)
  /-- MBOX_COMMIT (R460): RIND_MBOX_CTL.commit submits the message for handling in commit order, or sets stray while BUSY. -/
  | mboxCommit (port : Nat)
  /-- MBOX_ABORT (R493): RIND_MBOX_CTL.abort discards a message being received. -/
  | mboxAbort (port : Nat)
  /-- MBOX_OUT_READ (R460): A read of the RIND_MBOX_OUT window returns and consumes the next response word. -/
  | mboxOutRead (port : Nat)
  /-- MBOX_BAD_MESSAGE (R461): A message with a bad head, type or length, or from a wrong port or state, is answered with BAD_FORMAT or NOT_PERMITTED. -/
  | mboxBadMessage (port : Nat)
  /-- ATTEST (R465): An ATTEST message returns a signed attestation report and the certificate chain. -/
  | attest (port : Nat)
  /-- OWNER_ENROL (R463): The first owner public key is enrolled after its checks. -/
  | ownerEnrol (port : Nat)
  /-- OWNER_TRANSFER (R464): An owner order erases the owner, dump and lease keys and names a pending new owner. -/
  | ownerTransfer (port : Nat)
  /-- KEY_INSTALL (R464): An owner order installs a wrapped lease key or a dump public key. -/
  | keyInstall (port : Nat)
  /-- CHAN_OPEN (R475): A data owner's endpoint opens or rekeys a secure channel under an owner grant. -/
  | chanOpen (port : Nat)
  /-- CHAN_CLOSE (R476): An authenticated close erases a secure channel's keys. -/
  | chanClose (port : Nat)
  /-- CHAN_STATUS (R476): A query returns whether a channel is open and its next record numbers. -/
  | chanStatus (port : Nat)
  /-- DEBUG_UNLOCK (R481): A doubly signed order blows debug_ever, erases the keys, takes ports down and opens JTAG. -/
  | debugUnlock (port : Nat)
  /-- FW_BEGIN (R488): A firmware update begins into the idle slot, or is refused with BUSY. -/
  | fwBegin (port : Nat)
  /-- FW_DATA (R488): A block of the firmware package is written at the next offset. -/
  | fwData (port : Nat)
  /-- FW_END (R488): The package is checked and the idle slot is named next with a try count of 1. -/
  | fwEnd (port : Nat)
  /-- PLDM_MESSAGE (R495): An MCTP or PLDM message over SMBus is answered for base, platform monitoring or firmware update. -/
  | pldmMessage (msg : PldmMsg)
  /-- ARR_CANARY_NOW (R71): ARR_CTL.canary_now requests a canary at the next snapshot or maintenance pause. -/
  | arrCanaryNow (port : Nat) (core : Nat)
  /-- ARR_CLEAR_COUNTS (R71): ARR_CTL.clear_counts clears the array check and retry counters. -/
  | arrClearCounts (port : Nat) (core : Nat)
  /-- ARR_INJECT_ARM (R79): In TEST, ARR_INJECT.arm flips one bit of a column sum in the next checked pass. -/
  | arrInjectArm (port : Nat) (core : Nat) (bit : Nat) (column : Nat)
  /-- SEQ_TEST_STEP (R147): In TEST, test_step lets each held context issue one instruction. -/
  | seqTestStep (port : Nat) (core : Nat)
  /-- SEQ_CLEAR_STALL (R147): SEQ_CTL.clear_stall clears SEQ_ARR_STALL. -/
  | seqClearStall (port : Nat) (core : Nat)
  /-- MEM_CLEAR_COUNTS (R183): MEM_CTL.clear_counts clears the SRAM and bonded ECC counters of a core. -/
  | memClearCounts (port : Nat) (core : Nat)
  /-- FMC_CLEAR_COUNTS (R184): FMC_CTL.clear_counts clears every FMC_CH_ERR. -/
  | fmcClearCounts (port : Nat)
  /-- DL_RESTORE (R193): DL_CTL.restore retrains every degraded link of the die at the next snapshot pause. -/
  | dlRestore (port : Nat) (die : Nat)
  /-- DL_CLEAR_COUNTS (R213): DL_CTL.clear_counts clears the die link counters. -/
  | dlClearCounts (port : Nat) (die : Nat)
  /-- DL_TEST_FAIL (R213): In TEST, DL_CTL.test_fail declares a named die-link lane failed. -/
  | dlTestFail (port : Nat) (die : Nat) (link : Nat) (lane : Nat)
  /-- CLK_CLEAR_LOW (R216): CLK_ACLKd.clear_low sets the lowest ACLK mean to 0x7FF. -/
  | clkClearLow (port : Nat) (die : Nat)
  /-- SGU_CLEAR_COUNTS (R112): SGU_CTL.clear_counts clears the frame, drop and gap counts of every SGU channel. -/
  | sguClearCounts (port : Nat)
  /-- BUD_CLEAR_COUNTS (R272): BUD_CTL.clear_counts clears the gated counts and unknown_act. -/
  | budClearCounts (port : Nat)
  /-- SP_RESTORE (R320): SP_CTL.restore retrains a degraded Selvage port at the next snapshot pause. -/
  | spRestore (port : Nat) (p : Nat)
  /-- SP_REENABLE (R323): SP_CTL.reenable re-enables a DISABLED port and clears its failure count. -/
  | spReenable (port : Nat) (p : Nat)
  /-- SP_CLEAR_COUNTS (R326): SP_CTL.clear_counts clears the Selvage port counters. -/
  | spClearCounts (port : Nat) (p : Nat)
  /-- SP_TEST_FAIL (R326): In TEST, SP_CTL.test_fail declares a named Selvage lane failed. -/
  | spTestFail (port : Nat) (p : Nat) (lane : Nat)
  /-- FJ_CLEAR_COUNTS (R372): FJ_CTL.clear_counts clears the Fjarux counters. -/
  | fjClearCounts (port : Nat)
  /-- CLE_CLEAR_COUNTS (R407): CLE_CTL.clear_counts clears the CLE counters. -/
  | cleClearCounts (port : Nat)
  /-- CLE_INJECT_RESIDUE (R407): In TEST, inject_residue flips the residue of the next adder result. -/
  | cleInjectResidue (port : Nat)
  /-- KPU_CLEAR_COUNTS (R452): KPU_CTL.clear_counts clears the KPU counters. -/
  | kpuClearCounts (port : Nat)
  /-- KPU_FULL_NEXT (R452): KPU_CTL.full_next makes the next snapshot stream every page. -/
  | kpuFullNext (port : Nat)
  /-- ERU_CLEAR_COUNTS (R455): ERU_CTL.clear_counts clears the ERU counters. -/
  | eruClearCounts (port : Nat)
  /-- RIND_CLEAR_COUNTS (R493): RIND_MBOX_CTL.clear_counts clears the Rind counters. -/
  | rindClearCounts (port : Nat)
  /-- ALERT_REARM (R520): MGT_CTL.alert_rearm clears a latched thermal alert. -/
  | alertRearm (port : Nat)
  /-- MGT_CLEAR_COUNTS (R520): MGT_CTL.clear_counts clears MGT_HUB_ECC and PMC_DENIED. -/
  | mgtClearCounts (port : Nat)
  /-- PIN_CLEAR_COUNTS (R548): PIN_CTL.clear_counts clears the pin and rack-time counters. -/
  | pinClearCounts (port : Nat)
  /-- RECEIVED_LIGHT_ABOVE_LOS (R312): Received light on a Selvage port first rises above the loss-of-signal level, and the port returns to step 1 at once with its back-off interval reset to 1 ms. -/
  | receivedLightAboveLos (p : Nat)
  /-- RACKCLK_RESTORED (R539): RACKCLK returns after loss, the TCLK PLL relocks and TCLK counts from RACKCLK again instead of the oscillator. -/
  | rackclkRestored
  /-- HOST_LINK_UP (R283): A host port's PCI Express link completes training and reaches L0, setting GLB_STATUS.hpa_up or hpb_up. -/
  | hostLinkUp (host : Nat)
  /-- JTAG_ACCESS (R481): A JTAG access on TCK, TMS and TDI is answered with BYPASS and IDCODE only while locked, or in full while unlocked. -/
  | jtagAccess (instr : Nat) (data : Nat)
  /-- MGC_SRAM_UNCORRECTABLE (R516): An uncorrectable error in the hub SRAM of the MGC or in the loader reserve is a fatal error and starts the dump. -/
  | mgcSramUncorrectable (addr : Nat)
  /-- INTERNAL_PARITY_ERROR (R516): An internal parity error of the crossbar or the hub node is a fatal error and starts the dump. -/
  | internalParityError (hub : Bool)
deriving DecidableEq, Repr

end Sys2Proof
end

