-- ==== Sys2Proof/Decode.lean ====
section
/-!
DEFINITION. The block has no decoder: no row of spec/opcode_table.json gives bits, so no word spells a command.
-/
namespace Sys2Proof

/-- The command that a word spells by the table's bits. The table gives none of its rows any, so the answer is none. -/
def decodeTableWord (_nbits _w : Nat) : Option Instr := none

end Sys2Proof
end

