-- ==== Sys2Proof/Config.lean ====
section
/-!
DEFINITION. What an implementation fixes and what the spec leaves open: free values (no body), and constants of the manual.
-/
namespace Sys2Proof

/-- A value the spec leaves open, taken with a counter that State holds (assumption log 3). -/
opaque Config.freeValue : Nat → Nat

/-- The Rind's random source, one byte per draw (R294, R458). -/
opaque Config.randomByte : Nat → Byte

/-- A byte of far memory or of a keyed SRAM that nothing has written since the start and the key epoch named (R479, R204). -/
opaque Config.farByte : Nat → Nat → Nat → Byte

/-- The bytes of the error-corrected response of the unclonable source of the module with a serial number (R457). -/
opaque Config.unclonable : Nat → Nat → Byte

/-- The version of the general settings that a management firmware writes, by its digest (R490). -/
opaque Config.settingsVersion : List Byte → Nat

/-- The attestation key of a start, by the boot count (R456: random at each start). -/
opaque Config.attestKey : Nat → Nat

/-- The serial number of the attestation key's certificate of a start, by the boot count (R458, RFC 5280): the spec gives none. -/
opaque Config.akSerial : Nat → Nat

/-- The random scalar with which the attestation key's certificate of a start is signed, by the boot count (R458). -/
opaque Config.akSigScalar : Nat → Nat

/-- The contents of the object identifier of the private extension that carries the boot count (R458): the spec gives none. -/
opaque Config.bootCountOid : List Byte

/-- Cycles of a Hauno core's CCLK up to a local time in ns: the firmware's DVFS sets its frequency (R206). -/
opaque Config.cclkCycles : Nat → Nat → Nat

/-- Cycles of a die's ACLK up to a local time in ns: its supply monitor lengthens cycles as it sees droops (R209). -/
opaque Config.aclkCycles : Nat → Nat → Nat

/-- The lowest 1 µs mean of a die's ACLK, in MHz, that ends between two local times in ns (R209, R216). -/
opaque Config.aclkLow : Nat → Nat → Nat → Nat

/-- Occurrences of an event of R515 that only timing inside a unit decides, by the unit, the counter's control word and the local time in ns (R510-R515). -/
opaque Config.timedEvents : Nat → Nat → Nat → Nat

/-- The memory keys of a start, by the boot count, 64 bytes (R456, R479: random at each start). -/
opaque Config.memoryKey : Nat → Nat → Byte

/-- The width and speed that a host port's link negotiates, by port and local time in ns (R277): the host's choice. -/
opaque Config.hostLink : Nat → Nat → Nat

/-- What precedes the frame number in a rekey notice of the handshake stream (R304, R470): the spec gives a notice no layout. -/
opaque Config.rekeyHead : List Byte

/-- Optical power readings, by port, selected lane or line, and 100 µs interval (R329): the light is the world's. -/
opaque Config.opticPower : Nat → Nat → Nat → Nat

end Sys2Proof
end

