-- ==== Sys2Proof/Machine/Bytes.lean ====
section
/-!
DEFINITION. Bit-field, byte-order and table helpers: little-endian numbers in byte strings (R12), signed readings,
saturation, the checksum CRC-32C of R187, sparse tables.
-/
namespace Sys2Proof
namespace Machine

/-- Bits [lo + w - 1 : lo] of a number. -/
def bits (x lo w : Nat) : Nat := x / 2 ^ lo % 2 ^ w

/-- One bit of a number. -/
def bit (x i : Nat) : Bool := x.testBit i

/-- 1 for true. -/
def b2n (b : Bool) : Nat := if b then 1 else 0

/-- `x` with bits [lo + w - 1 : lo] replaced. -/
def setBits (x lo w v : Nat) : Nat := x - bits x lo w * 2 ^ lo + v % 2 ^ w * 2 ^ lo

/-- Two's-complement reading of a `w`-bit number. -/
def sint (w x : Nat) : Int := if x % 2 ^ w < 2 ^ (w - 1) then (x % 2 ^ w : Nat) else (x % 2 ^ w : Nat) - (2 ^ w : Nat)

/-- Two's-complement encoding in `w` bits. -/
def uint (w : Nat) (x : Int) : Nat := (x % (2 ^ w : Nat)).toNat

/-- Addition that stops at `top`. -/
def satAdd (top a b : Nat) : Nat := min top (a + b)

/-- The little-endian number in a byte string (R12). -/
def leNat : Bytes → Nat
  | [] => 0
  | b :: bs => b.toNat + 256 * leNat bs

/-- `n` bytes of a number, little-endian. -/
def leBytes : Nat → Nat → Bytes
  | 0, _ => []
  | n + 1, x => BitVec.ofNat 8 x :: leBytes n (x / 256)

/-- The big-endian number in a byte string (R12: the encodings of published standards). -/
def beNat (bs : Bytes) : Nat := bs.foldl (fun a b => a * 256 + b.toNat) 0

/-- `n` bytes of a number, big-endian. -/
def beBytes (n x : Nat) : Bytes := (leBytes n x).reverse

/-- `n` zero bytes. -/
def zeros (n : Nat) : Bytes := List.replicate n 0

/-- Bytes `off` to `off + n - 1`, zero where the string is shorter. -/
def slice (bs : Bytes) (off n : Nat) : Bytes :=
  let x := (bs.drop off).take n
  x ++ zeros (n - x.length)

/-- The little-endian number in bytes `off` to `off + n - 1`. -/
def fieldAt (bs : Bytes) (off n : Nat) : Nat := leNat (slice bs off n)

/-- The string with the bytes from `off` on replaced by `v`, where it reaches. -/
def putBytes (bs : Bytes) (off : Nat) (v : Bytes) : Bytes :=
  (bs.take off ++ v ++ bs.drop (off + v.length)).take bs.length

/-- Pads a string with zeros to a multiple of `m` bytes. -/
def padTo (m : Nat) (bs : Bytes) : Bytes := bs ++ zeros ((m - bs.length % m) % m)

/-- The string cut into pieces of `n` bytes; `fuel` bounds their number. -/
def chunksF : Nat → Nat → Bytes → List Bytes
  | 0, _, _ => []
  | fuel + 1, n, bs => if bs.isEmpty then [] else bs.take n :: chunksF fuel n (bs.drop n)

/-- The string cut into pieces of `n` bytes. -/
def chunks (n : Nat) (bs : Bytes) : List Bytes := chunksF bs.length n bs

/-- One bit of the CRC-32C register, reflected form. -/
def crcBit (c : Nat) : Nat := if c % 2 = 1 then (c / 2) ^^^ 0x82F63B78 else c / 2

/-- One byte into the CRC-32C register. -/
def crcByte (c : Nat) (b : Byte) : Nat :=
  crcBit (crcBit (crcBit (crcBit (crcBit (crcBit (crcBit (crcBit (c ^^^ b.toNat))))))))

/-- CRC-32C of R187. DEDUCED: the polynomial 0x1EDC6F41 in its usual reflected form with all-ones start and end. -/
def crc32c (bs : Bytes) : Nat := bs.foldl crcByte 0xFFFFFFFF ^^^ 0xFFFFFFFF

/-- Looks a key up in a sparse table. -/
def tget {α : Type} (t : Tab α) (k : Nat) : Option α :=
  match t with
  | [] => none
  | (k', v) :: r => if k' = k then some v else tget r k

/-- Writes a key of a sparse table. -/
def tset {α : Type} (t : Tab α) (k : Nat) (v : α) : Tab α :=
  match t with
  | [] => [(k, v)]
  | (k', v') :: r => if k' = k then (k, v) :: r else if k < k' then (k, v) :: (k', v') :: r else (k', v') :: tset r k v

/-- Removes a key of a sparse table. -/
def tdel {α : Type} (t : Tab α) (k : Nat) : Tab α := t.filter (fun e => decide (e.1 ≠ k))

/-- Looks a key up, with a default. -/
def tgetD {α : Type} (t : Tab α) (k : Nat) (d : α) : α := (tget t k).getD d

/-- Changes the entry of a key, starting from a default. -/
def tmod {α : Type} (t : Tab α) (k : Nat) (d : α) (f : α → α) : Tab α := tset t k (f (tgetD t k d))

/-- The first `n` numbers for which a test holds. -/
def indices (n : Nat) (p : Nat → Bool) : List Nat := (List.range n).filter p

/-- The members of a bit mask below `n`. -/
def maskList (n m : Nat) : List Nat := indices n (fun i => bit m i)

/-- The bit mask of a list. -/
def maskOf (l : List Nat) : Nat := l.foldl (fun m i => m ||| 2 ^ i) 0

/-- Applies a function for each member of a list in turn. -/
def forEach {α σ : Type} (l : List α) (s : σ) (f : σ → α → σ) : σ := l.foldl f s

/-- The first failing check of a list, in order (R18, R231): the code of the first test that holds. -/
def firstFail : List (Bool × Nat) → Nat
  | [] => 0
  | (b, c) :: r => if b then c else firstFail r

/-- The numerically highest code whose test holds (R18: where no order is given). -/
def highestCode (l : List (Bool × Nat)) : Nat := l.foldl (fun m x => if x.1 then max m x.2 else m) 0

/-- Ceiling division. -/
def cdiv (a b : Nat) : Nat := (a + b - 1) / b

/-- Largest of a list of integers. -/
def maxI (l : List Int) : Option Int := l.foldl (fun m x => some (match m with | none => x | some y => max x y)) none

/-- Smallest of a list of integers. -/
def minI (l : List Int) : Option Int := l.foldl (fun m x => some (match m with | none => x | some y => min x y)) none

end Machine
end Sys2Proof
end

