-- ==== Sys2Proof/Machine/Arith.lean ====
section
/-!
DEFINITION. The arithmetic of chapter 3: decoding an element (R80-R82), LF128 (R84, R85), anchored addition (R87),
rounding once (R95-R97), the slices of multi-pass formats (R99) and FP32 arithmetic (R103).
-/
namespace Sys2Proof
namespace Machine

/-- A decoded number (R80): finite with sign, magnitude and exponent of its lowest bit, an infinity or a NaN. -/
inductive Num where
  | fin (neg : Bool) (mag : Nat) (q : Int)
  | inf (neg : Bool)
  | nan
deriving DecidableEq, Repr

/-- A row of the format table of R80. `special` is 0 none, 1 infinities and NaN, 2 NaN only; `ebits` 0 means two's complement. -/
structure Fmt where
  bits : Nat
  ebits : Nat
  fbits : Nat
  bias : Nat
  w : Nat
  special : Nat
  mx : Bool
  four : Bool
deriving DecidableEq, Repr

/-- The format codes of R80; `four` is the 4-bit mode set of R83. -/
def fmtOf : Nat → Option Fmt
  | 0x00 => some ⟨16, 8, 7, 127, 8, 1, false, false⟩
  | 0x01 => some ⟨8, 4, 3, 7, 4, 2, false, false⟩
  | 0x02 => some ⟨8, 5, 2, 15, 3, 1, false, false⟩
  | 0x03 => some ⟨8, 0, 7, 0, 8, 0, false, false⟩
  | 0x04 => some ⟨6, 2, 3, 1, 4, 0, false, true⟩
  | 0x05 => some ⟨6, 3, 2, 3, 3, 0, false, true⟩
  | 0x06 => some ⟨4, 2, 1, 1, 2, 0, false, true⟩
  | 0x07 => some ⟨4, 0, 3, 0, 4, 0, false, true⟩
  | 0x08 => some ⟨16, 5, 10, 15, 11, 1, false, false⟩
  | 0x09 => some ⟨32, 8, 23, 127, 24, 1, false, false⟩
  | 0x0A => some ⟨64, 11, 52, 1023, 53, 1, false, false⟩
  | 0x10 => some ⟨8, 4, 3, 7, 4, 2, true, false⟩
  | 0x11 => some ⟨8, 5, 2, 15, 3, 1, true, false⟩
  | 0x12 => some ⟨6, 2, 3, 1, 4, 0, true, true⟩
  | 0x13 => some ⟨6, 3, 2, 3, 3, 0, true, true⟩
  | 0x14 => some ⟨4, 2, 1, 1, 2, 0, true, true⟩
  | 0x15 => some ⟨8, 0, 7, 0, 8, 0, true, false⟩
  | _ => none

/-- R80: the number an element encodes before any block scale. -/
def decodeRaw (f : Fmt) (raw : Nat) : Num :=
  let x := raw % 2 ^ f.bits
  let neg := bit x (f.bits - 1)
  if f.ebits = 0 then
    .fin neg (sint f.bits x).natAbs 0
  else
    let e := bits x f.fbits f.ebits
    let m := bits x 0 f.fbits
    let emax := 2 ^ f.ebits - 1
    if f.special = 1 && e = emax then (if m = 0 then .inf neg else .nan)
    else if f.special = 2 && e = emax && m = 2 ^ f.fbits - 1 then .nan
    else if e = 0 then .fin neg m (1 - (f.bias : Int) - f.fbits)
    else .fin neg (2 ^ f.fbits + m) ((e : Int) - f.bias - f.fbits)

/-- R81: the block scale X multiplies by 2^(X - 127); 0xFF makes every element of the block NaN. MXINT8 has the factor 2^-6. -/
def scaleNum (f : Fmt) (x : Nat) (n : Num) : Num :=
  if !f.mx then n
  else if x % 256 = 0xFF then .nan
  else match n with
    | .fin s m q => .fin s m (q + (x % 256 : Nat) - 127 - (if f.ebits = 0 then 6 else 0))
    | y => y

/-- True of a NaN. -/
def Num.isNan : Num → Bool
  | .nan => true
  | _ => false
/-- True of an infinity. -/
def Num.isInf : Num → Bool
  | .inf _ => true
  | _ => false
/-- True of a zero. -/
def Num.isZero : Num → Bool
  | .fin _ 0 _ => true
  | _ => false
/-- True of a finite number other than zero. -/
def Num.live : Num → Bool
  | .fin _ (_ + 1) _ => true
  | _ => false
/-- The exponent of a finite number. -/
def Num.exp : Num → Int
  | .fin _ _ q => q
  | _ => 0
/-- The signed magnitude of a finite number. -/
def Num.sig : Num → Int
  | .fin s m _ => if s then -(m : Int) else m
  | _ => 0
/-- The sign. -/
def Num.neg : Num → Bool
  | .fin s _ _ => s
  | .inf s => s
  | .nan => false

/-- R99: the slices of a format, most significant first, as (lowest bit, width). -/
def slicesOf (code : Nat) : List (Nat × Nat) :=
  match code with
  | 0x08 => [(3, 8), (0, 3)]
  | 0x09 => [(16, 8), (8, 8), (0, 8)]
  | 0x0A => [(48, 8), (40, 8), (32, 8), (24, 8), (16, 8), (8, 8), (0, 8)]
  | _ => [(0, 64)]

/-- R99: one slice of an element; NaN and infinities count as zero in a pass (R94 collects them apart). -/
def sliceNum (lo w : Nat) : Num → Num
  | .fin s m q => .fin s (bits m lo w) (q + lo)
  | _ => .fin false 0 0

/-- An LF128 value (R84). -/
structure LF where
  s : Int
  e : Int
  inexact : Bool
  overflow : Bool
  nan : Bool
  pinf : Bool
  ninf : Bool
  invalid : Bool
deriving DecidableEq, Repr

/-- A finite LF128 value with no flags. -/
def LF.ofInt (s e : Int) : LF := ⟨s, e, false, false, false, false, false, false⟩

/-- The unanchored zero of R85. -/
def LF.uzero : LF := LF.ofInt 0 (-32768)

/-- R84: reading a 128-bit value. Both infinity bits without nan read as NaN with invalid. -/
def LF.decode (x : Nat) : LF :=
  let both := bit x 3 && bit x 4 && !bit x 2
  ⟨sint 104 (bits x 24 104), sint 16 (bits x 8 16), bit x 0, bit x 1, bit x 2 || both, bit x 3 && !both, bit x 4 && !both, bit x 5 || both⟩

/-- R84: the class of a value: NaN when nan is set, an infinity when only its bit is set. -/
def LF.isNan (x : LF) : Bool := x.nan || (x.pinf && x.ninf)
/-- True of either infinity. -/
def LF.isInf (x : LF) : Bool := !x.isNan && (x.pinf || x.ninf)
/-- R85: a finite value with S = 0 and E = 0x8000. -/
def LF.isUzero (x : LF) : Bool := !x.isNan && !x.isInf && x.s = 0 && x.e = -32768

/-- R84, R85: writing a value. NaN and infinities have S = 0 and E = 0, an unanchored zero has all flags 0. -/
def LF.encode (x : LF) : Nat :=
  if x.isUzero then 0x800000
  else
    let fl := b2n x.inexact + 2 * b2n x.overflow + 4 * b2n x.isNan + 8 * b2n (!x.isNan && x.pinf)
      + 16 * b2n (!x.isNan && x.ninf) + 32 * b2n x.invalid
    if x.isNan || x.isInf then fl
    else fl + uint 16 x.e * 2 ^ 8 + uint 104 x.s * 2 ^ 24

/-- Shifts right by `n` toward zero; second component: a non-zero bit was discarded. -/
def shrTrunc (x : Int) (n : Nat) : Int × Bool := (x.tdiv (2 ^ n : Nat), decide (x.tmod (2 ^ n : Nat) ≠ 0))

/-- R87: the anchored addition x ⊕ y, step by step. A sum that R87 leaves at the anchor 0x8000 with S other than 0 is written as R87 gives it, though R85 says the
module never produces one (DEDUCED; assumption log 67). -/
def lfAdd (x y : LF) : LF :=
  let ine := x.inexact || y.inexact
  let inv := x.invalid || y.invalid
  let ovf := x.overflow || y.overflow
  let opp := (x.pinf && y.ninf) || (x.ninf && y.pinf)
  if x.isNan || y.isNan then ⟨0, 0, ine, ovf, true, false, false, inv⟩
  else if opp then ⟨0, 0, ine, ovf, true, false, false, true⟩
  else if x.isInf || y.isInf then ⟨0, 0, ine, ovf, false, x.pinf || y.pinf, x.ninf || y.ninf, inv⟩
  else if x.isUzero then ⟨y.s, y.e, ine, ovf, false, false, false, inv⟩
  else if y.isUzero then ⟨x.s, x.e, ine, ovf, false, false, false, inv⟩
  else
    let a : Int × Bool := if x.e ≤ y.e then (y.s * (2 ^ (y.e - x.e).toNat : Nat), false) else shrTrunc y.s (x.e - y.e).toNat
    let sum := x.s + a.1
    if sum < -(2 ^ 103 : Nat) ∨ (2 ^ 103 : Nat) ≤ sum then ⟨0, 0, ine || a.2, true, false, decide (0 < sum), decide (sum < 0), inv⟩
    else ⟨sum, x.e, ine || a.2, ovf, false, false, false, inv⟩

/-- Bits needed to write a number. -/
def blen (x : Nat) : Nat := if x = 0 then 0 else Nat.log2 x + 1

/-- The rounding modes of R96: 0 RNE, 1 RZ, 2 RO. -/
def roundBits (mode mant rem half : Nat) : Nat :=
  if rem = 0 then mant
  else match mode with
    | 0 => if half < rem || (rem = half && mant % 2 = 1) then mant + 1 else mant
    | 2 => if mant % 2 = 0 then mant + 1 else mant
    | _ => mant

/-- Rounds the finite value ±mag · 2^e to a format with `fb` fraction bits whose smallest exponent is `qmin`: significand and exponent. -/
def roundTo (mode fb : Nat) (qmin : Int) (mag : Nat) (e : Int) : Nat × Int :=
  let q := max (e + blen mag - 1 - fb) qmin
  if q ≤ e then (mag * 2 ^ (e - q).toNat, q)
  else
    let n := (q - e).toNat
    let m := roundBits mode (mag / 2 ^ n) (mag % 2 ^ n) (2 ^ (n - 1))
    if m = 2 ^ (fb + 1) then (2 ^ fb, q + 1) else (m, q)

/-- The largest finite significand and exponent of a floating format. -/
def maxFin (f : Fmt) : Nat × Int :=
  let top : Int := (2 ^ f.ebits - 1 : Nat) - f.bias - f.fbits
  if f.special = 1 then (2 ^ (f.fbits + 1) - 1, top - 1)
  else if f.special = 2 then (2 ^ (f.fbits + 1) - 2, top)
  else (2 ^ (f.fbits + 1) - 1, top)

/-- The canonical NaN of an output format (R96, R103); 0x7F for FP8 E4M3. -/
def nanBits (f : Fmt) : Nat :=
  if f.special = 2 then 2 ^ (f.bits - 1) - 1 else (2 ^ f.ebits - 1) * 2 ^ f.fbits + 2 ^ (f.fbits - 1)

/-- R97: what an infinity or a rounded overflow writes. FP8 E4M3 has no infinity. -/
def infBits (f : Fmt) : Nat := if f.special = 2 then nanBits f else (2 ^ f.ebits - 1) * 2 ^ f.fbits

/-- The bits of a finite significand and exponent in a floating format. -/
def finBits (f : Fmt) (m : Nat) (q : Int) : Nat :=
  if m < 2 ^ f.fbits then m else (q + f.fbits + f.bias).toNat * 2 ^ f.fbits + (m - 2 ^ f.fbits)

/-- R95-R97: a finite value rounded once into a floating format with infinities or NaN. Zero keeps the sign given. -/
def encodeFin (f : Fmt) (mode : Nat) (neg : Bool) (mag : Nat) (e : Int) : Nat :=
  let sg := b2n neg * 2 ^ (f.bits - 1)
  if mag = 0 then sg
  else
    let r := roundTo mode f.fbits (1 - (f.bias : Int) - f.fbits) mag e
    let mx := maxFin f
    let huge := decide (mx.2 < r.2) || (decide (r.2 = mx.2) && decide (mx.1 < r.1))
    if huge then sg + (if mode = 0 && f.special = 1 then infBits f else finBits f mx.1 mx.2)
    else sg + finBits f r.1 r.2

/-- FP32, the format of the vector unit. -/
def fp32 : Fmt := ⟨32, 8, 23, 127, 24, 1, false, false⟩

/-- The formats of the output codes 0x1-0x6 of R96. -/
def outFmt : Nat → Option Fmt
  | 0x1 => some ⟨64, 11, 52, 1023, 53, 1, false, false⟩
  | 0x2 => some fp32
  | 0x3 => some ⟨16, 5, 10, 15, 11, 1, false, false⟩
  | 0x4 => some ⟨16, 8, 7, 127, 8, 1, false, false⟩
  | 0x5 => some ⟨8, 4, 3, 7, 4, 2, false, false⟩
  | 0x6 => some ⟨8, 5, 2, 15, 3, 1, false, false⟩
  | _ => none

/-- Bits of one output element of R96; LF128 takes 128. -/
def outBits (out : Nat) : Nat := match outFmt out with
  | some f => f.bits
  | none => 128

/-- A number rounded once into a floating format (R96, R97, R103). -/
def encodeNum (f : Fmt) (mode : Nat) : Num → Nat
  | .nan => nanBits f
  | .inf s => if f.special = 2 then nanBits f else b2n s * 2 ^ (f.bits - 1) + infBits f
  | .fin s m q => encodeFin f mode s m q

/-- The number a finite value of FP32 rounding gives, read back. -/
def rnd32 (mode : Nat) (x : Num) : Num := decodeRaw fp32 (encodeNum fp32 mode x)

/-- R125: a result converted to D's format. `none` where the spec states no result: a value outside a format without
infinities (FP6, FP4, INT8, INT4), NaN into such a format, a block-scaled D. -/
def convTo (f : Fmt) (mode : Nat) (x : Num) : Option Nat :=
  if f.mx then none
  else if f.ebits = 0 then
    match x with
    | .fin s m q =>
      let r := if 0 ≤ q then m * 2 ^ q.toNat else
        roundBits mode (m / 2 ^ (-q).toNat) (m % 2 ^ (-q).toNat) (2 ^ ((-q).toNat - 1))
      if r < 2 ^ (f.bits - 1) || (s && r = 2 ^ (f.bits - 1)) then some (uint f.bits (if s then -(r : Int) else r)) else none
    | _ => none
  else if f.special = 0 then
    match x with
    | .fin s m q =>
      let r := roundTo mode f.fbits (1 - (f.bias : Int) - f.fbits) m q
      let mx := maxFin f
      if m = 0 then some (b2n s * 2 ^ (f.bits - 1))
      else if decide (mx.2 < r.2) || (decide (r.2 = mx.2) && decide (mx.1 < r.1)) then none
      else some (b2n s * 2 ^ (f.bits - 1) + finBits f r.1 r.2)
    | _ => none
  else some (encodeNum f mode x)

/-- R84, R106: an FP32 number as LF128; zero becomes the unanchored zero. -/
def toLF : Num → LF
  | .fin _ 0 _ => LF.uzero
  | .fin s m q => LF.ofInt (if s then -(m : Int) else m) q
  | .inf s => ⟨0, 0, false, false, false, !s, s, false⟩
  | .nan => ⟨0, 0, false, false, true, false, false, false⟩

/-- An LF128 value as a number. -/
def LF.toNum (x : LF) : Num :=
  if x.isNan then .nan else if x.pinf then .inf false else if x.ninf then .inf true
  else .fin (decide (x.s < 0)) x.s.natAbs x.e

/-- Exact sum of two finite numbers; a zero sum is +0 unless both are -0 (IEEE 754). -/
def addNum (x y : Num) : Num :=
  match x, y with
  | .nan, _ => .nan
  | _, .nan => .nan
  | .inf a, .inf b => if a = b then .inf a else .nan
  | .inf a, _ => .inf a
  | _, .inf b => .inf b
  | .fin a m p, .fin b n q =>
    if m = 0 && n = 0 then .fin (a && b) 0 (min p q)
    else if m = 0 then .fin b n q
    else if n = 0 then .fin a m p
    else
      let e := min p q
      let s := (if a then -(m : Int) else m) * (2 ^ (p - e).toNat : Nat) + (if b then -(n : Int) else n) * (2 ^ (q - e).toNat : Nat)
      .fin (decide (s < 0)) s.natAbs e

/-- The negated number. -/
def Num.negate : Num → Num
  | .fin s m q => .fin (!s) m q
  | .inf s => .inf (!s)
  | .nan => .nan

/-- Exact product; infinity times zero is NaN. -/
def mulNum (x y : Num) : Num :=
  match x, y with
  | .nan, _ => .nan
  | _, .nan => .nan
  | .inf a, .inf b => .inf (a != b)
  | .inf a, .fin b n _ => if n = 0 then .nan else .inf (a != b)
  | .fin a m _, .inf b => if m = 0 then .nan else .inf (a != b)
  | .fin a m p, .fin b n q => .fin (a != b) (m * n) (p + q)

/-- Quotient with 200 further bits and a sticky bit, enough for one rounding to FP32 (R103). -/
def divNum (x y : Num) : Num :=
  match x, y with
  | .nan, _ => .nan
  | _, .nan => .nan
  | .inf _, .inf _ => .nan
  | .inf a, .fin b _ _ => .inf (a != b)
  | .fin a _ _, .inf b => .fin (a != b) 0 0
  | .fin a m p, .fin b n q =>
    if n = 0 then (if m = 0 then .nan else .inf (a != b))
    else
      let k : Nat := 200
      .fin (a != b) (2 * (m * 2 ^ k / n) + b2n (m * 2 ^ k % n ≠ 0)) (p - q - k - 1)

/-- Integer square root by bits, most significant first. -/
def isqrtStep (x : Nat) : Nat → Nat → Nat
  | 0, r => r
  | i + 1, r => isqrtStep x i (if (r + 2 ^ i) * (r + 2 ^ i) ≤ x then r + 2 ^ i else r)

/-- Integer square root. -/
def isqrt (x : Nat) : Nat := isqrtStep x (blen x / 2 + 1) 0

/-- Square root of a non-negative finite number with a sticky bit. -/
def sqrtFin (m : Nat) (q : Int) : Num :=
  let k : Nat := if q % 2 = 0 then 200 else 201
  let x := m * 2 ^ k
  let r := isqrt x
  .fin false (2 * r + b2n (r * r ≠ x)) ((q - k) / 2 - 1)

/-- Order of two numbers, NaN excluded; -0 below +0 is taken by `min` and `max` only. -/
def numLt (x y : Num) : Bool :=
  match x, y with
  | .nan, _ => false
  | _, .nan => false
  | .inf a, .inf b => a && !b
  | .inf a, _ => a
  | _, .inf b => !b
  | .fin _ _ p, .fin _ _ q =>
    let e := min p q
    decide (x.sig * (2 ^ (p - e).toNat : Nat) < y.sig * (2 ^ (q - e).toNat : Nat))

/-- R103: min returns the non-NaN operand and treats -0 as less than +0. -/
def minNum (x y : Num) : Num :=
  if x.isNan then y else if y.isNan then x
  else if x.isZero && y.isZero then (if x.neg then x else y)
  else if numLt y x then y else x

/-- R103: max, likewise. -/
def maxNum (x y : Num) : Num :=
  if x.isNan then y else if y.isNan then x
  else if x.isZero && y.isZero then (if x.neg then y else x)
  else if numLt x y then y else x

end Machine
end Sys2Proof
end

