-- ==== Sys2Proof/Machine/Matrix.lean ====
section
/-!
DEFINITION. The matrix instruction as chapters 2 and 3 define it: anchors (R88), folds and passes (R67, R86), alignment and
banding (R91), accumulation (R92), drops (R93), special values (R94), the check and its counters (R58-R61), slices (R99,
R100), complex products (R102). A pass works on exact integers.
-/
namespace Sys2Proof
namespace Machine

/-- A hardware fault that reaches the array during one pass: it flips a bit of the column sum of one row and column, or
gives a product an alignment above 31 (R41). It comes from outside (R53) or from ARR_INJECT (R79). -/
structure ArrFault where
  attempt : Nat
  pass : Nat
  row : Nat
  col : Nat
  bit : Nat
  align : Bool
deriving DecidableEq, Repr

/-- What the array needs of an instruction (R124) and of ARR_CTL (R71). -/
structure MmaCfg where
  m : Nat
  n : Nat
  k : Nat
  fa : Nat
  fb : Nat
  out : Nat
  mode : Nat
  strict : Bool
  disabled : Bool
deriving DecidableEq, Repr

/-- A pass that ran: the rows it streamed (first row of the sweep, their number), and where its column fold and its K chunk begin. -/
structure PassRun where
  row0 : Nat
  rows : Nat
  col : Nat
  chunk : Nat
deriving DecidableEq, Repr

/-- The counts of one execution, as R61 and R78 name them, and the passes that ran, in order. -/
structure MmaCnt where
  checked : Nat
  special : Nat
  overflow : Nat
  inexact : Nat
  wide : Nat
  split : Nat
  passes : List PassRun
deriving DecidableEq, Repr

/-- An error the check found: ALIGN or a mismatch, its pass, its lowest row and the row-sum difference (R62, R76). -/
structure MmaErr where
  align : Bool
  pass : Nat
  row : Nat
  diff : Int
deriving DecidableEq, Repr

/-- The accumulators of one column fold: significand and inexact flag for every row and column; `err` is what faults added to each row sum. -/
structure MmaAcc where
  s : List (List (Int × Bool))
  err : List Int
deriving DecidableEq, Repr

/-- The running state of a tile. `inject` is an armed ARR_INJECT (bit, column); `more`: a pass of the fold was still to run when the error was found. -/
structure MmaRun where
  cnt : MmaCnt
  pass : Nat
  sticky : Bool
  inject : Option (Nat × Nat)
  error : Option MmaErr
  more : Bool
deriving DecidableEq, Repr

/-- True where an operand format makes the instruction accumulate in a long pair (R86). -/
def pairMode (c : MmaCfg) : Bool := c.fa = 0x09 || c.fa = 0x0A || c.fb = 0x09 || c.fb = 0x0A

/-- R83: both operands in a 4-bit-mode format. -/
def fourBit (c : MmaCfg) : Bool :=
  match fmtOf c.fa, fmtOf c.fb with
  | some a, some b => a.four && b.four
  | _, _ => false

/-- The magnitude width w of a format (R80). -/
def fmtW (code : Nat) : Nat := match fmtOf code with
  | some f => f.w
  | none => 0

/-- The largest exponent of the live elements of a list. -/
def liveMax (l : List Num) : Option Int := maxI ((l.filter Num.live).map Num.exp)
/-- The smallest exponent of the live elements of a list. -/
def liveMin (l : List Num) : Option Int := minI ((l.filter Num.live).map Num.exp)

/-- A NaN or an infinity. -/
def Num.special (x : Num) : Bool := x.isNan || x.isInf

/-- The places, as row and column, of the special elements of a matrix. -/
def specials (m : List (List Num)) : List (Nat × Nat) :=
  (m.zipIdx).flatMap (fun r => (r.1.zipIdx).filterMap (fun e => if e.1.special then some (r.2, e.2) else none))

/-- What the pre-scan fixes (R88, R90) for the instruction with an issue number: amax of every row and bmax, and where the rows and columns of both operands hold a NaN or an
infinity. -/
structure PreScan where
  no : Nat
  amax : List (Option Int)
  bmax : Option Int
  aspec : List (Nat × Nat)
  bspec : List (Nat × Nat)
deriving DecidableEq, Repr

/-- The pre-scan of two operands (R88, R90). -/
def preScan (no : Nat) (a b : List (List Num)) : PreScan := ⟨no, a.map liveMax, liveMax b.flatten, specials a, specials b⟩

/-- R61 condition 1, from the pre-scan: rows from `r0` on and columns from `c0` on of a chunk of K have a special element; `h` and `n` count them. -/
def PreScan.passSpecial (p : PreScan) (r0 h c0 n ck i : Nat) : Bool :=
  p.aspec.any (fun x => decide (r0 ≤ x.1) && decide (x.1 < r0 + h) && x.2 / ck = i) || p.bspec.any (fun x => decide (c0 ≤ x.2) && decide (x.2 < c0 + n) && x.1 / ck = i)

/-- R90, R94: row m of A or column n of B is recorded as holding a special element. -/
def PreScan.outSpecial (p : PreScan) (m n : Nat) : Bool := p.aspec.any (fun x => x.1 = m) || p.bspec.any (fun x => x.2 = n)

/-- R88: the lowest weight the accumulator of a row holds: e(m), or e_lo(m) in pair mode. -/
def rowAnchor (c : MmaCfg) (bmax amax : Option Int) : Int :=
  match amax, bmax with
  | some a, some b => a + b + fmtW c.fa + fmtW c.fb - (if pairMode c then 176 else 72)
  | _, _ => if pairMode c then -104 else 0

/-- A row of the pass has a non-zero product: a live streamed element against a stationary row that holds a live element. -/
def rowLive (bl : List Bool) (row : List Num) : Bool := (row.zip bl).any (fun p => p.1.live && p.2)

/-- R38-R42, R92: the column sum of one row and column as an exact integer at the base, before accumulation. -/
def colSum (base : Int) (row col : List Num) : Int :=
  (row.zip col).foldl (fun acc p =>
    if p.1.live && p.2.live then acc + p.1.sig * p.2.sig * (2 ^ (p.1.exp + p.2.exp - base).toNat : Nat) else acc) 0

/-- Column `n` of a list of rows. -/
def column (b : List (List Num)) (n : Nat) : List Num := b.map (fun r => r.getD n (.fin false 0 0))

/-- R79: what flipping a bit of the 64-bit column sum adds to it. -/
def flipDelta (c : Int) (b : Nat) : Int :=
  let zero := !bit (uint 64 c) b
  let mag : Int := (2 ^ b : Nat)
  if (b = 63) = zero then -mag else mag

/-- R92: one column sum added into one accumulator at distance d: exactly, or truncated toward zero with inexact. -/
def accumulate (d c : Int) (x : Int × Bool) : Int × Bool :=
  if 0 ≤ d then (x.1 + c * (2 ^ d.toNat : Nat), x.2)
  else
    let t := shrTrunc c (-d).toNat
    (x.1 + t.1, x.2 || t.2)

/-- How the check treats a pass (R61). -/
inductive PassCheck where
  | checked
  | special
  | overflow
  | inexact
  | wide
  | disabled
deriving DecidableEq, Repr

/-- Counts a pass that runs (R61, R78). -/
def countPass (p : PassCheck) (run : PassRun) (c : MmaCnt) : MmaCnt :=
  let c := { c with passes := c.passes ++ [run] }
  match p with
  | .checked => { c with checked := c.checked + 1 }
  | .special => { c with special := c.special + 1 }
  | .overflow => { c with overflow := c.overflow + 1 }
  | .inexact => { c with inexact := c.inexact + 1 }
  | .wide => { c with wide := c.wide + 1 }
  | .disabled => c

/-- One pass with its faults: sums into the accumulators, the comparison of R59, the error of R62 and R65. `base` and
`anch` are per row; `rowNo` numbers the streamed rows of the instruction; `at_` is where the fold and the chunk begin. -/
def runPass (faults : List ArrFault) (attempt : Nat) (chk : PassCheck) (at_ : Nat × Nat) (rowNo : List Nat) (a b : List (List Num))
    (base anch : List Int) (ncols : Nat) (x : MmaAcc × MmaRun) : MmaAcc × MmaRun :=
  let acc := x.1
  let r := x.2
  if r.error.isSome then (acc, { r with more := true })
  else
    let isChk := decide (chk = .checked)
    let inj : List ArrFault := match r.inject with
      | some (bt, cl) => if isChk then [⟨attempt, r.pass, rowNo.headD 0, cl, bt, false⟩] else []
      | none => []
    let fs := inj ++ faults.filter (fun f => f.attempt = attempt && f.pass = r.pass)
    let deltas (m n : Nat) (c : Int) : Int := (fs.filter (fun f => !f.align && f.row = m && f.col = n)).foldl (fun t f => t + flipDelta c f.bit) 0
    let rows := (rowNo.zip (a.zip (base.zip anch)))
    let newS := (rows.zip acc.s).map (fun p =>
      let m := p.1.1
      let d := p.1.2.2.1 - p.1.2.2.2
      (List.range ncols).map (fun n =>
        let c := colSum p.1.2.2.1 p.1.2.1 (column b n)
        accumulate d (c + deltas m n c) (p.2.getD n (0, false))))
    let newErr := (rows.zip acc.err).map (fun p =>
      let m := p.1.1
      let d := p.1.2.2.1 - p.1.2.2.2
      (fs.filter (fun f => !f.align && f.row = m)).foldl (fun t f =>
        let c := colSum p.1.2.2.1 p.1.2.1 (column b f.col)
        t + ((accumulate d (c + flipDelta c f.bit) (0, false)).1 - (accumulate d c (0, false)).1)) p.2)
    let ine := newS.any (fun row => row.any (fun y => y.2))
    let mism := (rowNo.zip newErr).filter (fun p => p.2 ≠ 0)
    let al := (fs.filter (fun f => f.align)).head?
    let err : Option MmaErr := match al with
      | some f => some ⟨true, r.pass, f.row, 0⟩
      | none => if isChk then mism.head?.map (fun p => ⟨false, r.pass, p.1, p.2⟩) else none
    let inj' : Option (Nat × Nat) := if isChk then none else r.inject
    (⟨newS, newErr⟩, ⟨countPass chk ⟨rowNo.headD 0, a.length, at_.1, at_.2⟩ r.cnt, r.pass + 1, r.sticky || ine, inj', err, r.more⟩)

/-- R58, R60: the check significand of some logical row needs more than 24 bits. -/
def isWide (cb : Num → Int) (b : List (List Num)) : Bool :=
  b.any (fun row =>
    let l := row.filter Num.live
    match minI (l.map cb) with
    | none => false
    | some c =>
      let w : Int := l.foldl (fun t y => t + y.sig * (2 ^ (cb y - c).toNat : Nat)) 0
      decide (w < -(2 ^ 23 : Nat)) || decide ((2 ^ 23 : Nat) ≤ w))

/-- Keeps the elements that satisfy a test, the rest as zero. -/
def keepIf (p : Num → Bool) (b : List (List Num)) : List (List Num) :=
  b.map (fun r => r.map (fun y => if y.live && p y then y else .fin false 0 0))

/-- Counts one more extra pass in ARR_CNT_SPLIT (R60, R91). -/
def MmaRun.extra (r : MmaRun) : MmaRun := { r with cnt := { r.cnt with split := r.cnt.split + 1 } }

/-- One aligned pass of R91: dropped (R93), skipped or checked (R61), and split into check bands under check_strict (R60); a pass without
a non-zero product runs unsplit. `special`: an input element of the pass is NaN or infinite. A dropped pass takes no pass index (DESIGN CHOICE; assumption log 60). -/
def alignedPass (c : MmaCfg) (faults : List ArrFault) (attempt : Nat) (special extra : Bool) (at_ : Nat × Nat) (rowNo : List Nat)
    (a b : List (List Num)) (cb : Num → Int) (base anch : List Int) (ncols : Nat) (x : MmaAcc × MmaRun) : MmaAcc × MmaRun :=
  let bl := b.map (fun r => r.any Num.live)
  let live := a.map (rowLive bl)
  let baseE := (live.zip (base.zip anch)).map (fun p => if p.1 then p.2.1 else p.2.2)
  let lim : Int := if fourBit c then 48 else 55
  let dropIt := live.any id && ((live.zip (base.zip anch)).all (fun p => !p.1 || decide (p.2.1 + lim ≤ p.2.2)))
  if x.2.error.isSome then (x.1, { x.2 with more := x.2.more || !dropIt })
  else if dropIt then
    let s' := ((live.zip a).zip x.1.s).map (fun p =>
      if p.1.1 then (List.range ncols).map (fun n =>
        let y := p.2.getD n (0, false)
        (y.1, y.2 || ((p.1.2.zip (column b n)).any (fun q => q.1.live && q.2.live)))) else p.2)
    let ine := s'.any (fun row => row.any (fun y => y.2))
    (⟨s', x.1.err⟩, { x.2 with sticky := x.2.sticky || ine })
  else
    let trunc := (live.zip (base.zip anch)).any (fun p => p.1 && decide (p.2.1 < p.2.2))
    let wide := live.any id && isWide cb b
    let x := if extra then (x.1, x.2.extra) else x
    let one (k : PassCheck) := runPass faults attempt k at_ rowNo a b baseE anch ncols x
    if c.disabled then one .disabled
    else if special then one .special
    else if x.2.sticky || trunc then one .inexact
    else if !wide then one .checked
    else if !c.strict then one .wide
    else
      let step : Int := if fourBit c then 12 else 8
      let inBand (i : Nat) (y : Num) : Bool := decide (cb y / step = i)
      let bands := (List.range 4).filter (fun i => b.any (fun r => r.any (fun y => y.live && inBand i y)))
      (bands.zipIdx).foldl (fun y p =>
        let y := if p.2 = 0 || y.2.error.isSome then y else (y.1, y.2.extra)
        runPass faults attempt .checked at_ rowNo a (keepIf (inBand p.1) b) baseE anch ncols y) x

/-- R91: the passes of one slice pair of one chunk. -/
def slicePair (c : MmaCfg) (faults : List ArrFault) (attempt : Nat) (special : Bool) (at_ : Nat × Nat) (rowNo : List Nat)
    (a b : List (List Num)) (anch : List Int) (ncols : Nat) (x : MmaAcc × MmaRun) : MmaAcc × MmaRun :=
  let bl := b.map (fun r => r.any Num.live)
  if !(a.any (rowLive bl)) then
    alignedPass c faults attempt special false at_ rowNo a b (fun _ => 0) anch anch ncols x
  else
    let ball := b.flatten
    let btop := (liveMax ball).getD 0
    let bbot := (liveMin ball).getD 0
    let sb := btop - bbot
    let spread (r : List Num) : Int := (liveMax r).getD 0 - (liveMin r).getD 0
    let sa := (maxI (a.map spread)).getD 0
    let atop := a.map (fun r => (liveMax r).getD 0)
    if sa + sb ≤ 31 then
      let base := atop.map (fun t => t - (31 - sb) + bbot)
      alignedPass c faults attempt special false at_ rowNo a b (fun y => y.exp - bbot) base anch ncols x
    else
      let inU : Nat → Int → Num → Bool := fun u t y => y.live && decide ((t - y.exp) / 16 = (u : Int))
      let inV : Nat → Num → Bool := fun v y => y.live && decide ((btop - y.exp) / 16 = (v : Int))
      let us := (List.range ((sa / 16).toNat + 1)).filter (fun u => (atop.zip a).any (fun p => p.2.any (inU u p.1)))
      let vs := (List.range ((sb / 16).toNat + 1)).filter (fun v => ball.any (inV v))
      let pairs := us.flatMap (fun u => vs.map (fun v => (u, v)))
      (pairs.foldl (fun y p =>
        let u := p.1
        let v := p.2
        let ua := (atop.zip a).map (fun q => q.2.map (fun z => if inU u q.1 z then z else .fin false 0 0))
        let vb := keepIf (inV v) b
        let base := atop.map (fun t => t + btop - 30 - 16 * (((u : Nat) : Int) + ((v : Nat) : Int)))
        let z := alignedPass c faults attempt special y.2 at_ rowNo ua vb (fun w => 15 - (btop - w.exp - 16 * (v : Int))) base anch ncols y.1
        (z, true)) (x, false)).1

/-- Takes `n` entries from `off` of a list. -/
def window {α : Type} (l : List α) (off n : Nat) : List α := (l.drop off).take n

/-- R94: the special result of one output, if any: NaN with its invalid flag, or an infinity. -/
def specialOf (row col : List Num) : Option LF :=
  let ps := row.zip col
  let inv0 := ps.any (fun p => (p.1.isInf && p.2.isZero) || (p.1.isZero && p.2.isInf))
  let nanp := ps.any (fun p => p.1.isNan || p.2.isNan)
  let isI (p : Num × Num) : Bool := (p.1.isInf || p.2.isInf) && !p.1.isNan && !p.2.isNan && !p.1.isZero && !p.2.isZero
  let pos := ps.any (fun p => isI p && (p.1.neg = p.2.neg))
  let neg := ps.any (fun p => isI p && (p.1.neg ≠ p.2.neg))
  if nanp || inv0 then some ⟨0, 0, false, false, true, false, false, inv0⟩
  else if pos && neg then some ⟨0, 0, false, false, true, false, false, true⟩
  else if pos then some ⟨0, 0, false, false, false, true, false, false⟩
  else if neg then some ⟨0, 0, false, false, false, false, true, false⟩
  else none

/-- R95-R97, R86: one output encoded from its accumulator. -/
def encodeOut (c : MmaCfg) (anch : Int) (sp : Option LF) (acc : Int × Bool) : Nat :=
  match outFmt c.out with
  | none =>
    match sp with
    | some f => f.encode
    | none =>
      if pairMode c then
        let lo := 2 ^ 104
        let mag := acc.1.natAbs
        let r := roundBits c.mode (mag / lo) (mag % lo) (2 ^ 103)
        ({ LF.ofInt (if acc.1 < 0 then -(r : Int) else r) (anch + 104) with inexact := acc.2 }).encode
      else ({ LF.ofInt acc.1 anch with inexact := acc.2 }).encode
  | some f =>
    match sp with
    | some l => encodeNum f c.mode l.toNum
    | none => encodeFin f c.mode (decide (acc.1 < 0)) acc.1.natAbs anch

/-- One column fold of one sweep: every chunk and slice pair in order (R67, R100). -/
def runFold (c : MmaCfg) (sc : PreScan) (faults : List ArrFault) (attempt : Nat) (col : Nat) (rowNo : List Nat) (a b : List (List Num)) (anch : List Int)
    (ncols : Nat) (r : MmaRun) : MmaAcc × MmaRun :=
  let ck := if fourBit c then 512 else 256
  let start : MmaAcc := ⟨a.map (fun _ => List.replicate ncols (0, false)), a.map (fun _ => 0)⟩
  (List.range (cdiv c.k ck)).foldl (fun x i =>
    let ac := a.map (fun row => window row (i * ck) ck)
    let bc := window b (i * ck) ck
    let special := sc.passSpecial (rowNo.headD 0) rowNo.length col ncols ck i
    (slicesOf c.fa).foldl (fun x sa =>
      (slicesOf c.fb).foldl (fun x sb =>
        slicePair c faults attempt special (col, i * ck) rowNo (ac.map (fun row => row.map (sliceNum sa.1 sa.2)))
          (bc.map (fun row => row.map (sliceNum sb.1 sb.2))) anch ncols x) x) x) (start, r)

/-- What a real tile leaves: for every column fold of every sweep that completed, (first row, first column, encoded rows); whether some output is inexact; the run. -/
structure TileOut where
  folds : List (Nat × Nat × List (List Nat))
  inexact : Bool
  run : MmaRun
deriving DecidableEq, Repr

/-- A real tile (R67, R86): the sweeps outermost, then the column folds. The anchors are those of the pre-scan. A pass that finds an error runs to its end
(R62 step 2): where it is the last of its fold, the fold's rows have been written (DEDUCED; assumption log 61). -/
def runTile (c : MmaCfg) (sc : PreScan) (faults : List ArrFault) (attempt : Nat) (a b : List (List Num)) (start : MmaRun) : TileOut :=
  let sw := if pairMode c then 2048 else 4096
  (List.range (cdiv c.m sw)).foldl (fun o i =>
    let rowNo := window (List.range c.m) (i * sw) sw
    let ai := window a (i * sw) sw
    let anch := (List.range ai.length).map (fun m => rowAnchor c sc.bmax (sc.amax.getD (i * sw + m) none))
    (List.range (cdiv c.n 256)).foldl (fun o f =>
      if o.run.error.isSome then o
      else
        let bf := b.map (fun r => window r (f * 256) 256)
        let nc := min 256 (c.n - f * 256)
        let x := runFold c sc faults attempt (f * 256) rowNo ai bf anch nc o.run
        if x.2.more then { o with run := x.2 }
        else
          let sp (m n : Nat) (row : List Num) : Option LF := if sc.outSpecial m (f * 256 + n) then specialOf row (column bf n) else none
          let enc := ((rowNo.zip (ai.zip anch)).zip x.1.s).map (fun p =>
            (List.range nc).map (fun n => encodeOut c p.1.2.2 (sp p.1.1 n p.1.2.1) (p.2.getD n (0, false))))
          let ine := (rowNo.zip (ai.zip x.1.s)).any (fun p => (List.range nc).any (fun n =>
            (p.2.2.getD n (0, false)).2 && (sp p.1 n p.2.1).isNone))
          ⟨o.folds ++ [(i * sw, f * 256, enc)], o.inexact || ine, x.2⟩) o)
    ⟨[], false, start⟩

/-- A fresh run of one attempt. -/
def MmaRun.start (inject : Option (Nat × Nat)) : MmaRun := ⟨⟨0, 0, 0, 0, 0, 0, []⟩, 0, false, inject, none, false⟩

/-- R102: the stationary operands of the real and the imaginary tile of a complex product; `b` has rows of real and imaginary parts in turn. -/
def complexReal : List (List Num) → List (List Num)
  | r :: i :: rest => r :: i.map Num.negate :: complexReal rest
  | l => l
/-- R102: the stationary operand of the imaginary tile. -/
def complexImag : List (List Num) → List (List Num)
  | r :: i :: rest => i :: r :: complexImag rest
  | l => l

/-- The output of an attempt: tiles (one, or real then imaginary) and the last run. -/
structure MmaOut where
  re : TileOut
  im : Option TileOut
deriving DecidableEq, Repr

/-- One attempt of an MMA. `c` has M, N, K of the real tiles (a complex K doubled). -/
def runMma (c : MmaCfg) (complex : Bool) (sc : PreScan) (faults : List ArrFault) (attempt : Nat) (inject : Option (Nat × Nat)) (a b : List (List Num)) : MmaOut :=
  if complex then
    let re := runTile c sc faults attempt a (complexReal b) (MmaRun.start inject)
    if re.run.error.isSome then ⟨re, none⟩
    else ⟨re, some (runTile c sc faults attempt a (complexImag b) { re.run with sticky := false })⟩
  else ⟨runTile c sc faults attempt a b (MmaRun.start inject), none⟩

/-- The last run of an attempt. -/
def MmaOut.run (o : MmaOut) : MmaRun := match o.im with
  | some t => t.run
  | none => o.re.run

/-- Some output has inexact set (R98). -/
def MmaOut.inexact (o : MmaOut) : Bool := o.re.inexact || (match o.im with
  | some t => t.inexact
  | none => false)

/-- R44: the ACLK at which each pass issues its first streamed word, from the start of the first stationary load. -/
def passStarts : Nat → List PassRun → List (Nat × PassRun)
  | _, [] => []
  | t, p :: r => (t, p) :: passStarts (t + max p.rows 256) r

/-- R44, R48: the ACLK an attempt holds the array. -/
def arrayHold (l : List PassRun) : Nat := match (passStarts 256 l).getLast? with
  | some p => p.1 + (p.2.rows - 1) + 526
  | none => 0

/-- R136: the bank of an SRAM address. -/
def sramBank (a : Nat) : Nat := 8 * (a / 2 ^ 24 % 8) + a / 2 ^ 7 % 8

/-- The banks that `n` bytes from an address lie in, as a mask of 64 bits. -/
def bankMask (a n : Nat) : Nat := (List.range (cdiv (a % 128 + n) 128)).foldl (fun t i => t ||| 2 ^ sramBank (a + 128 * i)) 0

/-- Where the array's accesses to one matrix lie: base, stride and element bits; whether a logical row runs down the stored rows; the first and the number of
elements of a logical row's piece. -/
structure Lane where
  base : Nat
  stride : Nat
  bits : Nat
  down : Bool
  first : Nat
  count : Nat
deriving DecidableEq, Repr

/-- The banks in which the piece of logical row `r` lies. -/
def Lane.mask (l : Lane) (r : Nat) : Nat :=
  if l.count = 0 then 0
  else if l.down then (List.range l.count).foldl (fun t i => t ||| bankMask (l.base + (l.first + i) * l.stride + r * l.bits / 8) 1) 0
  else bankMask (l.base + r * l.stride + l.first * l.bits / 8) (cdiv (l.first * l.bits % 8 + l.count * l.bits) 8)

/-- R138: the extra ACLK when three accesses of one ACLK meet in banks, each of which serves them one by one. -/
def meetCost (a b c : Nat) : Nat := if a &&& b &&& c ≠ 0 then 2 else if a &&& b ≠ 0 || a &&& c ≠ 0 || b &&& c ≠ 0 then 1 else 0

/-- The accesses of a pass as the array makes them (R44, R48): the lane of its streamed rows, of its stationary rows, first stationary row and how many of them
one ACLK reads, and of its output rows where it is the last of its fold. -/
structure PassLanes where
  run : PassRun
  stream : Lane
  stat : Lane
  statRow : Nat
  statRows : Nat
  perClock : Nat
  out : Option Lane
deriving DecidableEq, Repr

/-- The stationary accesses `j` ACLK after a load began. -/
def PassLanes.statAt (p : PassLanes) (j : Nat) : Nat :=
  (List.range p.perClock).foldl (fun t i => if j * p.perClock + i < p.statRows then t ||| p.stat.mask (p.statRow + j * p.perClock + i) else t) 0

/-- R138: the collisions of the array's own accesses over an instruction: in every ACLK a streamed row, a row of the next stationary load, which begins as the current
fold's first word issues (R44), and an output row 526 ACLK after its streamed word (R48) (DEDUCED; assumption log 62). -/
def collisions (ps : List (Nat × PassLanes)) : Nat :=
  let outs := ps.filterMap (fun p => p.2.out.map (fun l => (p.1 + 526, p.2.run.row0, p.2.run.rows, l)))
  let outAt (t : Nat) : Nat := outs.foldl (fun m o => if o.1 ≤ t && t < o.1 + o.2.2.1 then m ||| o.2.2.2.mask (o.2.1 + (t - o.1)) else m) 0
  let next := (ps.drop 1).map (fun p => some p.2) ++ [none]
  ((ps.zip next).map (fun p =>
    ((List.range (max p.1.2.run.rows 256)).map (fun j =>
      let a := if j < p.1.2.run.rows then p.1.2.stream.mask (p.1.2.run.row0 + j) else 0
      let b := match p.2 with
        | some n => if j < 256 then n.statAt j else 0
        | none => 0
      meetCost a b (outAt (p.1.1 + j)))).sum)).sum

/-- R50-R52, R74: the feeder skew table from the repair fuses: the delay of a logical row. `sr` lists the failed physical rows in SR0, SR1 order. -/
def skewDelay (sr0 sr1 : Option Nat) (k : Nat) : Nat :=
  let used0 := b2n sr0.isSome
  if sr0 = some k then 128
  else if sr1 = some k then 256 + used0
  else if k < 128 then k else k + used0

end Machine
end Sys2Proof
end

