-- ==== Sys2Proof/Machine/RegMap.lean ====
section
/-!
DEFINITION. The register map of BAR0 and of the Hauno local spaces, row by row from the register tables of spec/
(R5, R70-R79, R112, R146-R152, R183-R184, R211-R216, R246-R253, R271-R276, R281-R283, R301-R302, R325-R329,
R371-R377, R406-R410, R451-R455, R485, R491-R493, R519-R523, R547-R550). `R.*` are register addresses, `F.*` the fields.
Registers banked per host port lie 2^27 apart and Hauno local spaces lie from 2^28 on: these two offsets are the model key only.
-/
namespace Sys2Proof
namespace Machine

/-- The access codes of R14. -/
inductive Acc where
  | rw | ro | wo | w1c | w1s | rwl | rs
deriving DecidableEq, Repr

/-- One field of a register: its lowest bit and its width. -/
structure Fld where
  lo : Nat
  w : Nat
deriving DecidableEq, Repr

/-- A field with its access code and its reset value, as a register table gives it. -/
structure FldRow where
  fld : Fld
  acc : Acc
  reset : Nat
deriving DecidableEq, Repr

/-- A register or a regular array of registers: base key, strides with counts (largest stride first), and fields. Bits in no field are reserved. -/
structure RegRow where
  name : String
  base : Nat
  dims : List (Nat × Nat)
  fields : List FldRow
deriving DecidableEq, Repr

namespace R
/-- R283, 09_host_interface.md. -/
@[reducible] def GLB_ID : Nat := 0x0
/-- R5, 00_scope.md. -/
@[reducible] def GLB_CAPABILITY : Nat := 0x8
/-- R283, 09_host_interface.md. -/
@[reducible] def GLB_STATUS : Nat := 0x10
/-- R283, 09_host_interface.md. -/
@[reducible] def GLB_STATE : Nat := 0x18
/-- R283, 09_host_interface.md. -/
@[reducible] def GLB_SERIAL (i : Nat) : Nat := 0x20 + 0x8 * i
/-- R216, 06_package_interconnect_and_clocks.md. -/
@[reducible] def CLK_ACLK (d : Nat) : Nat := 0x2000 + 0x8 * d
/-- R216, 06_package_interconnect_and_clocks.md. -/
@[reducible] def CLK_STATUS : Nat := 0x2040
/-- R215, 06_package_interconnect_and_clocks.md. -/
@[reducible] def XB_STATUS : Nat := 0x4000
/-- R215, 06_package_interconnect_and_clocks.md. -/
@[reducible] def XB_PORT_STATUS (p : Nat) : Nat := 0x4100 + 0x8 * p
/-- R548, 16_pins_power_mechanical.md. -/
@[reducible] def PIN_CTL : Nat := 0x6000
/-- R548, 16_pins_power_mechanical.md. -/
@[reducible] def PIN_STRAPS : Nat := 0x6008
/-- R548, 16_pins_power_mechanical.md. -/
@[reducible] def RST_STATUS : Nat := 0x6010
/-- R549, 16_pins_power_mechanical.md. -/
@[reducible] def TIME_STATUS : Nat := 0x6018
/-- R549, 16_pins_power_mechanical.md. -/
@[reducible] def TIME_NOW : Nat := 0x6020
/-- R550, 16_pins_power_mechanical.md. -/
@[reducible] def TIME_OFFSET (j : Nat) : Nat := 0x6028 + 0x8 * j
/-- R547, 16_pins_power_mechanical.md. -/
@[reducible] def PIN_CNT_TICK_EARLY : Nat := 0x6100
/-- R547, 16_pins_power_mechanical.md. -/
@[reducible] def PIN_CNT_TICK_PHASE : Nat := 0x6108
/-- R547, 16_pins_power_mechanical.md. -/
@[reducible] def PIN_CNT_TICK_WIDTH : Nat := 0x6110
/-- R547, 16_pins_power_mechanical.md. -/
@[reducible] def PIN_CNT_HOLDOVER : Nat := 0x6118
/-- R547, 16_pins_power_mechanical.md. -/
@[reducible] def PIN_CNT_RESET_SHORT : Nat := 0x6120
/-- R547, 16_pins_power_mechanical.md. -/
@[reducible] def PIN_CNT_ALERT : Nat := 0x6138
/-- R547, 16_pins_power_mechanical.md. -/
@[reducible] def PIN_CNT_PERST_SHORT (port : Nat) : Nat := 0x6128 + 0x8 * port
/-- R492, 14_rind_and_firmware.md. -/
@[reducible] def RIND_STATUS : Nat := 0x10000
/-- R491, 14_rind_and_firmware.md. -/
@[reducible] def RIND_OWNER (i : Nat) : Nat := 0x10008 + 0x8 * i
/-- R493, 14_rind_and_firmware.md. -/
@[reducible] def RIND_MBOX_CTL (port : Nat) : Nat := 0x10018 + 0x8000000 * port
/-- R493, 14_rind_and_firmware.md. -/
@[reducible] def RIND_MBOX_STATUS (port : Nat) : Nat := 0x10020 + 0x8000000 * port
/-- R491, 14_rind_and_firmware.md. -/
@[reducible] def RIND_CNT_REC_BAD : Nat := 0x10100
/-- R491, 14_rind_and_firmware.md. -/
@[reducible] def RIND_CNT_REC_DUP : Nat := 0x10108
/-- R491, 14_rind_and_firmware.md. -/
@[reducible] def RIND_CNT_RESYNC : Nat := 0x10110
/-- R491, 14_rind_and_firmware.md. -/
@[reducible] def RIND_CNT_ATT_FAIL : Nat := 0x10118
/-- R491, 14_rind_and_firmware.md. -/
@[reducible] def RIND_CNT_KEY_REFUSED : Nat := 0x10120
/-- R491, 14_rind_and_firmware.md. -/
@[reducible] def RIND_CNT_MBOX_REFUSED : Nat := 0x10128
/-- R301, 09_host_interface.md. -/
@[reducible] def HP_CMD_PUSH (hp : Nat) : Nat := 0x20000 + 0x10000 * hp
/-- R301, 09_host_interface.md. -/
@[reducible] def HP_CMD_STATUS (hp : Nat) : Nat := 0x20008 + 0x10000 * hp
/-- R301, 09_host_interface.md. -/
@[reducible] def HP_MSIX_MOD (hp : Nat) : Nat := 0x20010 + 0x10000 * hp
/-- R301, 09_host_interface.md. -/
@[reducible] def HP_CMD_NONCE_HI (hp : Nat) (i : Nat) : Nat := 0x20018 + 0x10000 * hp + 0x8 * i
/-- R301, 09_host_interface.md. -/
@[reducible] def HP_CMD_ARG (hp : Nat) (i : Nat) : Nat := 0x20040 + 0x10000 * hp + 0x8 * i
/-- R301, 09_host_interface.md. -/
@[reducible] def HP_CMD_RES (hp : Nat) (i : Nat) : Nat := 0x20080 + 0x10000 * hp + 0x8 * i
/-- R301, 09_host_interface.md. -/
@[reducible] def HP_CMD_PAYLOAD (hp : Nat) (i : Nat) : Nat := 0x20100 + 0x10000 * hp + 0x8 * i
/-- R301, 09_host_interface.md. -/
@[reducible] def HP_MSIX_TABLE (hp : Nat) (i : Nat) : Nat := 0x21000 + 0x10000 * hp + 0x8 * i
/-- R301, 09_host_interface.md. -/
@[reducible] def HP_MSIX_PBA (hp : Nat) : Nat := 0x21400 + 0x10000 * hp
/-- R301, 09_host_interface.md. -/
@[reducible] def HP_STREAM_STATUS (hp : Nat) (n : Nat) : Nat := 0x28000 + 0x10000 * hp + 0x8 * n
/-- R247, 07_configuration_images.md. -/
@[reducible] def IMG_CTL : Nat := 0x40000
/-- R248, 07_configuration_images.md. -/
@[reducible] def IMG_STATUS : Nat := 0x40008
/-- R249, 07_configuration_images.md. -/
@[reducible] def IMG_RESULT : Nat := 0x40010
/-- R250, 07_configuration_images.md. -/
@[reducible] def IMG_ACTIVE : Nat := 0x40018
/-- R251, 07_configuration_images.md. -/
@[reducible] def IMG_FLOOR : Nat := 0x40020
/-- R252, 07_configuration_images.md. -/
@[reducible] def IMG_SLOT (i : Nat) : Nat := 0x40028 + 0x8 * i
/-- R253, 07_configuration_images.md. -/
@[reducible] def IMG_BASE_DIGEST (j : Nat) : Nat := 0x40100 + 0x8 * j
/-- R253, 07_configuration_images.md. -/
@[reducible] def IMG_CFG_DIGEST (j : Nat) : Nat := 0x40140 + 0x8 * j
/-- R272, 08_activities_and_budgets.md. -/
@[reducible] def BUD_CTL : Nat := 0x80000
/-- R273, 08_activities_and_budgets.md. -/
@[reducible] def BUD_STATUS : Nat := 0x80008
/-- R274, 08_activities_and_budgets.md. -/
@[reducible] def BUD_IDX : Nat := 0x80010
/-- R275, 08_activities_and_budgets.md. -/
@[reducible] def BUD_DATA0 : Nat := 0x80018
/-- R275, 08_activities_and_budgets.md. -/
@[reducible] def BUD_DATA1 : Nat := 0x80020
/-- R275, 08_activities_and_budgets.md. -/
@[reducible] def BUD_DATA2 : Nat := 0x80028
/-- R276, 08_activities_and_budgets.md. -/
@[reducible] def ACT_STATE (a : Nat) : Nat := 0x81000 + 0x8 * a
/-- R520, 15_management_thermal_counters.md. -/
@[reducible] def MGT_CTL : Nat := 0xc0000
/-- R520, 15_management_thermal_counters.md. -/
@[reducible] def MGT_STATUS : Nat := 0xc0008
/-- R521, 15_management_thermal_counters.md. -/
@[reducible] def THM_IDX : Nat := 0xc0010
/-- R521, 15_management_thermal_counters.md. -/
@[reducible] def THM_DATA : Nat := 0xc0018
/-- R522, 15_management_thermal_counters.md. -/
@[reducible] def TRIP_STATUS : Nat := 0xc0020
/-- R519, 15_management_thermal_counters.md. -/
@[reducible] def TRIP_ACK : Nat := 0xc0028
/-- R522, 15_management_thermal_counters.md. -/
@[reducible] def PWR_CAP : Nat := 0xc0030
/-- R522, 15_management_thermal_counters.md. -/
@[reducible] def PWR_STATUS : Nat := 0xc0038
/-- R519, 15_management_thermal_counters.md. -/
@[reducible] def EVT_FIRST : Nat := 0xc0040
/-- R519, 15_management_thermal_counters.md. -/
@[reducible] def EVT_NEXT : Nat := 0xc0048
/-- R519, 15_management_thermal_counters.md. -/
@[reducible] def EVT_IDX : Nat := 0xc0050
/-- R522, 15_management_thermal_counters.md. -/
@[reducible] def EVT_STATUS : Nat := 0xc0058
/-- R519, 15_management_thermal_counters.md. -/
@[reducible] def EVT_DATA (i : Nat) : Nat := 0xc0060 + 0x8 * i
/-- R183, 05_memory_tiers.md. -/
@[reducible] def MGT_HUB_ECC : Nat := 0xc0080
/-- R519, 15_management_thermal_counters.md. -/
@[reducible] def PMC_DENIED : Nat := 0xc0088
/-- R523, 15_management_thermal_counters.md. -/
@[reducible] def PMC_CTL (u : Nat) (i : Nat) : Nat := 0xd0000 + 0x100 * u + 0x8 * i
/-- R523, 15_management_thermal_counters.md. -/
@[reducible] def PMC_CNT (u : Nat) (i : Nat) : Nat := 0xd0040 + 0x100 * u + 0x8 * i
/-- R523, 15_management_thermal_counters.md. -/
@[reducible] def PMC_ADDR (u : Nat) (i : Nat) : Nat := 0xd0080 + 0x100 * u + 0x8 * i
/-- R523, 15_management_thermal_counters.md. -/
@[reducible] def PMC_STATUS (u : Nat) : Nat := 0xd0090 + 0x100 * u
/-- R326, 10_selvage_ports.md. -/
@[reducible] def SP_CTL (p : Nat) : Nat := 0x100000 + 0x1000 * p
/-- R327, 10_selvage_ports.md. -/
@[reducible] def SP_STATUS (p : Nat) : Nat := 0x100008 + 0x1000 * p
/-- R328, 10_selvage_ports.md. -/
@[reducible] def SP_LANES (p : Nat) : Nat := 0x100010 + 0x1000 * p
/-- R328, 10_selvage_ports.md. -/
@[reducible] def SP_LIGHT (p : Nat) : Nat := 0x100018 + 0x1000 * p
/-- R325, 10_selvage_ports.md. -/
@[reducible] def SP_FAR_SERIAL (p : Nat) (i : Nat) : Nat := 0x100020 + 0x1000 * p + 0x8 * i
/-- R329, 10_selvage_ports.md. -/
@[reducible] def SP_FAR2 (p : Nat) : Nat := 0x100030 + 0x1000 * p
/-- R329, 10_selvage_ports.md. -/
@[reducible] def SP_POWER_IDX (p : Nat) : Nat := 0x100038 + 0x1000 * p
/-- R329, 10_selvage_ports.md. -/
@[reducible] def SP_POWER_DATA (p : Nat) : Nat := 0x100040 + 0x1000 * p
/-- R325, 10_selvage_ports.md. -/
@[reducible] def SP_CNT_REPLAY (p : Nat) : Nat := 0x100048 + 0x1000 * p
/-- R325, 10_selvage_ports.md. -/
@[reducible] def SP_CNT_FEC_CORR (p : Nat) : Nat := 0x100050 + 0x1000 * p
/-- R325, 10_selvage_ports.md. -/
@[reducible] def SP_CNT_FEC_UNC (p : Nat) : Nat := 0x100058 + 0x1000 * p
/-- R325, 10_selvage_ports.md. -/
@[reducible] def SP_CNT_WD (p : Nat) : Nat := 0x100060 + 0x1000 * p
/-- R325, 10_selvage_ports.md. -/
@[reducible] def SP_CNT_QDROP (p : Nat) : Nat := 0x100068 + 0x1000 * p
/-- R325, 10_selvage_ports.md. -/
@[reducible] def SP_CNT_DROP (p : Nat) : Nat := 0x100070 + 0x1000 * p
/-- R325, 10_selvage_ports.md. -/
@[reducible] def SP_CNT_BAD_IDENT (p : Nat) : Nat := 0x100078 + 0x1000 * p
/-- R325, 10_selvage_ports.md. -/
@[reducible] def SP_CNT_DOWN (p : Nat) : Nat := 0x100080 + 0x1000 * p
/-- R325, 10_selvage_ports.md. -/
@[reducible] def SP_FAR_FW (p : Nat) (j : Nat) : Nat := 0x100100 + 0x1000 * p + 0x8 * j
/-- R372, 11_fjarux_fabric.md. -/
@[reducible] def FJ_CTL : Nat := 0x200000
/-- R373, 11_fjarux_fabric.md. -/
@[reducible] def FJ_STATUS : Nat := 0x200008
/-- R374, 11_fjarux_fabric.md. -/
@[reducible] def FJ_TIMERS : Nat := 0x200010
/-- R375, 11_fjarux_fabric.md. -/
@[reducible] def FJ_LEASE : Nat := 0x200018
/-- R375, 11_fjarux_fabric.md. -/
@[reducible] def FJ_LEASE_TERM : Nat := 0x200020
/-- R376, 11_fjarux_fabric.md. -/
@[reducible] def FJ_EPOCH : Nat := 0x200028
/-- R377, 11_fjarux_fabric.md. -/
@[reducible] def FJ_NACK_LOG : Nat := 0x200030
/-- R371, 11_fjarux_fabric.md. -/
@[reducible] def FJ_CNT_TX : Nat := 0x200100
/-- R371, 11_fjarux_fabric.md. -/
@[reducible] def FJ_CNT_RX : Nat := 0x200108
/-- R371, 11_fjarux_fabric.md. -/
@[reducible] def FJ_CNT_TRANSIT : Nat := 0x200110
/-- R371, 11_fjarux_fabric.md. -/
@[reducible] def FJ_CNT_FALLBACK : Nat := 0x200118
/-- R371, 11_fjarux_fabric.md. -/
@[reducible] def FJ_CNT_PARKED : Nat := 0x200120
/-- R371, 11_fjarux_fabric.md. -/
@[reducible] def FJ_CNT_PARK_FULL : Nat := 0x200128
/-- R371, 11_fjarux_fabric.md. -/
@[reducible] def FJ_CNT_PARK_EXPIRED : Nat := 0x200130
/-- R371, 11_fjarux_fabric.md. -/
@[reducible] def FJ_CNT_ACK_TIMEOUT : Nat := 0x200138
/-- R371, 11_fjarux_fabric.md. -/
@[reducible] def FJ_CNT_LOAD_TIMEOUT : Nat := 0x200140
/-- R371, 11_fjarux_fabric.md. -/
@[reducible] def FJ_CNT_NO_ROUTE : Nat := 0x200148
/-- R371, 11_fjarux_fabric.md. -/
@[reducible] def FJ_CNT_BAD_TAG : Nat := 0x200150
/-- R371, 11_fjarux_fabric.md. -/
@[reducible] def FJ_CNT_RETIRED : Nat := 0x200158
/-- R371, 11_fjarux_fabric.md. -/
@[reducible] def FJ_CNT_COMBINED : Nat := 0x200160
/-- R371, 11_fjarux_fabric.md. -/
@[reducible] def FJ_CNT_NACK_RX : Nat := 0x200168
/-- R371, 11_fjarux_fabric.md. -/
@[reducible] def FJ_CNT_REFUSED : Nat := 0x200170
/-- R407, 12_collectives.md. -/
@[reducible] def CLE_CTL : Nat := 0x400000
/-- R408, 12_collectives.md. -/
@[reducible] def CLE_STATUS : Nat := 0x400008
/-- R409, 12_collectives.md. -/
@[reducible] def CLE_ERR : Nat := 0x400010
/-- R409, 12_collectives.md. -/
@[reducible] def CLE_ERR_INFO : Nat := 0x400018
/-- R410, 12_collectives.md. -/
@[reducible] def CLE_GRP (g : Nat) : Nat := 0x400100 + 0x8 * g
/-- R406, 12_collectives.md. -/
@[reducible] def CLE_CNT_CALLS : Nat := 0x400400
/-- R406, 12_collectives.md. -/
@[reducible] def CLE_CNT_INEXACT : Nat := 0x400408
/-- R406, 12_collectives.md. -/
@[reducible] def CLE_CNT_REPEAT : Nat := 0x400410
/-- R406, 12_collectives.md. -/
@[reducible] def CLE_CNT_RESIDUE : Nat := 0x400418
/-- R406, 12_collectives.md. -/
@[reducible] def CLE_CNT_TIMEOUT : Nat := 0x400420
/-- R406, 12_collectives.md. -/
@[reducible] def CLE_CNT_ABORT_RX : Nat := 0x400428
/-- R406, 12_collectives.md. -/
@[reducible] def CLE_CNT_STALE : Nat := 0x400430
/-- R452, 13_keeping_state.md. -/
@[reducible] def KPU_CTL : Nat := 0x600000
/-- R453, 13_keeping_state.md. -/
@[reducible] def KPU_STATUS : Nat := 0x600008
/-- R454, 13_keeping_state.md. -/
@[reducible] def KPU_SNAP_STATUS : Nat := 0x600010
/-- R454, 13_keeping_state.md. -/
@[reducible] def KPU_SEAL : Nat := 0x600018
/-- R454, 13_keeping_state.md. -/
@[reducible] def KPU_JNL_STATUS : Nat := 0x600020
/-- R451, 13_keeping_state.md. -/
@[reducible] def KPU_RIPEN : Nat := 0x600028
/-- R451, 13_keeping_state.md. -/
@[reducible] def KPU_RIPEN_TOTAL : Nat := 0x600030
/-- R451, 13_keeping_state.md. -/
@[reducible] def KPU_CNT_TAKEN : Nat := 0x600100
/-- R451, 13_keeping_state.md. -/
@[reducible] def KPU_CNT_ABANDONED : Nat := 0x600108
/-- R451, 13_keeping_state.md. -/
@[reducible] def KPU_CNT_SKIPPED : Nat := 0x600110
/-- R451, 13_keeping_state.md. -/
@[reducible] def KPU_CNT_PAGES : Nat := 0x600118
/-- R451, 13_keeping_state.md. -/
@[reducible] def KPU_CNT_JNL_STALL : Nat := 0x600120
/-- R455, 13_keeping_state.md. -/
@[reducible] def ERU_CTL : Nat := 0x608000
/-- R455, 13_keeping_state.md. -/
@[reducible] def ERU_STATUS : Nat := 0x608008
/-- R451, 13_keeping_state.md. -/
@[reducible] def ERU_CNT_DELTA : Nat := 0x608100
/-- R451, 13_keeping_state.md. -/
@[reducible] def ERU_CNT_REBUILT : Nat := 0x608108
/-- R451, 13_keeping_state.md. -/
@[reducible] def ERU_CNT_ROLLBACK : Nat := 0x608110
/-- R147, 04_matrix_core_programming.md. -/
@[reducible] def SEQ_CTL (d : Nat) (c : Nat) : Nat := 0x800000 + 0x100000 * d + 0x20000 * c
/-- R148, 04_matrix_core_programming.md. -/
@[reducible] def SEQ_STATUS (d : Nat) (c : Nat) : Nat := 0x800008 + 0x100000 * d + 0x20000 * c
/-- R149, 04_matrix_core_programming.md. -/
@[reducible] def SEQ_CTX_STATUS (d : Nat) (c : Nat) (k : Nat) : Nat := 0x800010 + 0x100000 * d + 0x20000 * c + 0x8 * k
/-- R150, 04_matrix_core_programming.md. -/
@[reducible] def SEQ_ARR_STALL (d : Nat) (c : Nat) : Nat := 0x800030 + 0x100000 * d + 0x20000 * c
/-- R151, 04_matrix_core_programming.md. -/
@[reducible] def SEQ_CNT (d : Nat) (c : Nat) (j : Nat) : Nat := 0x800100 + 0x100000 * d + 0x20000 * c + 0x8 * j
/-- R152, 04_matrix_core_programming.md. -/
@[reducible] def RING_STATUS (d : Nat) (c : Nat) (r : Nat) : Nat := 0x810000 + 0x100000 * d + 0x20000 * c + 0x8 * r
/-- R71, 02_matrix_array.md. -/
@[reducible] def ARR_CTL (d : Nat) (c : Nat) : Nat := 0x818000 + 0x100000 * d + 0x20000 * c
/-- R72, 02_matrix_array.md. -/
@[reducible] def ARR_STATUS (d : Nat) (c : Nat) : Nat := 0x818008 + 0x100000 * d + 0x20000 * c
/-- R73, 02_matrix_array.md. -/
@[reducible] def ARR_REPAIR (d : Nat) (c : Nat) : Nat := 0x818010 + 0x100000 * d + 0x20000 * c
/-- R74, 02_matrix_array.md. -/
@[reducible] def ARR_SKEW_IDX (d : Nat) (c : Nat) : Nat := 0x818018 + 0x100000 * d + 0x20000 * c
/-- R74, 02_matrix_array.md. -/
@[reducible] def ARR_SKEW_DATA (d : Nat) (c : Nat) : Nat := 0x818020 + 0x100000 * d + 0x20000 * c
/-- R75, 02_matrix_array.md. -/
@[reducible] def ARR_ERR_STATUS (d : Nat) (c : Nat) : Nat := 0x818028 + 0x100000 * d + 0x20000 * c
/-- R76, 02_matrix_array.md. -/
@[reducible] def ARR_ERR_INFO (d : Nat) (c : Nat) : Nat := 0x818030 + 0x100000 * d + 0x20000 * c
/-- R76, 02_matrix_array.md. -/
@[reducible] def ARR_ERR_DIFF (d : Nat) (c : Nat) : Nat := 0x818038 + 0x100000 * d + 0x20000 * c
/-- R77, 02_matrix_array.md. -/
@[reducible] def ARR_CANARY_MAIN (d : Nat) (c : Nat) : Nat := 0x818040 + 0x100000 * d + 0x20000 * c
/-- R79, 02_matrix_array.md. -/
@[reducible] def ARR_INJECT (d : Nat) (c : Nat) : Nat := 0x818090 + 0x100000 * d + 0x20000 * c
/-- R77, 02_matrix_array.md. -/
@[reducible] def ARR_CANARY_EARLY (d : Nat) (c : Nat) : Nat := 0x818048 + 0x100000 * d + 0x20000 * c
/-- R77, 02_matrix_array.md. -/
@[reducible] def ARR_CANARY_LATE (d : Nat) (c : Nat) : Nat := 0x818050 + 0x100000 * d + 0x20000 * c
/-- R78, 02_matrix_array.md. -/
@[reducible] def ARR_CNT_CHECKED (d : Nat) (c : Nat) : Nat := 0x818058 + 0x100000 * d + 0x20000 * c
/-- R78, 02_matrix_array.md. -/
@[reducible] def ARR_CNT_SKIP_SPECIAL (d : Nat) (c : Nat) : Nat := 0x818060 + 0x100000 * d + 0x20000 * c
/-- R78, 02_matrix_array.md. -/
@[reducible] def ARR_CNT_SKIP_OVERFLOW (d : Nat) (c : Nat) : Nat := 0x818068 + 0x100000 * d + 0x20000 * c
/-- R78, 02_matrix_array.md. -/
@[reducible] def ARR_CNT_SKIP_INEXACT (d : Nat) (c : Nat) : Nat := 0x818070 + 0x100000 * d + 0x20000 * c
/-- R78, 02_matrix_array.md. -/
@[reducible] def ARR_CNT_SKIP_WIDE (d : Nat) (c : Nat) : Nat := 0x818078 + 0x100000 * d + 0x20000 * c
/-- R78, 02_matrix_array.md. -/
@[reducible] def ARR_CNT_SPLIT (d : Nat) (c : Nat) : Nat := 0x818080 + 0x100000 * d + 0x20000 * c
/-- R78, 02_matrix_array.md. -/
@[reducible] def ARR_CNT_RETRY (d : Nat) (c : Nat) : Nat := 0x818088 + 0x100000 * d + 0x20000 * c
/-- R183, 05_memory_tiers.md. -/
@[reducible] def MEM_CTL (d : Nat) (c : Nat) : Nat := 0x880000 + 0x100000 * d + 0x100 * c
/-- R183, 05_memory_tiers.md. -/
@[reducible] def MEM_SRAM_ECC (d : Nat) (c : Nat) : Nat := 0x880008 + 0x100000 * d + 0x100 * c
/-- R183, 05_memory_tiers.md. -/
@[reducible] def MEM_BND_ECC (d : Nat) (c : Nat) : Nat := 0x880010 + 0x100000 * d + 0x100 * c
/-- R183, 05_memory_tiers.md. -/
@[reducible] def MEM_BND_THERM (d : Nat) (c : Nat) : Nat := 0x880018 + 0x100000 * d + 0x100 * c
/-- R212, 06_package_interconnect_and_clocks.md. -/
@[reducible] def DIE_STATUS (d : Nat) : Nat := 0x890000 + 0x100000 * d
/-- R213, 06_package_interconnect_and_clocks.md. -/
@[reducible] def DL_CTL (d : Nat) : Nat := 0x890008 + 0x100000 * d
/-- R214, 06_package_interconnect_and_clocks.md. -/
@[reducible] def DL_LINK_STATUS (d : Nat) (l : Nat) : Nat := 0x890010 + 0x100000 * d + 0x8 * l
/-- R211, 06_package_interconnect_and_clocks.md. -/
@[reducible] def DL_DROP_CNT (d : Nat) : Nat := 0x890028 + 0x100000 * d
/-- R211, 06_package_interconnect_and_clocks.md. -/
@[reducible] def HL_RETRY_CNT (d : Nat) : Nat := 0x890030 + 0x100000 * d
/-- R211, 06_package_interconnect_and_clocks.md. -/
@[reducible] def NLE_RETRY_CNT (d : Nat) : Nat := 0x890038 + 0x100000 * d
/-- R211, 06_package_interconnect_and_clocks.md. -/
@[reducible] def NLW_RETRY_CNT (d : Nat) : Nat := 0x890040 + 0x100000 * d
/-- R184, 05_memory_tiers.md. -/
@[reducible] def FMC_CTL : Nat := 0x1000000
/-- R184, 05_memory_tiers.md. -/
@[reducible] def FMC_STATUS : Nat := 0x1000008
/-- R184, 05_memory_tiers.md. -/
@[reducible] def FMC_DOM_CFG (i : Nat) : Nat := 0x1000100 + 0x10 * i
/-- R184, 05_memory_tiers.md. -/
@[reducible] def FMC_DOM_KEY (i : Nat) : Nat := 0x1000108 + 0x10 * i
/-- R184, 05_memory_tiers.md. -/
@[reducible] def FMC_STK_STATUS (s : Nat) : Nat := 0x1001000 + 0x400 * s
/-- R184, 05_memory_tiers.md. -/
@[reducible] def FMC_CH_ERR (s : Nat) (ch : Nat) : Nat := 0x1001100 + 0x400 * s + 0x8 * ch
/-- R184, 05_memory_tiers.md. -/
@[reducible] def FMC_MARGIN_CTL : Nat := 0x1008000
/-- R184, 05_memory_tiers.md. -/
@[reducible] def FMC_MARGIN_RESULT : Nat := 0x1008008
/-- R112, 03_exact_arithmetic.md. -/
@[reducible] def SGU_CTL : Nat := 0x1800000
/-- R112, 03_exact_arithmetic.md. -/
@[reducible] def SGU_STATUS : Nat := 0x1800008
/-- R112, 03_exact_arithmetic.md. -/
@[reducible] def SGU_CH (c : Nat) : Nat := 0x1800100 + 0x8 * c
/-- R302, 09_host_interface.md. -/
@[reducible] def MAP_SEL (port : Nat) : Nat := 0x1c00000 + 0x8000000 * port
/-- R302, 09_host_interface.md. -/
@[reducible] def MAP_ADDR (port : Nat) : Nat := 0x1c00008 + 0x8000000 * port
/-- R302, 09_host_interface.md. -/
@[reducible] def MAP_STATUS (port : Nat) : Nat := 0x1c00010 + 0x8000000 * port
/-- R485, 14_rind_and_firmware.md. -/
@[reducible] def HLC_TIME (h : Nat) : Nat := 0x10000000 + 0x1000 * h
/-- R485, 14_rind_and_firmware.md. -/
@[reducible] def HLC_STEP (h : Nat) : Nat := 0x10000008 + 0x1000 * h
/-- R485, 14_rind_and_firmware.md. -/
@[reducible] def HLC_TIMER (h : Nat) : Nat := 0x10000010 + 0x1000 * h
/-- R485, 14_rind_and_firmware.md. -/
@[reducible] def HLC_IRQ (h : Nat) : Nat := 0x10000018 + 0x1000 * h
/-- R485, 14_rind_and_firmware.md. -/
@[reducible] def HLC_IRQ_EN (h : Nat) : Nat := 0x10000020 + 0x1000 * h
/-- R485, 14_rind_and_firmware.md. -/
@[reducible] def HLC_SIG (h : Nat) : Nat := 0x10000028 + 0x1000 * h
/-- R485, 14_rind_and_firmware.md. -/
@[reducible] def HLC_WATCH (h : Nat) (j : Nat) : Nat := 0x10000100 + 0x1000 * h + 0x8 * j
end R

namespace F
@[reducible] def GLB_ID_part : Fld := ⟨0, 16⟩
@[reducible] def GLB_ID_stepping : Fld := ⟨16, 8⟩
@[reducible] def GLB_ID_via_port : Fld := ⟨24, 1⟩
@[reducible] def GLB_CAPABILITY_stack_present : Fld := ⟨0, 24⟩
@[reducible] def GLB_CAPABILITY_sgu_present : Fld := ⟨24, 1⟩
@[reducible] def GLB_CAPABILITY_eru_present : Fld := ⟨25, 1⟩
@[reducible] def GLB_CAPABILITY_long_reach : Fld := ⟨26, 1⟩
@[reducible] def GLB_CAPABILITY_die_present : Fld := ⟨32, 8⟩
@[reducible] def GLB_CAPABILITY_hauno_count : Fld := ⟨40, 8⟩
@[reducible] def GLB_CAPABILITY_arith_level : Fld := ⟨48, 8⟩
@[reducible] def GLB_STATUS_absent_access : Fld := ⟨0, 1⟩
@[reducible] def GLB_STATUS_token_port : Fld := ⟨1, 1⟩
@[reducible] def GLB_STATUS_hpa_up : Fld := ⟨2, 1⟩
@[reducible] def GLB_STATUS_hpb_up : Fld := ⟨3, 1⟩
@[reducible] def GLB_STATE_state : Fld := ⟨0, 4⟩
@[reducible] def GLB_STATE_previous : Fld := ⟨4, 4⟩
@[reducible] def GLB_STATE_changes : Fld := ⟨8, 16⟩
@[reducible] def GLB_SERIAL_bytes : Fld := ⟨0, 64⟩
@[reducible] def CLK_ACLK_freq : Fld := ⟨0, 11⟩
@[reducible] def CLK_ACLK_low : Fld := ⟨11, 11⟩
@[reducible] def CLK_ACLK_clear_low : Fld := ⟨22, 1⟩
@[reducible] def CLK_STATUS_hclk_lock : Fld := ⟨0, 1⟩
@[reducible] def CLK_STATUS_cclk_lock : Fld := ⟨1, 1⟩
@[reducible] def CLK_STATUS_tclk_lock : Fld := ⟨2, 1⟩
@[reducible] def CLK_STATUS_tclk_holdover : Fld := ⟨3, 1⟩
@[reducible] def CLK_STATUS_aclk_run : Fld := ⟨4, 8⟩
@[reducible] def CLK_STATUS_bclk_lock : Fld := ⟨12, 8⟩
@[reducible] def CLK_STATUS_fclk_lock : Fld := ⟨20, 24⟩
@[reducible] def CLK_STATUS_lclk_lock : Fld := ⟨44, 16⟩
@[reducible] def CLK_STATUS_pclk_lock : Fld := ⟨60, 2⟩
@[reducible] def XB_STATUS_dead_dies : Fld := ⟨0, 8⟩
@[reducible] def XB_PORT_STATUS_state : Fld := ⟨0, 2⟩
@[reducible] def XB_PORT_STATUS_credit_wait : Fld := ⟨2, 1⟩
@[reducible] def PIN_CTL_clear_counts : Fld := ⟨0, 1⟩
@[reducible] def PIN_STRAPS_slot_id : Fld := ⟨0, 6⟩
@[reducible] def PIN_STRAPS_rack_id : Fld := ⟨6, 6⟩
@[reducible] def PIN_STRAPS_feed_id : Fld := ⟨12, 4⟩
@[reducible] def PIN_STRAPS_changed : Fld := ⟨16, 1⟩
@[reducible] def RST_STATUS_cause : Fld := ⟨0, 3⟩
@[reducible] def RST_STATUS_input_ok : Fld := ⟨3, 1⟩
@[reducible] def RST_STATUS_input_dv : Fld := ⟨4, 12⟩
@[reducible] def TIME_STATUS_acquired : Fld := ⟨0, 1⟩
@[reducible] def TIME_STATUS_holdover : Fld := ⟨1, 1⟩
@[reducible] def TIME_STATUS_rackclk_ok : Fld := ⟨2, 1⟩
@[reducible] def TIME_STATUS_slewing : Fld := ⟨3, 1⟩
@[reducible] def TIME_STATUS_alert_filtered : Fld := ⟨4, 1⟩
@[reducible] def TIME_STATUS_last_offset : Fld := ⟨5, 32⟩
@[reducible] def TIME_NOW_count : Fld := ⟨0, 64⟩
@[reducible] def TIME_OFFSET_offset : Fld := ⟨0, 32⟩
@[reducible] def TIME_OFFSET_valid : Fld := ⟨32, 1⟩
@[reducible] def PIN_CNT_TICK_EARLY_count : Fld := ⟨0, 48⟩
@[reducible] def PIN_CNT_TICK_PHASE_count : Fld := ⟨0, 48⟩
@[reducible] def PIN_CNT_TICK_WIDTH_count : Fld := ⟨0, 48⟩
@[reducible] def PIN_CNT_HOLDOVER_count : Fld := ⟨0, 48⟩
@[reducible] def PIN_CNT_RESET_SHORT_count : Fld := ⟨0, 48⟩
@[reducible] def PIN_CNT_ALERT_count : Fld := ⟨0, 48⟩
@[reducible] def PIN_CNT_PERST_SHORT_count : Fld := ⟨0, 48⟩
@[reducible] def RIND_STATUS_owned : Fld := ⟨0, 1⟩
@[reducible] def RIND_STATUS_transfer_pending : Fld := ⟨1, 1⟩
@[reducible] def RIND_STATUS_debug_ever : Fld := ⟨2, 1⟩
@[reducible] def RIND_STATUS_jtag_open : Fld := ⟨3, 1⟩
@[reducible] def RIND_STATUS_boot_slot : Fld := ⟨4, 1⟩
@[reducible] def RIND_STATUS_next_slot : Fld := ⟨5, 1⟩
@[reducible] def RIND_STATUS_rollback : Fld := ⟨6, 7⟩
@[reducible] def RIND_STATUS_transfers : Fld := ⟨13, 5⟩
@[reducible] def RIND_STATUS_fw_update : Fld := ⟨18, 2⟩
@[reducible] def RIND_STATUS_lease_key : Fld := ⟨20, 1⟩
@[reducible] def RIND_STATUS_dump_key : Fld := ⟨21, 1⟩
@[reducible] def RIND_STATUS_boot_count : Fld := ⟨22, 32⟩
@[reducible] def RIND_OWNER_bytes : Fld := ⟨0, 64⟩
@[reducible] def RIND_MBOX_CTL_begin : Fld := ⟨0, 1⟩
@[reducible] def RIND_MBOX_CTL_commit : Fld := ⟨1, 1⟩
@[reducible] def RIND_MBOX_CTL_abort : Fld := ⟨2, 1⟩
@[reducible] def RIND_MBOX_CTL_clear_counts : Fld := ⟨3, 1⟩
@[reducible] def RIND_MBOX_STATUS_state : Fld := ⟨0, 2⟩
@[reducible] def RIND_MBOX_STATUS_in_words : Fld := ⟨2, 14⟩
@[reducible] def RIND_MBOX_STATUS_out_words : Fld := ⟨16, 14⟩
@[reducible] def RIND_MBOX_STATUS_code : Fld := ⟨30, 8⟩
@[reducible] def RIND_MBOX_STATUS_stray : Fld := ⟨38, 1⟩
@[reducible] def RIND_CNT_REC_BAD_count : Fld := ⟨0, 48⟩
@[reducible] def RIND_CNT_REC_DUP_count : Fld := ⟨0, 48⟩
@[reducible] def RIND_CNT_RESYNC_count : Fld := ⟨0, 48⟩
@[reducible] def RIND_CNT_ATT_FAIL_count : Fld := ⟨0, 48⟩
@[reducible] def RIND_CNT_KEY_REFUSED_count : Fld := ⟨0, 48⟩
@[reducible] def RIND_CNT_MBOX_REFUSED_count : Fld := ⟨0, 48⟩
@[reducible] def HP_CMD_PUSH_opcode : Fld := ⟨0, 8⟩
@[reducible] def HP_CMD_PUSH_tag : Fld := ⟨8, 16⟩
@[reducible] def HP_CMD_STATUS_state : Fld := ⟨0, 2⟩
@[reducible] def HP_CMD_STATUS_overrun : Fld := ⟨2, 1⟩
@[reducible] def HP_CMD_STATUS_opcode : Fld := ⟨8, 8⟩
@[reducible] def HP_CMD_STATUS_tag : Fld := ⟨16, 16⟩
@[reducible] def HP_CMD_STATUS_code : Fld := ⟨32, 8⟩
@[reducible] def HP_MSIX_MOD_interval : Fld := ⟨0, 10⟩
@[reducible] def HP_CMD_NONCE_HI_value : Fld := ⟨0, 64⟩
@[reducible] def HP_CMD_ARG_value : Fld := ⟨0, 64⟩
@[reducible] def HP_CMD_RES_value : Fld := ⟨0, 64⟩
@[reducible] def HP_CMD_PAYLOAD_value : Fld := ⟨0, 64⟩
@[reducible] def HP_MSIX_TABLE_value : Fld := ⟨0, 64⟩
@[reducible] def HP_MSIX_PBA_pending : Fld := ⟨0, 64⟩
@[reducible] def HP_STREAM_STATUS_count : Fld := ⟨0, 20⟩
@[reducible] def HP_STREAM_STATUS_bound : Fld := ⟨20, 1⟩
@[reducible] def HP_STREAM_STATUS_direction : Fld := ⟨21, 1⟩
@[reducible] def HP_STREAM_STATUS_activity : Fld := ⟨22, 8⟩
@[reducible] def HP_STREAM_STATUS_hosts : Fld := ⟨30, 2⟩
@[reducible] def HP_STREAM_STATUS_dropped : Fld := ⟨32, 16⟩
@[reducible] def HP_STREAM_STATUS_clear_dropped : Fld := ⟨63, 1⟩
@[reducible] def IMG_CTL_begin : Fld := ⟨0, 1⟩
@[reducible] def IMG_CTL_kind : Fld := ⟨1, 1⟩
@[reducible] def IMG_CTL_commit : Fld := ⟨2, 1⟩
@[reducible] def IMG_CTL_abort : Fld := ⟨3, 1⟩
@[reducible] def IMG_STATUS_load_state : Fld := ⟨0, 2⟩
@[reducible] def IMG_STATUS_foreign : Fld := ⟨2, 1⟩
@[reducible] def IMG_STATUS_stray : Fld := ⟨3, 1⟩
@[reducible] def IMG_STATUS_words : Fld := ⟨4, 22⟩
@[reducible] def IMG_STATUS_busy : Fld := ⟨26, 1⟩
@[reducible] def IMG_RESULT_code : Fld := ⟨0, 8⟩
@[reducible] def IMG_RESULT_check : Fld := ⟨8, 4⟩
@[reducible] def IMG_RESULT_kind : Fld := ⟨12, 1⟩
@[reducible] def IMG_RESULT_slot : Fld := ⟨13, 4⟩
@[reducible] def IMG_RESULT_record : Fld := ⟨17, 24⟩
@[reducible] def IMG_ACTIVE_in_force : Fld := ⟨1, 15⟩
@[reducible] def IMG_ACTIVE_pending : Fld := ⟨17, 15⟩
@[reducible] def IMG_ACTIVE_apply_state : Fld := ⟨32, 2⟩
@[reducible] def IMG_ACTIVE_last_code : Fld := ⟨34, 8⟩
@[reducible] def IMG_ACTIVE_last_check : Fld := ⟨42, 4⟩
@[reducible] def IMG_FLOOR_floor : Fld := ⟨0, 64⟩
@[reducible] def IMG_SLOT_resident : Fld := ⟨0, 1⟩
@[reducible] def IMG_SLOT_in_force : Fld := ⟨1, 1⟩
@[reducible] def IMG_SLOT_pending : Fld := ⟨2, 1⟩
@[reducible] def IMG_SLOT_size : Fld := ⟨3, 17⟩
@[reducible] def IMG_SLOT_seq_lo : Fld := ⟨32, 32⟩
@[reducible] def IMG_BASE_DIGEST_bytes : Fld := ⟨0, 64⟩
@[reducible] def IMG_CFG_DIGEST_bytes : Fld := ⟨0, 64⟩
@[reducible] def BUD_CTL_clear_counts : Fld := ⟨0, 1⟩
@[reducible] def BUD_STATUS_period : Fld := ⟨0, 10⟩
@[reducible] def BUD_STATUS_gov_scale : Fld := ⟨10, 5⟩
@[reducible] def BUD_STATUS_pool_open : Fld := ⟨15, 1⟩
@[reducible] def BUD_STATUS_far_scaled : Fld := ⟨16, 24⟩
@[reducible] def BUD_STATUS_cap_unmet : Fld := ⟨40, 1⟩
@[reducible] def BUD_STATUS_unknown_act : Fld := ⟨41, 16⟩
@[reducible] def BUD_IDX_activity : Fld := ⟨0, 8⟩
@[reducible] def BUD_IDX_resource : Fld := ⟨8, 3⟩
@[reducible] def BUD_IDX_instance : Fld := ⟨11, 8⟩
@[reducible] def ACT_STATE_state : Fld := ⟨0, 3⟩
@[reducible] def ACT_STATE_kind : Fld := ⟨3, 2⟩
@[reducible] def ACT_STATE_native_ok : Fld := ⟨5, 1⟩
@[reducible] def ACT_STATE_job_key_id : Fld := ⟨6, 16⟩
@[reducible] def ACT_STATE_gated_now : Fld := ⟨22, 1⟩
@[reducible] def MGT_CTL_alert_rearm : Fld := ⟨0, 1⟩
@[reducible] def MGT_CTL_clear_counts : Fld := ⟨1, 1⟩
@[reducible] def MGT_STATUS_die_scale : Fld := ⟨0, 16⟩
@[reducible] def MGT_STATUS_stack_hot : Fld := ⟨16, 24⟩
@[reducible] def MGT_STATUS_optic_hot : Fld := ⟨40, 16⟩
@[reducible] def MGT_STATUS_hub_hot : Fld := ⟨56, 1⟩
@[reducible] def MGT_STATUS_board_hot : Fld := ⟨57, 1⟩
@[reducible] def MGT_STATUS_alert_in : Fld := ⟨58, 1⟩
@[reducible] def MGT_STATUS_alert_latched : Fld := ⟨59, 1⟩
@[reducible] def MGT_STATUS_sensor_failed : Fld := ⟨60, 1⟩
@[reducible] def THM_IDX_sensor : Fld := ⟨0, 9⟩
@[reducible] def THM_DATA_raw : Fld := ⟨0, 16⟩
@[reducible] def THM_DATA_filtered : Fld := ⟨16, 16⟩
@[reducible] def THM_DATA_failed : Fld := ⟨32, 1⟩
@[reducible] def THM_DATA_fail_cause : Fld := ⟨33, 2⟩
@[reducible] def THM_DATA_hot : Fld := ⟨35, 1⟩
@[reducible] def THM_DATA_hot_limit : Fld := ⟨36, 8⟩
@[reducible] def THM_DATA_trip_limit : Fld := ⟨44, 8⟩
@[reducible] def THM_DATA_present : Fld := ⟨52, 1⟩
@[reducible] def TRIP_STATUS_pending_seq : Fld := ⟨0, 48⟩
@[reducible] def TRIP_STATUS_pending : Fld := ⟨48, 1⟩
@[reducible] def TRIP_STATUS_ack_waiting : Fld := ⟨49, 1⟩
@[reducible] def TRIP_STATUS_ack_bad : Fld := ⟨50, 1⟩
@[reducible] def TRIP_STATUS_records : Fld := ⟨51, 4⟩
@[reducible] def TRIP_ACK_seq : Fld := ⟨0, 64⟩
@[reducible] def PWR_CAP_cap : Fld := ⟨0, 12⟩
@[reducible] def PWR_STATUS_cap_in_force : Fld := ⟨0, 12⟩
@[reducible] def PWR_STATUS_cap_next : Fld := ⟨12, 12⟩
@[reducible] def PWR_STATUS_mean_10ms : Fld := ⟨24, 13⟩
@[reducible] def PWR_STATUS_mean_1ms : Fld := ⟨37, 13⟩
@[reducible] def PWR_STATUS_g : Fld := ⟨50, 5⟩
@[reducible] def PWR_STATUS_cap_refused : Fld := ⟨55, 1⟩
@[reducible] def EVT_FIRST_seq : Fld := ⟨0, 64⟩
@[reducible] def EVT_NEXT_seq : Fld := ⟨0, 64⟩
@[reducible] def EVT_IDX_seq : Fld := ⟨0, 64⟩
@[reducible] def EVT_STATUS_wrapped : Fld := ⟨0, 1⟩
@[reducible] def EVT_STATUS_miss : Fld := ⟨1, 1⟩
@[reducible] def EVT_DATA_bytes : Fld := ⟨0, 64⟩
@[reducible] def MGT_HUB_ECC_corrected : Fld := ⟨0, 24⟩
@[reducible] def MGT_HUB_ECC_uncorrectable : Fld := ⟨24, 16⟩
@[reducible] def MGT_HUB_ECC_poison : Fld := ⟨40, 16⟩
@[reducible] def PMC_DENIED_count : Fld := ⟨0, 48⟩
@[reducible] def PMC_CTL_mode : Fld := ⟨0, 2⟩
@[reducible] def PMC_CTL_event : Fld := ⟨2, 10⟩
@[reducible] def PMC_CTL_priv : Fld := ⟨12, 3⟩
@[reducible] def PMC_CTL_addr_en : Fld := ⟨15, 1⟩
@[reducible] def PMC_CTL_master : Fld := ⟨16, 8⟩
@[reducible] def PMC_CTL_master_mask : Fld := ⟨24, 8⟩
@[reducible] def PMC_CTL_activity : Fld := ⟨32, 8⟩
@[reducible] def PMC_CTL_activity_mask : Fld := ⟨40, 8⟩
@[reducible] def PMC_CTL_class : Fld := ⟨48, 3⟩
@[reducible] def PMC_CNT_count : Fld := ⟨0, 48⟩
@[reducible] def PMC_ADDR_addr : Fld := ⟨0, 48⟩
@[reducible] def PMC_STATUS_ovf : Fld := ⟨0, 8⟩
@[reducible] def PMC_STATUS_filter_off : Fld := ⟨8, 1⟩
@[reducible] def PMC_STATUS_bad_event : Fld := ⟨16, 8⟩
@[reducible] def SP_CTL_credit_wd : Fld := ⟨0, 10⟩
@[reducible] def SP_CTL_stall_limit : Fld := ⟨10, 11⟩
@[reducible] def SP_CTL_unc_thresh : Fld := ⟨21, 8⟩
@[reducible] def SP_CTL_restore : Fld := ⟨29, 1⟩
@[reducible] def SP_CTL_reenable : Fld := ⟨30, 1⟩
@[reducible] def SP_CTL_clear_counts : Fld := ⟨31, 1⟩
@[reducible] def SP_CTL_test_fail : Fld := ⟨32, 1⟩
@[reducible] def SP_CTL_test_lane : Fld := ⟨33, 4⟩
@[reducible] def SP_STATUS_state : Fld := ⟨0, 4⟩
@[reducible] def SP_STATUS_width : Fld := ⟨4, 2⟩
@[reducible] def SP_STATUS_in_use : Fld := ⟨6, 2⟩
@[reducible] def SP_STATUS_down_cause : Fld := ⟨8, 4⟩
@[reducible] def SP_STATUS_slow : Fld := ⟨12, 1⟩
@[reducible] def SP_STATUS_over_reach : Fld := ⟨13, 1⟩
@[reducible] def SP_STATUS_far_reject : Fld := ⟨14, 1⟩
@[reducible] def SP_STATUS_long : Fld := ⟨15, 1⟩
@[reducible] def SP_STATUS_op_level : Fld := ⟨16, 16⟩
@[reducible] def SP_STATUS_rtt : Fld := ⟨32, 16⟩
@[reducible] def SP_STATUS_attest_fails : Fld := ⟨48, 3⟩
@[reducible] def SP_STATUS_down_event : Fld := ⟨51, 1⟩
@[reducible] def SP_LANES_failed_here : Fld := ⟨0, 16⟩
@[reducible] def SP_LANES_failed_far : Fld := ⟨16, 16⟩
@[reducible] def SP_LANES_locked : Fld := ⟨32, 16⟩
@[reducible] def SP_LIGHT_line_ok : Fld := ⟨0, 16⟩
@[reducible] def SP_LIGHT_fibre_ok : Fld := ⟨16, 1⟩
@[reducible] def SP_FAR_SERIAL_bytes : Fld := ⟨0, 64⟩
@[reducible] def SP_FAR2_rack : Fld := ⟨0, 8⟩
@[reducible] def SP_FAR2_slot : Fld := ⟨8, 8⟩
@[reducible] def SP_FAR2_port : Fld := ⟨16, 4⟩
@[reducible] def SP_FAR2_feed : Fld := ⟨20, 4⟩
@[reducible] def SP_FAR2_level : Fld := ⟨24, 16⟩
@[reducible] def SP_FAR2_long : Fld := ⟨40, 1⟩
@[reducible] def SP_POWER_IDX_lane : Fld := ⟨0, 4⟩
@[reducible] def SP_POWER_IDX_source : Fld := ⟨4, 1⟩
@[reducible] def SP_POWER_DATA_dbm : Fld := ⟨0, 16⟩
@[reducible] def SP_CNT_REPLAY_count : Fld := ⟨0, 48⟩
@[reducible] def SP_CNT_FEC_CORR_count : Fld := ⟨0, 48⟩
@[reducible] def SP_CNT_FEC_UNC_count : Fld := ⟨0, 48⟩
@[reducible] def SP_CNT_WD_count : Fld := ⟨0, 48⟩
@[reducible] def SP_CNT_QDROP_count : Fld := ⟨0, 48⟩
@[reducible] def SP_CNT_DROP_count : Fld := ⟨0, 48⟩
@[reducible] def SP_CNT_BAD_IDENT_count : Fld := ⟨0, 48⟩
@[reducible] def SP_CNT_DOWN_count : Fld := ⟨0, 48⟩
@[reducible] def SP_FAR_FW_bytes : Fld := ⟨0, 64⟩
@[reducible] def FJ_CTL_clear_counts : Fld := ⟨0, 1⟩
@[reducible] def FJ_STATUS_device : Fld := ⟨0, 12⟩
@[reducible] def FJ_STATUS_epoch : Fld := ⟨12, 1⟩
@[reducible] def FJ_STATUS_lease : Fld := ⟨13, 2⟩
@[reducible] def FJ_STATUS_lost_pair : Fld := ⟨15, 1⟩
@[reducible] def FJ_STATUS_nack : Fld := ⟨16, 1⟩
@[reducible] def FJ_TIMERS_ack_timeout : Fld := ⟨0, 12⟩
@[reducible] def FJ_TIMERS_load_timeout : Fld := ⟨12, 12⟩
@[reducible] def FJ_TIMERS_park_timeout : Fld := ⟨24, 12⟩
@[reducible] def FJ_TIMERS_retry_delay : Fld := ⟨36, 8⟩
@[reducible] def FJ_LEASE_expiry : Fld := ⟨0, 64⟩
@[reducible] def FJ_LEASE_TERM_term : Fld := ⟨0, 64⟩
@[reducible] def FJ_EPOCH_marked : Fld := ⟨0, 16⟩
@[reducible] def FJ_EPOCH_issued : Fld := ⟨16, 1⟩
@[reducible] def FJ_EPOCH_free : Fld := ⟨17, 1⟩
@[reducible] def FJ_EPOCH_draining : Fld := ⟨18, 1⟩
@[reducible] def FJ_NACK_LOG_code : Fld := ⟨0, 8⟩
@[reducible] def FJ_NACK_LOG_device : Fld := ⟨8, 12⟩
@[reducible] def FJ_NACK_LOG_chan : Fld := ⟨20, 8⟩
@[reducible] def FJ_NACK_LOG_activity : Fld := ⟨28, 8⟩
@[reducible] def FJ_NACK_LOG_valid : Fld := ⟨36, 1⟩
@[reducible] def FJ_CNT_TX_count : Fld := ⟨0, 48⟩
@[reducible] def FJ_CNT_RX_count : Fld := ⟨0, 48⟩
@[reducible] def FJ_CNT_TRANSIT_count : Fld := ⟨0, 48⟩
@[reducible] def FJ_CNT_FALLBACK_count : Fld := ⟨0, 48⟩
@[reducible] def FJ_CNT_PARKED_count : Fld := ⟨0, 48⟩
@[reducible] def FJ_CNT_PARK_FULL_count : Fld := ⟨0, 48⟩
@[reducible] def FJ_CNT_PARK_EXPIRED_count : Fld := ⟨0, 48⟩
@[reducible] def FJ_CNT_ACK_TIMEOUT_count : Fld := ⟨0, 48⟩
@[reducible] def FJ_CNT_LOAD_TIMEOUT_count : Fld := ⟨0, 48⟩
@[reducible] def FJ_CNT_NO_ROUTE_count : Fld := ⟨0, 48⟩
@[reducible] def FJ_CNT_BAD_TAG_count : Fld := ⟨0, 48⟩
@[reducible] def FJ_CNT_RETIRED_count : Fld := ⟨0, 48⟩
@[reducible] def FJ_CNT_COMBINED_count : Fld := ⟨0, 48⟩
@[reducible] def FJ_CNT_NACK_RX_count : Fld := ⟨0, 48⟩
@[reducible] def FJ_CNT_REFUSED_count : Fld := ⟨0, 48⟩
@[reducible] def CLE_CTL_clear_counts : Fld := ⟨0, 1⟩
@[reducible] def CLE_CTL_inject_residue : Fld := ⟨1, 1⟩
@[reducible] def CLE_STATUS_slot_capacity : Fld := ⟨0, 22⟩
@[reducible] def CLE_STATUS_active : Fld := ⟨22, 7⟩
@[reducible] def CLE_STATUS_held : Fld := ⟨29, 1⟩
@[reducible] def CLE_ERR_code : Fld := ⟨0, 8⟩
@[reducible] def CLE_ERR_group : Fld := ⟨8, 6⟩
@[reducible] def CLE_ERR_valid : Fld := ⟨14, 1⟩
@[reducible] def CLE_ERR_lost : Fld := ⟨15, 1⟩
@[reducible] def CLE_ERR_received : Fld := ⟨16, 1⟩
@[reducible] def CLE_ERR_origin : Fld := ⟨17, 12⟩
@[reducible] def CLE_ERR_INFO_call : Fld := ⟨0, 32⟩
@[reducible] def CLE_ERR_INFO_step : Fld := ⟨32, 13⟩
@[reducible] def CLE_ERR_INFO_phase : Fld := ⟨45, 3⟩
@[reducible] def CLE_GRP_defined : Fld := ⟨0, 1⟩
@[reducible] def CLE_GRP_state : Fld := ⟨1, 3⟩
@[reducible] def CLE_GRP_held : Fld := ⟨4, 1⟩
@[reducible] def CLE_GRP_my_rank : Fld := ⟨5, 12⟩
@[reducible] def CLE_GRP_step : Fld := ⟨17, 13⟩
@[reducible] def CLE_GRP_call : Fld := ⟨30, 32⟩
@[reducible] def CLE_GRP_native_grant : Fld := ⟨62, 1⟩
@[reducible] def CLE_CNT_CALLS_count : Fld := ⟨0, 48⟩
@[reducible] def CLE_CNT_INEXACT_count : Fld := ⟨0, 48⟩
@[reducible] def CLE_CNT_REPEAT_count : Fld := ⟨0, 48⟩
@[reducible] def CLE_CNT_RESIDUE_count : Fld := ⟨0, 48⟩
@[reducible] def CLE_CNT_TIMEOUT_count : Fld := ⟨0, 48⟩
@[reducible] def CLE_CNT_ABORT_RX_count : Fld := ⟨0, 48⟩
@[reducible] def CLE_CNT_STALE_count : Fld := ⟨0, 48⟩
@[reducible] def KPU_CTL_clear_counts : Fld := ⟨0, 1⟩
@[reducible] def KPU_CTL_suspend : Fld := ⟨1, 1⟩
@[reducible] def KPU_CTL_full_next : Fld := ⟨2, 1⟩
@[reducible] def KPU_STATUS_role : Fld := ⟨0, 2⟩
@[reducible] def KPU_STATUS_spare_state : Fld := ⟨2, 2⟩
@[reducible] def KPU_STATUS_pair_state : Fld := ⟨4, 3⟩
@[reducible] def KPU_STATUS_pair_code : Fld := ⟨7, 8⟩
@[reducible] def KPU_STATUS_feed_override : Fld := ⟨15, 1⟩
@[reducible] def KPU_STATUS_ward_paired : Fld := ⟨16, 1⟩
@[reducible] def KPU_STATUS_replaying : Fld := ⟨17, 1⟩
@[reducible] def KPU_STATUS_overrun : Fld := ⟨18, 1⟩
@[reducible] def KPU_STATUS_journal_full : Fld := ⟨19, 1⟩
@[reducible] def KPU_STATUS_ward_lost : Fld := ⟨20, 1⟩
@[reducible] def KPU_STATUS_local_seal : Fld := ⟨21, 1⟩
@[reducible] def KPU_SNAP_STATUS_last_taken : Fld := ⟨0, 32⟩
@[reducible] def KPU_SNAP_STATUS_last_pause : Fld := ⟨32, 16⟩
@[reducible] def KPU_SEAL_sealed : Fld := ⟨0, 32⟩
@[reducible] def KPU_SEAL_sealed_prev : Fld := ⟨32, 32⟩
@[reducible] def KPU_JNL_STATUS_used : Fld := ⟨0, 32⟩
@[reducible] def KPU_JNL_STATUS_lag : Fld := ⟨32, 32⟩
@[reducible] def KPU_RIPEN_count : Fld := ⟨0, 48⟩
@[reducible] def KPU_RIPEN_TOTAL_count : Fld := ⟨0, 48⟩
@[reducible] def KPU_CNT_TAKEN_count : Fld := ⟨0, 48⟩
@[reducible] def KPU_CNT_ABANDONED_count : Fld := ⟨0, 48⟩
@[reducible] def KPU_CNT_SKIPPED_count : Fld := ⟨0, 48⟩
@[reducible] def KPU_CNT_PAGES_count : Fld := ⟨0, 48⟩
@[reducible] def KPU_CNT_JNL_STALL_count : Fld := ⟨0, 48⟩
@[reducible] def ERU_CTL_clear_counts : Fld := ⟨0, 1⟩
@[reducible] def ERU_STATUS_g : Fld := ⟨0, 7⟩
@[reducible] def ERU_STATUS_pos : Fld := ⟨7, 6⟩
@[reducible] def ERU_STATUS_degraded : Fld := ⟨13, 1⟩
@[reducible] def ERU_STATUS_parity_resync : Fld := ⟨14, 1⟩
@[reducible] def ERU_STATUS_log_full : Fld := ⟨15, 1⟩
@[reducible] def ERU_CNT_DELTA_count : Fld := ⟨0, 48⟩
@[reducible] def ERU_CNT_REBUILT_count : Fld := ⟨0, 48⟩
@[reducible] def ERU_CNT_ROLLBACK_count : Fld := ⟨0, 48⟩
@[reducible] def SEQ_CTL_test_hold : Fld := ⟨0, 4⟩
@[reducible] def SEQ_CTL_test_step : Fld := ⟨4, 1⟩
@[reducible] def SEQ_CTL_clear_stall : Fld := ⟨5, 1⟩
@[reducible] def SEQ_STATUS_cnt_saturated : Fld := ⟨0, 1⟩
@[reducible] def SEQ_STATUS_snapshot_pending : Fld := ⟨1, 1⟩
@[reducible] def SEQ_STATUS_parked : Fld := ⟨2, 1⟩
@[reducible] def SEQ_CTX_STATUS_state : Fld := ⟨0, 3⟩
@[reducible] def SEQ_CTX_STATUS_inexact : Fld := ⟨3, 1⟩
@[reducible] def SEQ_CTX_STATUS_pc : Fld := ⟨4, 12⟩
@[reducible] def SEQ_CTX_STATUS_activity : Fld := ⟨16, 8⟩
@[reducible] def SEQ_CTX_STATUS_code : Fld := ⟨24, 8⟩
@[reducible] def SEQ_ARR_STALL_count : Fld := ⟨0, 48⟩
@[reducible] def SEQ_CNT_value : Fld := ⟨0, 32⟩
@[reducible] def RING_STATUS_used : Fld := ⟨0, 13⟩
@[reducible] def RING_STATUS_slots : Fld := ⟨13, 13⟩
@[reducible] def RING_STATUS_bound : Fld := ⟨26, 1⟩
@[reducible] def RING_STATUS_source : Fld := ⟨27, 2⟩
@[reducible] def ARR_CTL_check_strict : Fld := ⟨0, 1⟩
@[reducible] def ARR_CTL_retry_enable : Fld := ⟨1, 1⟩
@[reducible] def ARR_CTL_canary_now : Fld := ⟨2, 1⟩
@[reducible] def ARR_CTL_clear_counts : Fld := ⟨3, 1⟩
@[reducible] def ARR_CTL_check_disable : Fld := ⟨4, 1⟩
@[reducible] def ARR_STATUS_state : Fld := ⟨0, 2⟩
@[reducible] def ARR_STATUS_spare_rows_used : Fld := ⟨2, 2⟩
@[reducible] def ARR_STATUS_spare_cols_used : Fld := ⟨4, 2⟩
@[reducible] def ARR_STATUS_canary_pending : Fld := ⟨6, 1⟩
@[reducible] def ARR_STATUS_canary_passed : Fld := ⟨7, 1⟩
@[reducible] def ARR_REPAIR_sr0_en : Fld := ⟨0, 1⟩
@[reducible] def ARR_REPAIR_sr0_row : Fld := ⟨1, 8⟩
@[reducible] def ARR_REPAIR_sr1_en : Fld := ⟨9, 1⟩
@[reducible] def ARR_REPAIR_sr1_row : Fld := ⟨10, 8⟩
@[reducible] def ARR_REPAIR_sc0_en : Fld := ⟨18, 1⟩
@[reducible] def ARR_REPAIR_sc0_col : Fld := ⟨19, 8⟩
@[reducible] def ARR_REPAIR_sc1_en : Fld := ⟨27, 1⟩
@[reducible] def ARR_REPAIR_sc1_col : Fld := ⟨28, 8⟩
@[reducible] def ARR_SKEW_IDX_entry : Fld := ⟨0, 9⟩
@[reducible] def ARR_SKEW_DATA_feeder_delay : Fld := ⟨0, 9⟩
@[reducible] def ARR_SKEW_DATA_physical_row : Fld := ⟨9, 8⟩
@[reducible] def ARR_SKEW_DATA_on_spare : Fld := ⟨17, 1⟩
@[reducible] def ARR_SKEW_DATA_spare_id : Fld := ⟨18, 1⟩
@[reducible] def ARR_ERR_STATUS_code : Fld := ⟨0, 8⟩
@[reducible] def ARR_ERR_STATUS_cause : Fld := ⟨8, 4⟩
@[reducible] def ARR_ERR_STATUS_valid : Fld := ⟨12, 1⟩
@[reducible] def ARR_ERR_STATUS_lost : Fld := ⟨13, 1⟩
@[reducible] def ARR_ERR_STATUS_retried : Fld := ⟨14, 1⟩
@[reducible] def ARR_ERR_STATUS_failed : Fld := ⟨15, 1⟩
@[reducible] def ARR_ERR_INFO_instr : Fld := ⟨0, 12⟩
@[reducible] def ARR_ERR_INFO_pass : Fld := ⟨12, 20⟩
@[reducible] def ARR_ERR_INFO_row : Fld := ⟨32, 12⟩
@[reducible] def ARR_ERR_INFO_activity : Fld := ⟨44, 8⟩
@[reducible] def ARR_ERR_DIFF_diff : Fld := ⟨0, 64⟩
@[reducible] def ARR_CANARY_MAIN_sum : Fld := ⟨0, 32⟩
@[reducible] def ARR_INJECT_arm : Fld := ⟨0, 1⟩
@[reducible] def ARR_INJECT_bit : Fld := ⟨1, 6⟩
@[reducible] def ARR_INJECT_column : Fld := ⟨8, 8⟩
@[reducible] def ARR_CANARY_EARLY_sum : Fld := ⟨0, 32⟩
@[reducible] def ARR_CANARY_LATE_sum : Fld := ⟨0, 32⟩
@[reducible] def ARR_CNT_CHECKED_count : Fld := ⟨0, 48⟩
@[reducible] def ARR_CNT_SKIP_SPECIAL_count : Fld := ⟨0, 48⟩
@[reducible] def ARR_CNT_SKIP_OVERFLOW_count : Fld := ⟨0, 48⟩
@[reducible] def ARR_CNT_SKIP_INEXACT_count : Fld := ⟨0, 48⟩
@[reducible] def ARR_CNT_SKIP_WIDE_count : Fld := ⟨0, 48⟩
@[reducible] def ARR_CNT_SPLIT_count : Fld := ⟨0, 48⟩
@[reducible] def ARR_CNT_RETRY_count : Fld := ⟨0, 48⟩
@[reducible] def MEM_CTL_clear_counts : Fld := ⟨0, 1⟩
@[reducible] def MEM_CTL_scrub_off : Fld := ⟨1, 1⟩
@[reducible] def MEM_SRAM_ECC_corrected : Fld := ⟨0, 24⟩
@[reducible] def MEM_SRAM_ECC_uncorrectable : Fld := ⟨24, 16⟩
@[reducible] def MEM_SRAM_ECC_poison : Fld := ⟨40, 16⟩
@[reducible] def MEM_BND_ECC_corrected : Fld := ⟨0, 24⟩
@[reducible] def MEM_BND_ECC_uncorrectable : Fld := ⟨24, 16⟩
@[reducible] def MEM_BND_ECC_poison : Fld := ⟨40, 16⟩
@[reducible] def MEM_BND_THERM_refresh : Fld := ⟨0, 8⟩
@[reducible] def MEM_BND_THERM_sensor_failed : Fld := ⟨8, 4⟩
@[reducible] def MEM_BND_THERM_hot_scale : Fld := ⟨12, 2⟩
@[reducible] def DIE_STATUS_state : Fld := ⟨0, 3⟩
@[reducible] def DIE_STATUS_fence_cause : Fld := ⟨3, 4⟩
@[reducible] def DIE_STATUS_loss_count : Fld := ⟨7, 8⟩
@[reducible] def DL_CTL_lane_err_thresh : Fld := ⟨0, 16⟩
@[reducible] def DL_CTL_restore : Fld := ⟨16, 1⟩
@[reducible] def DL_CTL_clear_counts : Fld := ⟨17, 1⟩
@[reducible] def DL_CTL_test_fail : Fld := ⟨18, 1⟩
@[reducible] def DL_CTL_test_link : Fld := ⟨19, 2⟩
@[reducible] def DL_CTL_test_lane : Fld := ⟨21, 11⟩
@[reducible] def DL_LINK_STATUS_width : Fld := ⟨0, 2⟩
@[reducible] def DL_LINK_STATUS_in_use : Fld := ⟨2, 2⟩
@[reducible] def DL_LINK_STATUS_retrain_pending : Fld := ⟨4, 1⟩
@[reducible] def DL_LINK_STATUS_retraining : Fld := ⟨5, 1⟩
@[reducible] def DL_LINK_STATUS_spares_used : Fld := ⟨6, 6⟩
@[reducible] def DL_LINK_STATUS_first_failed : Fld := ⟨12, 11⟩
@[reducible] def DL_LINK_STATUS_degraded : Fld := ⟨23, 1⟩
@[reducible] def DL_LINK_STATUS_light_lo : Fld := ⟨24, 1⟩
@[reducible] def DL_LINK_STATUS_light_hi : Fld := ⟨25, 1⟩
@[reducible] def DL_DROP_CNT_count : Fld := ⟨0, 48⟩
@[reducible] def HL_RETRY_CNT_count : Fld := ⟨0, 48⟩
@[reducible] def NLE_RETRY_CNT_count : Fld := ⟨0, 48⟩
@[reducible] def NLW_RETRY_CNT_count : Fld := ⟨0, 48⟩
@[reducible] def FMC_CTL_retire_thresh : Fld := ⟨0, 16⟩
@[reducible] def FMC_CTL_copy_share : Fld := ⟨16, 4⟩
@[reducible] def FMC_CTL_clear_counts : Fld := ⟨20, 1⟩
@[reducible] def FMC_CTL_scrub_off : Fld := ⟨21, 1⟩
@[reducible] def FMC_STATUS_copying : Fld := ⟨0, 1⟩
@[reducible] def FMC_STATUS_retired_count : Fld := ⟨1, 5⟩
@[reducible] def FMC_STATUS_second_fault : Fld := ⟨6, 1⟩
@[reducible] def FMC_DOM_CFG_valid : Fld := ⟨0, 1⟩
@[reducible] def FMC_DOM_CFG_kind : Fld := ⟨1, 2⟩
@[reducible] def FMC_DOM_CFG_die : Fld := ⟨3, 3⟩
@[reducible] def FMC_DOM_CFG_row_base : Fld := ⟨6, 24⟩
@[reducible] def FMC_DOM_CFG_rows : Fld := ⟨30, 24⟩
@[reducible] def FMC_DOM_CFG_narrow : Fld := ⟨54, 8⟩
@[reducible] def FMC_DOM_KEY_row_key : Fld := ⟨0, 24⟩
@[reducible] def FMC_DOM_KEY_hi_rot : Fld := ⟨24, 2⟩
@[reducible] def FMC_STK_STATUS_present : Fld := ⟨0, 1⟩
@[reducible] def FMC_STK_STATUS_retire_state : Fld := ⟨1, 3⟩
@[reducible] def FMC_STK_STATUS_retired_ch : Fld := ⟨4, 5⟩
@[reducible] def FMC_STK_STATUS_copy_rows : Fld := ⟨9, 24⟩
@[reducible] def FMC_STK_STATUS_refresh_x2 : Fld := ⟨33, 1⟩
@[reducible] def FMC_STK_STATUS_clear_retire : Fld := ⟨34, 1⟩
@[reducible] def FMC_CH_ERR_corrected : Fld := ⟨0, 24⟩
@[reducible] def FMC_CH_ERR_uncorrectable : Fld := ⟨24, 16⟩
@[reducible] def FMC_CH_ERR_window : Fld := ⟨40, 16⟩
@[reducible] def FMC_MARGIN_CTL_start : Fld := ⟨0, 1⟩
@[reducible] def FMC_MARGIN_CTL_param : Fld := ⟨1, 3⟩
@[reducible] def FMC_MARGIN_CTL_offset : Fld := ⟨4, 6⟩
@[reducible] def FMC_MARGIN_CTL_stack : Fld := ⟨10, 5⟩
@[reducible] def FMC_MARGIN_CTL_channel : Fld := ⟨15, 5⟩
@[reducible] def FMC_MARGIN_CTL_granules : Fld := ⟨20, 24⟩
@[reducible] def FMC_MARGIN_RESULT_done : Fld := ⟨0, 1⟩
@[reducible] def FMC_MARGIN_RESULT_status : Fld := ⟨1, 8⟩
@[reducible] def FMC_MARGIN_RESULT_errors : Fld := ⟨9, 32⟩
@[reducible] def FMC_MARGIN_RESULT_first_line : Fld := ⟨41, 7⟩
@[reducible] def SGU_CTL_clear_counts : Fld := ⟨0, 1⟩
@[reducible] def SGU_STATUS_channels : Fld := ⟨0, 7⟩
@[reducible] def SGU_STATUS_tables : Fld := ⟨7, 1⟩
@[reducible] def SGU_STATUS_waiting : Fld := ⟨8, 1⟩
@[reducible] def SGU_CH_defined : Fld := ⟨0, 1⟩
@[reducible] def SGU_CH_mode : Fld := ⟨1, 1⟩
@[reducible] def SGU_CH_law : Fld := ⟨2, 2⟩
@[reducible] def SGU_CH_slots : Fld := ⟨4, 11⟩
@[reducible] def SGU_CH_frames : Fld := ⟨15, 24⟩
@[reducible] def SGU_CH_dropped : Fld := ⟨39, 13⟩
@[reducible] def SGU_CH_gaps : Fld := ⟨52, 12⟩
@[reducible] def MAP_SEL_space : Fld := ⟨0, 4⟩
@[reducible] def MAP_SEL_unit : Fld := ⟨8, 5⟩
@[reducible] def MAP_ADDR_offset : Fld := ⟨3, 45⟩
@[reducible] def MAP_STATUS_code : Fld := ⟨0, 8⟩
@[reducible] def MAP_STATUS_err : Fld := ⟨8, 1⟩
@[reducible] def MAP_STATUS_denied : Fld := ⟨9, 32⟩
@[reducible] def HLC_TIME_time : Fld := ⟨0, 64⟩
@[reducible] def HLC_STEP_boundary : Fld := ⟨0, 32⟩
@[reducible] def HLC_STEP_paused : Fld := ⟨32, 1⟩
@[reducible] def HLC_TIMER_time : Fld := ⟨0, 64⟩
@[reducible] def HLC_IRQ_timer : Fld := ⟨0, 1⟩
@[reducible] def HLC_IRQ_step : Fld := ⟨1, 1⟩
@[reducible] def HLC_IRQ_pause_end : Fld := ⟨2, 1⟩
@[reducible] def HLC_IRQ_watch : Fld := ⟨3, 32⟩
@[reducible] def HLC_IRQ_EN_timer : Fld := ⟨0, 1⟩
@[reducible] def HLC_IRQ_EN_step : Fld := ⟨1, 1⟩
@[reducible] def HLC_IRQ_EN_pause_end : Fld := ⟨2, 1⟩
@[reducible] def HLC_IRQ_EN_watch : Fld := ⟨3, 32⟩
@[reducible] def HLC_SIG_counter : Fld := ⟨0, 5⟩
@[reducible] def HLC_SIG_core : Fld := ⟨5, 5⟩
@[reducible] def HLC_SIG_value : Fld := ⟨32, 32⟩
@[reducible] def HLC_WATCH_counter : Fld := ⟨0, 5⟩
@[reducible] def HLC_WATCH_core : Fld := ⟨5, 5⟩
@[reducible] def HLC_WATCH_value : Fld := ⟨10, 32⟩
@[reducible] def HLC_WATCH_enable : Fld := ⟨42, 1⟩
end F

/-- Register rows, part 0. -/
def regRows0 : List RegRow :=
  [⟨"GLB_ID", 0x0, [], [⟨F.GLB_ID_part, .ro, 0x0⟩, ⟨F.GLB_ID_stepping, .ro, 0x1⟩, ⟨F.GLB_ID_via_port, .ro, 0x0⟩]⟩,
   ⟨"GLB_CAPABILITY", 0x8, [], [⟨F.GLB_CAPABILITY_stack_present, .ro, 0x0⟩, ⟨F.GLB_CAPABILITY_sgu_present, .ro, 0x0⟩, ⟨F.GLB_CAPABILITY_eru_present, .ro, 0x0⟩, ⟨F.GLB_CAPABILITY_long_reach, .ro, 0x0⟩, ⟨F.GLB_CAPABILITY_die_present, .ro, 0xff⟩, ⟨F.GLB_CAPABILITY_hauno_count, .ro, 0x10⟩, ⟨F.GLB_CAPABILITY_arith_level, .ro, 0x1⟩]⟩,
   ⟨"GLB_STATUS", 0x10, [], [⟨F.GLB_STATUS_absent_access, .w1c, 0x0⟩, ⟨F.GLB_STATUS_token_port, .ro, 0x0⟩, ⟨F.GLB_STATUS_hpa_up, .ro, 0x0⟩, ⟨F.GLB_STATUS_hpb_up, .ro, 0x0⟩]⟩,
   ⟨"GLB_STATE", 0x18, [], [⟨F.GLB_STATE_state, .ro, 0x1⟩, ⟨F.GLB_STATE_previous, .ro, 0x0⟩, ⟨F.GLB_STATE_changes, .ro, 0x0⟩]⟩,
   ⟨"GLB_SERIAL", 0x20, [(0x8, 2)], [⟨F.GLB_SERIAL_bytes, .ro, 0x0⟩]⟩,
   ⟨"CLK_ACLK", 0x2000, [(0x8, 8)], [⟨F.CLK_ACLK_freq, .ro, 0x0⟩, ⟨F.CLK_ACLK_low, .ro, 0x7ff⟩, ⟨F.CLK_ACLK_clear_low, .w1s, 0x0⟩]⟩,
   ⟨"CLK_STATUS", 0x2040, [], [⟨F.CLK_STATUS_hclk_lock, .ro, 0x0⟩, ⟨F.CLK_STATUS_cclk_lock, .ro, 0x0⟩, ⟨F.CLK_STATUS_tclk_lock, .ro, 0x0⟩, ⟨F.CLK_STATUS_tclk_holdover, .ro, 0x0⟩, ⟨F.CLK_STATUS_aclk_run, .ro, 0x0⟩, ⟨F.CLK_STATUS_bclk_lock, .ro, 0x0⟩, ⟨F.CLK_STATUS_fclk_lock, .ro, 0x0⟩, ⟨F.CLK_STATUS_lclk_lock, .ro, 0x0⟩, ⟨F.CLK_STATUS_pclk_lock, .ro, 0x0⟩]⟩,
   ⟨"XB_STATUS", 0x4000, [], [⟨F.XB_STATUS_dead_dies, .ro, 0x0⟩]⟩,
   ⟨"XB_PORT_STATUS", 0x4100, [(0x8, 40)], [⟨F.XB_PORT_STATUS_state, .ro, 0x0⟩, ⟨F.XB_PORT_STATUS_credit_wait, .ro, 0x0⟩]⟩,
   ⟨"PIN_CTL", 0x6000, [], [⟨F.PIN_CTL_clear_counts, .w1s, 0x0⟩]⟩,
   ⟨"PIN_STRAPS", 0x6008, [], [⟨F.PIN_STRAPS_slot_id, .ro, 0x0⟩, ⟨F.PIN_STRAPS_rack_id, .ro, 0x0⟩, ⟨F.PIN_STRAPS_feed_id, .ro, 0x0⟩, ⟨F.PIN_STRAPS_changed, .w1c, 0x0⟩]⟩,
   ⟨"RST_STATUS", 0x6010, [], [⟨F.RST_STATUS_cause, .ro, 0x0⟩, ⟨F.RST_STATUS_input_ok, .ro, 0x0⟩, ⟨F.RST_STATUS_input_dv, .ro, 0x0⟩]⟩]
/-- Register rows, part 1. -/
def regRows1 : List RegRow :=
  [⟨"TIME_STATUS", 0x6018, [], [⟨F.TIME_STATUS_acquired, .ro, 0x0⟩, ⟨F.TIME_STATUS_holdover, .ro, 0x0⟩, ⟨F.TIME_STATUS_rackclk_ok, .ro, 0x0⟩, ⟨F.TIME_STATUS_slewing, .ro, 0x0⟩, ⟨F.TIME_STATUS_alert_filtered, .ro, 0x0⟩, ⟨F.TIME_STATUS_last_offset, .ro, 0x0⟩]⟩,
   ⟨"TIME_NOW", 0x6020, [], [⟨F.TIME_NOW_count, .ro, 0x0⟩]⟩,
   ⟨"TIME_OFFSET", 0x6028, [(0x8, 4)], [⟨F.TIME_OFFSET_offset, .ro, 0x0⟩, ⟨F.TIME_OFFSET_valid, .ro, 0x0⟩]⟩,
   ⟨"PIN_CNT_TICK_EARLY", 0x6100, [], [⟨F.PIN_CNT_TICK_EARLY_count, .ro, 0x0⟩]⟩,
   ⟨"PIN_CNT_TICK_PHASE", 0x6108, [], [⟨F.PIN_CNT_TICK_PHASE_count, .ro, 0x0⟩]⟩,
   ⟨"PIN_CNT_TICK_WIDTH", 0x6110, [], [⟨F.PIN_CNT_TICK_WIDTH_count, .ro, 0x0⟩]⟩,
   ⟨"PIN_CNT_HOLDOVER", 0x6118, [], [⟨F.PIN_CNT_HOLDOVER_count, .ro, 0x0⟩]⟩,
   ⟨"PIN_CNT_RESET_SHORT", 0x6120, [], [⟨F.PIN_CNT_RESET_SHORT_count, .ro, 0x0⟩]⟩,
   ⟨"PIN_CNT_ALERT", 0x6138, [], [⟨F.PIN_CNT_ALERT_count, .ro, 0x0⟩]⟩,
   ⟨"PIN_CNT_PERST_SHORT", 0x6128, [(0x8, 2)], [⟨F.PIN_CNT_PERST_SHORT_count, .ro, 0x0⟩]⟩,
   ⟨"RIND_STATUS", 0x10000, [], [⟨F.RIND_STATUS_owned, .ro, 0x0⟩, ⟨F.RIND_STATUS_transfer_pending, .ro, 0x0⟩, ⟨F.RIND_STATUS_debug_ever, .ro, 0x0⟩, ⟨F.RIND_STATUS_jtag_open, .ro, 0x0⟩, ⟨F.RIND_STATUS_boot_slot, .ro, 0x0⟩, ⟨F.RIND_STATUS_next_slot, .ro, 0x0⟩, ⟨F.RIND_STATUS_rollback, .ro, 0x0⟩, ⟨F.RIND_STATUS_transfers, .ro, 0x0⟩, ⟨F.RIND_STATUS_fw_update, .ro, 0x0⟩, ⟨F.RIND_STATUS_lease_key, .ro, 0x0⟩, ⟨F.RIND_STATUS_dump_key, .ro, 0x0⟩, ⟨F.RIND_STATUS_boot_count, .ro, 0x0⟩]⟩,
   ⟨"RIND_OWNER", 0x10008, [(0x8, 2)], [⟨F.RIND_OWNER_bytes, .ro, 0x0⟩]⟩]
/-- Register rows, part 2. -/
def regRows2 : List RegRow :=
  [⟨"RIND_MBOX_CTL", 0x10018, [(0x8000000, 2)], [⟨F.RIND_MBOX_CTL_begin, .w1s, 0x0⟩, ⟨F.RIND_MBOX_CTL_commit, .w1s, 0x0⟩, ⟨F.RIND_MBOX_CTL_abort, .w1s, 0x0⟩, ⟨F.RIND_MBOX_CTL_clear_counts, .w1s, 0x0⟩]⟩,
   ⟨"RIND_MBOX_STATUS", 0x10020, [(0x8000000, 2)], [⟨F.RIND_MBOX_STATUS_state, .ro, 0x0⟩, ⟨F.RIND_MBOX_STATUS_in_words, .ro, 0x0⟩, ⟨F.RIND_MBOX_STATUS_out_words, .ro, 0x0⟩, ⟨F.RIND_MBOX_STATUS_code, .ro, 0x0⟩, ⟨F.RIND_MBOX_STATUS_stray, .w1c, 0x0⟩]⟩,
   ⟨"RIND_CNT_REC_BAD", 0x10100, [], [⟨F.RIND_CNT_REC_BAD_count, .ro, 0x0⟩]⟩,
   ⟨"RIND_CNT_REC_DUP", 0x10108, [], [⟨F.RIND_CNT_REC_DUP_count, .ro, 0x0⟩]⟩,
   ⟨"RIND_CNT_RESYNC", 0x10110, [], [⟨F.RIND_CNT_RESYNC_count, .ro, 0x0⟩]⟩,
   ⟨"RIND_CNT_ATT_FAIL", 0x10118, [], [⟨F.RIND_CNT_ATT_FAIL_count, .ro, 0x0⟩]⟩,
   ⟨"RIND_CNT_KEY_REFUSED", 0x10120, [], [⟨F.RIND_CNT_KEY_REFUSED_count, .ro, 0x0⟩]⟩,
   ⟨"RIND_CNT_MBOX_REFUSED", 0x10128, [], [⟨F.RIND_CNT_MBOX_REFUSED_count, .ro, 0x0⟩]⟩,
   ⟨"HP_CMD_PUSH", 0x20000, [(0x10000, 2)], [⟨F.HP_CMD_PUSH_opcode, .wo, 0x0⟩, ⟨F.HP_CMD_PUSH_tag, .wo, 0x0⟩]⟩,
   ⟨"HP_CMD_STATUS", 0x20008, [(0x10000, 2)], [⟨F.HP_CMD_STATUS_state, .ro, 0x0⟩, ⟨F.HP_CMD_STATUS_overrun, .w1c, 0x0⟩, ⟨F.HP_CMD_STATUS_opcode, .ro, 0x0⟩, ⟨F.HP_CMD_STATUS_tag, .ro, 0x0⟩, ⟨F.HP_CMD_STATUS_code, .ro, 0x0⟩]⟩,
   ⟨"HP_MSIX_MOD", 0x20010, [(0x10000, 2)], [⟨F.HP_MSIX_MOD_interval, .rw, 0xa⟩]⟩,
   ⟨"HP_CMD_NONCE_HI", 0x20018, [(0x10000, 2), (0x8, 2)], [⟨F.HP_CMD_NONCE_HI_value, .ro, 0x0⟩]⟩]
/-- Register rows, part 3. -/
def regRows3 : List RegRow :=
  [⟨"HP_CMD_ARG", 0x20040, [(0x10000, 2), (0x8, 8)], [⟨F.HP_CMD_ARG_value, .rw, 0x0⟩]⟩,
   ⟨"HP_CMD_RES", 0x20080, [(0x10000, 2), (0x8, 4)], [⟨F.HP_CMD_RES_value, .ro, 0x0⟩]⟩,
   ⟨"HP_CMD_PAYLOAD", 0x20100, [(0x10000, 2), (0x8, 32)], [⟨F.HP_CMD_PAYLOAD_value, .rw, 0x0⟩]⟩,
   ⟨"HP_MSIX_TABLE", 0x21000, [(0x10000, 2), (0x8, 128)], [⟨F.HP_MSIX_TABLE_value, .rw, 0x0⟩]⟩,
   ⟨"HP_MSIX_PBA", 0x21400, [(0x10000, 2)], [⟨F.HP_MSIX_PBA_pending, .ro, 0x0⟩]⟩,
   ⟨"HP_STREAM_STATUS", 0x28000, [(0x10000, 2), (0x8, 4096)], [⟨F.HP_STREAM_STATUS_count, .ro, 0x0⟩, ⟨F.HP_STREAM_STATUS_bound, .ro, 0x0⟩, ⟨F.HP_STREAM_STATUS_direction, .ro, 0x0⟩, ⟨F.HP_STREAM_STATUS_activity, .ro, 0x0⟩, ⟨F.HP_STREAM_STATUS_hosts, .ro, 0x0⟩, ⟨F.HP_STREAM_STATUS_dropped, .ro, 0x0⟩, ⟨F.HP_STREAM_STATUS_clear_dropped, .w1s, 0x0⟩]⟩,
   ⟨"IMG_CTL", 0x40000, [], [⟨F.IMG_CTL_begin, .w1s, 0x0⟩, ⟨F.IMG_CTL_kind, .rw, 0x0⟩, ⟨F.IMG_CTL_commit, .w1s, 0x0⟩, ⟨F.IMG_CTL_abort, .w1s, 0x0⟩]⟩,
   ⟨"IMG_STATUS", 0x40008, [], [⟨F.IMG_STATUS_load_state, .ro, 0x0⟩, ⟨F.IMG_STATUS_foreign, .w1c, 0x0⟩, ⟨F.IMG_STATUS_stray, .w1c, 0x0⟩, ⟨F.IMG_STATUS_words, .ro, 0x0⟩, ⟨F.IMG_STATUS_busy, .w1c, 0x0⟩]⟩,
   ⟨"IMG_RESULT", 0x40010, [], [⟨F.IMG_RESULT_code, .ro, 0x0⟩, ⟨F.IMG_RESULT_check, .ro, 0x0⟩, ⟨F.IMG_RESULT_kind, .ro, 0x0⟩, ⟨F.IMG_RESULT_slot, .ro, 0x0⟩, ⟨F.IMG_RESULT_record, .ro, 0xffffff⟩]⟩,
   ⟨"IMG_ACTIVE", 0x40018, [], [⟨F.IMG_ACTIVE_in_force, .ro, 0x0⟩, ⟨F.IMG_ACTIVE_pending, .ro, 0x0⟩, ⟨F.IMG_ACTIVE_apply_state, .ro, 0x0⟩, ⟨F.IMG_ACTIVE_last_code, .ro, 0x0⟩, ⟨F.IMG_ACTIVE_last_check, .ro, 0x0⟩]⟩,
   ⟨"IMG_FLOOR", 0x40020, [], [⟨F.IMG_FLOOR_floor, .ro, 0x0⟩]⟩,
   ⟨"IMG_SLOT", 0x40028, [(0x8, 16)], [⟨F.IMG_SLOT_resident, .ro, 0x0⟩, ⟨F.IMG_SLOT_in_force, .ro, 0x0⟩, ⟨F.IMG_SLOT_pending, .ro, 0x0⟩, ⟨F.IMG_SLOT_size, .ro, 0x0⟩, ⟨F.IMG_SLOT_seq_lo, .ro, 0x0⟩]⟩]
/-- Register rows, part 4. -/
def regRows4 : List RegRow :=
  [⟨"IMG_BASE_DIGEST", 0x40100, [(0x8, 6)], [⟨F.IMG_BASE_DIGEST_bytes, .ro, 0x0⟩]⟩,
   ⟨"IMG_CFG_DIGEST", 0x40140, [(0x8, 6)], [⟨F.IMG_CFG_DIGEST_bytes, .ro, 0x0⟩]⟩,
   ⟨"BUD_CTL", 0x80000, [], [⟨F.BUD_CTL_clear_counts, .w1s, 0x0⟩]⟩,
   ⟨"BUD_STATUS", 0x80008, [], [⟨F.BUD_STATUS_period, .ro, 0x0⟩, ⟨F.BUD_STATUS_gov_scale, .ro, 0x10⟩, ⟨F.BUD_STATUS_pool_open, .ro, 0x1⟩, ⟨F.BUD_STATUS_far_scaled, .ro, 0x0⟩, ⟨F.BUD_STATUS_cap_unmet, .w1c, 0x0⟩, ⟨F.BUD_STATUS_unknown_act, .ro, 0x0⟩]⟩,
   ⟨"BUD_IDX", 0x80010, [], [⟨F.BUD_IDX_activity, .rw, 0x0⟩, ⟨F.BUD_IDX_resource, .rw, 0x0⟩, ⟨F.BUD_IDX_instance, .rw, 0x0⟩]⟩,
   ⟨"BUD_DATA0", 0x80018, [], []⟩,
   ⟨"BUD_DATA1", 0x80020, [], []⟩,
   ⟨"BUD_DATA2", 0x80028, [], []⟩,
   ⟨"ACT_STATE", 0x81000, [(0x8, 256)], [⟨F.ACT_STATE_state, .ro, 0x0⟩, ⟨F.ACT_STATE_kind, .ro, 0x0⟩, ⟨F.ACT_STATE_native_ok, .ro, 0x0⟩, ⟨F.ACT_STATE_job_key_id, .ro, 0x0⟩, ⟨F.ACT_STATE_gated_now, .ro, 0x0⟩]⟩,
   ⟨"MGT_CTL", 0xc0000, [], [⟨F.MGT_CTL_alert_rearm, .w1s, 0x0⟩, ⟨F.MGT_CTL_clear_counts, .w1s, 0x0⟩]⟩,
   ⟨"MGT_STATUS", 0xc0008, [], [⟨F.MGT_STATUS_die_scale, .ro, 0x0⟩, ⟨F.MGT_STATUS_stack_hot, .ro, 0x0⟩, ⟨F.MGT_STATUS_optic_hot, .ro, 0x0⟩, ⟨F.MGT_STATUS_hub_hot, .ro, 0x0⟩, ⟨F.MGT_STATUS_board_hot, .ro, 0x0⟩, ⟨F.MGT_STATUS_alert_in, .ro, 0x0⟩, ⟨F.MGT_STATUS_alert_latched, .ro, 0x0⟩, ⟨F.MGT_STATUS_sensor_failed, .w1c, 0x0⟩]⟩,
   ⟨"THM_IDX", 0xc0010, [], [⟨F.THM_IDX_sensor, .rw, 0x0⟩]⟩]
/-- Register rows, part 5. -/
def regRows5 : List RegRow :=
  [⟨"THM_DATA", 0xc0018, [], [⟨F.THM_DATA_raw, .ro, 0x0⟩, ⟨F.THM_DATA_filtered, .ro, 0x0⟩, ⟨F.THM_DATA_failed, .ro, 0x0⟩, ⟨F.THM_DATA_fail_cause, .ro, 0x0⟩, ⟨F.THM_DATA_hot, .ro, 0x0⟩, ⟨F.THM_DATA_hot_limit, .ro, 0x0⟩, ⟨F.THM_DATA_trip_limit, .ro, 0x0⟩, ⟨F.THM_DATA_present, .ro, 0x0⟩]⟩,
   ⟨"TRIP_STATUS", 0xc0020, [], [⟨F.TRIP_STATUS_pending_seq, .ro, 0x0⟩, ⟨F.TRIP_STATUS_pending, .ro, 0x0⟩, ⟨F.TRIP_STATUS_ack_waiting, .ro, 0x0⟩, ⟨F.TRIP_STATUS_ack_bad, .w1c, 0x0⟩, ⟨F.TRIP_STATUS_records, .ro, 0x0⟩]⟩,
   ⟨"TRIP_ACK", 0xc0028, [], [⟨F.TRIP_ACK_seq, .wo, 0x0⟩]⟩,
   ⟨"PWR_CAP", 0xc0030, [], [⟨F.PWR_CAP_cap, .rw, 0xe10⟩]⟩,
   ⟨"PWR_STATUS", 0xc0038, [], [⟨F.PWR_STATUS_cap_in_force, .ro, 0xe10⟩, ⟨F.PWR_STATUS_cap_next, .ro, 0xe10⟩, ⟨F.PWR_STATUS_mean_10ms, .ro, 0x0⟩, ⟨F.PWR_STATUS_mean_1ms, .ro, 0x0⟩, ⟨F.PWR_STATUS_g, .ro, 0x10⟩, ⟨F.PWR_STATUS_cap_refused, .w1c, 0x0⟩]⟩,
   ⟨"EVT_FIRST", 0xc0040, [], [⟨F.EVT_FIRST_seq, .ro, 0x0⟩]⟩,
   ⟨"EVT_NEXT", 0xc0048, [], [⟨F.EVT_NEXT_seq, .ro, 0x0⟩]⟩,
   ⟨"EVT_IDX", 0xc0050, [], [⟨F.EVT_IDX_seq, .rw, 0x0⟩]⟩,
   ⟨"EVT_STATUS", 0xc0058, [], [⟨F.EVT_STATUS_wrapped, .ro, 0x0⟩, ⟨F.EVT_STATUS_miss, .w1c, 0x0⟩]⟩,
   ⟨"EVT_DATA", 0xc0060, [(0x8, 4)], [⟨F.EVT_DATA_bytes, .ro, 0x0⟩]⟩,
   ⟨"MGT_HUB_ECC", 0xc0080, [], [⟨F.MGT_HUB_ECC_corrected, .ro, 0x0⟩, ⟨F.MGT_HUB_ECC_uncorrectable, .ro, 0x0⟩, ⟨F.MGT_HUB_ECC_poison, .ro, 0x0⟩]⟩,
   ⟨"PMC_DENIED", 0xc0088, [], [⟨F.PMC_DENIED_count, .ro, 0x0⟩]⟩]
/-- Register rows, part 6. -/
def regRows6 : List RegRow :=
  [⟨"PMC_CTL", 0xd0000, [(0x100, 104), (0x8, 8)], [⟨F.PMC_CTL_mode, .rw, 0x0⟩, ⟨F.PMC_CTL_event, .rw, 0x0⟩, ⟨F.PMC_CTL_priv, .rw, 0x7⟩, ⟨F.PMC_CTL_addr_en, .rw, 0x0⟩, ⟨F.PMC_CTL_master, .rw, 0x0⟩, ⟨F.PMC_CTL_master_mask, .rw, 0x0⟩, ⟨F.PMC_CTL_activity, .rw, 0x0⟩, ⟨F.PMC_CTL_activity_mask, .rw, 0x0⟩, ⟨F.PMC_CTL_class, .rw, 0x7⟩]⟩,
   ⟨"PMC_CNT", 0xd0040, [(0x100, 104), (0x8, 8)], [⟨F.PMC_CNT_count, .rw, 0x0⟩]⟩,
   ⟨"PMC_ADDR", 0xd0080, [(0x100, 104), (0x8, 2)], [⟨F.PMC_ADDR_addr, .rw, 0x0⟩]⟩,
   ⟨"PMC_STATUS", 0xd0090, [(0x100, 104)], [⟨F.PMC_STATUS_ovf, .w1c, 0x0⟩, ⟨F.PMC_STATUS_filter_off, .ro, 0x0⟩, ⟨F.PMC_STATUS_bad_event, .ro, 0x0⟩]⟩,
   ⟨"SP_CTL", 0x100000, [(0x1000, 16)], [⟨F.SP_CTL_credit_wd, .rw, 0x64⟩, ⟨F.SP_CTL_stall_limit, .rw, 0x7d0⟩, ⟨F.SP_CTL_unc_thresh, .rw, 0x4⟩, ⟨F.SP_CTL_restore, .w1s, 0x0⟩, ⟨F.SP_CTL_reenable, .w1s, 0x0⟩, ⟨F.SP_CTL_clear_counts, .w1s, 0x0⟩, ⟨F.SP_CTL_test_fail, .w1s, 0x0⟩, ⟨F.SP_CTL_test_lane, .rw, 0x0⟩]⟩,
   ⟨"SP_STATUS", 0x100008, [(0x1000, 16)], [⟨F.SP_STATUS_state, .ro, 0x0⟩, ⟨F.SP_STATUS_width, .ro, 0x3⟩, ⟨F.SP_STATUS_in_use, .ro, 0x0⟩, ⟨F.SP_STATUS_down_cause, .ro, 0x0⟩, ⟨F.SP_STATUS_slow, .w1c, 0x0⟩, ⟨F.SP_STATUS_over_reach, .ro, 0x0⟩, ⟨F.SP_STATUS_far_reject, .ro, 0x0⟩, ⟨F.SP_STATUS_long, .ro, 0x0⟩, ⟨F.SP_STATUS_op_level, .ro, 0x0⟩, ⟨F.SP_STATUS_rtt, .ro, 0x0⟩, ⟨F.SP_STATUS_attest_fails, .ro, 0x0⟩, ⟨F.SP_STATUS_down_event, .w1c, 0x0⟩]⟩,
   ⟨"SP_LANES", 0x100010, [(0x1000, 16)], [⟨F.SP_LANES_failed_here, .ro, 0x0⟩, ⟨F.SP_LANES_failed_far, .ro, 0x0⟩, ⟨F.SP_LANES_locked, .ro, 0x0⟩]⟩,
   ⟨"SP_LIGHT", 0x100018, [(0x1000, 16)], [⟨F.SP_LIGHT_line_ok, .ro, 0x0⟩, ⟨F.SP_LIGHT_fibre_ok, .ro, 0x0⟩]⟩,
   ⟨"SP_FAR_SERIAL", 0x100020, [(0x1000, 16), (0x8, 2)], [⟨F.SP_FAR_SERIAL_bytes, .ro, 0x0⟩]⟩,
   ⟨"SP_FAR2", 0x100030, [(0x1000, 16)], [⟨F.SP_FAR2_rack, .ro, 0x0⟩, ⟨F.SP_FAR2_slot, .ro, 0x0⟩, ⟨F.SP_FAR2_port, .ro, 0x0⟩, ⟨F.SP_FAR2_feed, .ro, 0x0⟩, ⟨F.SP_FAR2_level, .ro, 0x0⟩, ⟨F.SP_FAR2_long, .ro, 0x0⟩]⟩,
   ⟨"SP_POWER_IDX", 0x100038, [(0x1000, 16)], [⟨F.SP_POWER_IDX_lane, .rw, 0x0⟩, ⟨F.SP_POWER_IDX_source, .rw, 0x0⟩]⟩,
   ⟨"SP_POWER_DATA", 0x100040, [(0x1000, 16)], [⟨F.SP_POWER_DATA_dbm, .ro, 0x8000⟩]⟩]
/-- Register rows, part 7. -/
def regRows7 : List RegRow :=
  [⟨"SP_CNT_REPLAY", 0x100048, [(0x1000, 16)], [⟨F.SP_CNT_REPLAY_count, .ro, 0x0⟩]⟩,
   ⟨"SP_CNT_FEC_CORR", 0x100050, [(0x1000, 16)], [⟨F.SP_CNT_FEC_CORR_count, .ro, 0x0⟩]⟩,
   ⟨"SP_CNT_FEC_UNC", 0x100058, [(0x1000, 16)], [⟨F.SP_CNT_FEC_UNC_count, .ro, 0x0⟩]⟩,
   ⟨"SP_CNT_WD", 0x100060, [(0x1000, 16)], [⟨F.SP_CNT_WD_count, .ro, 0x0⟩]⟩,
   ⟨"SP_CNT_QDROP", 0x100068, [(0x1000, 16)], [⟨F.SP_CNT_QDROP_count, .ro, 0x0⟩]⟩,
   ⟨"SP_CNT_DROP", 0x100070, [(0x1000, 16)], [⟨F.SP_CNT_DROP_count, .ro, 0x0⟩]⟩,
   ⟨"SP_CNT_BAD_IDENT", 0x100078, [(0x1000, 16)], [⟨F.SP_CNT_BAD_IDENT_count, .ro, 0x0⟩]⟩,
   ⟨"SP_CNT_DOWN", 0x100080, [(0x1000, 16)], [⟨F.SP_CNT_DOWN_count, .ro, 0x0⟩]⟩,
   ⟨"SP_FAR_FW", 0x100100, [(0x1000, 16), (0x8, 6)], [⟨F.SP_FAR_FW_bytes, .ro, 0x0⟩]⟩,
   ⟨"FJ_CTL", 0x200000, [], [⟨F.FJ_CTL_clear_counts, .w1s, 0x0⟩]⟩,
   ⟨"FJ_STATUS", 0x200008, [], [⟨F.FJ_STATUS_device, .ro, 0x0⟩, ⟨F.FJ_STATUS_epoch, .ro, 0x0⟩, ⟨F.FJ_STATUS_lease, .ro, 0x0⟩, ⟨F.FJ_STATUS_lost_pair, .w1c, 0x0⟩, ⟨F.FJ_STATUS_nack, .w1c, 0x0⟩]⟩,
   ⟨"FJ_TIMERS", 0x200010, [], [⟨F.FJ_TIMERS_ack_timeout, .rw, 0x1f4⟩, ⟨F.FJ_TIMERS_load_timeout, .rw, 0x7d0⟩, ⟨F.FJ_TIMERS_park_timeout, .rw, 0x1f4⟩, ⟨F.FJ_TIMERS_retry_delay, .rw, 0x2⟩]⟩]
/-- Register rows, part 8. -/
def regRows8 : List RegRow :=
  [⟨"FJ_LEASE", 0x200018, [], [⟨F.FJ_LEASE_expiry, .ro, 0x0⟩]⟩,
   ⟨"FJ_LEASE_TERM", 0x200020, [], [⟨F.FJ_LEASE_TERM_term, .ro, 0x0⟩]⟩,
   ⟨"FJ_EPOCH", 0x200028, [], [⟨F.FJ_EPOCH_marked, .ro, 0xffff⟩, ⟨F.FJ_EPOCH_issued, .ro, 0x1⟩, ⟨F.FJ_EPOCH_free, .ro, 0x1⟩, ⟨F.FJ_EPOCH_draining, .ro, 0x0⟩]⟩,
   ⟨"FJ_NACK_LOG", 0x200030, [], [⟨F.FJ_NACK_LOG_code, .ro, 0x0⟩, ⟨F.FJ_NACK_LOG_device, .ro, 0x0⟩, ⟨F.FJ_NACK_LOG_chan, .ro, 0x0⟩, ⟨F.FJ_NACK_LOG_activity, .ro, 0x0⟩, ⟨F.FJ_NACK_LOG_valid, .w1c, 0x0⟩]⟩,
   ⟨"FJ_CNT_TX", 0x200100, [], [⟨F.FJ_CNT_TX_count, .ro, 0x0⟩]⟩,
   ⟨"FJ_CNT_RX", 0x200108, [], [⟨F.FJ_CNT_RX_count, .ro, 0x0⟩]⟩,
   ⟨"FJ_CNT_TRANSIT", 0x200110, [], [⟨F.FJ_CNT_TRANSIT_count, .ro, 0x0⟩]⟩,
   ⟨"FJ_CNT_FALLBACK", 0x200118, [], [⟨F.FJ_CNT_FALLBACK_count, .ro, 0x0⟩]⟩,
   ⟨"FJ_CNT_PARKED", 0x200120, [], [⟨F.FJ_CNT_PARKED_count, .ro, 0x0⟩]⟩,
   ⟨"FJ_CNT_PARK_FULL", 0x200128, [], [⟨F.FJ_CNT_PARK_FULL_count, .ro, 0x0⟩]⟩,
   ⟨"FJ_CNT_PARK_EXPIRED", 0x200130, [], [⟨F.FJ_CNT_PARK_EXPIRED_count, .ro, 0x0⟩]⟩,
   ⟨"FJ_CNT_ACK_TIMEOUT", 0x200138, [], [⟨F.FJ_CNT_ACK_TIMEOUT_count, .ro, 0x0⟩]⟩]
/-- Register rows, part 9. -/
def regRows9 : List RegRow :=
  [⟨"FJ_CNT_LOAD_TIMEOUT", 0x200140, [], [⟨F.FJ_CNT_LOAD_TIMEOUT_count, .ro, 0x0⟩]⟩,
   ⟨"FJ_CNT_NO_ROUTE", 0x200148, [], [⟨F.FJ_CNT_NO_ROUTE_count, .ro, 0x0⟩]⟩,
   ⟨"FJ_CNT_BAD_TAG", 0x200150, [], [⟨F.FJ_CNT_BAD_TAG_count, .ro, 0x0⟩]⟩,
   ⟨"FJ_CNT_RETIRED", 0x200158, [], [⟨F.FJ_CNT_RETIRED_count, .ro, 0x0⟩]⟩,
   ⟨"FJ_CNT_COMBINED", 0x200160, [], [⟨F.FJ_CNT_COMBINED_count, .ro, 0x0⟩]⟩,
   ⟨"FJ_CNT_NACK_RX", 0x200168, [], [⟨F.FJ_CNT_NACK_RX_count, .ro, 0x0⟩]⟩,
   ⟨"FJ_CNT_REFUSED", 0x200170, [], [⟨F.FJ_CNT_REFUSED_count, .ro, 0x0⟩]⟩,
   ⟨"CLE_CTL", 0x400000, [], [⟨F.CLE_CTL_clear_counts, .w1s, 0x0⟩, ⟨F.CLE_CTL_inject_residue, .w1s, 0x0⟩]⟩,
   ⟨"CLE_STATUS", 0x400008, [], [⟨F.CLE_STATUS_slot_capacity, .ro, 0x0⟩, ⟨F.CLE_STATUS_active, .ro, 0x0⟩, ⟨F.CLE_STATUS_held, .ro, 0x0⟩]⟩,
   ⟨"CLE_ERR", 0x400010, [], [⟨F.CLE_ERR_code, .ro, 0x0⟩, ⟨F.CLE_ERR_group, .ro, 0x0⟩, ⟨F.CLE_ERR_valid, .w1c, 0x0⟩, ⟨F.CLE_ERR_lost, .w1c, 0x0⟩, ⟨F.CLE_ERR_received, .ro, 0x0⟩, ⟨F.CLE_ERR_origin, .ro, 0x0⟩]⟩,
   ⟨"CLE_ERR_INFO", 0x400018, [], [⟨F.CLE_ERR_INFO_call, .ro, 0x0⟩, ⟨F.CLE_ERR_INFO_step, .ro, 0x0⟩, ⟨F.CLE_ERR_INFO_phase, .ro, 0x0⟩]⟩,
   ⟨"CLE_GRP", 0x400100, [(0x8, 64)], [⟨F.CLE_GRP_defined, .ro, 0x0⟩, ⟨F.CLE_GRP_state, .ro, 0x0⟩, ⟨F.CLE_GRP_held, .ro, 0x0⟩, ⟨F.CLE_GRP_my_rank, .ro, 0x0⟩, ⟨F.CLE_GRP_step, .ro, 0x0⟩, ⟨F.CLE_GRP_call, .ro, 0x0⟩, ⟨F.CLE_GRP_native_grant, .ro, 0x0⟩]⟩]
/-- Register rows, part 10. -/
def regRows10 : List RegRow :=
  [⟨"CLE_CNT_CALLS", 0x400400, [], [⟨F.CLE_CNT_CALLS_count, .ro, 0x0⟩]⟩,
   ⟨"CLE_CNT_INEXACT", 0x400408, [], [⟨F.CLE_CNT_INEXACT_count, .ro, 0x0⟩]⟩,
   ⟨"CLE_CNT_REPEAT", 0x400410, [], [⟨F.CLE_CNT_REPEAT_count, .ro, 0x0⟩]⟩,
   ⟨"CLE_CNT_RESIDUE", 0x400418, [], [⟨F.CLE_CNT_RESIDUE_count, .ro, 0x0⟩]⟩,
   ⟨"CLE_CNT_TIMEOUT", 0x400420, [], [⟨F.CLE_CNT_TIMEOUT_count, .ro, 0x0⟩]⟩,
   ⟨"CLE_CNT_ABORT_RX", 0x400428, [], [⟨F.CLE_CNT_ABORT_RX_count, .ro, 0x0⟩]⟩,
   ⟨"CLE_CNT_STALE", 0x400430, [], [⟨F.CLE_CNT_STALE_count, .ro, 0x0⟩]⟩,
   ⟨"KPU_CTL", 0x600000, [], [⟨F.KPU_CTL_clear_counts, .w1s, 0x0⟩, ⟨F.KPU_CTL_suspend, .rw, 0x0⟩, ⟨F.KPU_CTL_full_next, .w1s, 0x0⟩]⟩,
   ⟨"KPU_STATUS", 0x600008, [], [⟨F.KPU_STATUS_role, .ro, 0x0⟩, ⟨F.KPU_STATUS_spare_state, .ro, 0x0⟩, ⟨F.KPU_STATUS_pair_state, .ro, 0x0⟩, ⟨F.KPU_STATUS_pair_code, .ro, 0x0⟩, ⟨F.KPU_STATUS_feed_override, .ro, 0x0⟩, ⟨F.KPU_STATUS_ward_paired, .ro, 0x0⟩, ⟨F.KPU_STATUS_replaying, .ro, 0x0⟩, ⟨F.KPU_STATUS_overrun, .w1c, 0x0⟩, ⟨F.KPU_STATUS_journal_full, .w1c, 0x0⟩, ⟨F.KPU_STATUS_ward_lost, .w1c, 0x0⟩, ⟨F.KPU_STATUS_local_seal, .ro, 0x0⟩]⟩,
   ⟨"KPU_SNAP_STATUS", 0x600010, [], [⟨F.KPU_SNAP_STATUS_last_taken, .ro, 0x0⟩, ⟨F.KPU_SNAP_STATUS_last_pause, .ro, 0x0⟩]⟩,
   ⟨"KPU_SEAL", 0x600018, [], [⟨F.KPU_SEAL_sealed, .ro, 0x0⟩, ⟨F.KPU_SEAL_sealed_prev, .ro, 0x0⟩]⟩,
   ⟨"KPU_JNL_STATUS", 0x600020, [], [⟨F.KPU_JNL_STATUS_used, .ro, 0x0⟩, ⟨F.KPU_JNL_STATUS_lag, .ro, 0x0⟩]⟩]
/-- Register rows, part 11. -/
def regRows11 : List RegRow :=
  [⟨"KPU_RIPEN", 0x600028, [], [⟨F.KPU_RIPEN_count, .ro, 0x0⟩]⟩,
   ⟨"KPU_RIPEN_TOTAL", 0x600030, [], [⟨F.KPU_RIPEN_TOTAL_count, .ro, 0x0⟩]⟩,
   ⟨"KPU_CNT_TAKEN", 0x600100, [], [⟨F.KPU_CNT_TAKEN_count, .ro, 0x0⟩]⟩,
   ⟨"KPU_CNT_ABANDONED", 0x600108, [], [⟨F.KPU_CNT_ABANDONED_count, .ro, 0x0⟩]⟩,
   ⟨"KPU_CNT_SKIPPED", 0x600110, [], [⟨F.KPU_CNT_SKIPPED_count, .ro, 0x0⟩]⟩,
   ⟨"KPU_CNT_PAGES", 0x600118, [], [⟨F.KPU_CNT_PAGES_count, .ro, 0x0⟩]⟩,
   ⟨"KPU_CNT_JNL_STALL", 0x600120, [], [⟨F.KPU_CNT_JNL_STALL_count, .ro, 0x0⟩]⟩,
   ⟨"ERU_CTL", 0x608000, [], [⟨F.ERU_CTL_clear_counts, .w1s, 0x0⟩]⟩,
   ⟨"ERU_STATUS", 0x608008, [], [⟨F.ERU_STATUS_g, .ro, 0x0⟩, ⟨F.ERU_STATUS_pos, .ro, 0x0⟩, ⟨F.ERU_STATUS_degraded, .ro, 0x0⟩, ⟨F.ERU_STATUS_parity_resync, .ro, 0x0⟩, ⟨F.ERU_STATUS_log_full, .w1c, 0x0⟩]⟩,
   ⟨"ERU_CNT_DELTA", 0x608100, [], [⟨F.ERU_CNT_DELTA_count, .ro, 0x0⟩]⟩,
   ⟨"ERU_CNT_REBUILT", 0x608108, [], [⟨F.ERU_CNT_REBUILT_count, .ro, 0x0⟩]⟩,
   ⟨"ERU_CNT_ROLLBACK", 0x608110, [], [⟨F.ERU_CNT_ROLLBACK_count, .ro, 0x0⟩]⟩]
/-- Register rows, part 12. -/
def regRows12 : List RegRow :=
  [⟨"SEQ_CTL", 0x800000, [(0x100000, 8), (0x20000, 4)], [⟨F.SEQ_CTL_test_hold, .rw, 0x0⟩, ⟨F.SEQ_CTL_test_step, .w1s, 0x0⟩, ⟨F.SEQ_CTL_clear_stall, .w1s, 0x0⟩]⟩,
   ⟨"SEQ_STATUS", 0x800008, [(0x100000, 8), (0x20000, 4)], [⟨F.SEQ_STATUS_cnt_saturated, .w1c, 0x0⟩, ⟨F.SEQ_STATUS_snapshot_pending, .ro, 0x0⟩, ⟨F.SEQ_STATUS_parked, .ro, 0x0⟩]⟩,
   ⟨"SEQ_CTX_STATUS", 0x800010, [(0x100000, 8), (0x20000, 4), (0x8, 4)], [⟨F.SEQ_CTX_STATUS_state, .ro, 0x0⟩, ⟨F.SEQ_CTX_STATUS_inexact, .w1c, 0x0⟩, ⟨F.SEQ_CTX_STATUS_pc, .ro, 0x0⟩, ⟨F.SEQ_CTX_STATUS_activity, .ro, 0x0⟩, ⟨F.SEQ_CTX_STATUS_code, .ro, 0x0⟩]⟩,
   ⟨"SEQ_ARR_STALL", 0x800030, [(0x100000, 8), (0x20000, 4)], [⟨F.SEQ_ARR_STALL_count, .ro, 0x0⟩]⟩,
   ⟨"SEQ_CNT", 0x800100, [(0x100000, 8), (0x20000, 4), (0x8, 32)], [⟨F.SEQ_CNT_value, .ro, 0x0⟩]⟩,
   ⟨"RING_STATUS", 0x810000, [(0x100000, 8), (0x20000, 4), (0x8, 16)], [⟨F.RING_STATUS_used, .ro, 0x0⟩, ⟨F.RING_STATUS_slots, .ro, 0x0⟩, ⟨F.RING_STATUS_bound, .ro, 0x0⟩, ⟨F.RING_STATUS_source, .ro, 0x0⟩]⟩,
   ⟨"ARR_CTL", 0x818000, [(0x100000, 8), (0x20000, 4)], [⟨F.ARR_CTL_check_strict, .rwl, 0x1⟩, ⟨F.ARR_CTL_retry_enable, .rwl, 0x1⟩, ⟨F.ARR_CTL_canary_now, .w1s, 0x0⟩, ⟨F.ARR_CTL_clear_counts, .w1s, 0x0⟩, ⟨F.ARR_CTL_check_disable, .rw, 0x0⟩]⟩,
   ⟨"ARR_STATUS", 0x818008, [(0x100000, 8), (0x20000, 4)], [⟨F.ARR_STATUS_state, .ro, 0x0⟩, ⟨F.ARR_STATUS_spare_rows_used, .ro, 0x0⟩, ⟨F.ARR_STATUS_spare_cols_used, .ro, 0x0⟩, ⟨F.ARR_STATUS_canary_pending, .ro, 0x0⟩, ⟨F.ARR_STATUS_canary_passed, .ro, 0x0⟩]⟩,
   ⟨"ARR_REPAIR", 0x818010, [(0x100000, 8), (0x20000, 4)], [⟨F.ARR_REPAIR_sr0_en, .ro, 0x0⟩, ⟨F.ARR_REPAIR_sr0_row, .ro, 0x0⟩, ⟨F.ARR_REPAIR_sr1_en, .ro, 0x0⟩, ⟨F.ARR_REPAIR_sr1_row, .ro, 0x0⟩, ⟨F.ARR_REPAIR_sc0_en, .ro, 0x0⟩, ⟨F.ARR_REPAIR_sc0_col, .ro, 0x0⟩, ⟨F.ARR_REPAIR_sc1_en, .ro, 0x0⟩, ⟨F.ARR_REPAIR_sc1_col, .ro, 0x0⟩]⟩,
   ⟨"ARR_SKEW_IDX", 0x818018, [(0x100000, 8), (0x20000, 4)], [⟨F.ARR_SKEW_IDX_entry, .rw, 0x0⟩]⟩,
   ⟨"ARR_SKEW_DATA", 0x818020, [(0x100000, 8), (0x20000, 4)], [⟨F.ARR_SKEW_DATA_feeder_delay, .ro, 0x0⟩, ⟨F.ARR_SKEW_DATA_physical_row, .ro, 0x0⟩, ⟨F.ARR_SKEW_DATA_on_spare, .ro, 0x0⟩, ⟨F.ARR_SKEW_DATA_spare_id, .ro, 0x0⟩]⟩,
   ⟨"ARR_ERR_STATUS", 0x818028, [(0x100000, 8), (0x20000, 4)], [⟨F.ARR_ERR_STATUS_code, .ro, 0x0⟩, ⟨F.ARR_ERR_STATUS_cause, .ro, 0x0⟩, ⟨F.ARR_ERR_STATUS_valid, .w1c, 0x0⟩, ⟨F.ARR_ERR_STATUS_lost, .w1c, 0x0⟩, ⟨F.ARR_ERR_STATUS_retried, .ro, 0x0⟩, ⟨F.ARR_ERR_STATUS_failed, .ro, 0x0⟩]⟩]
/-- Register rows, part 13. -/
def regRows13 : List RegRow :=
  [⟨"ARR_ERR_INFO", 0x818030, [(0x100000, 8), (0x20000, 4)], [⟨F.ARR_ERR_INFO_instr, .ro, 0x0⟩, ⟨F.ARR_ERR_INFO_pass, .ro, 0x0⟩, ⟨F.ARR_ERR_INFO_row, .ro, 0x0⟩, ⟨F.ARR_ERR_INFO_activity, .ro, 0x0⟩]⟩,
   ⟨"ARR_ERR_DIFF", 0x818038, [(0x100000, 8), (0x20000, 4)], [⟨F.ARR_ERR_DIFF_diff, .ro, 0x0⟩]⟩,
   ⟨"ARR_CANARY_MAIN", 0x818040, [(0x100000, 8), (0x20000, 4)], [⟨F.ARR_CANARY_MAIN_sum, .ro, 0x0⟩]⟩,
   ⟨"ARR_INJECT", 0x818090, [(0x100000, 8), (0x20000, 4)], [⟨F.ARR_INJECT_arm, .w1s, 0x0⟩, ⟨F.ARR_INJECT_bit, .rw, 0x0⟩, ⟨F.ARR_INJECT_column, .rw, 0x0⟩]⟩,
   ⟨"ARR_CANARY_EARLY", 0x818048, [(0x100000, 8), (0x20000, 4)], [⟨F.ARR_CANARY_EARLY_sum, .ro, 0x0⟩]⟩,
   ⟨"ARR_CANARY_LATE", 0x818050, [(0x100000, 8), (0x20000, 4)], [⟨F.ARR_CANARY_LATE_sum, .ro, 0x0⟩]⟩,
   ⟨"ARR_CNT_CHECKED", 0x818058, [(0x100000, 8), (0x20000, 4)], [⟨F.ARR_CNT_CHECKED_count, .ro, 0x0⟩]⟩,
   ⟨"ARR_CNT_SKIP_SPECIAL", 0x818060, [(0x100000, 8), (0x20000, 4)], [⟨F.ARR_CNT_SKIP_SPECIAL_count, .ro, 0x0⟩]⟩,
   ⟨"ARR_CNT_SKIP_OVERFLOW", 0x818068, [(0x100000, 8), (0x20000, 4)], [⟨F.ARR_CNT_SKIP_OVERFLOW_count, .ro, 0x0⟩]⟩,
   ⟨"ARR_CNT_SKIP_INEXACT", 0x818070, [(0x100000, 8), (0x20000, 4)], [⟨F.ARR_CNT_SKIP_INEXACT_count, .ro, 0x0⟩]⟩,
   ⟨"ARR_CNT_SKIP_WIDE", 0x818078, [(0x100000, 8), (0x20000, 4)], [⟨F.ARR_CNT_SKIP_WIDE_count, .ro, 0x0⟩]⟩,
   ⟨"ARR_CNT_SPLIT", 0x818080, [(0x100000, 8), (0x20000, 4)], [⟨F.ARR_CNT_SPLIT_count, .ro, 0x0⟩]⟩]
/-- Register rows, part 14. -/
def regRows14 : List RegRow :=
  [⟨"ARR_CNT_RETRY", 0x818088, [(0x100000, 8), (0x20000, 4)], [⟨F.ARR_CNT_RETRY_count, .ro, 0x0⟩]⟩,
   ⟨"MEM_CTL", 0x880000, [(0x100000, 8), (0x100, 4)], [⟨F.MEM_CTL_clear_counts, .w1s, 0x0⟩, ⟨F.MEM_CTL_scrub_off, .rw, 0x0⟩]⟩,
   ⟨"MEM_SRAM_ECC", 0x880008, [(0x100000, 8), (0x100, 4)], [⟨F.MEM_SRAM_ECC_corrected, .ro, 0x0⟩, ⟨F.MEM_SRAM_ECC_uncorrectable, .ro, 0x0⟩, ⟨F.MEM_SRAM_ECC_poison, .ro, 0x0⟩]⟩,
   ⟨"MEM_BND_ECC", 0x880010, [(0x100000, 8), (0x100, 4)], [⟨F.MEM_BND_ECC_corrected, .ro, 0x0⟩, ⟨F.MEM_BND_ECC_uncorrectable, .ro, 0x0⟩, ⟨F.MEM_BND_ECC_poison, .ro, 0x0⟩]⟩,
   ⟨"MEM_BND_THERM", 0x880018, [(0x100000, 8), (0x100, 4)], [⟨F.MEM_BND_THERM_refresh, .ro, 0x0⟩, ⟨F.MEM_BND_THERM_sensor_failed, .ro, 0x0⟩, ⟨F.MEM_BND_THERM_hot_scale, .ro, 0x0⟩]⟩,
   ⟨"DIE_STATUS", 0x890000, [(0x100000, 8)], [⟨F.DIE_STATUS_state, .ro, 0x2⟩, ⟨F.DIE_STATUS_fence_cause, .ro, 0x0⟩, ⟨F.DIE_STATUS_loss_count, .ro, 0x0⟩]⟩,
   ⟨"DL_CTL", 0x890008, [(0x100000, 8)], [⟨F.DL_CTL_lane_err_thresh, .rw, 0x10⟩, ⟨F.DL_CTL_restore, .w1s, 0x0⟩, ⟨F.DL_CTL_clear_counts, .w1s, 0x0⟩, ⟨F.DL_CTL_test_fail, .w1s, 0x0⟩, ⟨F.DL_CTL_test_link, .rw, 0x0⟩, ⟨F.DL_CTL_test_lane, .rw, 0x0⟩]⟩,
   ⟨"DL_LINK_STATUS", 0x890010, [(0x100000, 8), (0x8, 3)], [⟨F.DL_LINK_STATUS_width, .ro, 0x3⟩, ⟨F.DL_LINK_STATUS_in_use, .ro, 0x0⟩, ⟨F.DL_LINK_STATUS_retrain_pending, .ro, 0x0⟩, ⟨F.DL_LINK_STATUS_retraining, .ro, 0x0⟩, ⟨F.DL_LINK_STATUS_spares_used, .ro, 0x0⟩, ⟨F.DL_LINK_STATUS_first_failed, .ro, 0x7ff⟩, ⟨F.DL_LINK_STATUS_degraded, .w1c, 0x0⟩, ⟨F.DL_LINK_STATUS_light_lo, .ro, 0x0⟩, ⟨F.DL_LINK_STATUS_light_hi, .ro, 0x0⟩]⟩,
   ⟨"DL_DROP_CNT", 0x890028, [(0x100000, 8)], [⟨F.DL_DROP_CNT_count, .ro, 0x0⟩]⟩,
   ⟨"HL_RETRY_CNT", 0x890030, [(0x100000, 8)], [⟨F.HL_RETRY_CNT_count, .ro, 0x0⟩]⟩,
   ⟨"NLE_RETRY_CNT", 0x890038, [(0x100000, 8)], [⟨F.NLE_RETRY_CNT_count, .ro, 0x0⟩]⟩,
   ⟨"NLW_RETRY_CNT", 0x890040, [(0x100000, 8)], [⟨F.NLW_RETRY_CNT_count, .ro, 0x0⟩]⟩]
/-- Register rows, part 15. -/
def regRows15 : List RegRow :=
  [⟨"FMC_CTL", 0x1000000, [], [⟨F.FMC_CTL_retire_thresh, .rw, 0x40⟩, ⟨F.FMC_CTL_copy_share, .rw, 0x4⟩, ⟨F.FMC_CTL_clear_counts, .w1s, 0x0⟩, ⟨F.FMC_CTL_scrub_off, .rw, 0x0⟩]⟩,
   ⟨"FMC_STATUS", 0x1000008, [], [⟨F.FMC_STATUS_copying, .ro, 0x0⟩, ⟨F.FMC_STATUS_retired_count, .ro, 0x0⟩, ⟨F.FMC_STATUS_second_fault, .w1c, 0x0⟩]⟩,
   ⟨"FMC_DOM_CFG", 0x1000100, [(0x10, 16)], [⟨F.FMC_DOM_CFG_valid, .ro, 0x0⟩, ⟨F.FMC_DOM_CFG_kind, .ro, 0x0⟩, ⟨F.FMC_DOM_CFG_die, .ro, 0x0⟩, ⟨F.FMC_DOM_CFG_row_base, .ro, 0x0⟩, ⟨F.FMC_DOM_CFG_rows, .ro, 0x0⟩, ⟨F.FMC_DOM_CFG_narrow, .ro, 0x0⟩]⟩,
   ⟨"FMC_DOM_KEY", 0x1000108, [(0x10, 16)], [⟨F.FMC_DOM_KEY_row_key, .rs, 0x0⟩, ⟨F.FMC_DOM_KEY_hi_rot, .rs, 0x0⟩]⟩,
   ⟨"FMC_STK_STATUS", 0x1001000, [(0x400, 24)], [⟨F.FMC_STK_STATUS_present, .ro, 0x0⟩, ⟨F.FMC_STK_STATUS_retire_state, .ro, 0x0⟩, ⟨F.FMC_STK_STATUS_retired_ch, .ro, 0x0⟩, ⟨F.FMC_STK_STATUS_copy_rows, .ro, 0x0⟩, ⟨F.FMC_STK_STATUS_refresh_x2, .ro, 0x0⟩, ⟨F.FMC_STK_STATUS_clear_retire, .w1s, 0x0⟩]⟩,
   ⟨"FMC_CH_ERR", 0x1001100, [(0x400, 24), (0x8, 32)], [⟨F.FMC_CH_ERR_corrected, .ro, 0x0⟩, ⟨F.FMC_CH_ERR_uncorrectable, .ro, 0x0⟩, ⟨F.FMC_CH_ERR_window, .ro, 0x0⟩]⟩,
   ⟨"FMC_MARGIN_CTL", 0x1008000, [], [⟨F.FMC_MARGIN_CTL_start, .w1s, 0x0⟩, ⟨F.FMC_MARGIN_CTL_param, .rw, 0x0⟩, ⟨F.FMC_MARGIN_CTL_offset, .rw, 0x0⟩, ⟨F.FMC_MARGIN_CTL_stack, .rw, 0x0⟩, ⟨F.FMC_MARGIN_CTL_channel, .rw, 0x0⟩, ⟨F.FMC_MARGIN_CTL_granules, .rw, 0x0⟩]⟩,
   ⟨"FMC_MARGIN_RESULT", 0x1008008, [], [⟨F.FMC_MARGIN_RESULT_done, .ro, 0x0⟩, ⟨F.FMC_MARGIN_RESULT_status, .ro, 0x0⟩, ⟨F.FMC_MARGIN_RESULT_errors, .ro, 0x0⟩, ⟨F.FMC_MARGIN_RESULT_first_line, .ro, 0x0⟩]⟩,
   ⟨"SGU_CTL", 0x1800000, [], [⟨F.SGU_CTL_clear_counts, .w1s, 0x0⟩]⟩,
   ⟨"SGU_STATUS", 0x1800008, [], [⟨F.SGU_STATUS_channels, .ro, 0x0⟩, ⟨F.SGU_STATUS_tables, .ro, 0x0⟩, ⟨F.SGU_STATUS_waiting, .ro, 0x0⟩]⟩,
   ⟨"SGU_CH", 0x1800100, [(0x8, 64)], [⟨F.SGU_CH_defined, .ro, 0x0⟩, ⟨F.SGU_CH_mode, .ro, 0x0⟩, ⟨F.SGU_CH_law, .ro, 0x0⟩, ⟨F.SGU_CH_slots, .ro, 0x0⟩, ⟨F.SGU_CH_frames, .ro, 0x0⟩, ⟨F.SGU_CH_dropped, .ro, 0x0⟩, ⟨F.SGU_CH_gaps, .ro, 0x0⟩]⟩,
   ⟨"MAP_SEL", 0x1c00000, [(0x8000000, 2)], [⟨F.MAP_SEL_space, .rw, 0x0⟩, ⟨F.MAP_SEL_unit, .rw, 0x0⟩]⟩]
/-- Register rows, part 16. -/
def regRows16 : List RegRow :=
  [⟨"MAP_ADDR", 0x1c00008, [(0x8000000, 2)], [⟨F.MAP_ADDR_offset, .rw, 0x0⟩]⟩,
   ⟨"MAP_STATUS", 0x1c00010, [(0x8000000, 2)], [⟨F.MAP_STATUS_code, .ro, 0x0⟩, ⟨F.MAP_STATUS_err, .w1c, 0x0⟩, ⟨F.MAP_STATUS_denied, .ro, 0x0⟩]⟩,
   ⟨"HLC_TIME", 0x10000000, [(0x1000, 16)], [⟨F.HLC_TIME_time, .ro, 0x0⟩]⟩,
   ⟨"HLC_STEP", 0x10000008, [(0x1000, 16)], [⟨F.HLC_STEP_boundary, .ro, 0x0⟩, ⟨F.HLC_STEP_paused, .ro, 0x0⟩]⟩,
   ⟨"HLC_TIMER", 0x10000010, [(0x1000, 16)], [⟨F.HLC_TIMER_time, .rw, 0x0⟩]⟩,
   ⟨"HLC_IRQ", 0x10000018, [(0x1000, 16)], [⟨F.HLC_IRQ_timer, .w1c, 0x0⟩, ⟨F.HLC_IRQ_step, .w1c, 0x0⟩, ⟨F.HLC_IRQ_pause_end, .w1c, 0x0⟩, ⟨F.HLC_IRQ_watch, .w1c, 0x0⟩]⟩,
   ⟨"HLC_IRQ_EN", 0x10000020, [(0x1000, 16)], [⟨F.HLC_IRQ_EN_timer, .rw, 0x0⟩, ⟨F.HLC_IRQ_EN_step, .rw, 0x0⟩, ⟨F.HLC_IRQ_EN_pause_end, .rw, 0x0⟩, ⟨F.HLC_IRQ_EN_watch, .rw, 0x0⟩]⟩,
   ⟨"HLC_SIG", 0x10000028, [(0x1000, 16)], [⟨F.HLC_SIG_counter, .wo, 0x0⟩, ⟨F.HLC_SIG_core, .wo, 0x0⟩, ⟨F.HLC_SIG_value, .wo, 0x0⟩]⟩,
   ⟨"HLC_WATCH", 0x10000100, [(0x1000, 16), (0x8, 32)], [⟨F.HLC_WATCH_counter, .rw, 0x0⟩, ⟨F.HLC_WATCH_core, .rw, 0x0⟩, ⟨F.HLC_WATCH_value, .rw, 0x0⟩, ⟨F.HLC_WATCH_enable, .rw, 0x0⟩]⟩]

/-- Every register of the map. -/
def regRows : List RegRow :=
  regRows0 ++ regRows1 ++ regRows2 ++ regRows3 ++ regRows4 ++ regRows5 ++ regRows6 ++ regRows7 ++ regRows8 ++ regRows9 ++ regRows10 ++ regRows11 ++ regRows12 ++ regRows13 ++ regRows14 ++ regRows15 ++ regRows16

end Machine
end Sys2Proof
end

