-- ==== Sys2Proof/Machine/State.lean ====
section
/-!
DEFINITION. The state of the module: every register of the register map in `regs`, and behind them everything the spec gives the
module that no register holds. Plain data.
-/
namespace Sys2Proof
namespace Machine

/-- A configuration record after its header (R224): type, id and payload. -/
structure Rec where
  type : Nat
  id : Nat
  body : Bytes
deriving DecidableEq, Repr

/-- A resident overlay (R217, R237): its PATCH records, image digest, sequence number and body length. -/
structure Overlay where
  recs : List Rec
  digest : Bytes
  seq : Nat
  size : Nat
deriving DecidableEq, Repr

/-- A check run of the loader (R230): none, of a commit, of an active-set change, or the second check of R244; with the time it began. -/
inductive CheckRun where
  | none
  | commit (since : Nat)
  | apply (set : Nat) (since : Nat)
  | recheck (set : Nat) (since : Nat)
deriving DecidableEq, Repr

/-- A pending active-set change (R238-R244): the set, the time it became WAITING, whether its routing bank is written, the time
of the first EPOCH_BUSY refusal and of the last one, whether a second check waits for the check run of a commit, and the dies that were fenced at its
last check, which narrow its domains (R551). -/
structure PendingSet where
  set : Nat
  since : Nat
  bankWritten : Bool
  firstRefusal : Option Nat
  lastTry : Nat
  again : Bool
  fenced : Nat
deriving DecidableEq, Repr

/-- The image loader (R217-R245). `recs` is the loaded base image, `cfg` the configuration in force, `kind` is the kind captured at begin. -/
structure ImgState where
  words : List Word
  kind : Nat
  excess : Bool
  recs : Option (List Rec)
  baseDigest : Bytes
  overlays : Tab Overlay
  cfg : List Rec
  run : CheckRun
  pending : Option PendingSet
deriving DecidableEq, Repr

/-- A tensor descriptor resolved at issue (R122, R123): byte base in SRAM, extents, stride, format, order, and its scales. -/
structure Desc where
  base : Nat
  rows : Nat
  cols : Nat
  stride : Nat
  fmt : Nat
  colMajor : Bool
  scaled : Bool
  scaleBase : Nat
  scaleStride : Nat
  scaleCols : Nat
deriving DecidableEq, Repr

/-- An issued unit instruction (R119): its context, index, word, activity, issue number and the descriptors captured at issue. -/
structure QIns where
  core : Nat
  ctx : Nat
  pc : Nat
  word : Nat
  act : Nat
  no : Nat
  descs : List Desc
  /-- Status the instruction ended with so far. -/
  code : Nat
  /-- R262: what its use charges in all, what has been charged, the units of a row, which no request crosses, the resource and the instance. -/
  owed : Nat
  paid : Nat
  row : Nat
  res : Nat
  inst : Nat
  /-- Outstanding acknowledgements or responses of a fabric instruction. -/
  waitFor : Nat
deriving DecidableEq, Repr

/-- One loop of a context (R132): first index, end index, iterations left after the present one. -/
structure LoopSt where
  first : Nat
  last : Nat
  left : Nat
deriving DecidableEq, Repr

/-- A context beside its status register (R117, R122, R132): binding, descriptors as TDSET wrote them, loop stack, STEP wait, and a step of test_hold
allowed. -/
structure CtxSt where
  bound : Bool
  entry : Nat
  tds : Tab Nat
  loops : List LoopSt
  atStep : Bool
  held : Bool
deriving DecidableEq, Repr

/-- A ring beside its status register (R143, R285): head slot, slot being filled, bytes already in it. -/
structure RingSt where
  head : Nat
  fill : Nat
  pos : Nat
deriving DecidableEq, Repr

/-- Sequencers, contexts, queues and rings. Keys: context 4·core + ctx; last issuer 2·core + 1 for high priority; queue and running unit 8·core + unit (0 array, 1 vector,
2 move (bonded when running), 3 far copy running, 4 route, 5 Fjarux, 6 collective); ring 16·core + ring,
and by context the ACLK for which it has been eligible since its last issue (R118). -/
structure SeqState where
  imem : Tab (List Nat)
  ctx : Tab CtxSt
  queue : Tab (List QIns)
  running : Tab QIns
  ring : Tab RingSt
  slotFull : Tab Nat
  issueNo : Nat
  lastIssued : Tab Nat
  prescanned : Tab PreScan
  waited : Tab Nat
deriving DecidableEq, Repr, Inhabited

/-- Memory tiers (chapter 5): marks of upset ECC words (1 corrected when read, 2 worse, 3 poison), refresh times per bonded channel, the time of the start
from which windows count, ends of the 1,000 ms windows per far channel, per stack with a retirement copy a time and the granules copied by then, a margin
run's request, the memory keys (R479), the epoch of far bytes that nothing has written, and per core the stamp of the last MMA, which leaves free values in
the accumulator area (R68). -/
structure MemState where
  ecc : Tab Nat
  lastRefresh : Tab Nat
  nextRefresh : Tab Nat
  began : Nat
  windowEnd : Tab Nat
  copyAt : Tab (Nat × Nat)
  marginRun : Option Nat
  memKeys : Option Bytes
  keyEpoch : Nat
  accStamp : Tab Nat
deriving DecidableEq, Repr

/-- An end of a die link (chapter 6): next flit number received, next one sent and those sent and not acknowledged, which the replay buffer holds (R187), data positions whose lane has failed with nothing in its place, spares
in use (NL: logical lane and physical spare), physical lanes failed, time of the fast switch whose retrain is pending, whether every
lane is being trained again, and whether the die of this end ordered that (R193). Keys 3·die + link: 0 HL, 1 NLE, 2 NLW; 24 + die is the hub's end of HL. -/
structure LinkSt where
  rxSeq : Nat
  txSeq : Nat
  unacked : List Nat
  lost : List Nat
  spares : Tab Nat
  failed : List Nat
  switchAt : Option Nat
  restoring : Bool
  ordered : Bool
deriving DecidableEq, Repr

/-- A budget counter of one activity on one instance (R261-R266); `written` and `shown` are the written budget and the gated count of the last refill,
which BUD_DATA0 and BUD_DATA1 show (R275). -/
structure BudCtr where
  eff : Nat
  left : Int
  used : Nat
  usedLast : Nat
  gated : Bool
  gatedCount : Nat
  drawn : Nat
  drawnLast : Nat
  written : Nat
  shown : Nat
deriving DecidableEq, Repr

/-- Budgets (chapter 8). Keys: counter (act·8 + resource)·256 + instance; pool resource·256 + instance; `shown` holds the pools of the last refill (R275). -/
structure BudState where
  ctr : Tab BudCtr
  pool : Tab Int
  shown : Tab Int
  debt : List (Nat × Nat × Nat)
deriving DecidableEq, Repr, Inhabited

/-- A command accepted on a host port and not yet DONE (R291): opcode, tag, copied arguments, code and results. -/
structure CmdSt where
  opcode : Nat
  tag : Nat
  args : List Word
  payload : List Word
  code : Nat
  res : List Word
  ready : Bool
deriving DecidableEq, Repr

/-- A message the module has sent to the world, oldest first in State.sent; to the programs of the Hauno cores the data of a read and the access-fault exception
(R483). -/
inductive OutMsg where
  | msix (port vector : Nat)
  | readData (port : Nat) (data : List Word)
  | unsupportedRequest (port : Nat)
  | frame (p : Nat) (bytes : Bytes)
  | resendAsk (p seq : Nat)
  | linkFlit (die link seq ack : Nat)
  | linkOrder (die link width inUse : Nat)
  | report (code : Nat) (detail : Bytes)
  | pldm (msg : Bytes)
  | jtag (data : Nat)
  | pin (name : String) (level : Bool)
  | haunoData (core data : Nat)
  | haunoFault (core : Nat)
  | haunoInterrupt (core : Nat)
deriving DecidableEq, Repr

/-- A call slot of an SGU channel (R111): last frame number, and the latest FP16 samples, oldest first: input and resampled ones of an analysis
channel, or the input of a synthesis channel in `inp`. -/
structure SguSlot where
  last : Nat
  inp : List Nat
  mid : List Nat
deriving DecidableEq, Repr

/-- The configuration space of a host port (R277, R278; assumption log 76): MSI-X enabled and its function mask, payload and read request sizes, power state, the
uncorrectable and correctable errors that AER has recorded, the addresses in BAR0 and BAR2, and the negotiated width and speed in GT/s of its link, 0 while it is down. -/
structure PciSt where
  msix : Bool
  masked : Bool
  payload : Nat
  readReq : Nat
  power : Nat
  errors : Nat
  correctable : Nat
  bars : Nat × Nat
  link : Nat × Nat
deriving DecidableEq, Repr

/-- Host ports (chapter 9). Keys: port 0 HPA, 1 HPB; stream ports by number; SGU slots 1024·channel + slot; `sguLast` is the SGU channel served last (R111). -/
structure HostState where
  cmd : Tab CmdSt
  nonce : Tab (Bytes × Nat)
  staging : Tab (List (Word × Bool))
  plain : Tab (List Word)
  sguIn : Tab (List Word)
  sgu : Tab SguSlot
  sguLast : Nat
  farRing : Tab RingSt
  farFree : Tab Nat
  vecPending : Tab Nat
  modStart : Tab Nat
  linkUp : Tab Bool
  perstLow : Tab Bool
  d3cold : Tab Bool
  starts : List (List Nat × Nat)
  started : Bool
  snapNow : Option Nat
  resetAt : Option Nat
  dumpOpen : Bool
  pci : Tab PciSt
deriving DecidableEq, Repr, Inhabited

/-- An entry of the event log (R508), kept in the always-on event memory. -/
structure LogEntry where
  seq : Nat
  time : Nat
  code : Nat
  severity : Nat
  source : Nat
  rep : Nat
  detail : Bytes
deriving DecidableEq, Repr

/-- What survives a start: fuses (R5, R73, R283, R457) and the persistent settings and stores. -/
structure Fuses where
  part : Nat
  fwKeys : Tab Bytes
  vendorPub : Bytes
  debugPub : Bytes
  capability : Nat
  serial : Bytes
  seed : Bytes
  repair : Tab Nat
  debugEver : Bool
  rollback : Nat
  transfers : Nat
deriving DecidableEq, Repr

/-- The persistent store (R219, R459, R508) and the trip records (R504): sequence number and bytes, oldest first; whether the newest waits
for its acknowledgement. Of the Rind store also the transfer count, and whether its tag verifies (R459). -/
structure Store where
  trips : List (Nat × Bytes)
  tripPending : Bool
  imageFloor : Nat
  tokenHome : Nat
  bootCount : Nat
  log : List LogEntry
  logNext : Nat
  logAt : Nat
  logWrapped : Bool
  retired : Tab Nat
  ownerPub : Bytes
  ownerId : Bytes
  pendingOwner : Option Bytes
  dumpKey : Option Bytes
  leaseKey : Option Bytes
  orderCtr : Nat
  certs : Bytes
  root : Bytes
  transfers : Nat
  tagOk : Bool
deriving DecidableEq, Repr

/-- The pins the module samples or drives (chapter 16): straps as wired, the 48 V input within its range, THERM_TRIP_N and FAULT_N driven low. -/
structure Pins where
  slotId : Nat
  rackId : Nat
  feedId : Nat
  inputOk : Bool
  tripLow : Bool
  faultLow : Bool
deriving DecidableEq, Repr

/-- A sensor (R498-R503): its last eight raw samples, latest first, in 1/16 °C; successive samples at or above its trip limit; fail cause (0 none);
since when its raw value has stayed within 1/16 °C, between which values, and what the rest of its group has spanned since. -/
structure Sensor where
  raws : List Int
  hits : Nat
  cause : Nat
  since : Nat
  low : Int
  high : Int
  spans : Tab (Int × Int)
deriving DecidableEq, Repr

/-- A dump being written or complete (R517): its cause, the number of its log entry, whether it lies in bonded memory, its length once
complete, and whether a second fatal error ended it. -/
structure DumpSt where
  cause : Nat
  seq : Nat
  bonded : Bool
  length : Nat
  cut : Bool
deriving DecidableEq, Repr

/-- Management (chapters 15 and 16). `level`: the hot level of each die (R162). `cool`: since when a location (by its first sensor) or a refresh row has been below its return value; ports whose optic
lanes are cleared at the next snapshot pause; the alert: asserted since, removed at, accepted assertions of the last second; the power
window: energy in W·ms, checks made, a down step taken, a cap above which it ended; when the restart after a trip is due; whether boot stopped in RENNET or FIRMWARE; whether a strap change is logged; the dump; SMBus endpoint id and
event receiver; when each die was last fenced (R205); whether the Hauno core loader has accepted the owner's environment at this start (R482 step 5); and the
runs of each die's ACLK, latest first, as local times of their start and end (R209). -/
structure MgtState where
  sens : Tab Sensor
  level : Tab Nat
  cool : Tab Nat
  optic : List Nat
  alertAt : Option Nat
  alertOff : Option Nat
  alerts : List Nat
  energy : Nat
  checks : Nat
  stepped : Bool
  restartAt : Option Nat
  stopped : Bool
  strapLogged : Bool
  dump : Option DumpSt
  eid : Nat
  receiver : Option Nat
  fencedAt : Tab Nat
  haunoUp : Bool
  aclkRuns : Tab (List (Nat × Option Nat))
deriving DecidableEq, Repr

/-- Rack time (R536-R539): time of the last accepted tick, displacement of the last ticks and how many in a row had it, ticks since the last marker, bits of the
frame so far, whether the frame is void, tick number that the last valid frame announced, whether RACKCLK is lost, the offset still to be removed (ahead is positive) and TCLK since the last correction, and per Hauno core the HLC_TIMER value that has been
reached (R485). -/
structure TimeSt where
  lastTick : Option Nat
  disp : Int × Nat
  pos : Option Nat
  bits : List Bool
  void : Bool
  frame : Option Nat
  lost : Bool
  offset : Int
  acc : Nat
  timers : Tab Nat
deriving DecidableEq, Repr

/-- A pause (R135, R240, R241): why it was asked for, the boundary, moment A once it has come, whether its snapshot is invalid (R205), the
module state it returns to, the cores whose canary runs in it (R54), the rack time at which it was asked for, and the stacks whose retirement copy was complete
then (R177). -/
structure Pause where
  snapshot : Bool
  apply : Bool
  maint : Bool
  boundary : Nat
  atA : Option Nat
  voided : Bool
  back : Nat
  canaries : List Nat
  asked : Nat
  retires : List Nat
deriving DecidableEq, Repr

/-- A head waiting at the crossbar or at the transmitter of SP0-SP7 (R197, R258): its input (0-39, 40 the local drop, 41 the port's own
die), its output port of the crossbar, its Selvage port, the activity charged, the packet, the instruction that issued it (0 none). -/
structure XHead where
  inp : Nat
  out : Nat
  sp : Nat
  act : Nat
  pkt : Packet
  iss : Nat
deriving DecidableEq, Repr

/-- A pair entry (R352-R354): packets issued and acknowledged, marked lost, the lowest issue number of an instruction that received a NACK other
than PARK_FULL or BUSY, and the contexts of its core that issued to it, as a mask (R130). -/
structure Pair where
  issued : Nat
  acked : Nat
  lost : Bool
  nacked : Option Nat
  users : Nat
deriving DecidableEq, Repr

/-- A packet that waits for its acknowledgement (R352): the core that issued it (32 the KPU), when, its instruction, and the packet before
sealing with its extended sequence, for a retry (R346). -/
structure Sent where
  core : Nat
  iss : Nat
  since : Nat
  pkt : Packet
  xseq : Nat
deriving DecidableEq, Repr

/-- An outstanding LOAD or atomic with return (R355, R356): the core, the issue number and activity of its instruction, the SRAM pieces that
receive its data, its destination, channel, seq and opcode, when it was issued. Core 32 is the KPU. -/
structure Load where
  core : Nat
  iss : Nat
  act : Nat
  parts : List (Nat × Nat)
  dev : Nat
  chan : Nat
  seq : Nat
  op : Nat
  since : Nat
deriving DecidableEq, Repr

/-- A fence in progress (R130, R354): its core and issue number, and the pairs it covers with the counts issued at its issue. -/
structure FenceSt where
  core : Nat
  iss : Nat
  covers : List (Nat × Nat)
deriving DecidableEq, Repr

/-- The Fjarux unit (chapter 11), with the payloads of its routing banks. Keys: a stream is device·256 + channel; a numbered stream (class·4096 + device)·256 + channel; a pair
core·2^20 + stream (core 32 the KPU); receive queues by port, from 16 on for packets issued here. `paidIn` holds, by line, the units already granted to the request at the
head of the ingress queue (R262). -/
structure FjState where
  xseq : Tab Nat
  high : Tab Nat
  order : Tab Nat
  follow : Tab Nat
  hold : Tab Nat
  pairs : Tab Pair
  sent : List Sent
  loads : List Load
  fences : List FenceSt
  rx : Tab (List Packet)
  parked : List (Nat × Packet × Nat)
  ingress : List (Nat × Packet)
  retry : List (Sent × Nat)
  tails : List (Nat × Nat × Packet)
  paidIn : Tab Nat
  xq : List XHead
  xlast : Tab Nat
  marksIn : List Nat
  marksOut : List Nat
  leaseNo : Nat
  fm : Nat × Nat
  banks : Tab Bytes
deriving DecidableEq, Repr, Inhabited

/-- Link keys of a Selvage port (R468-R470): own and partner's key and salt, frames sent and received since keying. -/
structure LinkKeys where
  txKey : Bytes
  txSalt : Bytes
  rxKey : Bytes
  rxSalt : Bytes
  txCount : Nat
  rxCount : Nat
deriving DecidableEq, Repr

/-- A Selvage port beside its registers (chapter 10): frame numbers, replay buffer and times resent, credits the partner granted and flits
freed per virtual channel, flits of the packet being received, the crossbar output, virtual channel and flits of a granted packet that wait for credits (R215), with its epoch, handshake stream received, a width order received,
the partner's frame at which a width that it ordered begins, back-off, received IDENT and this end's verdict on it, handshake messages sent and received, link keys,
watchdogs, the flits of the present millisecond in UNATTESTED, each way, the mask of failed lanes that the partner knows of this end (R319), the frames named for a switch
of keys, own and the partner's, and the partner's last key and salt with its frame count at the switch (R470). -/
structure SpSt where
  txSeq : Nat
  rxSeq : Nat
  replay : List (Nat × Bytes)
  resent : Nat
  credits : List Nat
  freed : List Nat
  rxUsed : List Nat
  part : List Bytes
  msgIn : Bytes
  order : Option (Nat × Nat)
  backoff : Nat
  lastIdent : Bytes
  verdict : Nat
  reason : Nat
  eph : Option Nat
  helloOut : Bytes
  helloIn : Bytes
  latOut : Bytes
  latIn : Bytes
  newKeys : Option LinkKeys
  keys : Option LinkKeys
  downRaised : Bool
  starved : Tab Nat
  wdLogged : Option Nat
  quarRx : Nat × Nat
  quarTx : Nat × Nat
  switchAt : Option Nat
  retryAt : Nat
  tail : Option (Nat × Nat × List Bytes)
  tailEpoch : Nat
  told : Nat
  rekeyTx : Option Nat
  rekeyRx : Option Nat
  oldRx : Option (Bytes × Bytes × Nat)
deriving DecidableEq, Repr

/-- A job key's list of devices that may fetch it, with the boot count under which each received it (R472). -/
structure KeyList where
  devs : List Nat
  given : Tab Nat
deriving DecidableEq, Repr

/-- Keys the Rind holds outside its store (R456); `erased` holds from DEBUG_UNLOCK to the next start (R481). A fetch in progress keeps
its leader, ephemeral scalar, start and last sending time. -/
structure KeyState where
  keep : Option Bytes
  job : Tab Bytes
  lists : Tab KeyList
  fetch : Tab (Nat × Nat × Nat × Nat)
  erased : Bool
deriving DecidableEq, Repr

/-- A secure channel (R475, R476): keys and salts in and out, next record numbers, resync. -/
structure Chan where
  kin : Bytes
  kout : Bytes
  sin : Bytes
  sout : Bytes
  inNo : Nat
  outNo : Nat
  resync : Bool
deriving DecidableEq, Repr

/-- A mailbox of a host port beside its registers (R460): words received, words of the response not yet read. -/
structure Mbox where
  inw : List Word
  outw : List Word
deriving DecidableEq, Repr

/-- The Rind's mailboxes (by port), the ports that committed in order, and the channels. -/
structure RindState where
  mbox : Tab Mbox
  order : List Nat
  chans : Tab Chan
deriving DecidableEq, Repr

/-- A firmware slot (R482, R487): protocol level, rollback index, digests of the management firmware and the component table, and whether it
passes the checks of Rennet, and whether its components match their table (R482 steps 3 and 4). -/
structure FwSlot where
  level : Nat
  rollback : Nat
  fwDigest : Bytes
  setDigest : Bytes
  good : Bool
  parts : Bool
deriving DecidableEq, Repr

/-- The flash: slots 0 A and 1 B, the boot record, an update in progress (1 host, 2 PLDM) with its length and bytes, and since when new
firmware has been on trial; the owner region: the operating environment of the Hauno cores with its signature (R3, R482; assumption log 79); the digest of the management firmware
that wrote the general settings (R490). -/
structure FwState where
  slots : Tab FwSlot
  active : Nat
  next : Option Nat
  tries : Nat
  update : Option (Nat × Nat)
  buf : Bytes
  trial : Option Nat
  owner : Option (Bytes × Bytes)
  settings : Bytes
deriving DecidableEq, Repr

/-- The call a group makes (R389): cop, source format, output code, mode, native, element count, root. -/
structure CallDesc where
  op : Nat
  fmt : Nat
  out : Nat
  mode : Nat
  native : Bool
  elems : Nat
  root : Nat
deriving DecidableEq, Repr

/-- A collective packet received and not yet used: call, phase, step, sender, first element or block, count, content, its call descriptor. -/
structure CollIn where
  call : Nat
  phase : Nat
  step : Nat
  rank : Nat
  first : Nat
  count : Nat
  body : Bytes
  desc : CallDesc
deriving DecidableEq, Repr

/-- What a call in DONE_SENT was when a received ABORT ended it, and when: a COMMIT in the same HCLK goes before the ABORT (R404). `regs` are the group's register and
CLE_ERR as they stood. -/
structure CleUndo where
  at_ : Nat
  desc : CallDesc
  res : List Nat
  inexact : Bool
  regs : Tab Word
deriving DecidableEq, Repr

/-- A collective group beside its register CLE_GRPg (R399): the call in progress, its local contributions, block maxima, partials, native
partials, values for the destinations, whether this step's packets are queued, since when it lasts, received packets, whether an
output is inexact, the highest call number with an ABORT, its code and sender, packets that wait for a CLE slot (R263, R392), whether every final value is
here, since when the call is held (R403), the calls that were aborted here (R402), the next call number while no GROUP record defines the group (R382, R410), and a call just aborted. -/
structure CleGrp where
  desc : Option CallDesc
  srcs : List (List Nat)
  lfs : List (List LF)
  tb : List (Option Int)
  part : List LF
  natp : List Nat
  res : List Nat
  sent : Bool
  since : Nat
  inbox : List CollIn
  inexact : Bool
  abortNo : Option (Nat × Nat × Nat)
  out : List Packet
  closing : Bool
  heldAt : Option Nat
  aborted : List Nat
  calls : Nat
  undo : Option CleUndo
deriving DecidableEq, Repr

/-- A journal entry (R425): its first byte position, kind, port, boundary, bytes after the head, activity. -/
structure JEntry where
  pos : Nat
  kind : Nat
  port : Nat
  boundary : Nat
  body : Bytes
  act : Nat
deriving DecidableEq, Repr

/-- A schedule record (R420), with the registers of the parts it lists. -/
structure SchedRec where
  n : Nat
  digest : Bytes
  set : Nat
  regs : Tab Word
  seq : SeqState
  host : HostState
  bud : BudState
  fj : FjState
  chans : Tab Chan
  cle : Tab CleGrp
  jpos : Nat
  arith : Nat
  epoch : Nat
deriving DecidableEq, Repr, Inhabited

/-- The ward of this module as partner (R430, R432): its device, Muslin set and record area sizes, journal ring, versions it has sealed
here and that still stand with their record lengths (latest first), the frame being filled, and from where to where its journal is held without a gap. -/
structure Ward where
  dev : Nat
  muslin : Nat
  rmax : Nat
  ring : Nat
  sealed : List (Nat × Nat)
  fill : Nat
  jfrom : Nat
  jend : Nat
deriving DecidableEq, Repr

/-- Ripening of a spare (R442, R443): lost device, position, target, stand-in map, what is still to come (0 and a page of the frame, 1 the record, 2 and a
stripe, 3 the journal), the pieces of record and journal so far with their offsets, and whether the holder's other frame has been asked for. -/
structure Ripen where
  lost : Nat
  pos : Nat
  target : Nat
  map : Bytes
  want : List (Nat × Nat)
  record : List (Nat × Bytes)
  journal : List (Nat × Bytes)
  other : Bool
deriving DecidableEq, Repr

/-- A KEEP packet that the KPU has not issued yet (R439): device, kind, offset, channel, activity, flagged, poison, its data, and the unit (R413: space, unit, first byte) from
which its 4,096 bytes are read as it leaves, where they are not here. -/
structure KeepOut where
  dest : Nat
  kind : Nat
  off : Nat
  chan : Nat
  act : Nat
  flagged : Bool
  poison : Bool
  data : Bytes
  src : Option (Nat × Nat × Nat)
deriving DecidableEq, Repr

/-- What a surviving member goes back to when its job starts again (R444; assumption log 34): the snapshot, the pages of its set, by first byte, that its partner still has
to return, with the byte past the set for their SEAL, and whether the partner's other frame has been asked for. -/
structure Recover where
  target : Nat
  want : List Nat
  other : Bool
deriving DecidableEq, Repr

/-- Keeping of state (chapter 13): page write epochs (entry·2^24 + page; number of the last snapshot before the write plus one, 0 before any), the last
snapshot taken, the rack time from which a silent partner counts as lost (R448), the two schedule records (latest first), the snapshot streaming to the partner,
versions the partner holds (latest first), the journal, its end and the stretches of it, as position and bytes, that the partner has acknowledged, the marks of the two latest sealed snapshots (R426), when to
pair again, whether the journal is full, the ward, ripening, the entries of a replay, KEEP packets not yet issued, and the restore of a surviving member. -/
structure KpuState where
  epochs : Tab Nat
  last : Option Nat
  lostAt : Option Nat
  recs : List SchedRec
  streaming : Option Nat
  held : List Nat
  journal : List JEntry
  jend : Nat
  jacked : List (Nat × Nat)
  marks : List Nat
  pairAt : Nat
  full : Bool
  ward : Option Ward
  ripen : Option Ripen
  replay : Option (List JEntry)
  out : List KeepOut
  recover : Option Recover
deriving DecidableEq, Repr

/-- A delta not yet sent (R436): keeping entry, byte of its tensor, bytes. Or one applied here (R437): source, stripe, first byte, bytes, whether it went into Q, and whether it
is older than the last snapshot. -/
structure Delta where
  src : Nat
  stripe : Nat
  first : Nat
  bytes : Bytes
  q : Bool
  old : Bool
deriving DecidableEq, Repr

/-- The erasure unit (R436-R438): deltas of writes not yet sent (`src` the keeping entry, `stripe` zero, `first` the byte of the tensor), the delta log of the
parity held here, units still to be rebuilt as stripe and position, positions known to be lost, earliest first, stripes rolled back since, and the devices that
have asked for the chain of a stripe, as stripe and device. -/
structure EruState where
  out : List Delta
  log : List Delta
  rebuild : List (Nat × Nat)
  lost : List Nat
  rolled : List Nat
  asked : List (Nat × Nat)
deriving DecidableEq, Repr

/-- The state of the module. `power`: 0 on, 1 no auxiliary power, 2 no 48 V input, 3 held by MOD_RESET_N, 4 rails off after a trip,
5 a start that waits for the 48 V input (R531 step 3). -/
structure State where
  regs : Tab Word
  mem : List Host.Cell
  far : List Host.Cell
  seq : SeqState
  tiers : MemState
  links : Tab LinkSt
  sp : Tab SpSt
  fj : FjState
  keys : KeyState
  rind : RindState
  fw : FwState
  cle : Tab CleGrp
  kpu : KpuState
  eru : EruState
  img : ImgState
  bud : BudState
  host : HostState
  pause : Option Pause
  fuses : Fuses
  store : Store
  pins : Pins
  mgt : MgtState
  time : TimeSt
  power : Nat
  now : Nat
  rack : Nat
  boundaryNo : Nat
  freeCtr : Nat
  randCtr : Nat
  sent : List OutMsg
  pending : List Instr
deriving DecidableEq, Repr

/-- R456, R479: the memory keys of a start: key 1 and key 2 of AES-256-XTS. -/
def memoryKeys (boot : Nat) : Bytes := (List.range 64).map (Config.memoryKey boot)

/-- What a start makes of the module (R532): everything but the fuses, the persistent stores, the flash and the straps is lost. -/
def State.cold (fuses : Fuses) (store : Store) (fw : FwState) (pins : Pins) : State :=
  { regs := [], mem := [], far := [],
    seq := ⟨[], [], [], [], [], [], 1, [], [], []⟩,
    tiers := ⟨[], [], [], 0, [], [], none, some (memoryKeys store.bootCount), 0, []⟩,
    links := [], sp := [],
    fj := ⟨[], [], [], [], [], [], [], [], [], [], [], [], [], [], [], [], [], [], [], 0, (0, 0), []⟩,
    keys := ⟨none, [], [], [], false⟩,
    rind := ⟨[], [], []⟩,
    fw := fw, cle := [],
    kpu := ⟨[], none, none, [], none, [], [], 0, [], [], 0, false, none, none, none, [], none⟩,
    eru := ⟨[], [], [], [], [], []⟩,
    img := ⟨[], 0, false, none, [], [], [], .none, none⟩,
    bud := ⟨[], [], [], []⟩,
    host := ⟨[], [], [], [], [], [], 63, [], [], [], [], [], [], [], [], false, none, none, false, []⟩,
    pause := none, fuses := fuses, store := store, pins := pins,
    mgt := ⟨[], [], [], [], none, none, [], 0, 0, false, none, false, false, none, 0, none, [], false, []⟩,
    time := ⟨none, (0, 0), none, [], false, none, false, 0, 0, []⟩,
    power := 0, now := 0, rack := 0, boundaryNo := 0, freeCtr := 0, randCtr := 0, sent := [], pending := [] }

/-- Fuses of a new QSN-8-2480 with a zero serial, no repairs and no keys (assumption log 5). -/
def Fuses.new : Fuses := ⟨0x2480, [], [], [], 0x000110FF07FFFFFF, List.replicate 16 0, List.replicate 32 0, [], false, 0, 0⟩

/-- The persistent store of a new module: unowned, token with HPA (R294), floor 0 (R251), nothing logged (assumption log 5). -/
def Store.new : Store := ⟨[], false, 0, 0, 1, [], 1, 0, false, [], [], [], none, none, none, 0, [], [], 0, true⟩

/-- The flash of a new module: one good package in both slots, slot A active, nothing in the owner region (assumption log 5). -/
def FwState.new : FwState :=
  let slot : FwSlot := ⟨1, 0, List.replicate 48 0, List.replicate 48 0, true, true⟩
  ⟨[(0, slot), (1, slot)], 0, none, 0, none, [], none, none, List.replicate 48 0⟩

/-- The module right after reset: a start from auxiliary power in RENNET (R531, R532), boot count 1, straps sampled, input in range. -/
def State.reset : State :=
  { State.cold Fuses.new { Store.new with log := [⟨1, 0, 0, 0, 0, 0, [1, 0, 0, 0, 0, 0, 0, 0, 0, 0]⟩], logNext := 2 } FwState.new ⟨0, 0, 0, true, false, false⟩ with
    regs := [(0x0, 0x0000000000012480), (0x8, 0x000110FF07FFFFFF), (0x6010, 0x8), (0x10000, 0x0000000000400000)] ++ (List.range 24).map (fun k => (0x1001000 + 0x400 * k, 1)) }

/-- Why a step stops with a fault. No command of this model does (assumption log 2). -/
inductive Fault where
  /-- Not raised: every effect of the spec is modelled as a next state. Safe. -/
  | none
deriving DecidableEq, Repr

/-- Why a step is refused. -/
inductive Refusal where
  /-- A command whose meaning is not written. Safe. -/
  | notModelled (mnemonic : String)
deriving DecidableEq, Repr

end Machine
end Sys2Proof
end

