-- ==== Sys2Proof/Machine/Ops.lean ====
section
/-!
DEFINITION. The named operations over registers, memory, time and outgoing messages that every meaning is built from.
-/
namespace Sys2Proof
namespace Machine

/-- What a command answers (every command of this model answers a next state). -/
abbrev Answer := Host.Outcome State Fault Refusal

/-- A command that happens answers the changed state; one whose condition the state does not meet does not happen (assumption log 1). -/
def occurs (cond : Bool) (s t : State) : Answer := .next (if cond then t else s)

/-! ### Registers -/

/-- The indices of a key in a register row's regular array, if it lies in it. -/
def rowHit (dims : List (Nat × Nat)) (off : Nat) : Bool :=
  match dims with
  | [] => off = 0
  | (st, n) :: r => off / st < n && rowHit r (off % st)

/-- The register row at a key. -/
def rowAt (key : Nat) : Option RegRow := regRows.find? (fun r => r.base ≤ key && rowHit r.dims (key - r.base))

/-- The reset word of a row. -/
def rowReset (r : RegRow) : Word := BitVec.ofNat 64 (r.fields.foldl (fun w f => w + f.reset % 2 ^ f.fld.w * 2 ^ f.fld.lo) 0)

/-- The second words of MSI-X table entries, whose mask bit is set after reset (PCI Express; assumption log 30). -/
def isMsixControl (key : Nat) : Bool :=
  (0x21000 ≤ key && key < 0x21400 && key % 16 = 8) || (0x31000 ≤ key && key < 0x31400 && key % 16 = 8)

/-- The reset word at a key; offsets not listed read as zero (R281). -/
def resetWord (key : Nat) : Word := if isMsixControl key then 0x100000000 else match rowAt key with
  | some r => rowReset r
  | none => 0

/-- The word a register holds: what was last put there, else its reset value. -/
def State.rd (s : State) (key : Nat) : Word := tgetD s.regs key (resetWord key)

/-- Puts a whole word into a register. -/
def State.wr (s : State) (key : Nat) (w : Word) : State := { s with regs := tset s.regs key w }

/-- Reads a field of a register. -/
def State.fg (s : State) (key : Nat) (f : Fld) : Nat := bits (s.rd key).toNat f.lo f.w

/-- Writes a field of a register; the other bits stay. -/
def State.fs (s : State) (key : Nat) (f : Fld) (v : Nat) : State :=
  s.wr key (BitVec.ofNat 64 (setBits (s.rd key).toNat f.lo f.w v))

/-- Reads a one-bit field. -/
def State.fb (s : State) (key : Nat) (f : Fld) : Bool := s.fg key f = 1

/-- Adds to a field, stopping at all ones. -/
def State.fsat (s : State) (key : Nat) (f : Fld) (n : Nat) : State := s.fs key f (satAdd (2 ^ f.w - 1) (s.fg key f) n)

/-- Adds 1 to a 48-bit counter register, stopping at all ones. -/
def State.count (s : State) (key : Nat) : State := s.fsat key ⟨0, 48⟩ 1

/-- Adds `n` to a 48-bit counter register, stopping at all ones. -/
def State.countN (s : State) (key n : Nat) : State := s.fsat key ⟨0, 48⟩ n

/-- Puts a register back to its reset value. -/
def State.resetReg (s : State) (key : Nat) : State := { s with regs := tdel s.regs key }

/-- Puts a list of registers to zero. -/
def State.zeroRegs (s : State) (keys : List Nat) : State := keys.foldl (fun s k => s.wr k 0) s

/-! ### Event counters (R510-R515) -/

/-- R512: what an occurrence of an event carries: master id, privilege (0 user, 1 supervisor, 2 machine), activity, Fjarux class, byte address. -/
structure PmcAttr where
  master : Option Nat
  priv : Option Nat
  act : Option Nat
  cls : Option Nat
  addr : Option Nat
deriving DecidableEq, Repr

/-- An occurrence without attributes. -/
def bareAttr : PmcAttr := ⟨none, none, none, none, none⟩
/-- An occurrence caused by a context of a core. -/
def coreAttr (core act : Nat) : PmcAttr := ⟨some core, some 0, some act, none, none⟩

/-- R512: a masked filter: open where its mask is zero. -/
def maskedFilter (mask want : Nat) : Option Nat → Bool
  | some v => v &&& mask = want &&& mask
  | none => mask = 0

/-- R512: an occurrence passes the five filters of a control word of unit `u`. -/
def State.pmcPasses (s : State) (u w : Nat) (a : PmcAttr) : Bool :=
  let f (x : Fld) : Nat := bits w x.lo x.w
  (f F.PMC_CTL_priv = 7 || (a.priv.map (fun p => bit (f F.PMC_CTL_priv) p)).getD false)
  && maskedFilter (f F.PMC_CTL_master_mask) (f F.PMC_CTL_master) a.master
  && maskedFilter (f F.PMC_CTL_activity_mask) (f F.PMC_CTL_activity) a.act
  && (f F.PMC_CTL_class = 7 || a.cls = some (f F.PMC_CTL_class))
  && (f F.PMC_CTL_addr_en = 0
      || (a.addr.map (fun x => decide (s.fg (R.PMC_ADDR u 0) F.PMC_ADDR_addr ≤ x) && decide (x ≤ s.fg (R.PMC_ADDR u 1) F.PMC_ADDR_addr))).getD false)

/-- The event of a control word. -/
def pmcEvent (w : Nat) : Nat := bits w F.PMC_CTL_event.lo F.PMC_CTL_event.w
/-- The mode of a control word (R511). -/
def pmcMode (w : Nat) : Nat := bits w F.PMC_CTL_mode.lo F.PMC_CTL_mode.w

/-- R511: a counter with a control word works in the present module state (count mode CONFIGURED to HELD, edge and level from FIRMWARE on). -/
def State.pmcOn (s : State) (w : Nat) : Bool :=
  let st := s.fg R.GLB_STATE F.GLB_STATE_state
  decide (pmcMode w ≠ 0) && decide (2 ≤ st) && (decide (pmcMode w ≠ 1) || (decide (4 ≤ st) && decide (st ≤ 7)))

/-- R511, R512: a counter with a control word counts an occurrence; only count mode has filters. -/
def State.pmcCounts (s : State) (u w ev : Nat) (a : PmcAttr) : Bool :=
  decide (pmcEvent w = ev) && s.pmcOn w && (decide (pmcMode w ≠ 1) || s.pmcPasses u w a)

/-- R511: how far `n` occurrences at one moment move a counter: an unbroken run of cycles (the array held, collisions, the vector unit busy) is one rising edge. -/
def pmcStep (w n : Nat) : Nat :=
  if pmcMode w = 2 && (pmcEvent w = 0x001 || pmcEvent w = 0x003 || pmcEvent w = 0x006) then 1 else n

/-- Events that only timing inside the unit decides: cycles gated by budget, refused SRAM accesses, ineligible heads, pages opened and refreshes of a far stack,
a Hauno core's instructions and halted cycles (assumption log 135). -/
def pmcTimed (u ev : Nat) : Bool :=
  (decide (u < 32) && (ev = 0x002 || ev = 0x009)) || (u = 40 && (ev = 0x041 || ev = 0x042)) || (decide (62 ≤ u) && decide (u < 86) && (ev = 0x102 || ev = 0x103))
  || (decide (86 ≤ u) && decide (u < 102) && (ev = 0x120 || ev = 0x121))

/-- R513: a counter of a unit moves on; past 48 bits it wraps and sets its ovf bit. -/
def State.pmcBump (s : State) (u i n : Nat) : State :=
  let v := s.fg (R.PMC_CNT u i) F.PMC_CNT_count + n
  let t := s.fs (R.PMC_CNT u i) F.PMC_CNT_count (v % 2 ^ 48)
  if v < 2 ^ 48 then t else t.fs (R.PMC_STATUS u) F.PMC_STATUS_ovf (t.fg (R.PMC_STATUS u) F.PMC_STATUS_ovf ||| 2 ^ i)

/-- R510, R511: `n` occurrences of an event at a unit. A counter never written is off. -/
def State.pmc (s : State) (u ev n : Nat) (a : PmcAttr) : State :=
  (List.range 8).foldl (fun (t : State) i => match tget t.regs (R.PMC_CTL u i) with
    | some w => if n ≠ 0 && t.pmcCounts u w.toNat ev a then t.pmcBump u i (pmcStep w.toNat n) else t
    | none => t) s

/-- R209: a free number of cycles in `n` ns, within the lengths an ACLK cycle can have: 667 to 909 ps. -/
def aclkBound (n c : Nat) : Nat := max (n * 1000 / 909) (min (n * 1000 / 667) c)

/-- R209, R265: the ACLK cycles of a die between two local times in ns, over the times at which its ACLK ran: a free value within the bounds of R209
(assumption log 99). -/
def State.aclkBetween (s : State) (d t0 t1 : Nat) : Nat :=
  ((tgetD s.mgt.aclkRuns d []).map (fun r =>
    let a := max t0 r.1
    let b := min t1 (r.2.getD t1)
    if a < b then aclkBound (b - a) (Config.aclkCycles d b - Config.aclkCycles d a) else 0)).sum

/-- R216: CLK_ACLKd moves on while `n` ns pass: the mean of the last 1 µs, and its lowest value, of the means taken over a whole µs with the clock running
(DESIGN CHOICE; assumption log 99). -/
def State.aclkClocks (s : State) (n : Nat) : State :=
  s.mgt.aclkRuns.foldl (fun (t : State) e =>
    let k := R.CLK_ACLK e.1
    let u := t.fs k F.CLK_ACLK_freq (s.aclkBetween e.1 (s.now + n - 1000) (s.now + n))
    match e.2 with
    | (from_, none) :: _ => if n ≠ 0 && decide (from_ + 1000 ≤ s.now + n) then
        u.fs k F.CLK_ACLK_low (min (u.fg k F.CLK_ACLK_low) (aclkBound 1000 (Config.aclkLow e.1 s.now (s.now + n)))) else u
    | _ => u) s

/-- R206, R510: cycles of a unit's clock up to a local time in ns, but for the ACLK of the cores: PCLK of a host port, FCLK of a stack, CCLK of a Hauno core (its
frequency is not fixed: a free value), HCLK of the others (assumption log 53). -/
def unitCycles (u t : Nat) : Nat :=
  if 102 ≤ u then t
  else if 86 ≤ u then Config.cclkCycles (u - 86) t
  else if 62 ≤ u then t * 800 / 1000
  else 2 * t

/-- R515: what the passing of `n` ns adds to a counter with a control word: its unit's own clock at event 0x000, the free count of a timed event. -/
def State.pmcPassed (s : State) (u w n : Nat) : Nat :=
  if s.pmcCounts u w 0 bareAttr then (if u < 32 then s.aclkBetween (u / 4) s.now (s.now + n) else unitCycles u (s.now + n) - unitCycles u s.now)
  else if s.pmcOn w && pmcTimed u (pmcEvent w) then Config.timedEvents u w (s.now + n) - Config.timedEvents u w s.now
  else 0

/-- R510, R515: the counters of clocks and of timed events move on while `n` ns pass. -/
def State.pmcClocks (s : State) (n : Nat) : State :=
  (s.regs.filter (fun e => decide (0xD0000 ≤ e.1) && decide (e.1 < 0xD6800) && decide (e.1 % 0x100 < 0x40))).foldl (fun (t : State) e =>
    let u := (e.1 - 0xD0000) / 0x100
    if t.pmcPassed u e.2.toNat n ≠ 0 then t.pmcBump u (e.1 % 0x100 / 8) (t.pmcPassed u e.2.toNat n) else t) s

/-! ### Memory that is zero at start (R479): core SRAM, bonded slices, hub SRAM -/

/-- Key of a byte of a core's SRAM. -/
def sramKey (core a : Nat) : Nat := core * 2 ^ 27 + a
/-- Key of a byte of a bonded slice. -/
def bondKey (core a : Nat) : Nat := 2 ^ 40 + core * 2 ^ 34 + a
/-- Key of a byte of hub SRAM. -/
def hubKey (a : Nat) : Nat := 2 ^ 50 + a

/-- What a byte of the zeroed tiers reads as when nothing has written it since the start (R479). -/
def memUnlisted : Byte := 0

/-- Reads one byte of a cell list. -/
def cellGet (m : List Host.Cell) (a : Nat) : Option Byte := tget m a

/-- Writes one byte, keeping the canonical form: an entry that equals what an unlisted byte reads as is removed. -/
def cellPut (m : List Host.Cell) (a : Nat) (b : Byte) : List Host.Cell := if b = memUnlisted then tdel m a else tset m a b

/-- A byte of a core's accumulator area, banks 56-63 (R68, R136). -/
def isAcc (a : Nat) : Bool := decide (a < 2 ^ 32) && decide (7 * 2 ^ 24 ≤ a % 2 ^ 27)

/-- Key in the far list of a written byte of an accumulator area. -/
def accKey (a : Nat) : Nat := 2 ^ 62 + a

/-- Reads one byte of the zeroed tiers. What an MMA left in the accumulator area is a free value (R68 gives no layout; assumption log 11). -/
def State.memRd (s : State) (a : Nat) : Byte :=
  if isAcc a then (cellGet s.far (accKey a)).getD (match tget s.tiers.accStamp (a / 2 ^ 27) with
    | some k => Config.farByte s.store.bootCount k (accKey a)
    | none => memUnlisted)
  else (cellGet s.mem a).getD memUnlisted

/-- Writes one byte of the zeroed tiers. -/
def State.memWr (s : State) (a : Nat) (b : Byte) : State :=
  if isAcc a then { s with far := tset s.far (accKey a) b } else { s with mem := cellPut s.mem a b }

/-- Reads `n` bytes. -/
def State.memRdN (s : State) (a n : Nat) : Bytes := (List.range n).map (fun i => s.memRd (a + i))

/-- Writes bytes in address order. -/
def State.memWrN (s : State) (a : Nat) (bs : Bytes) : State := (bs.zipIdx).foldl (fun t p => t.memWr (a + p.2) p.1) s

/-- R68: a matrix instruction takes a core's accumulator area; what it holds afterwards is not stated. -/
def State.accTake (s : State) (core : Nat) : State :=
  { s with far := s.far.filter (fun c => !(isAcc (c.1 - 2 ^ 62) && decide (2 ^ 62 ≤ c.1) && (c.1 - 2 ^ 62) / 2 ^ 27 = core)),
           tiers := { s.tiers with accStamp := tset s.tiers.accStamp core s.freeCtr }, freeCtr := s.freeCtr + 1 }

/-! ### Far memory: keys (32·stack + channel)·2^35 + byte of the channel; what is stored is ciphertext (R167) -/

/-- One stored byte of far memory; one that nothing has written since the start is a free value (R479). -/
def State.farRd (s : State) (a : Nat) : Byte := (cellGet s.far a).getD (Config.farByte s.store.bootCount s.tiers.keyEpoch a)

/-- Puts bytes into the far list; every written byte is listed. -/
def farPutN (m : List Host.Cell) : List Nat → Bytes → List Host.Cell
  | a :: as, b :: bs => farPutN (tset m a b) as bs
  | _, _ => m

/-! ### Free values and random draws -/

/-- A free value, and the state whose counter has moved past it. -/
def State.free (s : State) : Nat × State := (Config.freeValue s.freeCtr, { s with freeCtr := s.freeCtr + 1 })

/-- `n` random bytes of the Rind (R458), and the state past them. -/
def State.random (s : State) (n : Nat) : Bytes × State :=
  ((List.range n).map (fun i => Config.randomByte (s.randCtr + i)), { s with randCtr := s.randCtr + n })

/-! ### Time -/

/-- R539: how far the rack count is corrected in `n` TCLK: 1 per 10,000 TCLK until the offset is gone. -/
def State.slew (s : State) (n : Nat) : Nat := if s.time.offset = 0 then 0 else min s.time.offset.natAbs ((s.time.acc + n) / 10000)

/-- R539: what is left of the offset. -/
def State.slewLeft (s : State) (n : Nat) : Int :=
  if 0 < s.time.offset then s.time.offset - s.slew n else s.time.offset + s.slew n

/-! ### Outgoing messages -/

/-- A message leaves the module. -/
def State.emit (s : State) (m : OutMsg) : State := { s with sent := s.sent ++ [m] }

/-- R485: the interrupt of a Hauno core: some event of HLC_IRQ that HLC_IRQ_EN enables. -/
def State.haunoLine (s : State) (h : Nat) : Bool := decide ((s.rd (R.HLC_IRQ h)).toNat &&& (s.rd (R.HLC_IRQ_EN h)).toNat ≠ 0)

/-- R485: an interrupt that was not raised before reaches its core. -/
def State.haunoRaised (t s : State) (h : Nat) : State := if !s.haunoLine h && t.haunoLine h then t.emit (.haunoInterrupt h) else t

/-- R485: an event of a Hauno core shows in HLC_IRQ. -/
def State.haunoEvent (s : State) (h : Nat) (fl : Fld) (v : Nat) : State := (s.fs (R.HLC_IRQ h) fl v).haunoRaised s h

/-- A host port's PCI Express link is in L0 (GLB_STATUS.hpa_up, hpb_up; R283). -/
def State.hostUp (s : State) (port : Nat) : Bool :=
  s.fb R.GLB_STATUS (if port = 0 then F.GLB_STATUS_hpa_up else F.GLB_STATUS_hpb_up)

/-- A host port that can reach the module: power is on. -/
def State.hostOn (s : State) (port : Nat) : Bool := decide (port < 2) && decide (s.power = 0)

/-- The mask bit of a vector's table entry: bit 32 of its second word, set after reset (PCI Express; assumption log 30). -/
def State.msixMasked (s : State) (port v : Nat) : Bool := s.fg (R.HP_MSIX_TABLE port (2 * v + 1)) ⟨32, 1⟩ = 1

/-- The configuration space of a host port after its reset: D0, 128-byte payloads, read requests of 512 bytes, nothing recorded. PRESUMED from the base specification,
but for MSI-X: no command of the table writes configuration space, so the host's enumeration, which enables it, is taken as done (assumption log 76). -/
def PciSt.reset : PciSt := ⟨true, false, 128, 512, 0, 0, 0, (0, 0), (0, 0)⟩

/-- R277, R546: the identity in a port's configuration space: vendor, device, revision, class code, subsystem vendor and subsystem. -/
def State.pciIdentity (s : State) (port : Nat) : List Nat :=
  [0x1FD3, if s.fuses.part = 0x2480 then 0x8248 else if s.fuses.part = 0x2440 then 0x8244 else 0x8164, 1, 0x120000, 0x1FD3, port]

/-- R277: the width and speed that a link's training negotiates are free among those the port supports. -/
def pciLink (port now : Nat) : Nat × Nat := ([8, 4, 1].getD (Config.hostLink port now % 3) 8, [32, 16, 8].getD (Config.hostLink port now / 3 % 3) 32)

/-- The configuration space of a host port. -/
def State.pci (s : State) (port : Nat) : PciSt := tgetD s.host.pci port PciSt.reset

/-- R282, R277: an access completed with Unsupported Request, which AER records as its bit 20 (PRESUMED, assumption log 76). -/
def State.refuseTlp (s : State) (port : Nat) : State :=
  let c := s.pci port
  { s with host := { s.host with pci := tset s.host.pci port { c with errors := c.errors ||| 2 ^ 20 } } }.emit (.unsupportedRequest port)

/-- R299, R300: one message of a vector: pending while its entry is masked, else sent; a message of a port whose link is down is lost (R278). -/
def State.msixNow (s : State) (port v : Nat) : State :=
  if !(s.pci port).msix then s
  else if (s.pci port).masked || s.msixMasked port v then s.wr (R.HP_MSIX_PBA port) (s.rd (R.HP_MSIX_PBA port) ||| BitVec.ofNat 64 (2 ^ v))
  else if s.hostUp port then s.emit (.msix port v) else s

/-- A vector on both ports. -/
def State.msixBoth (s : State) (v : Nat) : State := (s.msixNow 0 v).msixNow 1 v

/-! ### Event log (R508, R509) -/

/-- R538: the rack count as it reads: 0 until rack time is acquired. -/
def State.rackRead (s : State) : Nat := if s.fb R.TIME_STATUS F.TIME_STATUS_acquired then s.rack else 0

/-- Rack time as log entries give it: 0 before TCLK locks (R508). -/
def State.logTime (s : State) : Nat := if s.fb R.CLK_STATUS F.CLK_STATUS_tclk_lock then s.rackRead else 0

/-- R509: writes an event to the log ring, or merges it into the newest identical entry of the last 10 ms; errors go out on vector 4. -/
def State.log (s : State) (code severity source : Nat) (detail : Bytes) : State :=
  let d := (detail ++ zeros 10).take 10
  let st := s.store
  let fresh : LogEntry := ⟨st.logNext, s.logTime, code, severity, source, 0, d⟩
  let add : State :=
    if st.log.length < 8064 then { s with store := { st with log := st.log ++ [fresh], logNext := st.logNext + 1, logAt := s.now } }
    else { s with store := { st with log := st.log.drop 1 ++ [fresh], logNext := st.logNext + 1, logAt := s.now, logWrapped := true } }.fs R.EVT_STATUS F.EVT_STATUS_wrapped 1
  let t : State :=
    match st.log.getLast? with
    | some e =>
      if e.code = code ∧ e.source = source ∧ e.detail = d ∧ s.now ≤ st.logAt + 10000000 then
        { s with store := { st with log := st.log.dropLast ++ [{ e with rep := satAdd 0xFFFF e.rep 1 }] } }
      else add
    | none => add
  if 2 ≤ severity then t.msixBoth 4 else t

end Machine
end Sys2Proof
end

