-- ==== Sys2Proof/Machine/Flags.lean ====
section
/-!
DEFINITION. Status codes (R16, R18), module states (R279), and the rules of sticky and self-clearing bits.
-/
namespace Sys2Proof
namespace Machine

namespace Code
/-- R16. -/
@[reducible] def ok := 0x00
@[reducible] def busy := 0x01
@[reducible] def absentUnit := 0x02
@[reducible] def badFormat := 0x03
@[reducible] def badSignature := 0x04
@[reducible] def staleVersion := 0x05
@[reducible] def keyUnknown := 0x06
@[reducible] def outOfRange := 0x07
@[reducible] def notPermitted := 0x08
@[reducible] def arrayCheck := 0x10
@[reducible] def residueCheck := 0x11
@[reducible] def inexact := 0x12
@[reducible] def memUncorrectable := 0x13
@[reducible] def linkDown := 0x20
@[reducible] def miswired := 0x21
@[reducible] def levelMismatch := 0x22
@[reducible] def unattested := 0x23
@[reducible] def degradedWidth := 0x24
@[reducible] def dieLost := 0x25
@[reducible] def fenceLost := 0x30
@[reducible] def targetDead := 0x31
@[reducible] def parkFull := 0x32
@[reducible] def epochBusy := 0x33
@[reducible] def leaseLost := 0x40
@[reducible] def feedShared := 0x41
@[reducible] def ripening := 0x42
@[reducible] def stepTimeout := 0x43
@[reducible] def settingsReset := 0x44
@[reducible] def thermalTrip := 0x50
@[reducible] def sensorFailed := 0x51
@[reducible] def fatal := 0x60
end Code

namespace MState
/-- R279: module state codes. -/
@[reducible] def off := 0
@[reducible] def rennet := 1
@[reducible] def firmware := 2
@[reducible] def ready := 3
@[reducible] def configured := 4
@[reducible] def serving := 5
@[reducible] def snapshot := 6
@[reducible] def held := 7
@[reducible] def test := 8
@[reducible] def faulted := 9
@[reducible] def dumped := 10
@[reducible] def tripped := 11
end MState

/-- R18: INEXACT never replaces another code; otherwise the numerically highest code stands. -/
def joinCode (a b : Nat) : Nat :=
  if a = Code.ok then b else if b = Code.ok then a
  else if a = Code.inexact then b else if b = Code.inexact then a else max a b

/-- The module state (R279). -/
def State.mstate (s : State) : Nat := s.fg R.GLB_STATE F.GLB_STATE_state

/-- R280: the state whose rules apply: in TEST, the state the module would otherwise be in. -/
def State.effState (s : State) : Nat :=
  if s.mstate = MState.test then
    if s.pause.isSome && (s.pause.map (fun p => p.snapshot || p.maint)).getD false then MState.snapshot
    else if s.host.started then MState.serving else MState.configured
  else s.mstate

/-- The module is HELD (R368), also while a pause shows SNAPSHOT. -/
def State.heldNow (s : State) : Bool := s.mstate = MState.held || (match s.pause with
  | some p => p.back = MState.held && s.mstate = MState.snapshot
  | none => false)

/-- The module is in TEST (R280). -/
def State.inTest (s : State) : Bool := s.mstate = MState.test

/-- R496: a PLDM platform event message to the event receiver, once the tray controller has named one (assumption log 42). -/
def State.platformEvent (s : State) (b : Bytes) : State := if s.mgt.receiver.isSome then s.emit (.pldm b) else s

/-- A change of module state (R283, R299): previous and changes follow, it is logged, and vector 3 goes out on both ports. -/
def State.setState (s : State) (n : Nat) : State :=
  if s.mstate = n then s
  else
    let t := ((s.fs R.GLB_STATE F.GLB_STATE_previous s.mstate).fsat R.GLB_STATE F.GLB_STATE_changes 1).fs R.GLB_STATE F.GLB_STATE_state n
    ((t.log Code.ok 0 0 [2, BitVec.ofNat 8 n]).msixBoth 3).platformEvent [2, BitVec.ofNat 8 n]

/-- A sticky event bit (W1C): the event of a cycle wins over a clearing write of the same cycle, because commands come one by one. -/
def State.raise (s : State) (key : Nat) (f : Fld) : State := s.fs key f 1

/-- The port that holds the owner-host token (R294). -/
def State.tokenPort (s : State) : Nat := s.fg R.GLB_STATUS F.GLB_STATUS_token_port

/-- The firmware slot that runs. -/
def State.runningFw (s : State) : FwSlot := tgetD s.fw.slots (s.fg R.RIND_STATUS F.RIND_STATUS_boot_slot) ⟨0, 0, zeros 48, zeros 48, false, false⟩

end Machine
end Sys2Proof
end

