-- ==== Sys2Proof/Machine/Cfg.lean ====
section
/-!
DEFINITION. Reading the configuration in force: the fields of the record types (R225, R226, R255, R260, R284).
-/
namespace Sys2Proof
namespace Machine

namespace RT
/-- R225: record types. -/
@[reducible] def schedule := 0x0001
@[reducible] def engine := 0x0002
@[reducible] def program := 0x0003
@[reducible] def ring := 0x0004
@[reducible] def route := 0x0005
@[reducible] def domain := 0x0006
@[reducible] def memplan := 0x0007
@[reducible] def activity := 0x0008
@[reducible] def budget := 0x0009
@[reducible] def window := 0x000A
@[reducible] def routing := 0x000B
@[reducible] def wiring := 0x000C
@[reducible] def group := 0x000D
@[reducible] def keeping := 0x000E
@[reducible] def counter := 0x000F
@[reducible] def limits := 0x0010
@[reducible] def stream := 0x0011
@[reducible] def map := 0x0012
@[reducible] def signal := 0x0013
@[reducible] def hauno := 0x0014
@[reducible] def patch := 0x0020
end RT

/-- The record of a type and id. -/
def findRec (c : List Rec) (t i : Nat) : Option Rec := c.find? (fun r => r.type = t && r.id = i)

/-- Every record of a type. -/
def recsOf (c : List Rec) (t : Nat) : List Rec := c.filter (fun r => r.type = t)

/-- A field of a record's payload. -/
def Rec.at (r : Rec) (off n : Nat) : Nat := fieldAt r.body off n

/-- A field of the record of a type and id, zero when there is none. -/
def recField (c : List Rec) (t i off n : Nat) : Nat := match findRec c t i with
  | some r => r.at off n
  | none => 0

/-- SCHEDULE: the step period in TCLK. -/
def stepPeriod (c : List Rec) : Nat := recField c RT.schedule 0 0 4 * 1000
/-- SCHEDULE: the step phase in TCLK. -/
def stepPhase (c : List Rec) : Nat := recField c RT.schedule 0 4 4 * 1000
/-- SCHEDULE: the budget period in µs. -/
def budgetPeriod (c : List Rec) : Nat := recField c RT.schedule 0 8 2
/-- SCHEDULE: the snapshot interval in steps. -/
def snapSteps (c : List Rec) : Nat := recField c RT.schedule 0 12 4
/-- SCHEDULE: remote_bound in µs. -/
def remoteBound (c : List Rec) : Nat := recField c RT.schedule 0 16 4

/-- R256: an activity exists. -/
def actExists (c : List Rec) (a : Nat) : Bool := a = 0 || a = 255 || (findRec c RT.activity a).isSome
/-- R254, R256: the kind of an activity. -/
def actKind (c : List Rec) (a : Nat) : Nat := match findRec c RT.activity a with
  | some r => r.at 0 1
  | none => if a = 255 then 3 else 0
/-- R255: the job key id of an activity. -/
def actKey (c : List Rec) (a : Nat) : Nat := recField c RT.activity a 2 2
/-- R255: native_ok. -/
def actNative (c : List Rec) (a : Nat) : Bool := bit (recField c RT.activity a 1 1) 0
/-- R117: a context of this activity has high priority. -/
def actHigh (c : List Rec) (a : Nat) : Bool := actKind c a ≠ 2

/-- PROGRAM: instruction count. -/
def progCount (r : Rec) : Nat := r.at 0 2
/-- PROGRAM: a context is bound, its activity and entry index. -/
def progCtx (r : Rec) (i : Nat) : Bool × Nat × Nat := (bit (r.at (4 + 4 * i) 1) 0, r.at (5 + 4 * i) 1, r.at (6 + 4 * i) 2)
/-- PROGRAM: the instructions. -/
def progWords (r : Rec) : List Nat := (List.range (progCount r)).map (fun i => r.at (32 + 16 * i) 16)

/-- RING record fields (R143). -/
structure RingCfg where
  base : Nat
  size : Nat
  slots : Nat
  counter : Nat
  kind : Nat
  source : Nat
deriving DecidableEq, Repr

/-- The ring of an id. -/
def ringCfg (c : List Rec) (id : Nat) : Option RingCfg := (findRec c RT.ring id).map (fun r =>
  ⟨r.at 0 4, r.at 4 4, r.at 8 2, r.at 10 1, r.at 11 1, r.at 12 2⟩)

/-- ROUTE: the destination rings. -/
def routeDests (r : Rec) : List Nat := (List.range (r.at 0 1)).map (fun i => r.at (2 + 2 * i) 2)

/-- A STREAM record's fields (R284). -/
structure StreamCfg where
  output : Bool
  act : Nat
  hosts : Nat
  kind : Nat
  dest : Nat
  channel : Nat
  farBase : Nat
  farSlot : Nat
  farSlots : Nat
  farCore : Nat
  farCnt : Nat
  farRel : Nat
  notify : Nat
deriving DecidableEq, Repr

/-- The binding of a stream port; none when unbound. -/
def streamCfg (c : List Rec) (n : Nat) : Option StreamCfg := (findRec c RT.stream n).map (fun r =>
  ⟨r.at 0 1 = 1, r.at 1 1, r.at 2 1, r.at 3 1, r.at 4 2, r.at 6 2, r.at 8 8, r.at 16 4, r.at 20 2, r.at 22 1, r.at 23 1 % 32, r.at 24 1 % 32, r.at 26 2⟩)

/-- ENGINE: the engine that holds a core. -/
def engineOf (c : List Rec) (core : Nat) : Option Rec := (recsOf c RT.engine).find? (fun r => bit (r.at 0 4) core)
/-- ENGINE: the dies an engine touches. -/
def engineDies (r : Rec) : List Nat := indices 8 (fun d => (List.range 4).any (fun k => bit (r.at 0 4) (4 * d + k)))
/-- ENGINE: DIRECT path mode. -/
def engineDirect (r : Rec) : Bool := r.at 4 1 = 0

/-- The contexts bound to an activity, as 4·core + ctx. -/
def boundCtxs (c : List Rec) (a : Nat) : List Nat :=
  (recsOf c RT.program).flatMap (fun r => ((List.range 4).filter (fun i => (progCtx r i).1 && (progCtx r i).2.1 = a)).map (fun i => 4 * r.id + i))

/-- R201: the cores an activity uses: those of its contexts, of the rings of its input ports, of its far rings and of its routes' ends. -/
def actCores (c : List Rec) (a : Nat) : List Nat :=
  let own := (boundCtxs c a).map (· / 4)
  own.eraseDups

/-- LIMITS with its defaults of chapter 15: power cap. -/
def limPower (c : List Rec) : Option Nat := (findRec c RT.limits 0).map (fun r => r.at 0 2)

end Machine
end Sys2Proof
end

