-- ==== Sys2Proof/Machine/Crypto.lean ====
section
/-!
DEFINITION. The published algorithms the spec names: SHA-384 (FIPS 180-4), HMAC and HKDF over it (RFC 2104, RFC 5869), AES-256 in GCM
(FIPS 197, SP 800-38D), ECDSA and ECDH on brainpoolP384r1 (RFC 5639, FIPS 186-5), and the X.509 fields a certificate chain is
judged by (RFC 5280). No rule of spec/ changes any of them.
-/
namespace Sys2Proof
namespace Machine

/-! ### SHA-384 -/

/-- True of the odd primes and 2, by trial division below 32 (enough below 1024). -/
def isPrime (n : Nat) : Bool := decide (2 ≤ n) && (List.range 30).all (fun d => n % (d + 2) ≠ 0 || n = d + 2)

/-- The primes below 410, of which FIPS 180-4 uses the first eighty. -/
def primes : List Nat := (List.range 410).filter isPrime

/-- The largest r below 2^b + the bits found so far whose power k does not exceed x, bit by bit. -/
def rootBits (k x : Nat) : Nat → Nat → Nat
  | 0, r => r
  | b + 1, r => rootBits k x b (if (r + 2 ^ b) ^ k ≤ x then r + 2 ^ b else r)

/-- The first 64 bits of the fractional part of the k-th root of a number below 2^12. -/
def rootFraction (k p : Nat) : Nat := rootBits k (p * 2 ^ (64 * k)) 70 0 % 2 ^ 64

/-- FIPS 180-4 4.2.3: the round constants of SHA-384: the fractional parts of the cube roots of the first eighty primes. -/
def shaK : List Nat := primes.map (rootFraction 3)

/-- FIPS 180-4 5.3.4: the initial hash value of SHA-384: the fractional parts of the square roots of the ninth to sixteenth primes. -/
def shaIv : List Nat := ((primes.drop 8).take 8).map (rootFraction 2)

/-- Rotation of a 64-bit number to the right. -/
def rotr64 (x n : Nat) : Nat := x / 2 ^ n ||| x * 2 ^ (64 - n) % 2 ^ 64

/-- Sum modulo 2^64. -/
def add64 (a b : Nat) : Nat := (a + b) % 2 ^ 64

/-- FIPS 180-4: the message schedule, newest word first; `n` words are still to come. -/
def shaSchedule : Nat → List Nat → List Nat
  | 0, w => w
  | n + 1, w =>
    let a := w.getD 1 0
    let b := w.getD 14 0
    let s1 := rotr64 a 19 ^^^ rotr64 a 61 ^^^ a / 2 ^ 6
    let s0 := rotr64 b 1 ^^^ rotr64 b 8 ^^^ b / 2 ^ 7
    shaSchedule n (add64 (add64 s1 (w.getD 6 0)) (add64 s0 (w.getD 15 0)) :: w)

/-- FIPS 180-4: one round on the eight working variables. -/
def shaRound (v : List Nat) (kw : Nat × Nat) : List Nat :=
  match v with
  | [a, b, c, d, e, f, g, h] =>
    let s1 := rotr64 e 14 ^^^ rotr64 e 18 ^^^ rotr64 e 41
    let ch := (e &&& f) ^^^ ((2 ^ 64 - 1 - e) &&& g)
    let t1 := add64 (add64 (add64 h s1) (add64 ch kw.1)) kw.2
    let s0 := rotr64 a 28 ^^^ rotr64 a 34 ^^^ rotr64 a 39
    let mj := (a &&& b) ^^^ (a &&& c) ^^^ (b &&& c)
    [add64 t1 (add64 s0 mj), a, b, c, add64 d t1, e, f, g]
  | _ => v

/-- FIPS 180-4: one block of 128 bytes. -/
def shaBlock (h : List Nat) (blk : Bytes) : List Nat :=
  let w := (shaSchedule 64 ((chunks 8 blk).map beNat).reverse).reverse
  (h.zip ((shaK.zip w).foldl shaRound h)).map (fun p => add64 p.1 p.2)

/-- FIPS 180-4: the padded message. -/
def shaPad (m : Bytes) : Bytes := m ++ [0x80] ++ zeros ((240 - (m.length + 1) % 128) % 128) ++ beBytes 16 (8 * m.length)

/-- SHA-384. -/
def sha384 (m : Bytes) : Bytes := (((chunks 128 (shaPad m)).foldl shaBlock shaIv).take 6).flatMap (beBytes 8)

/-- RFC 2104: HMAC-SHA-384. -/
def hmac384 (key m : Bytes) : Bytes :=
  let k := if 128 < key.length then sha384 key else key
  let k := k ++ zeros (128 - k.length)
  sha384 (k.map (fun b => b ^^^ 0x5C) ++ sha384 (k.map (fun b => b ^^^ 0x36) ++ m))

/-- RFC 5869: `n` further blocks of HKDF-Expand. -/
def hkdfBlocks (prk info : Bytes) : Nat → Nat → Bytes → Bytes
  | 0, _, _ => []
  | n + 1, i, prev =>
    let t := hmac384 prk (prev ++ info ++ [BitVec.ofNat 8 i])
    t ++ hkdfBlocks prk info n (i + 1) t

/-- RFC 5869: HKDF-SHA-384. -/
def hkdf384 (salt ikm info : Bytes) (len : Nat) : Bytes := (hkdfBlocks (hmac384 salt ikm) info (cdiv len 48) 1 []).take len

/-- The bytes of an ASCII text. -/
def ascii (t : String) : Bytes := t.toList.map (fun c => BitVec.ofNat 8 c.toNat)

/-! ### AES-256-GCM -/

/-- FIPS 197: multiplication by x in GF(2^8). -/
def xtime (a : Nat) : Nat := if a < 128 then 2 * a else (2 * a) ^^^ 0x11B

/-- FIPS 197: multiplication in GF(2^8), over the bits of `b` from the lowest. -/
def gfMul : Nat → Nat → Nat → Nat
  | 0, _, _ => 0
  | n + 1, a, b => (if b % 2 = 1 then a else 0) ^^^ gfMul n (xtime a) (b / 2)

/-- FIPS 197: the inverse in GF(2^8), as the 254th power. -/
def gfInv (a : Nat) : Nat :=
  let sq (x : Nat) := gfMul 8 x x
  let a2 := sq a
  let a4 := sq a2
  let a8 := sq a4
  let a16 := sq a8
  let a32 := sq a16
  let a64 := sq a32
  let a128 := sq a64
  [a4, a8, a16, a32, a64, a128].foldl (gfMul 8) a2

/-- Rotation of a byte to the left. -/
def rotl8 (x n : Nat) : Nat := (x * 2 ^ n ||| x / 2 ^ (8 - n)) % 256

/-- FIPS 197: SubBytes of one byte, computed. -/
def subByte (a : Nat) : Nat :=
  let b := gfInv a
  b ^^^ rotl8 b 1 ^^^ rotl8 b 2 ^^^ rotl8 b 3 ^^^ rotl8 b 4 ^^^ 0x63

/-- FIPS 197: SubBytes as a table. -/
def sboxTable : List Nat := (List.range 256).map subByte

/-- SubBytes of one byte through the table. -/
def sboxAt (t : List Nat) (b : Nat) : Nat := t.getD b 0

/-- FIPS 197: the expanded key as words of four bytes, newest first; `n` words are still to come, `i` is the index of the next. -/
def aesExpand (t : List Nat) : Nat → Nat → Nat → List (List Nat) → List (List Nat)
  | 0, _, _, w => w
  | n + 1, i, rcon, w =>
    let prev := w.getD 0 []
    let old := w.getD 7 []
    let x := if i % 8 = 0 then
        let r := (prev.drop 1 ++ prev.take 1).map (sboxAt t)
        (r.headD 0 ^^^ rcon) :: r.drop 1
      else if i % 8 = 4 then prev.map (sboxAt t) else prev
    aesExpand t n (i + 1) (if i % 8 = 0 then xtime rcon else rcon) ((x.zip old).map (fun p => p.1 ^^^ p.2) :: w)

/-- FIPS 197: the 15 round keys of AES-256, each 16 bytes. -/
def aesKeys (t : List Nat) (key : Bytes) : List (List Nat) :=
  let w0 := ((chunks 4 key).map (fun c => c.map (fun b => b.toNat))).reverse
  let w := (aesExpand t 52 8 1 w0).reverse
  (List.range 15).map (fun i => ((w.drop (4 * i)).take 4).flatten)

/-- FIPS 197: ShiftRows. -/
def shiftRows (s : List Nat) : List Nat := (List.range 16).map (fun i => s.getD ((i + 4 * (i % 4)) % 16) 0)

/-- FIPS 197: MixColumns of one column. -/
def mixColumn (c : List Nat) : List Nat :=
  (List.range 4).map (fun i =>
    let g (k : Nat) := c.getD ((i + k) % 4) 0
    xtime (g 0) ^^^ (xtime (g 1) ^^^ g 1) ^^^ g 2 ^^^ g 3)

/-- FIPS 197: MixColumns. -/
def mixColumns (s : List Nat) : List Nat := (List.range 4).flatMap (fun j => mixColumn ((s.drop (4 * j)).take 4))

/-- Bytewise sum. -/
def xorList (a b : List Nat) : List Nat := (a.zip b).map (fun p => p.1 ^^^ p.2)

/-- FIPS 197: the rounds after the first key addition. -/
def aesRounds (t : List Nat) : List (List Nat) → List Nat → List Nat
  | [], s => s
  | [k], s => xorList (shiftRows (s.map (sboxAt t))) k
  | k :: ks, s => aesRounds t ks (xorList (mixColumns (shiftRows (s.map (sboxAt t)))) k)

/-- FIPS 197: AES-256 of one block, with its key schedule. -/
def aesBlock (t : List Nat) (ks : List (List Nat)) (b : List Nat) : List Nat := aesRounds t (ks.drop 1) (xorList b (ks.headD []))

/-- FIPS 197: the inverse of SubBytes as a table. -/
def invTable (t : List Nat) : List Nat := (List.range 256).map (fun v => t.idxOf v)

/-- FIPS 197: the inverse of ShiftRows. -/
def unshiftRows (s : List Nat) : List Nat := (List.range 16).map (fun i => s.getD ((i + 12 * (i % 4)) % 16) 0)

/-- FIPS 197: the inverse of MixColumns, which is of order four. -/
def unmixColumns (s : List Nat) : List Nat := mixColumns (mixColumns (mixColumns s))

/-- FIPS 197: the rounds after the first key addition, undone; `v` is the inverse table. -/
def aesUnrounds (v : List Nat) : List (List Nat) → List Nat → List Nat
  | [], s => s
  | [k], s => (unshiftRows (xorList s k)).map (sboxAt v)
  | k :: ks, s => (unshiftRows (unmixColumns (xorList (aesUnrounds v ks s) k))).map (sboxAt v)

/-- FIPS 197: AES-256 of one block, undone. -/
def aesUnblock (v : List Nat) (ks : List (List Nat)) (b : List Nat) : List Nat := xorList (aesUnrounds v (ks.drop 1) b) (ks.headD [])

/-! ### AES-256-XTS (R167, R479; IEEE 1619) -/

/-- Multiplication of a tweak by the primitive element of GF(2^128), little-endian. -/
def xtsDouble (t : Nat) : Nat := if t < 2 ^ 127 then 2 * t else (2 * t) ^^^ (2 ^ 128 + 0x87)

/-- The mask of block `j` of a data unit: its tweak encrypted under key 2, the second half of the keys, then doubled `j` times. -/
def xtsMask (keys : Bytes) (tweak j : Nat) : List Nat :=
  let t := sboxTable
  let e := aesBlock t (aesKeys t (slice keys 32 32)) ((leBytes 16 tweak).map (fun b => b.toNat))
  (leBytes 16 ((List.range j).foldl (fun x _ => xtsDouble x) (leNat (e.map (BitVec.ofNat 8))))).map (fun b => b.toNat)

/-- A block of 16 bytes encrypted under key 1. -/
def xtsSeal (keys : Bytes) (tweak j : Nat) (b : Bytes) : Bytes :=
  let t := sboxTable
  let m := xtsMask keys tweak j
  (xorList (aesBlock t (aesKeys t (slice keys 0 32)) (xorList (b.map (fun x => x.toNat)) m)) m).map (BitVec.ofNat 8)

/-- A block of 16 bytes decrypted under key 1. -/
def xtsOpen (keys : Bytes) (tweak j : Nat) (b : Bytes) : Bytes :=
  let t := sboxTable
  let m := xtsMask keys tweak j
  (xorList (aesUnblock (invTable t) (aesKeys t (slice keys 0 32)) (xorList (b.map (fun x => x.toNat)) m)) m).map (BitVec.ofNat 8)

/-- SP 800-38D: multiplication in GF(2^128); blocks are big-endian numbers, `n` bits of `x` from the highest are left. -/
def ghashMul : Nat → Nat → Nat → Nat → Nat
  | 0, _, _, z => z
  | n + 1, x, v, z => ghashMul n x (if v % 2 = 1 then v / 2 ^^^ 0xE1000000000000000000000000000000 else v / 2) (if bit x n then z ^^^ v else z)

/-- SP 800-38D: GHASH of whole blocks. -/
def ghash (h : Nat) (bs : Bytes) : Nat := (chunks 16 bs).foldl (fun y c => ghashMul 128 (y ^^^ beNat c) h 0) 0

/-- SP 800-38D: the key stream of `n` blocks from a counter. -/
def gcmStream (t : List Nat) (ks : List (List Nat)) (nonce : Bytes) : Nat → Nat → Bytes
  | 0, _ => []
  | n + 1, c => (aesBlock t ks ((nonce ++ beBytes 4 c).map (fun b => b.toNat))).map (BitVec.ofNat 8) ++ gcmStream t ks nonce n (c + 1)

/-- Bytewise sum of byte strings. -/
def xorBytes (a b : Bytes) : Bytes := (a.zip b).map (fun p => p.1 ^^^ p.2)

/-- SP 800-38D: counter mode over the data. -/
def gcmCrypt (key nonce data : Bytes) : Bytes :=
  let t := sboxTable
  xorBytes data (gcmStream t (aesKeys t key) nonce (cdiv data.length 16) 2)

/-- SP 800-38D: the 16-byte tag over the additional data and the ciphertext. -/
def gcmTag (key nonce aad ct : Bytes) : Bytes :=
  let t := sboxTable
  let ks := aesKeys t key
  let h := beNat ((aesBlock t ks (List.replicate 16 0)).map (BitVec.ofNat 8))
  let s := ghash h (padTo 16 aad ++ padTo 16 ct ++ beBytes 8 (8 * aad.length) ++ beBytes 8 (8 * ct.length))
  xorBytes (beBytes 16 s) (gcmStream t ks nonce 1 1)

/-- AES-256-GCM sealing: ciphertext and tag of `n` bytes. -/
def gcmSeal (key nonce aad pt : Bytes) (n : Nat) : Bytes × Bytes :=
  let c := gcmCrypt key nonce pt
  (c, (gcmTag key nonce aad c).take n)

/-- AES-256-GCM opening: none where the tag fails. -/
def gcmOpen (key nonce aad ct tag : Bytes) : Option Bytes :=
  if (gcmTag key nonce aad ct).take tag.length = tag then some (gcmCrypt key nonce ct) else none

/-! ### brainpoolP384r1 -/

namespace EC
/-- RFC 5639: the prime. -/
@[reducible] def p : Nat := 0x8CB91E82A3386D280F5D6F7E50E641DF152F7109ED5456B412B1DA197FB71123ACD3A729901D1A71874700133107EC53
/-- RFC 5639: the coefficient A. -/
@[reducible] def a : Nat := 0x7BC382C63D8C150C3C72080ACE05AFA0C2BEA28E4FB22787139165EFBA91F90F8AA5814A503AD4EB04A8C7DD22CE2826
/-- RFC 5639: the coefficient B. -/
@[reducible] def b : Nat := 0x04A8C7DD22CE28268B39B55416F0447C2FB77DE107DCD2A62E880EA53EEB62D57CB4390295DBC9943AB78696FA504C11
/-- RFC 5639: the base point. -/
@[reducible] def gx : Nat := 0x1D1C64F068CF45FFA2A63A81B7C13F6B8847A3E77EF14FE3DB7FCAFE0CBD10E8E826E03436D646AAEF87B2E247D4AF1E
/-- RFC 5639: the base point. -/
@[reducible] def gy : Nat := 0x8ABE1D7520F9C2A45CB1EB8E95CFD55262B70B29FEEC5864E19C054FF99129280E4646217791811142820341263C5315
/-- RFC 5639: the group order. -/
@[reducible] def n : Nat := 0x8CB91E82A3386D280F5D6F7E50E641DF152F7109ED5456B31F166E6CAC0425A7CF3AB6AF6B7FC3103B883202E9046565
end EC

/-- Power modulo `m`, over the bits of the exponent. -/
def powMod : Nat → Nat → Nat → Nat → Nat
  | 0, _, _, _ => 1
  | k + 1, x, e, m => if e = 0 then 1 else
    let h := powMod k (x * x % m) (e / 2) m
    if e % 2 = 1 then h * x % m else h

/-- Inverse modulo a 384-bit prime (Fermat). -/
def invMod (x m : Nat) : Nat := powMod 384 (x % m) (m - 2) m

/-- Difference modulo the prime. -/
def subP (x y : Nat) : Nat := (x + EC.p - y % EC.p) % EC.p

/-- The sum of two points; none is the point at infinity. -/
def ecAdd (x y : Option (Nat × Nat)) : Option (Nat × Nat) :=
  match x, y with
  | none, q => q
  | q, none => q
  | some (x1, y1), some (x2, y2) =>
    if x1 = x2 && (y1 + y2) % EC.p = 0 then none
    else
      let l := if x1 = x2 then (3 * x1 * x1 + EC.a) * invMod (2 * y1) EC.p % EC.p else subP y2 y1 * invMod (subP x2 x1) EC.p % EC.p
      let x3 := subP (subP (l * l) x1) x2
      some (x3, subP (l * subP x1 x3) y1)

/-- A multiple of a point, over the bits of the scalar. -/
def ecMul : Nat → Nat → Option (Nat × Nat) → Option (Nat × Nat)
  | 0, _, _ => none
  | f + 1, k, q => if k = 0 then none else
    let r := ecMul f (k / 2) (ecAdd q q)
    if k % 2 = 1 then ecAdd q r else r

/-- A multiple of the base point. -/
def ecBase (k : Nat) : Option (Nat × Nat) := ecMul 384 k (some (EC.gx, EC.gy))

/-- R220: a point from its 97-byte uncompressed form; none where it is no point of the curve. -/
def pointOf (bs : Bytes) : Option (Nat × Nat) :=
  let x := beNat (slice bs 1 48)
  let y := beNat (slice bs 49 48)
  if bs.length = 97 && bs.headD 0 = 4 && x < EC.p && y < EC.p && (y * y) % EC.p = (x * x * x + EC.a * x + EC.b) % EC.p then some (x, y) else none

/-- R220: the 97-byte uncompressed form of a point. -/
def pointBytes : Option (Nat × Nat) → Bytes
  | some (x, y) => 4 :: beBytes 48 x ++ beBytes 48 y
  | none => zeros 97

/-- The public key of a scalar. -/
def pubOf (d : Nat) : Bytes := pointBytes (ecBase d)

/-- R552: the X coordinate of the ECDH of a scalar and a public key; none where the key is no point. -/
def ecdh (d : Nat) (pub : Bytes) : Option Bytes :=
  match pointOf pub with
  | some q => match ecMul 384 d (some q) with
    | some r => some (beBytes 48 r.1)
    | none => none
  | none => none

/-- FIPS 186-5: ECDSA verification of a digest under a public key; the signature is r then s, 48 bytes each (R220). -/
def ecdsaOk (pub digest sig : Bytes) : Bool :=
  let r := beNat (slice sig 0 48)
  let s := beNat (slice sig 48 48)
  match pointOf pub with
  | none => false
  | some q =>
    if r = 0 || EC.n ≤ r || s = 0 || EC.n ≤ s then false
    else
      let w := invMod s EC.n
      match ecAdd (ecBase (beNat digest * w % EC.n)) (ecMul 384 (r * w % EC.n) (some q)) with
      | some x => x.1 % EC.n = r
      | none => false

/-- FIPS 186-5: an ECDSA signature of a digest with a private scalar and a nonce scalar. -/
def ecdsaSign (d k : Nat) (digest : Bytes) : Bytes :=
  match ecBase (k % EC.n) with
  | some x =>
    let r := x.1 % EC.n
    beBytes 48 r ++ beBytes 48 (invMod (k % EC.n) EC.n * (beNat digest + r * d) % EC.n)
  | none => zeros 96

/-! ### X.509 (RFC 5280, DER) -/

/-- One DER element: its tag, its contents, its whole encoding and what follows. -/
def derNext (bs : Bytes) : Option (Nat × Bytes × Bytes × Bytes) :=
  match bs with
  | t :: l :: r =>
    let k := l.toNat - 128
    let len := if l.toNat < 128 then l.toNat else beNat (r.take k)
    let h := if l.toNat < 128 then 2 else 2 + k
    if l.toNat = 128 || bs.length < h + len then none
    else some (t.toNat, (bs.drop h).take len, bs.take (h + len), bs.drop (h + len))
  | _ => none

/-- The DER elements of a string; `fuel` bounds their number. -/
def derList : Nat → Bytes → List (Nat × Bytes × Bytes)
  | 0, _ => []
  | f + 1, bs => match derNext bs with
    | some (t, c, w, r) => (t, c, w) :: derList f r
    | none => []

/-- A DER length. -/
def derLen (n : Nat) : Bytes :=
  if n < 128 then leBytes 1 n else if n < 256 then leBytes 1 0x81 ++ leBytes 1 n else leBytes 1 0x82 ++ beBytes 2 n

/-- A DER element of a tag. -/
def derPut (tag : Nat) (c : Bytes) : Bytes := leBytes 1 tag ++ derLen c.length ++ c

/-- A DER SEQUENCE. -/
def derSeq (l : List Bytes) : Bytes := derPut 0x30 l.flatten

/-- A DER INTEGER that is not negative. -/
def derNat (n : Nat) : Bytes := derPut 0x02 (beBytes ((Nat.log2 n + 1) / 8 + 1) n)

/-- A DER BIT STRING of whole bytes. -/
def derBits (c : Bytes) : Bytes := derPut 0x03 (leBytes 1 0 ++ c)

/-- The algorithm of every signature, ecdsa-with-SHA384 (R458). -/
def derSigAlg : Bytes := derSeq [derPut 0x06 [0x2A, 0x86, 0x48, 0xCE, 0x3D, 0x04, 0x03, 0x03]]

/-- A public key on brainpoolP384r1. -/
def derKey (pub : Bytes) : Bytes :=
  derSeq [derSeq [derPut 0x06 [0x2A, 0x86, 0x48, 0xCE, 0x3D, 0x02, 0x01], derPut 0x06 [0x2B, 0x24, 0x03, 0x03, 0x02, 0x08, 0x01, 0x01, 0x0B]], derBits pub]

/-- R458: what the certificate of an attestation key says: version 3, a serial number, the issuer and the same subject, its validity, the key, and the boot count in a private
extension that is not critical. The first and last second of its days, and the boot count as an INTEGER, are a DESIGN CHOICE (assumption log 155). -/
def akTbs (serial : Nat) (name oid pub : Bytes) (boot : Nat) : Bytes :=
  derSeq [derPut 0xA0 (derNat 2), derNat serial, derSigAlg, name, derSeq [derPut 0x17 (ascii "000101000000Z"), derPut 0x18 (ascii "99991231235959Z")], name, derKey pub,
    derPut 0xA3 (derSeq [derSeq [derPut 0x06 oid, derPut 0x04 (derNat boot)]])]

/-- R458: a certificate over what it says, from a signature of two 48-byte numbers. -/
def derCert (tbs sig : Bytes) : Bytes := derSeq [tbs, derSigAlg, derBits (derSeq [derNat (beNat (sig.take 48)), derNat (beNat (sig.drop 48))])]

/-- What a certificate is judged by. -/
structure Cert where
  whole : Bytes
  tbs : Bytes
  issuer : Bytes
  subject : Bytes
  serialName : Bytes
  pub : Bytes
  sig : Bytes
deriving DecidableEq, Repr

/-- A DER integer as 48 big-endian bytes. -/
def derInt48 (c : Bytes) : Bytes := beBytes 48 (beNat c % 2 ^ 384)

/-- The value of the serialNumber attribute (OID 2.5.4.5) of a name. -/
def nameSerial (name : Bytes) : Bytes :=
  match (derList 64 name).findSome? (fun rdn => (derList 8 rdn.2.1).findSome? (fun atv =>
      match derList 4 atv.2.1 with
      | [o, v] => if o.2.1 = [0x55, 0x04, 0x05] then some v.2.1 else none
      | _ => none)) with
  | some v => v
  | none => []

/-- The first certificate of a string and what follows it. -/
def certOf (bs : Bytes) : Option (Cert × Bytes) :=
  match derNext bs with
  | none => none
  | some (_, c, w, rest) =>
    match derList 4 c with
    | [tbs, _, sg] =>
      let f := derList 16 tbs.2.1
      let f := if (f.headD (0, [], [])).1 = 0xA0 then f.drop 1 else f
      match f with
      | _ :: _ :: iss :: _ :: sub :: spki :: _ =>
        match derList 4 spki.2.1, derNext (sg.2.1.drop 1) with
        | [_, key], some (_, seq, _, _) =>
          match derList 4 seq with
          | [r, s] => some (⟨w, tbs.2.2, iss.2.2, sub.2.2, nameSerial sub.2.1, key.2.1.drop 1, derInt48 r.2.1 ++ derInt48 s.2.1⟩, rest)
          | _ => none
        | _, _ => none
      | _ => none
    | _ => none

/-- One certificate verifies under another: its issuer is the other's subject, and the signature holds over SHA-384 (R458). -/
def Cert.signedBy (c by_ : Cert) : Bool := c.issuer = by_.subject && ecdsaOk by_.pub (sha384 c.tbs) c.sig

/-- R458: one upper-case hexadecimal digit. -/
def hexDigit (x : Nat) : Byte := BitVec.ofNat 8 (if x < 10 then 48 + x else 55 + x)

/-- R458: a serial as 32 upper-case hexadecimal digits, high digit of each byte first. -/
def serialHex (serial : Bytes) : Bytes := serial.flatMap (fun b => [hexDigit (b.toNat / 16), hexDigit (b.toNat % 16)])

/-- R458, R467 check 1: a chain (AK, identity, device CA) that verifies to a root certificate; the answer is the AK certificate. -/
def chainOk (root chain : Bytes) : Option Cert :=
  match certOf root, certOf chain with
  | some (rt, _), some (ak, r1) =>
    match certOf r1 with
    | some (idc, r2) => match certOf r2 with
      | some (ca, []) => if ak.signedBy idc && idc.signedBy ca && ca.signedBy rt then some ak else none
      | _ => none
    | none => none
  | _, _ => none

end Machine
end Sys2Proof
end

