-- ==== Sys2Proof/Machine/ReedSolomon.lean ====
section
/-!
DEFINITION. The Reed-Solomon code RS(20,16) over GF(2^16) of a 256-bit chunk of far memory (R166). Symbols 0 to 3 are the check symbols and 4 to 19 the data
symbols, as the coefficients of the code polynomial from the lowest (DESIGN CHOICE: the spec does not order them; assumption log 71).
-/
namespace Sys2Proof
namespace Machine

/-- Multiplication by α, the root of the field polynomial x^16 + x^12 + x^3 + x + 1. -/
def gf16Double (a : Nat) : Nat := if a < 2 ^ 15 then 2 * a else (2 * a) ^^^ 0x1100B

/-- Multiplication in GF(2^16), over `n` bits of `b` from the lowest. -/
def gf16Mul : Nat → Nat → Nat → Nat
  | 0, _, _ => 0
  | n + 1, a, b => (if b % 2 = 1 then a else 0) ^^^ gf16Mul n (gf16Double a) (b / 2)

/-- α to a power. -/
def gf16Alpha (n : Nat) : Nat := (List.range n).foldl (fun a _ => gf16Double a) 1

/-- R166: the generator's coefficients below x^4, lowest first: the product of x + α^k for k from 0 to 3. -/
def rsGenerator : List Nat :=
  ((List.range 4).foldl (fun (g : List Nat) k => ((0 :: g).zip (g ++ [0])).map (fun p => p.1 ^^^ gf16Mul 16 p.2 (gf16Alpha k))) [1]).take 4

/-- R166: the four check symbols of the sixteen data symbols: what division by the generator leaves. -/
def rsCheck (data : List Nat) : List Nat :=
  data.reverse.foldl (fun (r : List Nat) d =>
    let fb := d ^^^ r.getD 3 0
    ((0 :: r.take 3).zip rsGenerator).map (fun p => p.1 ^^^ gf16Mul 16 fb p.2)) [0, 0, 0, 0]

/-- The syndrome of the root α^k. -/
def rsSyndrome (k : Nat) (e : List Nat) : Nat := e.reverse.foldl (fun acc x => gf16Mul 16 acc (gf16Alpha k) ^^^ x) 0

/-- The symbol and the correction that the syndromes of a word name; none where no single symbol explains them. -/
def rsLocate (e : List Nat) : Option (Nat × Nat) :=
  let s (k : Nat) : Nat := rsSyndrome k e
  ((List.range 20).find? (fun i => s 0 ≠ 0 && s 1 = gf16Mul 16 (s 0) (gf16Alpha i) && s 2 = gf16Mul 16 (s 1) (gf16Alpha i) && s 3 = gf16Mul 16 (s 2) (gf16Alpha i))).map
    (fun i => (i, s 0))

/-- The symbols of an error: its low 256 bits lie on the data, the next 64 on the check symbols. -/
def rsSymbols (e : Nat) : List Nat := (List.range 4).map (fun j => bits e (256 + 16 * j) 16) ++ (List.range 16).map (fun i => bits e (16 * i) 16)

/-- R166: what the decoder makes of an error: 0 it sees none, 1 a symbol is corrected, 2 uncorrectable; and the change of the data that it leaves unseen. -/
def rsJudge (e : Nat) : Nat × Nat :=
  let w := rsSymbols e
  if (List.range 4).all (fun k => rsSyndrome k w = 0) then (0, e % 2 ^ 256)
  else match rsLocate w with
    | some (i, v) => (1, e % 2 ^ 256 ^^^ (if i < 4 then 0 else v * 2 ^ (16 * (i - 4))))
    | none => (2, 0)

end Machine
end Sys2Proof
end

