-- ==== Sys2Proof/Machine/Tiers.lean ====
section
/-!
DEFINITION. The memory tiers (chapter 5): ECC and poison (R154-R157), interleave domains (R169-R171, R551), encryption of far memory (R167, R479), channel
retirement (R174-R177), and reads and writes of each tier.
-/
namespace Sys2Proof
namespace Machine

/-- A stack is fitted (R5). -/
def State.stackPresent (s : State) (k : Nat) : Bool := k < 24 && bit s.fuses.capability k
/-- The SGU is fitted (R5). -/
def State.sguPresent (s : State) : Bool := bit s.fuses.capability 24
/-- The ERU is fitted (R5). -/
def State.eruPresent (s : State) : Bool := bit s.fuses.capability 25
/-- SP12-SP15 carry long-reach optics (R5). -/
def State.longReach (s : State) : Bool := bit s.fuses.capability 26
/-- The part carries two stacks per die (QSN-8-1640, R4). -/
def State.twoStacks (s : State) : Bool := s.fuses.capability % 2 ^ 24 = 0x6DB6DB

/-- DIE_STATUS.state of a die (R212). -/
def State.dieState (s : State) (d : Nat) : Nat := s.fg (R.DIE_STATUS d) F.DIE_STATUS_state
/-- A die is in RUN. -/
def State.dieUp (s : State) (d : Nat) : Bool := s.dieState d = 0

/-! ### ECC words: SRAM and hub SRAM key/8, bonded 2^60 + key/16, far 2^61 + key/32 -/

/-- Marks lying in a range of word ids. -/
def State.eccIn (s : State) (lo hi : Nat) : List (Nat × Nat) := s.tiers.ecc.filter (fun p => lo ≤ p.1 && p.1 < hi)

/-- Removes the marks of a range of word ids. -/
def State.eccClear (s : State) (lo hi : Nat) : State :=
  { s with tiers := { s.tiers with ecc := s.tiers.ecc.filter (fun p => !(lo ≤ p.1 && p.1 < hi)) } }

/-- Puts a mark on a word. -/
def State.eccMark (s : State) (w v : Nat) : State := { s with tiers := { s.tiers with ecc := tset s.tiers.ecc w v } }

/-- R175-R177: a channel becomes a candidate for retirement: its copy starts, or it is a second fault of its stack. -/
def State.retireCandidate (s : State) (k ch : Nat) : State :=
  let st := R.FMC_STK_STATUS k
  if s.fg st F.FMC_STK_STATUS_retire_state = 0 then
    ((({ s with tiers := { s.tiers with copyAt := tset s.tiers.copyAt k (s.now, 0) } }.fs st F.FMC_STK_STATUS_retire_state 2).fs st F.FMC_STK_STATUS_retired_ch ch).fs
      st F.FMC_STK_STATUS_copy_rows 0 |>.fs R.FMC_STATUS F.FMC_STATUS_copying 1).log Code.memUncorrectable 1 (0x3000 + k) [BitVec.ofNat 8 ch]
  else if s.fg st F.FMC_STK_STATUS_retired_ch = ch then s
  else (s.raise R.FMC_STATUS F.FMC_STATUS_second_fault).log Code.memUncorrectable 2 (0x3000 + k) [BitVec.ofNat 8 ch]

/-- Counts one ECC event in an error register of R183's layout. -/
def State.eccCount (s : State) (reg v : Nat) : State :=
  if v = 1 then s.fsat reg F.MEM_SRAM_ECC_corrected 1 else if v = 2 then s.fsat reg F.MEM_SRAM_ECC_uncorrectable 1 else s.fsat reg F.MEM_SRAM_ECC_poison 1

/-- R166, R175, R184: counts one ECC event of a far channel; a full window or an uncorrectable error makes a candidate. -/
def State.eccCountFar (s : State) (w v : Nat) : State :=
  let chn := (w - 2 ^ 61) * 32 / 2 ^ 35
  let k := chn / 32
  let ch := chn % 32
  let reg := R.FMC_CH_ERR k ch
  if v = 1 then
    let t := ((s.fsat reg F.FMC_CH_ERR_corrected 1).fsat reg F.FMC_CH_ERR_window 1).pmc (62 + k) 0x104 1 bareAttr
    let th := s.fg R.FMC_CTL F.FMC_CTL_retire_thresh
    if th ≠ 0 && decide (th ≤ t.fg reg F.FMC_CH_ERR_window) then t.retireCandidate k ch else t
  else if v = 2 then (s.fsat reg F.FMC_CH_ERR_uncorrectable 1).retireCandidate k ch
  else s

/-- R154-R157: one marked word met by a read: counted, a single-bit error corrected and written back. -/
def State.eccTouch (s : State) (p : Nat × Nat) : State :=
  let t := if p.2 = 1 then s.eccClear p.1 (p.1 + 1) else s
  if 2 ^ 61 ≤ p.1 then t.eccCountFar p.1 p.2
  else if 2 ^ 60 ≤ p.1 then
    let core := ((p.1 - 2 ^ 60) * 16 - 2 ^ 40) / 2 ^ 34
    t.eccCount (R.MEM_BND_ECC (core / 4) (core % 4)) p.2
  else if 2 ^ 47 ≤ p.1 then t.eccCount R.MGT_HUB_ECC p.2
  else
    let core := p.1 * 8 / 2 ^ 27
    t.eccCount (R.MEM_SRAM_ECC (core / 4) (core % 4)) p.2

/-- A read of a range of words: the state after counting, and whether an uncorrectable or poisoned word was met (R154, R156). -/
def State.eccRead (s : State) (lo hi : Nat) : State × Bool :=
  let m := s.eccIn lo hi
  (m.foldl State.eccTouch s, m.any (fun p => p.2 ≠ 1))

/-- Marks a set of words as poison (R156). -/
def State.poison (s : State) (ws : List Nat) : State := ws.foldl (fun t w => t.eccMark w 3) s

/-- R162, R183: MEM_BND_THERM.hot_scale of the four cores of a die. -/
def State.showHot (s : State) (d n : Nat) : State :=
  (List.range 4).foldl (fun (t : State) c => t.fs (R.MEM_BND_THERM d c) F.MEM_BND_THERM_hot_scale n) s

/-! ### Writes the keeping units watch (R418, R436) -/

/-- R418: marks the pages of MUSLIN tensors that a write touches. -/
def State.kpuMark (s : State) (space unit off n : Nat) : State :=
  if n = 0 then s else
  (recsOf s.img.cfg RT.keeping).foldl (fun t r =>
    let lo := r.at 8 8
    let hi := lo + r.at 16 8
    if r.id ≠ 0 && r.at 0 1 = 1 && r.at 1 1 = space && r.at 2 1 = unit && decide (off < hi) && decide (lo < off + n) then
      let p0 := (max off lo - lo) / 4096
      let p1 := (min (off + n) hi - lo - 1) / 4096
      let mark := match t.kpu.last with
        | some k => k + 1
        | none => 0
      { t with kpu := { t.kpu with epochs := (List.range (p1 + 1 - p0)).foldl (fun e i => tset e (r.id * 2 ^ 24 + p0 + i) mark) t.kpu.epochs } }
    else t) s

/-- R436: a write into an ERASURE tensor of a domain leaves its delta, old with new, for the ERU to send. -/
def State.eruDelta (s : State) (dom off : Nat) (old new : Bytes) : State :=
  (recsOf s.img.cfg RT.keeping).foldl (fun t r =>
    let lo := r.at 8 8
    let hi := lo + r.at 16 8
    let n := new.length
    if r.id ≠ 0 && r.at 0 1 = 2 && r.at 1 1 = 0 && r.at 2 1 = dom && decide (off < hi) && decide (lo < off + n) then
      let a := max off lo
      let b := min (off + n) hi
      let d := (((old.zip new).drop (a - off)).take (b - a)).map (fun p => p.1 ^^^ p.2)
      { t with eru := { t.eru with out := t.eru.out ++ [⟨r.id, 0, a - lo, d, false, false⟩] } }
    else t) s

/-! ### Core SRAM -/

/-- Reads SRAM bytes of a core: the bytes, the state after ECC counting, whether an uncorrectable word was met. -/
def State.sramRead (s : State) (core a n : Nat) : Bytes × State × Bool :=
  let r := s.eccRead (sramKey core a / 8) ((sramKey core a + n + 7) / 8)
  (s.memRdN (sramKey core a) n, r.1, r.2)

/-- Writes SRAM bytes of a core; complete words lose their marks (R156), pages are marked (R418). -/
def State.sramWrite (s : State) (core a : Nat) (bs : Bytes) : State :=
  let k := sramKey core a
  ((s.memWrN k bs).eccClear ((k + 7) / 8) ((k + bs.length) / 8)).kpuMark 2 core a bs.length

/-- Poisons the SRAM words of a range. -/
def State.sramPoison (s : State) (core a n : Nat) : State :=
  let k := sramKey core a
  s.poison ((List.range ((k + n + 7) / 8 - k / 8)).map (fun i => k / 8 + i))

/-! ### Bonded slices -/

/-- R158: where a byte of a slice lies: channel, which is in layer channel / 8, bank, burst within a page, page, byte within the burst. -/
structure BondPlace where
  channel : Nat
  bank : Nat
  burst : Nat
  page : Nat
  byte : Nat
deriving DecidableEq, Repr

/-- R158: the place of an offset. -/
def bondPlace (off : Nat) : BondPlace := ⟨bits off 8 5, bits off 13 4, bits off 17 3, bits off 20 14, bits off 0 8⟩

/-- R158: the offset of a place. -/
def BondPlace.offset (p : BondPlace) : Nat := p.byte + p.channel * 2 ^ 8 + p.bank * 2 ^ 13 + p.burst * 2 ^ 17 + p.page * 2 ^ 20

/-- R158: the layer of a slice's channel; its eight channels of a layer are a layer-quarter (R160). -/
def channelLayer (ch : Nat) : Nat := ch / 8

/-- Reads bonded bytes. -/
def State.bondRead (s : State) (core a n : Nat) : Bytes × State × Bool :=
  let k := bondKey core a
  let r := s.eccRead (2 ^ 60 + k / 16) (2 ^ 60 + (k + n + 15) / 16)
  (s.memRdN k n, r.1, r.2)

/-- Writes bonded bytes. -/
def State.bondWrite (s : State) (core a : Nat) (bs : Bytes) : State :=
  let k := bondKey core a
  ((s.memWrN k bs).eccClear (2 ^ 60 + (k + 15) / 16) (2 ^ 60 + (k + bs.length) / 16)).kpuMark 1 core a bs.length

/-- Poisons the bonded words of a range. -/
def State.bondPoison (s : State) (core a n : Nat) : State :=
  let k := bondKey core a
  s.poison ((List.range ((k + n + 15) / 16 - k / 16)).map (fun i => 2 ^ 60 + k / 16 + i))

/-! ### Far memory -/

/-- The stacks a domain spans, ascending (R171, R551). -/
def State.domStacks (s : State) (i : Nat) : List Nat :=
  let kind := s.fg (R.FMC_DOM_CFG i) F.FMC_DOM_CFG_kind
  let narrow := s.fg (R.FMC_DOM_CFG i) F.FMC_DOM_CFG_narrow
  if kind = 0 then indices 24 (fun k => s.stackPresent k && k / 3 = s.fg (R.FMC_DOM_CFG i) F.FMC_DOM_CFG_die)
  else indices 24 (fun k => s.stackPresent k && !bit narrow (k / 3))

/-- The a and j of a domain (R171, R551). -/
def State.domShape (s : State) (i : Nat) : Nat × Nat :=
  let kind := s.fg (R.FMC_DOM_CFG i) F.FMC_DOM_CFG_kind
  if s.fg (R.FMC_DOM_CFG i) F.FMC_DOM_CFG_narrow ≠ 0 then ((s.domStacks i).length, 5)
  else if kind = 0 then (if s.twoStacks then (1, 6) else (3, 5))
  else (if s.twoStacks then (1, 9) else (3, 8))

/-- R169: a domain's capacity in bytes, zero while it is not defined. -/
def State.domSize (s : State) (i : Nat) : Nat :=
  if 16 ≤ i || s.fg (R.FMC_DOM_CFG i) F.FMC_DOM_CFG_valid = 0 then 0
  else (s.domStacks i).length * 32 * s.fg (R.FMC_DOM_CFG i) F.FMC_DOM_CFG_rows * 256

/-- R170: the xor-fold of x into j bits. -/
def xorFold (j : Nat) : Nat → Nat → Nat
  | 0, _ => 0
  | fuel + 1, x => if x = 0 then 0 else (x % 2 ^ j) ^^^ xorFold j fuel (x / 2 ^ j)

/-- R170, R171: the stack, channel and granule of a domain offset. -/
def State.domMap (s : State) (i off : Nat) : Nat × Nat × Nat :=
  let sh := s.domShape i
  let a := sh.1
  let j := sh.2
  let g := off / 256
  let t := g / 2 ^ j
  let row := t / a
  let f := xorFold j 24 (row ^^^ s.fg (R.FMC_DOM_KEY i) F.FMC_DOM_KEY_row_key)
  let slot := (t % a + s.fg (R.FMC_DOM_KEY i) F.FMC_DOM_KEY_hi_rot + row) % a * 2 ^ j + ((g % 2 ^ j) ^^^ f)
  ((s.domStacks i).getD (slot / 32) 0, slot % 32, s.fg (R.FMC_DOM_CFG i) F.FMC_DOM_CFG_row_base + row)

/-- R165: where a granule lies in its channel: bank, granule within its page, page. -/
structure GranulePlace where
  bank : Nat
  slot : Nat
  page : Nat
deriving DecidableEq, Repr

/-- R165: the place of a granule index. -/
def granulePlace (r : Nat) : GranulePlace := ⟨r % 16, r / 16 % 8, r / 128⟩

/-- R165: the first granule of a channel's reserve, and the end of a channel. -/
def reserveRow : Nat := 10158080
/-- R165: granules of a channel. -/
def channelRows : Nat := 10485760

/-- R174: where a granule of a retired channel is served. -/
def retireTarget (ch r : Nat) : Nat × Nat :=
  let e := r % 31
  (if e < ch then e else e + 1, reserveRow + r / 31)

/-- R174: the granule of the retired channel `x` that a reserve granule of channel `ch` serves. -/
def retireSource (x ch row : Nat) : Nat := 31 * (row - reserveRow) + (if ch < x then ch else ch - 1)

/-- R174: the channel and granule that serve an access. -/
def State.farServe (s : State) (k ch r : Nat) : Nat × Nat :=
  if s.fg (R.FMC_STK_STATUS k) F.FMC_STK_STATUS_retire_state = 4 && s.fg (R.FMC_STK_STATUS k) F.FMC_STK_STATUS_retired_ch = ch
  then retireTarget ch r else (ch, r)

/-- Key of a byte of a far channel. -/
def farKey (k ch r b : Nat) : Nat := (32 * k + ch) * 2 ^ 35 + r * 256 + b

/-- The granule that a stored byte serves: stack, channel, granule (R174). -/
def State.cellGranule (s : State) (key : Nat) : Nat × Nat × Nat :=
  let k := key / 2 ^ 40
  let ch := key / 2 ^ 35 % 32
  let row := key % 2 ^ 35 / 256
  let x := s.fg (R.FMC_STK_STATUS k) F.FMC_STK_STATUS_retired_ch
  if reserveRow ≤ row && s.fg (R.FMC_STK_STATUS k) F.FMC_STK_STATUS_retire_state ≠ 0 then (k, x, retireSource x ch row) else (k, ch, row)

/-- The domain that holds a granule of a stack (R169: at most one). -/
def State.domainAt (s : State) (k r : Nat) : Option Nat :=
  (List.range 16).find? (fun i => decide (s.domSize i ≠ 0) && (s.domStacks i).contains k
    && decide (s.fg (R.FMC_DOM_CFG i) F.FMC_DOM_CFG_row_base ≤ r) && decide (r < s.fg (R.FMC_DOM_CFG i) F.FMC_DOM_CFG_row_base + s.fg (R.FMC_DOM_CFG i) F.FMC_DOM_CFG_rows))

/-- The key of the byte that serves a domain offset. -/
def State.farKeyOf (s : State) (i off : Nat) : Nat :=
  let p := s.domMap i off
  let q := s.farServe p.1 p.2.1 p.2.2
  farKey p.1 q.1 q.2 (off % 256)

/-- Every key of `n` bytes from a domain offset. -/
def State.farKeys (s : State) (i off n : Nat) : List Nat := (List.range n).map (fun k => s.farKeyOf i (off + k))

/-- R176: the second key of a byte of a granule that the retirement copy of its channel has passed, until the switch. -/
def State.farShadow (s : State) (key : Nat) : Option Nat :=
  let chn := key / 2 ^ 35
  let k := chn / 32
  let st := R.FMC_STK_STATUS k
  let row := key % 2 ^ 35 / 256
  let passed := s.fg st F.FMC_STK_STATUS_retire_state = 3 || (s.fg st F.FMC_STK_STATUS_retire_state = 2 && decide (row < s.fg st F.FMC_STK_STATUS_copy_rows))
  if passed && s.fg st F.FMC_STK_STATUS_retired_ch = chn % 32 && decide (row < reserveRow) then
    let q := retireTarget (chn % 32) row
    some (farKey k q.1 q.2 (key % 256))
  else none

/-- The keys that a write to `n` bytes from a domain offset reaches, those of the copy among them (R176). -/
def State.farReach (s : State) (i off n : Nat) : List Nat := s.farKeys i off n ++ (s.farKeys i off n).filterMap s.farShadow

/-- R515: granules read (0x100) or written (0x101), each once, at their unit-local byte address. -/
def State.granulePmc (s : State) (ev : Nat) (ks : List Nat) : State :=
  if !s.regs.any (fun e => decide (0xD3E00 ≤ e.1) && decide (e.1 < 0xD5600)) then s
  else ((ks.map (fun k => k / 256)).eraseDups).foldl (fun (t : State) g => t.pmc (62 + g / 2 ^ 32) ev 1 { bareAttr with addr := some (g % 2 ^ 32 * 256) }) s

/-! ### The retirement copy (R176, R177) -/

/-- Key of a budget counter (R258). -/
def budKey (a res inst : Nat) : Nat := (a * 8 + res) * 256 + inst

/-- An empty budget counter. -/
def BudCtr.zero : BudCtr := ⟨0, 0, 0, 0, false, 0, 0, 0, 0, 0⟩

/-- A budget counter. -/
def State.ctr (s : State) (a res inst : Nat) : BudCtr := tgetD s.bud.ctr (budKey a res inst) BudCtr.zero

/-- Takes a charge from an activity's own counter. -/
def State.take (s : State) (a res inst n : Nat) : State :=
  let c := s.ctr a res inst
  { s with bud := { s.bud with ctr := tset s.bud.ctr (budKey a res inst) { c with used := satAdd 0xFFFFFFFF c.used n, left := c.left - n } } }

/-- The chunk that the copy writes for a chunk of the retired channel, as word ids. -/
def copyWord (k ch w : Nat) : Nat :=
  let key := (w - 2 ^ 61) * 32
  let q := retireTarget ch (key % 2 ^ 35 / 256)
  2 ^ 61 + farKey k q.1 q.2 (key % 256) / 32

/-- R259: the granules from `a` to `b` of a stack that the copy reads and writes are charged to activity 0, 4 units each way, on the domain that holds them.
DESIGN CHOICE: the copy's pace is that of copy_share alone, so its charges do not wait (assumption log 72). -/
def State.copyCharge (s : State) (k a b : Nat) : State :=
  (List.range 16).foldl (fun (t : State) i =>
    let lo := max a (s.fg (R.FMC_DOM_CFG i) F.FMC_DOM_CFG_row_base)
    let hi := min b (s.fg (R.FMC_DOM_CFG i) F.FMC_DOM_CFG_row_base + s.fg (R.FMC_DOM_CFG i) F.FMC_DOM_CFG_rows)
    if s.domSize i ≠ 0 && (s.domStacks i).contains k && decide (lo < hi) then t.take 0 3 i (8 * (hi - lo)) else t) s

/-- R176, R177: the copy of a stack passes on to granule `n`: ciphertext moves unchanged (R479), errors met are corrected and counted, a chunk that cannot be
corrected is written as poison, and every other chunk written loses its mark. -/
def State.copyTo (s : State) (k n : Nat) : State :=
  let st := R.FMC_STK_STATUS k
  let ch := s.fg st F.FMC_STK_STATUS_retired_ch
  let r0 := s.fg st F.FMC_STK_STATUS_copy_rows
  if n ≤ r0 then s
  else
    let lo := farKey k ch r0 0
    let hi := farKey k ch n 0
    let cells : List Host.Cell := s.far.filter (fun (c : Host.Cell) => lo ≤ c.1 && c.1 < hi)
    let tgt (key : Nat) : Nat :=
      let q := retireTarget ch (key % 2 ^ 35 / 256)
      farKey k q.1 q.2 (key % 256)
    let marks := s.eccIn (2 ^ 61 + lo / 32) (2 ^ 61 + hi / 32)
    let s1 : State := marks.foldl State.eccTouch { s with far := farPutN s.far (cells.map (fun (c : Host.Cell) => tgt c.1)) (cells.map (fun (c : Host.Cell) => c.2)) }
    let old (w : Nat) : Bool :=
      let key := (w - 2 ^ 61) * 32
      let row := key % 2 ^ 35 / 256
      decide (2 ^ 61 ≤ w) && key / 2 ^ 40 = k && decide (reserveRow ≤ row)
        && decide (r0 ≤ retireSource ch (key / 2 ^ 35 % 32) row) && decide (retireSource ch (key / 2 ^ 35 % 32) row < n)
    let s2 : State := { s1 with tiers := { s1.tiers with ecc := s1.tiers.ecc.filter (fun p => !old p.1) } }
    ((s2.poison ((marks.filter (fun p => p.2 ≠ 1)).map (fun p => copyWord k ch p.1))).copyCharge k r0 n).fs st F.FMC_STK_STATUS_copy_rows n

/-- R176: FMC_CTL.copy_share, of which 0 acts as 1: a sixteenth of a channel moves 3.2 bytes a ns, a granule in 80 ns. -/
def State.copyShare (s : State) : Nat := max 1 (s.fg R.FMC_CTL F.FMC_CTL_copy_share)

/-- The granules that a stack's copy has passed by now. -/
def State.copyDue (s : State) (k : Nat) : Nat := match tget s.tiers.copyAt k with
  | some b => min reserveRow (b.2 + (s.now - b.1) * s.copyShare / 80)
  | none => 0

/-- Every copy in progress is brought up to the present. -/
def State.copyAdvance (s : State) : State := s.tiers.copyAt.foldl (fun (t : State) e => t.copyTo e.1 (t.copyDue e.1)) s

/-- Before FMC_CTL changes, every copy is brought up to the present and counts on from there. -/
def State.copyRebase (s : State) : State :=
  let t := s.copyAdvance
  { t with tiers := { t.tiers with copyAt := t.tiers.copyAt.map (fun e => (e.1, t.now, t.fg (R.FMC_STK_STATUS e.1) F.FMC_STK_STATUS_copy_rows)) } }

/-- What the world upset before a read: pairs of a word and its error: of a far chunk the bits in error (R166), of another word 1 for a single bit and 2 for
more. A word already marked stays as it is. -/
def State.upset (s : State) (u : List (Nat × Nat)) : State :=
  u.foldl (fun t p =>
    if (tget t.tiers.ecc p.1).isSome then t
    else if p.1 < 2 ^ 61 then (if p.2 = 1 || p.2 = 2 then t.eccMark p.1 p.2 else t)
    else
      let j := rsJudge p.2
      let key := (p.1 - 2 ^ 61) * 32
      let v := t.copyAdvance
      let x : State := if j.2 = 0 then v else
        { v with far := farPutN v.far ((List.range 32).map (key + ·)) ((List.range 32).map (fun b => v.farRd (key + b) ^^^ BitVec.ofNat 8 (bits j.2 (8 * b) 8))) }
      if j.1 = 0 then x else x.eccMark p.1 j.1) s

/-! ### Encrypted access to a domain (R167, R479) -/

/-- R479: the tweak of a granule: the granule, channel and stack that the hash chooses. -/
def farTweak (k ch r : Nat) : Nat := r % 2 ^ 24 + ch % 2 ^ 5 * 2 ^ 24 + k % 2 ^ 5 * 2 ^ 29

/-- A byte of a domain as it reads: the 16 stored bytes around it decrypted under the memory keys. Once the keys are erased it is a free value. -/
def State.farPlain (s : State) (i off : Nat) : Byte :=
  let p := s.domMap i off
  let base := s.farKeyOf i (off / 16 * 16)
  match s.tiers.memKeys with
  | some k => (xtsOpen k (farTweak p.1 p.2.1 p.2.2) (off % 256 / 16) ((List.range 16).map (fun t => s.farRd (base + t)))).getD (off % 16) 0
  | none => Config.farByte s.store.bootCount s.tiers.keyEpoch (base + off % 16)

/-- Sixteen bytes of a domain are encrypted and stored, and stored again where the copy of their channel has passed (R176). Without keys nothing that could be
read is stored. -/
def State.farBlock (s : State) (i off : Nat) (b : Bytes) : State :=
  let p := s.domMap i off
  let ks := s.farKeys i off 16
  let sh := ks.filterMap s.farShadow
  match s.tiers.memKeys with
  | some k =>
    let c := xtsSeal k (farTweak p.1 p.2.1 p.2.2) (off % 256 / 16) b
    { s with far := farPutN (farPutN s.far ks c) sh c }
  | none => s

/-- Bytes are written to a domain, block by block, each with the bytes of it that stay. -/
def State.farStore (s : State) (i off : Nat) (bs : Bytes) : State :=
  let n := bs.length
  (List.range (cdiv (off % 16 + n) 16)).foldl (fun (t : State) x =>
    let a := off / 16 * 16 + 16 * x
    t.farBlock i a ((List.range 16).map (fun y => if off ≤ a + y && decide (a + y < off + n) then bs.getD (a + y - off) 0 else s.farPlain i (a + y)))) s

/-- Reads far bytes of a domain (no validity check): bytes, state after ECC counting, uncorrectable word met. The ECC is checked on the ciphertext (R167). -/
def State.farRead (s : State) (i off n : Nat) : Bytes × State × Bool :=
  let ks := s.farKeys i off n
  let ws := (ks.map (fun k => 2 ^ 61 + k / 32)).eraseDups
  let m := ws.filterMap (fun w => (tget s.tiers.ecc w).map (fun v => (w, v)))
  ((List.range n).map (fun t => s.farPlain i (off + t)), (m.foldl State.eccTouch s).granulePmc 0x100 ks, m.any (fun p => p.2 ≠ 1))

/-- Writes far bytes of a domain; a chunk whose 32 bytes are all written loses its mark (R156). -/
def State.farWrite (s0 : State) (i off : Nat) (bs : Bytes) : State :=
  let s := s0.copyAdvance
  let ks := s.farReach i off bs.length
  let ws := (ks.map (fun k => 2 ^ 61 + k / 32)).eraseDups
  let full := ws.filter (fun w => decide (32 ≤ (ks.filter (fun k => 2 ^ 61 + k / 32 = w)).length))
  let v := full.foldl (fun (u : State) w => u.eccClear w (w + 1)) (s.farStore i off bs)
  ((v.granulePmc 0x101 (s.farKeys i off bs.length)).kpuMark 0 i off bs.length).eruDelta i off ((List.range bs.length).map (fun t => s.farPlain i (off + t))) bs

/-- Poisons the chunks that hold `n` bytes of a domain (R156), those of the copy among them. -/
def State.farPoison (s : State) (i off n : Nat) : State := s.poison (((s.farReach i off n).map (fun k => 2 ^ 61 + k / 32)).eraseDups)

/-- R169, R201, R202: what refuses a far access: OUT_OF_RANGE beyond the domain, TARGET_DEAD where it spans a fenced die; with both the higher code (R18). -/
def State.farRefusal (s : State) (i off n : Nat) : Nat :=
  highestCode [
    (decide (s.domSize i < off + n), Code.outOfRange),
    (decide (s.domSize i ≠ 0) && (s.domStacks i).any (fun k => !s.dieUp (k / 3)), Code.targetDead)]

/-- R22: a core reaches a die-local domain only from the domain's own die. DESIGN CHOICE: from another die the domain is no valid one, which R169 refuses with
OUT_OF_RANGE (assumption log 73). -/
def State.farApart (s : State) (core i : Nat) : Bool :=
  decide (s.domSize i ≠ 0) && s.fg (R.FMC_DOM_CFG i) F.FMC_DOM_CFG_kind = 0 && s.fg (R.FMC_DOM_CFG i) F.FMC_DOM_CFG_die ≠ core / 4

/-! ### Retirement and registers of chapter 5 -/

/-- The stacks whose retirement copy is complete. -/
def State.copied (s : State) : List Nat := indices 24 (fun k => s.fg (R.FMC_STK_STATUS k) F.FMC_STK_STATUS_retire_state = 3)

/-- CHANNEL_RETIRE_SWITCH (R176, R177): within a pause the channels of the stacks `ks` that were COPIED when the pause began become RETIRED, and their retirement
persists. -/
def State.retireSwitch (s : State) (ks : List Nat) : State :=
  (ks.filter (fun k => s.fg (R.FMC_STK_STATUS k) F.FMC_STK_STATUS_retire_state = 3)).foldl (fun t k =>
    let ch := t.fg (R.FMC_STK_STATUS k) F.FMC_STK_STATUS_retired_ch
    ({ (t.fs (R.FMC_STK_STATUS k) F.FMC_STK_STATUS_retire_state 4).fsat R.FMC_STATUS F.FMC_STATUS_retired_count 1 with
       store := { t.store with retired := tset t.store.retired k ch } }).log Code.ok 0 (0x3000 + k) [4, BitVec.ofNat 8 ch]) s

/-- The refresh interval of a bonded channel in ns, from its layer-quarter's rate (R160). -/
def State.refreshInterval (s : State) (chn : Nat) : Nat :=
  let core := chn / 32
  let rate := bits (s.fg (R.MEM_BND_THERM (core / 4) (core % 4)) F.MEM_BND_THERM_refresh) (2 * channelLayer (chn % 32)) 2
  if rate = 0 then 3900 else if rate = 1 then 1950 else 975

/-- R161: a layer-quarter takes a new rate: a step up counts the new interval from each channel's previous refresh, a step down leaves the next refresh. -/
def State.setRefresh (s : State) (core layer rate : Nat) : State :=
  let reg := R.MEM_BND_THERM (core / 4) (core % 4)
  let old := bits (s.fg reg F.MEM_BND_THERM_refresh) (2 * layer) 2
  let t := s.fs reg F.MEM_BND_THERM_refresh (setBits (s.fg reg F.MEM_BND_THERM_refresh) (2 * layer) 2 rate)
  if old < rate then
    (List.range 8).foldl (fun u i =>
      let chn := 32 * core + 8 * layer + i
      { u with tiers := { u.tiers with nextRefresh := tset u.tiers.nextRefresh chn (max u.now (tgetD u.tiers.lastRefresh chn 0 + u.refreshInterval chn)) } }) t
  else t

/-- R154-R157, R159, R166: the word id a scrub reads. -/
def scrubWord (tier addr : Nat) : Nat :=
  match tier with
  | 0 => addr / 8
  | 1 => 2 ^ 60 + (2 ^ 40 + addr) / 16
  | 2 => 2 ^ 61 + addr / 32
  | _ => (2 ^ 50 + addr) / 8

/-- R183, R184: the scrub of a tier is stopped, which takes effect only in TEST. -/
def State.scrubOff (s : State) (tier addr : Nat) : Bool :=
  s.inTest && (match tier with
    | 0 => s.fb (R.MEM_CTL (addr / 2 ^ 27 / 4) (addr / 2 ^ 27 % 4)) F.MEM_CTL_scrub_off
    | 1 => s.fb (R.MEM_CTL (addr / 2 ^ 34 / 4) (addr / 2 ^ 34 % 4)) F.MEM_CTL_scrub_off
    | 2 => s.fb R.FMC_CTL F.FMC_CTL_scrub_off
    | _ => false)

/-- The bytes of a scrubbed tier: SRAM of 32 cores, 32 slices, far channels, hub SRAM. -/
def tierLimit (tier : Nat) : Nat :=
  match tier with
  | 0 => 2 ^ 32
  | 1 => 2 ^ 39
  | 2 => 768 * 2 ^ 35
  | _ => 2 ^ 28

/-- R159, R166, R259: the resource and instance on which a scrubbed word is charged to activity 0: the slice, or the domain of the granule. -/
def State.scrubCharge (s : State) (tier addr : Nat) : Option (Nat × Nat) :=
  if tier = 1 then some (2, addr / 2 ^ 34)
  else if tier = 2 then
    let g := s.cellGranule addr
    (s.domainAt g.1 g.2.2).map (fun i => (3, i))
  else none

/-- PATROL_SCRUB (R155): reads a word (tier 0 SRAM, 1 bonded, 2 far, 3 hub; address within the tier) and writes a corrected
one back, unless newer data has been written meanwhile: either way the single-bit error is gone. A word of a slice or domain waits until activity 0's counter is
above zero, and is charged to it (R259, R262). -/
def execPatrolScrub (tier addr : Nat) (_newer : Bool) (s : State) : Answer :=
  let w := scrubWord tier addr
  let go := tier < 4 && addr < tierLimit tier && !s.scrubOff tier addr
  match s.scrubCharge tier addr with
  | some c => occurs (go && (s.img.recs.isNone || decide (0 < (s.ctr 0 c.1 c.2).left))) s ((s.take 0 c.1 c.2 1).eccRead w (w + 1)).1
  | none => occurs go s (s.eccRead w (w + 1)).1

/-- The largest offset a margin parameter allows (R179). -/
def marginLimit (param : Nat) : Nat := if param < 2 then 31 else 15

/-- The code of a margin request, the numerically highest that applies (R18, R180). -/
def State.marginCode (s : State) : Nat :=
  let g (f : Fld) := s.fg R.FMC_MARGIN_CTL f
  let off := (sint 6 (g F.FMC_MARGIN_CTL_offset)).natAbs
  highestCode [
    (!s.inTest, Code.notPermitted),
    (g F.FMC_MARGIN_CTL_stack < 24 && !s.stackPresent (g F.FMC_MARGIN_CTL_stack), Code.absentUnit),
    (3 < g F.FMC_MARGIN_CTL_param || marginLimit (g F.FMC_MARGIN_CTL_param) < off || 23 < g F.FMC_MARGIN_CTL_stack
      || g F.FMC_MARGIN_CTL_granules = 0 || 10485760 < g F.FMC_MARGIN_CTL_granules, Code.outOfRange),
    (s.tiers.marginRun.isSome, Code.busy)]

/-- FMC_MARGIN_CTL.start (R180): a failed check shows in FMC_MARGIN_RESULT, otherwise the run goes on. -/
def State.marginStart (s : State) : State :=
  let c := s.marginCode
  if c = Code.ok then
    { (s.fs R.FMC_MARGIN_CTL F.FMC_MARGIN_CTL_start 1).fs R.FMC_MARGIN_RESULT F.FMC_MARGIN_RESULT_done 0 with tiers := { s.tiers with marginRun := some (s.rd R.FMC_MARGIN_CTL).toNat } }
  else
    ((((s.fs R.FMC_MARGIN_CTL F.FMC_MARGIN_CTL_start (b2n s.tiers.marginRun.isSome)).fs R.FMC_MARGIN_RESULT F.FMC_MARGIN_RESULT_done 1).fs R.FMC_MARGIN_RESULT F.FMC_MARGIN_RESULT_status c).fs
      R.FMC_MARGIN_RESULT F.FMC_MARGIN_RESULT_errors 0).fs R.FMC_MARGIN_RESULT F.FMC_MARGIN_RESULT_first_line 0x7F

/-- MARGIN_START (R180). -/
def execMarginStart (port : Nat) (s : State) : Answer := occurs (s.hostOn port) s s.marginStart

/-- CLEAR_RETIRE (R178, R184): in TEST, the bit is set, and the next start undoes the retirement of the stack. -/
def execClearRetire (port k : Nat) (s : State) : Answer :=
  occurs (s.hostOn port && k < 24 && s.stackPresent k && s.inTest) s (s.fs (R.FMC_STK_STATUS k) F.FMC_STK_STATUS_clear_retire 1)

/-- MEM_CLEAR_COUNTS (R183). -/
def execMemClearCounts (port core : Nat) (s : State) : Answer :=
  occurs (s.hostOn port && core < 32) s (s.zeroRegs [R.MEM_SRAM_ECC (core / 4) (core % 4), R.MEM_BND_ECC (core / 4) (core % 4)])

/-- FMC_CLEAR_COUNTS (R184). -/
def execFmcClearCounts (port : Nat) (s : State) : Answer :=
  occurs (s.hostOn port) s (s.zeroRegs ((List.range 768).map (fun i => R.FMC_CH_ERR (i / 32) (i % 32))))

end Machine
end Sys2Proof
end

