-- ==== Sys2Proof/Machine/Bud.lean ====
section
/-!
DEFINITION. Activities and time budgets (chapter 8): capacities (R232), written and effective budgets (R260, R268), refill (R261),
charges (R262), gates (R263), pools and borrowing (R265-R267).
-/
namespace Sys2Proof
namespace Machine

/-- R333: payload flits of `l` bytes of data. -/
def payFlits (l : Nat) : Nat := if l ≤ 20 then 0 else cdiv (l - 20) 64

end Machine
open Machine

/-- R333: flits of a packet. -/
def Packet.flits (p : Packet) : Nat := 1 + payFlits p.data.length

namespace Machine

/-- R258: the number of instances of a resource. -/
def resInstances : Nat → Nat
  | 0 => 32
  | 1 => 32
  | 2 => 32
  | 3 => 16
  | 4 => 80
  | 5 => 16
  | 6 => 1
  | _ => 0

/-- R392: the CLE slot capacity of a period of T µs, 2,000 slots per µs. -/
def cleCapacity (t : Nat) : Nat := 2000 * t

/-- R232: the capacity of one instance per period of T µs, in the unit of R258; far bytes per stack. -/
def resCapacity (t : Nat) : Nat → Nat
  | 0 => 1100 * t
  | 1 => 1100 * t
  | 2 => 1860000 * t / 64
  | 3 => 1312000 * t / 64
  | 4 => 8000 * t
  | 5 => 7343750 * t / 1000
  | 6 => cleCapacity t
  | _ => 0

/-- The entries of a BUDGET record: resource, instance, amount, borrow limit (R260). -/
def budEntries (r : Rec) : List (Nat × Nat × Nat × Nat) :=
  (List.range (r.at 0 2)).map (fun i => (r.at (8 + 16 * i) 1, r.at (10 + 16 * i) 2, r.at (16 + 16 * i) 4, r.at (20 + 16 * i) 4))

/-- R260: the entry that governs an instance: one that names it, else one for every instance. -/
def budEntry (r : Rec) (res inst : Nat) : Option (Nat × Nat × Nat × Nat) :=
  match (budEntries r).find? (fun e => e.1 = res && e.2.1 = inst) with
  | some e => some e
  | none => (budEntries r).find? (fun e => e.1 = res && e.2.1 = 0xFFFF)

/-- R260: B and the borrow limit of an activity on an instance. Activity 0 without a record has 2 % of the capacity, flits at least 65;
`spans` is the number of stacks a domain spans. -/
def budWritten (c : List Rec) (spans : Nat) (a res inst : Nat) : Nat × Nat :=
  match findRec c RT.budget a with
  | some r => match budEntry r res inst with
    | some e => (e.2.2.1, e.2.2.2)
    | none => (0, 0)
  | none =>
    if a = 0 then
      let b := 2 * resCapacity (budgetPeriod c) res / 100
      (if res = 3 then b * spans else if res = 4 || res = 5 then max b 65 else b, 0)
    else (0, 0)

/-- R268: width in force of a link as a share of four quarters (R188, R318): full 4, half 2, quarter 1. A link that is down has no width in force, and the factor
does not apply (DEDUCED; assumption log 54). -/
def widthShare (w : Nat) : Nat := if w = 1 then 2 else if w = 2 then 1 else 4

/-- R268: s_width in quarters for crossbar and Selvage flits. -/
def State.sWidth (s : State) (res inst : Nat) : Nat :=
  if res = 4 then
    let p := inst / 2
    if p < 32 then widthShare (s.fg (R.DL_LINK_STATUS (p / 4) 0) F.DL_LINK_STATUS_width) else widthShare (s.fg (R.SP_STATUS (p - 24)) F.SP_STATUS_width)
  else if res = 5 then widthShare (s.fg (R.SP_STATUS inst) F.SP_STATUS_width)
  else 4

/-- R268, R162: s_hot in quarters of a die. -/
def State.sHot (s : State) (die : Nat) : Nat :=
  let v := bits (s.fg R.MGT_STATUS F.MGT_STATUS_die_scale) (2 * die) 2
  if v = 0 then 4 else if v = 1 then 3 else 2

/-- R268, R168: s_far in quarters of a domain. -/
def State.sFar (s : State) (dom : Nat) : Nat :=
  if (s.domStacks dom).any (fun k => bit (s.fg R.BUD_STATUS F.BUD_STATUS_far_scaled) k) then 3 else 4

/-- R268: the effective budget. -/
def State.budEff (s : State) (a res inst : Nat) : Nat :=
  let b := (budWritten s.img.cfg (s.domStacks inst).length a res inst).1
  let w := s.sWidth res inst
  let h := if res < 3 && a ≠ 255 then s.sHot (inst / 4) else 4
  let f := if res = 3 && a ≠ 255 then s.sFar inst else 4
  let g := if actKind s.img.cfg a = 2 then s.fg R.BUD_STATUS F.BUD_STATUS_gov_scale else 16
  let e := b * w * h * f * g / 1024
  if (res = 4 || res = 5) && b ≠ 0 && e < 65 && g ≠ 0 then 65 else e

/-- The activities the configuration holds. -/
def actList (c : List Rec) : List Nat := (0 :: 255 :: (recsOf c RT.activity).map (·.id)).eraseDups

/-- R160: a slice's bandwidth in GB/s, the sum of its layer-quarters. -/
def State.sliceRate (s : State) (core : Nat) : Nat :=
  ((List.range 4).map (fun l =>
    let r := bits (s.fg (R.MEM_BND_THERM (core / 4) (core % 4)) F.MEM_BND_THERM_refresh) (2 * l) 2
    if r = 0 then 500 else if r = 1 then 488 else 465)).sum

/-- R265: what a pool would hold before the sum of the effective budgets is taken from it. -/
def State.poolGross (s : State) (res inst : Nat) : Nat :=
  let t := budgetPeriod s.img.cfg
  if res < 2 then s.aclkBetween (inst / 4) (s.now - 1000 * t) s.now * s.sHot (inst / 4) / 4
  else if res = 2 then s.sliceRate inst * 1000 * t * s.sHot (inst / 4) / 4 / 64
  else if res = 3 then 1312000 * t * (s.domStacks inst).length * s.sFar inst / 4 / 64
  else if res = 4 || res = 5 then resCapacity t res * s.sWidth res inst / 4
  else resCapacity t res

/-- Every budgeted instance of the configuration: activity, resource, instance with a non-zero budget, or one already counted. -/
def State.budKeys (s : State) : List (Nat × Nat × Nat) :=
  (actList s.img.cfg).flatMap (fun a => (List.range 7).flatMap (fun res =>
    (List.range (resInstances res)).filterMap (fun i =>
      if (budWritten s.img.cfg (s.domStacks i).length a res i).1 ≠ 0 || (tget s.bud.ctr (budKey a res i)).isSome then some (a, res, i) else none)))

/-- R261, R275: one counter at a refill. -/
def State.refillOne (s : State) (k : Nat × Nat × Nat) (c : BudCtr) : BudCtr :=
  let e := s.budEff k.1 k.2.1 k.2.2
  { eff := e, left := e, used := 0, usedLast := c.used, gated := false, gatedCount := c.gatedCount, drawn := 0, drawnLast := c.drawn,
    written := (budWritten s.img.cfg (s.domStacks k.2.2).length k.1 k.2.1 k.2.2).1, shown := c.gatedCount }

/-- R265: one pool at a refill; zero while g is below 16. -/
def State.refillPool (s : State) (ctr : Tab BudCtr) (res inst : Nat) : Int :=
  if s.fg R.BUD_STATUS F.BUD_STATUS_gov_scale < 16 then 0
  else
    let sum := ((actList s.img.cfg).map (fun a => (tgetD ctr (budKey a res inst) BudCtr.zero).eff)).sum
    max 0 ((s.poolGross res inst : Int) - (sum : Int))

/-- R261, R265: every counter and pool refilled. -/
def State.refill (s : State) : State :=
  let keys := s.budKeys
  let ctr := keys.foldl (fun t k => tset t (budKey k.1 k.2.1 k.2.2) (s.refillOne k (tgetD s.bud.ctr (budKey k.1 k.2.1 k.2.2) BudCtr.zero))) ([] : Tab BudCtr)
  let pool := (List.range 7).foldl (fun t res => (List.range (resInstances res)).foldl (fun u i => tset u (res * 256 + i) (s.refillPool ctr res i)) t) ([] : Tab Int)
  { s with bud := { s.bud with ctr := ctr, pool := pool, shown := pool } }

/-- The rack time of the next budget period boundary: a TCLK multiple of the period (R208). -/
def State.nextPeriod (s : State) : Nat :=
  let p := budgetPeriod s.img.cfg * 1000
  s.rack + (p - s.rack % p)

/-- R258: the instance of the crossbar flits into the switch at a port. -/
def xIn (p : Nat) : Nat := 2 * p + 1
/-- R258: the instance of the crossbar flits out of the switch at a port. -/
def xOut (p : Nat) : Nat := 2 * p

/-- R265: what a pool holds; nothing while g is below 16. -/
def State.pool (s : State) (res inst : Nat) : Int :=
  if s.fg R.BUD_STATUS F.BUD_STATUS_gov_scale < 16 then 0 else tgetD s.bud.pool (res * 256 + inst) 0

/-- R266: the activity borrows on an instance at all: ELASTIC with a borrow limit, or 255. -/
def State.borrows (s : State) (a res inst : Nat) : Bool := a = 255 || (actKind s.img.cfg a = 2 && (budWritten s.img.cfg 0 a res inst).2 ≠ 0)

/-- R262, R266: the activity may draw `n` from the pool of an instance: within its borrow limit, and from a pool that is above zero for bytes and cycles and
covers flits and slots in full. -/
def State.canDraw (s : State) (a res inst n : Nat) : Bool :=
  s.borrows a res inst && decide ((s.ctr a res inst).drawn + n ≤ (budWritten s.img.cfg 0 a res inst).2)
  && (if res < 4 then decide (0 < s.pool res inst) else decide ((n : Int) ≤ s.pool res inst))

/-- R262: the counter of an activity covers a charge on its own: byte and cycle counters while above zero, flits and slots in full. -/
def State.ownCovers (s : State) (a res inst n : Nat) : Bool :=
  let c := s.ctr a res inst
  if res < 4 then decide (0 < c.left) else decide ((n : Int) ≤ c.left)

/-- R262, R266: a charge can be taken now, from the counter or from the pool. -/
def State.covers (s : State) (a res inst n : Nat) : Bool := s.ownCovers a res inst n || s.canDraw a res inst n

/-- R262, R266: takes a charge from the counter, or from the pool where the counter does not cover it. Slots of the CLE are events too (R515). -/
def State.charge (s0 : State) (a res inst n : Nat) : State :=
  let s := if res = 6 then s0.pmc 58 0x0A0 n ⟨some 0x33, some 1, some a, none, none⟩ else s0
  let k := budKey a res inst
  let c := tgetD s.bud.ctr k BudCtr.zero
  if !s.ownCovers a res inst n && s.canDraw a res inst n then
    { s with bud := { s.bud with ctr := tset s.bud.ctr k { c with used := satAdd 0xFFFFFFFF c.used n, drawn := c.drawn + n },
                                 pool := tset s.bud.pool (res * 256 + inst) (tgetD s.bud.pool (res * 256 + inst) 0 - (n : Int)) } }
  else { s with bud := { s.bud with ctr := tset s.bud.ctr k { c with used := satAdd 0xFFFFFFFF c.used n, left := c.left - n } } }

/-- R264: gates are suspended for what a core has started, from the request for a pause until the core is parked. -/
def State.suspended (s : State) (core : Nat) : Bool :=
  s.fb (R.SEQ_STATUS (core / 4) (core % 4)) F.SEQ_STATUS_snapshot_pending && !s.fb (R.SEQ_STATUS (core / 4) (core % 4)) F.SEQ_STATUS_parked

/-- R266: what an activity may still draw from the pool of an instance in this period. -/
def State.drawable (s : State) (a res inst : Nat) : Nat :=
  if s.borrows a res inst then min ((budWritten s.img.cfg 0 a res inst).2 - (s.ctr a res inst).drawn) (s.pool res inst).toNat else 0

/-- A list of charges, as resource, instance and amount, can be taken now. -/
def State.coversAll (s : State) (a : Nat) (cs : List (Nat × Nat × Nat)) : Bool := cs.all (fun c => s.covers a c.1 c.2.1 c.2.2)

/-- Takes a list of charges. -/
def State.chargeAll (s : State) (a : Nat) (cs : List (Nat × Nat × Nat)) : State := cs.foldl (fun (t : State) c => t.charge a c.1 c.2.1 c.2.2) s

/-- Takes a list of charges from the activity's own counters, whatever they hold (R264). -/
def State.takeAll (s : State) (a : Nat) (cs : List (Nat × Nat × Nat)) : State := cs.foldl (fun (t : State) c => t.take a c.1 c.2.1 c.2.2) s

/-- R263: the gate of an activity on an instance acts: counted once per period and shown. -/
def State.gate (s : State) (a res inst : Nat) : State :=
  let k := budKey a res inst
  let c := tgetD s.bud.ctr k BudCtr.zero
  let t := { s with bud := { s.bud with ctr := tset s.bud.ctr k { c with gated := true, gatedCount := if c.gated then c.gatedCount else satAdd 0xFFFFFFFF c.gatedCount 1 } } }
  let u := t.fs (R.ACT_STATE a) F.ACT_STATE_gated_now 1
  if res = 0 && s.fg (R.ARR_STATUS (inst / 4) (inst % 4)) F.ARR_STATUS_state = 1
      && ((tget s.seq.running (8 * inst)).map (fun (q : QIns) => decide (q.act = a))).getD false
  then u.fs (R.ARR_STATUS (inst / 4) (inst % 4)) F.ARR_STATUS_state 2 else u

/-- R263: the next charge of an activity on an instance: the flits of the next packet that waits for it, else one unit. -/
def State.nextCharge (s : State) (a res inst : Nat) : Nat :=
  match s.fj.xq.find? (fun h => h.act = a && ((res = 4 && (xOut h.out = inst || xIn h.inp = inst)) || (res = 5 && h.sp = inst))) with
  | some h => h.pkt.flits
  | none => 1

/-- BUDGET_EXHAUSTED (R263, R264, R266): a counter at zero, or too low for the next packet or slot, with nothing to draw: the gate acts. -/
def execBudgetExhausted (a res inst : Nat) (s : State) : Answer :=
  let need := s.nextCharge a res inst
  occurs (a < 256 && inst < resInstances res && actExists s.img.cfg a && s.img.recs.isSome && !s.covers a res inst need && !(res < 3 && s.suspended inst)) s
    (s.gate a res inst)

/-- BUD_CLEAR_COUNTS (R272). -/
def execBudClearCounts (port : Nat) (s : State) : Answer :=
  occurs (s.hostOn port) s ({ s with bud := { s.bud with ctr := s.bud.ctr.map (fun (p : Nat × BudCtr) => (p.1, { p.2 with gatedCount := 0, shown := 0 })) } }.fs R.BUD_STATUS F.BUD_STATUS_unknown_act 0)

/-- R274, R275: what BUD_DATA0-BUD_DATA2 read for the selection. -/
def State.budData (s : State) (i : Nat) : Nat :=
  let a := s.fg R.BUD_IDX F.BUD_IDX_activity
  let res := s.fg R.BUD_IDX F.BUD_IDX_resource
  let inst := s.fg R.BUD_IDX F.BUD_IDX_instance
  if resInstances res ≤ inst then 0
  else
    let c := tgetD s.bud.ctr (budKey a res inst) BudCtr.zero
    if i = 0 then c.written + c.eff * 2 ^ 32
    else if i = 1 then c.usedLast + c.shown * 2 ^ 32
    else (if s.fg R.BUD_STATUS F.BUD_STATUS_gov_scale < 16 then 0 else tgetD s.bud.shown (res * 256 + inst) 0).toNat % 2 ^ 32 + c.drawnLast * 2 ^ 32

end Machine
end Sys2Proof
end

