-- ==== Sys2Proof/Machine/Act.lean ====
section
/-!
DEFINITION. Activities, contexts and cores: states of R149 and R257, stops (R145), use of dies and cores (R201), FAILED cores (R64),
the second check of R244.
-/
namespace Sys2Proof
namespace Machine

/-- State of an activity (R257). -/
def State.actState (s : State) (a : Nat) : Nat := s.fg (R.ACT_STATE a) F.ACT_STATE_state

/-- Sets the state of an activity; activities 0 and 255 stay RUNNING (R257). -/
def State.setAct (s : State) (a st : Nat) : State := if a = 0 || a = 255 then s else s.fs (R.ACT_STATE a) F.ACT_STATE_state st

/-- The status register of a context, by 4·core + ctx. -/
def ctxReg (x : Nat) : Nat := R.SEQ_CTX_STATUS (x / 16) (x / 4 % 4) (x % 4)

/-- A context's state: 0 IDLE, 1 RUN, 2 WAIT, 3 PARKED, 4 STOPPED (R149). -/
def State.ctxState (s : State) (x : Nat) : Nat := s.fg (ctxReg x) F.SEQ_CTX_STATUS_state
/-- Sets a context's state. -/
def State.setCtx (s : State) (x st : Nat) : State := s.fs (ctxReg x) F.SEQ_CTX_STATUS_state st
/-- A context's program counter. -/
def State.ctxPc (s : State) (x : Nat) : Nat := s.fg (ctxReg x) F.SEQ_CTX_STATUS_pc
/-- The activity bound to a context. -/
def State.ctxAct (s : State) (x : Nat) : Nat := s.fg (ctxReg x) F.SEQ_CTX_STATUS_activity

/-- A context nothing is bound to. -/
def CtxSt.empty : CtxSt := ⟨false, 0, [], [], false, false⟩

/-- A context's hidden state. -/
def State.ctx (s : State) (x : Nat) : CtxSt := tgetD s.seq.ctx x CtxSt.empty
/-- Changes a context's hidden state. -/
def State.modCtx (s : State) (x : Nat) (f : CtxSt → CtxSt) : State := { s with seq := { s.seq with ctx := tset s.seq.ctx x (f (s.ctx x)) } }

/-- The seven queues of a core (R119): array, vector, move, route, Fjarux, collective; 3 is only a running slot. -/
def unitList : List Nat := [0, 1, 2, 4, 5, 6]

/-- BUSY commands that `which` picks have their outcome (R291). -/
def State.cmdsEnd (s : State) (which : CmdSt → Bool) (code : Nat) (res : List Word) : State :=
  [0, 1].foldl (fun (t : State) p => match tget t.host.cmd p with
    | some c => if which c && !c.ready then { t with host := { t.host with cmd := tset t.host.cmd p { c with code := code, res := res, ready := true } } } else t
    | none => t) s

/-- The BUSY commands of an opcode have their outcome. -/
def State.cmdEnds (s : State) (op code : Nat) (res : List Word) : State := s.cmdsEnd (fun c => c.opcode = op) code res

/-- R292: the DIE_RESET of a die has its outcome. -/
def State.dieResetEnds (s : State) (d code : Nat) : State := s.cmdsEnd (fun c => c.opcode = 0x06 && (c.args.getD 0 0).toNat % 8 = d) code []

/-- The queue of a unit. -/
def State.queue (s : State) (core u : Nat) : List QIns := tgetD s.seq.queue (8 * core + u) []
/-- Sets the queue of a unit. -/
def State.setQueue (s : State) (core u : Nat) (q : List QIns) : State :=
  { s with seq := { s.seq with queue := if q.isEmpty then tdel s.seq.queue (8 * core + u) else tset s.seq.queue (8 * core + u) q } }
/-- The instruction a unit is executing. -/
def State.running (s : State) (core u : Nat) : Option QIns := tget s.seq.running (8 * core + u)
/-- Sets what a unit is executing. -/
def State.setRunning (s : State) (core u : Nat) (q : Option QIns) : State :=
  { s with seq := { s.seq with running := match q with
      | some x => tset s.seq.running (8 * core + u) x
      | none => tdel s.seq.running (8 * core + u) } }

/-- R258, R262: an instruction in a running slot uses `n` more units of a resource instance, in rows of `row` units. -/
def State.owe (s : State) (core slot res inst n row : Nat) : State :=
  match s.running core slot with
  | some q => s.setRunning core slot (some { q with owed := q.owed + n, row := max 1 row, res := res, inst := inst })
  | none => s
/-- The code with which an instruction in a running slot will end. -/
def State.endsWith (s : State) (core slot code : Nat) : State :=
  match s.running core slot with
  | some q => s.setRunning core slot (some { q with code := code })
  | none => s

/-- R145: the queued instructions of a context that have not started are discarded. -/
def State.dropQueued (s : State) (x : Nat) : State :=
  unitList.foldl (fun t u => t.setQueue (x / 4) u ((t.queue (x / 4) u).filter (fun q => q.ctx ≠ x % 4))) s

/-- R257: an activity whose every bound context is IDLE becomes IDLE, or STOPPED when the others are STOPPED. -/
def State.actSettle (s : State) (a : Nat) : State :=
  if a = 0 || a = 255 || s.actState a ≠ 2 then s
  else
    let xs := boundCtxs s.img.cfg a
    if xs.all (fun x => s.ctxState x = 0) then s.setAct a 1
    else if xs.all (fun x => s.ctxState x = 0 || s.ctxState x = 4) then s.setAct a 3
    else s

/-- R145: a context stops with a code: queued instructions discarded, the MGC logs it. -/
def State.stopCtx (s : State) (x code : Nat) : State :=
  let t := ((s.setCtx x 4).fs (ctxReg x) F.SEQ_CTX_STATUS_code code).dropQueued x
  (t.log code 2 (0x2000 + x / 4) [BitVec.ofNat 8 (x % 4), BitVec.ofNat 8 (s.ctxPc x), BitVec.ofNat 8 (s.ctxPc x / 256)]).actSettle (s.ctxAct x)

/-- A stop by command, teardown or fence: as R145, without a run-time error to log. -/
def State.haltCtx (s : State) (x code : Nat) : State :=
  if s.ctxState x = 0 then s else ((s.setCtx x 4).fs (ctxReg x) F.SEQ_CTX_STATUS_code code).dropQueued x

/-- The domains bound to an activity (R201): a far-byte budget, a far ring, or a keeping-table entry. -/
def actDomains (c : List Rec) (a : Nat) : List Nat :=
  indices 16 (fun i =>
    (budWritten c 1 a 3 i).1 ≠ 0
    || (recsOf c RT.stream).any (fun r => r.at 0 1 = 0 && r.at 1 1 = a && r.at 3 1 = 1 && r.at 4 2 % 16 = i)
    || (recsOf c RT.keeping).any (fun r => r.id ≠ 0 && r.at 3 1 = a && r.at 1 1 = 0 && r.at 2 1 = i))

/-- R201: the cores an activity uses: those of its contexts and every core of an engine that includes one. -/
def actUsesCore (c : List Rec) (a core : Nat) : Bool :=
  (actCores c a).any (fun k => k = core || (match engineOf c k with
    | some e => bit (e.at 0 4) core
    | none => false))

/-- R201: an activity uses a die. -/
def State.actUsesDie (s : State) (a d : Nat) : Bool :=
  (List.range 4).any (fun k => actUsesCore s.img.cfg a (4 * d + k))
  || (actDomains s.img.cfg a).any (fun i => (s.domStacks i).any (fun k => k / 3 = d))

/-- R257: an activity becomes FAULTED; 0 and 255 never do (R201). -/
def State.faultAct (s : State) (a : Nat) : State := if s.actState a = 0 then s else s.setAct a 4

/-- Every activity of the configuration that satisfies a test becomes FAULTED. -/
def State.faultActs (s : State) (p : Nat → Bool) : State := ((actList s.img.cfg).filter p).foldl State.faultAct s

/-- R244 (APPLY_RECHECK): a die fenced or a core FAILED while a change is WAITING starts a second check. -/
def State.applyRecheck (s : State) : State :=
  match s.img.pending with
  | some p => match s.img.run with
    | .commit _ => { s with img := { s.img with pending := some { p with again := true } } }
    | _ => { s with img := { s.img with run := .recheck p.set s.now } }
  | none => s

/-- R64 (CORE_FAILED): the core issues nothing more, every context of it stops, every activity that uses it becomes FAULTED. -/
def State.coreFailed (s : State) (core : Nat) : State :=
  let t := s.fs (R.ARR_STATUS (core / 4) (core % 4)) F.ARR_STATUS_state 3
  let u := (List.range 4).foldl (fun x k => if x.ctxState (4 * core + k) = 0 then x else x.haltCtx (4 * core + k) Code.arrayCheck) t
  (u.faultActs (fun a => actUsesCore s.img.cfg a core)).applyRecheck

/-- A core is FAILED (R72). -/
def State.coreDead (s : State) (core : Nat) : Bool := s.fg (R.ARR_STATUS (core / 4) (core % 4)) F.ARR_STATUS_state = 3

/-- R117: a context starts at its entry index. -/
def State.startCtx (s : State) (x : Nat) : State :=
  if s.coreDead (x / 4) || !s.dieUp (x / 16) then s
  else
    let t := (s.fs (ctxReg x) F.SEQ_CTX_STATUS_state 1).fs (ctxReg x) F.SEQ_CTX_STATUS_pc (s.ctx x).entry
    t.modCtx x (fun c => { c with loops := [], atStep := false })

/-! ### Counters, rings (R133, R143) -/

/-- The register of a counter of a global core. -/
def cntReg (core j : Nat) : Nat := R.SEQ_CNT (core / 4) (core % 4) j

/-- A counter's value. -/
def State.cnt (s : State) (core j : Nat) : Nat := s.fg (cntReg core j) F.SEQ_CNT_value

/-- R133: adds to a counter; an increment past the top saturates it and sets cnt_saturated. -/
def State.cntAdd (s : State) (core j v : Nat) : State :=
  let n := s.cnt core j + v
  if n < 2 ^ 32 then s.fs (cntReg core j) F.SEQ_CNT_value n
  else (s.fs (cntReg core j) F.SEQ_CNT_value 0xFFFFFFFF).raise (R.SEQ_STATUS (core / 4) (core % 4)) F.SEQ_STATUS_cnt_saturated

/-- R285 (FAR_RING_RELEASE): an increment of a release counter moves into the free slots of the far ring that names it; of two that name it the first record's, and never past
its `far_slots` (DESIGN CHOICE; assumption log 153). -/
def State.farRelease (s : State) (core j : Nat) : State :=
  let ports := (recsOf s.img.cfg RT.stream).filter (fun r => r.at 0 1 = 0 && r.at 3 1 = 1 && r.at 22 1 = core && r.at 24 1 % 32 = j)
  match ports with
  | [] => s
  | r :: _ =>
    let v := s.cnt core j
    { s.fs (cntReg core j) F.SEQ_CNT_value 0 with
      host := { s.host with farFree := tset s.host.farFree r.id (min (r.at 20 2) (tgetD s.host.farFree r.id (r.at 20 2) + v)) } }

/-- R485: a HAUNO range grants a Hauno core a right (0 read, 1 write) on a matrix core's SRAM. -/
def haunoGrants (c : List Rec) (h core right : Nat) : Bool :=
  match findRec c RT.hauno h with
  | some r => bit (r.at 0 1) 0 && (List.range (r.at 2 2)).any (fun i => r.at (8 + 24 * i) 1 = 2 && r.at (10 + 24 * i) 1 = core && bit (r.at (9 + 24 * i) 1) right)
  | none => false

/-- R485 (HAUNO_WATCH): watches of Hauno cores on a counter that becomes at least the watched value fire, where a range grants the read. -/
def State.haunoWatch (s : State) (core j old : Nat) : State :=
  (List.range 16).foldl (fun t h =>
    (List.range 32).foldl (fun u w =>
      let r := R.HLC_WATCH h w
      if haunoGrants u.img.cfg h core 0 && u.fg r F.HLC_WATCH_enable = 1 && u.fg r F.HLC_WATCH_core = core && u.fg r F.HLC_WATCH_counter = j
          && decide (old < u.fg r F.HLC_WATCH_value) && decide (u.fg r F.HLC_WATCH_value ≤ u.cnt core j)
      then u.haunoEvent h F.HLC_IRQ_watch (u.fg (R.HLC_IRQ h) F.HLC_IRQ_watch ||| 2 ^ w) else u) t) s

/-- An increment of a counter with everything that follows from it (R133, R285, R485). -/
def State.cntBump (s : State) (core j v : Nat) : State :=
  let old := s.cnt core j
  ((s.cntAdd core j v).haunoWatch core j old).farRelease core j

/-- R152: complete slots of a ring not yet released, by 16·core + ring. -/
def ringReg (id : Nat) : Nat := R.RING_STATUS (id / 64) (id / 16 % 4) (id % 16)
/-- Complete slots not yet released. -/
def State.ringUsed (s : State) (id : Nat) : Nat := s.fg (ringReg id) F.RING_STATUS_used
/-- The ring's hidden state. -/
def State.ring (s : State) (id : Nat) : RingSt := tgetD s.seq.ring id ⟨0, 0, 0⟩
/-- Slots being filled or filled and waiting to be shown complete. -/
def State.slotFull (s : State) (id : Nat) : Nat := tgetD s.seq.slotFull id 0
/-- A ring has a free slot. -/
def State.ringFree (s : State) (id : Nat) : Bool := match ringCfg s.img.cfg id with
  | some c => decide (s.ringUsed id + s.slotFull id < c.slots)
  | none => false
/-- The fill slot's last byte has been written: it waits to become complete (RING_SLOT_COMPLETE). -/
def State.ringFill (s : State) (id : Nat) : State :=
  match ringCfg s.img.cfg id with
  | some c => { s with seq := { s.seq with ring := tset s.seq.ring id { s.ring id with fill := ((s.ring id).fill + 1) % c.slots, pos := 0 },
                                           slotFull := tset s.seq.slotFull id (s.slotFull id + 1) } }
  | none => s

/-- RING_SLOT_COMPLETE (R143): a filled slot becomes complete and the ring's counter rises by 1. -/
def State.slotComplete (s : State) (id : Nat) : State :=
  match ringCfg s.img.cfg id with
  | some c =>
    let t := { s with seq := { s.seq with slotFull := tset s.seq.slotFull id (s.slotFull id - 1) } }
    (t.fs (ringReg id) F.RING_STATUS_used (s.ringUsed id + 1)).cntBump (id / 16) c.counter 1
  | none => s

/-- RING_SLOT_COMPLETE. -/
def execRingSlotComplete (core ring : Nat) (s : State) : Answer :=
  occurs (core < 32 && ring < 16 && decide (0 < s.slotFull (16 * core + ring)) && (ringCfg s.img.cfg (16 * core + ring)).isSome) s (s.slotComplete (16 * core + ring))

end Machine
end Sys2Proof
end

