-- ==== Sys2Proof/Machine/Fabric.lean ====
section
/-!
DEFINITION. Fjarux packets (R333-R336), their sealing (R473), routing (R343-R345) and the queues they wait in.
-/
namespace Sys2Proof
namespace Machine

namespace FOp
/-- R335. -/
@[reducible] def store := 0x01
@[reducible] def load := 0x02
@[reducible] def loadRsp := 0x03
@[reducible] def atomicRsp := 0x20
@[reducible] def ack := 0x30
@[reducible] def nack := 0x31
@[reducible] def drain := 0x40
@[reducible] def lease := 0x41
@[reducible] def teardown := 0x42
@[reducible] def mgmt := 0x43
@[reducible] def coll := 0x50
@[reducible] def keep := 0x60
end FOp

/-- R335: an atomic without return, then one with return. -/
def isAtomic (op : Nat) : Bool := (0x10 ≤ op && op ≤ 0x15) || (0x18 ≤ op && op ≤ 0x1D)
/-- R335: an atomic with return. -/
def isAtomicRet (op : Nat) : Bool := 0x18 ≤ op && op ≤ 0x1D
/-- R335: operand bytes of an atomic. -/
def atomicSize (op : Nat) : Nat := if op % 8 = 1 || op % 8 = 5 then 16 else 8

/-- R335: the class of an opcode; none where the opcode is invalid. DRAIN has the class of the channel it marks. -/
def opClass (op vc : Nat) : Option Nat :=
  if op = FOp.store || op = FOp.load || isAtomic op then some 1
  else if op = FOp.loadRsp || op = FOp.atomicRsp || op = FOp.ack || op = FOp.nack then some 2
  else if op = FOp.drain then some (vc / 2)
  else if op = FOp.lease || op = FOp.teardown || op = FOp.mgmt then some 0
  else if op = FOp.coll then some 3
  else if op = FOp.keep then some 4
  else none

end Machine
open Machine

/-- R334: bits 255:0 of the header flit. -/
def Packet.head (p : Packet) : Nat :=
  let put (v lo w : Nat) := v % 2 ^ w * 2 ^ lo
  put p.dest 0 12 + put p.src 12 12 + put p.cls 24 3 + put p.vc 27 4 + put p.epoch 31 1 + put p.mode 32 1 + put (b2n p.flagged) 33 1 + put (b2n p.poison) 34 1
  + put (b2n p.transit) 35 1 + put p.chan 36 8 + put p.seq 44 24 + put p.op 68 8 + put p.act 76 8 + put p.key 84 16 + put p.len 100 12 + put p.follow 112 24
  + put p.hop 136 6 + put p.addr 144 64

/-- R334: header bytes 0-31. -/
def Packet.header (p : Packet) : Bytes := leBytes 32 p.head

/-- R336: the additional data of the tag. -/
def Packet.aad (p : Packet) : Bytes := Packet.header { p with vc := 0, mode := 0, hop := 0, transit := false }

namespace Machine

/-- R337 check 1: the opcode is invalid, or the class or the virtual channel is not the one it has. -/
def badHead (p : Packet) : Bool := opClass p.op p.vc ≠ some p.cls || p.vc / 2 ≠ p.cls || decide (10 ≤ p.vc)

/-- R334: the bytes of data a header announces. -/
def dataLen (op len : Nat) : Nat := if op = FOp.load || op = FOp.ack || op = FOp.drain then 0 else len + 1

end Machine
open Machine

/-- R333: the flits of a packet as one string. -/
def Packet.raw (p : Packet) : Bytes :=
  let n := 64 * p.flits
  let b := p.header ++ p.data
  b ++ zeros (n - 12 - b.length) ++ slice p.tag 0 12

namespace Machine

/-- R333, R334: a packet from its flits. -/
def packetOf (b : Bytes) : Packet :=
  let h := leNat (b.take 32)
  let op := bits h 68 8
  let len := bits h 100 12
  { dest := bits h 0 12, src := bits h 12 12, cls := bits h 24 3, vc := bits h 27 4, epoch := bits h 31 1, mode := bits h 32 1, flagged := bit h 33,
    poison := bit h 34, transit := bit h 35, chan := bits h 36 8, seq := bits h 44 24, op := op, act := bits h 76 8, key := bits h 84 16, len := len,
    follow := bits h 112 24, hop := bits h 136 6, addr := bits h 144 64, data := slice b 32 (dataLen op len), tag := b.drop (b.length - 12) }

/-- R333: the flits a header flit announces. -/
def flitsOf (h : Bytes) : Nat := (packetOf h).flits

/-- The device number (R330). -/
def State.device (s : State) : Nat := s.fg R.FJ_STATUS F.FJ_STATUS_device
/-- The epoch in force (R358). -/
def State.epoch (s : State) : Nat := s.fg R.FJ_STATUS F.FJ_STATUS_epoch

/-- R456: the key that a job_key_id names. -/
def State.keyOf (s : State) (id : Nat) : Option Bytes :=
  if id = 0 then s.store.leaseKey else if id = 0xFFFF then s.keys.keep else tget s.keys.job id

end Machine
open Machine

/-- R473: the nonce of a packet with its extended sequence. -/
def Packet.nonce (p : Packet) (xseq : Nat) : Bytes :=
  leBytes 12 (p.src % 2 ^ 12 + p.dest % 2 ^ 12 * 2 ^ 12 + p.cls % 8 * 2 ^ 24 + p.epoch % 2 * 2 ^ 27 + p.op % 256 * 2 ^ 28 + p.chan % 256 * 2 ^ 36 + xseq % 2 ^ 48 * 2 ^ 44)

/-- R473: a packet sealed under a key. -/
def Packet.seal (p : Packet) (key : Bytes) (xseq : Nat) : Packet :=
  let r := gcmSeal key (p.nonce xseq) p.aad p.data 12
  { p with data := r.1, tag := r.2 }

/-- R473: a packet opened under a key; none where the tag fails. -/
def Packet.unseal (p : Packet) (key : Bytes) (xseq : Nat) : Option Packet :=
  match gcmOpen key (p.nonce xseq) p.aad p.data p.tag with
  | some d => if p.tag.length = 12 then some { p with data := d } else none
  | none => none

namespace Machine

/-- Key of a stream: device and channel. -/
def streamKey (dev chan : Nat) : Nat := dev * 256 + chan
/-- Key of a numbered stream: class, device and channel (R346, R473). -/
def numKey (cls dev chan : Nat) : Nat := (cls * 4096 + dev) * 256 + chan
/-- Key of a pair of a core; core 32 is the KPU (R352, R439). -/
def pairKey (core dev chan : Nat) : Nat := core * 2 ^ 20 + streamKey dev chan

/-- R473: the extended sequence nearest to `h` that is congruent to `q` modulo 2^24. -/
def nearest (h q : Nat) : Nat :=
  let m := 2 ^ 24
  let c := h - h % m + q % m
  let d (x : Nat) : Nat := max x h - min x h
  let best := if m ≤ c && d (c - m) < d c then c - m else c
  if d (c + m) < d best then c + m else best

/-! ### Routing -/

/-- R340: ring r of a routing payload: rank, length, position, dateline, plus_port, minus_port. -/
structure FRing where
  rank : Nat
  length : Nat
  position : Nat
  dateline : Nat
  plus : Nat
  minus : Nat
deriving DecidableEq, Repr

/-- R340: the rings of a routing payload. -/
def ringsOf (b : Bytes) : List FRing :=
  (List.range (fieldAt b 0 1)).map (fun r =>
    let o := 8 + 16 * r
    ⟨fieldAt b (o + 2) 1, fieldAt b (o + 3) 1, fieldAt b (o + 4) 1, fieldAt b (o + 5) 1, fieldAt b (o + 6) 1, fieldAt b (o + 7) 1⟩)

/-- The ring a port lies on. -/
def ringOfPort (b : Bytes) (p : Nat) : Option FRing := (ringsOf b).find? (fun r => r.plus = p || r.minus = p)

/-- R340: the entry of a device. -/
def routeEntry (b : Bytes) (n : Nat) : Nat := fieldAt b (264 + 4 * n) 4

/-- R344: a hop out by a port crosses the dateline of its ring. -/
def FRing.crosses (r : FRing) (p : Nat) : Bool :=
  if r.plus = p then r.position = r.dateline else r.length ≠ 0 && r.position = (r.dateline + 1) % r.length

/-- A Selvage port is UP. -/
def State.spUp (s : State) (p : Nat) : Bool := p < 16 && s.fg (R.SP_STATUS p) F.SP_STATUS_state = 8

/-- Where a packet comes from: a unit of the hub, a core of a die (and its engine, where that is in DIRECT mode), or a Selvage port. -/
inductive Origin where
  | unit
  | core (die : Nat) (engine : Option Nat)
  | port (p : Nat)
deriving DecidableEq, Repr

/-- The Selvage port a packet arrived at. -/
def Origin.arrived : Origin → Option Nat
  | .port p => some p
  | _ => none
/-- The die of a core in a DIRECT engine, whose own Selvage port its packets may take (R341). -/
def Origin.directDie : Origin → Option Nat
  | .core d (some _) => some d
  | _ => none
/-- The receive queue of a packet that stays in the module: 16 from a hub unit, 17 + die from a core, 32 + 8·engine + die from one of a DIRECT engine. -/
def Origin.key : Origin → Nat
  | .unit => 16
  | .core d none => 17 + d
  | .core d (some e) => 32 + 8 * e + d % 8
  | .port p => p
/-- The die whose core sent the packets of a receive queue. -/
def keyDie (key : Nat) : Option Nat := if 32 ≤ key then some (key % 8) else if 17 ≤ key && key < 25 then some (key - 17) else none
/-- The DIRECT engine whose core sent the packets of a receive queue. -/
def keyEngine (key : Nat) : Option Nat := if 32 ≤ key then some ((key - 32) / 8) else none
/-- The engine of a packet that leaves its die by the die's own Selvage port and belongs to none. -/
def noEngine : Nat := 2 ^ 16

/-- The origin of a core's packets; 32 is the KPU (R25). -/
def State.originOf (s : State) (core : Nat) : Origin :=
  if core < 32 then .core (core / 4) (match engineOf s.img.cfg core with
    | some e => if engineDirect e then some e.id else none
    | none => none) else .unit

/-- The hidden state of a Selvage port before anything happened to it. -/
def SpSt.empty : SpSt :=
  ⟨0, 0, [], 0, List.replicate 10 0, List.replicate 10 0, List.replicate 10 0, [], [], none, 1000000, [], 0, 0, none, [], [], [], [], none, none, false, [],
    none, (0, 0), (0, 0), none, 0, none, 0, 0, none, none, none⟩

/-- A Selvage port's hidden state. -/
def State.spS (s : State) (p : Nat) : SpSt := tgetD s.sp p SpSt.empty
/-- Changes a Selvage port's hidden state. -/
def State.modSp (s : State) (p : Nat) (f : SpSt → SpSt) : State := { s with sp := tset s.sp p (f (s.spS p)) }

/-- Credits the partner granted on a virtual channel and not yet used. -/
def State.credit (s : State) (p vc : Nat) : Nat := (s.spS p).credits.getD vc 0

/-- Where R343 sends a packet. -/
inductive Route where
  | home
  | port (p : Nat) (fallback : Bool)
  | refuse
deriving DecidableEq, Repr

/-- The candidate with the most free credits on a virtual channel, lowest port on a tie. -/
def State.bestPort (s : State) (vc : Nat) (ps : List Nat) : Option Nat :=
  ps.foldl (fun b p => match b with
    | none => some p
    | some q => if s.credit q vc < s.credit p vc then some p else some q) none

/-- R323, R343: a port carries a packet: it is UP, or UNATTESTED and the packet is this module's MGC's, of class CTRL and activity 0. -/
def State.spTakes (s : State) (p : Packet) (q : Nat) : Bool := s.spUp q || (s.fg (R.SP_STATUS q) F.SP_STATUS_state = 11 && p.cls = 0 && p.act = 0 && !p.transit)

/-- R343: where a packet goes; KPU and ERU traffic is class BULK. -/
def State.route (s : State) (p : Packet) (o : Origin) : Route :=
  if p.dest = s.device then .home
  else
    match tget s.fj.banks p.epoch with
    | none => .refuse
    | some b =>
      let e := routeEntry b p.dest
      if !bit e 4 then .refuse
      else if o.arrived.isSome && p.hop = 63 then .refuse
      else
        let det := bits e 0 4
        let cand0 := indices 16 (fun q => s.spTakes p q && (q = det || bit (bits e 8 16) q))
        let cand := if p.act = 0 || p.act = 255 || p.transit || p.cls = 4 then cand0 else cand0.filter (fun q => 8 ≤ q)
        let direct := match o.directDie with
          | some d => bit (bits e 24 8) d && s.spUp d
          | none => false
        if direct then .port (o.directDie.getD 0) false
        else if p.mode = 0 && s.spTakes p det then .port det false
        else if p.mode = 0 && !bit e 5 then .refuse
        else match s.bestPort p.vc cand with
          | some q => .port q (p.mode = 0)
          | none => .refuse

/-- R344: the level of a packet's virtual channel as it leaves by a port. -/
def State.level (s : State) (p : Packet) (arrived : Option Nat) (out : Nat) : Nat :=
  match tget s.fj.banks p.epoch with
  | none => p.vc % 2
  | some b =>
    match ringOfPort b out with
    | none => 0
    | some r =>
      let low := match arrived with
        | none => true
        | some q => match ringOfPort b q with
          | some r2 => r2.rank ≠ r.rank
          | none => true
      if r.crosses out then 1 else if low then 0 else p.vc % 2

/-- The crossbar port of a Selvage port for an ordering channel (R194, R195). -/
def xbarPort (sp chan : Nat) : Nat := if 8 ≤ sp then 32 + (sp - 8) else 4 * sp + chan % 4

/-- Packets received on a port and not yet taken; from 16 on those that stayed inside the module (Origin.key). -/
def State.rx (s : State) (p : Nat) : List Packet := tgetD s.fj.rx p []

/-- A packet arrives at a receive queue. -/
def State.arrive (s : State) (p : Nat) (k : Packet) : State := { s with fj := { s.fj with rx := tset s.fj.rx p (s.rx p ++ [k]) } }

/-- The extended sequence of a packet by which an answer to it is sealed (R473): for one issued here its own count, else the count nearest to the highest accepted. -/
def State.answerSeq (s : State) (p : Packet) : Nat :=
  nearest (if p.src = s.device then tgetD s.fj.xseq (numKey p.cls p.dest p.chan) 0 else tgetD s.fj.high (numKey p.cls p.src p.chan) 0) p.seq

/-- A NACK for a packet (R335): sealed under the packet's key where it is held, else under the lease key. -/
def State.nackOf (s : State) (p : Packet) (code : Nat) : Option Packet :=
    let kid := if (s.keyOf p.key).isSome then p.key else 0
    match s.keyOf kid with
    | none => none
    | some key =>
      let n : Packet := { p with dest := p.src, src := s.device, cls := 2, vc := 4, epoch := s.epoch, mode := 0, flagged := false, poison := false, transit := false,
                                 op := FOp.nack, key := kid, len := 0, follow := 0, hop := 0, addr := 0, data := [BitVec.ofNat 8 code], tag := [] }
      some (n.seal key (s.answerSeq p))

/-- R194-R196, R25: the crossbar input of a packet that leaves by a Selvage port: the port it came in by, the quarter-port of its die's hub link, 40 the local drop of
a hub unit, 41 none, from a die straight to its own port. -/
def Origin.inp (chan q : Nat) : Origin → Nat
  | .unit => 40
  | .core d e => if e.isSome && d = q then 41 else 4 * d + chan % 4
  | .port a => xbarPort a chan

/-- R343: places a packet on its way; none where it is refused. -/
def State.launch (s : State) (p : Packet) (o : Origin) (iss : Nat) : Option State :=
  match s.route p o with
  | .home => some (s.arrive o.key p)
  | .port q fb =>
    let lv := s.level p o.arrived q
    let k : Packet := { p with vc := 2 * p.cls + lv, hop := p.hop + 1, mode := if fb then 1 else p.mode }
    let h : XHead := ⟨o.inp p.chan q, xbarPort q p.chan, q, if p.transit then 255 else p.act, k, iss⟩
    let t : State := { s with fj := { s.fj with xq := s.fj.xq ++ [h] } }
    some (if fb then t.count R.FJ_CNT_FALLBACK else t)
  | .refuse => none

/-- R512: master id of a packet issued here: the core whose Fjarux unit executes its instruction, else the unit of its class. -/
def State.pktMaster (s : State) (cls iss : Nat) : Nat :=
  match s.seq.running.find? (fun e => e.1 % 8 = 5 && e.2.no = iss && iss ≠ 0) with
  | some e => e.1 / 8
  | none => if cls = 0 then 0x30 else if cls = 3 then 0x33 else if cls = 4 then 0x31 else 0x37

/-- R512: what a packet event carries; `master` 0x37 for one that came in. -/
def pktAttr (master : Nat) (p : Packet) : PmcAttr :=
  ⟨some master, some (if master < 0x20 || master = 0x37 then 0 else if master = 0x30 then 2 else 1), some p.act, some p.cls, none⟩

/-- A NACK leaves the module (R337, R343, R371); one that finds no way is dropped. -/
def State.sendNack (s : State) (n : Packet) : State :=
  let t := (s.count R.FJ_CNT_TX).pmc 57 0x080 1 (pktAttr 0x37 n)
  (t.launch n .unit 0).getD (t.count R.FJ_CNT_NO_ROUTE)

/-- R343 with its refusal: a NACK TARGET_DEAD travels back to the source, whatever the packet's class; this module may be it. -/
def State.dispatch (s : State) (p : Packet) (o : Origin) (iss : Nat) : State :=
  match s.launch p o iss with
  | some t => t
  | none =>
    let t := s.count R.FJ_CNT_NO_ROUTE
    match t.nackOf p Code.targetDead with
    | none => t
    | some n => if n.dest = s.device then t.arrive 16 n else (t.count R.FJ_CNT_REFUSED).sendNack n

/-- R337, R375, R515: a packet is applied at the home ingress and counted. -/
def State.rxCount (s : State) (p : Packet) : State := (s.count R.FJ_CNT_RX).pmc 57 0x081 1 (pktAttr 0x37 p)

/-- The packet a unit issues next on a numbered stream, sealed; none where the Rind does not hold its key (R346, R473). -/
def State.stamp (s : State) (p : Packet) : Option Packet :=
  match s.keyOf p.key with
  | none => none
  | some key =>
    let x := tgetD s.fj.xseq (numKey p.cls p.dest p.chan) 0
    let k : Packet := { p with src := s.device, vc := 2 * p.cls, epoch := s.epoch, transit := false, seq := x % 2 ^ 24, hop := 0, tag := [] }
    some (k.seal key x)

/-- Issues a packet of a numbered class: numbered, sealed, counted and routed. -/
def State.issue (s : State) (p : Packet) (o : Origin) (iss : Nat) : State :=
  match s.stamp p with
  | none => s
  | some k =>
    let n := numKey p.cls p.dest p.chan
    ((({ s with fj := { s.fj with xseq := tset s.fj.xseq n (tgetD s.fj.xseq n 0 + 1) } }).count R.FJ_CNT_TX).pmc 57 0x080 1 (pktAttr (s.pktMaster p.cls iss) p)).dispatch k o iss

/-- Sends a response (class RSP) to a packet: it copies chan, seq and activity, and uses the xseq of the packet it answers (R335, R473). -/
def State.respond (s : State) (q : Packet) (o : Origin) (op : Nat) (poison : Bool) (data : Bytes) : State :=
  match s.keyOf q.key with
  | none => s
  | some key =>
    let k : Packet := { q with dest := q.src, src := s.device, cls := 2, vc := 4, epoch := s.epoch, mode := q.mode, flagged := false, poison := poison, transit := false,
                               op := op, len := data.length - 1, follow := 0, hop := 0, addr := 0, data := data, tag := [] }
    (((s.count R.FJ_CNT_TX).pmc 57 0x080 1 (pktAttr 0x37 k)).dispatch (k.seal key (s.answerSeq q)) o 0)

/-- Refuses a packet with a NACK and counts the refusal (R337, R371); classes CTRL and RSP get no answer. -/
def State.refuse (s : State) (p : Packet) (code : Nat) : State :=
  let t := if code = Code.parkFull then s.count R.FJ_CNT_PARK_FULL else s.count R.FJ_CNT_REFUSED
  match (if p.cls = 0 || p.cls = 2 then none else t.nackOf p code) with
  | none => t
  | some n => t.sendNack n

/-- Drops the heads that satisfy a test: the state and how many. -/
def State.dropHeads (s : State) (f : XHead → Bool) : State × Nat :=
  ({ s with fj := { s.fj with xq := s.fj.xq.filter (fun h => !f h) } }, (s.fj.xq.filter f).length)

/-! ### Pairs (R352-R354) -/

/-- An empty pair. -/
def Pair.empty : Pair := ⟨0, 0, false, none, 0⟩
/-- A pair. -/
def State.pair (s : State) (k : Nat) : Pair := tgetD s.fj.pairs k Pair.empty
/-- Changes a pair. -/
def State.modPair (s : State) (k : Nat) (f : Pair → Pair) : State := { s with fj := { s.fj with pairs := tset s.fj.pairs k (f (s.pair k)) } }
/-- R352: an entry is free when its counts are equal and no FENCE waits on it. -/
def State.pairFree (s : State) (k : Nat) : Bool := (s.pair k).issued = (s.pair k).acked && !(s.fj.fences.any (fun f => f.covers.any (fun c => c.1 = k)))
/-- Entries of a core in use. -/
def State.pairsUsed (s : State) (core : Nat) : Nat := ((s.fj.pairs.filter (fun e => e.1 / 2 ^ 20 = core)).filter (fun e => !s.pairFree e.1)).length
/-- R352: a new packet of a pair finds an entry. -/
def State.pairRoom (s : State) (core k : Nat) : Bool := ((tget s.fj.pairs k).isSome && !s.pairFree k) || decide (s.pairsUsed core < 1024)
/-- The packet an answer concerns: the one sent to its source on its channel with its seq, under its key or, where the home does not hold that, the lease key (R335). -/
def State.sentOf (s : State) (q : Packet) : Option Sent :=
  s.fj.sent.find? (fun e => e.pkt.dest = q.src && e.pkt.chan = q.chan && e.pkt.seq = q.seq && (e.pkt.key = q.key || q.key = 0))

/-- R352: issues a packet that will be acknowledged: it counts in the pair of its core and waits for its answer. -/
def State.issueAcked (s : State) (p : Packet) (core iss : Nat) : State :=
  match s.keyOf p.key with
  | none => s
  | some _ =>
    let x := tgetD s.fj.xseq (numKey p.cls p.dest p.chan) 0
    let e : Sent := ⟨core, iss, s.now, { p with src := s.device, seq := x % 2 ^ 24 }, x⟩
    let user : Nat := match s.running core 5 with
      | some q => if q.no = iss then 2 ^ q.ctx else 0
      | none => 0
    let t := s.modPair (pairKey core p.dest p.chan) (fun q => { q with issued := q.issued + 1, users := q.users ||| user })
    State.issue { t with fj := { t.fj with sent := t.fj.sent ++ [e] } } p (s.originOf core) iss

/-- R348: packets of a numbered stream sent since its last flagged one. -/
def State.followCount (s : State) (k : Nat) : Nat := tgetD s.fj.follow k 0

/-- R348: one more packet of a stream has been sent; a flagged one ends the interval and holds the stream until it is answered. -/
def State.noteSent (s : State) (p : Packet) (xseq : Nat) : State :=
  let k := numKey p.cls p.dest p.chan
  { s with fj := { s.fj with follow := tset s.fj.follow k (if p.flagged then 0 else satAdd 16777215 (s.followCount k) 1),
                             hold := if p.flagged then tset s.fj.hold k (xseq % 2 ^ 24) else s.fj.hold } }

/-- Packets of a numbered stream that wait for their acknowledgement, and loads of it that wait for their data (R348, R473). -/
def State.unanswered (s : State) (cls dest chan : Nat) : Nat :=
  (s.fj.sent.filter (fun e => e.pkt.cls = cls && e.pkt.dest = dest && e.pkt.chan = chan)).length
  + (if cls = 1 then (s.fj.loads.filter (fun l => l.op = FOp.load && l.dev = dest && l.chan = chan)).length else 0)

/-- R348, R473: the stream is held behind a flagged packet, by one that waits for a full interval to be acknowledged, or at 2^22 unacknowledged packets. -/
def State.streamHeld (s : State) (cls dest chan : Nat) (flagged : Bool) : Bool :=
  let k := numKey cls dest chan
  let out := s.unanswered cls dest chan
  (tget s.fj.hold k).isSome || decide (2 ^ 22 ≤ out)
  || (flagged && 16777215 ≤ s.followCount k && out ≠ 0)

/-- R346, R348, R352: issues a packet that will be acknowledged, with its follow count where it is flagged. -/
def State.sendAcked (s : State) (p : Packet) (core iss : Nat) : State :=
  match s.keyOf p.key with
  | none => s
  | some _ =>
    let k := numKey p.cls p.dest p.chan
    let n := s.followCount k
    let q : Packet := if p.flagged then { p with follow := if 16777215 ≤ n then 0 else n } else p
    (s.issueAcked q core iss).noteSent q (tgetD s.fj.xseq k 0)

/-- Clears the pairs that satisfy a test on their key (R354, R357, R370): counts zeroed, their packets forgotten, their streams released. -/
def State.clearPairs (s : State) (f : Nat → Bool) : State :=
  let gone (e : Sent) : Bool := f (pairKey e.core e.pkt.dest e.pkt.chan)
  let streams := (s.fj.sent.filter gone).map (fun e => numKey e.pkt.cls e.pkt.dest e.pkt.chan)
  { s with fj := { s.fj with pairs := s.fj.pairs.filter (fun e => !f e.1), sent := s.fj.sent.filter (fun e => !gone e),
                             retry := s.fj.retry.filter (fun e => !gone e.1), hold := s.fj.hold.filter (fun e => !streams.contains e.1) } }

/-! ### Draining an epoch (R359, R360) -/

/-- Key of a port and virtual channel. -/
def pvKey (p vc : Nat) : Nat := 16 * p + vc

/-- R359: markers have arrived on every virtual channel of a port, or the port is not UP. -/
def State.marked (s : State) (p : Nat) : Bool := !s.spUp p || (List.range 10).all (fun v => s.fj.marksIn.contains (pvKey p v))

/-- R359: input (q, w) can feed output (p, v), by the routing bank in force. -/
def State.feeds (s : State) (q w p v : Nat) : Bool :=
  match tget s.fj.banks s.epoch with
  | none => false
  | some b => match ringOfPort b p, ringOfPort b q with
    | some rp, some rq =>
      let opp := rq.rank = rp.rank && ((rp.plus = p && rq.minus = q) || (rp.minus = p && rq.plus = q))
      decide (rq.rank < rp.rank) || (opp && (w = v || (w % 2 = 0 && v = w + 1 && rp.crosses p)))
    | _, _ => false

/-- R359: the marker of an output may leave: every UP input that can feed it is marked. -/
def State.markReady (s : State) (p v : Nat) : Bool :=
  s.spUp p && !s.fj.marksOut.contains (pvKey p v)
  && (List.range 16).all (fun q => !s.spUp q || (List.range 10).all (fun w => !s.feeds q w p v || s.fj.marksIn.contains (pvKey q w)))

/-- The old epoch while a drain is in progress. -/
def State.oldEpoch (s : State) : Nat := 1 - s.epoch

/-- R360: no packet of the old epoch waits in a queue of this module, the ingress queue and the packets granted that wait for credits among them; parked ones do not count. -/
def State.noOld (s : State) : Bool :=
  let o := s.oldEpoch
  s.sp.all (fun e => e.2.tail.isNone || e.2.tailEpoch ≠ o) && s.fj.xq.all (fun h => h.pkt.epoch ≠ o || h.pkt.op = FOp.drain) && s.fj.rx.all (fun e => e.2.all (fun k => k.epoch ≠ o || k.op = FOp.drain)) && s.fj.ingress.all (fun e => e.2.epoch ≠ o)

/-- A DRAIN marker (R335, R336). -/
def State.marker (s : State) (p v : Nat) : XHead :=
  ⟨40, xbarPort p 0, p, 0, ⟨s.device, s.device, v / 2, v, s.oldEpoch, 0, false, false, false, 0, 0, FOp.drain, 0, 0, 0, 0, 0, 0, [], zeros 12⟩, 0⟩

/-- R359, R360: sends every marker that may leave, and frees the old bank once every input is marked and no old packet waits. -/
def State.drainPump (s : State) : State :=
  if !s.fb R.FJ_EPOCH F.FJ_EPOCH_draining then s
  else
    let t := (List.range 16).foldl (fun u p => (List.range 10).foldl (fun w v =>
      if w.markReady p v then { w with fj := { w.fj with xq := w.fj.xq ++ [w.marker p v], marksOut := pvKey p v :: w.fj.marksOut } } else w) u) s
    let u := t.fs R.FJ_EPOCH F.FJ_EPOCH_marked (maskOf (indices 16 t.marked))
    if (List.range 16).all u.marked && u.noOld then (u.fs R.FJ_EPOCH F.FJ_EPOCH_free 1).fs R.FJ_EPOCH F.FJ_EPOCH_draining 0 else u

/-- R358, EPOCH_SWITCH: the bank written last becomes the epoch in force, and the old one begins to drain. -/
def State.epochSwitch (s : State) : State :=
  let t := ((((s.fs R.FJ_STATUS F.FJ_STATUS_epoch (1 - s.epoch)).fs R.FJ_EPOCH F.FJ_EPOCH_issued 1).fs R.FJ_EPOCH F.FJ_EPOCH_free 0).fs R.FJ_EPOCH F.FJ_EPOCH_draining 1)
  State.drainPump { t with fj := { t.fj with marksIn := [], marksOut := [] } }

end Machine
end Sys2Proof
end

