-- ==== Sys2Proof/Machine/Attest.lean ====
section
/-!
DEFINITION. Keys, certificates and attestation reports of the Rind (R456-R458, R465, R467, R552).
-/
namespace Sys2Proof
namespace Machine

/-- R457: the identity scalar, from the unclonable source and the fuse seed; none once DEBUG_UNLOCK erased it (R481). -/
def State.ik (s : State) : Option Nat :=
  if s.keys.erased then none
  else some (beNat (hkdf384 s.fuses.seed ((List.range 64).map (Config.unclonable (leNat s.fuses.serial))) (ascii "QSN8 identity") 64) % (EC.n - 1) + 1)

/-- R456: the attestation scalar of this start. -/
def State.ak (s : State) : Option Nat := if s.keys.erased then none else some (Config.attestKey s.store.bootCount % (EC.n - 1) + 1)

/-- A random scalar of the Rind (R458), and the state past it. -/
def State.scalar (s : State) : Nat × State :=
  let r := s.random 48
  (beNat r.1 % (EC.n - 1) + 1, r.2)

/-- Ephemeral scalars that State keeps, by number of their first random byte. -/
def scalarAt (k : Nat) : Nat := beNat ((List.range 48).map (fun i => Config.randomByte (k + i))) % (EC.n - 1) + 1

/-- R458: the certificate of this start's attestation key, signed by IK, with the subject of the identity certificate; none once the keys are erased (R481). -/
def State.akCert (s : State) : Bytes := match s.ik, s.ak, certOf s.store.certs with
  | some i, some a, some (idc, _) =>
    let b := s.store.bootCount
    let tbs := akTbs (Config.akSerial b) idc.subject Config.bootCountOid (pubOf a) b
    derCert tbs (ecdsaSign i (Config.akSigScalar b) (sha384 tbs))
  | _, _, _ => []

/-- R458: the chain the module sends: AK, identity and device CA certificates. -/
def State.chain (s : State) : Bytes := s.akCert ++ s.store.certs

/-- Six 8-byte registers as 48 bytes. -/
def State.digestReg (s : State) (reg : Nat → Nat) : Bytes := (List.range 6).flatMap (fun j => leBytes 8 (s.rd (reg j)).toNat)

/-- R465: bytes 0 to 295 + 48m of a report. -/
def State.reportBody (s : State) (nonce : Bytes) : Bytes :=
  let set := s.fg R.IMG_ACTIVE F.IMG_ACTIVE_in_force
  let ov := (maskList 16 set).map (fun i => match tget s.img.overlays i with
    | some o => o.digest
    | none => zeros 48)
  let flags := s.fg R.KPU_STATUS F.KPU_STATUS_feed_override + 2 * b2n s.fuses.debugEver + 4 * s.fg R.RIND_STATUS F.RIND_STATUS_owned + 8 * s.fg R.RIND_STATUS F.RIND_STATUS_boot_slot
  leBytes 4 0x54415351 ++ leBytes 2 1 ++ leBytes 2 (392 + 48 * ov.length) ++ s.fuses.serial ++ slice nonce 0 48
    ++ (if s.fb R.RIND_STATUS F.RIND_STATUS_owned then slice s.store.ownerId 0 16 else zeros 16)
    ++ s.runningFw.fwDigest ++ s.runningFw.setDigest ++ s.digestReg R.IMG_BASE_DIGEST ++ s.digestReg R.IMG_CFG_DIGEST
    ++ leBytes 2 set ++ leBytes 1 (bits s.fuses.capability 48 8) ++ leBytes 1 flags ++ leBytes 1 s.mstate ++ leBytes 1 s.fuses.rollback
    ++ leBytes 2 s.runningFw.level ++ leBytes 4 s.store.bootCount ++ zeros 4 ++ ov.flatten

/-- R465: a signed report on a nonce; none without the attestation key. -/
def State.report (s : State) (nonce : Bytes) : Option (Bytes × State) :=
  match s.ak with
  | none => none
  | some d =>
    let k := s.scalar
    let b := s.reportBody nonce
    some (b ++ ecdsaSign d k.1 (sha384 b), k.2)

/-- A partner's report cut into fields (R465). -/
structure Report where
  body : Bytes
  sig : Bytes
  serial : Bytes
  nonce : Bytes
  owner : Bytes
  fw : Bytes
  level : Nat
  arith : Nat
  flags : Nat
  state : Nat
  boot : Nat
deriving DecidableEq, Repr

/-- R465: reads a report; none where its head is wrong. -/
def reportOf (b : Bytes) : Option Report :=
  let n := b.length
  if fieldAt b 0 4 = 0x54415351 && fieldAt b 4 2 = 1 && fieldAt b 6 2 = n && decide (392 ≤ n) then
    some ⟨b.take (n - 96), b.drop (n - 96), slice b 8 16, slice b 24 48, slice b 72 16, slice b 88 48, fieldAt b 286 2, fieldAt b 282 1, fieldAt b 283 1, fieldAt b 284 1, fieldAt b 288 4⟩
  else none

/-- R467 checks 1 and 2, R472: the chain verifies to the root, and the report is signed by its AK on the expected nonce. -/
def State.reportOk (s : State) (chain report nonce : Bytes) : Option (Report × Bytes) :=
  match chainOk s.store.root chain, reportOf report with
  | some ak, some r => if ecdsaOk ak.pub (sha384 r.body) r.sig && r.nonce = nonce then some (r, ak.serialName) else none
  | _, _ => none

/-- R467: the code of a partner's LATTEST; `ident` is its IDENT (R314), `expect` the WIRING field. -/
def State.attestCode (s : State) (chain report nonce ident : Bytes) (expect : Nat) : Nat :=
  match s.reportOk chain report nonce with
  | none => Code.badSignature
  | some (r, name) =>
    if name ≠ serialHex (slice ident 8 16) then Code.badSignature
    else if r.serial ≠ slice ident 8 16 || r.fw ≠ slice ident 32 48 then Code.badSignature
    else if !bit r.flags 2 || !s.fb R.RIND_STATUS F.RIND_STATUS_owned || r.owner ≠ slice s.store.ownerId 0 16 then Code.keyUnknown
    else if bit r.flags 1 then Code.notPermitted
    else if r.state < 3 || 8 < r.state || (r.state = 8 && expect ≠ 2) then Code.notPermitted
    else Code.ok

/-- R468, R472, R475: the key material of an ECDH, by HKDF. -/
def kdf (z salt : Bytes) (info : String) (len : Nat) : Bytes := hkdf384 salt z (ascii info) len

end Machine
end Sys2Proof
end

