-- ==== Sys2Proof/Machine/StreamBase.lean ====
section
/-!
DEFINITION. Stream ports (R284-R289): staging, credit and counts, stream vectors (R299, R300), and records of secure channels (R476, R477).
-/
namespace Sys2Proof
namespace Machine

/-- The words waiting in a stream port's staging FIFO; the mark tells the first word of a write to offset 0 of the aperture (R478). -/
def State.staging (s : State) (n : Nat) : List (Word × Bool) := tgetD s.host.staging n []
/-- Sets the words waiting in a stream port's staging FIFO. -/
def State.setStaging (s : State) (n : Nat) (l : List (Word × Bool)) : State := { s with host := { s.host with staging := if l.isEmpty then tdel s.host.staging n else tset s.host.staging n l } }
/-- Words of a port outside its FIFO: decrypted and not yet delivered, or output for which the FIFO has no room. -/
def State.plain (s : State) (n : Nat) : List Word := tgetD s.host.plain n []
/-- Sets the words of a port outside its FIFO. -/
def State.setPlain (s : State) (n : Nat) (l : List Word) : State := { s with host := { s.host with plain := if l.isEmpty then tdel s.host.plain n else tset s.host.plain n l } }

/-- R284: words of a staging FIFO: 16 MiB over 4,096 ports. -/
def stagingRoom : Nat := 512

/-- R475: a secure channel is open; channel 0 is clear. -/
def State.chanOpen (s : State) (c : Nat) : Bool := c = 0 || (tget s.rind.chans c).isSome

/-- Slots of a far ring that are free. -/
def State.farFree (s : State) (n slots : Nat) : Nat := tgetD s.host.farFree n slots
/-- A far ring's fill slot and position. -/
def State.farRing (s : State) (n : Nat) : RingSt := tgetD s.host.farRing n ⟨0, 0, 0⟩

/-- R286: free words at the destination of an input port. -/
def State.destFree (s : State) (n : Nat) (c : StreamCfg) : Nat :=
  if c.kind = 0 then
    match ringCfg s.img.cfg c.dest with
    | some r => (r.slots - s.ringUsed c.dest - s.slotFull c.dest) * (r.size / 8) - (s.ring c.dest).pos / 8
    | none => 0
  else if c.kind = 1 then s.farFree n c.farSlots * (c.farSlot / 8) - (s.farRing n).pos / 8
  else 0

/-- R287: a snapshot pause is in progress. -/
def State.inSnapshot (s : State) : Bool := match s.pause with
  | some p => p.snapshot
  | none => false

/-- R286, R287, R426, R476: the credit of an input port. -/
def State.streamCredit (s : State) (n : Nat) (c : StreamCfg) : Nat :=
  if !s.chanOpen c.channel || (c.act ≠ 0 && s.kpu.full) then 0
  else stagingRoom + (if s.inSnapshot then 0 else s.destFree n c) - (s.staging n).length - (s.plain n).length

/-- R302: the count of a port: credit of an input, words of an output. -/
def State.streamCount (s : State) (n : Nat) : Nat := match streamCfg s.img.cfg n with
  | none => 0
  | some c => if c.output then (if s.chanOpen c.channel then (s.staging n).length else 0) else s.streamCredit n c

/-- HPx_STREAM_STATUSn, which reads the same in both blocks (R302). -/
def State.streamStatus (s : State) (n : Nat) : Nat := match streamCfg s.img.cfg n with
  | none => bits (s.rd (R.HP_STREAM_STATUS 0 n)).toNat 32 16 * 2 ^ 32
  | some c => min (s.streamCount n) 0xFFFFF + 2 ^ 20 + b2n c.output * 2 ^ 21 + c.act * 2 ^ 22 + c.hosts % 4 * 2 ^ 30 + bits (s.rd (R.HP_STREAM_STATUS 0 n)).toNat 32 16 * 2 ^ 32

/-- R286: a dropped TLP is counted. -/
def State.streamDrop (s : State) (n : Nat) : State := s.fsat (R.HP_STREAM_STATUS 0 n) F.HP_STREAM_STATUS_dropped 1

/-! ### Stream vectors (R299, R300) -/

/-- R300: one condition on a stream vector of a host port: sent, or merged into one message at the end of the interval. -/
def State.streamVector (s : State) (port v : Nat) : State :=
  let k := 64 * port + v
  let w := 1000 * s.fg (R.HP_MSIX_MOD port) F.HP_MSIX_MOD_interval
  let busy := match tget s.host.modStart k with
    | some t => decide (s.now < t + w)
    | none => false
  if busy then { s with host := { s.host with vecPending := tset s.host.vecPending k 1 } }
  else
    let t := s.msixNow port v
    { t with host := { t.host with modStart := tset t.host.modStart k t.now } }

/-- R299: the ports whose count rose to their notify_words signal their vector on the hosts they permit. -/
def State.streamNotify (old new : State) : State :=
  (recsOf new.img.cfg RT.stream).foldl (fun (t : State) r =>
    let w := r.at 26 2
    if w ≠ 0 && decide (old.streamCount r.id < w) && decide (w ≤ new.streamCount r.id) then
      (List.range 2).foldl (fun (u : State) h => if bit (r.at 2 1) h then u.streamVector h (8 + r.id % 56) else u) t
    else t) new

/-! ### Words and records -/

/-- Bytes as 64-bit little-endian words; a tail shorter than a word is padded with zeros. -/
def wordsOf (bs : Bytes) : List Word := (chunks 8 bs).map (fun c => BitVec.ofNat 64 (leNat c))
/-- Words as bytes. -/
def bytesOf (ws : List Word) : Bytes := ws.flatMap (fun w => leBytes 8 w.toNat)

/-- R477: one output record of at most 1,024 words. -/
def Chan.record (c : Chan) (chan port : Nat) (ws : List Word) : List Word :=
  let head := leBytes 2 chan ++ zeros 2 ++ leBytes 4 ws.length ++ leBytes 8 c.outNo
  let r := gcmSeal c.kout (c.sout ++ leBytes 8 c.outNo) (head ++ leBytes 2 port) (bytesOf ws) 16
  wordsOf (head ++ r.1 ++ r.2)

/-- The output words of one SOUT as its records, each of at most 1,024 words; `fuel` bounds their number. -/
def Chan.records : Nat → Chan → Nat → Nat → List Word → List Word × Chan
  | 0, c, _, _, _ => ([], c)
  | fuel + 1, c, chan, port, ws =>
    if ws.isEmpty then ([], c)
    else
      let x := Chan.records fuel { c with outNo := c.outNo + 1 } chan port (ws.drop 1024)
      (c.record chan port (ws.take 1024) ++ x.1, x.2)

/-- R477: words as they leave through a port: clear on channel 0, else as records. -/
def State.sealOut (s : State) (port chan : Nat) (ws : List Word) : List Word × State :=
  match tget s.rind.chans chan with
  | some c =>
    let r := Chan.records (ws.length + 1) c chan port ws
    (r.1, { s with rind := { s.rind with chans := tset s.rind.chans chan r.2 } })
  | none => (ws, s)

/-- R289: words move from outside an output FIFO into it while it has room. -/
def State.fillOut (s : State) (n : Nat) : State :=
  let k := stagingRoom - (s.staging n).length
  if (s.plain n).isEmpty || k = 0 then s
  else (s.setStaging n (s.staging n ++ ((s.plain n).take k).map (fun w => (w, false)))).setPlain n ((s.plain n).drop k)

/-- R289, R477: words are appended to an output port. -/
def State.putOut (s : State) (n chan : Nat) (ws : List Word) : State :=
  let r := s.sealOut n chan ws
  (r.2.setPlain n (r.2.plain n ++ r.1)).fillOut n

end Machine
end Sys2Proof
end

