-- ==== Sys2Proof/Machine/Operands.lean ====
section
/-!
DEFINITION. Operand forms of the sequencer's 128-bit words (R120-R132): common fields, tensor descriptors and their resolution
at issue (R122, R123), and which descriptors each instruction names.
-/
namespace Sys2Proof
namespace Machine

/-- R120: the opcode of a word. -/
def wOp (w : Nat) : Nat := bits w 0 8
/-- R120: the completion counter. -/
def wCcnt (w : Nat) : Nat := bits w 8 5
/-- R120: cen. -/
def wCen (w : Nat) : Bool := bit w 13

/-- R80, R122: bits of one element of a format code; 0x1F is LF128. -/
def fmtBits (code : Nat) : Nat := if code = 0x1F then 128 else match fmtOf code with
  | some f => f.bits
  | none => 8

/-- R122: the packed row length in bytes. -/
def packedRow (code cols : Nat) : Nat := cdiv (cols * fmtBits code) 8

/-- R122: the byte base of a descriptor word; none while its ring holds no complete slot (R123). -/
def State.tdBase (s : State) (core w : Nat) : Option Nat :=
  if bit w 21 then
    let id := 16 * core + bits w 22 4
    match ringCfg s.img.cfg id with
    | some c => if s.ringUsed id = 0 then none else some (c.base + (s.ring id).head * c.size + bits w 26 23 * 64)
    | none => none
  else some (bits w 22 27)

/-- R122, R123: a descriptor of a context resolved at issue. -/
def State.resolve (s : State) (x td : Nat) : Option Desc :=
  let w := tgetD (s.ctx x).tds td 0
  match s.tdBase (x / 4) w with
  | none => none
  | some b =>
    let sw := tgetD (s.ctx x).tds (bits w 105 5) 0
    let sc := bit w 110
    match (if sc then s.tdBase (x / 4) sw else some 0) with
    | none => none
    | some sb => some ⟨b, bits w 49 13, bits w 62 13, bits w 75 24, bits w 99 5, bit w 104, sc, sb, bits sw 75 24, bits sw 62 13⟩

/-- R125: the number of sources a VOP function reads. -/
def vopSources (func : Nat) : Nat :=
  if func = 3 then 3 else if func ≤ 2 || (4 ≤ func && func ≤ 7) || func = 0x13 then 2 else 1

/-- The descriptors an instruction names, in the order its fields stand (R124-R131). A barrier's are ignored (R381). -/
def wTds (w : Nat) : List Nat :=
  match wOp w with
  | 0x08 => [bits w 16 5]
  | 0x09 => [bits w 16 5]
  | 0x0A => [bits w 16 5]
  | 0x0B => [bits w 16 5]
  | 0x20 => [bits w 16 5, bits w 21 5, bits w 26 5]
  | 0x30 => (bits w 16 5) :: ([bits w 21 5, bits w 26 5, bits w 31 5].take (vopSources (bits w 36 8)))
  | 0x40 => [bits w 16 5]
  | 0x42 => [bits w 16 5]
  | 0x50 => [bits w 16 5]
  | 0x51 => [bits w 16 5]
  | 0x52 => if bit w 29 then [bits w 16 5, bits w 96 5] else [bits w 16 5]
  | 0x60 => if bits w 22 4 = 4 then [] else [bits w 26 5, bits w 31 5]
  | _ => []

/-- Every element of a list of options, if all are there. -/
def allSome {α : Type} : List (Option α) → Option (List α)
  | [] => some []
  | none :: _ => none
  | some a :: r => (allSome r).map (fun t => a :: t)

/-- The descriptors of an instruction resolved at issue; none where a ring-mode one finds no complete slot (R123). -/
def State.wDescs (s : State) (x w : Nat) : Option (List Desc) := allSome ((wTds w).map (s.resolve x))

/-- The unit of an opcode (R121): 0 array, 1 vector, 2 move, 4 route, 5 Fjarux, 6 collective; none for the sequencer itself. -/
def wUnit (w : Nat) : Option Nat :=
  match wOp w with
  | 0x08 => some 2
  | 0x09 => some 2
  | 0x0A => some 2
  | 0x0B => some 2
  | 0x20 => some 0
  | 0x30 => some 1
  | 0x40 => some 4
  | 0x42 => some 4
  | 0x50 => some 5
  | 0x51 => some 5
  | 0x52 => some 5
  | 0x58 => some 5
  | 0x60 => some 6
  | _ => none

/-- The byte extent of a descriptor in SRAM. -/
def Desc.extent (d : Desc) : Nat := (d.rows - 1) * d.stride + packedRow d.fmt d.cols

/-- The raw elements of one stored row of a descriptor. -/
def rowRaw (fmt cols : Nat) (bs : Bytes) : List Nat :=
  let b := fmtBits fmt
  let n := leNat bs
  (List.range cols).map (fun i => bits n (i * b) b)

/-- Packs raw elements of `b` bits into bytes (R82). -/
def packRaw (b : Nat) (xs : List Nat) : Bytes :=
  leBytes (cdiv (xs.length * b) 8) ((xs.zipIdx).foldl (fun t p => t + p.1 % 2 ^ b * 2 ^ (p.2 * b)) 0)

/-- The stored rows of a descriptor as raw elements. -/
def State.descRows (s : State) (core : Nat) (d : Desc) : List (List Nat) :=
  (List.range d.rows).map (fun r => rowRaw d.fmt d.cols (s.memRdN (sramKey core (d.base + r * d.stride)) (packedRow d.fmt d.cols)))

/-- Swaps rows and columns. -/
def transpose {α : Type} (cols : Nat) (m : List (List α)) : List (List α) :=
  (List.range cols).map (fun c => m.filterMap (fun r => r[c]?))

/-- R81: rows and row length of the scale tensor of an operand, one byte per block of 32 elements along K: with K along the stored rows one row of blocks for each
stored row, else one row for each 32 stored rows, in the order of the stored columns (the layout is the model's: DESIGN CHOICE; assumption log 64). -/
def Desc.scaleShape (d : Desc) (along : Bool) : Nat × Nat := if along then (d.rows, cdiv d.cols 32) else (cdiv d.rows 32, d.cols)

/-- The marks met by reading a descriptor's extent row by row, scales included (R154). `along`: K runs along a stored row. -/
def State.descEcc (s : State) (core : Nat) (d : Desc) (along : Bool) : State × Bool :=
  let one (acc : State × Bool) (a n : Nat) : State × Bool :=
    let k := sramKey core a
    let r := acc.1.eccRead (k / 8) ((k + n + 7) / 8)
    (r.1, acc.2 || r.2)
  let t := (List.range d.rows).foldl (fun acc r => one acc (d.base + r * d.stride) (packedRow d.fmt d.cols)) (s, false)
  if d.scaled then
    (List.range (d.scaleShape along).1).foldl (fun acc r => one acc (d.scaleBase + r * d.scaleStride) (d.scaleShape along).2) t
  else t

/-- R81: the scale code of an element (stored row r, stored column c): one byte per block of 32 along K. `alongRow`: K runs along a stored row. The col_major
bit of the scale tensor's own descriptor has no meaning here (DESIGN CHOICE; assumption log 64). -/
def State.scaleOf (s : State) (core : Nat) (d : Desc) (alongRow : Bool) (r c : Nat) : Nat :=
  if !d.scaled then 127
  else if alongRow then (s.memRd (sramKey core (d.scaleBase + r * d.scaleStride + c / 32))).toNat
  else (s.memRd (sramKey core (d.scaleBase + r / 32 * d.scaleStride + c))).toNat

/-- The stored rows of a descriptor as numbers. -/
def State.descNums (s : State) (core : Nat) (d : Desc) (alongRow : Bool) : List (List Num) :=
  match fmtOf d.fmt with
  | none => []
  | some f => ((s.descRows core d).zipIdx).map (fun p => (p.1.zipIdx).map (fun q =>
      let n := decodeRaw f q.1
      if d.scaled then scaleNum f (s.scaleOf core d alongRow p.2 q.2) n else n))

/-- Writes one stored row of raw elements. -/
def State.writeRow (s : State) (core base stride b r : Nat) (xs : List Nat) : State := s.sramWrite core (base + r * stride) (packRaw b xs)

end Machine
end Sys2Proof
end

