-- ==== Sys2Proof/Machine/Seq.lean ====
section
/-!
DEFINITION. The sequencer (R116-R119, R132-R135): fetch, arbitration, issue into the unit queues, counters, loops, branches and park points.
-/
namespace Sys2Proof
namespace Machine

/-- R116: the instruction word at an index; an index above the program is NOP. -/
def State.fetch (s : State) (core pc : Nat) : Nat := (tgetD s.seq.imem core []).getD pc 0

/-- The word a context issues next. -/
def State.nextWord (s : State) (x : Nat) : Nat := s.fetch (x / 4) (s.ctxPc x)

/-- A pause that parks the core has been requested (R148). -/
def State.pauseAsked (s : State) (core : Nat) : Bool := s.fb (R.SEQ_STATUS (core / 4) (core % 4)) F.SEQ_STATUS_snapshot_pending

/-- R147: a context held by test_hold, which takes effect only in TEST. -/
def State.testHeld (s : State) (x : Nat) : Bool := s.inTest && bit (s.fg (R.SEQ_CTL (x / 16) (x / 4 % 4)) F.SEQ_CTL_test_hold) (x % 4)

/-- The sequencer may look at a context at all: it runs or waits, its core and die work and are not parked, no fatal or trip state, not held; a held
context counts as parked in a pause and then takes no step (R135). -/
def State.canLook (s : State) (x : Nat) : Bool :=
  decide (x < 128) && (s.ctxState x = 1 || s.ctxState x = 2) && !(s.ctx x).atStep && !s.coreDead (x / 4) && s.dieUp (x / 16)
  && decide (4 ≤ s.mstate) && decide (s.mstate ≤ 8) && (!s.testHeld x || ((s.ctx x).held && !s.pauseAsked (x / 4)))
  && !s.fb (R.SEQ_STATUS (x / 16) (x / 4 % 4)) F.SEQ_STATUS_parked

/-- R368: while HELD no JST, JLD, JAT or COLL issues. -/
def State.heldStop (s : State) (w : Nat) : Bool := s.heldNow && (wOp w = 0x50 || wOp w = 0x51 || wOp w = 0x52 || wOp w = 0x60)

/-- R118, R123, R132: the next instruction can execute or enter its unit's queue. -/
def State.ready (s : State) (x : Nat) : Bool :=
  let w := s.nextWord x
  match wUnit w with
  | some u => decide ((s.queue (x / 4) u).length < 4) && (s.wDescs x w).isSome && !s.heldStop w
  | none => if wOp w = 0x70 then decide (bits w 32 32 ≤ s.cnt (x / 4) (bits w 16 5)) else true

/-- R118: eligible. -/
def State.eligible (s : State) (x : Nat) : Bool := s.canLook x && s.ready x

/-- R118: an ELASTIC context that has not issued for 4,096 ACLK while it was eligible. -/
def State.starved (s : State) (x : Nat) : Bool := decide (4096 ≤ tgetD s.seq.waited x 0)

/-- R118: the ACLK that pass in `n` ns count for every bound context that is eligible meanwhile: nothing else happens in them. -/
def State.waitClocks (s : State) (n : Nat) : State :=
  { s with seq := { s.seq with waited := s.seq.ctx.foldl (fun (w : Tab Nat) e =>
    if e.2.bound && s.eligible e.1 then tset w e.1 (tgetD w e.1 0 + s.aclkBetween (e.1 / 16) s.now (s.now + n)) else w) s.seq.waited } }

/-- The first context after the last issuer, in turn, that satisfies a test. -/
def turn (last : Nat) (p : Nat → Bool) : Option Nat := [last + 1, last + 2, last + 3, last + 4].map (· % 4) |>.find? p

/-- R118: the context of a core that issues next. -/
def State.arbiter (s : State) (core : Nat) : Option Nat :=
  let last (high : Bool) : Nat := tgetD s.seq.lastIssued (2 * core + b2n high) 3
  let hi (k : Nat) : Bool := actHigh s.img.cfg (s.ctxAct (4 * core + k))
  match turn (last false) (fun k => s.eligible (4 * core + k) && !hi k && s.starved (4 * core + k)) with
  | some k => some k
  | none => match turn (last true) (fun k => s.eligible (4 * core + k) && hi k) with
    | some k => some k
    | none => turn (last false) (fun k => s.eligible (4 * core + k))

/-- Bookkeeping of an issue: turn order, the waiting time, a spent test step, and the context runs. -/
def State.issued (s : State) (x : Nat) : State :=
  let core := x / 4
  let u := s.modCtx x (fun c => { c with held := false })
  State.pmc { u.setCtx x 1 with seq := { (u.setCtx x 1).seq with waited := tdel u.seq.waited x, lastIssued := tset u.seq.lastIssued (2 * core + b2n (actHigh s.img.cfg (s.ctxAct x))) (x % 4) } } core 0x00A 1 (coreAttr core (s.ctxAct x))

/-- R132: where control goes after the instruction at `pc`, through the loops that end there. -/
def afterLoops (pc : Nat) : List LoopSt → Nat × List LoopSt
  | [] => (pc + 1, [])
  | l :: r =>
    if l.last ≠ pc then (pc + 1, l :: r)
    else if l.left ≠ 0 then (l.first, { l with left := l.left - 1 } :: r)
    else afterLoops pc r

/-- Moves a context past the instruction it issued. -/
def State.advance (s : State) (x : Nat) : State :=
  let r := afterLoops (s.ctxPc x) (s.ctx x).loops
  (s.modCtx x (fun c => { c with loops := r.2 })).fs (ctxReg x) F.SEQ_CTX_STATUS_pc r.1

/-- R132: a branch; loops whose body does not hold the target end. -/
def State.branch (s : State) (x target : Nat) : State :=
  (s.modCtx x (fun c => { c with loops := c.loops.dropWhile (fun l => !(l.first ≤ target && target ≤ l.last)) })).fs (ctxReg x) F.SEQ_CTX_STATUS_pc target

/-- R135: a context that reaches a park point while a pause is asked for is PARKED; otherwise it waits. -/
def State.block (s : State) (x : Nat) : State := s.setCtx x (if s.pauseAsked (x / 4) then 3 else 2)

/-- The next instruction of a context has this opcode and the sequencer looks at it. -/
def State.at_ (s : State) (core ctx op : Nat) : Bool := core < 32 && ctx < 4 && s.canLook (4 * core + ctx) && wOp (s.nextWord (4 * core + ctx)) = op

/-- Issue of an instruction the sequencer executes itself: only the context the arbiter names issues (R118). -/
def seqIssue (core ctx op : Nat) (f : State → Nat → Nat → State) (s : State) : Answer :=
  let x := 4 * core + ctx
  occurs (s.at_ core ctx op && s.arbiter core = some ctx) s (f (s.issued x) x (s.nextWord x))

/-- Issue into a unit's queue: the descriptors are captured (R119); a ring-mode descriptor without a complete slot blocks (R123). -/
def State.enqueue (s : State) (x : Nat) : State :=
  let core := x / 4
  let w := s.nextWord x
  match wUnit w, s.wDescs x w with
  | some u, some ds =>
    let q : QIns := ⟨core, x % 4, s.ctxPc x, w, s.ctxAct x, s.seq.issueNo, ds, 0, 0, 0, 1, 0, 0, 0⟩
    let t := (s.issued x).setQueue core u (s.queue core u ++ [q])
    { t with seq := { t.seq with issueNo := t.seq.issueNo + 1 } }.advance x
  | _, _ => s.block x

/-- R119, R123: a unit instruction issues, or the context blocks at a ring without a complete slot or, HELD, at a remote instruction (R368); a full queue holds it where it is. -/
def unitIssue (core ctx op : Nat) (s : State) : Answer :=
  let x := 4 * core + ctx
  let w := s.nextWord x
  if s.at_ core ctx op && ((s.wDescs x w).isNone || s.heldStop w) then .next (s.block x)
  else occurs (s.at_ core ctx op && s.arbiter core = some ctx) s (s.enqueue x)

/-- NOP (R121). -/
def execNop (core ctx : Nat) (s : State) : Answer := seqIssue core ctx 0x00 (fun t x _ => t.advance x) s
/-- TDSET (R122): the descriptor word is kept. -/
def execTdset (core ctx : Nat) (s : State) : Answer :=
  seqIssue core ctx 0x01 (fun t x w => (t.modCtx x (fun c => { c with tds := tset c.tds (bits w 16 5) w })).advance x) s
/-- BLD (R127). -/
def execBld (core ctx : Nat) (s : State) : Answer := unitIssue core ctx 0x08 s
/-- BST (R127). -/
def execBst (core ctx : Nat) (s : State) : Answer := unitIssue core ctx 0x09 s
/-- XLD (R127). -/
def execXld (core ctx : Nat) (s : State) : Answer := unitIssue core ctx 0x0A s
/-- XST (R127). -/
def execXst (core ctx : Nat) (s : State) : Answer := unitIssue core ctx 0x0B s
/-- MMA (R124). -/
def execMma (core ctx : Nat) (s : State) : Answer := unitIssue core ctx 0x20 s
/-- VOP (R125). -/
def execVop (core ctx : Nat) (s : State) : Answer := unitIssue core ctx 0x30 s
/-- RSEND (R128). -/
def execRsend (core ctx : Nat) (s : State) : Answer := unitIssue core ctx 0x40 s
/-- SOUT (R128). -/
def execSout (core ctx : Nat) (s : State) : Answer := unitIssue core ctx 0x42 s
/-- JST (R129). -/
def execJst (core ctx : Nat) (s : State) : Answer := unitIssue core ctx 0x50 s
/-- JLD (R129). -/
def execJld (core ctx : Nat) (s : State) : Answer := unitIssue core ctx 0x51 s
/-- JAT (R129). -/
def execJat (core ctx : Nat) (s : State) : Answer := unitIssue core ctx 0x52 s
/-- FENCE (R130). -/
def execFence (core ctx : Nat) (s : State) : Answer := unitIssue core ctx 0x58 s

/-- RREL (R143): the head slot is freed; a ring without a complete slot stops the context with OUT_OF_RANGE. -/
def State.rrel (s : State) (x id : Nat) : State :=
  match ringCfg s.img.cfg id with
  | some c =>
    if s.ringUsed id = 0 then s.stopCtx x Code.outOfRange
    else
      let t := s.fs (ringReg id) F.RING_STATUS_used (s.ringUsed id - 1)
      { t with seq := { t.seq with ring := tset t.seq.ring id { s.ring id with head := ((s.ring id).head + 1) % c.slots } } }.advance x
  | none => s.stopCtx x Code.outOfRange

/-- RREL. -/
def execRrel (core ctx : Nat) (s : State) : Answer := seqIssue core ctx 0x41 (fun t x w => t.streamNotify (t.rrel x (16 * core + bits w 16 4))) s

/-- WAIT (R132): passes when the counter is at least the value, consuming it if asked. -/
def State.wait (s : State) (x w : Nat) : State :=
  let c := s.cnt (x / 4) (bits w 16 5)
  ((s.issued x).fs (cntReg (x / 4) (bits w 16 5)) F.SEQ_CNT_value (if bit w 21 then c - bits w 32 32 else c)).advance x

/-- WAIT: a counter below the value blocks the context, which parks there if a pause is asked for (R135). -/
def execWait (core ctx : Nat) (s : State) : Answer :=
  let x := 4 * core + ctx
  if s.at_ core ctx 0x70 && !s.ready x then .next (s.block x)
  else occurs (s.at_ core ctx 0x70 && s.arbiter core = some ctx) s (s.wait x (s.nextWord x))

/-- SIG (R132, R133, R285). -/
def execSig (core ctx : Nat) (s : State) : Answer := seqIssue core ctx 0x71 (fun t x w => (t.streamNotify (t.cntBump core (bits w 16 5) (bits w 32 32))).advance x) s

/-- BRC (R132): never consumes. -/
def execBrc (core ctx : Nat) (s : State) : Answer :=
  seqIssue core ctx 0x72 (fun t x w => if bits w 32 32 ≤ t.cnt core (bits w 16 5) then t.branch x (bits w 64 12) else t.advance x) s

/-- SNAP (R134, R135): the context parks if a pause is asked for. -/
def execSnap (core ctx : Nat) (s : State) : Answer :=
  seqIssue core ctx 0x78 (fun t x _ => if t.pauseAsked core then (t.advance x).setCtx x 3 else t.advance x) s

/-- STEP (R134, R135): the context waits for the next step boundary, or parks if a pause is asked for. -/
def execStep (core ctx : Nat) (s : State) : Answer :=
  seqIssue core ctx 0x79 (fun t x _ => ((t.advance x).modCtx x (fun c => { c with atStep := true })).block x) s

/-- LOOP (R132). -/
def execLoop (core ctx : Nat) (s : State) : Answer :=
  seqIssue core ctx 0x7C (fun t x w =>
    let pc := t.ctxPc x
    (t.modCtx x (fun c => { c with loops := ⟨pc + 1, bits w 40 12, bits w 16 24 - 1⟩ :: c.loops })).fs (ctxReg x) F.SEQ_CTX_STATUS_pc (pc + 1)) s

/-- BR (R132). -/
def execBr (core ctx : Nat) (s : State) : Answer := seqIssue core ctx 0x7D (fun t x w => t.branch x (bits w 16 12)) s

/-- HALT (R132): the context becomes IDLE. -/
def execHalt (core ctx : Nat) (s : State) : Answer := seqIssue core ctx 0x7E (fun t x _ => (t.setCtx x 0).actSettle (t.ctxAct x)) s

/-- COLL (R131): the call enters the collective queue; the CLE takes it at its start. -/
def execColl (core ctx : Nat) (s : State) : Answer := unitIssue core ctx 0x60 s

/-- SEQ_TEST_STEP (R147): in TEST each held context may issue one instruction. -/
def State.testStep (s : State) (core : Nat) : State :=
  (List.range 4).foldl (fun t k => if s.testHeld (4 * core + k) then t.modCtx (4 * core + k) (fun c => { c with held := true }) else t) s
/-- SEQ_TEST_STEP. -/
def execSeqTestStep (port core : Nat) (s : State) : Answer := occurs (s.hostOn port && core < 32 && s.inTest) s (s.testStep core)

/-- SEQ_CLEAR_STALL (R147). -/
def execSeqClearStall (port core : Nat) (s : State) : Answer := occurs (s.hostOn port && core < 32) s (s.zeroRegs [R.SEQ_ARR_STALL (core / 4) (core % 4)])

/-- ARR_CLEAR_COUNTS (R71). -/
def execArrClearCounts (port core : Nat) (s : State) : Answer :=
  let d := core / 4
  let c := core % 4
  occurs (s.hostOn port && core < 32) s (s.zeroRegs [R.ARR_CNT_CHECKED d c, R.ARR_CNT_SKIP_SPECIAL d c, R.ARR_CNT_SKIP_OVERFLOW d c, R.ARR_CNT_SKIP_INEXACT d c,
    R.ARR_CNT_SKIP_WIDE d c, R.ARR_CNT_SPLIT d c, R.ARR_CNT_RETRY d c])

/-- ARR_CANARY_NOW (R54, R71): a canary waits for the next snapshot or maintenance pause. -/
def execArrCanaryNow (port core : Nat) (s : State) : Answer :=
  occurs (s.hostOn port && core < 32) s ((s.fs (R.ARR_CTL (core / 4) (core % 4)) F.ARR_CTL_canary_now 1).fs (R.ARR_STATUS (core / 4) (core % 4)) F.ARR_STATUS_canary_pending 1)

/-- ARR_INJECT_ARM (R79): in TEST, one bit of a column sum flips in the next checked pass. -/
def execArrInjectArm (port core bt column : Nat) (s : State) : Answer :=
  let r := R.ARR_INJECT (core / 4) (core % 4)
  occurs (s.hostOn port && core < 32 && s.inTest) s (((s.fs r F.ARR_INJECT_bit bt).fs r F.ARR_INJECT_column column).fs r F.ARR_INJECT_arm 1)

end Machine
end Sys2Proof
end

