-- ==== Sys2Proof/Machine/Clock.lean ====
section
/-!
DEFINITION. How time passes: rack time and its slewing (R536-R539), clocks that count (R118, R216, R426, R515), and the rows of the memory tiers that a
due moment brings (R160, R175-R177, R180).
-/
namespace Sys2Proof
namespace Machine

/-- Time passes: `n` TCLK of 1 ns. The rack count moves with local time (R536), slewed while an offset is left (R539). Two HCLK a TCLK
count while the journal is full (R426), and the clocks, the waiting times of contexts and the event counters of clocks move on (R118, R216, R515). -/
def State.pass (s : State) (n : Nat) : State :=
  let c := ((s.waitClocks n).pmcClocks n).aclkClocks n
  let t : State := { c with now := s.now + n, rack := if 0 < s.time.offset then s.rack + n - s.slew n else s.rack + n + s.slew n,
                            time := { s.time with offset := s.slewLeft n, acc := if s.time.offset = 0 then 0 else (s.time.acc + n) % 10000 } }
  if s.kpu.full then t.countN R.KPU_CNT_JNL_STALL (2 * n) else t

/-- Time runs on to a due moment, if it lies ahead. -/
def State.runTo (s : State) (t : Nat) : State := s.pass (t - s.now)

/-- Time runs on until the rack count reaches or passes a value (R539). -/
def State.runToRack (s : State) (r : Nat) : State :=
  let t := s.pass (r - s.rack)
  let u := t.pass (r - t.rack)
  let v := u.pass (r - u.rack)
  v.pass (r - v.rack)

/-! ### Rows of the memory tiers -/

/-- RETIRE_COPY_DONE (R176, R177): the last granule is copied, and the state becomes COPIED. -/
def State.retireCopyDone (s : State) (k : Nat) : State :=
  let b := tgetD s.tiers.copyAt k (s.now, 0)
  let t := (s.runTo (b.1 + cdiv ((reserveRow - b.2) * 80) s.copyShare)).copyTo k reserveRow
  let u := { t with tiers := { t.tiers with copyAt := tdel t.tiers.copyAt k } }.fs (R.FMC_STK_STATUS k) F.FMC_STK_STATUS_retire_state 3
  u.fs R.FMC_STATUS F.FMC_STATUS_copying (b2n ((List.range 24).any (fun j => u.fg (R.FMC_STK_STATUS j) F.FMC_STK_STATUS_retire_state = 2)))

/-- RETIRE_COPY_DONE: a COPYING stack's copy ends. -/
def execRetireCopyDone (k : Nat) (s : State) : Answer :=
  occurs (k < 24 && s.fg (R.FMC_STK_STATUS k) F.FMC_STK_STATUS_retire_state = 2) s (s.retireCopyDone k)

/-- FMC_ERROR_WINDOW (R175): a channel's 1,000 ms window ends and its count restarts. -/
def execFmcErrorWindow (k ch : Nat) (s : State) : Answer :=
  let e := tgetD s.tiers.windowEnd (32 * k + ch) (s.tiers.began + 1000000000)
  let t := s.runTo e
  occurs (k < 24 && ch < 32 && s.stackPresent k) s
    ({ t with tiers := { t.tiers with windowEnd := tset t.tiers.windowEnd (32 * k + ch) (e + 1000000000) } }.fs (R.FMC_CH_ERR k ch) F.FMC_CH_ERR_window 0)

/-- DRAM_REFRESH (R160, R161): a bonded channel (32·slice + channel) refreshes when its interval expires and sets its next one. -/
def execDramRefresh (chn : Nat) (s : State) : Answer :=
  let due := tgetD s.tiers.nextRefresh chn 3900
  let t := s.runTo due
  occurs (chn < 1024 && s.dieUp (chn / 128)) s
    { t with tiers := { t.tiers with lastRefresh := tset t.tiers.lastRefresh chn t.now, nextRefresh := tset t.tiers.nextRefresh chn (t.now + t.refreshInterval chn) } }

/-- MARGIN_DONE (R180): the outcome of the run that was requested shows; the pattern it wrote leaves undefined data and no marks in the granules it touched. -/
def execMarginDone (errors firstLine : Nat) (s : State) : Answer :=
  match s.tiers.marginRun with
  | none => .next s
  | some c =>
    let g (f : Fld) := bits c f.lo f.w
    let n := g F.FMC_MARGIN_CTL_granules
    let lo := farKey (g F.FMC_MARGIN_CTL_stack) (g F.FMC_MARGIN_CTL_channel) 0 0
    let hi := farKey (g F.FMC_MARGIN_CTL_stack) (g F.FMC_MARGIN_CTL_channel) n 0
    let t := (((((s.runTo (s.now + 10 * n)).fs R.FMC_MARGIN_CTL F.FMC_MARGIN_CTL_start 0).fs R.FMC_MARGIN_RESULT F.FMC_MARGIN_RESULT_done 1).fs R.FMC_MARGIN_RESULT F.FMC_MARGIN_RESULT_status 0).fs
      R.FMC_MARGIN_RESULT F.FMC_MARGIN_RESULT_errors (min errors 0xFFFFFFFF)).fs R.FMC_MARGIN_RESULT F.FMC_MARGIN_RESULT_first_line (if errors = 0 then 0x7F else min firstLine 79)
    let u := t.eccClear (2 ^ 61 + lo / 32) (2 ^ 61 + hi / 32)
    .next { u with far := u.far.filter (fun c => !(lo ≤ c.1 && c.1 < hi)), tiers := { u.tiers with marginRun := none, keyEpoch := u.tiers.keyEpoch + 1 } }

end Machine
end Sys2Proof
end

