-- ==== Sys2Proof/Machine/LinkBase.lean ====
section
/-!
DEFINITION. The ends of the die links (R185-R187) and what a quarter-port of a hub link sends (R190, R195, R258).
-/
namespace Sys2Proof
namespace Machine

/-- Key of an end of a die link. -/
def endKey (die link : Nat) : Nat := 3 * die + link
/-- A link before anything failed. -/
def LinkSt.empty : LinkSt := ⟨0, 0, [], [], [], [], none, false, false⟩
/-- An end of a link. -/
def State.link (s : State) (k : Nat) : LinkSt := tgetD s.links k LinkSt.empty
/-- Changes an end of a link. -/
def State.modLink (s : State) (k : Nat) (f : LinkSt → LinkSt) : State := { s with links := tset s.links k (f (s.link k)) }
/-- R211: the other end of a neighbour link; a hub link has one end with registers. -/
def otherEnd (k : Nat) : Nat :=
  let d := k / 3
  if k % 3 = 1 then endKey ((d + 1) % 8) 2 else if k % 3 = 2 then endKey ((d + 7) % 8) 1 else k
/-- The ends of a link that have registers. -/
def endsOf (k : Nat) : List Nat := if otherEnd k = k then [k] else [k, otherEnd k]
/-- The status register of an end. -/
def linkReg (k : Nat) : Nat := R.DL_LINK_STATUS (k / 3) (k % 3)
/-- Key of the hub's end of a hub link. -/
def hubEnd (die : Nat) : Nat := 24 + die

/-- The end with registers of the link an end belongs to. -/
def regEnd (e : Nat) : Nat := if 24 ≤ e then endKey (e - 24) 0 else e

/-- R187: the replay buffer of an end, 64 KiB, takes `n` more flits of 256 bytes; a larger transfer is let in once 64 fit (DESIGN CHOICE; assumption log 139). -/
def State.linkRoom (s : State) (e n : Nat) : Bool := decide ((s.link e).unacked.length + min n 64 ≤ 256)

/-- R187, R515: an end sends `n` flits, which its die's link block counts, and keeps them until they are acknowledged. -/
def State.linkSend (s : State) (e n : Nat) : State :=
  (s.modLink e (fun x => { x with txSeq := x.txSeq + n, unacked := x.unacked ++ (List.range n).map (x.txSeq + ·) })).pmc (32 + regEnd e / 3) 0x020 n bareAttr

/-- R190: an end sends `n` flits of 64 bytes now: its link is not retraining and its replay buffer has room. -/
def State.endSends (s : State) (e n : Nat) : Bool := !s.fb (linkReg (regEnd e)) F.DL_LINK_STATUS_retraining && s.linkRoom e (cdiv n 4)

/-- The die of a quarter-port sends `n` flits of 64 bytes to the hub; another crossbar port has no die link. -/
def State.inSends (s : State) (port n : Nat) : Bool := 32 ≤ port || s.endSends (endKey (port / 4) 0) n

/-- The hub sends `n` flits of 64 bytes through a quarter-port. -/
def State.outSends (s : State) (port n : Nat) : Bool := 32 ≤ port || s.endSends (hubEnd (port / 4)) n

/-- The charges of `n` flits that enter the switch at one port and leave it at another (R258). -/
def switchCharges (inp out n : Nat) : List (Nat × Nat × Nat) := [(4, xIn inp, n), (4, xOut out, n)]

/-- R187: `n` flits of 64 bytes that enter at a quarter-port were sent by its die. -/
def State.rise (s : State) (port n : Nat) : State := if port < 32 then s.linkSend (endKey (port / 4) 0) (cdiv n 4) else s

/-- R187: `n` flits of 64 bytes that leave by a quarter-port were sent by the hub. -/
def State.fall (s : State) (port n : Nat) : State := if port < 32 then s.linkSend (hubEnd (port / 4)) (cdiv n 4) else s

/-- Flits that enter the switch at one port and leave it at another. -/
def State.switched (s : State) (inp out n : Nat) : State := (s.rise inp n).fall out n

/-! ### What crosses a link (R22-R27, R190, R195, R196, R258) -/

/-- A way: through the switch, from a port to a port; over the neighbour link between two dies; from a die to a hub unit or from a hub unit to a die, by
the local drop of a quarter-port, which is no way through the switch (R196); or within a die or the hub node. -/
inductive Way where
  | switch (inp out : Nat)
  | neighbour (src dst : Nat)
  | rise (port : Nat)
  | fall (port : Nat)
  | inside
deriving DecidableEq, Repr

/-- R25: a core lies in a DIRECT engine. -/
def inEngine (c : List Rec) (e core : Nat) : Bool := (recsOf c RT.engine).any (fun r => r.id = e && bit (r.at 0 4) core)

/-- R22, R23, R25-R27, R140, R196: the way of a packet in a receive queue (Origin.key) to a quarter-port of a die: a hub unit's falls by the local drop; one from the die's
own Selvage port stays on the die; one from a core goes over the neighbour link where it concerns the SRAM of a core of the same DIRECT engine on the other die
(`sram`), and else through the hub. -/
def wayTo (c : List Rec) (key die : Nat) (sram : Option Nat) (quarter : Nat) (chan : Nat) : Way :=
  let out := 4 * die + quarter
  match keyDie key with
  | none => if key = 16 then .fall out else if key = die then .inside else .switch (xbarPort key chan) out
  | some d => match keyEngine key, sram with
    | some e, some core => if d ≠ die && inEngine c e core then .neighbour d die else .switch (4 * d + quarter) out
    | _, _ => .switch (4 * d + quarter) out

/-- R26, R27, R196: the way of a packet in a receive queue to a unit of the hub: it rises from a die, its own Selvage port's packets among them; a hub port's stays at
its local drop. -/
def hubWay (key chan : Nat) : Way := match keyDie key with
  | some d => .rise (4 * d + chan % 4)
  | none => if key < 8 then .rise (4 * key + chan % 4) else .inside

/-- The end of the neighbour link at a die that leads to its neighbour. -/
def neighbourEnd (src dst : Nat) : Nat := if dst = (src + 1) % 8 then endKey src 1 else endKey src 2

/-- R190, R262: a way takes `n` flits of an activity now. -/
def State.wayOpen (s : State) (act n : Nat) : Way → Bool
  | .switch inp out => s.inSends inp n && s.outSends out n && s.coversAll act (switchCharges inp out n)
  | .neighbour a b => s.fg (linkReg (neighbourEnd a b)) F.DL_LINK_STATUS_width ≠ 3 && s.endSends (neighbourEnd a b) n
  | .rise p => s.inSends p n
  | .fall p => s.outSends p n
  | .inside => true

/-- `n` flits of an activity take a way. -/
def State.takeWay (s : State) (act n : Nat) : Way → State
  | .switch inp out => (s.chargeAll act (switchCharges inp out n)).switched inp out n
  | .neighbour a b => s.linkSend (neighbourEnd a b) (cdiv n 4)
  | .rise p => s.rise p n
  | .fall p => s.fall p n
  | .inside => s

/-- Ways with their flits are taken one after the other; none unless each is open in its turn. -/
def State.takeWays (s : State) (act : Nat) : List (Way × Nat) → Option State
  | [] => some s
  | w :: r => if s.wayOpen act w.2 w.1 then (s.takeWay act w.2 w.1).takeWays act r else none

/-- R26, R27, R190: a packet in a receive queue reaches a unit of the hub; none while its way is not open. -/
def State.toHub (s : State) (key : Nat) (q : Packet) : Option State :=
  if s.wayOpen q.act q.flits (hubWay key q.chan) then some (s.takeWay q.act q.flits (hubWay key q.chan)) else none

/-- The hub sends to a die's quarter-port what is charged to no budget of the crossbar: the link is up, and takes it now. -/
def State.falls (s : State) (port n : Nat) : Bool := s.dieUp (port / 4) && s.outSends port n

/-- R22, R26, R195: the quarter-ports by which the granules of a range of a far domain reach the hub, each once for every granule: a granule of a die-local domain by port 0. -/
def State.farPorts (s : State) (i off n : Nat) : List Nat :=
  (List.range (if n = 0 then 0 else cdiv (off % 256 + n) 256)).map (fun k =>
    let g := off / 256 + k
    4 * ((s.domMap i (256 * g)).1 / 3) + (if s.fg (R.FMC_DOM_CFG i) F.FMC_DOM_CFG_kind = 0 then 0 else g % 4))

/-- R26, R413: the quarter-ports by which bytes of a tensor's unit reach the hub, each once for every 256 bytes. -/
def State.unitPorts (s : State) (space unit off n : Nat) : List Nat := if space = 0 then s.farPorts unit off n else List.replicate (cdiv n 256) (4 * (unit / 4))

/-- Pieces of 256 bytes rise to the hub by their ports, or fall from it. -/
def State.unitMoves (s : State) (ports : List Nat) (up : Bool) : State := ports.foldl (fun (t : State) p => if up then t.rise p 4 else t.fall p 4) s

/-- R190: the links of these ports send. -/
def State.unitLinks (s : State) (ports : List Nat) (up : Bool) : Bool := ports.eraseDups.all (fun p => if up then s.inSends p 4 else s.outSends p 4)

/-- A die sends to a unit of the hub now. -/
def State.rises (s : State) (port n : Nat) : Bool := s.dieUp (port / 4) && s.inSends port n

end Machine
end Sys2Proof
end

