-- ==== Sys2Proof/Machine/Selvage.lean ====
section
/-!
DEFINITION. Selvage ports (chapter 10): frames and replay (R304, R305), bring-up (R311-R316), lanes and widths (R317-R320), going down
(R321), watchdogs (R322), hostile partners (R323), link keys (R466-R470), and the grants of the crossbar (R197, R198, R262).
-/
namespace Sys2Proof
namespace Machine

/-- State of a port (R327). -/
def State.spState (s : State) (p : Nat) : Nat := s.fg (R.SP_STATUS p) F.SP_STATUS_state
/-- Sets the state of a port. -/
def State.setSp (s : State) (p st : Nat) : State := s.fs (R.SP_STATUS p) F.SP_STATUS_state st
/-- The WIRING record of a port (R313). -/
def State.wiring (s : State) (p : Nat) : Option Rec := findRec s.img.cfg RT.wiring p
/-- WIRING.expect; 0 without a record. -/
def State.spExpect (s : State) (p : Nat) : Nat := recField s.img.cfg RT.wiring p 0 1
/-- R305: flits of receive buffer of one virtual channel of a port. -/
def rxShare (p : Nat) : Nat := if 12 ≤ p then 6553 else 1638
/-- R305: frames the replay buffer of a port holds. -/
def replayRoom (p : Nat) : Nat := (if 12 ≤ p then 4 else 1) * 2 ^ 20 / 2304
/-- R310: all 16 lines of a port's light-in fibre are present. -/
def State.lightOk (s : State) (p : Nat) : Bool := s.fb (R.SP_LIGHT p) F.SP_LIGHT_fibre_ok

/-! ### Frames -/

/-- R304: the frame a port sends next: at most 35 flits, at most 24 bytes of handshake stream, a width order. -/
def State.frameBytes (s : State) (p : Nat) (flits : List Bytes) (msg : Bytes) (order : Option (Nat × Nat)) : Bytes :=
  let x := s.spS p
  let ack := (x.rxSeq + 2 ^ 20 - 1) % 2 ^ 20
  let ord := match order with
    | some (m, a) => leBytes 2 m ++ leBytes 3 (a % 2 ^ 20)
    | none => zeros 5
  let c := leBytes 3 (x.txSeq % 2 ^ 20 + (if order.isSome then 2 ^ 20 else 0)) ++ leBytes 3 ack ++ x.freed.map (fun n => BitVec.ofNat 8 (min n 255)) ++ ord
    ++ leBytes 1 msg.length ++ zeros 2 ++ slice msg 0 24
  let body := ((flits.map (fun f => slice f 0 64)).flatten ++ zeros (35 * 64)).take (35 * 64)
  let tag := match x.keys with
    | some k => (gcmTag k.txKey (k.txSalt ++ leBytes 8 k.txCount) (c ++ body) []).take 12
    | none => zeros 12
  c ++ tag ++ leBytes 4 (crc32c (c ++ tag ++ body)) ++ body

/-- R470: the next key and salt of one direction. -/
def nextLinkKey (key salt : Bytes) : Bytes × Bytes :=
  let km := kdf key salt "QSN8 link update" 36
  (slice km 0 32, slice km 32 4)

/-- R470: at the frame that this end named, its key and salt change and its frame count restarts. -/
def State.switchTx (s : State) (p : Nat) : State :=
  let x := s.spS p
  if x.rekeyTx = some (x.txSeq % 2 ^ 20) then
    s.modSp p (fun y => { y with rekeyTx := none, keys := y.keys.map (fun k => { k with txKey := (nextLinkKey k.txKey k.txSalt).1, txSalt := (nextLinkKey k.txKey k.txSalt).2, txCount := 0 }) })
  else s

/-- Sends one frame and keeps it for replay. -/
def State.sendFrame (s0 : State) (p : Nat) (flits : List Bytes) (msg : Bytes) (order : Option (Nat × Nat)) : State :=
  let s := s0.switchTx p
  let b := s.frameBytes p flits msg order
  (s.modSp p (fun x => { x with txSeq := (x.txSeq + 1) % 2 ^ 20, replay := x.replay ++ [(x.txSeq, b)], freed := x.freed.map (fun n => n - min n 255),
                                keys := x.keys.map (fun k => { k with txCount := k.txCount + 1 }) })).emit (.frame p b)

/-- Sends bytes of the handshake stream, 24 to a frame (R304). -/
def State.say (s : State) (p : Nat) (msg : Bytes) : State := (chunks 24 msg).foldl (fun t c => t.sendFrame p [] c none) s

/-- Sends flits, 35 to a frame, using the credits of their virtual channel. -/
def State.pushFlits (s : State) (p vc : Nat) (fl : List Bytes) : State :=
  let t := s.modSp p (fun x => { x with credits := x.credits.modify vc (fun n => n - fl.length) })
  (List.range (cdiv fl.length 35)).foldl (fun u i => u.sendFrame p ((fl.drop (35 * i)).take 35) [] none) t

/-- R197, R215: what of a granted packet of an epoch finds no credit waits, and its output shows it. -/
def State.setTail (s : State) (p out vc epoch : Nat) (rest : List Bytes) : State :=
  (s.modSp p (fun x => { x with tail := if rest.isEmpty then none else some (out, vc, rest), tailEpoch := epoch })).fs (R.XB_PORT_STATUS out) F.XB_PORT_STATUS_credit_wait (b2n (!rest.isEmpty))

/-- A granted packet leaves: as many of its flits as have credit, `free` flits without (R323), and the rest as credits come. -/
def State.transmit (s : State) (p out : Nat) (k : Packet) (free : Bool) : State :=
  let fl := chunks 64 k.raw
  let n := if free then fl.length else min fl.length (s.credit p k.vc)
  (s.pushFlits p k.vc (fl.take n)).setTail p out k.vc k.epoch (fl.drop n)

/-- Flits that waited for credits leave as far as credits have come. -/
def State.flushTail (s : State) (p : Nat) : State :=
  match (s.spS p).tail with
  | none => s
  | some (out, vc, fl) =>
    let n := min fl.length (s.credit p vc)
    if n = 0 then s else (s.pushFlits p vc (fl.take n)).setTail p out vc (s.spS p).tailEpoch (fl.drop n)

/-! ### Widths (R318, R319) -/

/-- R318: the width (0 full, 1 half, 2 quarter, 3 none) and the half or quarter for a mask of failed lanes. -/
def laneWidth (mask : Nat) : Nat × Nat :=
  if mask % 2 ^ 16 = 0 then (0, 0)
  else match (List.range 2).find? (fun h => bits mask (8 * h) 8 = 0) with
    | some h => (1, h)
    | none => match (List.range 4).find? (fun q => bits mask (4 * q) 4 = 0) with
      | some q => (2, q)
      | none => (3, 0)

/-- The union of the failed lanes of both ends. -/
def State.failedLanes (s : State) (p : Nat) : Nat := s.fg (R.SP_LANES p) F.SP_LANES_failed_here ||| s.fg (R.SP_LANES p) F.SP_LANES_failed_far

/-- Puts the width of the failed lanes in force; a degraded width is raised and logged (R319). -/
def State.setWidth (s : State) (p : Nat) : State :=
  let w := laneWidth (s.failedLanes p)
  let old := (s.fg (R.SP_STATUS p) F.SP_STATUS_width, s.fg (R.SP_STATUS p) F.SP_STATUS_in_use)
  let t := (s.fs (R.SP_STATUS p) F.SP_STATUS_width w.1).fs (R.SP_STATUS p) F.SP_STATUS_in_use w.2
  if w ≠ old && (w.1 = 1 || w.1 = 2) then t.log Code.degradedWidth 2 (0x4000 + p) [BitVec.ofNat 8 w.1, BitVec.ofNat 8 w.2] else t

/-- R304, R515: a frame of the replay buffer is sent again. -/
def State.sendAgain (s : State) (p : Nat) (f : Bytes) : State := ((s.count (R.SP_CNT_REPLAY p)).pmc (41 + p) 0x062 1 bareAttr).emit (.frame p f)

/-- R319: a new width begins: everything not acknowledged is sent again at it. -/
def State.switchWidth (s : State) (p : Nat) : State :=
  let t := s.modSp p (fun x => { x with switchAt := none })
  ((t.spS p).replay.foldl (fun (u : State) f => u.sendAgain p f.2) t).setWidth p

/-- R328: lanes lose their lock. -/
def State.unlock (s : State) (p mask : Nat) : State :=
  let k := s.fg (R.SP_LANES p) F.SP_LANES_locked
  s.fs (R.SP_LANES p) F.SP_LANES_locked (k - (k &&& mask))

/-! ### Going down (R321) -/

/-- R312: the interval after one more failed attempt. -/
def nextBackoff (b : Nat) : Nat := min (2 * b) 1024000000

/-- R321, R325: a port goes down with a cause, to begin again after its back-off, which an attempt that failed before step 6 doubles (R312). A port that has no light or
has backed off already does not go down. A packet that waits for credits at the transmitter is dropped too. -/
def State.spDown (s : State) (p cause : Nat) : State :=
  let d := s.dropHeads (fun h => h.sp = p)
  let st := R.SP_STATUS p
  let x := s.spS p
  let live := decide (2 ≤ s.spState p) && decide (s.spState p ≤ 11)
  let t := (((((d.1.countN (R.SP_CNT_DROP p) (d.2 + b2n x.tail.isSome)).fs st F.SP_STATUS_width 3).fs st F.SP_STATUS_in_use 0).fs st F.SP_STATUS_op_level 0).fs st F.SP_STATUS_state 13).unlock p 0xFFFF
  let t := if live then ((t.count (R.SP_CNT_DOWN p)).fs st F.SP_STATUS_down_cause cause).fs st F.SP_STATUS_down_event 1 else t
  let u := t.modSp p (fun y => { SpSt.empty with backoff := if live && decide (s.spState p ≤ 5) then nextBackoff y.backoff else y.backoff, lastIdent := y.lastIdent,
                                                 wdLogged := y.wdLogged, downRaised := live || y.downRaised, retryAt := s.now + y.backoff })
  let v := if 8 ≤ p then u.fs (R.XB_PORT_STATUS (32 + (p - 8))) F.XB_PORT_STATUS_state 2 else u
  let v := (v.fs R.CLK_STATUS F.CLK_STATUS_lclk_lock (setBits (v.fg R.CLK_STATUS F.CLK_STATUS_lclk_lock) p 1 0)).fs (R.XB_PORT_STATUS (match x.tail with
    | some e => e.1
    | none => xbarPort p 0)) F.XB_PORT_STATUS_credit_wait 0
  let w := if x.downRaised || !live then v else v.log Code.linkDown 2 (0x4000 + p) [BitVec.ofNat 8 cause]
  w.drainPump

/-- R311, R313: the WIRING record in force, or its absence, keeps a port OFF; a loopback comes up only in TEST. -/
def State.spOff (s : State) (p : Nat) : Bool := s.spExpect p = 0 || (s.spExpect p = 2 && !s.inTest)

/-- R321: a port SPd returns only after the reload of its die. -/
def State.spDieOut (s : State) (p : Nat) : Bool := decide (p < 8) && !s.dieUp p

/-- R311: the port returns to step 1: DARK, or LOCKING where its light is there. A port that failed attestation four times stays DISABLED (R323), and one whose die is out of
service stays backed off. -/
def State.spStep1 (s : State) (p : Nat) : State :=
  if s.spOff p then s.setSp p 0
  else if 4 ≤ s.fg (R.SP_STATUS p) F.SP_STATUS_attest_fails then s.setSp p 12
  else if s.spDieOut p then s.setSp p 13
  else s.setSp p (if s.lightOk p then 2 else 1)

/-- R327, R328: the lanes of a port are down. -/
def State.lanesDown (s : State) (p : Nat) : State :=
  ((s.fs (R.SP_STATUS p) F.SP_STATUS_width 3).fs (R.SP_STATUS p) F.SP_STATUS_in_use 0).unlock p 0xFFFF
    |>.fs R.CLK_STATUS F.CLK_STATUS_lclk_lock (setBits (s.fg R.CLK_STATUS F.CLK_STATUS_lclk_lock) p 1 0)

/-- R312: an attempt fails: LINK_DOWN once per loss of service, and the back-off doubles up to 1,024 ms. -/
def State.spAttemptFails (s : State) (p : Nat) : State :=
  let x := s.spS p
  let t := if x.downRaised then s else s.log Code.linkDown 2 (0x4000 + p) [0]
  (t.lanesDown p).modSp p (fun y => { SpSt.empty with lastIdent := y.lastIdent, wdLogged := y.wdLogged, downRaised := true, retryAt := s.now + y.backoff, backoff := nextBackoff y.backoff })
    |>.setSp p 13

/-- R319: an order with the complete mask of this end's failed lanes, for the frame after it. -/
def State.orderWidth (s : State) (p : Nat) : State :=
  let here := s.fg (R.SP_LANES p) F.SP_LANES_failed_here
  (s.sendFrame p [] [] (some (here, (s.spS p).txSeq + 1))).modSp p (fun x => { x with told := here })

/-- R317, R318: lanes fail here; the port goes down, for want of lanes or because its partner is `dark` (R324), or its width follows at the frame after the order, which is
the next (R319). -/
def State.lanesFail (s : State) (p mask : Nat) (dark : Bool) : State :=
  let t := s.fs (R.SP_LANES p) F.SP_LANES_failed_here (s.fg (R.SP_LANES p) F.SP_LANES_failed_here ||| mask)
  if s.spState p < 3 || s.spState p = 12 || s.spState p = 13 then t
  else if dark then t.spDown p 1
  else if (laneWidth (t.failedLanes p)).1 = 3 then t.spDown p 3
  else if laneWidth (t.failedLanes p) = laneWidth (s.failedLanes p) then t
  else
    if s.spState p < 4 then t.setWidth p
    else (t.orderWidth p).switchWidth p

/-! ### Attestation of a partner (R323, R466-R468) -/

/-- R323: attestation or key agreement fails: UNATTESTED, or DISABLED at the fourth failure in a row. -/
def State.attestFail (s : State) (p code : Nat) : State :=
  let n := s.fg (R.SP_STATUS p) F.SP_STATUS_attest_fails + 1
  let t := ((s.fs (R.SP_STATUS p) F.SP_STATUS_attest_fails n).log Code.unattested 2 (0x4000 + p) [BitVec.ofNat 8 code]).setSp p (if 4 ≤ n then 12 else 11)
  let t := if 4 ≤ n then t.lanesDown p else t
  t.modSp p (fun y => { y with keys := none, newKeys := none, eph := none, helloOut := [], helloIn := [], latOut := [], latIn := [], rekeyTx := none, rekeyRx := none, oldRx := none,
                               quarTx := (0, 0), quarRx := (0, 0), retryAt := s.now + 1000000000 * 2 ^ (n - 1) })

/-- Whether this end is the low end of a link (R466): lower serial, or lower port on a loopback. -/
def State.lowEnd (s : State) (p : Nat) : Bool :=
  let far := slice (s.spS p).lastIdent 8 16
  if far = s.fuses.serial then decide (p < fieldAt (s.spS p).lastIdent 6 1) else decide (beNat s.fuses.serial.reverse < beNat far.reverse)

/-- R466: step 6 begins: the port's LHELLO leaves. -/
def State.startAttest (s : State) (p : Nat) : State :=
  let k := s.randCtr
  let n := s.random 96
  let hello := leBytes 4 0x4F4C4548 ++ leBytes 2 1 ++ zeros 2 ++ (n.1.drop 48) ++ pubOf (scalarAt k) ++ zeros 7
  State.say ((n.2.setSp p 6).modSp p (fun x => { x with eph := some k, helloOut := hello, helloIn := [], latOut := [], latIn := [], newKeys := none })) p hello

/-- R466: the nonce of this end's report, and of the partner's. -/
def ownNonce (own partner : Bytes) : Bytes := sha384 (slice partner 8 48 ++ slice partner 56 97 ++ slice own 56 97)

/-- R468: the link keys of both ends. -/
def State.linkKeysOf (s : State) (p : Nat) : Option LinkKeys :=
  let x := s.spS p
  match x.eph with
  | none => none
  | some k => match ecdh (scalarAt k) (slice x.helloIn 56 97) with
    | none => none
    | some z =>
      let low := s.lowEnd p
      let th := sha384 (if low then x.helloOut ++ x.helloIn ++ x.latOut ++ x.latIn else x.helloIn ++ x.helloOut ++ x.latIn ++ x.latOut)
      let km := kdf z th "QSN8 link keys" 72
      let kl := slice km 0 32
      let kh := slice km 32 32
      let sl := slice km 64 4
      let sh := slice km 68 4
      some (if low then ⟨kl, sl, kh, sh, 0, 0⟩ else ⟨kh, sh, kl, sl, 0, 0⟩)

/-- R468: the transcript hash. -/
def State.transcript (s : State) (p : Nat) : Bytes :=
  let x := s.spS p
  sha384 (if s.lowEnd p then x.helloOut ++ x.helloIn ++ x.latOut ++ x.latIn else x.helloIn ++ x.helloOut ++ x.latIn ++ x.latOut)

/-- R468: an LFINISH under a key and salt. -/
def finishMsg (key salt th : Bytes) : Bytes := leBytes 4 0x4E49464C ++ leBytes 2 1 ++ zeros 2 ++ gcmTag key (salt ++ List.replicate 8 0xFF) th []

/-- Step 7 begins once both LATTESTs have been exchanged and the partner's passed: keys are derived and LFINISH leaves. -/
def State.startKeying (s : State) (p : Nat) : State :=
  let x := s.spS p
  if x.latIn.isEmpty || x.latOut.isEmpty || s.spState p ≠ 6 then s
  else match s.linkKeysOf p with
    | none => s.attestFail p Code.badSignature
    | some k => State.say ((s.setSp p 7).modSp p (fun y => { y with newKeys := some k })) p (finishMsg k.txKey k.txSalt (s.transcript p))

/-- R311 step 8: the port enters service with the lower of the two levels. Frames are numbered anew, as their count is (R469); those not yet acknowledged stay in the replay
buffer before them (R304). Pairing with a partner is tried again at once (R430). -/
def State.spEnter (s : State) (p : Nat) : State :=
  let x := s.spS p
  let lvl := min s.runningFw.level (fieldAt x.lastIdent 28 2)
  let t := ((s.setSp p 8).fs (R.SP_STATUS p) F.SP_STATUS_op_level lvl).fs (R.SP_STATUS p) F.SP_STATUS_attest_fails 0
  let t := if 12 ≤ p then t.fs (R.TIME_OFFSET (p - 12)) F.TIME_OFFSET_valid 0 else t
  let u := t.modSp p (fun y => { y with keys := y.newKeys, newKeys := none, eph := none, helloOut := [], helloIn := [], latOut := [], latIn := [], txSeq := 0, rxSeq := 0, resent := 0, downRaised := false, rekeyTx := none, rekeyRx := none, oldRx := none,
                                        credits := List.replicate 10 (rxShare (fieldAt x.lastIdent 6 1)), freed := List.replicate 10 0, rxUsed := List.replicate 10 0, part := [],
                                        starved := [], backoff := 1000000 })
  let v := (if 8 ≤ p then u.fs (R.XB_PORT_STATUS (32 + (p - 8))) F.XB_PORT_STATUS_state 0 else u).drainPump
  { v with kpu := { v.kpu with pairAt := min v.kpu.pairAt v.now } }

/-! ### IDENT (R314-R316) -/

/-- R314: the IDENT a port sends. -/
def State.identMsg (s : State) (p : Nat) : Bytes :=
  let x := s.spS p
  let b := leBytes 4 0x544E4449 ++ leBytes 2 1 ++ leBytes 1 p ++ leBytes 1 (b2n (12 ≤ p && s.longReach)) ++ s.fuses.serial
    ++ leBytes 1 (s.device / 64) ++ leBytes 1 (s.device % 64) ++ leBytes 1 (s.fg R.PIN_STRAPS F.PIN_STRAPS_feed_id) ++ zeros 1 ++ leBytes 2 s.runningFw.level
    ++ leBytes 1 x.verdict ++ leBytes 1 x.reason ++ s.runningFw.fwDigest ++ zeros 44
  b ++ leBytes 4 (crc32c b)

/-- R315: the judgement of an IDENT by checks 1 to 4: the code, and the state it leads to where it fails. -/
def State.judge (s : State) (p : Nat) (m : Bytes) : Nat :=
  match s.wiring p with
  | none => Code.miswired
  | some r =>
    let e := r.at 0 1
    let lv := fieldAt m 28 2
    let own := s.runningFw.level
    if slice m 8 16 = s.fuses.serial && e ≠ 2 then Code.miswired
    else if e ≠ 2 && (fieldAt m 24 1 ≠ r.at 2 1 || fieldAt m 25 1 ≠ r.at 3 1 || fieldAt m 6 1 ≠ r.at 4 1 || (bit (r.at 5 1) 0 && slice m 8 16 ≠ slice r.body 16 16)) then Code.miswired
    else if r.at 1 1 = 1 && !bit (fieldAt m 7 1) 0 then Code.miswired
    else if lv < r.at 6 2 || r.at 8 2 < lv || own + 3 < lv || lv + 3 < own then Code.levelMismatch
    else Code.ok

/-- R314, R329: the registers that hold the last valid IDENT. -/
def State.keepIdent (s : State) (p : Nat) (m : Bytes) : State :=
  let f := R.SP_FAR2 p
  let t := ((((((s.fs f F.SP_FAR2_rack (fieldAt m 24 1)).fs f F.SP_FAR2_slot (fieldAt m 25 1)).fs f F.SP_FAR2_port (fieldAt m 6 1)).fs f F.SP_FAR2_feed (fieldAt m 26 1)).fs f F.SP_FAR2_level (fieldAt m 28 2)).fs
    f F.SP_FAR2_long (fieldAt m 7 1)).wr (R.SP_FAR_SERIAL p 0) (BitVec.ofNat 64 (fieldAt m 8 8))
  let u := t.wr (R.SP_FAR_SERIAL p 1) (BitVec.ofNat 64 (fieldAt m 16 8))
  ((List.range 6).foldl (fun w j => w.wr (R.SP_FAR_FW p j) (BitVec.ofNat 64 (fieldAt m (32 + 8 * j) 8))) u).modSp p (fun x => { x with lastIdent := m })

/-- R314: this end's verdict, sent in an IDENT of its own once it is known. -/
def State.tellVerdict (s : State) (p verdict reason : Nat) : State :=
  if (s.spS p).verdict = verdict && (s.spS p).reason = reason then s
  else
    let t := s.modSp p (fun x => { x with verdict := verdict, reason := reason })
    t.say p (t.identMsg p)

/-- The partner's identity as a log entry holds it: port, rack, slot, feed, level and the first bytes of the serial (assumption log 78). -/
def identDetail (m : Bytes) : Bytes := slice m 6 1 ++ slice m 24 3 ++ slice m 28 2 ++ slice m 8 4

/-- R316: the port is held; entry into a held state is logged once with the partner's identity. -/
def State.hold (s : State) (p code : Nat) : State :=
  let st := if code = Code.levelMismatch then 10 else 9
  let t := (s.tellVerdict p 2 code).setSp p st
  if s.spState p = st then t else t.log code 2 (0x4000 + p) (identDetail (s.spS p).lastIdent)

/-- R314, R315: what the judgement of the last IDENT leads to; the verdict leaves before step 6 begins. far_reject is cleared when a later IDENT passes checks 1 to 4 and
carries no rejection (DESIGN CHOICE; assumption log 142). -/
def State.applyVerdict (s : State) (p : Nat) : State :=
  let m := (s.spS p).lastIdent
  let c := s.judge p m
  if c ≠ Code.ok then s.hold p c
  else if fieldAt m 30 1 = 2 then
    let r := fieldAt m 31 1
    (s.fs (R.SP_STATUS p) F.SP_STATUS_far_reject 1).hold p (if r = Code.levelMismatch then r else Code.miswired)
  else
    let u := (s.fs (R.SP_STATUS p) F.SP_STATUS_far_reject 0).tellVerdict p 1 0
    if fieldAt m 30 1 = 1 then u.startAttest p else if s.spState p = 5 then u else u.setSp p 5

/-- R311, R313, R324: a port meets its WIRING record, new or changed: OFF starts, a record with expect 0 stops it, and one for a loopback outside TEST one below step 5; a port
at or beyond step 5 judges its last IDENT against it; one that fails is down but keeps its lanes locked. A port that a record takes down has down_cause 0 (DESIGN CHOICE;
assumption log 143). -/
def State.spConfigure (s : State) (p : Nat) : State :=
  let st := s.spState p
  if s.spExpect p = 0 || (s.spOff p && (decide (st ≤ 4) || st = 13)) then (if st = 0 then s else (s.spDown p 0).setSp p 0)
  else if st = 0 then s.spStep1 p
  else if 5 ≤ st && st ≤ 11 && !(s.spS p).lastIdent.isEmpty then
    let c := s.judge p (s.spS p).lastIdent
    if c = Code.ok then (if st = 9 || st = 10 then s.applyVerdict p else s)
    else if st = 9 || st = 10 then s.hold p c
    else
      let y := s.spS p
      let g (f : Fld) : Nat := s.fg (R.SP_STATUS p) f
      let t := (((s.spDown p 0).fs (R.SP_STATUS p) F.SP_STATUS_width (g F.SP_STATUS_width)).fs (R.SP_STATUS p) F.SP_STATUS_in_use (g F.SP_STATUS_in_use)).fs
        (R.SP_LANES p) F.SP_LANES_locked (s.fg (R.SP_LANES p) F.SP_LANES_locked)
      ((t.fs R.CLK_STATUS F.CLK_STATUS_lclk_lock (s.fg R.CLK_STATUS F.CLK_STATUS_lclk_lock)).modSp p (fun x => { x with txSeq := y.txSeq, rxSeq := y.rxSeq })).hold p c
  else s

/-! ### Receiving -/

/-- R323: the flits of the present 1 ms from the first of them on. -/
def State.quarantine (s : State) (w : Nat × Nat) : Nat × Nat := if s.now < w.1 + 1000000 then w else (s.now, 0)

/-- R319: the next frame expected is the named one, or a later one. -/
def frameReached (rxSeq n : Nat) : Bool := decide ((rxSeq + 2 ^ 20 - n % 2 ^ 20) % 2 ^ 20 < 2 ^ 19)

/-- R319: a width that the partner ordered begins once its frame is next. -/
def State.switchDue (s : State) (p : Nat) : State := match (s.spS p).switchAt with
  | some n => if frameReached (s.spS p).rxSeq n then s.switchWidth p else s
  | none => s

/-- Takes received packets of one frame's flits: each flit joins the packet being received; a complete packet arrives (R345), or is dropped by
R259 or R323. Quarantined flits use no credit. -/
def State.takeFlit (s : State) (p : Nat) (f : Bytes) : State :=
  let x := s.spS p
  if x.part.isEmpty && f.all (fun b => b = 0) then s
  else
    let part := x.part ++ [f]
    let head := packetOf (part.headD [])
    let counts := s.spState p = 8
    let t := (s.modSp p (fun y => { y with part := part, rxUsed := if counts then y.rxUsed.modify head.vc (· + 1) else y.rxUsed })).pmc (41 + p) 0x061 1 (pktAttr 0x37 head)
    if part.length < flitsOf (part.headD []) then t
    else
      let k0 := packetOf part.flatten
      let k := { k0 with transit := k0.dest ≠ s.device }
      let n := part.length
      let done := t.modSp p (fun y => { y with part := [] })
      let free := if !counts then done else done.modSp p (fun y => { y with rxUsed := y.rxUsed.modify head.vc (fun m => m - n), freed := y.freed.modify head.vc (· + n) })
      if s.spState p ≠ 8 then
        let win := s.quarantine x.quarRx
        if s.spState p = 11 && k.cls = 0 && k.act = 0 && !k.transit && decide (win.2 + n ≤ 64) then
          (done.modSp p (fun y => { y with quarRx := (win.1, win.2 + n) })).arrive p k
        else if s.spState p = 11 then free.countN (R.SP_CNT_QDROP p) n else free
      else if !k.transit && !actExists s.img.cfg k.act then
        (free.fsat R.BUD_STATUS F.BUD_STATUS_unknown_act 1).refuse k Code.notPermitted
      else done.arrive p k

/-- R470: a rekey notice at the front of a keyed port's handshake stream names the frame at which the partner switches. -/
def State.rekeyHeard (s : State) (p : Nat) : State :=
  let x := s.spS p
  let n := Config.rekeyHead.length
  if x.keys.isSome && decide (n + 3 ≤ x.msgIn.length) && x.msgIn.take n = Config.rekeyHead then
    s.modSp p (fun y => { y with msgIn := y.msgIn.drop (n + 3), rekeyRx := some (fieldAt x.msgIn n 3 % 2 ^ 20) })
  else s

/-- R470: at the frame that the partner named, its key and salt change and its frame count restarts; frames from before it may still come again. -/
def State.switchRx (s : State) (p : Nat) : State :=
  let x := s.spS p
  if x.rekeyRx = some x.rxSeq then
    s.modSp p (fun y => { y with
      rekeyRx := none, oldRx := y.keys.map (fun k => (k.rxKey, k.rxSalt, k.rxCount)),
      keys := y.keys.map (fun k => { k with rxKey := (nextLinkKey k.rxKey k.rxSalt).1, rxSalt := (nextLinkKey k.rxKey k.rxSalt).2, rxCount := 0 }) })
  else s

/-- R304, R305: what an intact frame in order brings. -/
def State.takeFrame (s : State) (p : Nat) (b : Bytes) : State :=
  let msg := slice b 24 (min 24 (fieldAt b 21 1))
  let cr := (List.range 10).map (fun v => fieldAt b (6 + v) 1)
  let t := s.modSp p (fun x => { x with
    rxSeq := (x.rxSeq + 1) % 2 ^ 20, msgIn := x.msgIn ++ msg, credits := (x.credits.zip cr).map (fun q => q.1 + q.2),
    starved := x.starved.filter (fun e => cr.getD e.1 0 = 0), order := if bit (fieldAt b 0 3) 20 then some (fieldAt b 16 2, fieldAt b 18 3 % 2 ^ 20) else x.order })
  let u := ((List.range 35).map (fun i => slice b (64 + 64 * i) 64)).foldl (fun w f => w.takeFlit p f) t
  let v := if (List.range 10).any (fun c => decide (rxShare p < (u.spS p).rxUsed.getD c 0 + (u.spS p).freed.getD c 0)) then u.spDown p 6 else (u.flushTail p).switchDue p
  (v.modSp p (fun x => { x with keys := x.keys.map (fun k => { k with rxCount := k.rxCount + 1 }) })).rekeyHeard p |>.switchRx p

/-- R469: the key, salt and frame count of a received frame, whose count has its sequence number as its low 20 bits: of a frame to come, or of one sent again, with the key
of its time (R470). -/
def SpSt.frameKey (x : SpSt) (k : LinkKeys) (seq : Nat) : Bytes × Bytes × Nat :=
  let c := k.rxCount + (seq + 2 ^ 20 - x.rxSeq % 2 ^ 20) % 2 ^ 20
  if (seq + 2 ^ 20 - x.rxSeq % 2 ^ 20) % 2 ^ 20 < 2 ^ 19 then (k.rxKey, k.rxSalt, c)
  else if 2 ^ 20 ≤ c then (k.rxKey, k.rxSalt, c - 2 ^ 20)
  else match x.oldRx with
    | some o => (o.1, o.2.1, o.2.2 + c - 2 ^ 20)
    | none => (k.rxKey, k.rxSalt, k.rxCount)

/-- R304, R469: a received frame is good: every codeword correct, CRC, and link tag once the port is keyed. -/
def State.frameGood (s : State) (p : Nat) (f : SpFrame) : Bool :=
  let c := f.bytes.take 48
  let body := f.bytes.drop 64
  f.intact && f.bytes.length = 2304 && fieldAt f.bytes 60 4 = crc32c (f.bytes.take 60 ++ body)
  && (match (s.spS p).keys with
    | some k =>
      let e := (s.spS p).frameKey k (fieldAt f.bytes 0 3 % 2 ^ 20)
      slice f.bytes 48 12 = (gcmTag e.1 (e.2.1 ++ leBytes 8 e.2.2) (c ++ body) []).take 12
    | none => true)

/-- R304, R317: the partner asks again for what it has not received: every frame kept is resent; the port goes down when the eighth sending again in a row has not arrived
intact either. -/
def State.resend (s : State) (p : Nat) : State :=
  let keep := (s.spS p).replay
  if keep.isEmpty then s
  else if 8 ≤ (s.spS p).resent then s.spDown p 4
  else keep.foldl (fun w e => w.sendAgain p e.2) (s.modSp p (fun y => { y with resent := y.resent + 1 }))

/-- R304: the partner's acknowledgement, and its request to send again. -/
def State.takeAck (s : State) (p : Nat) (f : SpFrame) : State :=
  let a := fieldAt f.bytes 3 3 % 2 ^ 20
  let x := s.spS p
  let keep := match x.replay.findIdx? (fun e => e.1 % 2 ^ 20 = a) with
    | some i => x.replay.drop (i + 1)
    | none => x.replay
  let t := s.modSp p (fun y => { y with replay := keep, resent := if keep.length < x.replay.length then 0 else y.resent })
  if f.again then t.resend p else t

/-- SP_FRAME_RX (R304): corrected codewords are counted, then the frame is taken, or asked for again. The partner's request to send again does not depend on the frame it
comes with. -/
def State.frameRx (s0 : State) (p : Nat) (f : SpFrame) : State :=
  let s := (s0.countN (R.SP_CNT_FEC_CORR p) f.fixed).pmc (41 + p) 0x063 f.fixed bareAttr
  if s.frameGood p f then
    let t := s.takeAck p f
    if (t.spS p).rxSeq = fieldAt f.bytes 0 3 % 2 ^ 20 && 4 ≤ t.spState p && t.spState p < 12 then t.takeFrame p f.bytes else t
  else (if f.again then s.resend p else s).emit (.resendAsk p (s.spS p).rxSeq)

/-- Frames are exchanged from step 4 on, and while held or UNATTESTED. -/
def State.spFrames (s : State) (p : Nat) : Bool := p < 16 && decide (4 ≤ s.spState p) && decide (s.spState p < 12)

/-- SP_FRAME_RX. -/
def execSpFrameRx (p : Nat) (frame : SpFrame) (s : State) : Answer := occurs (s.spFrames p) s (s.frameRx p frame)

/-- R364: no source holds more than 64 packets of the ingress queue. -/
def State.shareLeft (s : State) (src : Nat) : Bool := decide ((s.fj.ingress.filter (fun e => e.2.src = src)).length < 64)

/-- R364: a REQ packet beyond its source's share waits where it is, and packets of other sources pass it. -/
def State.passed (s : State) (q k : Packet) : Bool := q.dest = s.device && q.cls = 1 && !s.shareLeft q.src && q.src ≠ k.src && k.op ≠ FOp.drain

/-- Takes a packet from a receive queue: it is the first of its virtual channel, but for those it may pass; its flits' credits go back to the partner (R304). -/
def State.takeRx (s : State) (p : Nat) (k : Packet) : Option State :=
  if (s.rx p).find? (fun q => q.vc = k.vc && (q = k || !s.passed q k)) = some k then
    let t : State := { s with fj := { s.fj with rx := tset s.fj.rx p ((s.rx p).erase k) } }
    some (if p < 16 && s.spState p = 8 then t.modSp p (fun y => { y with rxUsed := y.rxUsed.modify k.vc (fun m => m - k.flits), freed := y.freed.modify k.vc (· + k.flits) }) else t)
  else none

/-! ### Bring-up rows -/

/-- SP_LOCK_DONE (R311 step 2): lanes locked; training begins. -/
def execSpLockDone (p locked : Nat) (s : State) : Answer :=
  occurs (p < 16 && s.spState p = 2) s
    ((((s.fs (R.SP_LANES p) F.SP_LANES_locked locked).fs R.CLK_STATUS F.CLK_STATUS_lclk_lock (s.fg R.CLK_STATUS F.CLK_STATUS_lclk_lock ||| 2 ^ p)).fs (R.SP_LANES p) F.SP_LANES_failed_here (0xFFFF - locked % 2 ^ 16)).setSp p 3)

/-- The rated reach of a port as a round trip in ns (R306, R305): what its buffers cover at full rate. -/
def reachRtt (p : Nat) (long : Bool) : Nat := if 12 ≤ p && long then 5000 else 500

/-- SP_TRAINING_DONE (R311 step 3, R306, R316): the round trip, the lanes left and the width. -/
def State.trained (s : State) (p rtt failed farFailed : Nat) : State :=
  let st := R.SP_STATUS p
  let long := 12 ≤ p && s.longReach
  let t := ((((s.fs st F.SP_STATUS_rtt (min rtt 0xFFFF)).fs st F.SP_STATUS_over_reach (b2n (decide (reachRtt p long < rtt)))).fs st F.SP_STATUS_long (b2n long)).fs
    (R.SP_LANES p) F.SP_LANES_failed_here (failed ||| (0xFFFF - s.fg (R.SP_LANES p) F.SP_LANES_locked))).fs (R.SP_LANES p) F.SP_LANES_failed_far farFailed
  if (laneWidth (t.failedLanes p)).1 = 3 then t.spAttemptFails p
  else ((t.modSp p (fun x => { x with told := t.fg (R.SP_LANES p) F.SP_LANES_failed_here })).setWidth p).setSp p 4
/-- SP_TRAINING_DONE. -/
def execSpTrainingDone (p rtt failed farFailed : Nat) (s : State) : Answer := occurs (p < 16 && s.spState p = 3) s (s.trained p rtt failed farFailed)

/-- SP_FEC_LOCK_DONE (R311 step 4): frames begin, and the identity exchange with them. -/
def execSpFecLockDone (p : Nat) (s : State) : Answer :=
  occurs (p < 16 && s.spState p = 4) s
    ((s.modSp p (fun x => { x with txSeq := 0, rxSeq := 0, replay := [], resent := 0, part := [], msgIn := [], verdict := 0, reason := 0, switchAt := none, order := none })).setSp p 5)

/-- SP_BRINGUP_TIMEOUT (R311, R312, R323): a step exceeds its bound. -/
def execSpBringupTimeout (p : Nat) (s : State) : Answer :=
  occurs (p < 16 && decide (2 ≤ s.spState p) && decide (s.spState p ≤ 7)) s
    (if s.spState p ≤ 5 then s.spAttemptFails p else s.attestFail p Code.unattested)

/-- SP_BACKOFF_EXPIRY (R312): the port tries again. -/
def execSpBackoffExpiry (p : Nat) (s : State) : Answer :=
  occurs (p < 16 && s.spState p = 13 && !s.spDieOut p && decide (s.mstate < MState.faulted)) s ((s.runTo (s.spS p).retryAt).spStep1 p)

/-- RECEIVED_LIGHT_ABOVE_LOS (R312): the back-off restarts at 1 ms, and a port backing off returns to step 1. -/
def execReceivedLightAboveLos (p : Nat) (s : State) : Answer :=
  let t := s.modSp p (fun x => { x with backoff := 1000000 })
  occurs (p < 16) s (if s.spState p = 13 && !s.spDieOut p && decide (s.mstate < MState.faulted) then t.spStep1 p else t)

/-- IDENT_SEND (R314, R316): the periodic IDENT, every 10 µs in step 5 and every second while held. -/
def execIdentSend (p : Nat) (s : State) : Answer :=
  let st := s.spState p
  let t := s.pass (if st = 5 then 10000 else 1000000000)
  occurs (p < 16 && (st = 5 || st = 9 || st = 10)) s (t.say p (t.identMsg p))

/-- Takes bytes from the front of the received handshake stream. -/
def State.takeMsg (s : State) (p : Nat) (msg : Bytes) : Option State :=
  if !msg.isEmpty && (s.spS p).msgIn.take msg.length = msg then some (s.modSp p (fun x => { x with msgIn := x.msgIn.drop msg.length })) else none

/-- IDENT (R314, R315, R316). -/
def State.identRx (s : State) (p : Nat) (m : Bytes) : State :=
  if m.length ≠ 128 || fieldAt m 0 4 ≠ 0x544E4449 || fieldAt m 4 2 ≠ 1 || fieldAt m 124 4 ≠ crc32c (m.take 124) then s.count (R.SP_CNT_BAD_IDENT p)
  else
    let t := s.keepIdent p m
    let st := s.spState p
    if st = 5 || st = 9 || st = 10 then t.applyVerdict p else t
/-- IDENT: the message is at the front of the handshake stream. -/
def execIdent (p : Nat) (msg : Bytes) (s : State) : Answer :=
  match s.takeMsg p msg with
  | some t => occurs (s.spFrames p) s (t.identRx p msg)
  | none => occurs false s s

/-- LHELLO (R466): the partner's nonce and ephemeral key; this end's LATTEST can leave. -/
def State.helloRx (s : State) (p : Nat) (m : Bytes) : State :=
  let x := s.spS p
  let t := s.modSp p (fun y => { y with helloIn := m })
  match t.report (ownNonce x.helloOut m) with
  | none => t
  | some (r, u) =>
    let lat := leBytes 4 0x5441544C ++ leBytes 2 1 ++ zeros 2 ++ leBytes 4 r.length ++ leBytes 4 u.chain.length ++ r ++ u.chain
    ((u.modSp p (fun y => { y with latOut := lat })).say p lat).startKeying p
/-- LHELLO. -/
def execLhello (p : Nat) (msg : Bytes) (s : State) : Answer :=
  match s.takeMsg p msg with
  | some t => occurs (s.spFrames p && s.spState p = 6 && fieldAt msg 0 4 = 0x4F4C4548 && fieldAt msg 4 2 = 1 && msg.length = 160) s (t.helloRx p msg)
  | none => occurs false s s

/-- LATTEST (R467): the partner's report is judged. -/
def State.lattestRx (s : State) (p : Nat) (m : Bytes) : State :=
  let x := s.spS p
  let rl := fieldAt m 8 4
  let cl := fieldAt m 12 4
  let c := s.attestCode (slice m (16 + rl) cl) (slice m 16 rl) (ownNonce x.helloIn x.helloOut) x.lastIdent (s.spExpect p)
  if c = Code.ok then (s.modSp p (fun y => { y with latIn := m })).startKeying p
  else (s.count R.RIND_CNT_ATT_FAIL).attestFail p c
/-- LATTEST. -/
def execLattest (p : Nat) (msg : Bytes) (s : State) : Answer :=
  match s.takeMsg p msg with
  | some t => occurs (s.spFrames p && s.spState p = 6 && fieldAt msg 0 4 = 0x5441544C && fieldAt msg 4 2 = 1 && msg.length = 16 + fieldAt msg 8 4 + fieldAt msg 12 4 && !(s.spS p).helloIn.isEmpty) s
      (t.lattestRx p msg)
  | none => occurs false s s

/-- LFINISH (R468): the tag verifies and the port is UP, or it is UNATTESTED. -/
def State.finishRx (s : State) (p : Nat) (m : Bytes) : State :=
  match (s.spS p).newKeys with
  | none => s
  | some k => if m = finishMsg k.rxKey k.rxSalt (s.transcript p) then s.spEnter p else s.attestFail p Code.badSignature
/-- LFINISH. -/
def execLfinish (p : Nat) (msg : Bytes) (s : State) : Answer :=
  match s.takeMsg p msg with
  | some t => occurs (s.spFrames p && s.spState p = 7 && fieldAt msg 0 4 = 0x4E49464C && msg.length = 24) s (t.finishRx p msg)
  | none => occurs false s s

/-- ATTEST_RETRY (R323): after 1 s, 2 s and 4 s an UNATTESTED port tries again. -/
def execAttestRetry (p : Nat) (s : State) : Answer := occurs (p < 16 && s.spState p = 11) s ((s.runTo (s.spS p).retryAt).startAttest p)

/-- SP_REENABLE (R323). -/
def execSpReenable (port p : Nat) (s : State) : Answer :=
  let t := s.fs (R.SP_STATUS p) F.SP_STATUS_attest_fails 0
  occurs (s.hostOn port && port = s.tokenPort && p < 16 && s.fg (R.SP_STATUS p) F.SP_STATUS_attest_fails = 4) s (if s.spState p = 12 then t.spStep1 p else t)

/-! ### Lanes and light -/

/-- SP_LANE_FAIL (R317-R319): the lanes of a mask lose their lock or their light in one moment; with the last locked lane the partner is dark (R324). -/
def State.laneLost (s : State) (p lanes : Nat) : State :=
  let t := s.unlock p lanes
  t.lanesFail p lanes (t.fg (R.SP_LANES p) F.SP_LANES_locked = 0)
/-- SP_LANE_FAIL. -/
def execSpLaneFail (p lanes : Nat) (s : State) : Answer :=
  occurs (p < 16 && lanes ≠ 0 && decide (lanes < 2 ^ 16) && decide (2 ≤ s.spState p) && decide (s.spState p ≤ 11)) s (s.laneLost p lanes)

/-- SP_TEST_FAIL (R326): in TEST the named lane is declared failed. -/
def execSpTestFail (port p lane : Nat) (s : State) : Answer :=
  occurs (s.hostOn port && port = s.tokenPort && p < 16 && lane < 16 && s.inTest) s ((s.fs (R.SP_CTL p) F.SP_CTL_test_lane lane).lanesFail p (2 ^ lane) false)

/-- SP_UNC_WINDOW (R317): uncorrectable codewords per lane in a 1 ms window; lanes at the threshold fail. -/
def State.uncWindow (s : State) (p : Nat) (counts : List Nat) : State :=
  let th := s.fg (R.SP_CTL p) F.SP_CTL_unc_thresh
  let c := counts.take 16
  let t := (s.pass 1000000).countN (R.SP_CNT_FEC_UNC p) c.sum
  let m := maskOf (indices 16 (fun i => th ≠ 0 && decide (th ≤ c.getD i 0)))
  if m = 0 then t else t.lanesFail p m false
/-- SP_UNC_WINDOW. -/
def execSpUncWindow (p : Nat) (counts : List Nat) (s : State) : Answer := occurs (s.spFrames p) s (s.uncWindow p counts)

/-- WIDTH_ORDER (R318, R319, R324): the masks are merged; this end answers with its own order where the result differs from what the partner found with the mask it knows of
this end; and the width changes at the named frame. -/
def State.widthOrder (s : State) (p farMask switchAt : Nat) : State :=
  let before := laneWidth (s.failedLanes p)
  let t := (s.fs (R.SP_LANES p) F.SP_LANES_failed_far (s.fg (R.SP_LANES p) F.SP_LANES_failed_far ||| farMask)).modSp p (fun x => { x with order := none })
  let w := laneWidth (t.failedLanes p)
  if w.1 = 3 then t.spDown p 3
  else
    let u := if w ≠ laneWidth (farMask ||| (t.spS p).told) then t.orderWidth p else t
    if w = before then u else (u.modSp p (fun x => { x with switchAt := some switchAt })).switchDue p
/-- WIDTH_ORDER: the order came in a frame. -/
def execWidthOrder (p farMask switchAt : Nat) (s : State) : Answer := occurs (s.spFrames p && (s.spS p).order = some (farMask, switchAt)) s (s.widthOrder p farMask switchAt)

/-- SP_RESTORE (R320): a retrain waits for the next snapshot pause. -/
def execSpRestore (port p : Nat) (s : State) : Answer := occurs (s.hostOn port && port = s.tokenPort && p < 16) s (s.fs (R.SP_CTL p) F.SP_CTL_restore 1)

/-- R190, R193, R320: work that a pause carries can run: the module is in SNAPSHOT and moment A has passed. -/
def State.atPause (s : State) : Bool := match s.pause with
  | some q => q.atA.isSome
  | none => false

/-- SP_RETRAIN_DONE (R320, R324): every lane retrained; `here` and `far` are the lanes that still fail at each end. `own` says that this end's restore ran, not the
partner's. -/
def State.retrained (s : State) (p here far : Nat) (own : Bool) : State :=
  let t := if own then s.fs (R.SP_CTL p) F.SP_CTL_restore 0 else s
  let t := ((t.fs (R.SP_LANES p) F.SP_LANES_failed_here here).fs (R.SP_LANES p) F.SP_LANES_failed_far far).fs (R.SP_STATUS p) F.SP_STATUS_width 0
  let t := (t.fs (R.SP_LANES p) F.SP_LANES_locked (0xFFFF - here % 2 ^ 16)).modSp p (fun x => { x with told := here })
  if (laneWidth (here ||| far)).1 = 3 then t.spDown p 3 else t.setWidth p
/-- SP_RETRAIN_DONE: a port whose link carries frames; this end's own restore runs within a pause of its own, the partner's whenever the partner's pause is. -/
def execSpRetrainDone (p : Nat) (out : Retrain) (s : State) : Answer :=
  occurs (p < 16 && decide (out.here < 2 ^ 16) && decide (out.far < 2 ^ 16) && s.spFrames p && (!out.own || (s.fb (R.SP_CTL p) F.SP_CTL_restore && s.atPause))) s
    (s.retrained p out.here out.far out.own)

/-! ### Watchdogs (R322) -/

/-- A packet, or the rest of one, waits on a virtual channel on which the partner has granted no credit. -/
def State.starving (s : State) (p vc : Nat) : Bool :=
  s.spUp p && s.credit p vc = 0 && (s.fj.xq.any (fun h => h.sp = p && h.pkt.vc = vc) || (match (s.spS p).tail with
    | some t => t.2.1 = vc
    | none => false))

/-- SP_CREDIT_WATCHDOG (R322). -/
def State.creditWatchdog (s : State) (p vc : Nat) : State :=
  let since := tgetD (s.spS p).starved vc s.now
  let wd := max 1 (s.fg (R.SP_CTL p) F.SP_CTL_credit_wd)
  let t := ((s.runTo (since + 1000 * wd)).raise (R.SP_STATUS p) F.SP_STATUS_slow).count (R.SP_CNT_WD p)
  let u := t.modSp p (fun x => { x with starved := tset x.starved vc since })
  match (s.spS p).wdLogged with
  | some l => if t.now < l + 1000000000 then u else (u.modSp p (fun x => { x with wdLogged := some t.now })).log Code.ok 0 (0x4000 + p) [13, BitVec.ofNat 8 vc]
  | none => (u.modSp p (fun x => { x with wdLogged := some t.now })).log Code.ok 0 (0x4000 + p) [13, BitVec.ofNat 8 vc]
/-- SP_CREDIT_WATCHDOG. -/
def execSpCreditWatchdog (p vc : Nat) (s : State) : Answer := occurs (vc < 10 && s.starving p vc) s (s.creditWatchdog p vc)

/-- SP_STALL_LIMIT (R322): the port goes down with cause STALL. -/
def execSpStallLimit (p vc : Nat) (s : State) : Answer :=
  let lim := s.fg (R.SP_CTL p) F.SP_CTL_stall_limit
  occurs (vc < 10 && s.starving p vc && lim ≠ 0) s ((s.runTo (tgetD (s.spS p).starved vc s.now + 1000 * lim)).spDown p 5)

/-- LINK_REKEY (R470): a notice in the handshake stream names the frame at which this end's key and salt change: the next one whose sequence number, the low bits of its
frame count (R469), is 0 (DESIGN CHOICE; assumption log 144). -/
def State.rekey (s : State) (p : Nat) : State := (s.say p (Config.rekeyHead ++ leBytes 3 0)).modSp p (fun x => { x with rekeyTx := some 0 })
/-- LINK_REKEY: the frame count has reached 2^32. -/
def execLinkRekey (p : Nat) (s : State) : Answer :=
  occurs (p < 16 && (s.spS p).rekeyTx.isNone && (match (s.spS p).keys with
    | some k => decide (2 ^ 32 ≤ k.txCount)
    | none => false)) s (s.rekey p)

/-- SP_CLEAR_COUNTS (R326). -/
def execSpClearCounts (port p : Nat) (s : State) : Answer :=
  occurs (s.hostOn port && port = s.tokenPort && p < 16) s (s.zeroRegs [R.SP_CNT_REPLAY p, R.SP_CNT_FEC_CORR p, R.SP_CNT_FEC_UNC p, R.SP_CNT_WD p, R.SP_CNT_QDROP p, R.SP_CNT_DROP p,
    R.SP_CNT_BAD_IDENT p, R.SP_CNT_DOWN p])

/-! ### The crossbar (R197, R198) -/

/-- A head that needs no credit: quarantined traffic of an UNATTESTED port, which grants none (R311, R323). -/
def State.headFree (s : State) (h : XHead) : Bool := s.spState h.sp = 11

/-- R323: an UNATTESTED port sends at most 64 flits in 1 ms. -/
def State.quarOpen (s : State) (p n : Nat) : Bool := s.spState p ≠ 11 || decide ((s.quarantine (s.spS p).quarTx).2 + n ≤ 64)

/-- R320: the port's own restore is running. -/
def State.restoring (s : State) (p : Nat) : Bool := s.fb (R.SP_CTL p) F.SP_CTL_restore && s.atPause

/-- R439: ripening traffic of this module, which no gate holds and which goes after transit heads. -/
def ripensPkt (k : Packet) : Bool := k.cls = 4 && k.chan = 0xF3 && !k.transit

/-- R359: a marker leaves behind every packet of the old epoch that waits for its port and virtual channel. -/
def State.markerClear (s : State) (h : XHead) : Bool :=
  h.pkt.op ≠ FOp.drain || s.fj.xq.all (fun x => !(x.sp = h.sp && x.pkt.vc = h.pkt.vc && x.pkt.epoch = h.pkt.epoch && x.pkt.op ≠ FOp.drain))

/-- R197, R262: a head is eligible: the port is UP (or carries quarantined traffic of R323) and not being retrained, its output is free, its virtual channel has a credit, the links it crosses
send (R190), and budgets cover the packet. -/
def State.headOk (s : State) (h : XHead) : Bool :=
  let n := h.pkt.flits
  s.spTakes h.pkt h.sp && s.markerClear h && s.quarOpen h.sp n && !s.restoring h.sp
  && (s.spS h.sp).tail.isNone && (s.headFree h || decide (0 < s.credit h.sp h.pkt.vc))
  && decide ((s.spS h.sp).replay.length + cdiv n 35 ≤ replayRoom h.sp)
  && (h.inp = 41 || s.outSends h.out n) && (40 ≤ h.inp || s.inSends h.inp n)
  && (ripensPkt h.pkt || ((h.inp = 41 || s.covers h.act 4 (xOut h.out) n) && (40 ≤ h.inp || s.covers h.act 4 (xIn h.inp) n) && s.covers h.act 5 h.sp n))

/-- The turn key of an input at an output: each local drop is an input of its own port. -/
def turnKey (out inp : Nat) : Nat := if inp = 40 then 112 + out else 64 + inp

/-- R391: how many packets a group may send in a round. -/
def State.collWeight (s : State) (g : Nat) : Nat := match findRec s.img.cfg RT.group g with
  | some r => max 1 (r.at 11 1)
  | none => 1

/-- Key of the group that an output served last, and of its packets in this round. -/
def roundKey (out : Nat) : Nat := 256 + out

/-- R391: the first COLL packet of each group that an input offers to an output on a virtual channel, if it is eligible. A group's packets carry its number as channel. -/
def State.groupHeads (s : State) (out inp vc : Nat) : List XHead :=
  let hs := s.fj.xq.filter (fun h => h.out = out && h.inp = inp && h.pkt.vc = vc)
  ((hs.map (fun h => h.pkt.chan)).eraseDups.filterMap (fun g => hs.find? (fun h => h.pkt.chan = g))).filter s.headOk

/-- R391: the group whose turn it is at an output, among those with a COLL packet that can go from any input: the one whose round is not over, else the next. The transmitter
behind a hub port's output serves what that output grants. -/
def State.groupTurn (s : State) (out : Nat) : Option Nat :=
  let gs := ((List.range 42).flatMap (fun inp => (s.groupHeads out inp 6 ++ s.groupHeads out inp 7).map (fun h => h.pkt.chan))).eraseDups
  let last := tgetD s.fj.xlast (roundKey out) 0
  if gs.contains (last / 256) && decide (last % 256 < s.collWeight (last / 256)) then some (last / 256)
  else ((List.range 256).map (fun i => (last / 256 + 1 + i) % 256)).find? gs.contains

/-- R391: the COLL packet an input offers on a virtual channel: one of the group whose turn it is. -/
def State.collHead (s : State) (out inp vc : Nat) : Option XHead := match s.groupHeads out inp vc with
  | [] => none
  | hs => match s.groupTurn out with
    | some g => hs.find? (fun h => h.pkt.chan = g)
    | none => none

/-- R391: a granted COLL packet counts in its group's round. -/
def State.roundStep (s : State) (out : Nat) (h : XHead) : State :=
  if h.pkt.cls ≠ 3 then s
  else
    let last := tgetD s.fj.xlast (roundKey out) 0
    let n := if last / 256 = h.pkt.chan && decide (last % 256 < s.collWeight h.pkt.chan) then last + 1 else 256 * h.pkt.chan + 1
    { s with fj := { s.fj with xlast := tset s.fj.xlast (roundKey out) n } }

/-- R439: a transit head can go to an output. -/
def State.transitWaits (s : State) (out : Nat) : Bool :=
  (List.range 42).any (fun inp => (List.range 10).any (fun vc => match s.fj.xq.find? (fun h => h.out = out && h.inp = inp && h.pkt.vc = vc) with
    | some h => h.pkt.transit && s.headOk h
    | none => false))

/-- The head of a virtual channel from an input to an output (R198), if it is eligible. -/
def State.vcHead (s : State) (out inp vc : Nat) : Option XHead :=
  if vc / 2 = 3 then s.collHead out inp vc
  else match s.fj.xq.find? (fun h => h.out = out && h.inp = inp && h.pkt.vc = vc) with
  | some h => if s.headOk h && !(ripensPkt h.pkt && s.transitWaits out) then some h else none
  | none => none

/-- R197: the head an input offers to an output: CTRL first, else the virtual channels in turn (assumption log 145). -/
def State.inHead (s : State) (out inp : Nat) : Option XHead :=
  match (s.vcHead out inp 0).orElse (fun _ => s.vcHead out inp 1) with
  | some h => some h
  | none =>
    let last := tgetD s.fj.xlast (turnKey out inp) 9
    (List.range 10).findSome? (fun i => s.vcHead out inp ((last + 1 + i) % 10))

/-- R197: the input that an output grants: one with a CTRL head, else the inputs in turn. Of several CTRL heads the inputs take the same turns, and of one input's the low
virtual channel goes first; a CTRL grant moves the turns like any other (DESIGN CHOICE; assumption log 145). -/
def State.xbarPick (s : State) (out : Nat) : Option Nat :=
  let last := tgetD s.fj.xlast out 41
  let inOrder := (List.range 42).map (fun i => (last + 1 + i) % 42)
  match inOrder.find? (fun i => (s.vcHead out i 0).isSome || (s.vcHead out i 1).isSome) with
  | some i => some i
  | none => inOrder.find? (fun i => (s.inHead out i).isSome)

/-- A grant: flits charged on both instances and at the transmitter, the packet sent (R197, R262). -/
def State.grant (s : State) (out inp : Nat) (h : XHead) : State :=
  let n := h.pkt.flits
  let t : State := { s with fj := { s.fj with xq := s.fj.xq.erase h, xlast := tset (tset s.fj.xlast out inp) (turnKey out inp) h.pkt.vc } }.roundStep out h
  let u := if inp = 41 then t else (t.charge h.act 4 (xOut out) n).switched inp out n
  let v := if 40 ≤ inp then u else u.charge h.act 4 (xIn inp) n
  let q := v.quarantine (v.spS h.sp).quarTx
  let v := if v.spState h.sp = 11 then v.modSp h.sp (fun y => { y with quarTx := (q.1, q.2 + n) }) else v
  let a := pktAttr (if h.inp < 40 then 0x37 else s.pktMaster h.pkt.cls h.iss) h.pkt
  State.drainPump ((((v.charge h.act 5 h.sp n).pmc 40 0x040 1 a).pmc (41 + h.sp) 0x060 n a).transmit h.sp out h.pkt (s.headFree h))

/-- XBAR_GRANT. -/
def execXbarGrant (out inp : Nat) (s : State) : Answer :=
  match s.inHead out inp with
  | some h => occurs (out < 40 && s.xbarPick out = some inp) s (s.grant out inp h)
  | none => occurs false s s

end Machine
end Sys2Proof
end

