-- ==== Sys2Proof/Machine/VecFn.lean ====
section
/-!
DEFINITION. The functions of the vector unit (R103-R106): correctly rounded operations and the midpoint rule, computed in
fixed point with 400 fraction bits, far beyond the 2^-10 ulp at which the midpoint rule is judged.
-/
namespace Sys2Proof
namespace Machine

/-- Fraction bits of the working fixed point. -/
def fxP : Nat := 400

/-- One in the working fixed point. -/
def fxOne : Nat := 2 ^ fxP

/-- Product of two fixed-point numbers. -/
def fxMul (a b : Nat) : Nat := a * b / fxOne

/-- The sum over k of z^(2k+1) / (2k+1) with sign `alt` (arctangent) or not (inverse hyperbolic tangent). -/
def oddSeries (alt : Bool) (z2 : Nat) : Nat → Nat → Nat → Int → Int
  | 0, _, _, acc => acc
  | n + 1, k, t, acc =>
    oddSeries alt z2 n (k + 1) (fxMul t z2) (if alt && k % 2 = 1 then acc - (t / (2 * k + 1) : Nat) else acc + (t / (2 * k + 1) : Nat))

/-- Inverse hyperbolic tangent of z, for z at most 1/3. -/
def fxAtanh (z : Nat) : Nat := (oddSeries false (fxMul z z) 140 0 z 0).toNat

/-- ln 2 = 2 artanh(1/3). -/
def fxLn2 : Nat := 2 * fxAtanh (fxOne / 3)

/-- Pi by Machin's formula. -/
def fxPi : Nat :=
  (16 * oddSeries true (fxOne / 25) 100 0 (fxOne / 5) 0 - 4 * oddSeries true (fxOne / 57121) 60 0 (fxOne / 239) 0).toNat

/-- The exponential series, for arguments below 1. -/
def expSeries (x : Nat) : Nat → Nat → Nat → Nat → Nat
  | 0, _, _, acc => acc
  | n + 1, k, t, acc => expSeries x n (k + 1) (fxMul t x / (k + 1)) (acc + t)

/-- e^x for x below 1, in fixed point. -/
def fxExp (x : Nat) : Nat := expSeries x 110 0 fxOne 0

/-- A finite number's magnitude in fixed point. -/
def fxOf (m : Nat) (q : Int) : Nat :=
  if 0 ≤ q + fxP then m * 2 ^ (q + fxP).toNat else m / 2 ^ (-(q + fxP)).toNat

/-- Floor and fraction of a signed fixed-point number. -/
def fxSplit (x : Int) : Int × Nat := (x / (fxOne : Nat), (x % (fxOne : Nat)).toNat)

/-- The number (f / 2^400) · 2^n. -/
def fxNum (f : Nat) (n : Int) : Num := .fin false f (n - fxP)

/-- The signed fixed-point value of a finite number, its magnitude capped at 2^10. -/
def fxSigned (s : Bool) (m : Nat) (q : Int) : Int :=
  let a := if 10 < q + blen m then 1024 * fxOne else fxOf m q
  if s then -(a : Int) else a

/-- 2^(x) for a fixed-point x. -/
def fxExp2 (x : Int) : Num :=
  let p := fxSplit x
  fxNum (fxExp (fxMul p.2 fxLn2)) p.1

/-- e^x for a fixed-point x. -/
def fxExpN (x : Int) : Num := fxExp2 (x * (fxOne : Nat) / (fxLn2 : Nat))

/-- log2 of a positive finite number: its mantissa's logarithm over ln 2 plus its exponent, signed fixed point. -/
def fxLog2 (m : Nat) (q : Int) : Int :=
  let b := blen m - 1
  let u := m * 2 ^ fxP / 2 ^ b
  let z := (u - fxOne) * fxOne / (u + fxOne)
  ((q + b) * (fxOne : Nat)) + (2 * fxAtanh z * fxOne / fxLn2 : Nat)

/-- A signed fixed-point value as a number. -/
def fxToNum (x : Int) : Num := .fin (decide (x < 0)) x.natAbs (-(fxP : Int))

/-- The midpoint rule of R104 for a positive or negative value: nearest even, and the even neighbour within 2^-10 ulp of a midpoint. -/
def midpointRound (x : Num) : Nat :=
  match x with
  | .fin s m e =>
    if m = 0 then b2n s * 2 ^ 31
    else
      let q := max (e + blen m - 1 - 23) (-149)
      if q ≤ e then encodeFin fp32 0 s m e
      else
        let n := (q - e).toNat
        let lo := m / 2 ^ n
        let dist := (2 * (m % 2 ^ n) : Int) - (2 ^ n : Nat)
        let near := decide (dist.natAbs * 512 ≤ 2 ^ n)
        let up := if near then lo % 2 = 1 else decide (0 < dist)
        encodeFin fp32 0 s (if up then lo + 1 else lo) q
  | y => encodeNum fp32 0 y

/-- The reciprocal of a number in (1, 2^k) in fixed point. -/
def fxRecip (x : Nat) : Nat := fxOne * fxOne / x

/-- A number in fixed point; the exponential values used below fit. -/
def fxVal : Num → Nat
  | .fin _ m q => fxOf m q
  | _ => 0

/-- tanh of a positive finite number. -/
def tanhPos (m : Nat) (q : Int) : Num :=
  if 7 < q + blen m then .fin false (2 ^ 100 - 1) (-100)
  else
    let t := fxVal (fxExpN (-(2 * fxOf m q : Nat)))
    .fin false ((fxOne - t) * fxOne / (fxOne + t)) (-(fxP : Int))

/-- The logistic function; its tails beyond ±512 round to 0 and 1. -/
def sigmoidNum (s : Bool) (m : Nat) (q : Int) : Num :=
  if 9 < q + blen m then (if s then .fin false 1 (-300) else .fin false (2 ^ 100 - 1) (-100))
  else
    let t := fxVal (fxExpN (-(fxOf m q : Nat)))
    if s then .fin false (t * fxOne / (fxOne + t)) (-(fxP : Int)) else .fin false (fxOne * fxOne / (fxOne + t)) (-(fxP : Int))

/-- The positive series of erf: sum of 2^n x^(2n+1) / (1·3·…·(2n+1)). -/
def erfSeries (x2 : Nat) : Nat → Nat → Nat → Nat → Nat
  | 0, _, _, acc => acc
  | n + 1, k, t, acc => erfSeries x2 n (k + 1) (fxMul t x2 * 2 / (2 * k + 3)) (acc + t)

/-- erf of a positive finite number; beyond 8 it differs from 1 by less than 2^-90. -/
def erfPos (m : Nat) (q : Int) : Num :=
  if 3 < q + blen m then .fin false (2 ^ 100 - 1) (-100)
  else
    let x := fxOf m q
    let x2 := fxMul x x
    let e := fxVal (fxExpN (-(x2 : Int)))
    let sp := isqrt (fxPi * fxOne)
    .fin false (fxMul (2 * erfSeries x2 420 0 x 0 * fxOne / sp) e) (-(fxP : Int))

/-- The sign put on a number. -/
def Num.withSign (s : Bool) : Num → Num
  | .fin _ m q => .fin s m q
  | .inf _ => .inf s
  | .nan => .nan

/-- The one-operand functions 0x09-0x11 of R125, with the special inputs of R105; an FP32 result. -/
def unaryFn (func : Nat) (x : Num) : Nat :=
  match func, x with
  | _, .nan => nanBits fp32
  | 0x09, .inf s => b2n s * 2 ^ 31
  | 0x09, .fin s m q => if m = 0 then encodeNum fp32 0 (.inf s) else encodeNum fp32 0 (divNum (.fin false 1 0) (.fin s m q))
  | 0x0A, .inf s => if s then nanBits fp32 else encodeNum fp32 0 (.inf false)
  | 0x0A, .fin s m q => if m = 0 then b2n s * 2 ^ 31 else if s then nanBits fp32 else encodeNum fp32 0 (sqrtFin m q)
  | 0x0B, .inf s => if s then nanBits fp32 else 0
  | 0x0B, .fin s m q =>
    if m = 0 then encodeNum fp32 0 (.inf s) else if s then nanBits fp32
    else
      -- 1 / sqrt(x) = sqrt(x) / x; floor of the square of the scaled value keeps a sticky bit
      let k : Nat := if q % 2 = 0 then 400 else 401
      let r := isqrt (2 ^ (2 * k) / m)
      let ex := decide (r * r * m ≠ 2 ^ (2 * k))
      if q % 2 = 0 then encodeNum fp32 0 (.fin false (2 * r + b2n ex) (-(q / 2) - k - 1))
      else
        let r2 := isqrt (2 ^ (2 * k) / (2 * m))
        let ex2 := decide (r2 * r2 * (2 * m) ≠ 2 ^ (2 * k))
        encodeNum fp32 0 (.fin false (2 * r2 + b2n ex2) (-((q - 1) / 2) - k - 1))
  | 0x0C, .inf s => if s then 0 else encodeNum fp32 0 (.inf false)
  | 0x0C, .fin s m q => encodeNum fp32 0 (fxExp2 (fxSigned s m q))
  | 0x0D, .inf s => if s then nanBits fp32 else encodeNum fp32 0 (.inf false)
  | 0x0D, .fin s m q =>
    if m = 0 then encodeNum fp32 0 (.inf true) else if s then nanBits fp32
    else encodeNum fp32 0 (fxToNum (fxLog2 m q))
  | 0x0E, .inf s => if s then 0 else encodeNum fp32 0 (.inf false)
  | 0x0E, .fin s m q => midpointRound (fxExpN (fxSigned s m q))
  | 0x0F, .inf s => encodeNum fp32 0 (.fin s 1 0)
  | 0x0F, .fin s m q => if m = 0 then b2n s * 2 ^ 31 else midpointRound ((tanhPos m q).withSign s)
  | 0x10, .inf s => if s then 0 else encodeNum fp32 0 (.fin false 1 0)
  | 0x10, .fin s m q => midpointRound (sigmoidNum s m q)
  | 0x11, .inf s => encodeNum fp32 0 (.fin s 1 0)
  | 0x11, .fin s m q => if m = 0 then b2n s * 2 ^ 31 else midpointRound ((erfPos m q).withSign s)
  | _, _ => 0

/-- R106: the sum of a row of FP32 numbers, accumulated in a long pair anchored at the largest q plus 24, and whether a value lies more than 152 binades below the
largest, which makes it inexact. It is rounded once by its user. -/
def rsumNum (xs : List Num) : Num × Bool :=
  let nan := xs.any Num.isNan
  let pinf := xs.any (fun x => x.isInf && !x.neg)
  let ninf := xs.any (fun x => x.isInf && x.neg)
  if nan || (pinf && ninf) then (.nan, false)
  else if pinf then (.inf false, false)
  else if ninf then (.inf true, false)
  else
    match maxI ((xs.filter Num.live).map Num.exp) with
    | none => (.fin false 0 0, false)
    | some t =>
      let elo := t + 24 - 176
      let s : Int := (xs.map (fun (x : Num) => (if elo ≤ x.exp then x.sig * (2 ^ (x.exp - elo).toNat : Nat) else (shrTrunc x.sig (elo - x.exp).toNat).1 : Int))).foldl (· + ·) 0
      (.fin (decide (s < 0)) s.natAbs elo, xs.any (fun x => x.live && decide (x.exp < elo)))

end Machine
end Sys2Proof
end

