-- ==== Sys2Proof/Machine/SeqUnits.lean ====
section
/-!
DEFINITION. What the array, vector, move and route units do when an instruction starts (R119): the matrix instruction with its
check and retry (R58-R68, R124), VOP (R125, R126), copies (R127), route messages (R128, R144), and the canary (R54-R57).
-/
namespace Sys2Proof
namespace Machine

/-! ### MMA -/

/-- The operand matrix of a descriptor, rows first: operand A as M rows along K, operand B as K rows along N (R122). -/
def State.operand (s : State) (core : Nat) (isA : Bool) (d : Desc) : List (List Num) :=
  let along := isA ≠ d.colMajor
  let m := s.descNums core d along
  if d.colMajor then transpose d.cols m else m

/-- Cuts a matrix to `r` rows of `c` elements. -/
def cut {α : Type} (r c : Nat) (m : List (List α)) : List (List α) := (m.take r).map (fun x => x.take c)

/-- R71: whether the check is disabled, which takes effect only in TEST. -/
def State.checkOff (s : State) (core : Nat) : Bool := s.inTest && s.fb (R.ARR_CTL (core / 4) (core % 4)) F.ARR_CTL_check_disable

/-- The array's view of an MMA word (R124); a complex K counts its parts (R102). -/
def State.mmaCfg (s : State) (core : Nat) (q : QIns) : MmaCfg :=
  let a := (q.descs.getD 0 ⟨0, 0, 0, 0, 0, false, false, 0, 0, 0⟩).fmt
  let b := (q.descs.getD 1 ⟨0, 0, 0, 0, 0, false, false, 0, 0, 0⟩).fmt
  ⟨bits q.word 31 13, bits q.word 44 13, bits q.word 57 13 * (if bit q.word 75 then 2 else 1), a, b, bits q.word 70 3, bits q.word 73 2,
   s.fb (R.ARR_CTL (core / 4) (core % 4)) F.ARR_CTL_check_strict, s.checkOff core⟩

/-- R79: an armed injection, in TEST only. -/
def State.armed (s : State) (core : Nat) : Option (Nat × Nat) :=
  let r := R.ARR_INJECT (core / 4) (core % 4)
  if s.inTest && s.fb r F.ARR_INJECT_arm then some (s.fg r F.ARR_INJECT_bit, s.fg r F.ARR_INJECT_column) else none

/-- Writes one raw element of `b` bits at stored row and column of an output descriptor (sub-byte neighbours stay). -/
def State.putElem (s : State) (core base stride b r c v : Nat) : State :=
  let lo := c * b
  let off := base + r * stride + lo / 8
  let n := cdiv (lo % 8 + b) 8
  s.sramWrite core off (leBytes n (setBits (leNat (s.memRdN (sramKey core off) n)) (lo % 8) b v))

/-- Writes encoded rows of one fold into C: row-major whole pieces, or element by element where C is column-major or complex. -/
def State.putFold (s : State) (core : Nat) (c : Desc) (b : Nat) (mul add : Nat) (fold : Nat × Nat × List (List Nat)) : State :=
  (fold.2.2.zipIdx).foldl (fun t p =>
    let r := fold.1 + p.2
    if !c.colMajor && mul = 1 then t.sramWrite core (c.base + r * c.stride + fold.2.1 * b / 8) (packRaw b p.1)
    else (p.1.zipIdx).foldl (fun u q =>
      let col := (fold.2.1 + q.2) * mul + add
      if c.colMajor then u.putElem core c.base c.stride b col r q.1 else u.putElem core c.base c.stride b r col q.1) t) s

/-- Writes every completed fold of an attempt into C (R62: rows already written stand). -/
def State.putTiles (s : State) (core : Nat) (c : Desc) (out : Nat) (complex : Bool) (o : MmaOut) : State :=
  let b := outBits out
  let m := if complex then 2 else 1
  let t := o.re.folds.foldl (fun u f => u.putFold core c b m 0 f) s
  match o.im with
  | some i => i.folds.foldl (fun u f => u.putFold core c b m 1 f) t
  | none => t

/-- R78: the counters of one attempt. -/
def State.addCounts (s : State) (core : Nat) (n : MmaCnt) : State :=
  let d := core / 4
  let c := core % 4
  (((((s.countN (R.ARR_CNT_CHECKED d c) n.checked).countN (R.ARR_CNT_SKIP_SPECIAL d c) n.special).countN (R.ARR_CNT_SKIP_OVERFLOW d c) n.overflow).countN
    (R.ARR_CNT_SKIP_INEXACT d c) n.inexact).countN (R.ARR_CNT_SKIP_WIDE d c) n.wide).countN (R.ARR_CNT_SPLIT d c) n.split

/-- R138: the extra ACLK of an output row of `n` elements wider than 1 KiB: 3 for LF128, else 1. -/
def wideRow (out n : Nat) : Nat := if n * outBits out / 8 ≤ 1024 then 0 else if out = 0 then 3 else 1

/-- Where the accesses of an attempt lie in SRAM, pass by pass (R44, R48, R124): streamed rows of A, stationary rows of B, output rows of C. -/
def passLanes (cfg : MmaCfg) (a b c : Desc) (complex : Bool) (o : MmaOut) : List PassLanes :=
  let ps := o.run.cnt.passes
  let ck := if fourBit cfg then 512 else 256
  let nre := o.re.run.cnt.passes.length
  let mul := if complex then 2 else 1
  let cb := outBits cfg.out
  (ps.zipIdx).map (fun e =>
    let p := e.1
    let nc := min 256 (cfg.n - p.col)
    let ends : Bool := e.2 + 1 = nre || (match ps[e.2 + 1]? with
      | some x => decide (x.row0 ≠ p.row0) || decide (x.col ≠ p.col)
      | none => !o.run.more)
    let k := min ck (cfg.k - p.chunk)
    { run := p, stream := ⟨a.base, a.stride, fmtBits a.fmt, a.colMajor, p.chunk, k⟩, stat := ⟨b.base, b.stride, fmtBits b.fmt, b.colMajor, p.col, nc⟩,
      statRow := p.chunk, statRows := k, perClock := ck / 256,
      out := if ends then some ⟨c.base, c.stride, cb, c.colMajor, p.col * mul, nc * mul⟩ else none })

/-- R138: the ACLK withdrawn from the array over an attempt, by collisions and by wide output rows. -/
def arrayStall (cfg : MmaCfg) (a b c : Desc) (complex : Bool) (o : MmaOut) : Nat :=
  let l := passLanes cfg a b c complex o
  collisions ((passStarts 256 o.run.cnt.passes).zip l |>.map (fun x => (x.1.1, x.2)))
    + (l.map (fun p => if p.out.isSome then p.run.rows * wideRow cfg.out (min 256 (cfg.n - p.run.col)) else 0)).sum

/-- R62, R65, R75, R76: an array error is recorded, its pass index saturated; while one is recorded a later one only sets lost. -/
def State.arrError (s : State) (core cause pc pass row act : Nat) (diff : Int) : State :=
  let st := R.ARR_ERR_STATUS (core / 4) (core % 4)
  if s.fb st F.ARR_ERR_STATUS_valid then s.fs st F.ARR_ERR_STATUS_lost 1
  else
    let info := R.ARR_ERR_INFO (core / 4) (core % 4)
    let t := (((((((s.fs st F.ARR_ERR_STATUS_code Code.arrayCheck).fs st F.ARR_ERR_STATUS_cause cause).fs st F.ARR_ERR_STATUS_retried 0).fs st F.ARR_ERR_STATUS_failed 0).fs st F.ARR_ERR_STATUS_valid 1).fs
      info F.ARR_ERR_INFO_instr pc).fs info F.ARR_ERR_INFO_pass (min 0xFFFFF pass)).fs info F.ARR_ERR_INFO_row row
    (t.fs info F.ARR_ERR_INFO_activity act).wr (R.ARR_ERR_DIFF (core / 4) (core % 4)) (BitVec.ofNat 64 (uint 64 diff))

/-- Two half-open ranges meet. -/
def meets (a b : Nat × Nat) : Bool := decide (a.1 < b.2) && decide (b.1 < a.2)

/-- The SRAM range of a descriptor with elements of `b` bits: from its first byte to its last, the gaps between its rows included (DESIGN CHOICE; assumption log 138). -/
def Desc.range (d : Desc) (b : Nat) : Nat × Nat := (d.base, d.base + (d.rows - 1) * d.stride + cdiv (d.cols * b) 8)

/-- The SRAM ranges of an operand: its elements and its scales. `along`: K runs along a stored row. -/
def Desc.ranges (d : Desc) (along : Bool) : List (Nat × Nat) :=
  let sc := d.scaleShape along
  d.range (fmtBits d.fmt) :: (if d.scaled then [(d.scaleBase, d.scaleBase + (sc.1 - 1) * d.scaleStride + sc.2)] else [])

/-- The top 16 MiB of SRAM (R68). -/
def accRange : Nat × Nat := (7 * 2 ^ 24, 2 ^ 27)

/-- R63: an MMA may be retried only if its output ranges do not overlap its input ranges; a range is the whole extent of a descriptor (assumption log 138). -/
def retryable (cfg : MmaCfg) (a b c : Desc) : Bool :=
  !((a.ranges (!a.colMajor) ++ b.ranges b.colMajor).any (fun r => meets r (c.range (outBits cfg.out)) || meets r accRange))

/-- The faults of an environment as the array meets them. -/
def envFaults (e : UnitEnv) : List ArrFault := e.faults.map (fun f => ⟨f.attempt, f.pass, f.row, f.col, f.bit, f.align⟩)

/-- R63, R62 step 5: what a failed instruction leaves: the recorded cause of an error this instruction recorded changes, and the core becomes FAILED. -/
def State.arrFail (s : State) (core : Nat) (mine retried : Bool) : State :=
  let st := R.ARR_ERR_STATUS (core / 4) (core % 4)
  let t := if mine then
      ((if s.fg st F.ARR_ERR_STATUS_cause = 1 then s.fs st F.ARR_ERR_STATUS_cause (if retried then 2 else 5) else s).fs st F.ARR_ERR_STATUS_failed 1).fs st F.ARR_ERR_STATUS_retried (b2n retried)
    else s
  (t.coreFailed core).log Code.arrayCheck 2 (0x2000 + core) []

/-- R515: what an MMA adds to the event counters of its core: ACLK the array is held, ACLK withdrawn (R138), passes and extra passes. -/
def State.mmaPmc (s : State) (core act : Nat) (c : MmaCnt) (hold wide : Nat) : State :=
  let a := coreAttr core act
  (((s.pmc core 0x001 hold a).pmc core 0x003 wide a).pmc core 0x004 c.passes.length a).pmc core 0x005 c.split a

/-- The array executes an MMA: passes, check, counters, retry, outputs (R58-R68). The answer is the state and the completion code. An error that
the retry meets again is the same recorded error, not a later one that would set lost (R65; DEDUCED; assumption log 63). -/
def State.mmaRun (s : State) (q : QIns) (env : UnitEnv) : State × Nat :=
  match q.descs with
  | [a, b, c] =>
    let core := q.core
    let d := core / 4
    let k := core % 4
    let cx := bit q.word 75
    let cfg := s.mmaCfg core q
    let e1 := (s.upset env.upsets).descEcc core a (!a.colMajor)
    let e2 := e1.1.descEcc core b b.colMajor
    if e1.2 || e2.2 then (e2.1, Code.memUncorrectable)
    else
      let x := cut cfg.m cfg.k (s.operand core true a)
      let y := cut cfg.k cfg.n (s.operand core false b)
      let fs := envFaults env
      let sc := tgetD s.seq.prescanned core (preScan q.no x y)
      let o1 := runMma cfg cx sc fs 0 (s.armed core) x y
      let used (t : State) (o : MmaOut) : State := if o.run.inject.isNone then t.fs (R.ARR_INJECT d k) F.ARR_INJECT_arm 0 else t
      let after (t : State) (o : MmaOut) : State :=
        let u := (((used t o).accTake core).addCounts core o.run.cnt).putTiles core c cfg.out cx o
        let w := arrayStall cfg a b c cx o
        ((u.countN (R.SEQ_ARR_STALL d k) w).owe core 0 0 core (arrayHold o.run.cnt.passes + w) 1).mmaPmc core q.act o.run.cnt (arrayHold o.run.cnt.passes + w) w
      let t1 := after e2.1 o1
      let code (o : MmaOut) : Nat := if o.inexact then Code.inexact else Code.ok
      match o1.run.error with
      | none => (t1, code o1)
      | some e =>
        let mine := !t1.fb (R.ARR_ERR_STATUS d k) F.ARR_ERR_STATUS_valid
        let t2 := t1.arrError core (if e.align then 4 else 1) q.pc e.pass e.row q.act e.diff
        if s.fb (R.ARR_CTL d k) F.ARR_CTL_retry_enable && retryable cfg a b c then
          let o2 := runMma cfg cx sc fs 1 o1.run.inject x y
          let t3 := after t2 o2
          match o2.run.error with
          | none =>
            let t4 := (t3.count (R.ARR_CNT_RETRY d k)).log Code.arrayCheck 1 (0x2000 + core) []
            (if mine then t4.fs (R.ARR_ERR_STATUS d k) F.ARR_ERR_STATUS_retried 1 else t4, code o2)
          | some _ => (t3.arrFail core mine true, Code.arrayCheck)
        else (t2.arrFail core mine false, Code.arrayCheck)
  | _ => (s, Code.ok)

/-- R90, R119: the instruction at the head of the array queue can be scanned: the running one does not write its operands. -/
def State.canPrescan (s : State) (core : Nat) : Bool :=
  match s.queue core 0 with
  | q :: _ =>
    (match s.running core 0, q.descs with
      | some r, a :: b :: _ =>
        !((a.ranges (!a.colMajor) ++ b.ranges b.colMajor).any (fun x => meets x ((r.descs.getD 2 ⟨0, 0, 0, 0, 0, false, false, 0, 0, 0⟩).range (outBits (bits r.word 70 3)))))
      | _, _ => true)
  | [] => false

/-- The operands of an MMA as the array reads them: A as M rows along K, B as K rows along N. -/
def State.mmaOperands (s : State) (core : Nat) (q : QIns) (a b : Desc) : List (List Num) × List (List Num) :=
  let cfg := s.mmaCfg core q
  (cut cfg.m cfg.k (s.operand core true a), cut cfg.k cfg.n (s.operand core false b))

/-- R90: the pre-scan of the MMA at the head of the array queue reads the exponents of both operands and fixes its anchors (R88). -/
def State.scanHead (s : State) (core : Nat) : State :=
  match s.queue core 0 with
  | q :: _ => match q.descs with
    | a :: b :: _ =>
      let x := s.mmaOperands core q a b
      { s with seq := { s.seq with prescanned := tset s.seq.prescanned core (preScan q.no x.1 x.2) } }
    | _ => s
  | [] => s

/-- The MMA at the head of the array queue has been scanned. -/
def State.scanned (s : State) (core : Nat) : Bool := match s.queue core 0, tget s.seq.prescanned core with
  | q :: _, some p => decide (p.no = q.no)
  | _, _ => false

/-- ANCHOR_PRESCAN (R90): the anchors of the next MMA of a core are fixed. -/
def execAnchorPrescan (core : Nat) (s : State) : Answer :=
  occurs (core < 32 && s.canPrescan core && !s.coreDead core && !s.scanned core) s (s.scanHead core)

/-! ### VOP -/

/-- Puts free values where the spec states no result. -/
def State.fillFree (s : State) : List (Option Nat) → List Nat × State
  | [] => ([], s)
  | some v :: r =>
    let x := s.fillFree r
    (v :: x.1, x.2)
  | none :: r =>
    let f := s.free
    let x := f.2.fillFree r
    (f.1 :: x.1, x.2)

/-- The FP32 reading of a source element (R125): exact but for FP64, which CVT rounds by its mode; an LF128 source of another function than LFADD and
FROMLF has no stated reading. -/
def vopRead (mode fmt : Nat) (x : Num) : Option Num := if (fmtOf fmt).isNone then none else some (rnd32 mode x)

/-- A result in D's format (R125); `none` where the spec states none. An LF128 destination takes the FP32 result exactly (R106). -/
def vopWrite (mode fmt : Nat) (x : Num) : Option Nat :=
  if fmt = 0x1F then some (toLF x).encode
  else match fmtOf fmt with
    | none => none
    | some f => convTo f mode x

/-- One element of a VOP from the numbers of its sources, in FP32 (R103-R106, R125). -/
def vopNum (func mode : Nat) (xs : List Num) : Option Num :=
  match func, xs with
  | 0x00, [x, y] => some (rnd32 mode (addNum x y))
  | 0x01, [x, y] => some (rnd32 mode (addNum x y.negate))
  | 0x02, [x, y] => some (rnd32 mode (mulNum x y))
  | 0x03, [x, y, z] => some (rnd32 mode (addNum (mulNum x y) z))
  | 0x04, [x, y] => some (rnd32 mode (divNum x y))
  | 0x05, [x, y] => some (minNum x y)
  | 0x06, [x, y] => some (maxNum x y)
  | 0x07, [x, y] => some (rnd32 mode (if numLt x y then .fin false 1 0 else .fin false 0 0))
  | 0x08, [x] => some x
  | f, [x] => if 0x09 ≤ f && f ≤ 0x11 then some (decodeRaw fp32 (unaryFn f x)) else none
  | _, _ => none

/-- One raw element of a VOP's result from the raw elements and the numbers of its sources. `none` where the spec states none. -/
def vopElem (func mode dfmt : Nat) (fmts raws : List Nat) (nums : List Num) : Option Nat :=
  if func = 0x13 then
    match fmts, raws with
    | [0x1F, 0x1F], [x, y] => if dfmt = 0x1F then some (lfAdd (LF.decode x) (LF.decode y)).encode else none
    | _, _ => none
  else if func = 0x15 then
    match fmts, raws with
    | [0x1F], [x] => match fmtOf dfmt with
      | some f => convTo f mode (LF.decode x).toNum
      | none => none
    | _, _ => none
  else
    match allSome ((fmts.zip nums).map (fun p => vopRead mode p.1 p.2)) with
    | none => none
    | some xs =>
      if func = 0x14 then (if dfmt = 0x1F then xs.head?.map (fun x => (toLF x).encode) else none)
      else match vopNum func mode xs with
        | some x => vopWrite mode dfmt x
        | none => none

/-- A source element at row and column; a source of one row serves every row (R125). -/
def srcAt {α : Type} (m : List (List α)) (r c : Nat) (d : α) : α := (m.getD (if m.length = 1 then 0 else r) []).getD c d

/-- The result of RSUM for one row (R106) in D's format; an LF128 result carries the inexact flag. The answer says whether the sum was inexact. -/
def rsumElem (mode sfmt dfmt : Nat) (xs : List Num) : Option Nat × Bool :=
  match allSome (xs.map (vopRead mode sfmt)) with
  | none => (none, false)
  | some ys =>
    let r := rsumNum ys
    (if dfmt = 0x1F then some { toLF (rnd32 mode r.1) with inexact := r.2 }.encode else vopWrite mode dfmt (rnd32 mode r.1), r.2)

/-- R126: the ACLK of a VOP: the figure of R125 per 512 results, or its SRAM traffic, whichever is larger. -/
def vopCycles (func results inBytes outBytes : Nat) : Nat :=
  let fig := if func = 4 then 4 else if func = 9 || func = 0x0A || func = 0x0B || func = 0x0C || func = 0x0D then 2 else if func = 0x0E then 3
    else if func = 0x0F || func = 0x10 then 4 else if func = 0x11 then 5 else if func = 0x13 then 2 else 1
  max (fig * cdiv results 512) (max (cdiv inBytes 2048) (cdiv outBytes 1024))

/-- The bytes of a descriptor's rows. -/
def Desc.bytes (d : Desc) : Nat := d.rows * packedRow d.fmt d.cols

/-- The vector unit executes a VOP. The blocks of a block-scaled source run along its stored rows (DESIGN CHOICE; assumption log 65); an RSUM whose sum leaves
the long pair completes with INEXACT (R106; DEDUCED; assumption log 66). -/
def State.vopRun (s : State) (q : QIns) (env : UnitEnv) : State × Nat :=
  match q.descs with
  | d :: srcs =>
    let core := q.core
    let func := bits q.word 36 8
    let mode := bits q.word 44 2
    let e := srcs.foldl (fun (acc : State × Bool) x => let r := acc.1.descEcc core x true; (r.1, acc.2 || r.2)) (s.upset env.upsets, false)
    let n := if func = 0x12 then (srcs.map (fun x => x.rows * x.cols)).sum else d.rows * d.cols
    let cyc := vopCycles func n (srcs.map Desc.bytes).sum (if func = 0x12 then d.rows * fmtBits d.fmt / 8 else d.bytes)
    let t := (e.1.owe core 1 1 core cyc 1).pmc core 0x006 cyc (coreAttr core q.act)
    if e.2 then (t, Code.memUncorrectable)
    else if func = 0x12 then
      match srcs with
      | [x] =>
        let nums := s.descNums core x true
        let r := (List.range d.rows).foldl (fun (u : State × Bool) r =>
          let v := rsumElem mode x.fmt d.fmt (nums.getD (if x.rows = 1 then 0 else r) (if x.fmt = 0x1F then [.nan] else []))
          let f := u.1.fillFree [v.1]
          (f.2.putElem core d.base d.stride (fmtBits d.fmt) r 0 (f.1.headD 0), u.2 || v.2)) (t, false)
        (r.1, if r.2 then Code.inexact else Code.ok)
      | _ => (t, Code.ok)
    else
      let raws := srcs.map (s.descRows core)
      let nums := srcs.map (fun x => s.descNums core x true)
      let fmts := srcs.map (fun x => x.fmt)
      ((List.range d.rows).foldl (fun u r =>
        let xs : List (Option Nat) := (List.range d.cols).map (fun c => vopElem func mode d.fmt fmts (raws.map (fun m => srcAt m r c 0)) (nums.map (fun m => srcAt m r c .nan)))
        let f := u.fillFree xs
        f.2.writeRow core d.base d.stride (fmtBits d.fmt) r f.1) t, Code.ok)
  | [] => (s, Code.ok)

/-! ### Copies -/

/-- The offset in the other tier and the row stride of a copy (R127). -/
def moveOff (w : Nat) : Nat × Nat := if wOp w < 0x0A then (bits w 22 34, bits w 56 24) else (bits w 25 48, bits w 73 24)

/-- R145: the SRAM words that receive a byte of a word of the source that could not be corrected. -/
def State.badWords (s : State) (core dom : Nat) (far : Bool) (src dst n : Nat) : List Nat :=
  let word (i : Nat) : Nat := if far then 2 ^ 61 + s.farKeyOf dom (src + i) / 32 else 2 ^ 60 + (bondKey core src + i) / 16
  let bad (i : Nat) : Bool := match tget s.tiers.ecc (word i) with
    | some v => v ≠ 1
    | none => false
  (((List.range n).filter bad).map (fun i => (sramKey core dst + i) / 8)).eraseDups

/-- BLD and XLD, one row: read from the slice or domain, written to SRAM, poisoned where the source could not be corrected (R145). -/
def State.loadRow (s : State) (core dom : Nat) (far : Bool) (src dst n : Nat) : State × Bool :=
  let r := if far then s.farRead dom src n else s.bondRead core src n
  let t := r.2.1.sramWrite core dst r.1
  if r.2.2 then (t.poison (s.badWords core dom far src dst n), true) else (t, false)

/-- BST and XST, one row; a row that holds an uncorrectable SRAM word is not written. -/
def State.storeRow (s : State) (core dom : Nat) (far : Bool) (src dst n : Nat) : State × Bool :=
  let r := s.sramRead core src n
  if r.2.2 then (r.2.1, true)
  else (if far then r.2.1.farWrite dom dst r.1 else r.2.1.bondWrite core dst r.1, false)

/-- R515: bonded (0x007) or far (0x008) bytes moved, in units of 64 bytes at their unit-local addresses, row by row. -/
def State.movePmc (s : State) (core act ev base stride rows n : Nat) : State :=
  if !s.regs.any (fun e => e.1 / 0x100 = 0xD00 + core) then s
  else (List.range rows).foldl (fun (t : State) i => (List.range (cdiv n 64)).foldl (fun (u : State) j =>
    u.pmc core ev 1 { coreAttr core act with addr := some (base + i * stride + 64 * j) }) t) s

/-- The move engine executes a copy (R127), to be charged to the bonded or far bytes of the context's activity (R142, R258). -/
def State.moveRun (s : State) (q : QIns) (env : UnitEnv) : State × Nat :=
  match q.descs with
  | d :: _ =>
    let w := q.word
    let far := decide (0x0A ≤ wOp w)
    let dom := bits w 21 4
    let o := moveOff w
    let n := packedRow d.fmt d.cols
    let bad := if far then joinCode (if s.farApart q.core dom then Code.outOfRange else Code.ok) (s.farRefusal dom o.1 ((d.rows - 1) * o.2 + n)) else Code.ok
    if bad ≠ Code.ok then (s, bad)
    else
      let r := (List.range d.rows).foldl (fun (acc : State × Bool) i =>
        let x := if wOp w = 0x08 || wOp w = 0x0A then acc.1.loadRow q.core dom far (o.1 + i * o.2) (d.base + i * d.stride) n
          else acc.1.storeRow q.core dom far (d.base + i * d.stride) (o.1 + i * o.2) n
        (x.1, acc.2 || x.2)) (s.upset env.upsets, false)
      ((r.1.owe q.core (if far then 3 else 2) (if far then 3 else 2) (if far then dom else q.core) (d.rows * cdiv n 64) (cdiv n 64)).movePmc q.core q.act (if far then 0x008 else 0x007) o.1 o.2 d.rows n, if r.2 then Code.memUncorrectable else Code.ok)
  | [] => (s, Code.ok)

/-! ### Route engine -/

/-- The bytes of a descriptor's extent as a message, row by row, with ECC: bytes, state, uncorrectable word met. -/
def State.descBytes (s : State) (core : Nat) (d : Desc) : Bytes × State × Bool :=
  (List.range d.rows).foldl (fun (acc : Bytes × State × Bool) r =>
    let x := acc.2.1.sramRead core (d.base + r * d.stride) (packedRow d.fmt d.cols)
    (acc.1 ++ x.1, x.2.1, acc.2.2 || x.2.2)) ([], s, false)

/-- The destination rings of a word's route (R144). -/
def State.rsendDests (s : State) (core w : Nat) : List Nat :=
  match findRec s.img.cfg RT.route (16 * core + bits w 21 4) with
  | some r => routeDests r
  | none => []

/-- RSEND (R144): the message fills one slot of each destination ring. -/
def State.rsendRun (s : State) (q : QIns) (env : UnitEnv) : State × Nat :=
  match q.descs with
  | d :: _ =>
    let m := (s.upset env.upsets).descBytes q.core d
    if m.2.2 then (m.2.1, Code.memUncorrectable)
    else ((s.rsendDests q.core q.word).foldl (fun t id =>
      match ringCfg s.img.cfg id with
      | some c => (t.sramWrite (id / 16) (c.base + (t.ring id).fill * c.size) m.1).ringFill id
      | none => t) m.2.1, Code.ok)
  | [] => (s, Code.ok)

/-! ### Canary -/

/-- CANARY_DONE (R55-R57): the sums of the canary, and of its rerun where the first run fails, are latched and judged. `again` is the main
sum of the rerun with its early and late sums in bits 63:32 and 95:64. The error of a canary records no instruction, pass and activity: zero; a first run that
fails where the rerun passes is logged as corrected (DESIGN CHOICE; assumption log 68). -/
def State.canary (s : State) (core main early late again : Nat) : State :=
  let d := core / 4
  let k := core % 4
  let latch (t : State) (m e l : Nat) : State :=
    ((t.fs (R.ARR_CANARY_MAIN d k) F.ARR_CANARY_MAIN_sum m).fs (R.ARR_CANARY_EARLY d k) F.ARR_CANARY_EARLY_sum e).fs (R.ARR_CANARY_LATE d k) F.ARR_CANARY_LATE_sum l
  let pass (m e l : Nat) : Bool := m % 2 ^ 32 = 0x8080 && e % 2 ^ 32 = 0 && l % 2 ^ 32 = 0
  let am := bits again 0 32
  let ae := bits again 32 32
  let al := bits again 64 32
  let t := (latch s main early late).fs (R.ARR_STATUS d k) F.ARR_STATUS_canary_pending 0
  let t := t.fs (R.ARR_CTL d k) F.ARR_CTL_canary_now 0
  if pass main early late then t.fs (R.ARR_STATUS d k) F.ARR_STATUS_canary_passed 1
  else
    let u := latch t am ae al
    if pass am ae al then (u.fs (R.ARR_STATUS d k) F.ARR_STATUS_canary_passed 1).log Code.arrayCheck 1 (0x2000 + core) [3]
    else
      let v := (u.fs (R.ARR_STATUS d k) F.ARR_STATUS_canary_passed 0).arrError core 3 0 0 0 0 0
      let w := if s.fb (R.ARR_ERR_STATUS d k) F.ARR_ERR_STATUS_valid then v else v.fs (R.ARR_ERR_STATUS d k) F.ARR_ERR_STATUS_failed 1
      (w.coreFailed core).log Code.arrayCheck 2 (0x2000 + core) [3]

/-- The core's canary has passed or made it FAILED. -/
def State.canaryRan (s : State) (core : Nat) : Bool := s.fb (R.ARR_STATUS (core / 4) (core % 4)) F.ARR_STATUS_canary_passed || s.coreDead core

/-- R482, R531: the compute rails are on for the boot: power is good, boot has not stopped, and no trip waits for its acknowledgement (R505). -/
def State.booting (s : State) : Bool :=
  s.power = 0 && !s.mgt.stopped && !s.store.tripPending && (decide (s.mstate ≤ MState.firmware) || s.mstate = MState.tripped)

/-- R54: a canary runs once when the core leaves reset (module start, die reload), and on demand while the core is parked
for the first snapshot or maintenance pause asked for after canary_now was written. -/
def State.canaryTime (s : State) (core : Nat) : Bool :=
  ((s.booting || s.dieState (core / 4) = 3) && !s.canaryRan core)
  || (s.fb (R.ARR_STATUS (core / 4) (core % 4)) F.ARR_STATUS_canary_pending && s.fb (R.SEQ_STATUS (core / 4) (core % 4)) F.SEQ_STATUS_parked
    && (match s.pause with
      | some p => p.canaries.contains core
      | none => false))

/-- R54, R72, R73: the repair fuses of a die's cores are read; its cores wait for their canary. -/
def State.loadRepair (s : State) (d : Nat) : State :=
  (List.range 4).foldl (fun (t : State) c =>
    let f := tgetD s.fuses.repair (4 * d + c) 0
    let k := R.ARR_STATUS d c
    if f = 0 then t else
    ((t.wr (R.ARR_REPAIR d c) (BitVec.ofNat 64 f)).fs k F.ARR_STATUS_spare_rows_used (b2n (bit f 0) + b2n (bit f 9))).fs k F.ARR_STATUS_spare_cols_used
      (b2n (bit f 18) + b2n (bit f 27))) s

/-- R490: general settings of another format version are replaced with their defaults, and that is logged; what they hold, the spec does not say (assumption log 83). -/
def State.settingsCheck (s : State) : State :=
  let d := s.runningFw.fwDigest
  if d = s.fw.settings || Config.settingsVersion d = Config.settingsVersion s.fw.settings then s
  else State.log { s with fw := { s.fw with settings := d } } Code.settingsReset 0 0 []

/-- R482 step 4, R531 step 6: the management firmware runs; repair fuses are read (R73), the PLLs of the hub lock, that of TCLK while RACKCLK is present (R535). -/
def State.firmwareUp (s : State) : State :=
  if s.mstate ≠ MState.rennet then s
  else
    let ok := b2n (!s.time.lost)
    let t := (List.range 8).foldl State.loadRepair s
    (((((t.fs R.CLK_STATUS F.CLK_STATUS_hclk_lock 1).fs R.CLK_STATUS F.CLK_STATUS_cclk_lock 1).fs R.CLK_STATUS F.CLK_STATUS_tclk_lock ok).fs
      R.TIME_STATUS F.TIME_STATUS_rackclk_ok ok).fs R.CLK_STATUS F.CLK_STATUS_pclk_lock (s.fg R.GLB_STATUS ⟨2, 2⟩)).setState MState.firmware |>.settingsCheck

/-- R203 step 1: the end of the 10 µs for which the reset of a die that is being reloaded is held; now for another die. -/
def State.resetOver (s : State) (d : Nat) : Nat := if s.dieState d = 3 then tgetD s.mgt.fencedAt d 0 + 10000 else s.now

/-- CANARY_DONE: a canary runs only while the array is empty. The canaries of a boot follow the start of the management firmware (R531 step 6), that of a reload the die's
reset (R203). Its 540 ACLK at most are charged to activity 0 (R259). -/
def execCanaryDone (core main early late again : Nat) (s : State) : Answer :=
  occurs (core < 32 && (s.running core 0).isNone && s.canaryTime core) s (((s.runTo (s.resetOver (core / 4))).firmwareUp.take 0 0 core 540).canary core main early late again)

end Machine
end Sys2Proof
end

