-- ==== Sys2Proof/Machine/Cle.lean ====
section
/-!
DEFINITION. What the home ingress checks of every packet (R337), and the collective engine (chapter 12): groups, calls, steps, the commit
round, deadlines and aborts.
-/
namespace Sys2Proof
namespace Machine

/-! ### Accepting a packet (R337, R473) -/

/-- R337 checks 1 to 4 of a packet of a numbered class: the code, the opened packet, and the state that has accepted its sequence number. -/
def State.inspect (s : State) (p : Packet) : Nat × Packet × State :=
  if badHead p then (Code.badFormat, p, s)
  else match s.keyOf p.key with
    | none => (Code.keyUnknown, p, s)
    | some key =>
      let k := numKey p.cls p.src p.chan
      let x := nearest (tgetD s.fj.high k 0) p.seq
      match p.unseal key x with
      | none => (Code.badSignature, p, s)
      | some q =>
        if !actExists s.img.cfg p.act then (Code.notPermitted, q, s)
        else (Code.ok, q, { s with fj := { s.fj with high := tset s.fj.high k (max (tgetD s.fj.high k 0) x) } })

/-- Counts a packet that fails check 2 or 3 (R371). -/
def State.countTag (s : State) (code : Nat) : State := if code = Code.keyUnknown || code = Code.badSignature then s.count R.FJ_CNT_BAD_TAG else s

/-- R337: a packet dropped without an answer is counted. -/
def State.dropPkt (s : State) (code : Nat) : State := (s.countTag code).count R.FJ_CNT_REFUSED

/-! ### Groups (R378, R380) -/

/-- The GROUP record of a group. -/
def State.group (s : State) (g : Nat) : Option Rec := findRec s.img.cfg RT.group g
/-- n. -/
def grpN (r : Rec) : Nat := r.at 0 2
/-- my_rank. -/
def grpRank (r : Rec) : Nat := r.at 2 2
/-- The contributing cores. -/
def grpCores (r : Rec) : List Nat := maskList 32 (r.at 4 4)
/-- L. -/
def grpL (r : Rec) : Nat := (grpCores r).length
/-- Activity of every call. -/
def grpAct (r : Rec) : Nat := r.at 8 1
/-- A tree, not a ring. -/
def grpTree (r : Rec) : Bool := r.at 9 1 = 1
/-- The step deadline in ns. -/
def grpDeadline (r : Rec) : Nat := 1000 * (if r.at 12 2 = 0 then 200 else r.at 12 2)
/-- The device of a rank. -/
def grpDev (r : Rec) (i : Nat) : Nat := r.at (16 + 2 * i) 2
/-- The smallest d with 2^d ≥ n. -/
def ceilLog2 (n : Nat) : Nat := if n ≤ 1 then 0 else Nat.log2 (n - 1) + 1
/-- R380: N. -/
def grpAll (r : Rec) : Nat := grpN r * grpL r
/-- R380: the headroom. -/
def grpH (r : Rec) : Nat := ceilLog2 (grpAll r)

/-- A group with no call. -/
def CleGrp.empty : CleGrp := ⟨none, [], [], [], [], [], [], false, 0, [], false, none, [], false, none, [], 0, none⟩
/-- A group. -/
def State.grp (s : State) (g : Nat) : CleGrp := tgetD s.cle g CleGrp.empty
/-- Changes a group. -/
def State.modGrp (s : State) (g : Nat) (f : CleGrp → CleGrp) : State := { s with cle := tset s.cle g (f (s.grp g)) }
/-- State of a group (R410): 0 IDLE, 1 ANCHOR, 2 REDUCE, 3 ROUND, 4 GATHER, 5 DONE_SENT, 6 ABORTED. -/
def State.grpState (s : State) (g : Nat) : Nat := s.fg (R.CLE_GRP g) F.CLE_GRP_state
/-- Step in progress. -/
def State.grpStep (s : State) (g : Nat) : Nat := s.fg (R.CLE_GRP g) F.CLE_GRP_step
/-- Call in progress, or the next one. -/
def State.grpCall (s : State) (g : Nat) : Nat := s.fg (R.CLE_GRP g) F.CLE_GRP_call
/-- A call is in progress. -/
def State.grpBusy (s : State) (g : Nat) : Bool := decide (1 ≤ s.grpState g) && decide (s.grpState g ≤ 5)
/-- R403: the group's call is held. -/
def State.grpHeld (s : State) (g : Nat) : Bool := s.fb (R.CLE_GRP g) F.CLE_GRP_held
/-- R403: a call is held from now on, its timer stopped. -/
def State.holdGrp (s : State) (g : Nat) : State := (s.fs (R.CLE_GRP g) F.CLE_GRP_held 1).modGrp g (fun x => { x with heldAt := some (x.heldAt.getD s.now) })
/-- What a group keeps past the end of a call: packets of later calls, aborts to come, and what still waits for a slot. -/
def CleGrp.after (x : CleGrp) (call : Nat) : CleGrp := { CleGrp.empty with inbox := x.inbox.filter (fun m => call < m.call), abortNo := x.abortNo, out := x.out, aborted := x.aborted, calls := x.calls }
/-- Shows how many groups have a call in progress (R408). -/
def State.showActive (s : State) : State := s.fs R.CLE_STATUS F.CLE_STATUS_active (indices 64 s.grpBusy).length
/-- Enters a state of a group at a step; its timer starts (R401). -/
def State.setGrp (s : State) (g st step : Nat) : State :=
  (((s.fs (R.CLE_GRP g) F.CLE_GRP_state st).fs (R.CLE_GRP g) F.CLE_GRP_step step).modGrp g (fun x => { x with sent := false, since := s.now })).showActive

/-! ### Blocks and chunks (R384, R397, R398) -/

/-- Blocks of 32 elements. -/
def blocksOf (e : Nat) : Nat := cdiv e 32

/-- R397: chunk c of a reduction as blocks from, to. -/
def chunkBlocks (r : Rec) (d : CallDesc) (c : Nat) : Nat × Nat :=
  let n := grpN r
  let b := blocksOf d.elems
  if d.op = 1 then
    let part := d.elems / grpAll r * grpL r / 32
    (c * part, (c + 1) * part)
  else (c * b / n, (c + 1) * b / n)

/-- Elements of a range of blocks: first and count. -/
def blockElems (e : Nat) (b : Nat × Nat) : Nat × Nat := (32 * b.1, min e (32 * b.2) - 32 * b.1)

/-- The elements a call delivers in all: N × E for an all-gather, else E. -/
def totalElems (r : Rec) (d : CallDesc) : Nat := if d.op = 2 then grpAll r * d.elems else d.elems

/-- The elements of the ranks from a to b - 1: their contributions of an all-gather, their parts of a reduce-scatter. -/
def rankElems (r : Rec) (d : CallDesc) (a b : Nat) : Nat × Nat :=
  let k := (if d.op = 2 then d.elems else d.elems / grpAll r) * grpL r
  (k * a, k * (min b (grpN r) - a))

/-- What one step does here: destination rank with the range it sends, and the range it receives; ranges are blocks in ANCHOR, else elements. -/
structure StepPlan where
  send : Option (Nat × (Nat × Nat))
  recv : Option (Nat × Nat)
deriving DecidableEq, Repr

/-- Blocks from, to as first and count. -/
def asCount (b : Nat × Nat) : Nat × Nat := (b.1, b.2 - b.1)

/-- A tree's up step ℓ for a rank: whom it sends to, and whom it hears. -/
def upPeer (n r l : Nat) : Option Nat × Option Nat :=
  (if r % 2 ^ l = 2 ^ (l - 1) then some (r - 2 ^ (l - 1)) else none,
   if r % 2 ^ l = 0 && decide (r + 2 ^ (l - 1) < n) then some (r + 2 ^ (l - 1)) else none)

/-- A tree's down step ℓ: whom it sends to, and whether it receives. -/
def downPeer (n r l : Nat) : Option Nat × Bool :=
  (if r % 2 ^ l = 0 && decide (r + 2 ^ (l - 1) < n) then some (r + 2 ^ (l - 1)) else none, r % 2 ^ l = 2 ^ (l - 1))

/-- R396: the number of steps of a phase: 0 ANCHOR, 1 REDUCE, 2 GATHER. -/
def phaseSteps (r : Rec) (d : CallDesc) (ph : Nat) : Nat :=
  let n := grpN r
  let dd := ceilLog2 n
  if n ≤ 1 || d.op = 4 then 0
  else if ph = 0 then (if d.op ≤ 1 && !d.native then (if grpTree r then 2 * dd else 2 * (n - 1)) else 0)
  else if ph = 1 then (if d.op ≤ 1 then (if grpTree r then dd else n - 1) else 0)
  else if grpTree r then (if d.op = 2 then 2 * dd else dd)
  else if d.op = 1 then 0 else n - 1

/-- R397: a ring's step of REDUCE kind and of GATHER kind on chunk ranges. -/
def ringPlan (n r s : Nat) (gather : Bool) (chunk : Nat → Nat × Nat) : StepPlan :=
  let o := if gather then 1 else 0
  ⟨some ((r + 1) % n, chunk ((r + n + o - s % n) % n)), some (chunk ((r + 2 * n + o - s % n - 1) % n))⟩

/-- R396-R398: the plan of a step of a phase at this rank. -/
def stepPlan (r : Rec) (d : CallDesc) (ph s : Nat) : StepPlan :=
  let n := grpN r
  let me := grpRank r
  let dd := ceilLog2 n
  let rel := (me + n - d.root % n) % n
  let abs (x : Nat) : Nat := (x + d.root) % n
  let whole : Nat × Nat := if ph = 0 then (0, blocksOf d.elems) else (0, totalElems r d)
  let up (l : Nat) : StepPlan :=
    let p := upPeer n me l
    ⟨p.1.map (fun x => (x, whole)), if p.2.isSome then some whole else none⟩
  let down (l : Nat) : StepPlan :=
    let p := downPeer n me l
    ⟨p.1.map (fun x => (x, whole)), if p.2 then some whole else none⟩
  if ph = 0 then
    if grpTree r then (if s ≤ dd then up s else down (2 * dd + 1 - s))
    else if s < n then ringPlan n me s false (fun c => asCount (chunkBlocks r d c)) else ringPlan n me (s - (n - 1)) true (fun c => asCount (chunkBlocks r d c))
  else if ph = 1 then
    if grpTree r then up s else ringPlan n me s false (fun c => blockElems d.elems (chunkBlocks r d c))
  else if d.op = 3 then
    if grpTree r then
      let p := downPeer n rel (dd + 1 - s)
      ⟨p.1.map (fun x => (abs x, whole)), if p.2 then some whole else none⟩
    else ⟨if rel = s - 1 && decide (s < n) then some (abs s, whole) else none, if rel = s then some whole else none⟩
  else if d.op = 2 then
    if grpTree r then
      if s ≤ dd then
        let p := upPeer n me s
        ⟨p.1.map (fun x => (x, rankElems r d me (me + 2 ^ (s - 1)))), p.2.map (fun x => rankElems r d x (x + 2 ^ (s - 1)))⟩
      else down (2 * dd + 1 - s)
    else ringPlan n me s true (fun c => rankElems r d c (c + 1))
  else if grpTree r then
    let l := dd + 1 - s
    let p := downPeer n me l
    if d.op = 1 then
      ⟨p.1.map (fun x => (x, rankElems r d x (x + 2 ^ (l - 1)))), if p.2 then some (rankElems r d me (me + 2 ^ (l - 1))) else none⟩
    else down l
  else ringPlan n me s true (fun c => blockElems d.elems (chunkBlocks r d c))

/-! ### Elements, anchors, packed blocks (R384-R390, R394) -/

/-- An element of a source as an LF128 value. -/
def collLf (fmt raw : Nat) (n : Num) : LF := if fmt = 0x1F then LF.decode raw else toLF n

/-- R384: T of a non-zero finite element. -/
def collT (fmt : Nat) (x : LF) : Option Int :=
  if x.isNan || x.isInf || x.s = 0 then none
  else if fmt = 0x1F then some (x.e + blen x.s.natAbs)
  else match fmtOf fmt with
    | some f => some (x.e + f.w)
    | none => some (x.e + blen x.s.natAbs)

/-- The larger of two block maxima. -/
def maxT : Option Int → Option Int → Option Int
  | none, y => y
  | x, none => x
  | some a, some b => some (max a b)

/-- The block maxima of a list of elements. -/
def blockMax (fmt : Nat) (xs : List LF) : List (Option Int) :=
  (List.range (blocksOf xs.length)).map (fun b => ((xs.drop (32 * b)).take 32).foldl (fun m x => maxT m (collT fmt x)) none)

/-- R384: the anchor of a block. -/
def blockAnchor (h : Nat) : Option Int → Int
  | none => 0
  | some t => max (-32767) (min 32767 (t + h - 103))

/-- R385: a contribution aligned to an anchor. The significand and the anchor of a special element mean nothing (R85), and its slot carries none (R390). -/
def collAlign (eb : Int) (x : LF) : LF :=
  if x.isNan || x.isInf then { x with s := 0, e := 0, overflow := false }
  else if x.s = 0 then { LF.ofInt 0 eb with inexact := x.inexact, invalid := x.invalid }
  else
    let a : Int × Bool := if eb ≤ x.e then (x.s * (2 ^ (x.e - eb).toNat : Nat), false) else shrTrunc x.s (eb - x.e).toNat
    if a.1 < -(2 ^ 103 : Nat) ∨ (2 ^ 103 : Nat) ≤ a.1 then ⟨0, 0, x.inexact || a.2, true, false, decide (0 < a.1), decide (a.1 < 0), x.invalid⟩
    else ⟨a.1, eb, x.inexact || a.2, false, false, false, false, x.invalid⟩

/-- The count of trailing zero bits of a non-zero number, at most 103. -/
def trailing (x : Nat) : Nat := ((List.range 104).find? (fun i => bit x i)).getD 103

/-- R394: the residue of a significand. -/
def residue (x : LF) : Nat := (x.s % 63).toNat

/-- R394: what an LF128 adder's check finds for two operands and the sum: the residues agree, a shift of the second operand by k bits multiplying its residue by
2^(k mod 6). The slots of special elements, and an aligner that discards bits, are duplicated: their copies are the same function of the same operands. -/
def lfAddOk (x y : LF) : Bool :=
  let z := lfAdd x y
  let special (v : LF) : Bool := v.isNan || v.isInf
  special x || special y || special z || decide (y.e < x.e) || (residue x + residue y * 2 ^ ((y.e - x.e).toNat % 6)) % 63 = residue z

/-- R394: what a native adder's check finds: the exact sum of the significands, before rounding, agrees with the residues of its operands. -/
def nativeAddOk (fmt a b : Nat) : Bool := match fmtOf fmt with
  | some f => match decodeRaw f a, decodeRaw f b with
    | .fin p m i, .fin q n j =>
      let e := min i j
      let r (neg : Bool) (v : Nat) (k : Int) : Int := (if neg then -(v : Int) else v) % 63 * (2 ^ ((k - e).toNat % 6) : Nat)
      let s : Int := (if p then -(m : Int) else m) * (2 ^ (i - e).toNat : Nat) + (if q then -(n : Int) else n) * (2 ^ (j - e).toNat : Nat)
      (r p m i + r q n j) % 63 = s % 63
    | _, _ => true
  | none => true

/-- Element-wise checks of two lists that are added. -/
def zipOk {α : Type} (f : α → α → Bool) (xs ys : List α) : Bool := (xs.zip ys).all (fun p => f p.1 p.2)

/-- R390: one packed block. -/
def packBlock (eb : Int) (xs : List LF) : Bytes :=
  let special (x : LF) : Bool := x.isNan || x.isInf
  let live := xs.filter (fun x => !special x && x.s ≠ 0)
  let z := match (live.map (fun x => trailing x.s.natAbs)).min? with
    | some m => m
    | none => 0
  let slot (x : LF) : Int :=
    if special x then ((if x.isNan then 1 else if x.pinf then 2 else 3 : Nat) + 8 * b2n x.invalid + 16 * b2n x.overflow : Nat) else x.s / (2 ^ z : Nat)
  let fits (w : Nat) : Bool := xs.all (fun x => decide (-(2 ^ (w - 1) : Nat) ≤ slot x) && decide (slot x < (2 ^ (w - 1) : Nat)))
  let wc := if fits 32 then 0 else if fits 64 then 1 else 2
  let w := 32 * 2 ^ wc
  let mask (f : LF → Bool) : Nat := maskOf (indices 32 (fun i => ((xs[i]?).map f).getD false))
  leBytes 2 (uint 16 eb) ++ leBytes 1 z ++ leBytes 1 wc ++ leBytes 1 ((xs.map residue).sum % 63) ++ zeros 3 ++ leBytes 4 (mask special) ++ leBytes 4 (mask (fun x => x.inexact))
    ++ (xs.map (fun x => leBytes (w / 8) (uint w (slot x)))).flatten ++ zeros ((32 - xs.length) * (w / 8))

/-- R390: reads packed blocks until the elements are complete; the residue of each block must agree (R394). -/
def unpackBlocks : Nat → Nat → Bytes → List LF × Bool
  | 0, _, _ => ([], true)
  | fuel + 1, n, bs =>
    if n = 0 || bs.isEmpty then ([], true)
    else
      let eb := sint 16 (fieldAt bs 0 2)
      let z := fieldAt bs 2 1
      let w := 32 * 2 ^ (fieldAt bs 3 1 % 3)
      let k := min n 32
      let xs := (List.range k).map (fun i =>
        let v := fieldAt bs (16 + i * (w / 8)) (w / 8)
        let ine := bit (fieldAt bs 12 4) i
        if bit (fieldAt bs 8 4) i then
          let c := v % 8
          (⟨0, 0, ine, bit v 4, c = 1, c = 2, c = 3, bit v 3⟩ : LF)
        else ⟨sint w v * (2 ^ z : Nat), eb, ine, false, false, false, false, false⟩)
      let ok := (xs.map residue).sum % 63 = fieldAt bs 4 1
      let r := unpackBlocks fuel (n - k) (bs.drop (16 + 32 * (w / 8)))
      (xs ++ r.1, ok && r.2)

/-- R387: a sum rounded once by out and mode, as raw bits of the destination's format; the second component is its inexact flag. -/
def collRound (out mode : Nat) (x : LF) : Nat × Bool :=
  match outFmt out with
  | some f => (encodeNum f mode (if x.s = 0 && !x.isNan && !x.isInf then .fin false 0 0 else x.toNum), x.inexact)
  | none => (x.encode, x.inexact)

/-- R388: a native addition, in BF16 or FP32 with one RNE rounding. -/
def nativeAdd (fmt a b : Nat) : Nat := match fmtOf fmt with
  | some f => encodeNum f 0 (addNum (decodeRaw f a) (decodeRaw f b))
  | none => a

/-- Element-wise combination of two lists. -/
def zipAdd {α : Type} (f : α → α → α) (xs ys : List α) : List α := (xs.zip ys).map (fun p => f p.1 p.2)

/-- Replaces the elements from an index on. -/
def putList {α : Type} (xs : List α) (off : Nat) (ys : List α) : List α := (xs.take off ++ ys ++ xs.drop (off + ys.length)).take xs.length

/-- Adds onto the elements from an index on. -/
def addAt {α : Type} (f : α → α → α) (xs : List α) (off : Nat) (ys : List α) : List α := putList xs off (zipAdd f ((xs.drop off).take ys.length) ys)

/-! ### Packets (R389, R391) -/

/-- Element bits on the wire of GATHER and native REDUCE: the values delivered. -/
def wireBits (d : CallDesc) : Nat := if d.op ≤ 1 && !d.native then outBits d.out else fmtBits d.fmt

/-- The 32-byte collective header. -/
def collHeader (g : Nat) (d : CallDesc) (ph call step rank code first count : Nat) : Bytes :=
  leBytes 1 g ++ leBytes 1 ph ++ leBytes 1 d.op ++ leBytes 1 (b2n d.native) ++ leBytes 4 call ++ leBytes 2 step ++ leBytes 2 rank ++ leBytes 1 d.fmt
    ++ leBytes 1 (d.out % 8 + 8 * (d.mode % 4)) ++ leBytes 1 code ++ zeros 1 ++ leBytes 4 d.elems ++ leBytes 4 first ++ leBytes 2 count ++ leBytes 2 d.root ++ zeros 4

/-- R263, R391, R392: packets of a group leave in order while its activity's CLE slots cover them; `fuel` bounds their number. -/
def State.collPump : Nat → State → Nat → State
  | 0, s, _ => s
  | fuel + 1, s, g => match (s.grp g).out with
    | [] => s
    | k :: r => if s.covers k.act 6 0 1 then State.collPump fuel (((s.modGrp g (fun x => { x with out := r })).charge k.act 6 0 1).issue k .unit 0) g else s

/-- One COLL packet for a rank, behind those of its group that still wait for a CLE slot (R391, R392). -/
def State.sendColl (s : State) (g : Nat) (r : Rec) (d : CallDesc) (rank ph step code first count : Nat) (body : Bytes) : State :=
  let data := collHeader g d ph (s.grpCall g) step (grpRank r) code first count ++ body
  let k : Packet := ⟨grpDev r rank, s.device, 3, 6, s.epoch, 0, false, false, false, g, 0, FOp.coll, grpAct r, actKey s.img.cfg (grpAct r), data.length - 1, 0, 0, 0, data, []⟩
  let t := s.modGrp g (fun x => { x with out := x.out ++ [k] })
  t.collPump (t.grp g).out.length g

/-- R390: whole blocks in order into packets of at most 4,064 bytes, each as full as it can be: first element, elements, bytes. -/
def fillPackets (bs : List (Nat × Nat × Bytes)) : List (Nat × Nat × Bytes) :=
  (bs.foldl (fun acc b => match acc with
    | p :: q => if p.2.2.length + b.2.2.length ≤ 4064 then (p.1, p.2.1 + b.2.1, p.2.2 ++ b.2.2) :: q else b :: p :: q
    | [] => [b]) ([] : List (Nat × Nat × Bytes))).reverse

/-- The packets of a step: first, count, content. -/
def stepPackets (h : Nat) (x : CleGrp) (d : CallDesc) (ph : Nat) (rg : Nat × Nat) : List (Nat × Nat × Bytes) :=
  if rg.2 = 0 then []
  else if ph = 0 then
    (List.range (cdiv rg.2 1016)).map (fun i =>
      let n := min 1016 (rg.2 - 1016 * i)
      (rg.1 + 1016 * i, n, ((x.tb.drop (rg.1 + 1016 * i)).take n).flatMap (fun t => leBytes 4 (match t with
        | some v => uint 32 v
        | none => 0x80000000))))
  else if ph = 1 && !d.native then
    fillPackets ((List.range (cdiv rg.2 32)).map (fun i =>
      let n := min 32 (rg.2 - 32 * i)
      let b := rg.1 / 32 + i
      (rg.1 + 32 * i, n, packBlock (blockAnchor h (x.tb.getD b none)) ((x.part.drop (rg.1 + 32 * i)).take n))))
  else
    let w := wireBits d
    let per := 4064 * 8 / w
    let src := if ph = 1 then x.natp else x.res
    (List.range (cdiv rg.2 per)).map (fun i =>
      let n := min per (rg.2 - per * i)
      (rg.1 + per * i, n, packRaw w ((src.drop (rg.1 + per * i)).take n)))

/-! ### Aborts (R401, R402) -/

/-- Completes every local COLL of a group's call with a code (R400, R401); the unit's completion follows. -/
def State.endColls (s : State) (g code : Nat) : State :=
  match s.group g with
  | none => s
  | some r => (grpCores r).foldl (fun t c => match t.running c 6 with
    | some q => if bits q.word 16 6 = g then t.setRunning c 6 (some { q with code := code, waitFor := 0 }) else t
    | none => t) s

/-- R409: the first abort is recorded, a further one sets lost. -/
def State.cleErr (s : State) (g code origin : Nat) (received : Bool) : State :=
  if s.fb R.CLE_ERR F.CLE_ERR_valid then s.fs R.CLE_ERR F.CLE_ERR_lost 1
  else
    let ph := if s.grpState g = 1 then 0 else if s.grpState g ≤ 3 then 1 else if s.grpState g = 4 then 2 else 3
    (((((((s.fs R.CLE_ERR F.CLE_ERR_code code).fs R.CLE_ERR F.CLE_ERR_group g).fs R.CLE_ERR F.CLE_ERR_valid 1).fs R.CLE_ERR F.CLE_ERR_received (b2n received)).fs R.CLE_ERR F.CLE_ERR_origin origin).fs
      R.CLE_ERR_INFO F.CLE_ERR_INFO_call (s.grpCall g)).fs R.CLE_ERR_INFO F.CLE_ERR_INFO_step (s.grpStep g)).fs R.CLE_ERR_INFO F.CLE_ERR_INFO_phase ph

/-- R399: an aborted call is over once every local COLL of it has completed. -/
def State.collSettle (s : State) (g : Nat) : State :=
  match s.group g with
  | some r =>
    if s.grpState g = 6 && (grpCores r).all (fun c => match s.running c 6 with
      | some q => bits q.word 16 6 ≠ g || q.waitFor = 1
      | none => true)
    then (s.setGrp g 0 0).fs (R.CLE_GRP g) F.CLE_GRP_call (s.grpCall g + 1) else s
  | none => s

/-- R401: this member aborts the call in progress: recorded, announced unless received, buffers discarded, local COLLs end with the code. -/
def State.cleAbort (s : State) (g code origin : Nat) (received : Bool) : State :=
  match s.group g, (s.grp g).desc with
  | some r, some d =>
    let t := s.cleErr g code origin received
    let t1 := if code = Code.residueCheck && !received then t.count R.CLE_CNT_RESIDUE else if code = Code.stepTimeout && !received then t.count R.CLE_CNT_TIMEOUT else t
    let t2 := if received then t1 else ((List.range (grpN r)).filter (fun k => k ≠ grpRank r)).foldl (fun u k => u.sendColl g r d k 5 (s.grpStep g) code 0 0 []) t1
    let t3 := ((t2.endColls g code).setGrp g 6 0).fs (R.CLE_GRP g) F.CLE_GRP_held 0
    let t4 := t3.modGrp g (fun x => { x.after (s.grpCall g) with aborted := s.grpCall g :: x.aborted })
    let t5 := if received then t4 else t4.log code 2 (0x7000 + g) [BitVec.ofNat 8 code]
    (if code = Code.stepTimeout && !received then t5.emit (.report code (leBytes 1 g)) else t5).collSettle g
  | _, _ => s

/-! ### Running a call (R396-R400) -/

/-- R387: rounding of the elements that this member owns. -/
def State.collOwn (s : State) (g : Nat) (r : Rec) (d : CallDesc) : State :=
  let x := s.grp g
  if d.op ≤ 1 then
    let rg := if grpTree r || grpN r ≤ 1 then (0, d.elems) else blockElems d.elems (chunkBlocks r d (grpRank r))
    if grpTree r && grpRank r ≠ 0 then s
    else if d.native then s.modGrp g (fun y => { y with res := putList y.res rg.1 ((x.natp.drop rg.1).take rg.2) })
    else
      let o := ((x.part.drop rg.1).take rg.2).map (collRound d.out d.mode)
      s.modGrp g (fun y => { y with res := putList y.res rg.1 (o.map (fun v => v.1)), inexact := y.inexact || o.any (fun v => v.2) })
  else s

/-- R395, R407: an armed fault flips the residue of the next adder result: the step is repeated, its repeat matches, and that is logged as corrected. -/
def State.adderUsed (s : State) (g : Nat) : State :=
  if s.inTest && s.fb R.CLE_CTL F.CLE_CTL_inject_residue then
    ((s.fs R.CLE_CTL F.CLE_CTL_inject_residue 0).count R.CLE_CNT_REPEAT |>.pmc 58 0x0A1 1 bareAttr).log Code.residueCheck 1 (0x7000 + g) []
  else s

/-- A sum of rows, with the checks of its additions. -/
def checkedSum {α : Type} (add : α → α → α) (ok : α → α → Bool) : List (List α) → List α × Bool
  | [] => ([], true)
  | a :: l => l.foldl (fun acc y => (zipAdd add acc.1 y, acc.2 && zipOk ok acc.1 y)) (a, true)

/-- R385, R388: the local contributions combined once the anchors are known; the second component tells that every adder's residues agreed (R394). -/
def localSum (x : CleGrp) (r : Rec) (d : CallDesc) : CleGrp × Bool :=
  if d.native then
    let v := checkedSum (nativeAdd d.fmt) (nativeAddOk d.fmt) x.srcs
    ({ x with natp := v.1 }, v.2)
  else
    let al (xs : List LF) : List LF := (xs.zipIdx).map (fun p => collAlign (blockAnchor (grpH r) (x.tb.getD (p.2 / 32) none)) p.1)
    let v := checkedSum lfAdd lfAddOk (x.lfs.map al)
    ({ x with part := v.1 }, v.2)

/-- R385, R394, R395: the local contributions are combined; residues that disagree do so again when the step is repeated, and the call aborts. -/
def State.collCombine (s : State) (g : Nat) (r : Rec) (d : CallDesc) : State :=
  let v := localSum (s.grp g) r d
  if v.2 then (if 1 < grpL r && d.elems ≠ 0 then s.adderUsed g else s).modGrp g (fun _ => v.1)
  else (s.pmc 58 0x0A1 1 bareAttr).cleAbort g Code.residueCheck (grpRank r) false

/-- R381, R400: writes the destinations of the local COLLs. -/
def State.collWrite (s : State) (g : Nat) (r : Rec) (d : CallDesc) : State :=
  let x := s.grp g
  if d.op = 4 then s
  else ((grpCores r).zipIdx).foldl (fun t p => match t.running p.1 6 with
    | some q => match q.descs with
      | [_, dst] =>
        let k := grpRank r * grpL r + p.2
        let part := d.elems / grpAll r
        let v := if d.op = 1 then (x.res.drop (k * part)).take part else x.res
        (List.range dst.rows).foldl (fun u i => u.writeRow p.1 dst.base dst.stride (wireBits d) i ((v.drop (i * dst.cols)).take dst.cols)) t
      | _ => t
    | none => t) s

/-- The flits of a commit to one die: the destinations of its cores. -/
def collBytes (r : Rec) (d : CallDesc) : Nat := if d.op = 4 then 0 else cdiv ((if d.op = 1 then d.elems / grpAll r else totalElems r d) * wireBits d) 8

/-- The call completes with OK here; the group is IDLE at its next call. -/
def State.collFinish (s : State) (g : Nat) (r : Rec) (d : CallDesc) : State :=
  let f := (grpCores r).foldl (fun (u : State) c => u.fall (4 * (c / 4)) (cdiv (collBytes r d) 64)) s
  let t := (f.collWrite g r d).endColls g Code.ok
  let u := t.count R.CLE_CNT_CALLS
  let wide := d.op ≤ 1 && !d.native && d.out = 0 && (s.grp g).res.any (fun v => (LF.decode v).inexact)
  let v := if (s.grp g).inexact || wide then u.count R.CLE_CNT_INEXACT else u
  let w := (v.setGrp g 0 0).fs (R.CLE_GRP g) F.CLE_GRP_call (s.grpCall g + 1)
  w.modGrp g (fun x => x.after (s.grpCall g))

/-- R399, R400: every final value of this member is here: ranks other than 0 send DONE. -/
def State.collDoneSent (s : State) (g : Nat) (r : Rec) (d : CallDesc) : State :=
  let t := s.modGrp g (fun x => { x with closing := true })
  if grpRank r = 0 then t else t.sendColl g r d 0 3 0 0 0 0 []

/-- R26, R190: the hub links of the local members' dies take what a commit writes, up to one replay buffer of it at once. -/
def State.collFalls (s : State) (r : Rec) (d : CallDesc) : Bool :=
  d.op = 4 || ((grpCores r).map (· / 4)).eraseDups.all (fun die => s.falls (4 * die) 256)

/-- R400: the COMMIT of the call in DONE_SENT has come, with its own call descriptor. -/
def State.committing (s : State) (g : Nat) (r : Rec) (d : CallDesc) : Bool :=
  s.grpState g = 5 && grpRank r ≠ 0 && (s.grp g).inbox.any (fun m => m.call = s.grpCall g && m.phase = 4 && m.desc = d)

/-- R400 steps 2 and 3: rank 0 sends COMMIT once it has every DONE, and finishes; another rank finishes once COMMIT has come. -/
def State.collCommit (s : State) (g : Nat) (r : Rec) (d : CallDesc) : State :=
  let got (ph : Nat) : List Nat := ((s.grp g).inbox.filter (fun m => m.call = s.grpCall g && m.phase = ph)).map (fun m => m.rank)
  if s.grpState g ≠ 5 || s.grpHeld g || !s.collFalls r d then s
  else if grpRank r ≠ 0 then (if (got 4).isEmpty then s else s.collFinish g r d)
  else if (List.range (grpN r)).all (fun k => k = 0 || (got 3).contains k) then
    (((List.range (grpN r)).filter (fun k => k ≠ 0)).foldl (fun u k => u.sendColl g r d k 4 0 0 0 0 []) s).collFinish g r d
  else s

/-- The step after the last of a phase: the next phase that the call has, entered at its step 1, with rounding before GATHER. -/
def State.nextPhase (s : State) (g : Nat) (r : Rec) (d : CallDesc) (ph : Nat) : State :=
  let t := if ph = 0 then s.collCombine g r d else s
  if t.grpState g = 6 then t
  else if ph = 0 && decide (0 < phaseSteps r d 1) then t.setGrp g 2 1
  else
    let u := if ph ≤ 1 then (t.setGrp g 3 0).collOwn g r d else t
    if ph ≤ 1 && decide (0 < phaseSteps r d 2) then u.setGrp g 4 1
    else u.collDoneSent g r d

/-- The phase number (R389) of a state. -/
def phaseOf (st : Nat) : Nat := if st = 1 then 0 else if st = 2 then 1 else 2

/-- The packets received for the step in progress. -/
def State.stepIn (s : State) (g : Nat) : List CollIn :=
  (s.grp g).inbox.filter (fun m => m.call = s.grpCall g && m.phase = phaseOf (s.grpState g) && m.step = s.grpStep g)

/-- R394, R397: what a step received is combined; the second component tells that every packed block's residue and every adder's agreed. -/
def combineIn (x : CleGrp) (d : CallDesc) (ph : Nat) (adds : Bool) (ms : List CollIn) : CleGrp × Bool :=
  ms.foldl (fun acc m =>
    let y := acc.1
    if ph = 0 then
      let v := (List.range m.count).map (fun i =>
        let w := fieldAt m.body (4 * i) 4
        if w = 0x80000000 then none else some (sint 32 w))
      ({ y with tb := if adds then addAt maxT y.tb m.first v else putList y.tb m.first v }, acc.2)
    else if ph = 1 && !d.native then
      let v := unpackBlocks (m.count + 1) m.count m.body
      ({ y with part := addAt lfAdd y.part m.first v.1 }, acc.2 && v.2 && zipOk lfAddOk ((y.part.drop m.first).take v.1.length) v.1)
    else
      let w := wireBits d
      let n := leNat m.body
      let v := (List.range m.count).map (fun i => bits n (i * w) w)
      if ph = 1 then ({ y with natp := addAt (nativeAdd d.fmt) y.natp m.first v }, acc.2 && zipOk (nativeAddOk d.fmt) ((y.natp.drop m.first).take v.length) v) else ({ y with res := putList y.res m.first v }, acc.2)) (x, true)

/-- A step of the ANCHOR phase combines while it goes around or up, and copies on the way back. -/
def anchorAdds (r : Rec) (s : Nat) : Bool := if grpTree r then decide (s ≤ ceilLog2 (grpN r)) else decide (s < grpN r)

/-- R403: while calls are held, a call is held between steps. -/
def State.betweenSteps (s : State) (g : Nat) : State := if s.fb R.CLE_STATUS F.CLE_STATUS_held then s.holdGrp g else s

/-- R394, R395: residues that disagree do so again when the step is repeated, and the call aborts. Progress of one step: its packets leave, and once they have and everything it expects has come it is combined and the next step begins (R399). With every final
value here and DONE sent, the call is in DONE_SENT. The second component tells whether the call went on. -/
def State.collStep (s : State) (g : Nat) (r : Rec) (d : CallDesc) : State × Bool :=
  let st := s.grpState g
  let x := s.grp g
  if s.grpHeld g then (s, false)
  else if x.closing then (if st ≠ 5 && x.out.isEmpty then ((s.setGrp g 5 0).betweenSteps g, true) else (s, false))
  else if st ≠ 1 && st ≠ 2 && st ≠ 4 then (s, false)
  else
    let ph := phaseOf st
    let k := s.grpStep g
    let p := stepPlan r d ph k
    let t := if x.sent then s else
      let u := s.modGrp g (fun y => { y with sent := true })
      match p.send with
      | some (dst, rg) => (stepPackets (grpH r) x d ph rg).foldl (fun v pk => v.sendColl g r d dst ph k 0 pk.1 pk.2.1 pk.2.2) u
      | none => u
    let ms := t.stepIn g
    let want := match p.recv with
      | some rg => rg.2
      | none => 0
    if (ms.map (fun m => m.count)).sum < want || !(t.grp g).out.isEmpty then (t, false)
    else
      let c := combineIn (t.grp g) d ph (ph ≠ 0 || anchorAdds r k) ms
      if !c.2 then ((t.pmc 58 0x0A1 1 bareAttr).cleAbort g Code.residueCheck (grpRank r) false, false)
      else
        let t0 := if ph = 1 && !ms.isEmpty then t.adderUsed g else t
        let u := t0.modGrp g (fun _ => { c.1 with inbox := c.1.inbox.filter (fun m => !ms.contains m) })
        ((if k < phaseSteps r d ph then u.setGrp g st (k + 1) else u.nextPhase g r d ph).betweenSteps g, true)

/-- Runs a call on until it waits for a packet or a slot, or is held. -/
def State.collRun (s : State) (g : Nat) (r : Rec) (d : CallDesc) : Nat → State
  | 0 => s
  | fuel + 1 =>
    let p := s.collStep g r d
    if p.2 then p.1.collRun g r d fuel else p.1

/-- R382, R401: why a call in progress must abort, with the sender and whether it was told: a call descriptor that differs, or an ABORT for it. -/
def State.collFault (s : State) (g : Nat) (d : CallDesc) : Option (Nat × Nat × Bool) :=
  let ms := (s.grp g).inbox.filter (fun m => m.call = s.grpCall g)
  if ms.any (fun m => m.phase ≠ 5 && m.desc ≠ d) then some (Code.badFormat, 0, false)
  else (ms.find? (fun m => m.phase = 5)).map (fun m => (fieldAt m.body 0 1, m.rank, true))

/-- R402: a call that begins with a number not above the highest one aborted aborts at once. -/
def State.collDoomed (s : State) (g : Nat) : Option (Nat × Nat × Bool) := match (s.grp g).abortNo with
  | some a => if s.grpCall g ≤ a.1 then some (a.2.1, a.2.2, true) else none
  | none => none

/-- Progress of a group's call, unless it is held (R403). COMMIT goes before an ABORT (R404), also one that waits for the hub links of its dies. -/
def State.collAdvance (s : State) (g : Nat) : State :=
  match s.group g, (s.grp g).desc with
  | some r, some d =>
    let t := s.collPump (s.grp g).out.length g
    if t.grpHeld g || !t.grpBusy g then t
    else match (if t.committing g r d then none else t.collFault g d) with
      | none => (t.collRun g r d (6 * grpN r + 64)).collCommit g r d
      | some a =>
        if !a.2.2 then t.cleAbort g a.1 (grpRank r) false
        else
          let u := t.collCommit g r d
          if !u.grpBusy g || u.grpCall g ≠ t.grpCall g then u else u.cleAbort g a.1 a.2.1 true
  | _, _ => s.collPump (s.grp g).out.length g

/-- Calls that wait for a hub link go on (R190). -/
def State.collRetry (s : State) : State := (List.range 64).foldl (fun (t : State) g => if t.grpState g = 5 then t.collAdvance g else t) s

/-- The call descriptor of a COLL word with its source descriptor (R131, R389): what the call ignores (R381, R388) is zero. -/
def descOf (w : Nat) (src : Option Desc) : CallDesc :=
  let cop := bits w 22 4
  let out := decide (cop ≤ 1) && !bit w 36
  ⟨cop, if cop = 4 then 0 else (src.map (fun d => d.fmt)).getD 0, if out then bits w 49 3 else 0, if out then bits w 52 2 else 0, bit w 36,
   if cop = 4 then 0 else (src.map (fun d => d.rows * d.cols)).getD 0, if cop = 3 then bits w 37 12 else 0⟩

/-- The local COLLs that wait for a call of a group: one for each contributing core. -/
def State.collWaiting (s : State) (g : Nat) (r : Rec) : Option (List QIns) :=
  allSome ((grpCores r).map (fun c => match s.running c 6 with
    | some q => if bits q.word 16 6 = g && q.waitFor = 1 then some q else none
    | none => none))

/-- R382, R402: a call begins when every local core has issued its COLL: their sources rise to the hub. A barrier, and another call without a step, is in GATHER
until its DONE has left (R399; DESIGN CHOICE; assumption log 141). -/
def State.collBegin (s : State) (g : Nat) : State :=
  match s.group g with
  | none => s
  | some r =>
    if s.grpBusy g || s.fb R.CLE_STATUS F.CLE_STATUS_held then s
    else match s.collWaiting g r with
      | none => s
      | some qs =>
        let d := match qs with
          | q :: _ => descOf q.word q.descs.head?
          | [] => ⟨4, 0, 0, 0, false, 0, 0⟩
        let raws := qs.map (fun q => match q.descs.head? with
          | some x => if d.op = 4 then [] else (s.descRows q.core x).flatten
          | none => [])
        let lfs := qs.map (fun q => match q.descs.head? with
          | some x => if d.op ≤ 1 && !d.native then
              (if d.fmt = 0x1F then (s.descRows q.core x).flatten.map LF.decode else (s.descNums q.core x true).flatten.map toLF) else []
          | none => [])
        let x := s.grp g
        let n := grpN r
        let me := grpRank r
        let tot := totalElems r d
        let res0 := List.replicate tot 0
        let res := if d.op = 2 then putList res0 (me * grpL r * d.elems) raws.flatten else if d.op = 3 && me = d.root then (raws.headD []) else res0
        let tb := (lfs.map (blockMax d.fmt)).foldl (zipAdd maxT) (List.replicate (blocksOf d.elems) none)
        let s0 := if d.op = 4 then s else (grpCores r).foldl (fun (u : State) c => u.rise (4 * (c / 4)) (cdiv (d.elems * fmtBits d.fmt) 512)) s
        let t := s0.modGrp g (fun _ => { CleGrp.empty with desc := some d, srcs := raws, lfs := lfs, tb := tb, res := res, inbox := x.inbox, abortNo := x.abortNo, out := x.out, since := s.now, aborted := x.aborted, calls := x.calls })
        let u := if decide (0 < phaseSteps r d 0) then t.setGrp g 1 1
          else if decide (0 < phaseSteps r d 1) then (t.setGrp g 2 1).collCombine g r d
          else if d.op ≤ 1 then
            let v := t.setGrp g 3 0
            (((if n ≤ 1 then v.collCombine g r d else v)).collOwn g r d).modGrp g (fun y => { y with closing := true })
          else if decide (0 < phaseSteps r d 2) then t.setGrp g 4 1
          else (t.setGrp g 4 0).modGrp g (fun y => { y with closing := true })
        if u.grpState g = 6 then u
        else match (u.collDoomed g).orElse (fun _ => u.collFault g d) with
        | some a => u.cleAbort g a.1 (if a.2.2 then a.2.1 else me) a.2.2
        | none => ((if (u.grp g).closing then u.collDoneSent g r d else u)).collAdvance g

/-! ### Received COLL packets -/

/-- R389: the collective header of a packet. -/
def collOf (b : Bytes) : CollIn :=
  ⟨fieldAt b 4 4, fieldAt b 1 1, fieldAt b 8 2, fieldAt b 10 2, fieldAt b 20 4, fieldAt b 24 2, b.drop 32,
   ⟨fieldAt b 2 1, fieldAt b 12 1, bits (fieldAt b 13 1) 0 3, bits (fieldAt b 13 1) 3 2, bit (fieldAt b 3 1) 0, fieldAt b 16 4, fieldAt b 26 2⟩⟩

/-- The packets of this call that have come so far. -/
def State.collStale (s : State) (g call : Nat) : Bool :=
  decide (call < s.grpCall g) || (call = s.grpCall g && s.grpState g = 6)

/-- R392: the activity charged for the slot of a received packet: that of its group, or the packet's own where no group is defined. -/
def State.collAct (s : State) (p : Packet) : Nat := match s.group (fieldAt p.data 0 1) with
  | some r => grpAct r
  | none => p.act

/-- R404: a COMMIT in the HCLK in which an ABORT ended its call in DONE_SENT goes before it: the abort is undone and the call completes. -/
def State.collUndo (s : State) (g : Nat) (m : CollIn) : Option State :=
  match s.group g, (s.grp g).undo with
  | some r, some u =>
    if u.at_ = s.now && m.phase = 4 && m.desc = u.desc && grpRank r ≠ 0 && m.call = s.grpCall g && s.grpState g = 6 && s.collFalls r u.desc
        && (grpCores r).all (fun c => match s.running c 6 with
          | some q => bits q.word 16 6 = g
          | none => false) then
      let t := u.regs.foldl (fun (a : State) e => a.wr e.1 e.2) s
      some ((t.modGrp g (fun x => { x with desc := some u.desc, res := u.res, inexact := u.inexact, aborted := x.aborted.filter (fun n => n ≠ m.call), undo := none })).collFinish g r u.desc)
    else none
  | _, _ => none

/-- What a call in DONE_SENT was, for a COMMIT in the HCLK of the ABORT that ends it (R404). -/
def State.collSave (s : State) (g : Nat) : Option CleUndo := match (s.grp g).desc with
  | some d => if s.grpState g = 5 then some ⟨s.now, d, (s.grp g).res, (s.grp g).inexact, [R.CLE_GRP g, R.CLE_ERR, R.CLE_ERR_INFO].map (fun k => (k, s.rd k))⟩ else none
  | none => none

/-- ANCHOR, REDUCE, GATHER, DONE and COMMIT (R389, R397, R400): kept for their step, also while the call is held (R403), and the call goes on where it waited for them. -/
def State.collData (s : State) (p : Packet) : State :=
  let g := fieldAt p.data 0 1
  let m := collOf p.data
  let t := ((s.rxCount p).charge (s.collAct p) 6 0 1)
  if (s.group g).isNone then t.count R.CLE_CNT_STALE
  else match t.collUndo g m with
  | some u => u
  | none => if s.collStale g m.call then t.count R.CLE_CNT_STALE
  else (t.modGrp g (fun x => { x with inbox := x.inbox ++ [m] })).collAdvance g

/-- ABORT (R401, R402): the call in progress aborts with its code; a later call remembers it; one for a call aborted here is stale, one for a
completed call is ignored. -/
def State.collAbortRx (s : State) (p : Packet) : State :=
  let g := fieldAt p.data 0 1
  let m := collOf p.data
  let code := fieldAt p.data 14 1
  let t := ((s.rxCount p).charge (s.collAct p) 6 0 1).count R.CLE_CNT_ABORT_RX
  if s.collStale g m.call || (s.group g).isNone then (if (s.grp g).aborted.contains m.call then t.count R.CLE_CNT_STALE else t)
  else
    let u := (t.modGrp g (fun x => { x with
      abortNo := match x.abortNo with
        | some a => if a.1 < m.call then some (m.call, code, m.rank) else some a
        | none => some (m.call, code, m.rank)
      inbox := if m.call = s.grpCall g && s.grpBusy g then x.inbox ++ [{ m with body := leBytes 1 code }] else x.inbox })).collAdvance g
    if u.grpState g = 6 && s.grpState g ≠ 6 then u.modGrp g (fun x => { x with undo := s.collSave g }) else u

/-- A COLL packet of a phase, whose slot the group's activity can pay (R392). -/
def collPhase (ph : Nat) (s : State) (q : Packet) : Bool := q.op = FOp.coll && q.dest = s.device && fieldAt q.data 1 1 = ph && s.covers (s.collAct q) 6 0 1

/-- COLL_ANCHOR; a COLL packet that fails a check, or of no known phase, is dropped here. -/
def execCollAnchor (p : Nat) (pkt : Packet) (s : State) : Answer :=
  match (s.takeRx p pkt).bind (fun t => t.toHub p pkt) with
  | some t =>
    let r := t.inspect pkt
    if r.1 ≠ Code.ok then occurs (pkt.op = FOp.coll && pkt.dest = s.device) s (r.2.2.dropPkt r.1)
    else if 5 < fieldAt r.2.1.data 1 1 then occurs (pkt.op = FOp.coll && pkt.dest = s.device) s (r.2.2.dropPkt Code.badFormat)
    else occurs (collPhase 0 s r.2.1) s (r.2.2.collData r.2.1)
  | none => occurs false s s
/-- A COLL packet that passes the checks and has a phase. -/
def collRow (ph : Nat) (f : State → Packet → State) (p : Nat) (pkt : Packet) (s : State) : Answer :=
  match (s.takeRx p pkt).bind (fun t => t.toHub p pkt) with
  | some t =>
    let r := t.inspect pkt
    occurs (r.1 = Code.ok && collPhase ph s r.2.1) s (f r.2.2 r.2.1)
  | none => occurs false s s
/-- COLL_REDUCE. -/
def execCollReduce (p : Nat) (pkt : Packet) (s : State) : Answer := collRow 1 State.collData p pkt s
/-- COLL_GATHER. -/
def execCollGather (p : Nat) (pkt : Packet) (s : State) : Answer := collRow 2 State.collData p pkt s
/-- COLL_DONE. -/
def execCollDone (p : Nat) (pkt : Packet) (s : State) : Answer := collRow 3 State.collData p pkt s
/-- COLL_COMMIT. -/
def execCollCommit (p : Nat) (pkt : Packet) (s : State) : Answer := collRow 4 State.collData p pkt s
/-- COLL_ABORT. -/
def execCollAbort (p : Nat) (pkt : Packet) (s : State) : Answer := collRow 5 State.collAbortRx p pkt s

/-- STEP_DEADLINE (R401, R404): the timer of a step, or of DONE_SENT, passes the deadline, which input that arrives at the deadline itself prevents; it stands still
while the call is held. A call whose COMMIT has come does not abort. -/
def execStepDeadline (group : Nat) (s : State) : Answer :=
  match s.group group with
  | some r => occurs (group < 64 && s.grpBusy group && !s.grpHeld group && !((s.grp group).desc.any (s.committing group r))) s
      ((s.runTo ((s.grp group).since + grpDeadline r + 1)).cleAbort group Code.stepTimeout (grpRank r) false)
  | none => occurs false s s

/-- R403: calls are to be held: a call in a step ends that step first. -/
def State.cleHold (s : State) : State :=
  (List.range 64).foldl (fun t g => if t.grpBusy g && (t.grpState g = 5 || (t.grp g).closing) then t.holdGrp g else t) (s.fs R.CLE_STATUS F.CLE_STATUS_held 1)

/-- R403: calls go on; the timer of a held one did not run. Calls that have not begun start with their COLLs. -/
def State.cleResume (s : State) : State :=
  (List.range 64).foldl (fun t g =>
    let u := (t.fs (R.CLE_GRP g) F.CLE_GRP_held 0)
    if u.grpBusy g then (u.modGrp g (fun x => { x with since := u.now - (x.heldAt.getD u.now - x.since), heldAt := none })).collAdvance g else u)
    (s.fs R.CLE_STATUS F.CLE_STATUS_held 0)

/-- The groups of an activity whose calls abort with a code (R404). -/
def State.abortCalls (s : State) (p : Rec → Bool) (code : Nat) : State :=
  (recsOf s.img.cfg RT.group).foldl (fun t r => if p r && t.grpBusy r.id then t.cleAbort r.id code (grpRank r) false else t) s

/-- R382, R410, R408: the group registers of a configuration. The calls of a group are numbered from the base image on, over configurations that do not define it. -/
def State.showGroups (s : State) : State :=
  let t := (List.range 64).foldl (fun u g => match u.group g with
    | some r =>
      let v := if u.fb (R.CLE_GRP g) F.CLE_GRP_defined then u else u.fs (R.CLE_GRP g) F.CLE_GRP_call (u.grp g).calls
      ((v.fs (R.CLE_GRP g) F.CLE_GRP_defined 1).fs (R.CLE_GRP g) F.CLE_GRP_my_rank (grpRank r)).fs (R.CLE_GRP g) F.CLE_GRP_native_grant (b2n (bit (r.at 10 1) 0))
    | none => if u.fb (R.CLE_GRP g) F.CLE_GRP_defined then
        (u.modGrp g (fun x => { x with calls := u.grpCall g + b2n (u.grpState g = 6) })).wr (R.CLE_GRP g) 0
      else u) s
  t.fs R.CLE_STATUS F.CLE_STATUS_slot_capacity (cleCapacity (budgetPeriod t.img.cfg))

/-- CLE_CLEAR_COUNTS (R407). -/
def execCleClearCounts (port : Nat) (s : State) : Answer :=
  occurs (s.hostOn port && port = s.tokenPort) s (s.zeroRegs [R.CLE_CNT_CALLS, R.CLE_CNT_INEXACT, R.CLE_CNT_REPEAT, R.CLE_CNT_RESIDUE, R.CLE_CNT_TIMEOUT, R.CLE_CNT_ABORT_RX, R.CLE_CNT_STALE])

/-- CLE_INJECT_RESIDUE (R407): in TEST, the next adder result's residue will be flipped. -/
def execCleInjectResidue (port : Nat) (s : State) : Answer :=
  occurs (s.hostOn port && port = s.tokenPort && s.inTest) s (s.fs R.CLE_CTL F.CLE_CTL_inject_residue 1)

end Machine
end Sys2Proof
end

