-- ==== Sys2Proof/Machine/Links.lean ====
section
/-!
DEFINITION. Die links (R185-R193), the loss of one die (R199-R205), comb light (R28, R310), and global addresses (R331, R141).
-/
namespace Sys2Proof
namespace Machine

/-! ### Global addresses -/

/-- What a global address names at its home (R331, R141). -/
inductive Target where
  | far (dom off : Nat)
  | bond (core off : Nat)
  | sram (core off : Nat)
  | stream (port : Nat)
  | control
  | noPort
  | invalid
deriving DecidableEq, Repr

/-- R331, R141: the target of an address; bits that must be zero make it invalid (`noPort` in the stream space). -/
def targetOf (addr : Nat) : Target :=
  let sp := bits addr 48 4
  let o := bits addr 0 48
  if sp = 0 then .far (bits o 44 4) (bits o 0 44)
  else if sp = 1 then (if o / 2 ^ 39 = 0 then .bond (bits o 34 5) (bits o 0 34) else .invalid)
  else if sp = 2 then (if o / 2 ^ 32 = 0 then .sram (bits o 27 5) (bits o 0 27) else .invalid)
  else if sp = 3 then (if o / 2 ^ 28 = 0 then .stream (bits o 16 12) else .noPort)
  else if sp = 15 then .control else .invalid

/-- The die a target lies on as a whole, and the core whose SRAM it is: none for a domain of several dies, whose arbiter is on the hub (R258). -/
def State.targetDie (s : State) (t : Target) : Option (Nat × Option Nat) := match t with
  | .far i _ => if s.fg (R.FMC_DOM_CFG i) F.FMC_DOM_CFG_kind = 0 then some (s.fg (R.FMC_DOM_CFG i) F.FMC_DOM_CFG_die, none) else none
  | .bond c _ => some (c / 4, none)
  | .sram c _ => some (c / 4, some c)
  | _ => none

/-- The dies a target lies on. -/
def State.targetDies (s : State) (t : Target) : List Nat := match t with
  | .far i _ => (s.domStacks i).map (· / 3)
  | .bond c _ => [c / 4]
  | .sram c _ => [c / 4]
  | _ => []

/-- R202: a target that needs a die out of service. -/
def State.targetDead (s : State) (t : Target) : Bool := (s.targetDies t).any (fun d => !s.dieUp d)

/-! ### Ends of links -/

/-- Sets a field of the status of both ends (R214). -/
def State.setLink (s : State) (k : Nat) (f : Fld) (v : Nat) : State := (endsOf k).foldl (fun t e => t.fs (linkReg e) f v) s

/-- R186: lanes of a direction: HL 128, NL 1,024 logical. -/
def linkLanes (k : Nat) : Nat := if k % 3 = 0 then 128 else 1024

/-- Lanes of a link without working light or lane, in either direction, and those of a dark fibre (R28). -/
def State.lostLanes (s : State) (k : Nat) : List Nat :=
  (endsOf k).flatMap (fun e => (s.link e).lost)
  ++ (if k % 3 = 0 then
      (if s.fb (linkReg k) F.DL_LINK_STATUS_light_lo then List.range 64 else []) ++ (if s.fb (linkReg k) F.DL_LINK_STATUS_light_hi then (List.range 64).map (· + 64) else [])
    else [])

/-- R188: the width (0 full, 1 half, 2 quarter, 3 none) and the half or quarter for a set of lost lanes. -/
def linkWidth (n : Nat) (lost : List Nat) : Nat × Nat :=
  if lost.isEmpty then (0, 0)
  else match (List.range 2).find? (fun h => lost.all (fun x => x / (n / 2) ≠ h)) with
    | some h => (1, h)
    | none => match (List.range 4).find? (fun q => lost.all (fun x => x / (n / 4) ≠ q)) with
      | some q => (2, q)
      | none => (3, 0)

/-- R188: what a link at a width makes of the lanes it has lost: at full width a half or a quarter; at half width a quarter once a lane in use is lost; at quarter
width nothing is left then. The loss of a fibre's light moves a link to what it still lights (R28), so there a quarter gives way to another. -/
def nextWidth (n : Nat) (old : Nat × Nat) (lost : List Nat) (light : Bool) : Nat × Nat :=
  let quarter : Nat × Nat := match (List.range 4).find? (fun q => lost.all (fun x => x / (n / 4) ≠ q)) with
    | some q => (2, q)
    | none => (3, 0)
  if old.1 = 1 then (if lost.all (fun x => x / (n / 2) ≠ old.2) then old else if light && (linkWidth n lost).1 = 1 then linkWidth n lost else quarter)
  else if old.1 = 2 then (if lost.all (fun x => x / (n / 4) ≠ old.2) then old else if light then quarter else (3, 0))
  else linkWidth n lost

/-! ### Fencing a die (R199-R202) -/

/-- R351, R371: parked packets whose target is fenced are discarded, counted, and answered with TARGET_DEAD. -/
def State.unparkDead (s : State) : State :=
  let dead (e : Nat × Packet × Nat) : Bool := s.targetDead (targetOf e.2.1.addr)
  let gone := s.fj.parked.filter dead
  gone.foldl (fun t e => (t.count R.FJ_CNT_PARK_EXPIRED).refuse e.2.1 Code.targetDead) { s with fj := { s.fj with parked := s.fj.parked.filter (fun e => !dead e) } }

/-- R370: what the Fjarux unit held for the cores of a die is dropped, packets for this module among it, and their pair entries are cleared. -/
def State.dropDie (s : State) (d : Nat) : State :=
  let mine (c : Nat) : Bool := decide (c < 32) && c / 4 = d
  let sent := (s.fj.sent.filter (fun e => mine e.core)).map (fun e => (e.pkt.dest, e.pkt.chan, e.pkt.seq))
  let loads := (s.fj.loads.filter (fun e => mine e.core)).map (fun e => (e.dev, e.chan, e.seq))
  let t := (s.dropHeads (fun h => h.iss ≠ 0 && (sent ++ loads).contains (h.pkt.dest, h.pkt.chan, h.pkt.seq))).1
  let u := t.clearPairs (fun k => mine (k / 2 ^ 20))
  let here (k : Nat) : Bool := keyDie k = some d
  { u with fj := { u.fj with loads := u.fj.loads.filter (fun e => !mine e.core), fences := u.fj.fences.filter (fun f => !mine f.core),
                             rx := u.fj.rx.filter (fun e => !here e.1), ingress := u.fj.ingress.filter (fun e => !here e.1), parked := u.fj.parked.filter (fun e => !here e.1),
                             tails := u.fj.tails.filter (fun e => !mine e.1) } }

/-- R64, R145: the cores of a die stop: contexts, queues and running instructions. -/
def State.dropCores (s : State) (d : Nat) : State :=
  (List.range 4).foldl (fun t c =>
    let core := 4 * d + c
    let u := (List.range 4).foldl (fun v x => v.haltCtx (4 * core + x) Code.dieLost) t
    (List.range 7).foldl (fun v un => (v.setRunning core un none).setQueue core un []) u) s

/-- DL_CTL.restore reads 1 until the retrains that a die ordered have run (R213). -/
def State.restoreDone (s : State) (d : Nat) : State :=
  if (List.range 3).any (fun l => (s.link (endKey d l)).ordered) then s else s.fs (R.DL_CTL d) F.DL_CTL_restore 0

/-- The retrain of a link is over or cancelled; a die that ordered it has no more to wait for on it (R193, R213). -/
def State.retrainOver (s : State) (k : Nat) : State :=
  let ds := (endsOf k).filter (fun e => (s.link e).ordered)
  let t := (endsOf k).foldl (fun (u : State) e => u.modLink e (fun x => { x with switchAt := none, restoring := false, ordered := false })) s
  ds.foldl (fun (u : State) e => u.restoreDone (e / 3)) t

/-- Both ends of a link are fenced: width none, retrains cancelled (R191). -/
def State.closeLink (s : State) (k : Nat) : State :=
  ((((s.setLink k F.DL_LINK_STATUS_width 3).setLink k F.DL_LINK_STATUS_in_use 0).setLink k F.DL_LINK_STATUS_retrain_pending 0).setLink k F.DL_LINK_STATUS_retraining 0).retrainOver k

/-- DIE_FENCE (R200, R201): ports DEAD, buffered packets dropped, links closed, the die FENCED, its activities FAULTED; the DIE_RESET of a die that was loading
ends (R292). A fence by MGC reset records no DIE_LOST. -/
def State.fenceDie (s : State) (d cause : Nat) : State :=
  let t := ((List.range 4).foldl (fun u i => u.fs (R.XB_PORT_STATUS (4 * d + i)) F.XB_PORT_STATUS_state 1) s).fs R.XB_STATUS F.XB_STATUS_dead_dies (s.fg R.XB_STATUS F.XB_STATUS_dead_dies ||| 2 ^ d)
  let dr := t.dropHeads (fun h => h.out / 4 = d)
  let t1 := (dr.1.countN (R.DL_DROP_CNT d) dr.2)
  let t2 := (List.range 3).foldl (fun u l => u.closeLink (endKey d l)) t1
  let t3 := (t2.fs (R.DIE_STATUS d) F.DIE_STATUS_state 1).fs (R.DIE_STATUS d) F.DIE_STATUS_fence_cause cause
  let t4 := (t3.dropCores d).dropDie d
  let t5 := t4.faultActs (fun a => s.actUsesDie a d)
  let t6 := if 1 ≤ t5.spState d && t5.spState d ≤ 11 then t5.spDown d 7 else t5
  let t7 := (t6.unparkDead.abortCalls (fun r => (grpCores r).any (fun c => c / 4 = d)) Code.targetDead).applyRecheck
  let t8 := { t7 with pause := t7.pause.map (fun p => { p with voided := true }), mgt := { t7.mgt with fencedAt := tset t7.mgt.fencedAt d t7.now } }
  let t9 := if s.dieState d = 3 then t8.dieResetEnds d Code.dieLost else t8
  if cause = 5 then t9
  else ((t9.fsat (R.DIE_STATUS d) F.DIE_STATUS_loss_count 1).log Code.dieLost 2 (0x1000 + d) [BitVec.ofNat 8 cause]).emit (.report Code.dieLost (leBytes 1 d ++ leBytes 1 cause))

/-- A die that can be fenced: in service or loading. -/
def State.dieLive (s : State) (d : Nat) : Bool := d < 8 && (s.dieState d = 0 || s.dieState d = 3)

/-- R205: a die was fenced for a higher-numbered cause in the MCLK, 5 ns long, of a further one. -/
def State.sameMclk (s : State) (d cause : Nat) : Bool :=
  d < 8 && (s.dieState d = 1 || s.dieState d = 4) && decide (cause < s.fg (R.DIE_STATUS d) F.DIE_STATUS_fence_cause)
  && (match tget s.mgt.fencedAt d with
    | some t => t / 5 = s.now / 5
    | none => false)

/-- R199, R205: a fence cause of a die falls: the die is fenced, or, fenced in the same MCLK already, records the lower-numbered cause. -/
def State.dieCause (s : State) (d cause : Nat) : State :=
  if s.dieLive d then s.fenceDie d cause else s.fs (R.DIE_STATUS d) F.DIE_STATUS_fence_cause cause

/-- DIE_CLOCK_LOSS (R200). -/
def execDieClockLoss (die : Nat) (s : State) : Answer := occurs (s.dieLive die || s.sameMclk die 1) s (s.dieCause die 1)

/-- NEIGHBOUR_CLOCK_LOSS (R199, R200): the end of `die`'s link saw no edge from its neighbour, which is fenced: `west` names the link to die - 1. A die that
sees the clock of its own NLW fail fences die - 1, whose NLE clock it is. -/
def execNeighbourClockLoss (die : Nat) (west : Bool) (s : State) : Answer :=
  let lost := if west then (die + 7) % 8 else (die + 1) % 8
  let cause := if west then 2 else 3
  occurs (die < 8 && s.dieUp die && ((s.dieLive lost && s.fg (R.DL_LINK_STATUS die (if west then 2 else 1)) F.DL_LINK_STATUS_width ≠ 3) || s.sameMclk lost cause)) s
    (s.dieCause lost cause)

/-- R216: ACLK of a die starts, or stops, which leaves its lowest mean at zero. -/
def State.setAclk (s : State) (d : Nat) (on : Bool) : State :=
  let k := R.CLK_ACLK d
  let t := s.fs R.CLK_STATUS F.CLK_STATUS_aclk_run (setBits (s.fg R.CLK_STATUS F.CLK_STATUS_aclk_run) d 1 (b2n on))
  let runs := tgetD s.mgt.aclkRuns d []
  let put (t : State) (rs : List (Nat × Option Nat)) : State := { t with mgt := { t.mgt with aclkRuns := tset t.mgt.aclkRuns d rs } }
  match on, runs with
  | true, (_, none) :: _ => t
  | true, _ => put t ((s.now, none) :: runs)
  | false, (a, none) :: r => put (t.fs k F.CLK_ACLK_low 0) ((a, some s.now) :: r)
  | false, _ => t

/-- ACLK_LOSS (R199): the die's clocks stop on all its links; the hub detector, the first to count out, fences it. -/
def execAclkLoss (die : Nat) (s : State) : Answer := occurs (s.dieLive die) s ((s.setAclk die false).fenceDie die 1)

/-! ### Flits and lanes (R187-R193) -/

/-- The resend counters of a link: HLd, or NLd as both its ends show it (R211). -/
def State.countResend (s : State) (k : Nat) : State :=
  (endsOf k).foldl (fun t e => (t.pmc (32 + e / 3) 0x021 1 bareAttr).count (if e % 3 = 0 then R.HL_RETRY_CNT (e / 3) else if e % 3 = 1 then R.NLE_RETRY_CNT (e / 3) else R.NLW_RETRY_CNT (e / 3))) s

/-- The end that sends what the end `e` receives. -/
def peerEnd (e : Nat) : Nat := if 24 ≤ e then endKey (e - 24) 0 else if e % 3 = 0 then hubEnd (e / 3) else otherEnd e

/-- R187, R189: what an end has not had acknowledged is sent again from flit `n` on, and counted. -/
def State.linkResendFrom (s : State) (e n : Nat) : State :=
  ((s.link e).unacked.filter (fun k => decide (n ≤ k))).foldl (fun (t : State) k =>
    (t.countResend (regEnd e)).emit (.linkFlit (regEnd e / 3) (if 24 ≤ e then 3 else e % 3) k (t.link e).rxSeq)) s

/-- R187, R189: everything an end has not had acknowledged is sent again, and counted. -/
def State.linkResend (s : State) (e : Nat) : State := s.linkResendFrom e 0

/-- LINK_FLIT_RX (R187): what the flit acknowledges leaves the replay buffer; a flit in order is delivered and acknowledged; one that fails its CRC is sent again
by the other end, with those behind it, from its replay buffer; one that is out of order is not delivered. -/
def State.linkFlit (s : State) (e : Nat) (f : LinkFlit) : State :=
  if !f.crcOk then
    let n := (s.link e).rxSeq
    if ((s.link (peerEnd e)).unacked.any (fun k => decide (n ≤ k))) then s.linkResendFrom (peerEnd e) n
    else (s.countResend (regEnd e)).emit (.linkFlit (regEnd (peerEnd e) / 3) (if 24 ≤ peerEnd e then 3 else peerEnd e % 3) n (s.link (peerEnd e)).rxSeq)
  else
    let t := s.modLink e (fun x => { x with unacked := x.unacked.filter (fun n => decide (f.ack ≤ n)) })
    if f.seq = (t.link e).rxSeq then
      (t.modLink e (fun x => { x with rxSeq := x.rxSeq + 1 })).emit (.linkFlit (regEnd e / 3) (if 24 ≤ e then 3 else e % 3) (f.seq + 1) f.ack) |>.pmc (32 + regEnd e / 3) 0x020 1 bareAttr
    else t
/-- The end that a die and a link operand name: 0 HL at the die, 1 NLE, 2 NLW, 3 HL at the hub. -/
def flitEnd (die link : Nat) : Nat := if link = 3 then hubEnd die else endKey die link
/-- LINK_FLIT_RX. -/
def execLinkFlitRx (die link : Nat) (flit : LinkFlit) (s : State) : Answer :=
  occurs (die < 8 && link < 4 && s.dieUp die && s.fg (linkReg (regEnd (flitEnd die link))) F.DL_LINK_STATUS_width ≠ 3) s (s.linkFlit (flitEnd die link) flit).collRetry

/-- R190, R240, R417: the time to the next scheduled snapshot or maintenance pause; none while no boundary brings one: no schedule, or snapshots that are not due before
the first START or are skipped while HELD. -/
def State.nextSnapIn (s : State) : Option Nat :=
  let p := stepPeriod s.img.cfg
  let n := snapSteps s.img.cfg
  if s.img.recs.isNone || p = 0 || s.fb R.KPU_STATUS F.KPU_STATUS_replaying || s.mstate < 4 || 8 < s.mstate || (n ≠ 0 && (!s.host.started || s.heldNow)) then none
  else
    let ph := stepPhase s.img.cfg
    let k := if s.rack < ph then 0 else (s.rack - ph) / p + 1
    some ((if n = 0 then k else cdiv k n * n) * p + ph - s.rack)

/-- A retrain after a fast switch: pending for a snapshot pause that begins within 5 ms, else at once (R190, R191). -/
def State.retrainAfter (s : State) (k : Nat) : State :=
  let soon : Bool := match s.nextSnapIn with
    | some t => decide (t ≤ 5000000)
    | none => false
  if (s.link k).switchAt.isSome then s
  else if soon then (endsOf k).foldl (fun t e => t.modLink e (fun x => { x with switchAt := some s.now })) (s.setLink k F.DL_LINK_STATUS_retrain_pending 1)
  else s.setLink k F.DL_LINK_STATUS_retraining 1

/-- R205: the last quarter of a hub link went in the MCLK in which its die was fenced for a higher-numbered cause. -/
def State.deadLink (s : State) (k : Nat) : State :=
  if k % 3 = 0 && s.sameMclk (k / 3) 4 && (linkWidth 128 (s.lostLanes k)).1 = 3 then s.dieCause (k / 3) 4 else s

/-- FAST_SWITCH (R188, R189, R191): the width follows the lost lanes; a link without a usable quarter is removed, or its die fenced. -/
def State.linkRewidth (s : State) (k : Nat) (light : Bool) : State :=
  let old := (s.fg (linkReg k) F.DL_LINK_STATUS_width, s.fg (linkReg k) F.DL_LINK_STATUS_in_use)
  let w := nextWidth (linkLanes k) old (s.lostLanes k) light
  let d := k / 3
  if w = old then s
  else if w.1 = 3 then
    if k % 3 = 0 then s.fenceDie d 4
    else
      let span (e : Rec) : Bool := engineDirect e && (engineDies e).contains d && (engineDies e).contains (otherEnd k / 3)
      ((s.closeLink k).log Code.linkDown 2 (0x1000 + d) [BitVec.ofNat 8 (k % 3)]).faultActs (fun a =>
        (actCores s.img.cfg a).any (fun c => match engineOf s.img.cfg c with
          | some e => span e
          | none => false))
  else
    let running := s.fb (linkReg k) F.DL_LINK_STATUS_retraining
    let t := ((s.setLink k F.DL_LINK_STATUS_width w.1).setLink k F.DL_LINK_STATUS_in_use w.2).setLink k F.DL_LINK_STATUS_degraded 1
    let r := (t.emit (.linkOrder d (k % 3) w.1 w.2)).linkResend k
    let u := (r.linkResend (peerEnd k)).log Code.degradedWidth 2 (0x1000 + d) [BitVec.ofNat 8 (k % 3), BitVec.ofNat 8 w.1, BitVec.ofNat 8 w.2]
    if running then u.setLink k F.DL_LINK_STATUS_retraining 1 else u.retrainAfter k

/-- The logical lane that a physical lane of a neighbour link carries; none for a spare not in use (R186). -/
def LinkSt.logical (x : LinkSt) (lane : Nat) : Option Nat :=
  match x.spares.find? (fun e => e.2 = lane) with
  | some e => some e.1
  | none => if lane < 1024 && (tget x.spares lane).isNone then some lane else none

/-- The first spare of a direction that is neither failed nor in use. -/
def LinkSt.freeSpare (x : LinkSt) : Option Nat := (indices 32 (fun i => !x.failed.contains (1024 + i) && x.spares.all (fun e => e.2 ≠ 1024 + i))).head?.map (· + 1024)

/-- The first failure since the last training is kept (R214). -/
def State.firstFailed (s : State) (k lane : Nat) : State :=
  if s.fg (linkReg k) F.DL_LINK_STATUS_first_failed = 0x7FF then s.fs (linkReg k) F.DL_LINK_STATUS_first_failed lane else s

/-- Spares in use, the larger of both directions (R214). -/
def State.showSpares (s : State) (k : Nat) : State :=
  s.setLink k F.DL_LINK_STATUS_spares_used ((endsOf k).foldl (fun m e => max m (s.link e).spares.length) 0)

/-- LINK_LANE_FAIL (R188): a spare takes the lane's place and the link retrains at once, or the width changes. -/
def State.linkLaneFail (s : State) (k lane : Nat) : State :=
  let x := s.link k
  if x.failed.contains lane then s
  else if s.fg (linkReg k) F.DL_LINK_STATUS_width = 3 then
    (if k % 3 = 0 && s.sameMclk (k / 3) 4 then (s.modLink k (fun y => { y with failed := lane :: y.failed, lost := lane :: y.lost })).deadLink k else s)
  else if k % 3 = 0 then
    ((s.modLink k (fun y => { y with failed := lane :: y.failed, lost := lane :: y.lost })).firstFailed k lane).linkRewidth k false
  else
    let t := s.modLink k (fun y => { y with failed := lane :: y.failed })
    match x.logical lane with
    | none => t
    | some n =>
      let u := t.firstFailed k n
      match x.freeSpare with
      | some sp => ((u.modLink k (fun y => { y with spares := tset y.spares n sp })).showSpares k).setLink k F.DL_LINK_STATUS_retraining 1
      | none => ((u.modLink k (fun y => { y with spares := tdel y.spares n, lost := n :: y.lost })).showSpares k).linkRewidth k false

/-- A lane number that a link has (R186, R213). -/
def laneOk (link lane : Nat) : Bool := if link = 0 then lane < 128 else link < 3 && lane < 1056

/-- LINK_LANE_FAIL. -/
def execLinkLaneFail (die link lane : Nat) (s : State) : Answer := occurs (die < 8 && laneOk link lane && (s.dieUp die || (link = 0 && s.sameMclk die 4))) s (s.linkLaneFail (endKey die link) lane)

/-- LANE_ERROR_WINDOW (R187): a 1 ms window of a lane ends; errors at the threshold fail the lane. -/
def State.laneWindow (s : State) (die link lane errors : Nat) : State :=
  let th := s.fg (R.DL_CTL die) F.DL_CTL_lane_err_thresh
  let t := s.pass 1000000
  if th ≠ 0 && decide (th ≤ errors) then t.linkLaneFail (endKey die link) lane else t
/-- LANE_ERROR_WINDOW. -/
def execLaneErrorWindow (die link lane errors : Nat) (s : State) : Answer := occurs (die < 8 && laneOk link lane && s.dieUp die) s (s.laneWindow die link lane errors)

/-- R190, R193: pending retrains and the restorations that dies ordered begin at moment A of a snapshot pause. -/
def State.startRetrains (s : State) : State :=
  (List.range 24).foldl (fun t k =>
    let pend := t.fb (linkReg k) F.DL_LINK_STATUS_retrain_pending
    let deg := t.fg (linkReg k) F.DL_LINK_STATUS_width = 1 || t.fg (linkReg k) F.DL_LINK_STATUS_width = 2
    let ord := t.fb (R.DL_CTL (k / 3)) F.DL_CTL_restore && deg
    let u := if pend || ord then (t.setLink k F.DL_LINK_STATUS_retrain_pending 0).setLink k F.DL_LINK_STATUS_retraining 1 else t
    let v := if pend then (endsOf k).foldl (fun w e => w.modLink e (fun x => { x with switchAt := none })) u else u
    if ord then ((endsOf k).foldl (fun w e => w.modLink e (fun x => { x with restoring := true })) v).modLink k (fun x => { x with ordered := true }) else v) s

/-- Dies with nothing degraded have nothing to restore. -/
def State.settleRestores (s : State) : State := (List.range 8).foldl State.restoreDone s

/-- LINK_RETRAIN_DONE (R190, R193): the link sends again; where every lane was trained, those in `good` work again. -/
def State.linkRetrained (s : State) (k : Nat) (good : List Nat) : State :=
  let t := s.setLink k F.DL_LINK_STATUS_retraining 0
  if !(s.link k).restoring then t.collRetry
  else
    let u := (endsOf k).foldl (fun w e => w.modLink e (fun x => { x with lost := x.lost.filter (fun l => !good.contains l), failed := x.failed.filter (fun l => !good.contains l) })) t
    let v := (u.setLink k F.DL_LINK_STATUS_first_failed 0x7FF)
    let w := linkWidth (linkLanes k) (v.lostLanes k)
    let x := (v.setLink k F.DL_LINK_STATUS_width w.1).setLink k F.DL_LINK_STATUS_in_use w.2
    let y := if w.1 = 0 then x else (x.setLink k F.DL_LINK_STATUS_degraded 1).log Code.degradedWidth 2 (0x1000 + k / 3) [BitVec.ofNat 8 (k % 3), BitVec.ofNat 8 w.1, BitVec.ofNat 8 w.2]
    (y.retrainOver k).collRetry
/-- LINK_RETRAIN_DONE. -/
def execLinkRetrainDone (die link : Nat) (good : List Nat) (s : State) : Answer :=
  occurs (die < 8 && link < 3 && s.fb (R.DL_LINK_STATUS die link) F.DL_LINK_STATUS_retraining) s (s.linkRetrained (endKey die link) good)

/-- Training of every link of a die at its start or reload: full width, and less where light is missing (R188). -/
def State.trainLink (s : State) (k : Nat) : State :=
  if (endsOf k).any (fun e => !(s.dieUp (e / 3) || s.dieState (e / 3) = 3)) then s
  else
    let t := (endsOf k ++ [peerEnd k]).foldl (fun (u : State) e => { u with links := tdel u.links e }) s
    let w := linkWidth (linkLanes k) (t.lostLanes k)
    let u := (((t.setLink k F.DL_LINK_STATUS_width w.1).setLink k F.DL_LINK_STATUS_in_use w.2).setLink k F.DL_LINK_STATUS_first_failed 0x7FF).setLink k F.DL_LINK_STATUS_spares_used 0
    let v := if w.1 = 1 || w.1 = 2 then (u.setLink k F.DL_LINK_STATUS_degraded 1).log Code.degradedWidth 2 (0x1000 + k / 3) [BitVec.ofNat 8 (k % 3), BitVec.ofNat 8 w.1, BitVec.ofNat 8 w.2] else u
    v

/-! ### Comb light (R28, R310) -/

/-- Sets line_ok and fibre_ok of both ports of a fibre. -/
def State.setLight (s : State) (fibre mask : Nat) : State :=
  [2 * fibre, 2 * fibre + 1].foldl (fun t p => (t.fs (R.SP_LIGHT p) F.SP_LIGHT_line_ok mask).fs (R.SP_LIGHT p) F.SP_LIGHT_fibre_ok (b2n (mask = 0xFFFF))) s

/-- The hub-link halves a fibre lights: waveguides 0-3 of its own die, 4-7 of the die four on (R28). -/
def State.setHubLight (s : State) (fibre : Nat) (dark : Bool) : State :=
  (s.fs (R.DL_LINK_STATUS fibre 0) F.DL_LINK_STATUS_light_lo (b2n dark)).fs (R.DL_LINK_STATUS ((fibre + 4) % 8) 0) F.DL_LINK_STATUS_light_hi (b2n dark)

/-- R187, R205, R214: a hub link loses the light of its lanes from `lane` on: in service it takes what is left, and that is a failure of the first of them. -/
def State.hubRewidth (s : State) (d lane : Nat) : State :=
  if s.dieUp d && s.fg (R.DL_LINK_STATUS d 0) F.DL_LINK_STATUS_width ≠ 3 then (s.firstFailed (endKey d 0) lane).linkRewidth (endKey d 0) true else s.deadLink (endKey d 0)

/-- LIGHT_LINE_LOST (R310): the transmit lanes of the lines of a sample that fell fail; a fibre with no line left takes its ports down and halves two hub links. -/
def State.lightLost (s : State) (fibre lines : Nat) : State :=
  let old := s.fg (R.SP_LIGHT (2 * fibre)) F.SP_LIGHT_line_ok
  let m := maskOf (indices 16 (fun i => bit old i && !bit lines i))
  let t := s.setLight fibre m
  let up (p : Nat) : Bool := decide (2 ≤ s.spState p) && decide (s.spState p ≤ 11)
  if m ≠ 0 then [2 * fibre, 2 * fibre + 1].foldl (fun u p => if up p then (u.unlock p lines).lanesFail p (lines % 2 ^ 16) false else u) t
  else
    let u := [2 * fibre, 2 * fibre + 1].foldl (fun u p => if up p then (u.fs (R.SP_LANES p) F.SP_LANES_failed_here 0xFFFF).spDown p 2 else u) t
    ((u.setHubLight fibre true).hubRewidth fibre 0).hubRewidth ((fibre + 4) % 8) 64
/-- LIGHT_LINE_LOST. -/
def execLightLineLost (fibre lines : Nat) (s : State) : Answer :=
  occurs (fibre < 8 && (List.range 16).any (fun i => bit lines i && bit (s.fg (R.SP_LIGHT (2 * fibre)) F.SP_LIGHT_line_ok) i)) s (s.lightLost fibre lines)

/-- LIGHT_LINE_PRESENT (R310, R311): all 16 lines let a DARK port lock, one that its WIRING record still wants. -/
def State.lightPresent (s : State) (fibre line : Nat) : State :=
  let m := s.fg (R.SP_LIGHT (2 * fibre)) F.SP_LIGHT_line_ok ||| 2 ^ line
  let t := (s.setLight fibre m).setHubLight fibre false
  if m = 0xFFFF then [2 * fibre, 2 * fibre + 1].foldl (fun u p => if u.spState p = 1 then u.spStep1 p else u) t else t
/-- LIGHT_LINE_PRESENT. -/
def execLightLinePresent (fibre line : Nat) (s : State) : Answer :=
  occurs (fibre < 8 && line < 16 && !bit (s.fg (R.SP_LIGHT (2 * fibre)) F.SP_LIGHT_line_ok) line) s (s.lightPresent fibre line)

/-! ### Registers -/

/-- DL_RESTORE (R193). -/
def execDlRestore (port die : Nat) (s : State) : Answer := occurs (s.hostOn port && die < 8) s (s.fs (R.DL_CTL die) F.DL_CTL_restore 1)

/-- DL_CLEAR_COUNTS (R213). -/
def execDlClearCounts (port die : Nat) (s : State) : Answer :=
  occurs (s.hostOn port && die < 8) s (s.zeroRegs [R.DL_DROP_CNT die, R.HL_RETRY_CNT die, R.NLE_RETRY_CNT die, R.NLW_RETRY_CNT die])

/-- DL_TEST_FAIL (R213): in TEST, the lane named by test_link and test_lane is declared failed; other values do nothing. -/
def execDlTestFail (port die link lane : Nat) (s : State) : Answer :=
  let t := (s.fs (R.DL_CTL die) F.DL_CTL_test_link link).fs (R.DL_CTL die) F.DL_CTL_test_lane lane
  occurs (s.hostOn port && die < 8 && link < 4 && decide (lane < 2048) && s.inTest) s (if laneOk link lane && s.dieUp die then t.linkLaneFail (endKey die link) lane else t)

/-- CLK_CLEAR_LOW (R216). -/
def execClkClearLow (port die : Nat) (s : State) : Answer := occurs (s.hostOn port && die < 8) s (s.fs (R.CLK_ACLK die) F.CLK_ACLK_low 0x7FF)

end Machine
end Sys2Proof
end

