-- ==== Sys2Proof/Machine/KpuBase.lean ====
section
/-!
DEFINITION. The parts of keeping state (chapter 13) that other units call: the keeping table (R412, R413), KEEP packets (R439), the input journal
(R424-R426), seals and streaming (R423), and deltas of erasure tensors (R435, R436).
-/
namespace Sys2Proof

/-- The bytes of a schedule record, whose layout the spec does not give (R420; assumption log 41). -/
opaque Config.recordBytes : Machine.SchedRec → Bytes

/-- The schedule record that bytes hold (assumption log 41). -/
opaque Config.recordOf : Bytes → Machine.SchedRec

namespace Machine

namespace KKind
/-- R439. -/
@[reducible] def pair := 0x01
@[reducible] def pairReply := 0x02
@[reducible] def page := 0x03
@[reducible] def record := 0x04
@[reducible] def sealKind := 0x05
@[reducible] def journal := 0x06
@[reducible] def delta := 0x07
@[reducible] def fetch := 0x08
@[reducible] def rebuild := 0x09
@[reducible] def resync := 0x0A
end KKind

/-! ### The keeping table -/

/-- A field of the keeping head (R412). -/
def keepAt (c : List Rec) (off n : Nat) : Nat := recField c RT.keeping 0 off n
/-- R412: the keeping head is there. -/
def hasKeep (c : List Rec) : Bool := (findRec c RT.keeping 0).isSome
/-- The partner, 0xFFFF none. -/
def keepPartner (c : List Rec) : Nat := if hasKeep c then keepAt c 0 2 else 0xFFFF
/-- The ward, 0xFFFF none. -/
def keepWard (c : List Rec) : Nat := if hasKeep c then keepAt c 2 2 else 0xFFFF
/-- G. -/
def keepG (c : List Rec) : Nat := keepAt c 5 1
/-- k = G - 2. -/
def keepK (c : List Rec) : Nat := keepG c - 2
/-- This module's position. -/
def keepPos (c : List Rec) : Nat := keepAt c 6 1
/-- The group's spare. -/
def keepSpare (c : List Rec) : Nat := keepAt c 12 2
/-- The device at a position. -/
def keepMember (c : List Rec) (i : Nat) : Nat := keepAt c (16 + 2 * i) 2
/-- The tensors of a class, in ascending entry id. -/
def keepTensors (c : List Rec) (cls : Nat) : List Rec := (recsOf c RT.keeping).filter (fun r => r.id ≠ 0 && r.at 0 1 = cls)
/-- R432: the bytes of the Muslin set. -/
def muslinSize (c : List Rec) : Nat := ((keepTensors c 1).map (fun r => r.at 16 8)).sum
/-- R421: R_max. -/
def recArea (c : List Rec) : Nat :=
  64 * 2 ^ 20 + ((recsOf c RT.group).map (fun r => r.at 14 2)).sum * 2 ^ 20
  + 1024 * (((recsOf c RT.signal).filter (fun r => r.id < 64)).map (fun r => r.at 4 2)).sum
/-- R426: the journal ring, the KPU's hub share less the two record buffers. -/
def journalRing (c : List Rec) : Nat := recField c RT.memplan 0 68 2 * 2 ^ 20 - 2 * recArea c
/-- R181: base and length of sub-area 0 MUSLIN, 1 JOURNAL, 2 PARITY, 3 DUMP. -/
def subArea (c : List Rec) (i : Nat) : Nat × Nat := (recField c RT.memplan 0 (16 * i) 8, recField c RT.memplan 0 (16 * i + 8) 8)
/-- R169: the keep domain. -/
def State.keepDom (s : State) : Option Nat := (List.range 16).find? (fun i => s.fg (R.FMC_DOM_CFG i) F.FMC_DOM_CFG_kind = 2 && s.fg (R.FMC_DOM_CFG i) F.FMC_DOM_CFG_valid = 1)

/-- R262: far requests of at most 256 bytes of an activity are charged one by one while its counter is above zero: the units of 64 bytes that are left; `fuel` bounds
the requests. -/
def State.payFar : Nat → State → Nat → Nat → Nat → Nat × State
  | 0, s, _, _, n => (n, s)
  | fuel + 1, s, a, d, n => if n = 0 || !s.covers a 3 d 1 then (n, s) else State.payFar fuel (s.charge a 3 d (min 4 n)) a d (n - min 4 n)

/-- R262, R263: what the KPU and the ERU have used and a gate has held so far is charged as far as the counters allow. -/
def State.payDebts (s : State) : State :=
  s.bud.debt.foldl (fun (t : State) e =>
    let r := t.payFar e.2.2 e.1 e.2.1 e.2.2
    if r.1 = 0 then r.2 else { r.2 with bud := { r.2.bud with debt := r.2.bud.debt ++ [(e.1, e.2.1, r.1)] } }) { s with bud := { s.bud with debt := [] } }

/-- R258, R262, R439: `n` units of far bytes of a domain are charged to an activity: as its counter allows, or at once where no gate holds them. The requests of one transfer
are charged in turn, and its effect is seen at the first of them (DESIGN CHOICE; assumption log 146). -/
def State.keepCharge (s : State) (gated : Bool) (a d n : Nat) : State :=
  if gated then State.payDebts { s with bud := { s.bud with debt := s.bud.debt ++ [(a, d, n)] } } else s.take a 3 d n

/-- R263: a transfer of an activity to a domain is not held: its counter is above zero and nothing waits before it. -/
def State.farClear (s : State) (a d : Nat) : Bool := s.covers a 3 d 1 && !s.bud.debt.any (fun e => e.1 = a && e.2.1 = d)

/-- Reads a sub-area of the keep area, charged to an activity (R258), which rises to the hub (R26): bytes, the state after, whether a byte could not be read (R156). -/
def State.keepRead (s : State) (gated : Bool) (act area off n : Nat) : Bytes × State × Bool := match s.keepDom with
  | some d =>
    let o := (subArea s.img.cfg area).1 + off
    let r := s.farRead d o n
    (r.1, (r.2.1.keepCharge gated act d (cdiv n 64)).unitMoves (s.farPorts d o n) true, r.2.2)
  | none => (zeros n, s, false)
/-- Writes a sub-area of the keep area, charged to an activity (R258), to which it falls from the hub (R26); bytes that could not be read where they came from are written as
poison (R156). -/
def State.keepWrite (s : State) (gated : Bool) (act area off : Nat) (b : Bytes) (poison : Bool) : State := match s.keepDom with
  | some d =>
    let o := (subArea s.img.cfg area).1 + off
    let t := ((s.farWrite d o b).keepCharge gated act d (cdiv b.length 64)).unitMoves (s.farPorts d o b.length) false
    if poison then t.farPoison d o b.length else t
  | none => s

/-- Reads bytes of a tensor's unit (R413: space 0 far, 1 bonded, 2 SRAM), far bytes charged to an activity (R258): bytes, the state after, whether a byte could not be read. -/
def State.unitRead (s : State) (gated : Bool) (act space unit off n : Nat) : Bytes × State × Bool :=
  if space = 0 then (let r := s.farRead unit off n; (r.1, r.2.1.keepCharge gated act unit (cdiv n 64), r.2.2)) else if space = 1 then s.bondRead unit off n else s.sramRead unit off n
/-- Writes bytes of a tensor's unit, as poison where they could not be read. -/
def State.unitWrite (s : State) (space unit off : Nat) (b : Bytes) (poison : Bool) : State :=
  if space = 0 then (let t := s.farWrite unit off b; if poison then t.farPoison unit off b.length else t)
  else if space = 1 then (let t := s.bondWrite unit off b; if poison then t.bondPoison unit off b.length else t)
  else (let t := s.sramWrite unit off b; if poison then t.sramPoison unit off b.length else t)

/-! ### KEEP packets -/

/-- The header of a KEEP packet with its data. A kind without data carries one zero byte (assumption log 40). -/
def State.keepPacket (s : State) (o : KeepOut) (poison : Bool) (data : Bytes) : Packet :=
  let d := if data.isEmpty then [0] else data
  ⟨o.dest, s.device, 4, 8, s.epoch, b2n (o.chan = 0xF3), o.flagged, poison, false, o.chan, 0, FOp.keep, o.act, 0xFFFF, d.length - 1, 0, 0,
    o.kind * 2 ^ 56 + o.off % 2 ^ 56, d, []⟩

/-- R347, R352, R263, R190, R448: a KEEP packet can be issued: its stream and the KPU's pair table have room, the unit that its data comes from is neither gated nor cut off, a
HELD module copies no journal, and RESYNC finds a way. -/
def State.keepCan (s : State) (o : KeepOut) : Bool :=
  !s.streamHeld 4 o.dest o.chan o.flagged && s.pairRoom 32 (pairKey 32 o.dest o.chan) && !(o.chan = 0xF0 && s.heldNow)
  && (match o.src with
    | some x => s.unitLinks (s.unitPorts x.1 x.2.1 x.2.2 4096) true && (o.chan = 0xF3 || x.1 ≠ 0 || s.farClear o.act x.2.1)
    | none => true)
  && (o.kind ≠ KKind.resync || s.route (s.keepPacket o false []) .unit ≠ .refuse)

/-- R439: a KEEP packet is issued, counted in the KPU's pair table; a page is read from its staging copy and rises to the hub. Its poison bit says that its data could not be
read. -/
def State.keepGo (s : State) (o : KeepOut) : State := match o.src with
  | some x =>
    let r := s.unitRead (o.chan ≠ 0xF3) o.act x.1 x.2.1 x.2.2 4096
    ((r.2.1.unitMoves (s.unitPorts x.1 x.2.1 x.2.2 4096) true).count R.KPU_CNT_PAGES).sendAcked (s.keepPacket o r.2.2 r.1) 32 0
  | none => s.sendAcked (s.keepPacket o o.poison o.data) 32 0

/-- R347, R439: KEEP packets leave in order on each channel to a device, those that can. Without the keep key none leaves, and only a RESYNC waits for it. -/
def State.keepPump (s : State) : State :=
  let all := if (s.keyOf 0xFFFF).isSome then s.kpu.out else s.kpu.out.filter (fun o => o.kind = KKind.resync)
  let r := all.foldl (fun (acc : State × List KeepOut) o =>
    if (s.keyOf 0xFFFF).isNone || acc.2.any (fun x => x.dest = o.dest && x.chan = o.chan) || !acc.1.keepCan o then (acc.1, acc.2 ++ [o]) else (acc.1.keepGo o, acc.2)) (s, [])
  { r.1 with kpu := { r.1.kpu with out := r.2 } }

/-- KEEP packets to be issued, in order. -/
def State.keepQueue (s : State) (os : List KeepOut) : State := State.keepPump { s with kpu := { s.kpu with out := s.kpu.out ++ os } }

/-- R439: one KEEP packet to a device; its poison bit says that its data could not be read. -/
def State.sendKeepAs (s : State) (dest kind off chan act : Nat) (flagged poison : Bool) (data : Bytes) : State := s.keepQueue [⟨dest, kind, off, chan, act, flagged, poison, data, none⟩]

/-- R439: one KEEP packet with good data. -/
def State.sendKeep (s : State) (dest kind off chan act : Nat) (flagged : Bool) (data : Bytes) : State := s.sendKeepAs dest kind off chan act flagged false data

/-- Bytes as KEEP packets of at most 4,096, at rising offsets. -/
def keepPieces (dest kind off chan act : Nat) (poison : Bool) (b : Bytes) : List KeepOut :=
  ((chunks 4096 b).zipIdx).map (fun p => ⟨dest, kind, off + 4096 * p.2, chan, act, false, poison, p.1, none⟩)

/-- Bytes in KEEP packets of at most 4,096, at rising offsets. -/
def State.sendPieces (s : State) (dest kind off chan act : Nat) (poison : Bool) (b : Bytes) : State := s.keepQueue (keepPieces dest kind off chan act poison b)

/-- KPU_STATUS.pair_state. -/
def State.pairState (s : State) : Nat := s.fg R.KPU_STATUS F.KPU_STATUS_pair_state
/-- Sets KPU_STATUS.pair_state. -/
def State.setPair (s : State) (n : Nat) : State := s.fs R.KPU_STATUS F.KPU_STATUS_pair_state n
/-- The module is paired with its partner. -/
def State.paired (s : State) : Bool := s.pairState = 2

/-! ### The journal -/

/-- Bytes of the journal kept. -/
def State.jUsed (s : State) : Nat := match s.kpu.journal with
  | e :: _ => s.kpu.jend - e.pos
  | [] => 0

/-- R454: bytes of the journal kept that the partner has acknowledged. -/
def State.jAcked (s : State) : Nat := match s.kpu.journal with
  | e :: _ => ((s.kpu.jacked.filter (fun a => decide (e.pos ≤ a.1))).map (fun a => a.2)).sum
  | [] => 0

/-- R426, R454: the journal's registers, and journal_full once no entry of one word fits. Room again raises the credit of its ports (R299). -/
def State.showJnl (s : State) : State :=
  let u := s.jUsed
  let f := journalRing s.img.cfg ≠ 0 && decide (journalRing s.img.cfg < u + 16)
  let t := (s.fs R.KPU_JNL_STATUS F.KPU_JNL_STATUS_used (u / 1024)).fs R.KPU_JNL_STATUS F.KPU_JNL_STATUS_lag ((u - s.jAcked) / 1024)
  let v : State := { t with kpu := { t.kpu with full := f } }
  if f && !s.kpu.full then v.raise R.KPU_STATUS F.KPU_STATUS_journal_full else if s.kpu.full && !f then s.streamNotify v else v

/-- R425: the bytes of an entry. -/
def JEntry.bytes (e : JEntry) : Bytes :=
  leBytes 8 (e.kind + e.port * 2 ^ 4 + (if e.kind = 1 then e.body.length / 8 else 0) * 2 ^ 16 + e.boundary % 2 ^ 32 * 2 ^ 32) ++ e.body

/-- R424-R426: an entry is written, and copied to the partner where there is one. A configuration that gives the KPU no room for a ring journals nothing (DEDUCED; assumption
log 92), and a member that replays its own journal holds its entries already (R427). -/
def State.journal (s : State) (kind port act : Nat) (body : Bytes) : State :=
  if journalRing s.img.cfg = 0 || (s.fb R.KPU_STATUS F.KPU_STATUS_replaying && s.kpu.ripen.isNone) then s
  else
    let e : JEntry := ⟨s.kpu.jend, kind, port, s.boundaryNo, body, act⟩
    let b := e.bytes
    let t : State := { s with kpu := { s.kpu with journal := s.kpu.journal ++ [e], jend := s.kpu.jend + b.length } }
    let t := t.pmc 59 0x0C1 (if kind = 1 then body.length / 8 else 0) ⟨some 0x31, some 1, some act, none, none⟩
    let u := if s.paired then t.sendPieces (keepPartner s.img.cfg) KKind.journal e.pos 0xF0 act false b else t
    u.showJnl

/-- R426: entries before the older of the two latest sealed snapshots are released. -/
def State.journalTrim (s : State) : State :=
  match s.kpu.marks with
  | _ :: old :: _ => ({ s with kpu := { s.kpu with journal := s.kpu.journal.filter (fun e => decide (old ≤ e.pos)), jacked := s.kpu.jacked.filter (fun a => decide (old ≤ a.1)) } }).showJnl
  | _ => s

/-! ### Seals -/

/-- R420: the bytes of a schedule record, at most R_max of them (R421). -/
def SchedRec.bytes (r : SchedRec) (c : List Rec) : Bytes := (Config.recordBytes r).take (recArea c)

/-- R425: the position of a snapshot's mark in the journal. -/
def State.markOf (s : State) (n : Nat) : Option Nat := (s.kpu.journal.reverse.find? (fun e => e.kind = 4 && fieldAt e.body 0 4 = n % 2 ^ 32)).map (fun e => e.pos)

/-- R423: a snapshot is sealed, here or at the partner. -/
def State.sealed (s : State) (n : Nat) (here : Bool) : State :=
  let t := ((s.fs R.KPU_SEAL F.KPU_SEAL_sealed_prev (s.fg R.KPU_SEAL F.KPU_SEAL_sealed)).fs R.KPU_SEAL F.KPU_SEAL_sealed n).fs R.KPU_STATUS F.KPU_STATUS_local_seal (b2n here)
  State.journalTrim { t with kpu := { t.kpu with streaming := none, held := if here then t.kpu.held else (n :: t.kpu.held).take 2,
                                                 marks := ((s.markOf n).toList ++ t.kpu.marks).take 2 } }

/-- The tensor pages whose write epoch reaches a version: entry and page (R418, R423); every page where no version is given. -/
def State.pagesSince (s : State) (v : Option Nat) : List (Rec × Nat) :=
  (keepTensors s.img.cfg 1).flatMap (fun r => (List.range (r.at 16 8 / 4096)).filterMap (fun p =>
    match v with
    | none => some (r, p)
    | some n => if n + 1 ≤ tgetD s.kpu.epochs (r.id * 2 ^ 24 + p) 0 then some (r, p) else none))

/-- R432: a tensor's first byte in the Muslin set. -/
def muslinOff (c : List Rec) (id : Nat) : Nat := (((keepTensors c 1).filter (fun r => r.id < id)).map (fun r => r.at 16 8)).sum

/-- R423, R432: snapshot `n` streams to the partner: pages, record, SEAL. A partner that holds less than two versions gets every page (assumption log 80). -/
def State.streamSnapshot (s : State) (n : Nat) (all : Bool) : State :=
  let dest := keepPartner s.img.cfg
  let since := if all then none else match s.kpu.held with
    | [_, v] => some v
    | _ => none
  let pages := (s.pagesSince since).map (fun p : Rec × Nat =>
    (⟨dest, KKind.page, muslinOff s.img.cfg p.1.id + 4096 * p.2, 0xF1, p.1.at 3 1, false, false, [], some (p.1.at 1 1, p.1.at 2 1, p.1.at 24 8 + 4096 * p.2)⟩ : KeepOut))
  let b := match s.kpu.recs with
    | r :: _ => r.bytes s.img.cfg
    | [] => []
  State.keepQueue { s with kpu := { s.kpu with streaming := some n } }
    (pages ++ keepPieces dest KKind.record 0 0xF1 0 false b ++ [⟨dest, KKind.sealKind, 0, 0xF1, 0, true, false, leBytes 4 n ++ leBytes 4 b.length, none⟩])

/-- The pairs of the KPU with a device are cleared (R354), so that it can be tried again. -/
def State.clearKeepPairs (s : State) (dev : Nat) : State := s.clearPairs (fun k => k / 2 ^ 20 = 32 && k % 2 ^ 20 / 256 = dev)

/-- R433: the partner is lost; a snapshot still streaming is sealed here (R423). -/
def State.partnerLost (s : State) : State :=
  let s0 : State := { s with kpu := { s.kpu with lostAt := none } }
  if s.pairState ≠ 1 && s.pairState ≠ 2 then s0
  else
    let t := (s0.setPair 4).clearKeepPairs (keepPartner s.img.cfg)
    let u : State := { t with kpu := { t.kpu with held := [], jacked := [], pairAt := t.now + 1000000000, out := t.kpu.out.filter (fun o => o.dest ≠ keepPartner s.img.cfg) } }
    match s.kpu.streaming with
    | some n => u.sealed n true
    | none => u

/-- R448: a partner that does not answer is lost once the wait of R369 is over, told by this module's own lease and one step period (assumption log 81). -/
def State.partnerSilent (s : State) : State := match s.kpu.lostAt with
  | some _ => s
  | none => { s with kpu := { s.kpu with lostAt := some ((s.rd R.FJ_LEASE).toNat + stepPeriod s.img.cfg) } }

/-- R448: at a boundary past the wait, a silent partner is lost. -/
def State.partnerWait (s : State) : State := match s.kpu.lostAt with
  | some t => if t ≤ s.rack then s.partnerLost else s
  | none => s

/-- R446, R447: a ripening that cannot be completed is logged and reported; the spare stays RIPENING. -/
def State.ripenFails (s : State) (code : Nat) : State := match s.kpu.ripen with
  | some r => if s.fg R.KPU_STATUS F.KPU_STATUS_spare_state = 1 then (s.log Code.ripening 2 0 (leBytes 2 r.lost ++ leBytes 1 code)).emit (.report Code.ripening (leBytes 2 r.lost ++ leBytes 1 code)) else s
  | none => s

/-- R446: a member's return to a snapshot that cannot be completed is logged and reported, and given up. -/
def State.recoverFails (s : State) (code : Nat) : State := match s.kpu.recover with
  | some r =>
    let d := leBytes 4 r.target ++ leBytes 1 code
    State.emit (State.log { s with kpu := { s.kpu with recover := none } } Code.ripening 2 0 d) (.report Code.ripening d)
  | none => s

/-- R438, R447: the positions of the erasure group that are lost, as this module knows them; a ripening spare takes one of them. -/
def State.lostSet (s : State) : List Nat := (s.eru.lost ++ (match s.kpu.ripen with
  | some r => if s.fg R.KPU_STATUS F.KPU_STATUS_spare_state = 1 then [r.pos] else []
  | none => [])).eraseDups

/-- R447: a third loss in the erasure group. -/
def State.thirdLoss (s : State) : Bool := decide (3 ≤ s.lostSet.length)

/-- R438: the surviving positions of the group beside a given one, in ascending order. -/
def State.survivors (s : State) (pos : Nat) : List Nat := (List.range (keepG s.img.cfg)).filter (fun i => i ≠ pos && !s.lostSet.contains i)

/-- R438, R443: every survivor is asked for the chain of each stripe, the first one, which starts it, last (DESIGN CHOICE; assumption log 49). -/
def State.askUnits (s : State) (pos : Nat) (l : List Nat) : State :=
  s.keepQueue (l.flatMap (fun x => (s.survivors pos).reverse.map (fun i =>
    (⟨keepMember s.img.cfg i, KKind.fetch, x * 4096, 0xF3, 0, false, false, leBytes 8 4096 ++ leBytes 1 2 ++ zeros 7, none⟩ : KeepOut))))

/-- R443, R446: after another loss a ripening spare asks again for the units it still lacks. -/
def State.askAgain (s : State) : State := match s.kpu.ripen with
  | some r => if s.fg R.KPU_STATUS F.KPU_STATUS_spare_state = 1 then s.askUnits r.pos ((r.want.filter (fun w => w.1 = 2)).map (fun w => w.2)) else s
  | none => s

/-- R447, R455: a member of the erasure group is lost; a third loss is logged and reported to the fabric manager. -/
def State.memberLost (s : State) (dev : Nat) : State :=
  let c := s.img.cfg
  match (List.range (keepG c)).find? (fun i => keepMember c i = dev) with
  | none => s
  | some i =>
    if !s.eruPresent || i = keepPos c then s
    else
      let t := State.fs { s with eru := { s.eru with lost := (s.eru.lost ++ [i]).eraseDups } } R.ERU_STATUS F.ERU_STATUS_degraded 1
      if t.thirdLoss && !s.thirdLoss then
        let d := (t.lostSet.map (fun j => BitVec.ofNat 8 j))
        (t.log Code.ripening 2 0 d).emit (.report Code.ripening d)
      else (t.clearKeepPairs dev).askAgain

/-- R433, R447, R448: a device that does not answer the KPU any more: the partner, the ward, or a member of the erasure group. -/
def State.keepPeerLost (s : State) (dev : Nat) : State :=
  let t := if dev = keepPartner s.img.cfg then (s.partnerSilent.ripenFails Code.targetDead).recoverFails Code.targetDead else s
  let u := match t.kpu.ward with
    | some w => if w.dev = dev then (t.raise R.KPU_STATUS F.KPU_STATUS_ward_lost).fs R.KPU_STATUS F.KPU_STATUS_ward_paired 0 else t
    | none => t
  u.memberLost dev

/-- R350, R447, R448: a KEEP packet that is refused: its device is dead, unless it refused itself; ripening fails; or the partner no longer keeps this module's copies. -/
def State.keepNacked (s : State) (e : Sent) (code : Nat) (itself : Bool) : State :=
  let t := if e.pkt.chan = 0xF3 then (s.ripenFails code).recoverFails code else s
  if code = Code.targetDead && !itself then t.keepPeerLost e.pkt.dest
  else if e.pkt.chan ≠ 0xF3 && e.pkt.dest = keepPartner s.img.cfg then t.partnerLost else t

/-- R430: the request that pairs this module with its partner. -/
def State.sendPair (s : State) : State :=
  let c := s.img.cfg
  if keepPartner c = 0xFFFF || s.kpu.out.any (fun o => o.kind = KKind.pair) then s
  else
    let d := s.fuses.serial ++ leBytes 1 (s.fg R.PIN_STRAPS F.PIN_STRAPS_feed_id) ++ leBytes 1 (keepAt c 4 1) ++ zeros 6
      ++ leBytes 8 (muslinSize c) ++ leBytes 8 (recArea c) ++ leBytes 8 (journalRing c)
    State.sendKeep { (s.setPair 1) with kpu := { s.kpu with pairAt := s.now + 1000000000 } } (keepPartner c) KKind.pair 0 0xF1 0 false d

/-- R433, R449, R453: the copies held for the ward are lost, and the ward, which is PAIRING then, is told. -/
def State.sendResync (s : State) : State :=
  match s.kpu.ward with
  | none => s
  | some w => (State.fs { s with kpu := { s.kpu with ward := some { w with sealed := [], jfrom := 0, jend := 0 } } } R.KPU_STATUS F.KPU_STATUS_ward_paired 0).sendKeep w.dev KKind.resync 0 0xF1 0 false []

/-- Pieces with offsets put together from an offset on, up to the first gap; `fuel` bounds their number. -/
def joinPieces : Nat → List (Nat × Bytes) → Nat → Bytes
  | 0, _, _ => []
  | fuel + 1, l, off => match l.find? (fun p => p.1 = off && !p.2.isEmpty) with
    | some p => p.2 ++ joinPieces fuel l (off + p.2.length)
    | none => []

/-- The record that has arrived at a spare. -/
def Ripen.recordBytes (r : Ripen) : Bytes := joinPieces r.record.length r.record 0
/-- The journal that has arrived at a spare, from the mark of its target on. -/
def Ripen.journalBytes (r : Ripen) : Bytes := joinPieces r.journal.length r.journal (Config.recordOf r.recordBytes).jpos

/-! ### Deltas -/

/-- R435: a tensor's first byte in the shard. -/
def shardOff (c : List Rec) (id : Nat) : Nat := (((keepTensors c 2).filter (fun r => r.id < id)).map (fun r => cdiv (r.at 16 8) 4096 * 4096)).sum

/-- R435: the stripe of data unit `u` of position `m`, and its index in the stripe. -/
def unitStripe (g m u : Nat) : Nat × Nat :=
  let k := g - 2
  let j := u % k
  (u / k * g + (m + 2 * g - j - 2) % g, j)

/-- R443, R449: the parity units of this position are rebuilt by chains that it asks the other members for. -/
def State.parityResync (s : State) : State :=
  let c := s.img.cfg
  let g := keepG c
  let pos := keepPos c
  let l := (List.range (cdiv (keepAt c 8 4) (keepK c))).flatMap (fun b => [b * g + pos, b * g + (pos + g - 1) % g])
  let t := State.fs { s with eru := { s.eru with rebuild := l.map (fun x => (x, pos)) } } R.ERU_STATUS F.ERU_STATUS_parity_resync 1
  t.askUnits pos l

/-- Cuts a range of the shard into pieces that lie in one unit: unit, first byte in it, bytes. -/
def unitPieces : Nat → Nat → Bytes → List (Nat × Nat × Bytes)
  | 0, _, _ => []
  | fuel + 1, off, b =>
    if b.isEmpty then [] else
    let n := 4096 - off % 4096
    (off / 4096, off % 4096, b.take n) :: unitPieces fuel (off + n) (b.drop n)

/-- R436: the deltas of what was just written leave for the two parity holders of their stripes, charged to the tensor's activity; the write is
charged once more to its writer. -/
def State.eruFlush (s : State) (writer : Nat) : State :=
  let c := s.img.cfg
  let g := keepG c
  let t : State := { s with eru := { s.eru with out := [] } }
  s.eru.out.foldl (fun (u : State) d =>
    match findRec c RT.keeping d.src with
    | none => u
    | some r =>
      let v := (u.keepCharge true writer (r.at 2 1) (cdiv d.bytes.length 64)).unitMoves (s.farPorts (r.at 2 1) (r.at 8 8 + d.first) d.bytes.length) true
      v.keepQueue ((unitPieces (d.bytes.length + 1) (shardOff c d.src + d.first) d.bytes).flatMap (fun p =>
        let st := unitStripe g (keepPos c) p.1
        [st.1 % g, (st.1 + 1) % g].map (fun i => (⟨keepMember c i, KKind.delta, st.1 * 4096 + p.2.1, 0xF2, r.at 3 1, false, false, p.2.2, none⟩ : KeepOut))))) t

/-- R437: deltas of this module wait, for the holders' logs, for a budget or for the KPU's pair table. -/
def State.deltasWait (s : State) : Bool := s.kpu.out.any (fun o => o.kind = KKind.delta) || s.fj.xq.any (fun h => h.pkt.op = FOp.keep && h.pkt.chan = 0xF2 && !h.pkt.transit)

/-- R437: a write of `n` bytes of a domain into an ERASURE tensor is held while deltas wait. -/
def State.erasureHeld (s : State) (d off n : Nat) : Bool :=
  s.deltasWait && (keepTensors s.img.cfg 2).any (fun r => r.at 2 1 = d && decide (off < r.at 8 8 + r.at 16 8) && decide (r.at 8 8 < off + n))

end Machine
end Sys2Proof
end

