-- ==== Sys2Proof/Machine/Streams.lean ====
section
/-!
DEFINITION. The commands of stream ports (R286-R290, R299-R301), and the judging and delivery of input words (R287, R424, R478).
-/
namespace Sys2Proof
namespace Machine

/-- R512: what an event of a host port carries. -/
def hostAttr (host : Nat) (act : Option Nat) : PmcAttr := ⟨some (0x35 + host), some 1, act, none, none⟩

/-- STREAM_WRITE (R286): a TLP's words are appended whole within the credit, or the TLP is dropped and counted. -/
def State.streamWrite (s : State) (host port offset : Nat) (aligned : Bool) (words : List Word) : State :=
  match streamCfg s.img.cfg port with
  | none => (s.streamDrop port).pmc (102 + host) 0x141 1 (hostAttr host none)
  | some c =>
    if !aligned || c.output || !bit c.hosts host || decide (s.streamCredit port c < words.length) then (s.streamDrop port).pmc (102 + host) 0x141 1 (hostAttr host (some c.act))
    else (s.setStaging port (s.staging port ++ (words.zipIdx).map (fun p => (p.1, decide (offset = 0 && p.2 = 0))))).pmc (102 + host) 0x140 words.length (hostAttr host (some c.act))

/-- STREAM_WRITE. -/
def execStreamWrite (host port offset : Nat) (aligned : Bool) (words : List Word) (s : State) : Answer :=
  occurs (host < 2 && s.hostUp host && port < 4096 && offset < 2 ^ 16 && !words.isEmpty) s (s.streamWrite host port offset aligned words)

/-- R424-R426: the journal takes a word of an activity other than 0. -/
def State.journalWord (s : State) (n : Nat) (c : StreamCfg) (w : Word) : State := if c.act = 0 then s else s.journal 1 n c.act (leBytes 8 w.toNat)

/-- R26, R195: the quarter-port by which the next word of an input port goes down to its die, and whether it begins a link flit of 256 bytes; words share a
flit (DESIGN CHOICE; assumption log 139). A word for a package-wide domain takes the port of its granule, another one that of its stream port. -/
def State.wordPort (s : State) (n : Nat) (c : StreamCfg) : Option (Nat × Bool) :=
  if c.kind = 0 then some (4 * (c.dest / 64) + n % 4, (s.ring c.dest).pos % 256 = 0)
  else if c.kind = 1 then
    let off := c.farBase + (s.farRing n).fill * c.farSlot + (s.farRing n).pos
    let q := if s.fg (R.FMC_DOM_CFG (c.dest % 16)) F.FMC_DOM_CFG_kind = 0 then n % 4 else off / 256 % 4
    some (4 * ((s.domMap (c.dest % 16) off).1 / 3) + q, off % 256 = 0 || (s.farRing n).pos = 0)
  else none

/-- R190, R200: the die of the next word of an input port is in service and its hub link takes it. -/
def State.wordFalls (s : State) (n : Nat) (c : StreamCfg) : Bool := match s.wordPort n c with
  | some x => s.falls x.1 (b2n x.2)
  | none => true

/-- The next word of an input port goes down to its die. -/
def State.wordFall (s : State) (n : Nat) (c : StreamCfg) : State := match s.wordPort n c with
  | some x => s.fall x.1 (b2n x.2)
  | none => s

/-- R287: the destination of an input port has room for one word. -/
def State.destRoom (s : State) (n : Nat) (c : StreamCfg) : Bool :=
  s.wordFalls n c && (if c.kind = 0 then s.ringFree c.dest
  else if c.kind = 1 then decide (0 < s.farFree n c.farSlots) && ((s.farRing n).pos % 64 ≠ 0 || s.covers c.act 3 (c.dest % 16) 1)
  else if c.kind = 3 then decide ((tgetD s.host.sguIn n []).length < 41)
  else true)

/-- One word into an SRAM ring (R143). -/
def State.ringWord (s : State) (id : Nat) (w : Word) : State :=
  match ringCfg s.img.cfg id with
  | none => s
  | some r =>
    let x := s.ring id
    let t := s.sramWrite (id / 16) (r.base + x.fill * r.size + x.pos) (leBytes 8 w.toNat)
    if x.pos + 8 = r.size then t.ringFill id
    else { t with seq := { t.seq with ring := tset t.seq.ring id { x with pos := x.pos + 8 } } }

/-- One word into a far ring (R285), charged a far request for each 64 bytes; a completed slot adds 1 to the fill counter. -/
def State.farWord (s : State) (n : Nat) (c : StreamCfg) (w : Word) : State :=
  let x := s.farRing n
  let t := if x.pos % 64 = 0 then s.charge c.act 3 (c.dest % 16) 1 else s
  let u := (t.farWrite (c.dest % 16) (c.farBase + x.fill * c.farSlot + x.pos) (leBytes 8 w.toNat)).eruFlush c.act
  if x.pos + 8 = c.farSlot then
    ({ u with host := { u.host with farRing := tset u.host.farRing n { x with fill := (x.fill + 1) % c.farSlots, pos := 0 },
                                    farFree := tset u.host.farFree n (u.farFree n c.farSlots - 1) } }).cntBump c.farCore c.farCnt 1
  else { u with host := { u.host with farRing := tset u.host.farRing n { x with pos := x.pos + 8 } } }

/-- R284, R287: one word reaches its destination, and the journal. -/
def State.deliverWord (s : State) (n : Nat) (c : StreamCfg) (w : Word) : State :=
  let t := (s.journalWord n c w).wordFall n c
  if c.kind = 0 then t.ringWord c.dest w
  else if c.kind = 1 then t.farWord n c w
  else if c.kind = 3 then { t with host := { t.host with sguIn := tset t.host.sguIn n (tgetD t.host.sguIn n [] ++ [w]) } }
  else t

/-- Changes a channel. -/
def State.modChan (s : State) (c : Nat) (f : Chan → Chan) : State := { s with rind := { s.rind with chans := match tget s.rind.chans c with
  | some x => tset s.rind.chans c (f x)
  | none => s.rind.chans } }

/-- R478: what stands at the exit from staging of a port with a secure channel: words discarded in resync, or a complete record judged. None while a
record is not complete. -/
def State.judgeRecord (s : State) (n : Nat) (c : StreamCfg) (k : Chan) : Option State :=
  let l := s.staging n
  if k.resync then
    match l with
    | [] => none
    | (_, true) :: _ => some ((s.modChan c.channel (fun x => { x with resync := false })).count R.RIND_CNT_RESYNC)
    | (_, false) :: r => some (s.setStaging n r)
  else
    let head := bytesOf ((l.take 2).map (fun (p : Word × Bool) => p.1))
    let words := fieldAt head 4 4
    let no := fieldAt head 8 8
    let bad (drop : Nat) : State := ((s.setStaging n (l.drop drop)).count R.RIND_CNT_REC_BAD).modChan c.channel (fun x => { x with resync := true })
    if l.length < 2 then none
    else if words = 0 || 1024 < words then some (bad 2)
    else if l.length < words + 4 then none
    else
      let rec_ := bytesOf ((l.take (words + 4)).map (fun (p : Word × Bool) => p.1))
      if no < k.inNo then some ((s.setStaging n (l.drop (words + 4))).count R.RIND_CNT_REC_DUP)
      else match gcmOpen k.kin (k.sin ++ leBytes 8 no) (head ++ leBytes 2 n) (slice rec_ 16 (8 * words)) (slice rec_ (16 + 8 * words) 16) with
        | some pt =>
          if k.inNo < no || fieldAt head 0 2 ≠ c.channel then some (bad (words + 4))
          else some (((s.setStaging n (l.drop (words + 4))).setPlain n (s.plain n ++ wordsOf pt)).modChan c.channel (fun x => { x with inNo := x.inNo + 1 }))
        | none => some (bad (words + 4))

/-- R427: in a replay, the next journal entry delivers a word of its port as if it had just been accepted. -/
def State.deliverReplay (s : State) (n : Nat) (c : StreamCfg) : Option State := match s.kpu.replay with
  | some (e :: r) =>
    if e.kind = 1 && e.port = n && s.destRoom n c && !(c.act ≠ 0 && s.kpu.full) then
      match wordsOf e.body with
      | [] => none
      | w :: ws =>
        let left := if ws.isEmpty then r else { e with body := bytesOf ws } :: r
        some (State.deliverWord { s with kpu := { s.kpu with replay := some left } } n c w)
    else none
  | _ => none

/-- STREAM_WORD_DELIVER (R287, R424, R427, R478): one step of the words of a port: a word delivered, or a record judged; nothing moves during a snapshot pause,
or with the journal full; in a replay words come from the journal. -/
def State.deliver (s : State) (n : Nat) : Option State :=
  match streamCfg s.img.cfg n with
  | none => none
  | some c =>
    if c.output || s.inSnapshot then none
    else if s.fb R.KPU_STATUS F.KPU_STATUS_replaying then s.deliverReplay n c
    else
      let room := s.destRoom n c && !(c.act ≠ 0 && s.kpu.full)
      match s.plain n with
      | w :: r => if room then some ((s.setPlain n r).deliverWord n c w) else none
      | [] =>
        if c.channel = 0 then
          match s.staging n with
          | p :: r => if room then some ((s.setStaging n r).deliverWord n c p.1) else none
          | [] => none
        else match tget s.rind.chans c.channel with
          | some k => s.judgeRecord n c k
          | none => none

/-- STREAM_WORD_DELIVER. -/
def execStreamWordDeliver (port : Nat) (s : State) : Answer := occurs (s.deliver port).isSome s (State.streamNotify s ((s.deliver port).getD s))

/-- R288, R299: what a read of an output port returns: its words, all ones from the first empty position on; and the state without them. Words that waited for
room follow those taken, so that the count may rise again. -/
def State.streamRead (s : State) (host port : Nat) (aligned : Bool) (count : Nat) : List Word × State :=
  let ones : List Word := List.replicate count (BitVec.allOnes 64)
  match streamCfg s.img.cfg port with
  | none => (ones, s)
  | some c =>
    if !aligned || !c.output || !bit c.hosts host || !s.chanOpen c.channel then (ones, s)
    else
      let l := s.staging port
      let t := (s.setStaging port (l.drop count)).pmc (102 + host) 0x142 (min count l.length) (hostAttr host (some c.act))
      ((((l.take count).map (fun (p : Word × Bool) => p.1)) ++ ones).take count, State.streamNotify t (t.fillOut port))

/-- STREAM_READ (R288). -/
def execStreamRead (host port : Nat) (aligned : Bool) (count : Nat) (s : State) : Answer :=
  let r := s.streamRead host port aligned count
  occurs (host < 2 && s.hostUp host && port < 4096 && count ≠ 0) s (r.2.emit (.readData host r.1))

/-- STREAM_CLEAR_DROPPED (R301): either permitted host clears the dropped count. -/
def execStreamClearDropped (host port : Nat) (s : State) : Answer :=
  let ok := match streamCfg s.img.cfg port with
    | some c => bit c.hosts host
    | none => false
  occurs (host < 2 && port < 4096 && ok) s (s.fs (R.HP_STREAM_STATUS 0 port) F.HP_STREAM_STATUS_dropped 0)

/-- R300: the pending stream vectors of a host port whose interval ends first. -/
def State.modEnd (s : State) (host : Nat) : State :=
  let w := 1000 * s.fg (R.HP_MSIX_MOD host) F.HP_MSIX_MOD_interval
  let ks := (s.host.vecPending.map (fun (p : Nat × Nat) => p.1)).filter (fun k => k / 64 = host)
  let due (k : Nat) : Nat := tgetD s.host.modStart k 0 + w
  match ks.map due with
  | [] => s
  | d :: ds =>
    let t := s.runTo (ds.foldl min d)
    (ks.filter (fun k => decide (due k ≤ t.now))).foldl (fun (u : State) k =>
      let v := u.msixNow host (k % 64)
      { v with host := { v.host with vecPending := tdel v.host.vecPending k, modStart := tset v.host.modStart k v.now } }) t

/-- MSIX_MODERATION_END (R300). -/
def execMsixModerationEnd (host : Nat) (s : State) : Answer :=
  occurs (host < 2 && s.host.vecPending.any (fun p => p.1 / 64 = host)) s (s.modEnd host)

/-- R290: the staging FIFOs of an activity's ports are emptied, partly filled slots discarded, its destination rings shown empty. -/
def State.emptyStreams (s : State) (a : Nat) : State :=
  (recsOf s.img.cfg RT.stream).foldl (fun (t : State) r =>
    match streamCfg t.img.cfg r.id with
    | none => t
    | some c =>
      if c.act ≠ a then t
      else
        let u := (t.setStaging r.id []).setPlain r.id []
        let u : State := { u with host := { u.host with sguIn := tdel u.host.sguIn r.id } }
        if c.output then u
        else if c.kind = 0 then
          let x := u.ring c.dest
          { (u.fs (ringReg c.dest) F.RING_STATUS_used 0) with seq := { u.seq with ring := tset u.seq.ring c.dest { x with head := x.fill, pos := 0 }, slotFull := tdel u.seq.slotFull c.dest } }
        else if c.kind = 1 then
          { u with host := { u.host with farRing := tset u.host.farRing r.id { u.farRing r.id with pos := 0 }, farFree := tset u.host.farFree r.id c.farSlots } }
        else u) s

end Machine
end Sys2Proof
end

