-- ==== Sys2Proof/Machine/Home.lean ====
section
/-!
DEFINITION. The home ingress (R331, R332, R337, R349-R352, R361-R364), answers and timers of issued packets (R350-R356), transit (R345), and
drain markers (R359, R360).
-/
namespace Sys2Proof
namespace Machine

/-! ### Checks 5 to 8 of R337 -/

/-- R169: a domain is the keep domain. -/
def State.isKeepDom (s : State) (i : Nat) : Bool := s.keepDom = some i

/-- R331, R332: a target refuses the operation of a packet of an activity. -/
def State.targetDenied (s : State) (t : Target) (op act : Nat) : Bool := match t with
  | .control => true
  | .far i _ => s.isKeepDom i
  | .stream n => op ≠ FOp.store || (match streamCfg s.img.cfg n with
    | some c => c.output || c.act ≠ act
    | none => true)
  | .noPort => op ≠ FOp.store
  | _ => false

/-- R331, R169: `n` bytes of a target lie outside its unit, or the target does not exist. -/
def State.targetOut (s : State) (t : Target) (n : Nat) : Bool := match t with
  | .far i off => decide (s.domSize i < off + n)
  | .bond _ off => decide (2 ^ 34 < off + n)
  | .sram _ off => decide (2 ^ 27 < off + n)
  | .stream _ => false
  | .control => false
  | .noPort => true
  | .invalid => true

/-- Bytes of memory an atomic works on. -/
def atomicWidth (op : Nat) : Nat := if op % 8 = 1 then 16 else 8

/-- Bytes a REQ packet touches. -/
def reqBytes (p : Packet) : Nat := if p.op = FOp.load then p.len + 1 else if isAtomic p.op then atomicWidth p.op else p.data.length

/-- R129: alignment of an atomic's target. -/
def atomicAlign (op : Nat) : Nat := if op % 8 = 1 then 16 else 8

/-- R22: a packet of a core of this module names a die-local domain of another die, which its die does not reach. DESIGN CHOICE: OUT_OF_RANGE, as for XLD and XST
(assumption log 73). -/
def State.keyApart (s : State) (key : Nat) (t : Target) : Bool := match keyDie key, t with
  | some d, .far i _ => s.farApart (4 * d) i
  | _, _ => false

/-- R337: checks 1 to 8 of a REQ packet in a receive queue: the code, the opened packet, the state that accepted its number. -/
def State.accept (s : State) (key : Nat) (p : Packet) : Nat × Packet × State :=
  let r := s.inspect p
  if r.1 ≠ Code.ok then r
  else
    let q := r.2.1
    let t := targetOf q.addr
    let code := firstFail [
      (isAtomic q.op && q.data.length ≠ atomicSize q.op, Code.badFormat),
      (s.heldNow && q.act ≠ 0, Code.notPermitted),
      (s.targetDenied t q.op q.act, Code.notPermitted),
      (s.targetOut t (reqBytes q) || (isAtomic q.op && q.addr % atomicAlign q.op ≠ 0) || s.keyApart key t, Code.outOfRange),
      (s.targetDead t, Code.targetDead)]
    (code, q, r.2.2)

/-! ### Applying a packet -/

/-- Reads `n` bytes of a target: bytes, state after ECC counting, uncorrectable word met. -/
def State.targetRead (s : State) (t : Target) (n : Nat) : Bytes × State × Bool := match t with
  | .far i off => s.farRead i off n
  | .bond c off => s.bondRead c off n
  | .sram c off => s.sramRead c off n
  | _ => (zeros n, s, false)

/-- Writes bytes to a target, as poison where asked (R156). -/
def State.targetWrite (s : State) (t : Target) (act : Nat) (poison : Bool) (b : Bytes) : State := match t with
  | .far i off =>
    let u := (s.farWrite i off b).eruFlush act
    if poison then u.farPoison i off b.length else u
  | .bond c off =>
    let u := s.bondWrite c off b
    let k := bondKey c off
    if poison then u.poison ((List.range ((k + b.length + 15) / 16 - k / 16)).map (fun i => 2 ^ 60 + k / 16 + i)) else u
  | .sram c off => if poison then (s.sramWrite c off b).sramPoison c off b.length else s.sramWrite c off b
  | _ => s

/-- R262: the requests of an access to `n` bytes from an offset, none across 256 bytes, as units of 64 bytes each. -/
def reqCuts (off n : Nat) : List Nat :=
  (List.range (cdiv (off % 256 + n) 256)).map (fun i => cdiv (min (off % 256 + n) (256 * (i + 1)) - max (off % 256) (256 * i)) 64)

/-- R142, R258: the resource and instance that an access to a target takes, with its requests. -/
def targetReqs (t : Target) (n : Nat) : List (Nat × Nat × Nat) := match t with
  | .far i off => (reqCuts off n).map (fun u => (3, i, u))
  | .bond c off => (reqCuts off n).map (fun u => (2, c, u))
  | _ => []

/-- Takes the charge of an access, request by request. -/
def State.chargeTarget (s : State) (t : Target) (act n : Nat) : State := s.chargeAll act (targetReqs t n)

/-- R262, R263: requests of an access are granted one after the other while the budget covers them: the state, and how many of `cs` were granted. -/
def State.grantReqs (s : State) (act : Nat) : List (Nat × Nat × Nat) → State × Nat
  | [] => (s, 0)
  | c :: cs => if s.covers act c.1 c.2.1 c.2.2 then
      let r := State.grantReqs (s.charge act c.1 c.2.1 c.2.2) act cs
      (r.1, r.2 + 1)
    else (s, 0)

/-- The budget covers every request of an access now (R262, R263). -/
def State.targetCovered (s : State) (t : Target) (act n : Nat) : Bool := (s.grantReqs act (targetReqs t n)).2 = (targetReqs t n).length

/-- R139: an access to banks 56-63 is held while an MMA runs on their core. -/
def State.accHeld (s : State) (t : Target) (n : Nat) : Bool := match t with
  | .sram c off => decide (7 * 2 ^ 24 < off + n) && (s.running c 0).isSome
  | _ => false

/-- R437: a write to a target is held while deltas wait. -/
def State.erasureWaits (s : State) (t : Target) (n : Nat) : Bool := match t with
  | .far d off => s.erasureHeld d off n
  | _ => false

/-- R139, R437: what holds a packet's access: an MMA on its core, or deltas that wait. -/
def State.reqHeld (s : State) (p : Packet) : Bool :=
  s.accHeld (targetOf p.addr) (reqBytes p) || (p.op ≠ FOp.load && s.erasureWaits (targetOf p.addr) (reqBytes p))

/-- R335, R87: the value an atomic writes; none where CAS keeps the old one. -/
def atomicNew (op old : Nat) (d : Bytes) : Option Nat :=
  let x := fieldAt d 0 8
  match op % 8 with
  | 0 => some ((old + x) % 2 ^ 64)
  | 1 => some (lfAdd (LF.decode old) (LF.decode (fieldAt d 0 16))).encode
  | 2 => some (if sint 64 x < sint 64 old then x else old)
  | 3 => some (if sint 64 old < sint 64 x then x else old)
  | 4 => some x
  | _ => if old = x then some (fieldAt d 8 8) else none

/-- R349: key of the order counter C of a packet's stream. -/
def orderKey (p : Packet) : Nat := numKey p.cls p.src p.chan
/-- C. -/
def State.orderC (s : State) (p : Packet) : Nat := tgetD s.fj.order (orderKey p) 0
/-- R349: an applied packet adds 1 to C, a flagged one takes its follow count. -/
def State.orderStep (s : State) (p : Packet) : State :=
  let c := s.orderC p
  (({ s with fj := { s.fj with order := tset s.fj.order (orderKey p) (if p.flagged then c - p.follow else (c + 1) % 2 ^ 24) } })).rxCount p

/-- R332, R286: a store to a stream port: appended within the credit, refused with BUSY beyond it; one of partial words is dropped and counted. The offset is ignored, and
only a host's write ends a resync (R478). -/
def State.streamStore (s : State) (n : Nat) (p : Packet) : State × Nat :=
  let ws := wordsOf p.data
  if p.data.length % 8 ≠ 0 then (s.streamDrop n, Code.ok)
  else match streamCfg s.img.cfg n with
    | none => (s, Code.notPermitted)
    | some c => if s.streamCredit n c < ws.length then (s, Code.busy)
      else (s.setStaging n (s.staging n ++ ws.map (fun w => (w, false))), Code.ok)

/-- R22, R25, R172, R195: the ways of `n` bytes of a package-wide domain: granule by granule to the die that holds it, by the quarter-port of its number, but for the
granules on the die of the sending core. -/
def State.granuleWays (s : State) (key i off n chan : Nat) (up : Bool) : List (Way × Nat) :=
  ((List.range (cdiv (off % 256 + n) 256)).map (fun k =>
    let g := off / 256 + k
    let d := (s.domMap i (256 * g)).1 / 3
    let bytes := min (off + n) (256 * (g + 1)) - max off (256 * g)
    (if keyDie key = some d then Way.inside else if up then .rise (4 * d + g % 4) else wayTo s.img.cfg key d none (g % 4) chan, max 1 (cdiv bytes 64)))).filter (fun w => w.1 ≠ .inside)

/-- R22-R27, R195: the ways of a request from a receive queue to its target, with the flits that each takes: one to a die as a whole; granule by granule to a
package-wide domain, whose data rises again where the request returns any; to the hub for a stream port. -/
def State.reqWays (s : State) (key : Nat) (p : Packet) : List (Way × Nat) :=
  match targetOf p.addr with
  | .stream _ => [(hubWay key p.chan, p.flits)]
  | t => match s.targetDie t with
    | some d => [(wayTo s.img.cfg key d.1 d.2 (p.chan % 4) p.chan, p.flits)]
    | none => match t with
      | .far i off => if p.op = FOp.load then s.granuleWays key i off 1 p.chan false ++ s.granuleWays key i off (reqBytes p) p.chan true
          else s.granuleWays key i off (reqBytes p) p.chan false ++ (if isAtomicRet p.op then s.granuleWays key i off (reqBytes p) p.chan true else [])
      | _ => []

/-- R25-R27, R190, R262: the ways of a request are open now. -/
def State.waysOpen (s : State) (key : Nat) (p : Packet) : Bool := (s.takeWays p.act (s.reqWays key p)).isSome

/-- A request takes its ways. -/
def State.takeReq (s : State) (key : Nat) (p : Packet) : State := (s.takeWays p.act (s.reqWays key p)).getD s

/-- Where the data of an answer comes from: the target's die, by the way the request came. -/
def State.replyOrigin (s : State) (key : Nat) (p : Packet) : Origin := match s.targetDie (targetOf p.addr) with
  | some d => .core d.1 (match wayTo s.img.cfg key d.1 d.2 (p.chan % 4) p.chan with
    | .neighbour _ _ => keyEngine key
    | .inside => some noEngine
    | _ => none)
  | none => .unit

/-- R335, R337, R352: the effect of an accepted REQ packet, whose way and requests have been charged, and its answer. A target whose die has been fenced since it
was accepted is answered with TARGET_DEAD (R202). -/
def State.applyReq (s : State) (key : Nat) (p : Packet) : State :=
  let t := targetOf p.addr
  if s.targetDead t then s.refuse p Code.targetDead
  else if p.op = FOp.load then
    let r := s.targetRead t (p.len + 1)
    (r.2.1.orderStep p).respond p (s.replyOrigin key p) FOp.loadRsp r.2.2 r.1
  else if isAtomic p.op then
    let w := atomicWidth p.op
    let r := s.targetRead t w
    if r.2.2 then r.2.1.refuse p Code.memUncorrectable
    else
      let u := match atomicNew p.op (leNat r.1) p.data with
        | some v => r.2.1.targetWrite t p.act false (leBytes w v)
        | none => r.2.1
      let v := u.orderStep p
      if isAtomicRet p.op then v.respond p (s.replyOrigin key p) FOp.atomicRsp false r.1 else v.respond p .unit FOp.ack false []
  else match t with
    | .stream n =>
      let r := s.streamStore n p
      if r.2 = Code.ok then (r.1.orderStep p).respond p .unit FOp.ack false [] else r.1.refuse p r.2
    | _ => ((s.targetWrite t p.act p.poison p.data).orderStep p).respond p .unit FOp.ack false []

/-- The requests of a packet at its target. -/
def packetReqs (p : Packet) : List (Nat × Nat × Nat) := targetReqs (targetOf p.addr) (reqBytes p)

/-- R139, R190, R262, R437: a packet whose target is dead, or whose way and whole access are open now. -/
def State.reqOpen (s : State) (key : Nat) (p : Packet) : Bool :=
  s.targetDead (targetOf p.addr)
  || (!s.reqHeld p && s.waysOpen key p && s.targetCovered (targetOf p.addr) p.act (reqBytes p))

/-- A packet takes its way and its whole access, and is applied. -/
def State.payReq (s : State) (key : Nat) (p : Packet) : State :=
  if s.targetDead (targetOf p.addr) then s.applyReq key p
  else ((s.takeReq key p).chargeTarget (targetOf p.addr) p.act (reqBytes p)).applyReq key p

/-- R349: parked packets whose count is met are applied; one that waits for a budget or for its way joins the ingress queue. `fuel` bounds their number. -/
def State.unpark : Nat → State → State
  | 0, s => s
  | fuel + 1, s =>
    match s.fj.parked.find? (fun e => decide (e.2.1.follow ≤ s.orderC e.2.1)) with
    | none => s
    | some e =>
      let t : State := { s with fj := { s.fj with parked := s.fj.parked.erase e } }
      State.unpark fuel (if t.reqOpen e.1 e.2.1 then t.payReq e.1 e.2.1 else { t with fj := { t.fj with ingress := t.fj.ingress ++ [(e.1, e.2.1)] } })

/-- Applies a packet, and every parked one whose count that meets. -/
def State.applyAll (s : State) (key : Nat) (p : Packet) : State :=
  let t := s.applyReq key p
  State.unpark (t.fj.parked.length + 1) t

/-! ### The ingress queue (R361-R364) -/

/-- The 64-byte line a packet is addressed to: its address without the device. -/
def lineOf (p : Packet) : Nat := p.addr % 2 ^ 52 / 64

/-- R361: two packets touch a line in common. -/
def sameLine (p q : Packet) : Bool :=
  let last (k : Packet) : Nat := (k.addr % 2 ^ 52 + (reqBytes k - 1)) / 64
  decide (lineOf p ≤ last q) && decide (lineOf q ≤ last p)

/-- R364: the ingress takes one more packet of a source. -/
def State.ingressRoom (s : State) (p : Packet) : Bool := decide (s.fj.ingress.length < 16384) && s.shareLeft p.src

/-- R361: the first packet of a line, if no packet of its stream and none that touches its lines waits before it. -/
def State.lineHead (s : State) (line : Nat) : Option (Nat × Packet) :=
  match s.fj.ingress.find? (fun e => lineOf e.2 = line) with
  | some e => if (s.fj.ingress.takeWhile (fun f => lineOf f.2 ≠ line)).any (fun f => (f.2.src = e.2.src && f.2.chan = e.2.chan) || sameLine f.2 e.2) then none else some e
  | none => none

/-- R362: a STORE of a whole line of memory. -/
def fullLine (p : Packet) : Bool := p.op = FOp.store && p.data.length = 64 && p.addr % 64 = 0 && (match targetOf p.addr with
  | .stream _ => false
  | _ => true)

/-- A packet leaves the ingress queue. -/
def State.dequeue (s : State) (e : Nat × Packet) : State := { s with fj := { s.fj with ingress := s.fj.ingress.erase e, paidIn := tdel s.fj.paidIn (lineOf e.2) } }

/-- R362: unflagged stores at the head of a line with a later whole-line store right behind them are retired: acknowledged, counted, not applied. -/
def State.retireLine : Nat → State → Nat → State
  | 0, s, _ => s
  | fuel + 1, s, line =>
    match s.lineHead line with
    | some e => match s.fj.ingress.filter (fun f => sameLine f.2 e.2) with
      | _ :: f :: _ =>
        if fullLine e.2 && !e.2.flagged && fullLine f.2 && !s.targetDead (targetOf e.2.addr) then
          State.retireLine fuel (((((s.dequeue e).orderStep e.2).count R.FJ_CNT_RETIRED).pmc 57 0x083 1 (pktAttr 0x37 e.2)).respond e.2 .unit FOp.ack false []) line
        else s
      | _ => s
    | none => s

/-- R363: two no-return additions that combine. -/
def combines (a b : Packet) : Bool := (a.op = 0x10 || a.op = 0x11) && b.op = a.op && b.addr = a.addr

/-- R361, R363: up to 63 additions that combine with the one applied are part of its one access. -/
def State.applyLine : Nat → State → Nat → Packet → State
  | 0, s, _, _ => s
  | fuel + 1, s, line, first =>
    match s.lineHead line with
    | some e =>
      if combines first e.2 then
        State.applyLine fuel (((s.dequeue e).applyAll e.1 e.2).count R.FJ_CNT_COMBINED |>.pmc 57 0x084 1 (pktAttr 0x37 e.2)) line first
      else s
    | none => s

/-- R262, R263: what the head of a line still has to be granted: its way, while nothing of it is, and the requests left. -/
def State.headGrants (s : State) (line : Nat) (e : Nat × Packet) : Option Nat × List (Nat × Nat × Nat) :=
  match tget s.fj.paidIn line with
  | some k => (some k, (packetReqs e.2).drop k)
  | none => (none, packetReqs e.2)

/-- The head of a line can go on: it waits for no MMA (R139) and no delta (R437), its way is open, and its next request is covered. -/
def State.headOpen (s : State) (line : Nat) (e : Nat × Packet) : Bool :=
  let g := s.headGrants line e
  s.targetDead (targetOf e.2.addr)
  || (!s.reqHeld e.2 && (g.1.isSome || s.waysOpen e.1 e.2)
    && (match g.2 with
      | c :: _ => s.covers e.2.act c.1 c.2.1 c.2.2
      | [] => true))

/-- INGRESS_APPLY (R361-R363): one cycle of a line: its head takes its way and as many of its requests as are covered (R262), and is applied once all are. -/
def State.ingressApply (s : State) (line : Nat) : State :=
  let u := State.retireLine (s.fj.ingress.length + 1) s line
  let t := State.unpark (u.fj.parked.length + 1) u
  match t.lineHead line with
  | none => t
  | some e =>
    if !t.headOpen line e then t
    else if t.targetDead (targetOf e.2.addr) then State.applyLine 63 ((t.dequeue e).applyAll e.1 e.2) line e.2
    else
      let g := t.headGrants line e
      let w := if g.1.isSome then t else t.takeReq e.1 e.2
      let r := w.grantReqs e.2.act g.2
      if r.2 < g.2.length then { r.1 with fj := { r.1.fj with paidIn := tset r.1.fj.paidIn line (g.1.getD 0 + r.2) } }
      else State.applyLine 63 ((r.1.dequeue e).applyAll e.1 e.2) line e.2

/-- INGRESS_APPLY: the line has a head that can go on. -/
def execIngressApply (line : Nat) (s : State) : Answer :=
  let ok := match s.lineHead line with
    | some e => s.headOpen line e
    | none => false
  occurs ok s (State.streamNotify s ((s.ingressApply line).drainPump))

/-! ### STORE, LOAD, ATOMIC -/

/-- R337, R349-R351: an accepted REQ packet enters the ingress queue; a flagged one whose count is not met parks on its port, or finds it full; packets issued here count as one more port. -/
def State.reqIn (s : State) (port : Nat) (p : Packet) : State :=
  if p.flagged && decide (s.orderC p < p.follow) then
    if (s.fj.parked.filter (fun e => min 16 e.1 = min 16 port)).length < 64 then
      ({ s with fj := { s.fj with parked := s.fj.parked ++ [(port, p, s.now)] } }).count R.FJ_CNT_PARKED |>.pmc 57 0x082 1 (pktAttr 0x37 p)
    else s.refuse p Code.parkFull
  else { s with fj := { s.fj with ingress := s.fj.ingress ++ [(port, p)] } }

/-- A REQ packet at a port (R337): checked, then queued, parked or refused. A packet beyond its source's share stays where it is (R364). -/
def reqRow (port : Nat) (pkt : Packet) (mine : Bool) (s : State) : Answer :=
  match s.takeRx port pkt with
  | none => occurs false s s
  | some t =>
    let r := t.accept port pkt
    occurs (mine && pkt.dest = s.device && s.ingressRoom pkt) s
      ((if r.1 ≠ Code.ok then (r.2.2.countTag r.1).refuse pkt r.1 else r.2.2.reqIn port r.2.1).drainPump)

/-- STORE (R337). A packet of class REQ with an opcode of no other row, or of a class above 4, is refused here. -/
def execStore (p : Nat) (pkt : Packet) (s : State) : Answer :=
  reqRow p pkt ((pkt.cls = 1 && pkt.op ≠ FOp.load && !isAtomic pkt.op) || decide (5 ≤ pkt.cls)) s
/-- LOAD (R337). -/
def execLoad (p : Nat) (pkt : Packet) (s : State) : Answer := reqRow p pkt (pkt.cls = 1 && pkt.op = FOp.load) s
/-- ATOMIC (R335, R337). -/
def execAtomic (p : Nat) (pkt : Packet) (s : State) : Answer := reqRow p pkt (pkt.cls = 1 && isAtomic pkt.op) s

/-- PARK_TIMEOUT (R351): discarded without an answer; C of its stream becomes zero. -/
def execParkTimeout (idx : Nat) (s : State) : Answer :=
  match s.fj.parked[idx]? with
  | none => occurs false s s
  | some e =>
    let t := s.runTo (e.2.2 + 1000 * max 1 (s.fg R.FJ_TIMERS F.FJ_TIMERS_park_timeout))
    .next (State.count { t with fj := { t.fj with parked := t.fj.parked.erase e, order := tset t.fj.order (orderKey e.2.1) 0 } } R.FJ_CNT_PARK_EXPIRED)

/-! ### Issuing loads, and answers -/

/-- R346, R348, R356: issues a LOAD, or an atomic with return, that waits for its data. -/
def State.sendLoad (s : State) (p : Packet) (core act : Nat) (parts : List (Nat × Nat)) (iss : Nat) : State :=
  match s.keyOf p.key with
  | none => s
  | some _ =>
    let k := numKey p.cls p.dest p.chan
    let x := tgetD s.fj.xseq k 0
    let t : State := { s with fj := { s.fj with loads := s.fj.loads ++ [⟨core, iss, act, parts, p.dest, p.chan, x % 2 ^ 24, p.op, s.now⟩] } }
    if isAtomic p.op then t.sendAcked p core iss else (t.issue p (t.originOf core) iss).noteSent p x

/-- The load a response or NACK answers. -/
def State.loadOf (s : State) (q : Packet) : Option Load := s.fj.loads.find? (fun l => l.dev = q.src && l.chan = q.chan && l.seq = q.seq && l.act = q.act)

/-- A running fabric instruction takes a code (R18). -/
def State.fabCode (s : State) (core iss code : Nat) : State := match s.running core 5 with
  | some q => if q.no = iss then s.setRunning core 5 (some { q with code := joinCode q.code code }) else s
  | none => s

/-- Writes what a load returned into its pieces of SRAM. -/
def State.putParts (s : State) (core : Nat) (parts : List (Nat × Nat)) (b : Bytes) (poison : Bool) : State :=
  (parts.foldl (fun (acc : State × Bytes) p =>
    let d := slice acc.2 0 p.2
    let t := acc.1.sramWrite core p.1 d
    (if poison then t.sramPoison core p.1 p.2 else t, acc.2.drop p.2)) (s, b)).1

/-- R355, R356: a load completes with a code and its destination is poisoned; a dead target is reported to the fabric manager. -/
def State.loadFails (s : State) (l : Load) (code : Nat) : State :=
  let t : State := { s with fj := { s.fj with loads := s.fj.loads.erase l } }
  let u := (l.parts.foldl (fun (v : State) p => v.sramPoison l.core p.1 p.2) t).fabCode l.core l.iss code
  if code = Code.targetDead then u.emit (.report code (leBytes 2 l.dev ++ leBytes 1 l.act)) else u

/-- R354: an answer to a packet of the pair table: counted, the stream it held is released. -/
def State.acked (s : State) (e : Sent) : State :=
  let k := numKey e.pkt.cls e.pkt.dest e.pkt.chan
  let t : State := { s with fj := { s.fj with sent := s.fj.sent.erase e, retry := s.fj.retry.filter (fun r => r.1 ≠ e),
                                              hold := if e.pkt.flagged then tdel s.fj.hold k else s.fj.hold } }
  t.modPair (pairKey e.core e.pkt.dest e.pkt.chan) (fun q => { q with acked := q.acked + 1 })

/-- R423, R426: what an acknowledged KEEP packet means to the KPU. -/
def State.keepAcked (s : State) (e : Sent) : State :=
  let kind := e.pkt.addr / 2 ^ 56
  if e.core ≠ 32 then s
  else if kind = KKind.sealKind && s.paired then (match s.kpu.streaming with
    | some n => if fieldAt e.pkt.data 0 4 = n % 2 ^ 32 && e.pkt.chan = 0xF1 then s.sealed n false else s
    | none => s)
  else if kind = KKind.journal && e.pkt.chan = 0xF0 && e.pkt.dest = keepPartner s.img.cfg then
    State.showJnl { s with kpu := { s.kpu with jacked := s.kpu.jacked ++ [(e.pkt.addr % 2 ^ 56, e.pkt.data.length)] } }
  else s

/-- Opens a response with the xseq of the request it answers (R473). -/
def State.openRsp (s : State) (q : Packet) (xseq : Nat) : Option Packet := match s.keyOf q.key with
  | some key => q.unseal key xseq
  | none => none

/-- The xseq of an outstanding load. -/
def State.loadXseq (s : State) (l : Load) : Nat := nearest (tgetD s.fj.xseq (numKey 1 l.dev l.chan) 0) l.seq

/-- R337: a class RSP packet that belongs to no other row. -/
def strayRsp (q : Packet) : Bool := q.cls = 2 && q.op ≠ FOp.atomicRsp && q.op ≠ FOp.ack && q.op ≠ FOp.nack

/-- R337: an answer's tag verifies under the count of some stream of its channel, its own source's first. -/
def State.answerVerifies (s : State) (q : Packet) : Bool := match s.keyOf q.key with
  | none => false
  | some key =>
    [1, 4].any (fun c => (q.unseal key (nearest (tgetD s.fj.xseq (numKey c q.src q.chan) 0) q.seq)).isSome)
    || s.fj.xseq.any (fun e => e.1 % 256 = q.chan && (q.unseal key (nearest e.2 q.seq)).isSome)

/-- R354, R356: an answer to nothing that waits for one is ignored; one that no numbered stream verifies fails its tag. -/
def State.strayAnswer (s : State) (q : Packet) : State :=
  if (s.keyOf q.key).isNone then s.dropPkt Code.keyUnknown else if s.answerVerifies q then s else s.dropPkt Code.badSignature

/-- R337: an answer with a bad head or of an activity that does not exist here is dropped. -/
def State.rspBad (s : State) (q : Packet) : Option Nat :=
  if badHead q then some Code.badFormat else if !actExists s.img.cfg q.act then some Code.notPermitted else none

/-- An answer that passes checks 1 and 4 has its effect; another is dropped. -/
def State.rspChecked (s : State) (q : Packet) (t : State) : State := match s.rspBad q with
  | some c => s.dropPkt c
  | none => t

/-- LOAD_RSP (R356): the data goes to SRAM, poisoned data as poison; a response that answers nothing, or fails its checks, is dropped. -/
def State.loadRspRx (s : State) (q : Packet) : State :=
  match s.loadOf q with
  | some l =>
    if l.op ≠ FOp.load then s.strayAnswer q
    else match s.openRsp q (s.loadXseq l) with
      | some o => (State.putParts { s with fj := { s.fj with loads := s.fj.loads.erase l } } l.core l.parts o.data o.poison).rxCount q
      | none => s.dropPkt Code.badSignature
  | none => s.strayAnswer q

/-- R343, R355, R356: the packet that a NACK answers: of the packets that wait, one sent to the NACK's own source; else, where a hop or this module refused it, the oldest
with its channel, number and activity under whose count the NACK opens (DESIGN CHOICE; assumption log 140). -/
def State.nackedSent (s : State) (q : Packet) : Option Sent :=
  match s.sentOf q with
  | some e => some e
  | none => s.fj.sent.find? (fun e => e.pkt.chan = q.chan && e.pkt.seq = q.seq && e.pkt.act = q.act && (e.pkt.key = q.key || q.key = 0) && (s.openRsp q e.xseq).isSome)

/-- The load that a NACK answers, in the same way. -/
def State.nackedLoad (s : State) (q : Packet) : Option Load :=
  match s.loadOf q with
  | some l => some l
  | none => s.fj.loads.find? (fun l => l.chan = q.chan && l.seq = q.seq && l.act = q.act && (s.openRsp q (s.loadXseq l)).isSome)

/-- The core that waits for an answer; 32 the KPU. -/
def State.answerCore (s : State) (q : Packet) : Option Nat :=
  match s.loadOf q with
  | some l => some l.core
  | none => (s.nackedSent q).map (fun e => e.core)

/-- R25-R27, R190, R258: the way of an answer to the core that waits for it, or to the KPU. -/
def State.rspWay (s : State) (key : Nat) (q : Packet) : Way := match s.answerCore q with
  | some c => if c < 32 then wayTo s.img.cfg key (c / 4) (some c) (q.chan % 4) q.chan else hubWay key q.chan
  | none => .inside

/-- R139: data that returns to banks 56-63 waits for an MMA of its core. -/
def State.partsHeld (s : State) (q : Packet) : Bool := match s.loadOf q with
  | some l => l.parts.any (fun p => s.accHeld (.sram l.core p.1) p.2)
  | none => false

/-- An answer crosses to its core, if its way is open and no MMA holds it back; none while it waits. -/
def State.rspCross (s : State) (key : Nat) (q : Packet) : Option State :=
  if !s.partsHeld q && s.wayOpen q.act q.flits (s.rspWay key q) then some (s.takeWay q.act q.flits (s.rspWay key q)) else none

/-- LOAD_RSP. -/
def execLoadRsp (p : Nat) (pkt : Packet) (s : State) : Answer :=
  match (s.takeRx p pkt).bind (fun t => t.rspCross p pkt) with
  | some t => occurs (strayRsp pkt && pkt.dest = s.device) s ((t.rspChecked pkt (t.loadRspRx pkt)).drainPump)
  | none => occurs false s s

/-- ATOMIC_RSP (R335, R352): the old value returns, and it stands as the acknowledgement. -/
def State.atomicRspRx (s : State) (q : Packet) : State :=
  match s.sentOf q with
  | some e => match s.openRsp q e.xseq with
    | some o =>
      let t := s.acked e
      (match t.loadOf q with
        | some l => State.putParts { t with fj := { t.fj with loads := t.fj.loads.erase l } } l.core l.parts o.data o.poison
        | none => t).rxCount q
    | none => s.dropPkt Code.badSignature
  | none => s.strayAnswer q

/-- ATOMIC_RSP. -/
def execAtomicRsp (p : Nat) (pkt : Packet) (s : State) : Answer :=
  match (s.takeRx p pkt).bind (fun t => t.rspCross p pkt) with
  | some t => occurs (pkt.cls = 2 && pkt.op = FOp.atomicRsp && pkt.dest = s.device) s ((t.rspChecked pkt (t.atomicRspRx pkt)).drainPump)
  | none => occurs false s s

/-- ACK (R352, R354). -/
def State.ackRx (s : State) (q : Packet) : State :=
  match s.sentOf q with
  | some e => match s.openRsp q e.xseq with
    | some _ => (if e.core = 32 then (((s.acked e).keepAcked e).rxCount q).keepPump else (s.acked e).rxCount q)
    | none => s.dropPkt Code.badSignature
  | none => s.strayAnswer q

/-- ACK. -/
def execAck (p : Nat) (pkt : Packet) (s : State) : Answer :=
  match (s.takeRx p pkt).bind (fun t => t.rspCross p pkt) with
  | some t => occurs (pkt.cls = 2 && pkt.op = FOp.ack && pkt.dest = s.device) s (State.streamNotify s ((t.rspChecked pkt (t.ackRx pkt)).drainPump))
  | none => occurs false s s

/-- R371, R373, R377: a NACK is counted and the first one recorded. -/
def State.nackSeen (s : State) (q : Packet) (code : Nat) : State :=
  let t := ((s.rxCount q).count R.FJ_CNT_NACK_RX).raise R.FJ_STATUS F.FJ_STATUS_nack
  if t.fb R.FJ_NACK_LOG F.FJ_NACK_LOG_valid then t
  else ((((t.fs R.FJ_NACK_LOG F.FJ_NACK_LOG_code code).fs R.FJ_NACK_LOG F.FJ_NACK_LOG_device q.src).fs R.FJ_NACK_LOG F.FJ_NACK_LOG_chan q.chan).fs
    R.FJ_NACK_LOG F.FJ_NACK_LOG_activity q.act).fs R.FJ_NACK_LOG F.FJ_NACK_LOG_valid 1

/-- R370: a NACK that answers nothing any more, as after a teardown, is seen and does nothing else; its code is read where its tag verifies. -/
def State.strayNack (s : State) (q : Packet) : State :=
  if !s.answerVerifies q then s.strayAnswer q
  else
    let xs := [1, 4].map (fun c => nearest (tgetD s.fj.xseq (numKey c q.src q.chan) 0) q.seq) ++ (s.fj.xseq.filter (fun (e : Nat × Nat) => e.1 % 256 = q.chan)).map (fun (e : Nat × Nat) => nearest e.2 q.seq)
    match xs.findSome? (s.openRsp q) with
    | some o => s.nackSeen q (fieldAt o.data 0 1)
    | none => s.strayAnswer q

/-- NACK (R350, R354, R355): a refusal to be retried waits for the retry delay, unless its pair has been marked lost; any other counts as the packet's answer. -/
def State.nackRx (s : State) (q : Packet) : State :=
  match s.nackedSent q with
  | some e => match s.openRsp q e.xseq with
    | none => s.dropPkt Code.badSignature
    | some o =>
      let code := fieldAt o.data 0 1
      let t := s.nackSeen q code
      if code = Code.parkFull || code = Code.busy then
        if (s.pair (pairKey e.core e.pkt.dest e.pkt.chan)).lost then t
        else { t with fj := { t.fj with retry := t.fj.retry ++ [(e, t.now + 1000 * max 1 (t.fg R.FJ_TIMERS F.FJ_TIMERS_retry_delay))] } }
      else
        let u := (t.acked e).modPair (pairKey e.core e.pkt.dest e.pkt.chan) (fun x => { x with nacked := some (min e.iss (x.nacked.getD e.iss)) })
        if e.core = 32 then u.keepNacked e code (q.src = e.pkt.dest)
        else match (s.fj.loads.find? (fun l => l.dev = e.pkt.dest && l.chan = e.pkt.chan && l.seq = e.pkt.seq && l.act = e.pkt.act && isAtomicRet l.op)) with
          | some l => u.loadFails l code
          | none => u
  | none => match s.nackedLoad q with
    | some l => match s.openRsp q (s.loadXseq l) with
      | some o => (s.nackSeen q (fieldAt o.data 0 1)).loadFails l (fieldAt o.data 0 1)
      | none => s.dropPkt Code.badSignature
    | none => s.strayNack q

/-- NACK. -/
def execNack (p : Nat) (pkt : Packet) (s : State) : Answer :=
  match (s.takeRx p pkt).bind (fun t => t.rspCross p pkt) with
  | some t => occurs (pkt.cls = 2 && pkt.op = FOp.nack && pkt.dest = s.device) s ((t.rspChecked pkt (t.nackRx pkt)).drainPump)
  | none => occurs false s s

/-! ### Timers -/

/-- When the oldest unacknowledged packet of a pair was issued. -/
def State.oldest (s : State) (core dev chan : Nat) : Option Nat :=
  ((s.fj.sent.filter (fun e => e.core = core && e.pkt.dest = dev && e.pkt.chan = chan)).map (fun (e : Sent) => e.since)).foldl
    (fun (m : Option Nat) x => some (match m with
      | none => x
      | some y => min x y)) none

/-- ACK_TIMEOUT (R353): the pair is lost, and the streams it held go on (R348). -/
def State.ackTimeout (s : State) (core dev chan since : Nat) : State :=
  let t := s.runTo (since + 1000 * max 1 (s.fg R.FJ_TIMERS F.FJ_TIMERS_ack_timeout))
  let mine (e : Sent) : Bool := e.core = core && e.pkt.dest = dev && e.pkt.chan = chan
  let free := ((t.fj.sent.filter (fun e => mine e && e.pkt.flagged)).map (fun e => numKey e.pkt.cls e.pkt.dest e.pkt.chan))
  let u : State := { t with fj := { t.fj with hold := t.fj.hold.filter (fun (h : Nat × Nat) => !free.contains h.1), retry := t.fj.retry.filter (fun r => !mine r.1) } }
  let v := (((u.modPair (pairKey core dev chan) (fun q => { q with lost := true })).raise R.FJ_STATUS F.FJ_STATUS_lost_pair).count R.FJ_CNT_ACK_TIMEOUT)
  if core = 32 then v.keepPeerLost dev else v

/-- ACK_TIMEOUT. -/
def execAckTimeout (core dev chan : Nat) (s : State) : Answer :=
  match s.oldest core dev chan with
  | some t => occurs (core ≤ 32 && !(s.pair (pairKey core dev chan)).lost) s (s.ackTimeout core dev chan t)
  | none => occurs false s s

/-- LOAD_TIMEOUT (R356). -/
def execLoadTimeout (idx : Nat) (s : State) : Answer :=
  match s.fj.loads[idx]? with
  | some l =>
    let t := s.runTo (l.since + 1000 * max 1 (s.fg R.FJ_TIMERS F.FJ_TIMERS_load_timeout))
    .next ((t.loadFails l Code.targetDead).count R.FJ_CNT_LOAD_TIMEOUT)
  | none => occurs false s s

/-- FJ_RETRY (R346, R350, R474): the packet leaves again with its number, its follow count and its route mode, in the epoch in force. -/
def State.fjRetry (s : State) (r : Sent × Nat) : State :=
  let t := s.runTo r.2
  let u : State := { t with fj := { t.fj with retry := t.fj.retry.erase r } }
  match u.keyOf r.1.pkt.key with
  | none => u
  | some key =>
    let k : Packet := { r.1.pkt with src := u.device, vc := 2 * r.1.pkt.cls, epoch := u.epoch, transit := false, hop := 0, tag := [] }
    u.dispatch (k.seal key r.1.xseq) (u.originOf r.1.core) r.1.iss

/-- R241 step 2, R370, R419: the Fjarux unit issues nothing from the boundary of a snapshot or maintenance pause, or from moment A of another one, until the cores resume; a retry is new issue. -/
def State.fjStill (s : State) : Bool := match s.pause with
  | some p => p.snapshot || p.maint || p.atA.isSome
  | none => false

/-- FJ_RETRY. -/
def execFjRetry (idx : Nat) (s : State) : Answer :=
  match s.fj.retry[idx]? with
  | some r => occurs (s.fj.sent.contains r.1 && !s.fjStill) s (s.fjRetry r)
  | none => occurs false s s

/-! ### Transit and drain -/

/-- R343, R345, R371: a packet for another module goes on, charged to activity 255, and counts as forwarded; one that finds no way is refused. -/
def State.transit (s : State) (p : Nat) (pkt : Packet) : State :=
  let k : Packet := { pkt with transit := true }
  match s.launch k (.port p) 0 with
  | some t => (t.count R.FJ_CNT_TRANSIT).pmc (41 + p) 0x064 pkt.flits (pktAttr 0x37 pkt)
  | none => s.dispatch k (.port p) 0

/-- FJ_TRANSIT (R343, R345). -/
def execFjTransit (p : Nat) (pkt : Packet) (s : State) : Answer :=
  match s.takeRx p pkt with
  | some t => occurs (p < 16 && pkt.dest ≠ s.device && pkt.op ≠ FOp.drain) s ((t.transit p pkt).drainPump)
  | none => occurs false s s

/-- DRAIN (R359, R360): a marker for the old epoch of a drain in progress marks its input; any other is dropped and counted. -/
def State.drainRx (s : State) (p vc epoch : Nat) : State :=
  if s.fb R.FJ_EPOCH F.FJ_EPOCH_draining && epoch = s.oldEpoch then
    State.drainPump { s with fj := { s.fj with marksIn := pvKey p vc :: s.fj.marksIn } }
  else s.count R.FJ_CNT_REFUSED

/-- DRAIN. -/
def execDrain (p vc epoch : Nat) (s : State) : Answer :=
  match (s.rx p).find? (fun k => k.vc = vc) with
  | some k => match s.takeRx p k with
    | some t => occurs (k.op = FOp.drain && k.epoch = epoch && p < 16) s (if badHead k then t.dropPkt Code.badFormat else t.drainRx p vc epoch)
    | none => occurs false s s
  | none => occurs false s s

/-- FJ_CLEAR_COUNTS (R372). -/
def execFjClearCounts (port : Nat) (s : State) : Answer :=
  occurs (s.hostOn port && port = s.tokenPort) s (s.zeroRegs [R.FJ_CNT_TX, R.FJ_CNT_RX, R.FJ_CNT_TRANSIT, R.FJ_CNT_FALLBACK, R.FJ_CNT_PARKED, R.FJ_CNT_PARK_FULL, R.FJ_CNT_PARK_EXPIRED,
    R.FJ_CNT_ACK_TIMEOUT, R.FJ_CNT_LOAD_TIMEOUT, R.FJ_CNT_NO_ROUTE, R.FJ_CNT_BAD_TAG, R.FJ_CNT_RETIRED, R.FJ_CNT_COMBINED, R.FJ_CNT_NACK_RX, R.FJ_CNT_REFUSED])

/-! ### Leases (R366-R368) -/

/-- R367: a LEASE packet's data is valid: serial, term, number, expiry. -/
def State.leaseOk (s : State) (d : Bytes) : Bool :=
  let term := fieldAt d 16 8
  let no := fieldAt d 24 8
  let ex := fieldAt d 32 8
  let top := (s.rd R.FJ_LEASE_TERM).toNat
  d.length = 48 && slice d 0 16 = s.fuses.serial && decide (top ≤ term) && (decide (top < term) || decide (s.fj.leaseNo < no))
  && decide (s.rack < ex) && decide (ex ≤ s.rack + 1000000000)

/-- LEASE (R366, R367). -/
def State.leaseRx (s : State) (q : Packet) : State :=
  let d := q.data
  if q.op = FOp.lease && q.key = 0 && s.leaseOk d then
    let t := ((s.wr R.FJ_LEASE (BitVec.ofNat 64 (fieldAt d 32 8))).wr R.FJ_LEASE_TERM (BitVec.ofNat 64 (fieldAt d 16 8))).fs R.FJ_STATUS F.FJ_STATUS_lease 1
    State.rxCount { t with fj := { t.fj with leaseNo := fieldAt d 24 8, fm := (fieldAt d 40 2, fieldAt d 42 2) } } q
  else s.count R.FJ_CNT_REFUSED

/-- LEASE. A class CTRL packet of no other row is dropped here. -/
def execLease (p : Nat) (pkt : Packet) (s : State) : Answer :=
  match (s.takeRx p pkt).bind (fun t => t.toHub p pkt) with
  | some t =>
    let r := t.inspect pkt
    occurs (pkt.cls = 0 && pkt.op ≠ FOp.teardown && pkt.op ≠ FOp.mgmt && pkt.op ≠ FOp.drain && pkt.dest = s.device) s
      ((if r.1 = Code.ok then r.2.2.leaseRx r.2.1 else r.2.2.dropPkt r.1).drainPump)
  | none => occurs false s s

/-- LEASE_EXPIRY (R367, R368): the lease ends; HELD follows at the next step boundary. -/
def execLeaseExpiry (s : State) : Answer :=
  occurs (s.fg R.FJ_STATUS F.FJ_STATUS_lease = 1) s ((s.runToRack (s.rd R.FJ_LEASE).toNat).fs R.FJ_STATUS F.FJ_STATUS_lease 2)

/-- R357, R471: a device of the fabric manager, by the lease in force. -/
def State.isManager (s : State) (dev : Nat) : Bool := s.fg R.FJ_STATUS F.FJ_STATUS_lease = 1 && decide (s.fj.fm.1 ≤ dev) && decide (dev ≤ s.fj.fm.2)

end Machine
end Sys2Proof
end

