-- ==== Sys2Proof/Machine/ImgSyntax.lean ====
section
/-!
DEFINITION. The record stream of an image and check 7 of R231: record syntax (R224, R225), the value ranges of each record's layout
(R226 and the rules that own the other layouts), PATCH records and their operations (R235, R236).
-/
namespace Sys2Proof
namespace Machine

/-- A record with its index in the stream that carried it. -/
abbrev IRec := Nat × Rec

/-- What a check finds: the index of the failing record and the code; none when it passes. -/
abbrev Verdict := Option (Nat × Nat)

/-- IMG_RESULT.record where no record of the stream fails (R249). -/
def noRec : Nat := 0xFFFFFF

/-- The records of an indexed stream. -/
def recsIn (c : List IRec) : List Rec := c.map Prod.snd

/-! ### Layouts -/

/-- The known record types (R225). -/
def typeKnown (t : Nat) : Bool := (1 ≤ t && t ≤ 0x14) || t = RT.patch

/-- R225: the number of ids of a type. -/
def idLimit (t : Nat) : Nat :=
  match t with
  | 0x0001 => 1
  | 0x0002 => 32
  | 0x0003 => 32
  | 0x0004 => 512
  | 0x0005 => 512
  | 0x0006 => 16
  | 0x0007 => 1
  | 0x0008 => 256
  | 0x0009 => 256
  | 0x000A => 256
  | 0x000B => 2
  | 0x000C => 16
  | 0x000D => 64
  | 0x000E => 4096
  | 0x000F => 1
  | 0x0010 => 1
  | 0x0011 => 4096
  | 0x0012 => 64
  | 0x0013 => 65
  | 0x0014 => 16
  | 0x0020 => 1024
  | _ => 0

/-- The bytes of a record's layout after its header. -/
def layoutLen (r : Rec) : Nat :=
  match r.type with
  | 0x0001 => 32
  | 0x0002 => 8
  | 0x0003 => 32 + 16 * r.at 0 2
  | 0x0004 => 16
  | 0x0005 => 8
  | 0x0006 => 16
  | 0x0007 => 80
  | 0x0008 => 8
  | 0x0009 => 8 + 16 * r.at 0 2
  | 0x000A => 8 + 32 * r.at 0 2
  | 0x000B => 16648
  | 0x000C => 32
  | 0x000D => 16 + 2 * r.at 0 2
  | 0x000E => if r.id = 0 then 16 + 2 * r.at 5 1 else 32
  | 0x000F => 24
  | 0x0010 => 8
  | 0x0011 => 32
  | 0x0012 => 24
  | 0x0013 => if r.id = 64 then 1114624 else 16
  | 0x0014 => 8 + 24 * r.at 2 2
  | _ => 0

/-- Bytes of a record's layout that are reserved, as (offset, length). -/
def reservedBytes (r : Rec) : List (Nat × Nat) :=
  match r.type with
  | 0x0001 => [(10, 2), (24, 8)]
  | 0x0002 => [(5, 3)]
  | 0x0003 => [(2, 2), (20, 12)]
  | 0x0004 => [(14, 2)]
  | 0x0005 => [(1, 1)]
  | 0x0006 => [(3, 1), (7, 1)]
  | 0x0007 => [(74, 6)]
  | 0x0009 => (2, 6) :: (List.range (r.at 0 2)).flatMap (fun i => [(9 + 16 * i, 1), (12 + 16 * i, 4)])
  | 0x000A => (2, 6) :: (List.range (r.at 0 2)).flatMap (fun i => [(14 + 32 * i, 2), (32 + 32 * i, 8)])
  | 0x000B => (1, 7) :: ((List.range 16).map (fun i => if i < r.at 0 1 then (16 + 16 * i, 8) else (8 + 16 * i, 16)))
  | 0x000C => [(10, 6)]
  | 0x000E => if r.id = 0 then [(7, 1), (14, 2)] else []
  | 0x000F => [(13, 3), (17, 7)]
  | 0x0010 => [(6, 2)]
  | 0x0011 => [(25, 1), (28, 4)]
  | 0x0012 => [(5, 3)]
  | 0x0013 => if r.id = 64 then [] else [(10, 6)]
  | 0x0014 => (4, 4) :: (List.range (r.at 2 2)).map (fun i => (11 + 24 * i, 5))
  | _ => []

/-- R236: an offset of the payload lies between two fields of the layout. -/
def fieldEdge (r : Rec) (o : Nat) : Bool :=
  let any (l : List Nat) : Bool := l.contains o
  let entry (head size : Nat) (l : List Nat) : Bool := decide (head ≤ o) && l.contains ((o - head) % size)
  match r.type with
  | 0x0001 => any [0, 4, 8, 10, 12, 16, 20, 24, 32]
  | 0x0002 => any [0, 4, 5, 8]
  | 0x0003 => any [0, 2, 4, 8, 12, 16, 20] || entry 32 16 [0]
  | 0x0004 => any [0, 4, 8, 10, 11, 12, 14, 16]
  | 0x0005 => any [0, 1, 2, 4, 6, 8]
  | 0x0006 => any [0, 1, 2, 3, 4, 8, 12, 16]
  | 0x0007 => (decide (o ≤ 64) && o % 8 = 0) || (decide (64 ≤ o) && decide (o ≤ 74) && o % 2 = 0) || o = 80
  | 0x0008 => any [0, 1, 2, 4, 8]
  | 0x0009 => any [0, 2] || entry 8 16 [0, 1, 2, 4, 8, 12]
  | 0x000A => any [0, 2] || entry 8 32 [0, 2, 4, 5, 6, 8, 16, 24]
  | 0x000B => any [0, 1] || (decide (o < 264) && entry 8 16 [0, 2, 3, 4, 5, 6, 7, 8]) || entry 264 4 [0]
  | 0x000C => any [0, 1, 2, 3, 4, 5, 6, 8, 10, 16, 32]
  | 0x000D => any [0, 2, 4, 8, 9, 10, 11, 12, 14] || entry 16 2 [0]
  | 0x000E => if r.id = 0 then any [0, 2, 4, 5, 6, 7, 8, 12, 14] || entry 16 2 [0] else any [0, 1, 2, 3, 4, 8, 16, 24, 32]
  | 0x000F => any [0, 16, 17, 24]
  | 0x0010 => any [0, 2, 3, 4, 5, 6, 8]
  | 0x0011 => any [0, 1, 2, 3, 4, 6, 8, 16, 20, 22, 23, 24, 25, 26, 28, 32]
  | 0x0012 => any [0, 1, 2, 4, 5, 8, 16, 24]
  | 0x0013 => if r.id = 64 then any [0, 128, 256, 1048832, 1114624] else any [0, 1, 2, 4, 6, 7, 8, 9, 10, 16]
  | 0x0014 => any [0, 1, 2, 4] || entry 8 24 [0, 1, 2, 3, 8, 16]
  | _ => false

/-- Bytes of a record's payload are all zero. -/
def Rec.zero (r : Rec) (off n : Nat) : Bool := (slice r.body off n).all (fun b => b = 0)

/-- A list holds a value twice. -/
def hasRepeat : List Nat → Bool
  | [] => false
  | a :: l => l.contains a || hasRepeat l

/-- R340, R341: the ranges of a ROUTING record that check 7 tests; the entry of the module's own device is ignored. -/
def badRouting (dev : Nat) (r : Rec) : Bool :=
  let n := r.at 0 1
  let rings := ringsOf r.body
  n < 1 || 16 < n
  || rings.any (fun g => 7 < g.rank || g.length < 2 || 64 < g.length || g.length ≤ g.position || (g.length ≤ g.dateline && g.dateline ≠ 0xFF)
      || 15 < g.plus || 15 < g.minus || (g.plus = g.minus && g.length ≠ 2))
  || hasRepeat (rings.flatMap (fun g => if g.plus = g.minus then [g.plus] else [g.plus, g.minus]))
  || (List.range 4096).any (fun i =>
      let e := routeEntry r.body i
      i ≠ dev && (bits e 6 2 ≠ 0 || (bit e 4 && bits e 0 4 < 8)))

/-- R226 and the rules of the other layouts: a value of a record lies outside its range (check 7 of R231). -/
def badValue (dev : Nat) (r : Rec) : Bool :=
  match r.type with
  | 0x0002 => 1 < r.at 4 1
  | 0x0003 => r.at 0 2 < 1 || 4096 < r.at 0 2 || (List.range 4).any (fun i => 1 < r.at (4 + 4 * i) 1)
  | 0x0004 => r.at 0 4 % 64 ≠ 0 || r.at 4 4 % 64 ≠ 0 || r.at 8 2 < 1 || 4096 < r.at 8 2 || 31 < r.at 10 1 || r.at 11 1 < 1 || 3 < r.at 11 1
      || (r.at 11 1 = 1 && 512 ≤ r.at 12 2) || (r.at 11 1 = 2 && 4096 ≤ r.at 12 2) || (r.at 11 1 = 3 && 64 ≤ r.at 12 2)
  | 0x0005 => r.at 0 1 < 1 || 3 < r.at 0 1 || (List.range 3).any (fun i => if i < r.at 0 1 then 512 ≤ r.at (2 + 2 * i) 2 else r.at (2 + 2 * i) 2 ≠ 0)
  | 0x0006 => 2 < r.at 0 1 || (if r.at 0 1 = 0 then 7 < r.at 1 1 else r.at 1 1 ≠ 0) || 2 < r.at 2 1
  | 0x0008 => 3 < r.at 0 1 || 1 < r.at 1 1 || (r.id = 0 && (r.at 0 1 ≠ 0 || r.at 2 2 ≠ 0)) || (r.id = 255 && r.at 0 1 ≠ 3) || (r.id ≠ 0 && r.id ≠ 255 && (r.at 0 1 = 0 || r.at 0 1 = 3))
  | 0x0009 => 512 < r.at 0 2 || (budEntries r).any (fun e => 6 < e.1 || (resInstances e.1 ≤ e.2.1 && e.2.1 ≠ 0xFFFF))
      || hasRepeat ((budEntries r).map (fun e => e.1 * 2 ^ 16 + e.2.1))
  | 0x000A => 64 < r.at 0 2 || (List.range (r.at 0 2)).any (fun i =>
      r.at (10 + 32 * i) 2 < r.at (8 + 32 * i) 2 || 4095 < r.at (10 + 32 * i) 2 || 3 < r.at (12 + 32 * i) 1 || 7 < r.at (13 + 32 * i) 1 || r.at (24 + 32 * i) 8 = 0)
  | 0x000B => badRouting dev r
  | 0x000C => 2 < r.at 0 1 || 1 < r.at 1 1 || (r.at 1 1 = 1 && r.id < 12) || 63 < r.at 2 1 || 63 < r.at 3 1 || 15 < r.at 4 1 || 1 < r.at 5 1 || r.at 8 2 < r.at 6 2
  | 0x000D => r.at 0 2 < 1 || 4096 < r.at 0 2 || r.at 0 2 ≤ r.at 2 2 || r.at 4 4 = 0 || 1 < r.at 9 1 || 1 < r.at 10 1 || r.at 11 1 = 0 || 10000 < r.at 12 2
      || r.at 14 2 < 1 || 240 < r.at 14 2 || (let ds := (List.range (r.at 0 2)).map (grpDev r); ds.any (fun d => 4095 < d) || hasRepeat ds)
  | 0x000E =>
      if r.id = 0 then
        let g := r.at 5 1
        (4095 < r.at 0 2 && r.at 0 2 ≠ 0xFFFF) || (4095 < r.at 2 2 && r.at 2 2 ≠ 0xFFFF) || 3 < r.at 4 1 || (g ≠ 0 && (g < 8 || 64 < g)) || (g ≠ 0 && g ≤ r.at 6 1)
          || (g = 0 && r.at 6 1 ≠ 0) || 4095 < r.at 12 2 || (List.range g).any (fun i => 4095 < r.at (16 + 2 * i) 2)
      else
        2 < r.at 0 1 || 2 < r.at 1 1 || (if r.at 1 1 = 0 then 16 else 32) ≤ r.at 2 1 || r.at 8 8 % 4096 ≠ 0 || r.at 16 8 % 4096 ≠ 0 || r.at 24 8 % 4096 ≠ 0
          || (r.at 0 1 ≠ 1 && (r.at 4 4 ≠ 0 || r.at 24 8 ≠ 0))
  | 0x000F => 1 < r.at 16 1
  | 0x0011 =>
      let kind := r.at 3 1
      1 < r.at 0 1 || r.at 2 1 < 1 || 3 < r.at 2 1 || 3 < kind || (r.at 0 1 = 1 && kind ≠ 0 && kind ≠ 3) || 0 < r.at 23 1 / 32 || 0 < r.at 24 1 / 32
        || (r.at 0 1 = 0 && kind = 0 && 512 ≤ r.at 4 2) || (kind = 1 && 16 ≤ r.at 4 2) || (kind = 3 && 64 ≤ r.at 4 2)
        || (r.at 4 2 ≠ 0 && (kind = 2 || (r.at 0 1 = 1 && kind = 0))) || r.at 8 8 % 256 ≠ 0 || r.at 16 4 % 256 ≠ 0
        || (kind = 1 && (r.at 16 4 = 0 || r.at 20 2 = 0)) || 32 ≤ r.at 22 1
  | 0x0012 => (r.at 0 1 ≠ 0 && r.at 0 1 ≠ 1 && r.at 0 1 ≠ 2 && r.at 0 1 ≠ 4) || 3 < r.at 1 1
      || (if r.at 0 1 = 0 then 16 ≤ r.at 4 1 else if r.at 0 1 = 4 then r.at 4 1 ≠ 0 else 32 ≤ r.at 4 1)
  | 0x0013 =>
      if r.id = 64 then false
      else 1 < r.at 0 1 || 2 < r.at 1 1 || 4095 < r.at 2 2 || r.at 4 2 < 1 || 1024 < r.at 4 2
        || (if r.at 0 1 = 0 then r.at 6 1 < 1 || 128 < r.at 6 1 || r.at 7 1 < 2 || 4 < r.at 7 1 || 32 ≤ r.at 8 1 || 16 ≤ r.at 9 1 else !r.zero 6 4)
  | 0x0014 => 1 < r.at 0 1 || 32 < r.at 2 2 || (List.range (r.at 2 2)).any (fun i =>
      3 < r.at (8 + 24 * i) 1 || 3 < r.at (9 + 24 * i) 1
      || (let u := r.at (10 + 24 * i) 1
          if r.at (8 + 24 * i) 1 = 0 then 16 ≤ u else if r.at (8 + 24 * i) 1 = 3 then u ≠ 0 else 32 ≤ u))
  | _ => false

/-- Check 7 of one record: its id, its length, its reserved bytes and padding, its ranges. -/
def badRec (dev : Nat) (r : Rec) : Bool :=
  idLimit r.type ≤ r.id || r.body.length < layoutLen r || (reservedBytes r).any (fun p => !r.zero p.1 p.2)
  || !((r.body.drop (layoutLen r)).all (fun b => b = 0)) || badValue dev r

/-! ### The stream -/

/-- R224: cuts a body into records; the index at which its framing breaks, if it does. -/
def parseRecs : Nat → Nat → Bytes → List IRec × Option Nat
  | 0, i, _ => ([], some i)
  | fuel + 1, i, b =>
    if b.isEmpty then ([], none)
    else
      let len := fieldAt b 8 4
      if b.length < 16 || len < 16 || len % 8 ≠ 0 || b.length < len || fieldAt b 2 1 ≠ 1 || fieldAt b 3 1 ≠ 0 || fieldAt b 6 2 ≠ 0 || fieldAt b 12 4 ≠ 0
          || !typeKnown (fieldAt b 0 2) then ([], some i)
      else
        let x := parseRecs fuel (i + 1) (b.drop len)
        ((i, ⟨fieldAt b 0 2, fieldAt b 4 2, slice b 16 (len - 16)⟩) :: x.1, x.2)

/-- The records of a body. -/
def streamOf (b : Bytes) : List IRec × Option Nat := parseRecs (b.length / 16 + 1) 0 b

/-- Check 7 finds a record: BAD_FORMAT with the earliest index. -/
def badAt (l : List Nat) : Verdict := match l with
  | [] => none
  | a :: r => some (r.foldl min a, Code.badFormat)

/-- The records whose type and id an earlier record of the stream has. -/
def repeatsOf (c : List IRec) : List Nat :=
  (c.filter (fun x => c.any (fun y => decide (y.1 < x.1) && y.2.type = x.2.type && y.2.id = x.2.id))).map Prod.fst

/-- R412, R414: a tensor entry without a keeping head, or an ERASURE entry with g = 0. -/
def badKeeping (c : List IRec) : List Nat :=
  let k := recsIn c
  (c.filter (fun x => x.2.type = RT.keeping && x.2.id ≠ 0 && (!hasKeep k || (x.2.at 0 1 = 2 && keepG k = 0)))).map Prod.fst

/-- Check 7 of a base image (R231). -/
def check7Base (dev : Nat) (x : List IRec × Option Nat) : Verdict :=
  let c := x.1
  let k := recsIn c
  let bad := ((c.filter (fun r => r.2.type = RT.patch || badRec dev r.2)).map Prod.fst) ++ x.2.toList ++ repeatsOf c ++ badKeeping c
  let missing := (recsOf k RT.schedule).isEmpty || (recsOf k RT.memplan).isEmpty || (recsOf k RT.activity).isEmpty
  badAt (bad ++ (if missing then [noRec] else []))

/-! ### PATCH records -/

/-- An operation of a PATCH record (R235). -/
structure PatchOp where
  op : Nat
  type : Nat
  id : Nat
  off : Nat
  data : Bytes
deriving DecidableEq, Repr

/-- R235: the operations of a PATCH record; none where their framing breaks. -/
def patchOps : Nat → Bytes → Option (List PatchOp)
  | 0, _ => none
  | fuel + 1, b =>
    if b.isEmpty then some []
    else
      let n := fieldAt b 12 4
      let m := cdiv n 8 * 8
      if b.length < 16 + m || 3 < fieldAt b 0 1 || fieldAt b 1 1 ≠ 0 || fieldAt b 6 2 ≠ 0 || !((slice b (16 + n) (m - n)).all (fun x => x = 0)) then none
      else (patchOps fuel (b.drop (16 + m))).map (fun l => ⟨fieldAt b 0 1, fieldAt b 2 2, fieldAt b 4 2, fieldAt b 8 4, slice b 16 n⟩ :: l)

/-- The operations of a PATCH record's payload. -/
def opsOf (r : Rec) : Option (List PatchOp) := patchOps (r.body.length / 16 + 1) r.body

/-- The whole record that ADD_RECORD or REPLACE_RECORD carries; none where it is not one record of the target's type and id. -/
def PatchOp.record (o : PatchOp) : Option Rec :=
  match streamOf o.data with
  | ([x], none) => if x.2.type = o.type && x.2.id = o.id then some x.2 else none
  | _ => none

/-- R236: the bytes no overlay may change: the hub shares of MEMPLAN and SCHEDULE.budget_period. -/
def guarded (r : Rec) : Bytes := if r.type = RT.memplan then slice r.body 64 10 else if r.type = RT.schedule then slice r.body 8 2 else []

/-- Puts a record in the place of the one with its type and id; its index becomes that of the PATCH record. -/
def putRec (c : List IRec) (i : Nat) (r : Rec) : List IRec := c.map (fun x => if x.2.type = r.type && x.2.id = r.id then (i, r) else x)

/-- R236: one operation applied; none where it breaks a rule. -/
def patchOne (c : List IRec) (i : Nat) (o : PatchOp) : Option (List IRec) :=
  if o.type = RT.patch || !typeKnown o.type || (o.op ≠ 0 && o.off ≠ 0) then none
  else match o.op, findRec (recsIn c) o.type o.id with
  | 0, some r =>
    if o.off < 16 || r.body.length + 16 < o.off + o.data.length || !fieldEdge r (o.off - 16) || !fieldEdge r (o.off - 16 + o.data.length) then none
    else
      let n : Rec := { r with body := putBytes r.body (o.off - 16) o.data }
      if guarded n = guarded r then some (putRec c i n) else none
  | 1, some r => match o.record with
    | some n => if guarded n = guarded r then some (putRec c i n) else none
    | none => none
  | 2, none => o.record.map (fun n => c ++ [(i, n)])
  | 3, some _ => if o.type = RT.memplan || o.type = RT.schedule || !o.data.isEmpty then none else some (c.filter (fun x => !(x.2.type = o.type && x.2.id = o.id)))
  | _, _ => none

/-- The operations of one PATCH record applied in order. -/
def patchAll (c : List IRec) (i : Nat) (ops : List PatchOp) : Option (List IRec) :=
  ops.foldl (fun acc o => acc.bind (fun x => patchOne x i o)) (some c)

/-- The PATCH records of an overlay applied in stream order; the index of the first that breaks a rule otherwise. -/
def patchRecs (c : List IRec) : List IRec → Except Nat (List IRec)
  | [] => .ok c
  | p :: r => match (opsOf p.2).bind (patchAll c p.1) with
    | some x => patchRecs x r
    | none => .error p.1

/-- Check 7 of an overlay on a base image, and the configuration it makes. A record that the patches made must itself be well formed. -/
def check7Overlay (dev : Nat) (base : List Rec) (x : List IRec × Option Nat) : Verdict × List IRec :=
  let start : List IRec := base.map (fun r => (noRec, r))
  let bad := ((x.1.filter (fun r => r.2.type ≠ RT.patch || idLimit RT.patch ≤ r.2.id || (opsOf r.2).isNone)).map Prod.fst) ++ x.2.toList ++ repeatsOf x.1
  match patchRecs start (x.1.filter (fun r => r.2.type = RT.patch)) with
  | .ok c => (badAt (bad ++ (c.filter (fun r => r.1 ≠ noRec && badRec dev r.2)).map Prod.fst ++ (badKeeping c)), c)
  | .error i => (badAt (bad ++ [i]), start)

/-- R217, R231: the base image with the overlays of a set applied in ascending slot order; none where operations cannot all be applied. -/
def applySet (base : List Rec) (ov : Tab Overlay) (set : Nat) : Option (List Rec) :=
  ((maskList 16 set).foldl (fun (acc : Option (List IRec)) i => match acc, tget ov i with
    | some c, some o => (match patchRecs c ((o.recs).map (fun r => (noRec, r))) with
      | .ok x => some x
      | .error _ => none)
    | _, _ => none) (some (base.map (fun r => (noRec, r))))).map recsIn

end Machine
end Sys2Proof
end

