-- ==== Sys2Proof/Machine/ImgPrograms.lean ====
section
/-!
DEFINITION. Check 9 of R231: every PROGRAM record, its instructions (R120, R122, R124-R132), its bindings (R117) and the rules that follow
program flow (R122, R132, R139, R289, R379, R381); and the park bound P of R233.
-/
namespace Sys2Proof
namespace Machine

/-! ### Descriptor words (R122) -/

/-- Rows of a TDSET word. -/
def tdRows (w : Nat) : Nat := bits w 49 13
/-- Columns of a TDSET word. -/
def tdCols (w : Nat) : Nat := bits w 62 13
/-- Row stride of a TDSET word. -/
def tdStride (w : Nat) : Nat := bits w 75 24
/-- Format code of a TDSET word. -/
def tdFmt (w : Nat) : Nat := bits w 99 5
/-- The scaled bit of a TDSET word. -/
def tdScaled (w : Nat) : Bool := bit w 110
/-- The descriptor of the scale tensor. -/
def tdScale (w : Nat) : Nat := bits w 105 5
/-- Bytes from the first to past the last byte with elements of `b` bits. -/
def tdSpan (w b : Nat) : Nat := (tdRows w - 1) * tdStride w + cdiv (tdCols w * b) 8
/-- Bytes a descriptor's rows hold. -/
def tdBytes (w : Nat) : Nat := tdRows w * packedRow (tdFmt w) (tdCols w)
/-- A code of R80. -/
def isR80 (f : Nat) : Bool := (fmtOf f).isSome
/-- A block-scaled format code. -/
def isBlock (f : Nat) : Bool := 0x10 ≤ f && f ≤ 0x15

/-- The first byte past a descriptor's extent may not pass the end of the SRAM, or of the slot of its ring. -/
def tdFits (c : List Rec) (core w b : Nat) : Bool :=
  if bit w 21 then match ringCfg c (16 * core + bits w 22 4) with
    | some r => bits w 26 23 * 64 + tdSpan w b ≤ r.size
    | none => true
  else bits w 22 27 + tdSpan w b ≤ 2 ^ 27

/-- R139: a descriptor reaches banks 56-63 with elements of `b` bits. A ring lies below them. -/
def tdHigh (w b : Nat) : Bool := !bit w 21 && decide (7 * 2 ^ 24 < bits w 22 27 + tdSpan w b)

/-- A descriptor covers an operand of `r` rows and `k` columns in the operand's own order. -/
def tdCovers (w r k : Nat) : Bool := if bit w 104 then decide (k ≤ tdRows w) && decide (r ≤ tdCols w) else decide (r ≤ tdRows w) && decide (k ≤ tdCols w)

/-! ### One instruction on its own -/

/-- The fields of an opcode above the common ones, as (first bit, width); none for an unknown opcode. Bit 21 of BLD and BST, which stands in no row of R127's table,
counts as reserved (DEDUCED; assumption log 70). -/
def opFields : Nat → Option (List (Nat × Nat))
  | 0x00 => some []
  | 0x01 => some [(16, 95)]
  | 0x08 => some [(16, 5), (22, 34), (56, 24)]
  | 0x09 => some [(16, 5), (22, 34), (56, 24)]
  | 0x0A => some [(16, 5), (21, 4), (25, 48), (73, 24)]
  | 0x0B => some [(16, 5), (21, 4), (25, 48), (73, 24)]
  | 0x20 => some [(16, 60)]
  | 0x30 => some [(16, 30)]
  | 0x40 => some [(16, 5), (21, 4)]
  | 0x41 => some [(16, 4)]
  | 0x42 => some [(16, 5), (21, 12)]
  | 0x50 => some [(16, 15), (32, 64)]
  | 0x51 => some [(16, 13), (30, 1), (32, 64)]
  | 0x52 => some [(16, 15), (32, 64), (96, 5), (101, 4)]
  | 0x58 => some [(21, 22)]
  | 0x60 => some [(16, 38)]
  | 0x70 => some [(16, 5), (21, 1), (32, 32)]
  | 0x71 => some [(16, 5), (32, 32)]
  | 0x72 => some [(16, 5), (32, 32), (64, 12)]
  | 0x78 => some []
  | 0x79 => some []
  | 0x7C => some [(16, 36)]
  | 0x7D => some [(16, 12)]
  | 0x7E => some []
  | _ => none

/-- R120: an unknown opcode, a reserved bit, or cen on an instruction of the sequencer itself. -/
def badCommon (w : Nat) : Bool :=
  match opFields (wOp w) with
  | none => true
  | some l => ((0, 14) :: l).foldl (fun x p => setBits x p.1 p.2 0) w ≠ 0 || (wCen w && (wUnit w).isNone)

/-- R120, R122, R125, R129: a reserved code, or a descriptor that cannot be. -/
def badCodes (c : List Rec) (core w : Nat) : Bool :=
  match wOp w with
  | 0x01 => (tdFmt w ≠ 0x1F && !isR80 (tdFmt w)) || (tdScaled w ≠ isBlock (tdFmt w)) || (bit w 21 && (ringCfg c (16 * core + bits w 22 4)).isNone)
  | 0x20 => bits w 70 3 = 7 || bits w 73 2 = 3
  | 0x30 => bits w 44 2 = 3 || (bits w 44 2 = 2 && bits w 36 8 ≠ 0x15) || 0x16 ≤ bits w 36 8
  | 0x52 => 5 < bits w 101 4
  | 0x60 => 4 < bits w 22 4 || (bits w 22 4 ≤ 1 && !bit w 36 && (bits w 49 3 = 7 || bits w 52 2 = 3))
  | _ => false

/-- R66: a legal M, N or K. -/
def legalSize (n : Nat) : Bool := n % 16 = 0 && 16 ≤ n && n ≤ 4096

/-- R122, R66, R102: sizes of an instruction on its own. -/
def badSize (c : List Rec) (core w : Nat) : Bool :=
  match wOp w with
  | 0x01 => tdRows w < 1 || 4096 < tdRows w || tdCols w < 1 || 4096 < tdCols w || tdStride w % 64 ≠ 0 || tdStride w < packedRow (tdFmt w) (tdCols w)
      || (!bit w 21 && bits w 22 27 % 64 ≠ 0) || !tdFits c core w (fmtBits (tdFmt w))
  | 0x20 => !legalSize (bits w 31 13) || !legalSize (bits w 44 13) || !legalSize (bits w 57 13 * (if bit w 75 then 2 else 1))
  | _ => false

/-! ### Program flow -/

/-- The LOOPs of a program: index, end index, count (R132). -/
def loopsOf (ws : List Nat) : List (Nat × Nat × Nat) :=
  ((ws.zipIdx).filter (fun p => wOp p.1 = 0x7C)).map (fun p => (p.2, bits p.1 40 12, bits p.1 16 24))

/-- The indices that may follow an index; one at or past the count ends the path. -/
def nextOf (loops : List (Nat × Nat × Nat)) (w i : Nat) : List Nat :=
  let fall := (i + 1) :: ((loops.filter (fun l => l.2.1 = i && l.1 < i)).map (fun l => l.1 + 1))
  match wOp w with
  | 0x7E => []
  | 0x7D => [bits w 16 12]
  | 0x72 => bits w 64 12 :: fall
  | _ => fall

/-- A program's graph. -/
def graphOf (ws : List Nat) : List (List Nat) := let l := loopsOf ws; (ws.zipIdx).map (fun p => nextOf l p.1 p.2)

/-- Everything reachable along `next` from a work list; `fuel` bounds the visits. -/
def closure (next : Nat → List Nat) : Nat → List Nat → List Nat → List Nat
  | 0, _, seen => seen
  | _ + 1, [], seen => seen
  | fuel + 1, x :: r, seen => if seen.contains x then closure next fuel r seen else closure next fuel (next x ++ r) (x :: seen)

/-- The edges of a graph, as fuel for its closures. -/
def edgesOf (g : List (List Nat)) : Nat := (g.map List.length).sum

/-- A context of a program: its words, graph, predecessors, entry, reachable indices, core and activity. -/
structure Flow where
  core : Nat
  ctx : Nat
  act : Nat
  entry : Nat
  ws : List Nat
  g : List (List Nat)
  pre : List (List Nat)
  live : List Nat
deriving DecidableEq, Repr

/-- The successors of an index. -/
def Flow.next (f : Flow) (i : Nat) : List Nat := f.g.getD i []
/-- The word at an index. -/
def Flow.word (f : Flow) (i : Nat) : Nat := f.ws.getD i 0
/-- Indices reached from some, along edges, without entering those a test stops. -/
def Flow.reach (f : Flow) (stop : Nat → Bool) (from_ : List Nat) : List Nat :=
  closure (fun i => (f.next i).filter (fun j => !stop j)) (edgesOf f.g + from_.length + 1) (from_.filter (fun j => !stop j)) []

/-- The flows of a PROGRAM record: one for each bound context. -/
def flowsOf (r : Rec) : List Flow :=
  let ws := progWords r
  let g := graphOf ws
  let n := ws.length
  (indices 4 (fun i => (progCtx r i).1)).map (fun i =>
    let b := progCtx r i
    let live := (closure (fun j => g.getD j []) (edgesOf g + 2) [b.2.2] []).filter (fun j => j < n)
    let lv := (List.range n).map (fun j => live.contains j)
    let pre := (List.range n).map (fun j => (List.range n).filter (fun k => lv.getD k false && (g.getD k []).contains j))
    ⟨r.id, i, b.2.1, b.2.2, ws, g, pre, indices n (fun j => lv.getD j false)⟩)

/-- R122: the TDSET words of a descriptor that reach an index, and whether a path reaches it without one. -/
def Flow.defs (f : Flow) (i td : Nat) : List Nat × Bool :=
  let sets (j : Nat) : Bool := wOp (f.word j) = 0x01 && bits (f.word j) 16 5 = td
  let pre (j : Nat) : List Nat := f.pre.getD j []
  let v := closure (fun j => if sets j then [] else pre j) ((f.pre.map List.length).sum + (pre i).length + 1) (pre i) []
  (((v.filter sets).map f.word).eraseDups, i = f.entry || v.any (fun j => j = f.entry && !sets j))

/-- The words that reach an index for each descriptor it names. -/
def Flow.operands (f : Flow) (i : Nat) : List (List Nat) := (wTds (f.word i)).map (fun td => (f.defs i td).1)

/-- The descriptors an instruction names count only where the instruction reads them: a barrier names none. -/
def Flow.named (f : Flow) (i : Nat) : List Nat := if wOp (f.word i) = 0x60 && bits (f.word i) 22 4 = 4 then [] else wTds (f.word i)

/-- R122: an index names a descriptor, itself or as a scale, that is not set on every path to it. -/
def Flow.unset (f : Flow) (i : Nat) : Bool :=
  (f.named i).any (fun td =>
    let d := f.defs i td
    d.2 || d.1.any (fun w => tdScaled w && (f.defs i (tdScale w)).2))

/-! ### Extents against operands (R120) -/

/-- R81, R120: the scale tensors that reach an index cover an operand whose stored rows are `r` of `k` elements. -/
def Flow.scalesCover (f : Flow) (i w : Nat) (alongRow : Bool) (r k : Nat) : Bool :=
  !tdScaled w || (f.defs i (tdScale w)).1.all (fun s =>
    if alongRow then decide (r ≤ tdRows s) && decide (cdiv k 32 ≤ tdCols s) else decide (cdiv r 32 ≤ tdRows s) && decide (k ≤ tdCols s))

/-- R125: a source has the extents of D, or one row as wide. -/
def vopFits (d x : Nat) : Bool := tdCols x = tdCols d && (tdRows x = tdRows d || tdRows x = 1)

/-- R129: bytes of an atomic's operand. -/
def jatBytes (aop : Nat) : Nat := if aop = 1 || aop = 5 then 16 else 8

/-- R120, R125: an operand in a format the instruction does not take. -/
def Flow.badFormat (f : Flow) (i : Nat) : Bool :=
  let w := f.word i
  match wOp w, f.operands i with
  | 0x20, [a, b, _] => (a ++ b).any (fun d => !isR80 (tdFmt d))
  | 0x30, _ :: srcs => bits w 36 8 ≠ 8 && srcs.any (fun l => l.any (fun d => tdFmt d = 0x0A))
  | _, _ => false

/-- R120: a descriptor extent that fails to cover its operand, a block-scaled K that is no multiple of 32, or a copy past the slice. An offset
or stride of a copy that is no multiple of 64 gets the same code (R127; DEDUCED; assumption log 70). -/
def Flow.badExtent (f : Flow) (c : List Rec) (i : Nat) : Bool :=
  let w := f.word i
  let op := wOp w
  if op = 0x20 then
    match f.operands i with
    | [a, b, o] =>
      let x := if bit w 75 then 2 else 1
      let m := bits w 31 13
      let n := bits w 44 13
      let k := bits w 57 13 * x
      a.any (fun d => !tdCovers d m k || (tdScaled d && k % 32 ≠ 0) || !f.scalesCover i d (!bit d 104) (if bit d 104 then k else m) (if bit d 104 then m else k))
      || b.any (fun d => !tdCovers d k n || (tdScaled d && k % 32 ≠ 0) || !f.scalesCover i d (bit d 104) (if bit d 104 then n else k) (if bit d 104 then k else n))
      || o.any (fun d => !tdCovers d m (n * x) || !tdFits c f.core d (outBits (bits w 70 3)))
    | _ => false
  else if op = 0x30 then
    match f.operands i with
    | d :: srcs => srcs.any (fun l => l.any (fun x => !f.scalesCover i x true (tdRows x) (tdCols x) || d.any (fun y => !vopFits y x)))
    | [] => false
  else if op = 0x08 || op = 0x09 then
    match f.operands i with
    | [d] => d.any (fun x => bits w 22 34 % 64 ≠ 0 || bits w 56 24 % 64 ≠ 0 || 2 ^ 34 < bits w 22 34 + (tdRows x - 1) * bits w 56 24 + packedRow (tdFmt x) (tdCols x))
    | _ => false
  else if op = 0x0A || op = 0x0B then bits w 25 48 % 64 ≠ 0 || bits w 73 24 % 64 ≠ 0
  else if op = 0x60 && bits w 22 4 ≠ 4 then ((f.operands i).headD []).any (fun x => !f.scalesCover i x true (tdRows x) (tdCols x))
  else if op = 0x52 then
    match f.operands i with
    | s :: r => s.any (fun x => tdBytes x ≠ jatBytes (bits w 101 4)) || r.any (fun l => l.any (fun x => tdBytes x < (if bits w 101 4 = 1 then 16 else 8)))
    | [] => false
  else false

/-! ### Rules that follow the flow -/

/-- R132: loops whose bounds are wrong, or that nest deeper than four. -/
def badLoops (ws : List Nat) : Bool :=
  let l := loopsOf ws
  l.any (fun x => x.2.2 = 0 || x.2.1 ≤ x.1)
  || l.any (fun x => 4 < (l.filter (fun y => decide (y.1 ≤ x.1) && decide (x.1 ≤ y.2.1))).length)

/-- The bits of the elements that an instruction moves through each descriptor it names: C of an MMA in its output format. -/
def Flow.reaches (f : Flow) (i : Nat) : Bool :=
  let w := f.word i
  let high (td b : Nat) : Bool := (f.defs i td).1.any (fun d => tdHigh d (if b = 0 then fmtBits (tdFmt d) else b)
    || (tdScaled d && (f.defs i (tdScale d)).1.any (fun s => tdHigh s 8)))
  if wOp w = 0x20 then high (bits w 16 5) 0 || high (bits w 21 5) 0 || high (bits w 26 5) (outBits (bits w 70 3)) else (f.named i).any (fun td => high td 0)

/-- R139: the indices at which an MMA is outstanding: those reached from it before a WAIT on its counter that every path from it passes. -/
def Flow.outstanding (f : Flow) (i : Nat) : List Nat :=
  let n := f.ws.length
  let w := f.word i
  let waits := if wCen w then f.live.filter (fun j => wOp (f.word j) = 0x70 && bits (f.word j) 16 5 = wCcnt w) else []
  let exits (l : List Nat) : Bool := l.any (fun j => n ≤ j || wOp (f.word j) = 0x7E)
  let all := waits.filter (fun v => !exits (f.reach (fun j => j = v) (f.next i)))
  f.reach (fun j => all.contains j) (f.next i)

/-- R139: a breach by one context, or between contexts of the core. -/
def badBanks (fs : List Flow) : Bool :=
  fs.any (fun f =>
    let mmas := f.live.filter (fun i => wOp (f.word i) = 0x20)
    mmas.any (fun i => f.reaches i || (f.outstanding i).any (fun j => j < f.ws.length && j ≠ i && f.reaches j))
    || (!mmas.isEmpty && fs.any (fun g => g.ctx ≠ f.ctx && g.live.any (fun j => g.reaches j))))

/-- R289: a SOUT to a port that is unbound, an input, or bound to another activity. -/
def Flow.badSout (f : Flow) (c : List Rec) : Bool :=
  f.live.any (fun i => wOp (f.word i) = 0x42 && (match streamCfg c (bits (f.word i) 21 12) with
    | some p => !p.output || p.act ≠ f.act
    | none => true))

/-- R379: a COLL on a group that is not, of another activity, or native without the grants. -/
def Flow.badColl (f : Flow) (c : List Rec) : Bool :=
  f.live.any (fun i => wOp (f.word i) = 0x60 && (match findRec c RT.group (bits (f.word i) 16 6) with
    | some g => grpAct g ≠ f.act || (bit (f.word i) 36 && (!bit (g.at 10 1) 0 || !actNative c f.act))
    | none => true))

/-- R381: the descriptors of a COLL break the rules of its operation. -/
def collDescsBad (g : Rec) (w s d : Nat) : Bool :=
  let cop := bits w 22 4
  let e := tdRows s * tdCols s
  let o := tdRows d * tdCols d
  let n := grpAll g
  let native := bit w 36 && cop ≤ 1 && !((tdFmt s = 0 && tdFmt d = 0) || (tdFmt s = 9 && tdFmt d = 9))
  if cop = 0 then o ≠ e || native
  else if cop = 1 then e % (32 * n) ≠ 0 || o * n ≠ e || native
  else if cop = 2 then o ≠ n * e || tdFmt d ≠ tdFmt s
  else if cop = 3 then o ≠ e || tdFmt d ≠ tdFmt s
  else false

/-- R379, R381: some COLL of the context has such descriptors. -/
def Flow.badCollDescs (f : Flow) (c : List Rec) : Bool :=
  f.live.any (fun i => wOp (f.word i) = 0x60 && (match findRec c RT.group (bits (f.word i) 16 6), f.operands i with
    | some g, [s, d] => s.any (fun x => d.any (fun y => collDescsBad g (f.word i) x y))
    | _, _ => false))

/-- R231 check 9 on one PROGRAM record: the code of the first failure in the order of the check. -/
def programCode (c : List Rec) (r : Rec) : Nat :=
  let ws := progWords r
  let fs := flowsOf r
  let at_ (i : Nat) (p : Flow → Bool) : Bool := fs.any (fun f => f.live.contains i && p f)
  let one (p : Nat × Nat) : Nat :=
    if badCommon p.1 || badCodes c r.id p.1 || at_ p.2 (fun f => f.badFormat p.2) then Code.badFormat
    else if badSize c r.id p.1 || at_ p.2 (fun f => f.badExtent c p.2) then Code.outOfRange
    else 0
  match ((ws.zipIdx).map one).find? (fun x => x ≠ 0) with
  | some x => x
  | none =>
    let binding (i : Nat) : Nat :=
      let b := progCtx r i
      if !b.1 then 0 else if b.2.1 = 255 then Code.notPermitted else if progCount r ≤ b.2.2 then Code.outOfRange else 0
    match ((List.range 4).map binding).find? (fun x => x ≠ 0) with
    | some x => x
    | none => firstFail [(badLoops ws, Code.outOfRange), (fs.any (fun f => f.live.any f.unset), Code.outOfRange), (badBanks fs, Code.notPermitted),
        (fs.any (fun f => f.badSout c), Code.notPermitted), (fs.any (fun f => f.badColl c), Code.notPermitted), (fs.any (fun f => f.badCollDescs c), Code.badFormat)]

/-- Check 9 (R231). -/
def check9 (c : List IRec) : Verdict :=
  let k := recsIn c
  ((c.filter (fun x => x.2.type = RT.program)).map (fun x => (x.1, programCode k x.2))).find? (fun x => x.2 ≠ 0)

/-! ### The park bound (R233) -/

/-- Units of duration in a microsecond: one ACLK at 1.10 GHz is 20,000 and one byte at 2.0 TB/s is 11. -/
def perUs : Nat := 22000000

/-- The largest of a list. -/
def maxOf (l : List Nat) : Nat := l.foldl max 0

/-- R67, R100, R102: the passes of an MMA word on operands of two formats. -/
def mmaPasses (w fa fb : Nat) : Nat :=
  let cx := if bit w 75 then 2 else 1
  let cfg : MmaCfg := ⟨bits w 31 13, bits w 44 13, bits w 57 13 * cx, fa, fb, 0, 0, false, false⟩
  cx * cdiv cfg.n 256 * cdiv cfg.k (if fourBit cfg then 512 else 256) * (slicesOf fa).length * (slicesOf fb).length

/-- R69, R86, R90: the ACLK of an MMA and its pre-scan. -/
def mmaTime (w fa fb : Nat) : Nat :=
  let cx := if bit w 75 then 2 else 1
  let m := bits w 31 13
  let n := bits w 44 13
  let k := bits w 57 13 * cx
  let pair := fa = 0x09 || fa = 0x0A || fb = 0x09 || fb = 0x0A
  let f := mmaPasses w fa fb
  let rows := if pair && 2048 < m then List.replicate f 2048 ++ List.replicate f (m - 2048) else List.replicate f m
  arrayHold (rows.map (fun x => ⟨0, x, 0, 0⟩)) + cdiv (m * k) 8192 + cdiv (k * n) 8192 + 12

/-- R233: the duration of an instruction, zero for one of the sequencer itself. -/
def Flow.cost (f : Flow) (c : List Rec) (i : Nat) : Nat :=
  let w := f.word i
  let ops := f.operands i
  let big : Nat := maxOf ((ops.headD []).map tdBytes)
  let op := wOp w
  if op = 0x20 then
    match ops with
    | [a, b, _] => 20000 * maxOf (a.flatMap (fun x => b.map (fun y => mmaTime w (tdFmt x) (tdFmt y))))
    | _ => 0
  else if op = 0x30 then
    match ops with
    | d :: srcs =>
      let func := bits w 36 8
      let n := if func = 0x12 then maxOf ((srcs.headD []).map (fun x => tdRows x * tdCols x)) else maxOf (d.map (fun x => tdRows x * tdCols x))
      20000 * vopCycles func n ((srcs.map (fun l => maxOf (l.map tdBytes))).sum) big
    | [] => 0
  else if 0x08 ≤ op && op ≤ 0x0B then 11 * big
  else if op = 0x40 then 20000 * (cdiv big 512 + 2)
  else if (wUnit w).isSome then remoteBound c * perUs
  else 0

/-- R233: counters of a core that something other than a unit's completion raises: SIG, rings, far rings. -/
def touched (c : List Rec) (core : Nat) (ws : List Nat) (j : Nat) : Bool :=
  ws.any (fun w => wOp w = 0x71 && bits w 16 5 = j)
  || (recsOf c RT.ring).any (fun r => r.id / 16 = core && r.at 10 1 = j)
  || (recsOf c RT.stream).any (fun r => r.at 0 1 = 0 && r.at 3 1 = 1 && r.at 22 1 = core && (r.at 23 1 % 32 = j || r.at 24 1 % 32 = j))

/-- R233: a park opportunity of a context. -/
def Flow.park (f : Flow) (c : List Rec) (fs : List Flow) (i : Nat) : Bool :=
  let w := f.word i
  let j := bits w 16 5
  wOp w = 0x78 || wOp w = 0x79 || wOp w = 0x7E
  || (wOp w = 0x70 && !touched c f.core f.ws j
      && !(fs.any (fun g => g.ctx ≠ f.ctx && g.live.any (fun k =>
        let v := g.word k
        (wCen v && wCcnt v = j) || ((wOp v = 0x70 || wOp v = 0x72) && bits v 16 5 = j)))))

/-- One sweep of longest paths: the length of the longest path from each index before the next stop, later indices first. -/
def sweep (cost : Nat → Nat) (next : Nat → List Nat) (stop : Nat → Bool) (n : Nat) (old : List Nat) : List Nat :=
  (List.range n).foldr (fun i acc =>
    let val (j : Nat) : Nat := if n ≤ j || stop j then 0 else if i < j then acc.getD (j - i - 1) 0 else old.getD j 0
    (cost i + maxOf ((next i).map val)) :: acc) []

/-- Longest paths, if no cycle makes them unbounded: sweeps until nothing changes. -/
def longest (cost : Nat → Nat) (next : Nat → List Nat) (stop : Nat → Bool) (n : Nat) : Nat → List Nat → Option (List Nat)
  | 0, _ => none
  | fuel + 1, old =>
    let x := sweep cost next stop n old
    if x = old then some x else longest cost next stop n fuel x

/-- What a loop without a park opportunity becomes: its LOOP's duration and what follows it. -/
structure Fold where
  cost : Nat
  next : List Nat
deriving DecidableEq, Repr

/-- Control leaves the body of a loop that ends at `e` from index `i`: the end itself, or a folded loop inside that ends there too. -/
def leavesAt (loops : List (Nat × Nat × Nat)) (done : Tab Fold) (e i : Nat) : Bool :=
  i = e || ((tget done i).isSome && loops.any (fun l => l.1 = i && l.2.1 = e))

/-- Successors with the loops folded so far: their return edges are gone. -/
def foldNext (f : Flow) (loops : List (Nat × Nat × Nat)) (done : Tab Fold) (i : Nat) : List Nat :=
  ((match tget done i with
    | some x => x.next
    | none => f.next i)).filter (fun j => !(loops.any (fun l => (tget done l.1).isSome && j = l.1 + 1 && l.1 < i && leavesAt loops done l.2.1 i)))

/-- The duration of an index with the loops folded so far. -/
def foldCost (cost : List Nat) (done : Tab Fold) (i : Nat) : Nat :=
  match tget done i with
  | some x => x.cost
  | none => cost.getD i 0

/-- R233: folds the loops without a park opportunity, inner ones first (costs carry the visits below 2^128, so that a cycle of no duration still grows); none where a body is unbounded. -/
def foldLoops (f : Flow) (park : Nat → Bool) (cost : List Nat) (loops : List (Nat × Nat × Nat)) : List (Nat × Nat × Nat) → Tab Fold → Option (Tab Fold)
  | [], done => some done
  | l :: r, done =>
    let body := (List.range (l.2.1 - l.1)).map (fun i => l.1 + 1 + i)
    if body.any park then foldLoops f park cost loops r done
    else
      let n := f.ws.length
      let inside (j : Nat) : Bool := l.1 < j && j ≤ l.2.1
      let nx (i : Nat) : List Nat := if leavesAt loops done l.2.1 i then (foldNext f loops done i).filter (fun j => j ≠ l.1 + 1) else foldNext f loops done i
      match longest (foldCost cost done) nx (fun j => !inside j) n (n + 2) [] with
      | none => none
      | some v =>
        let out := (body.flatMap nx).filter (fun j => !inside j)
        foldLoops f park cost loops r (tset done l.1 ⟨cost.getD l.1 0 + l.2.2 * v.getD (l.1 + 1) 0, ((l.2.1 + 1) :: out).eraseDups⟩)

/-- R233: the longest span of a context plus its longest unit instruction, in units of `perUs`; none where a span is unbounded. The path from
the context's first instruction to its first point to park counts as a span (DESIGN CHOICE; assumption log 154). Visits count below 2^128: loops four deep never
reach it. -/
def Flow.bound (f : Flow) (c : List Rec) (fs : List Flow) : Option Nat :=
  let n := f.ws.length
  let real := (List.range n).map (fun i => if f.live.contains i then f.cost c i else 0)
  let cost := real.map (fun x => x * 2 ^ 128 + 1)
  let parks := (List.range n).map (fun i => f.park c fs i)
  let park (i : Nat) : Bool := parks.getD i false
  let loops := (loopsOf f.ws).filter (fun l => l.1 < l.2.1)
  match foldLoops f park cost loops loops.reverse [] with
  | none => none
  | some done =>
    let nx (i : Nat) : List Nat := if f.live.contains i then foldNext f loops done i else []
    match longest (foldCost cost done) nx park n (n + 2) [] with
    | none => none
    | some v =>
      let starts := f.entry :: (f.live.filter park).flatMap f.next
      some (maxOf ((starts.filter (fun j => j < n && !park j)).map (fun j => v.getD j 0)) / 2 ^ 128 + maxOf real)

/-- R233: P of a configuration in units of `perUs`; none where it is unbounded. -/
def parkBound (c : List Rec) : Option Nat :=
  ((recsOf c RT.program).flatMap (fun r => let fs := flowsOf r; fs.map (fun f => f.bound c fs))).foldl
    (fun acc x => match acc, x with
      | some a, some b => some (max a b)
      | _, _ => none) (some 0)

end Machine
end Sys2Proof
end

