-- ==== Sys2Proof/Machine/Setup.lean ====
section
/-!
DEFINITION. Putting a configuration in force (R204, R217, R241, R242): domains, programs, rings, tables and everything the registers show of it.
-/
namespace Sys2Proof
namespace Machine

/-- A record of a type and id differs between two configurations. -/
def recChanged (old new : List Rec) (t i : Nat) : Bool := findRec old t i ≠ findRec new t i

/-- Some record of a type differs between two configurations. -/
def typeChanged (old new : List Rec) (t : Nat) : Bool := recsOf old t ≠ recsOf new t

/-! ### Domains -/

/-- R204: the contents of a domain are lost: its bytes are free values again. -/
def State.wipeDomain (s : State) (i : Nat) : State :=
  if s.domSize i = 0 then s
  else
    let ks := s.domStacks i
    let lo := s.fg (R.FMC_DOM_CFG i) F.FMC_DOM_CFG_row_base
    let hi := lo + s.fg (R.FMC_DOM_CFG i) F.FMC_DOM_CFG_rows
    let gone (c : Host.Cell) : Bool :=
      decide (c.1 < 2 ^ 45) && (let g := s.cellGranule c.1; ks.contains g.1 && decide (lo ≤ g.2.2) && decide (g.2.2 < hi))
    { s with far := s.far.filter (fun c => !gone c), tiers := { s.tiers with keyEpoch := s.tiers.keyEpoch + 1 } }

/-- The dies that are fenced, as a mask (R551). -/
def State.fencedMask (s : State) : Nat := maskOf (indices 8 (fun d => !s.dieUp d))

/-- R551: the dies that a package-wide or keep domain excludes, of those fenced when its record was checked. -/
def narrowed (kind fenced : Nat) : Nat := if kind = 0 then 0 else fenced

/-- R169, R170, R551: a DOMAIN record shows in its registers; `fenced` are the dies that were fenced when it was checked. -/
def State.showDomain (s : State) (fenced i : Nat) (r : Rec) : State :=
  let kind := r.at 0 1
  s.wr (R.FMC_DOM_CFG i) (BitVec.ofNat 64 (1 + kind % 4 * 2 + r.at 1 1 % 8 * 8 + r.at 8 4 % 2 ^ 24 * 2 ^ 6 + r.at 12 4 % 2 ^ 24 * 2 ^ 30 + narrowed kind fenced * 2 ^ 54))
  |>.wr (R.FMC_DOM_KEY i) (BitVec.ofNat 64 (r.at 4 4 % 2 ^ 24 + r.at 2 1 % 4 * 2 ^ 24))

/-- R242, R551: a change gives a domain another record, or names its record again while other dies are fenced than its span excludes. -/
def State.domainMoves (s : State) (old new : List Rec) (named : Bool) (fenced i : Nat) : Bool :=
  recChanged old new RT.domain i || (named && match findRec new RT.domain i with
    | some r => narrowed (r.at 0 1) fenced ≠ s.fg (R.FMC_DOM_CFG i) F.FMC_DOM_CFG_narrow
    | none => false)

/-- R204, R242, R449: a domain that changes loses its contents; a keep domain's loss is told to the ward, and parity must be rebuilt. -/
def State.setupDomain (s : State) (old new : List Rec) (named : Bool) (fenced i : Nat) : State :=
  if !s.domainMoves old new named fenced i then s
  else
    let keep := s.keepDom = some i
    let t := s.wipeDomain i
    let u := match findRec new RT.domain i with
      | some r => (t.showDomain fenced i r).wipeDomain i
      | none => (t.resetReg (R.FMC_DOM_CFG i)).resetReg (R.FMC_DOM_KEY i)
    if keep then
      let v := u.sendResync
      if keepG s.img.cfg ≠ 0 && keepG new ≠ 0 && s.eruPresent then v.parityResync else v
    else u

/-! ### Programs and rings -/

/-- R117, R242: a context that nothing binds is IDLE, and shows no activity. -/
def State.unbindCtx (s : State) (x : Nat) : State :=
  ((s.modCtx x (fun c => { c with bound := false, loops := [], atStep := false })).setCtx x 0).fs (ctxReg x) F.SEQ_CTX_STATUS_activity 0

/-- R242: a context of a core whose program is new: bound to its entry index, with nothing of the old one left but its descriptors. -/
def State.setupCtx (s : State) (new : List Rec) (core i : Nat) : State :=
  let x := 4 * core + i
  let t := s.dropQueued x
  match findRec new RT.program core with
  | some r =>
    let b := progCtx r i
    if b.1 then
      let u := (t.modCtx x (fun c => { c with bound := true, entry := b.2.2, loops := [], atStep := false })).fs (ctxReg x) F.SEQ_CTX_STATUS_activity b.2.1
      let st := s.ctxState x
      if st = 1 || st = 2 || st = 3 then u.fs (ctxReg x) F.SEQ_CTX_STATUS_pc b.2.2
      else if b.2.1 = 0 && st = 0 then u.startCtx x else u
    else t.unbindCtx x
  | none => t.unbindCtx x

/-- R241 step 4, R242: a core whose PROGRAM record a change gives another value, or names again. -/
def State.setupCore (s : State) (old new : List Rec) (named : Bool) (core : Nat) : State :=
  if !(recChanged old new RT.program core || named) then s
  else
    let w := match findRec new RT.program core with
      | some r => progWords r
      | none => []
    (List.range 4).foldl (fun (t : State) i => t.setupCtx new core i) { s with seq := { s.seq with imem := tset s.seq.imem core w } }

/-- R143, R242: a ring whose record changes starts empty. -/
def State.setupRing (s : State) (old new : List Rec) (id : Nat) : State :=
  if !recChanged old new RT.ring id then s
  else
    let t : State := { s with seq := { s.seq with ring := tdel s.seq.ring id, slotFull := tdel s.seq.slotFull id } }
    match ringCfg new id with
    | some c => t.wr (ringReg id) (BitVec.ofNat 64 (c.slots % 2 ^ 13 * 2 ^ 13 + 2 ^ 26 + c.kind % 4 * 2 ^ 27))
    | none => t.resetReg (ringReg id)

/-- R285: a port whose STREAM record changes has its far ring empty, every slot free. -/
def State.setupStream (s : State) (old new : List Rec) (n : Nat) : State :=
  if !recChanged old new RT.stream n then s
  else { s with host := { s.host with farRing := tdel s.host.farRing n, farFree := tdel s.host.farFree n } }

/-! ### Tables -/

/-- R257, R274: what ACT_STATEa shows of a configuration; an activity that appears is IDLE, 0 and 255 are RUNNING. -/
def State.setupAct (s : State) (new : List Rec) (a : Nat) : State :=
  if actExists new a then
    let st := if a = 0 || a = 255 then 2 else if s.actState a = 0 then 1 else s.actState a
    let k := R.ACT_STATE a
    (((s.fs k F.ACT_STATE_state st).fs k F.ACT_STATE_kind (actKind new a)).fs k F.ACT_STATE_native_ok (b2n (actNative new a))).fs k F.ACT_STATE_job_key_id (actKey new a)
  else s.resetReg (R.ACT_STATE a)

/-- R112: what the SGU's registers show. -/
def State.setupSgu (s : State) (new : List Rec) : State :=
  let t := (s.fs R.SGU_STATUS F.SGU_STATUS_channels ((recsOf new RT.signal).filter (fun r => r.id < 64)).length).fs R.SGU_STATUS F.SGU_STATUS_tables (b2n (findRec new RT.signal 64).isSome)
  (List.range 64).foldl (fun (u : State) c =>
    let k := R.SGU_CH c
    match findRec new RT.signal c with
    | some r => (((u.fs k F.SGU_CH_defined 1).fs k F.SGU_CH_mode (r.at 0 1)).fs k F.SGU_CH_law (r.at 1 1)).fs k F.SGU_CH_slots (r.at 4 2)
    | none => u.resetReg k) t

/-- R435, R455: the erasure group of a configuration shows; a lost position that gets another device is replaced, and a group of another size starts unharmed. -/
def State.setupGroup (s : State) (old new : List Rec) : State :=
  if !s.eruPresent then s
  else
    let x := (s.fs R.ERU_STATUS F.ERU_STATUS_g (keepG new)).fs R.ERU_STATUS F.ERU_STATUS_pos (keepPos new)
    let members (c : List Rec) : List Nat := (List.range (keepG c)).map (keepMember c)
    let lost := if keepG old = keepG new then s.eru.lost.filter (fun i => keepMember old i = keepMember new i) else []
    if members old = members new then x
    else State.fs { x with eru := { x.eru with lost := lost, rolled := [], asked := [] } } R.ERU_STATUS F.ERU_STATUS_degraded (b2n (!lost.isEmpty))

/-- R444, R446: a surviving member cannot go back to a snapshot: the job stops with RIPENING reported. -/
def State.recoverNone (s : State) : State :=
  let d := leBytes 2 s.device
  (s.log Code.ripening 2 0 d).emit (.report Code.ripening d)

/-- R432: the first bytes of the pages of the Muslin set, and for the SEAL behind them the byte past it. -/
def muslinWant (c : List Rec) : List Nat := (List.range (muslinSize c / 4096)).map (4096 * ·) ++ [muslinSize c]

/-- R443, R444: a frame of this module's copies is asked for. -/
def State.askFrame (s : State) (f : Nat) : State :=
  let stride := muslinSize s.img.cfg + recArea s.img.cfg
  s.sendKeep (keepPartner s.img.cfg) KKind.fetch (f * stride) 0xF3 0 false (leBytes 8 stride ++ zeros 8)

/-- R444 step 4, R446: a member whose job is stopped learns that a lost one is replaced: it will go back to one of its two sealed snapshots. No message names the target to it,
so which one is a free value (DESIGN CHOICE; assumption log 34). A version newer than its target is replaced by the pages of its partner's frame. -/
def State.recoverBegin (s : State) : State :=
  let sealed := [s.fg R.KPU_SEAL F.KPU_SEAL_sealed, s.fg R.KPU_SEAL F.KPU_SEAL_sealed_prev]
  let l := s.kpu.recs.filter (fun r => sealed.contains (r.n % 2 ^ 32))
  let f := s.free
  match l.drop (f.1 % max 1 l.length) with
  | [] => f.2.recoverNone
  | r :: _ =>
    if s.kpu.last = some r.n then { f.2 with kpu := { f.2.kpu with recover := some ⟨r.n, [], false⟩ } }
    else if s.paired && s.kpu.held.contains r.n then State.askFrame { f.2 with kpu := { f.2.kpu with recover := some ⟨r.n, muslinWant s.img.cfg, false⟩ } } (r.n % 2)
    else f.2.recoverNone

/-- R444 steps 2 and 5: a change replaces a lost member of the group while the job is stopped here. -/
def State.lostReplaced (s : State) (old new : List Rec) : Bool :=
  keepG old = keepG new && s.eru.lost.any (fun i => keepMember old i ≠ keepMember new i)
  && (actList new).any (fun a => s.actState a = 3) && (actList new).all (fun a => a = 0 || a = 255 || s.actState a ≠ 2)

/-- R430, R433: a ward that the configuration no longer names is dropped, and a newly named one is asked to stream its set. -/
def State.setupWard (s : State) (old new : List Rec) : State :=
  let v := match s.kpu.ward with
    | some w => if w.dev = keepWard new then s else State.fs { s with kpu := { s.kpu with ward := none } } R.KPU_STATUS F.KPU_STATUS_ward_paired 0
    | none => s
  if keepWard old = keepWard new || keepWard new = 0xFFFF || v.inTest then v else v.sendKeep (keepWard new) KKind.resync 0 0xF1 0 false []

/-- R430, R433, R451-R455: role and position; a new partner is asked to pair, a new ward is told that no copies
of it are held here, and copies of a module that is no longer the ward are dropped. -/
def State.setupKeep (s : State) (old new : List Rec) : State :=
  let role := if !hasKeep new then 0 else if bit (keepAt new 4 1) 1 then 2 else 1
  let t := (s.fs R.KPU_STATUS F.KPU_STATUS_role role).fs R.KPU_STATUS F.KPU_STATUS_feed_override (b2n (bit (keepAt new 4 1) 0))
  let t := if role = 2 then t else State.fs { t with kpu := { t.kpu with ripen := none } } R.KPU_STATUS F.KPU_STATUS_spare_state 0
  let t := if role = 1 && s.lostReplaced old new then t.recoverBegin else t
  let v := (t.setupGroup old new).setupWard old new
  if keepPartner old = keepPartner new then v
  else
    let x := State.setPair { v with kpu := { v.kpu with held := [], lostAt := none } } 0
    if x.inTest then x else x.sendPair

/-- R507: a LIMITS record that takes effect writes its cap. -/
def State.setupLimits (s : State) (old new : List Rec) : State :=
  match findRec new RT.limits 0 with
  | some r => if recChanged old new RT.limits 0 then s.fs R.PWR_CAP F.PWR_CAP_cap (r.at 0 2) else s
  | none => s

/-- R236: the records, by type and id, that the overlays of a set name which are not in force. -/
def State.names (s : State) (set t i : Nat) : Bool :=
  (maskList 16 set).any (fun k => !bit (2 * s.fg R.IMG_ACTIVE F.IMG_ACTIVE_in_force) k && (match tget s.img.overlays k with
    | some o => o.recs.any (fun p => ((opsOf p).getD []).any (fun q => q.type = t && q.id = i))
    | none => false))

/-- R241 steps 3 and 4: a configuration comes into force, with the records that its overlays name (R236) and the dies that were fenced when it was checked (R551); calls of
groups whose record it alters abort (R403), and ports whose credit rises signal it (R299). -/
def State.install (s : State) (new : List Rec) (named : Nat → Nat → Bool) (fenced : Nat) : State :=
  let old := s.img.cfg
  let s0 := (List.range 16).foldl (fun (t : State) i => t.setupDomain old new (named RT.domain i) fenced i) (s.abortCalls (fun r => recChanged old new RT.group r.id) Code.notPermitted)
  let s1 : State := { s0 with img := { s0.img with cfg := new } }
  let s2 := (List.range 256).foldl (fun (t : State) a => t.setupAct new a) s1
  let s3 := (List.range 512).foldl (fun (t : State) i => t.setupRing old new i) s2
  let ports := ((recsOf old RT.stream ++ recsOf new RT.stream).map (fun (r : Rec) => r.id)).eraseDups
  let s4 := ports.foldl (fun (t : State) n => t.setupStream old new n) s3
  let s5 := (List.range 32).foldl (fun (t : State) c => t.setupCore old new (named RT.program c) c) s4
  let s6 := ((((s5.fs R.BUD_STATUS F.BUD_STATUS_period (budgetPeriod new)).fs R.CLE_STATUS F.CLE_STATUS_slot_capacity (cleCapacity (budgetPeriod new))).showGroups).setupSgu new).setupKeep old new
  let s7 := s6.setupLimits old new
  let s8 := (List.range 256).foldl (fun (t : State) a => if (boundCtxs old a ++ boundCtxs new a).isEmpty then t else t.actSettle a) s7
  s.streamNotify ((List.range 16).foldl (fun (t : State) p => if recChanged old new RT.wiring p then t.spConfigure p else t) s8)

/-! ### A die reloaded (R203) -/

/-- R203 steps 4 and 5: the die's records are written again; contexts of activity 0 start, the others are IDLE. -/
def State.reloadDie (s : State) (d : Nat) : State :=
  let c := s.img.cfg
  let t := (List.range 4).foldl (fun (u : State) k =>
    let core := 4 * d + k
    let w := match findRec c RT.program core with
      | some r => progWords r
      | none => []
    let v : State := { u with seq := { u.seq with imem := tset u.seq.imem core w } }
    (List.range 4).foldl (fun (x : State) i => ((x.dropQueued (4 * core + i)).setCtx (4 * core + i) 0).setupCtx c core i) v) s
  (List.range 64).foldl (fun (u : State) i => u.setupRing [] c (64 * d + i)) t

/-- Applies a change for each Hauno core. -/
def State.eachHauno (s : State) (f : State → Nat → State) : State := (List.range 16).foldl f s

/-- R485: a pause begins or ends. -/
def State.haunoPause (s : State) (on : Bool) : State :=
  s.eachHauno (fun (t : State) h =>
    let u := t.fs (R.HLC_STEP h) F.HLC_STEP_paused (b2n on)
    if on then u else u.haunoEvent h F.HLC_IRQ_pause_end 1)

/-! ### How a pause begins (R135, R148, R241, R419) -/

/-- R134, R135: contexts that waited at a STEP go on, or park where a pause begins; so do contexts blocked elsewhere. -/
def State.passContexts (s : State) (pause : Bool) : State :=
  (List.range 128).foldl (fun (t : State) x =>
    let atStep := (t.ctx x).atStep
    let u := if atStep then t.modCtx x (fun c => { c with atStep := false }) else t
    if u.ctxState x = 2 then (if pause then u.setCtx x 3 else if atStep then u.setCtx x 1 else u) else u) s

/-- R135: a context counts as parked. -/
def State.ctxParked (s : State) (x : Nat) : Bool := s.ctxState x = 0 || s.ctxState x = 3 || s.ctxState x = 4 || s.testHeld x

/-- R403: a COLL whose call is held counts as completed. -/
def State.collParked (s : State) (core : Nat) : Bool := match s.running core 6 with
  | some q => q.waitFor ≠ 0 && s.grpHeld (bits q.word 16 6)
  | none => true

/-- R135: a core is parked: its contexts are, and no started instruction is left. Cores out of service count as parked. -/
def State.corePark (s : State) (core : Nat) : Bool :=
  s.coreDead core || !s.dieUp (core / 4)
  || ((List.range 4).all (fun k => s.ctxParked (4 * core + k)) && (List.range 6).all (fun u => (s.running core u).isNone) && s.collParked core)

/-- R135, R148, R177, R264, R403: a pause is asked for: contexts that are blocked or held park at once, calls are held between steps, and arrays held by a gate run on. -/
def State.askPause (s : State) (p : Pause) : State :=
  let t := (List.range 32).foldl (fun (u : State) c => if u.dieUp (c / 4) && !u.coreDead c then u.fs (R.SEQ_STATUS (c / 4) (c % 4)) F.SEQ_STATUS_snapshot_pending 1 else u) s
  let canaries := if p.snapshot || p.maint then (List.range 32).filter (fun c => t.fb (R.ARR_STATUS (c / 4) (c % 4)) F.ARR_STATUS_canary_pending) else []
  let t : State := { t with pause := some { p with canaries := canaries, asked := s.rack, retires := s.copied } }
  let t := (List.range 128).foldl (fun (u : State) x => if u.testHeld x && (u.ctxState x = 1 || u.ctxState x = 2) then u.setCtx x 3 else u) t
  let t := ((t.passContexts true).haunoPause true).cleHold
  let t := (List.range 32).foldl (fun (u : State) c =>
    if u.fg (R.ARR_STATUS (c / 4) (c % 4)) F.ARR_STATUS_state = 2 then u.fs (R.ARR_STATUS (c / 4) (c % 4)) F.ARR_STATUS_state 1 else u) t
  if (p.snapshot || p.maint) && !t.inTest then t.setState MState.snapshot else t

end Machine
end Sys2Proof
end

