-- ==== Sys2Proof/Machine/Loader.lean ====
section
/-!
DEFINITION. The image loader's checks 8 and 10 to 15 of R231 on a configuration, T_snap (R421), and what check runs judge.
-/
namespace Sys2Proof
namespace Machine

/-- A rule of a check: the earliest failing record with a code. -/
def ruleAt (code : Nat) (l : List Nat) : Verdict := match l with
  | [] => none
  | a :: r => some (r.foldl min a, code)

/-- R231: within a check the first failing rule decides the code; the record is the first at which the check fails. -/
def checkOf (rules : List Verdict) : Verdict :=
  match rules.filterMap id with
  | [] => none
  | x :: r => some (r.foldl (fun m y => min m y.1) x.1, x.2)

/-- Indices of the records of a type that satisfy a test. -/
def failing (c : List IRec) (t : Nat) (p : Rec → Bool) : List Nat := (c.filter (fun x => x.2.type = t && p x.2)).map Prod.fst

/-- Indices of the records of a type that fail against an earlier record of the same type. -/
def clashing (c : List IRec) (t : Nat) (p : Rec → Rec → Bool) : List Nat :=
  let l := c.filter (fun x => x.2.type = t)
  ((l.zipIdx).filter (fun x => (l.take x.2).any (fun y => p y.2 x.1.2))).map (fun x => x.1.1)

/-- The state with a candidate configuration and its domain registers as R551 fixes them now: what the loader's checks look at. A record with an index is named by the image. -/
def State.candidate (s : State) (c : List IRec) : State :=
  let k := recsIn c
  let t := (List.range 16).foldl (fun (u : State) i =>
    if s.domainMoves s.img.cfg k (c.any (fun x => x.1 ≠ noRec && x.2.type = RT.domain && x.2.id = i)) s.fencedMask i then match findRec k RT.domain i with
      | some r => u.showDomain s.fencedMask i r
      | none => (u.resetReg (R.FMC_DOM_CFG i)).resetReg (R.FMC_DOM_KEY i)
    else u) s
  { t with img := { t.img with cfg := k } }

/-! ### Check 8: units present and working -/

/-- A core is on a fenced die. -/
def State.coreFenced (s : State) (core : Nat) : Bool := core < 32 && !s.dieUp (core / 4)

/-- The die of a crossbar instance's hub link, or of a die-direct Selvage port's instance (R258); none for the ports of the hub. -/
def portDie (res inst : Nat) : Option Nat :=
  if res = 4 && inst < 64 then some (inst / 8) else if res = 5 && inst < 8 then some inst else none

/-- The dies whose port or core an entry of a BUDGET record names (R258, R260). -/
def budgetDies (r : Rec) : List Nat :=
  (budEntries r).filterMap (fun e => if e.1 ≤ 2 && e.2.1 < 32 then some (e.2.1 / 4) else portDie e.1 e.2.1)

/-- The dies whose port SPd a ROUTING record names: in its rings, or in an entry that is valid (R340). -/
def routingDies (r : Rec) : List Nat :=
  let m := (List.range 4096).foldl (fun t n => let e := routeEntry r.body n; if bit e 4 then t ||| bits e 8 8 ||| bits e 24 8 ||| (if bits e 0 4 < 8 then 2 ^ bits e 0 4 else 0) else t) 0
  maskList 8 m ++ ((ringsOf r.body).flatMap (fun g => [g.plus, g.minus])).filter (fun p => p < 8)

/-- The cores a record names, and the ports of dies by a core of the die. -/
def namedCores (r : Rec) : List Nat :=
  match r.type with
  | 0x0002 => maskList 32 (r.at 0 4)
  | 0x0003 => [r.id]
  | 0x0004 => r.id / 16 :: (if r.at 11 1 = 1 then [r.at 12 2 / 16] else [])
  | 0x0005 => (r.id / 16) :: (routeDests r).map (· / 16)
  | 0x0009 => (budgetDies r).map (4 * ·)
  | 0x000B => (routingDies r).map (4 * ·)
  | 0x000C => if r.id < 8 then [4 * r.id] else []
  | 0x000D => maskList 32 (r.at 4 4)
  | 0x000E => if r.id ≠ 0 && r.at 1 1 ≠ 0 then [r.at 2 1] else []
  | 0x0011 => if r.at 0 1 = 1 then [] else if r.at 3 1 = 0 then [r.at 4 2 / 16] else if r.at 3 1 = 1 then [r.at 22 1] else []
  | 0x0012 => if r.at 0 1 = 1 || r.at 0 1 = 2 then [r.at 4 1] else []
  | 0x0013 => if r.id < 64 && r.at 0 1 = 0 then [r.at 8 1] else []
  | 0x0014 => ((List.range (r.at 2 2)).filter (fun i => r.at (8 + 24 * i) 1 = 1 || r.at (8 + 24 * i) 1 = 2)).map (fun i => r.at (10 + 24 * i) 1)
  | _ => []

/-- R10: a record needs a unit the part lacks. -/
def State.needsAbsent (s : State) (r : Rec) : Bool :=
  match r.type with
  | 0x0004 => r.at 11 1 = 3 && !s.sguPresent
  | 0x0007 => (!s.eruPresent && (r.at 40 8 ≠ 0 || r.at 70 2 ≠ 0)) || (!s.sguPresent && r.at 72 2 ≠ 0)
  | 0x000C => r.at 1 1 = 1 && !s.longReach
  | 0x000E => !s.eruPresent && (if r.id = 0 then r.at 5 1 ≠ 0 else r.at 0 1 = 2)
  | 0x0011 => r.at 3 1 = 3 && !s.sguPresent
  | 0x0013 => !s.sguPresent
  | _ => false

/-- R204, R551: a domain of the candidate spans a stack of a fenced die. -/
def State.domFenced (t : State) (i : Nat) : Bool :=
  if t.fg (R.FMC_DOM_CFG i) F.FMC_DOM_CFG_kind = 0 then !t.dieUp (t.fg (R.FMC_DOM_CFG i) F.FMC_DOM_CFG_die)
  else (t.domStacks i).any (fun k => !t.dieUp (k / 3))

/-- Check 8. -/
def check8 (t : State) (c : List IRec) : Verdict :=
  ruleAt Code.absentUnit ((c.filter (fun x => t.needsAbsent x.2 || (namedCores x.2).any t.coreFenced
    || (x.2.type = RT.engine && (namedCores x.2).any t.coreDead) || (x.2.type = RT.domain && t.domFenced x.2.id))).map Prod.fst)

/-! ### Check 10: memory -/

/-- Two half-open byte ranges overlap; an empty one never does. -/
def clash (a b : Nat × Nat) : Bool := decide (0 < a.2) && decide (0 < b.2) && decide (a.1 < b.1 + b.2) && decide (b.1 < a.1 + a.2)

/-- R111: bytes of a feature frame. -/
def featureBytes (bands out : Nat) : Nat := 64 + cdiv (2 * bands * outBits out / 8) 64 * 64

/-- Bytes of a unit: space 0 far domain, 1 bonded slice, 2 SRAM, 3 stream ports, 4 hub SRAM below the loader reserve (R226). -/
def State.unitSize (t : State) (space unit : Nat) : Nat :=
  match space with
  | 0 => t.domSize unit
  | 1 => 2 ^ 34
  | 2 => 2 ^ 27
  | 3 => 4096
  | _ => 15 * 2 ^ 24

/-- The ranges of a HAUNO record: space, unit, offset, length (R484). -/
def haunoRanges (r : Rec) : List (Nat × Nat × Nat × Nat) :=
  (List.range (r.at 2 2)).map (fun i => (r.at (8 + 24 * i) 1, r.at (10 + 24 * i) 1, r.at (16 + 24 * i) 8, r.at (24 + 24 * i) 8))

/-- The tensors and staging copies of the keeping table: entry, space, unit, offset, length (R413). -/
def keepPlaces (r : Rec) : List (Nat × Nat × Nat × Nat) :=
  let len := r.at 16 8
  (r.at 1 1, r.at 2 1, r.at 8 8, len) :: (if r.at 0 1 = 1 then [(r.at 1 1, r.at 2 1, r.at 24 8, len)] else [])

/-- Two places overlap. -/
def placesClash (a b : Nat × Nat × Nat × Nat) : Bool := a.1 = b.1 && a.2.1 = b.2.1 && clash a.2.2 b.2.2

/-- R169, R226: a DOMAIN record on its own: rows past the reserve, hi_rot not below a, no stack left. -/
def State.badDomain (t : State) (r : Rec) : Bool :=
  10158080 < r.at 8 4 + r.at 12 4 || (t.domShape r.id).1 ≤ r.at 2 1 || (t.domStacks r.id).isEmpty

/-- R169: two domains share a channel and a row. -/
def State.domClash (t : State) (a b : Rec) : Bool :=
  (t.domStacks a.id).any (fun k => (t.domStacks b.id).contains k) && clash (a.at 8 4, a.at 12 4) (b.at 8 4, b.at 12 4)

/-- R181: the sub-areas of the keep domain break its rules. -/
def State.badSubAreas (t : State) (c : List Rec) : Bool :=
  let l := (List.range 4).map (subArea c)
  let size := match t.keepDom with
    | some i => t.domSize i
    | none => 0
  l.any (fun x => size < x.1 + x.2) || (List.range 4).any (fun i => (List.range i).any (fun j => clash (l.getD i (0, 0)) (l.getD j (0, 0)))) || (subArea c 3).2 < 6 * 2 ^ 30

/-- R393: the CLE buffer a COLL needs, in bytes; a reduction's destination holds its output format (R381). -/
def collNeed (g : Rec) (w s d : Nat) : Nat :=
  let cop := bits w 22 4
  let e := if cop = 4 then 0 else tdRows s * tdCols s
  let dst := if cop = 4 then 0 else tdRows d * cdiv (tdCols d * (if cop ≤ 1 && !bit w 36 then outBits (bits w 49 3) else fmtBits (tdFmt d))) 8
  let n := grpN g
  let p := if 1 < cop then 0 else if grpTree g then e else cdiv (cdiv e n) 32 * 32
  let b := if cop ≤ 1 && !bit w 36 then cdiv e 32 else 0
  grpL g * dst + 16 * p + 4 * b + 2 * 2 ^ 20

/-- R379: a COLL of a program needs more than its group's buf_mib. -/
def needsMore (c : List Rec) (r : Rec) : Bool :=
  (flowsOf r).any (fun f => f.live.any (fun i => wOp (f.word i) = 0x60 && (match findRec c RT.group (bits (f.word i) 16 6), f.operands i with
    | some g, [s, d] => s.any (fun x => d.any (fun y => g.at 14 2 * 2 ^ 20 < collNeed g (f.word i) x y))
    | some g, [] => g.at 14 2 * 2 ^ 20 < collNeed g (f.word i) 0 0
    | _, _ => false)))

/-- R414: a keeping entry on its own. -/
def State.badTensor (t : State) (r : Rec) : Bool :=
  let space := r.at 1 1
  let unit := r.at 2 1
  (keepPlaces r).any (fun p => t.unitSize space unit < p.2.2.1 + p.2.2.2)
  || (r.at 0 1 = 1 && space = 0 && t.fg (R.FMC_DOM_CFG unit) F.FMC_DOM_CFG_kind ≠ 0)
  || (r.at 0 1 = 2 && (space ≠ 0 || t.isKeepDom unit))

/-- R414: the keeping table as a whole: ERASURE lengths, PARITY, the KPU's hub share, keepable state. -/
def badKeepTotals (c : List Rec) : Bool :=
  let er := ((keepTensors c 2).map (fun r => cdiv (r.at 16 8) 4096 * 4096)).sum
  let u := keepAt c 8 4
  hasKeep c && (4096 * u < er || (keepG c ≠ 0 && (subArea c 2).2 < 8192 * cdiv u (keepK c) + 64 * 2 ^ 20)
    || recField c RT.memplan 0 68 2 * 2 ^ 20 < 2 * recArea c + 32 * 2 ^ 20
    || 640 * 2 ^ 30 < muslinSize c + ((keepTensors c 2).map (fun r => r.at 16 8)).sum)

/-- R181: a copy of a program names the keep domain. -/
def State.namesKeep (t : State) (r : Rec) : Bool := (progWords r).any (fun w => (wOp w = 0x0A || wOp w = 0x0B) && t.isKeepDom (bits w 21 4))

/-- Check 10. -/
def check10 (t : State) (c : List IRec) : Verdict :=
  let k := recsIn c
  let keeps := (c.filter (fun x => x.2.type = RT.domain && x.2.at 0 1 = 2)).map Prod.fst
  let memplan := failing c RT.memplan (fun _ => true)
  let out := ruleAt Code.outOfRange
  let no := ruleAt Code.notPermitted
  checkOf [
    out (failing c RT.domain t.badDomain),
    out (clashing c RT.domain t.domClash),
    out (failing c RT.memplan (fun r => 240 < ((List.range 5).map (fun i => r.at (64 + 2 * i) 2)).sum)),
    out (if keeps.length = 1 then [] else if keeps.isEmpty then [noRec] else keeps.drop 1),
    out (if t.badSubAreas k then memplan else []),
    no (failing c RT.program t.namesKeep),
    out (failing c RT.ring (fun r => 7 * 2 ^ 24 < r.at 0 4 + r.at 8 2 * r.at 4 4)),
    out (failing c RT.map (fun r => t.unitSize (r.at 0 1) (r.at 4 1) < r.at 8 8 + r.at 16 8)),
    out (failing c RT.stream (fun r => r.at 3 1 = 1 && t.domSize (r.at 4 2 % 16) < r.at 8 8 + r.at 16 4 * r.at 20 2)),
    out (failing c RT.hauno (fun r => (haunoRanges r).any (fun x => t.unitSize x.1 x.2.1 < x.2.2.1 + x.2.2.2))),
    out (failing c RT.signal (fun r => r.id < 64 && ((findRec k RT.signal 64).isNone
      || (r.at 0 1 = 0 && (match ringCfg k (16 * r.at 8 1 + r.at 9 1) with
        | some g => g.size < featureBytes (r.at 6 1) (r.at 7 1)
        | none => false))))),
    out (if 4096 < (((recsOf k RT.signal).filter (fun r => r.id < 64)).map (fun r => r.at 4 2)).sum then ((failing c RT.signal (fun _ => true)).drop ((failing c RT.signal (fun _ => true)).length - 1)) else []),
    out (if recField k RT.memplan 0 66 2 < ((recsOf k RT.group).map (fun r => r.at 14 2)).sum then ((failing c RT.group (fun _ => true)).drop ((failing c RT.group (fun _ => true)).length - 1)) else []),
    out (failing c RT.program (needsMore k)),
    out (failing c RT.keeping (fun r => r.id ≠ 0 && (t.badTensor r || (match keepPlaces r with
      | [a, b] => placesClash a b
      | _ => false)))),
    out (clashing c RT.keeping (fun a b => a.id ≠ 0 && b.id ≠ 0 && (keepPlaces a).any (fun x => (keepPlaces b).any (placesClash x)))),
    out (if badKeepTotals k then failing c RT.keeping (fun r => r.id = 0) else []),
    no (failing c RT.map (fun r => r.at 0 1 = 0 && t.isKeepDom (r.at 4 1))),
    no (failing c RT.stream (fun r => r.at 3 1 = 1 && t.isKeepDom (r.at 4 2 % 16))),
    no (failing c RT.hauno (fun r => (haunoRanges r).any (fun x => x.1 = 0 && t.isKeepDom x.2.1)))]

/-! ### Check 11: engines and bindings -/

/-- R24: a DIRECT engine lies on one die or on two joined by a neighbour link. -/
def directOk (r : Rec) : Bool :=
  match engineDies r with
  | [] => true
  | [_] => true
  | [a, b] => (otherEnd (endKey a 1) / 3 = b) || (otherEnd (endKey a 2) / 3 = b)
  | _ => false

/-- A core belongs to an engine. -/
def hasEngine (c : List Rec) (core : Nat) : Bool := (engineOf c core).isSome

/-- R231: a route leaves the die of its source core. -/
def badRoute (r : Rec) : Bool := (routeDests r).any (fun d => d / 64 ≠ r.id / 64)

/-- R144: source core and destination rings lie on different cores. -/
def badRouteCores (r : Rec) : Bool := hasRepeat (r.id / 16 :: (routeDests r).map (· / 16))

/-- R144: a message of a program is larger than a slot of one of its destinations. -/
def badMessage (c : List Rec) (r : Rec) : Bool :=
  (flowsOf r).any (fun f => f.live.any (fun i => wOp (f.word i) = 0x40 && (f.operands i).any (fun l => l.any (fun d =>
    (match findRec c RT.route (16 * r.id + bits (f.word i) 21 4) with
      | some x => (routeDests x).any (fun id => match ringCfg c id with
        | some g => g.size < tdBytes d
        | none => false)
      | none => false)))))

/-- R25, R340, R341: a direct port of a die that belongs to no DIRECT engine, in the entry of another device. -/
def badDirect (c : List Rec) (dev : Nat) (r : Rec) : Bool :=
  (List.range 4096).any (fun n => let e := routeEntry r.body n
    n ≠ dev && (maskList 8 (bits e 24 8)).any (fun d => !((recsOf c RT.engine).any (fun g => engineDirect g && (engineDies g).contains d))))

/-- R284: an SRAM ring whose source is not the port, an activity that is not, a clear channel on another activity. -/
def badStream (c : List Rec) (r : Rec) : Bool :=
  !actExists c (r.at 1 1) || (r.at 6 2 = 0 && r.at 1 1 ≠ 0)
  || (r.at 0 1 = 0 && r.at 3 1 = 0 && (match ringCfg c (r.at 4 2) with
    | some g => g.kind ≠ 2 || g.source ≠ r.id
    | none => true))

/-- R107: the port and the ring of an SGU channel do not name it. -/
def badSignal (c : List Rec) (r : Rec) : Bool :=
  r.id < 64 && ((match streamCfg c (r.at 2 2) with
    | some p => p.kind ≠ 3 || p.dest ≠ r.id || p.output ≠ (r.at 0 1 = 1)
    | none => true)
  || (r.at 0 1 = 0 && (match ringCfg c (16 * r.at 8 1 + r.at 9 1) with
    | some g => g.kind ≠ 3 || g.source ≠ r.id
    | none => true)))

/-- R379: the device at my_rank, the local cores, the activity. -/
def badGroup (c : List Rec) (dev : Nat) (r : Rec) : Bool :=
  grpDev r (grpRank r) ≠ dev || !actExists c (grpAct r)
  || (grpCores r).any (fun k => match findRec c RT.program k with
    | some p => !((List.range 4).any (fun i => (progCtx p i).1 && (progCtx p i).2.1 = grpAct r))
    | none => true)

/-- R414: the activity of a tensor; the devices of the keeping head. -/
def badKeepNames (c : List Rec) (dev : Nat) (r : Rec) : Bool :=
  if r.id = 0 then (r.at 5 1 ≠ 0 && r.at (16 + 2 * r.at 6 1) 2 ≠ dev) || r.at 0 2 = dev || r.at 2 2 = dev
  else !actExists c (r.at 3 1)

/-- R484: the activity of a Hauno core, and its stream ranges. -/
def badHauno (c : List Rec) (r : Rec) : Bool :=
  !actExists c (r.at 1 1)
  || (haunoRanges r).any (fun x => x.1 = 3 && (List.range x.2.2.2).any (fun i => match streamCfg c (x.2.2.1 + i) with
    | some p => p.output || p.act ≠ r.at 1 1
    | none => true))

/-- Check 11. -/
def check11 (t : State) (c : List IRec) : Verdict :=
  let k := recsIn c
  let no := ruleAt Code.notPermitted
  checkOf [
    no (clashing c RT.engine (fun a b => a.at 0 4 &&& b.at 0 4 ≠ 0)),
    no (failing c RT.program (fun r => !hasEngine k r.id)),
    no (failing c RT.ring (fun r => !hasEngine k (r.id / 16))),
    no (failing c RT.route (fun r => !hasEngine k (r.id / 16))),
    no (failing c RT.route badRoute),
    no (failing c RT.engine (fun r => engineDirect r && !directOk r)),
    no (failing c RT.routing (badDirect k t.device)),
    no (failing c RT.program (fun r => (List.range 4).any (fun i => (progCtx r i).1 && !actExists k (progCtx r i).2.1))),
    no (failing c RT.budget (fun r => !actExists k r.id)),
    no (failing c RT.stream (badStream k)),
    no (clashing c RT.stream (fun a b => a.at 0 1 = b.at 0 1 && a.at 6 2 ≠ 0 && a.at 6 2 = b.at 6 2)),
    no (failing c RT.signal (badSignal k)),
    no (failing c RT.group (badGroup k t.device)),
    no (failing c RT.keeping (badKeepNames k t.device)),
    no (failing c RT.hauno (badHauno k)),
    ruleAt Code.outOfRange (failing c RT.route badRouteCores ++ failing c RT.program (badMessage k))]

/-! ### Checks 12 to 15 -/

/-- Check 12: the value ranges of SCHEDULE. -/
def badSchedule (r : Rec) : Bool :=
  let p := r.at 0 4
  let b := r.at 8 2
  let n := r.at 12 4
  let rb := r.at 16 4
  p < 1000 || 1000000 < p || b < 1 || 1000 < b || p % b ≠ 0 || p ≤ r.at 4 4 || (n ≠ 0 && (n * p < 1000 || 60000000 < n * p)) || rb < 1 || 2000 < rb

/-- Check 12: the value ranges of LIMITS. -/
def badLimits (r : Rec) : Bool :=
  r.at 0 2 < 1800 || 3600 < r.at 0 2 || r.at 2 1 < 70 || 100 < r.at 2 1 || r.at 3 1 < 70 || 100 < r.at 3 1 || r.at 4 1 < 70 || 95 < r.at 4 1 || r.at 5 1 < 60 || 80 < r.at 5 1

/-- Check 12. -/
def check12 (c : List IRec) : Verdict :=
  checkOf [ruleAt Code.outOfRange (failing c RT.schedule badSchedule), ruleAt Code.outOfRange (failing c RT.limits badLimits)]

/-- The least common multiple of 1 to 24, which makes a domain's share of each stack whole. -/
def stackUnit : Nat := 5354228880

/-- R232: what an activity's budget takes of an instance; for far bytes the instance is a stack, in units of 1/`stackUnit`. -/
def State.share (t : State) (c : List Rec) (a res inst : Nat) : Nat :=
  if res = 3 then ((List.range 16).map (fun i =>
    let ks := t.domStacks i
    if t.domSize i ≠ 0 && ks.contains inst then (budWritten c ks.length a 3 i).1 * (stackUnit / ks.length) else 0)).sum
  else (budWritten c 0 a res inst).1

/-- R232: some instance is promised more than it has. -/
def State.overCommitted (t : State) (c : List Rec) : Bool :=
  (List.range 7).any (fun res =>
    let cap := resCapacity (budgetPeriod c) res * (if res = 3 then stackUnit else 1)
    (List.range (if res = 3 then 24 else resInstances res)).any (fun inst =>
      cap < (((actList c).filter (fun a => actKind c a ≠ 2)).map (fun a => t.share c a res inst)).sum
      || ((actList c).filter (fun a => actKind c a = 2)).any (fun a => cap < t.share c a res inst)))

/-- R197, R260: entries of a BUDGET record that no capacity excuses. -/
def badBudget (c : List Rec) (r : Rec) : Bool :=
  (budEntries r).any (fun e =>
    ((e.1 = 4 || e.1 = 5) && e.2.2.1 ≠ 0 && e.2.2.1 < 65) || (r.id = 255 && e.1 ≠ 4 && e.1 ≠ 5 && e.2.2.1 ≠ 0) || (actKind c r.id ≤ 1 && e.2.2.2 ≠ 0))

/-- Check 13: the first BUDGET record in stream order with which the budgets no longer fit. -/
def check13 (t : State) (c : List IRec) : Verdict :=
  let k := recsIn c
  let buds := c.filter (fun x => x.2.type = RT.budget)
  let upTo (n : Nat) : List Rec := (k.filter (fun r => r.type ≠ RT.budget)) ++ (buds.take n).map Prod.snd ++ ((buds.drop n).map (fun x => ({ x.2 with body := zeros 8 } : Rec)))
  let above := if t.overCommitted k then match (List.range buds.length).find? (fun n => t.overCommitted (upTo (n + 1))) with
      | some n => [(buds.getD n (noRec, ⟨0, 0, []⟩)).1]
      | none => [noRec]
    else []
  checkOf [ruleAt Code.outOfRange above, ruleAt Code.outOfRange (failing c RT.budget (badBudget k))]

/-- R341: what check 14 finds in a ROUTING record. -/
def badTorus (dev : Nat) (r : Rec) : Bool :=
  let rings := ringsOf r.body
  rings.any (fun g => g.dateline = 0xFF)
  || rings.any (fun g => rings.any (fun h => g.rank = h.rank && (g.length ≠ h.length || g.position ≠ h.position || g.dateline ≠ h.dateline)))
  || (List.range 4096).any (fun n =>
    let e := routeEntry r.body n
    let det := bits e 0 4
    let others := maskList 16 (bits e 8 16) ++ maskList 8 (bits e 24 8)
    n ≠ dev && bit e 4 && ((det :: others).any (fun p => (ringOfPort r.body p).isNone)
      || others.any (fun p => ((ringOfPort r.body p).map (fun g => g.rank)) ≠ ((ringOfPort r.body det).map (fun g => g.rank)))))

/-- R398: the roots of the broadcasts that programs call in a group; 0 stands for every other call. -/
def collRoots (c : List Rec) (r : Rec) : List Nat :=
  0 :: ((recsOf c RT.program).flatMap (fun p => (flowsOf p).flatMap (fun f =>
    (f.live.filter (fun i => wOp (f.word i) = 0x60 && bits (f.word i) 16 6 = r.id && bits (f.word i) 22 4 = 3)).map (fun i => bits (f.word i) 37 12 % grpN r)))).eraseDups

/-- R397, R398: the ranks this member sends to in calls with a root, and rank 0 for the commit round. A tree's calls count ranks from their root. -/
def sendsTo (r : Rec) (root : Nat) : List Nat :=
  let n := grpN r
  let me := (grpRank r + n - root) % n
  let l := if grpTree r then (List.range (ceilLog2 n)).flatMap (fun i =>
      let h := 2 ^ i
      (if root = 0 && me % (2 * h) = h then [me - h] else []) ++ (if me % (2 * h) = 0 && me + h < n then [(me + h + root) % n] else []))
    else if n = 1 then [] else [(grpRank r + 1) % n]
  (0 :: l).filter (fun i => i ≠ grpRank r)

/-- R379: a device a member sends to has no valid entry in a defined bank. -/
def badGroupRoutes (c : List Rec) (dev : Nat) (r : Rec) : Bool :=
  (recsOf c RT.routing).any (fun b => ((collRoots c r).flatMap (sendsTo r)).any (fun i => grpDev r i ≠ dev && !bit (routeEntry b.body (grpDev r i)) 4))

/-- Check 14. -/
def check14 (t : State) (c : List IRec) : Verdict :=
  checkOf [ruleAt Code.notPermitted (failing c RT.routing (badTorus t.device)), ruleAt Code.notPermitted (failing c RT.group (badGroupRoutes (recsIn c) t.device))]

/-- R421: the staging engine of a MUSLIN tensor and its rate in bytes per µs. -/
def State.stageEngine (t : State) (r : Rec) : Nat × Nat :=
  match r.at 1 1 with
  | 2 => (r.at 2 1, 1126400)
  | 1 => (32 + r.at 2 1, 930000)
  | _ => (64 + t.fg (R.FMC_DOM_CFG (r.at 2 1)) F.FMC_DOM_CFG_die, if t.twoStacks then 1310720 else 1966080)

/-- R421: T_stage in µs. -/
def State.tStage (t : State) (c : List Rec) : Nat :=
  let m := keepTensors c 1
  maxOf (m.map (fun r =>
    let e := t.stageEngine r
    cdiv (4096 * ((m.filter (fun q => (t.stageEngine q).1 = e.1)).map (fun q => q.at 4 4)).sum) e.2))

/-- R421: T_snap in units of 1/128 of `perUs`; 1 byte at 2,048,000 per µs is 1,375 of them. -/
def State.tSnap (t : State) (c : List Rec) : Nat :=
  if snapSteps c = 0 then 0 else 128 * perUs * (4 + t.tStage c) + 1375 * recArea c

/-- R234: the pause bound of some programs. -/
def State.pauseFits (t : State) (c : List Rec) (p : Option Nat) : Bool :=
  match p with
  | none => false
  | some x => 128 * x + 128 * perUs * 60 + t.tSnap c ≤ 128 * perUs * 250

/-- R233: P of one PROGRAM record. -/
def recBound (r : Rec) : List Rec → Option Nat := fun c => parkBound (r :: c.filter (fun x => x.type ≠ RT.program))

/-- Check 15. -/
def check15 (t : State) (c : List IRec) : Verdict :=
  let k := recsIn c
  if t.pauseFits k (parkBound k) then none
  else
    let l := failing c RT.program (fun r => !t.pauseFits k (recBound r k))
    ruleAt Code.outOfRange (if l.isEmpty then [noRec] else l)

/-- Checks 8 to 15 of R231 in order: the check that fails, its record and code. -/
def State.checks (s : State) (c : List IRec) : Option (Nat × Nat × Nat) :=
  let t := s.candidate c
  let run (n : Nat) (v : Verdict) : Option (Nat × Nat × Nat) := v.map (fun x => (n, x.1, x.2))
  (run 8 (check8 t c)).orElse fun _ => (run 9 (check9 c)).orElse fun _ => (run 10 (check10 t c)).orElse fun _ => (run 11 (check11 t c)).orElse fun _ =>
  (run 12 (check12 c)).orElse fun _ => (run 13 (check13 t c)).orElse fun _ => (run 14 (check14 t c)).orElse fun _ => run 15 (check15 t c)

end Machine
end Sys2Proof
end

