-- ==== Sys2Proof/Machine/Img.lean ====
section
/-!
DEFINITION. The image port (R227-R231, R247-R253) and the change of the active set (R238-R244).
-/
namespace Sys2Proof
namespace Machine

/-- The load state of the image port (R248): 0 IDLE, 1 RECEIVING, 2 CHECKING. -/
def State.loadState (s : State) : Nat := s.fg R.IMG_STATUS F.IMG_STATUS_load_state

/-- R228: a write of the port without the token is ignored and sets foreign. -/
def imgWrite (port : Nat) (f : State → State) (s : State) : Answer :=
  occurs (s.hostOn port) s (if port = s.tokenPort then f s else s.raise R.IMG_STATUS F.IMG_STATUS_foreign)

/-- R227 step 1. A begin during CHECKING is ignored (R230). -/
def State.imgBegin (s : State) (kind : Nat) : State :=
  let t := s.fs R.IMG_CTL F.IMG_CTL_kind kind
  if s.loadState = 2 then t
  else State.fs ((t.fs R.IMG_STATUS F.IMG_STATUS_load_state 1).fs R.IMG_STATUS F.IMG_STATUS_words 0) R.IMG_CTL F.IMG_CTL_kind kind
    |> fun u => { u with img := { u.img with words := [], excess := false, kind := kind % 2 } }

/-- IMG_BEGIN. -/
def execImgBegin (port kind : Nat) (s : State) : Answer := imgWrite port (fun t => t.imgBegin kind) s

/-- R249: the result of a commit, vector 1 to the port that holds the token, and the port IDLE again. -/
def State.imgResult (s : State) (code check kind slot rec : Nat) : State :=
  let t := s.wr R.IMG_RESULT (BitVec.ofNat 64 (code % 2 ^ 8 + check % 2 ^ 4 * 2 ^ 8 + kind % 2 * 2 ^ 12 + slot % 2 ^ 4 * 2 ^ 13 + rec % 2 ^ 24 * 2 ^ 17))
  let u := t.fs R.IMG_STATUS F.IMG_STATUS_load_state 0
  let run := match u.img.run with
    | .commit _ => (match u.img.pending with
      | some p => if p.again then CheckRun.recheck p.set u.now else .none
      | none => .none)
    | r => r
  let pend := u.img.pending.map (fun p => ({ p with again := false } : PendingSet))
  State.msixNow { u with img := { u.img with words := [], excess := false, run := run, pending := pend } } u.tokenPort 1

/-- R228: a load being received or checked is abandoned. -/
def State.imgAbandon (s : State) : State := if s.loadState = 0 then s else s.imgResult Code.notPermitted 1 s.img.kind 0 noRec

/-- R229: the words an image may have. -/
def imgRoom : Nat := (2 ^ 24 + 512) / 8

/-- R227 step 2, R229: words are appended; a partial word abandons the load. -/
def State.imgData (s : State) (size : Nat) (words : List Word) : State :=
  if s.loadState ≠ 1 then s.raise R.IMG_STATUS F.IMG_STATUS_stray
  else if size % 8 ≠ 0 || size = 0 then s.imgResult Code.badFormat 2 s.img.kind 0 noRec
  else
    let n := size / 8
    let room := imgRoom - s.img.words.length
    let t := s.fsat R.IMG_STATUS F.IMG_STATUS_words n
    { t with img := { t.img with words := t.img.words ++ words.take (min n room), excess := t.img.excess || decide (room < n) } }

/-- IMG_DATA_WRITE: `words` are the whole words of the write in address order. -/
def execImgDataWrite (port size : Nat) (words : List Word) (s : State) : Answer := imgWrite port (fun t => t.imgData size words) s

/-- R230: a commit starts the check run, is refused while one goes on, or is stray. -/
def State.imgCommit (s : State) : State :=
  if s.loadState = 0 then s.raise R.IMG_STATUS F.IMG_STATUS_stray
  else if s.img.run ≠ .none then s.raise R.IMG_STATUS F.IMG_STATUS_busy
  else
    let t := s.fs R.IMG_STATUS F.IMG_STATUS_load_state 2
    { t with img := { t.img with run := .commit t.now } }

/-- IMG_COMMIT. -/
def execImgCommit (port : Nat) (s : State) : Answer := imgWrite port State.imgCommit s

/-- R247: discards a received image; ignored during CHECKING. -/
def State.imgAbort (s : State) : State :=
  if s.loadState ≠ 1 then s
  else
    let t := s.fs R.IMG_STATUS F.IMG_STATUS_load_state 0
    { t with img := { t.img with words := [], excess := false } }

/-- IMG_ABORT. -/
def execImgAbort (port : Nat) (s : State) : Answer := imgWrite port State.imgAbort s

/-! ### The check run of a commit -/

/-- The active set in force, bit i for slot i. -/
def State.inForce (s : State) : Nat := 2 * s.fg R.IMG_ACTIVE F.IMG_ACTIVE_in_force
/-- The active set being checked or waiting. -/
def State.pendingSet (s : State) : Nat := 2 * s.fg R.IMG_ACTIVE F.IMG_ACTIVE_pending

/-- R218: the states in which overlays are loaded and applied. -/
def State.overlayState (s : State) : Bool := s.img.recs.isSome && decide (4 ≤ s.effState) && decide (s.effState ≤ 7)

/-- Check 1. -/
def State.check1 (s : State) (kind slot : Nat) : Bool :=
  if kind = 0 then (s.mstate = MState.ready || s.inTest) && s.img.recs.isNone
  else s.overlayState && !bit s.inForce slot && !bit s.pendingSet slot

/-- Check 2: the envelope of R220. -/
def envelopeBad (e : Bytes) (excess : Bool) (kind : Nat) : Bool :=
  let l := fieldAt e 284 4
  let k := fieldAt e 10 1
  let slot := fieldAt e 11 1
  excess || e.length < 400 || fieldAt e 0 8 ≠ 0x31474D49384E5351 || fieldAt e 8 2 ≠ 1 || 1 < k || (if k = 0 then slot ≠ 0 else slot < 1 || 15 < slot)
  || 1 < fieldAt e 12 4 || fieldAt e 105 7 ≠ 0 || fieldAt e 209 3 ≠ 0 || l % 8 ≠ 0 || (if k = 0 then 2 ^ 24 else 2 ^ 16) < l || e.length ≠ 400 + l
  || k ≠ kind || (k = 0 && !((slice e 56 48).all (fun b => b = 0)))

/-- R221: the image key and the body; none where a tag does not verify. -/
def State.openImage (s : State) (e : Bytes) : Option Bytes :=
  match s.ik with
  | none => none
  | some d => match ecdh d (slice e 112 97) with
    | none => none
    | some z =>
      let kek := kdf z (slice e 24 16) "QSN8 image wrap" 32
      match gcmOpen kek (slice e 212 12) (e.take 212) (slice e 224 32) (slice e 256 16) with
      | none => none
      | some key =>
        let l := fieldAt e 284 4
        gcmOpen key (slice e 272 12) (e.take 288) (slice e 288 l) (slice e (288 + l) 16)

/-- Checks 3 to 6: code and check, or the body. -/
def State.checkSeals (s : State) (e : Bytes) : Except (Nat × Nat) Bytes :=
  let l := fieldAt e 284 4
  let owned := s.fb R.RIND_STATUS F.RIND_STATUS_owned
  if slice e 24 16 ≠ s.fuses.serial || !owned || slice e 40 16 ≠ slice s.store.ownerId 0 16 then .error (3, Code.keyUnknown)
  else if !ecdsaOk s.store.ownerPub (sha384 (e.take (304 + l))) (slice e (304 + l) 96) then .error (4, Code.badSignature)
  else if fieldAt e 16 8 < s.store.imageFloor || (fieldAt e 10 1 = 1 && slice e 56 48 ≠ s.img.baseDigest) || fieldAt e 104 1 ≠ bits s.fuses.capability 48 8 then
    .error (5, Code.staleVersion)
  else match s.openImage e with
    | some b => .ok b
    | none => .error (6, Code.badSignature)

/-- What a check run of a commit finds: the failing check, code and record, or the records and the configuration they make. -/
def State.judgeImage (s : State) (e : Bytes) : Except (Nat × Nat × Nat) (List Rec × List IRec) :=
  let kind := s.img.kind
  if !s.check1 kind (fieldAt e 11 1) then .error (1, Code.notPermitted, noRec)
  else if envelopeBad e s.img.excess kind then .error (2, Code.badFormat, noRec)
  else match s.checkSeals e with
  | .error x => .error (x.1, x.2, noRec)
  | .ok b =>
    let st := streamOf b
    let v := if kind = 0 then (check7Base s.device st, st.1) else check7Overlay s.device (s.img.recs.getD []) st
    match v.1 with
    | some x => .error (7, x.2, x.1)
    | none => match s.checks v.2 with
      | some x => .error (x.1, x.2.2, x.2.1)
      | none => .ok (recsIn st.1, v.2)

/-- R223: the configuration digest. -/
def State.cfgDigest (s : State) : Bytes :=
  sha384 (s.img.baseDigest ++ (maskList 16 s.inForce).flatMap (fun i => BitVec.ofNat 8 i :: (match tget s.img.overlays i with
    | some o => o.digest
    | none => zeros 48)))

/-- Six registers from 48 bytes. -/
def State.putDigest (s : State) (reg : Nat → Nat) (d : Bytes) : State := (List.range 6).foldl (fun (t : State) j => t.wr (reg j) (BitVec.ofNat 64 (fieldAt d (8 * j) 8))) s

/-- What the slot registers show (R252). -/
def State.showSlots (s : State) : State :=
  (List.range 15).foldl (fun (t : State) j =>
    let i := j + 1
    match tget t.img.overlays i with
    | some o => t.wr (R.IMG_SLOT i) (BitVec.ofNat 64 (1 + b2n (bit t.inForce i) * 2 + b2n (bit t.pendingSet i) * 4 + o.size % 2 ^ 17 * 2 ^ 3 + o.seq % 2 ^ 32 * 2 ^ 32))
    | none => t.wr (R.IMG_SLOT i) 0) s

/-- R222: set_floor raises the persistent floor. -/
def State.raiseFloor (s : State) (e : Bytes) : State :=
  if bit (fieldAt e 12 4) 0 then
    let t := s.wr R.IMG_FLOOR (BitVec.ofNat 64 (fieldAt e 16 8))
    { t with store := { t.store with imageFloor := fieldAt e 16 8 } }
  else s

/-- A ROUTING bank of a configuration. -/
def bankOf (c : List Rec) (i : Nat) : Option Bytes := (findRec c RT.routing i).map (fun r => r.body)

/-- Puts a routing bank, or leaves it undefined. -/
def State.setBank (s : State) (i : Nat) (b : Option Bytes) : State :=
  { s with fj := { s.fj with banks := match b with
    | some x => tset s.fj.banks i x
    | none => tdel s.fj.banks i } }

/-- R239: the number of the next step boundary by the rack count. -/
def State.nextBoundary (s : State) (c : List Rec) : Nat :=
  if s.rack < stepPhase c then 0 else (s.rack - stepPhase c) / (max 1 (stepPeriod c)) + 1

/-- R217, R218, R227 step 5: a base image takes effect. The epoch in force is 0 (R358); SGU slots may begin with any frame number (R111). -/
def State.loadBase (s : State) (digest : Bytes) (recs : List Rec) : State :=
  let t : State := { s with img := { s.img with recs := some recs, baseDigest := digest }, host := { s.host with sgu := [] } }
  let t := ((t.putDigest R.IMG_BASE_DIGEST digest).setBank 0 (bankOf recs 0)).setBank 1 (bankOf recs 1)
  let t : State := { t.fs R.FJ_STATUS F.FJ_STATUS_epoch 0 with boundaryNo := s.nextBoundary recs }
  let u := t.install recs (fun _ _ => true) s.fencedMask
  let u := u.putDigest R.IMG_CFG_DIGEST u.cfgDigest
  if s.mstate = MState.ready then u.setState MState.configured else u

/-- R237: an overlay becomes resident. -/
def State.loadOverlay (s : State) (e : Bytes) (digest : Bytes) (recs : List Rec) : State :=
  let o : Overlay := ⟨recs, digest, fieldAt e 16 8, fieldAt e 284 4⟩
  State.showSlots { s with img := { s.img with overlays := tset s.img.overlays (fieldAt e 11 1) o } }

/-- IMG_CHECK_DONE (R227 steps 4 and 5, R231). -/
def State.imgCheckDone (s : State) : State :=
  let e := bytesOf s.img.words
  let kind := s.img.kind
  let slot := if kind = 1 then fieldAt e 11 1 else 0
  match s.judgeImage e with
  | .error x => s.imgResult x.2.1 x.1 kind slot x.2.2
  | .ok r =>
    let d := sha384 (e.take (304 + fieldAt e 284 4))
    let t := (s.raiseFloor e).imgResult Code.ok 0 kind slot noRec
    if kind = 0 then t.loadBase d r.1 else t.loadOverlay e d r.1

/-- IMG_CHECK_DONE. -/
def execImgCheckDone (s : State) : Answer :=
  occurs (match s.img.run with
    | .commit _ => true
    | _ => false) s s.imgCheckDone

/-! ### Changes of the active set -/

/-- The set of a change that is being checked. -/
def State.checkingSet (s : State) : Option Nat := match s.img.run with
  | .apply x _ => some x
  | _ => none

/-- R238, R243, R244: a change ends without effect, with its code and the check that failed it. -/
def State.cancelApply (s : State) (code check : Nat) : State :=
  let t := ((((s.fs R.IMG_ACTIVE F.IMG_ACTIVE_apply_state 0).fs R.IMG_ACTIVE F.IMG_ACTIVE_pending 0).fs R.IMG_ACTIVE F.IMG_ACTIVE_last_code code).fs R.IMG_ACTIVE F.IMG_ACTIVE_last_check check)
  let run := match t.img.run with
    | .commit x => CheckRun.commit x
    | _ => .none
  State.showSlots { t with img := { t.img with pending := none, run := run } }

/-- R241 steps 3 to 6, ACTIVE_SET_APPLY: the pending change takes effect. Boundaries are counted anew where it changes their times (R239). -/
def State.applyActive (s : State) : State :=
  match s.img.pending with
  | none => s
  | some p => match applySet (s.img.recs.getD []) s.img.overlays p.set with
    | none => s.cancelApply Code.badFormat 7
    | some new =>
      let moved := typeChanged s.img.cfg new RT.routing
      let timing := s.img.cfg
      let t := s.install new (s.names p.set) p.fenced
      let u := if moved then t.epochSwitch else t
      let u : State := if s.fb R.KPU_STATUS F.KPU_STATUS_replaying || (stepPeriod timing = stepPeriod new && stepPhase timing = stepPhase new) then u
        else { u with boundaryNo := u.nextBoundary new }
      let v := ((((u.fs R.IMG_ACTIVE F.IMG_ACTIVE_in_force (p.set / 2)).fs R.IMG_ACTIVE F.IMG_ACTIVE_pending 0).fs R.IMG_ACTIVE F.IMG_ACTIVE_apply_state 0).fs
        R.IMG_ACTIVE F.IMG_ACTIVE_last_code Code.ok).fs R.IMG_ACTIVE F.IMG_ACTIVE_last_check 0
      let w := State.showSlots { v with img := { v.img with pending := none } }
      let d := w.cfgDigest
      let x := (w.putDigest R.IMG_CFG_DIGEST d).journal 3 0 0 (leBytes 2 p.set ++ zeros 14 ++ d)
      ((x.log Code.ok 0 0 [5]).msixNow x.tokenPort 2)

/-- R243: what the bank of the epoch not in use receives from a new configuration: its own record where the change alters it, else the altered one. -/
def State.newBank (s : State) (new : List Rec) : Option Bytes :=
  let b := s.oldEpoch
  if recChanged s.img.cfg new RT.routing b then bankOf new b else bankOf new s.epoch

/-- R244: a second check is going on. -/
def State.rechecking (s : State) : Bool := match s.img.run with
  | .recheck _ _ => true
  | _ => false

/-- R116, R238: a change that is ready in CONFIGURED takes effect as soon as every core is parked: at once, or in a pause of its own, which may be going on already. -/
def State.applyParked (s : State) : State := match s.pause with
  | some p => { s with pause := some { p with apply := true } }
  | none => if (List.range 32).all s.corePark then s.applyActive else s.askPause ⟨false, true, false, s.boundaryNo, none, false, s.mstate, [], s.rack, []⟩

/-- R243, R360: writes the routing bank of a waiting change, or notes the refusal; a change in CONFIGURED takes effect as soon as it is ready. -/
def State.tryBank (s : State) : State :=
  match s.img.pending with
  | none => s
  | some p => match applySet (s.img.recs.getD []) s.img.overlays p.set with
    | none => s
    | some new =>
      let need := typeChanged s.img.cfg new RT.routing
      let ready (t : State) : State :=
        let u : State := { t with img := { t.img with pending := some { p with bankWritten := true, firstRefusal := none } } }
        if u.effState = MState.configured && !p.again && !u.rechecking then u.applyParked else u
      if !need then ready s
      else if s.fb R.FJ_EPOCH F.FJ_EPOCH_free then ready (s.setBank s.oldEpoch (s.newBank new))
      else match p.firstRefusal with
        | some x => if x + 5000000 ≤ s.now then s.cancelApply Code.epochBusy 0 else { s with img := { s.img with pending := some { p with lastTry := s.now } } }
        | none => { s with img := { s.img with pending := some { p with firstRefusal := some s.now, lastTry := s.now } } }

/-- R231 on a change of the active set: the patches of the set, then checks 8 to 15, on records of which the overlays that are not in force name some (R551). -/
def State.judgeSet (s : State) (set : Nat) : Option (Nat × Nat) :=
  match applySet (s.img.recs.getD []) s.img.overlays set with
  | none => some (7, Code.badFormat)
  | some new => (s.checks (new.map (fun r => (if s.names set r.type r.id then 0 else noRec, r)))).map (fun x => (x.1, x.2.2))

/-- APPLY_CHECK_DONE (R238 steps 1 and 2). -/
def State.applyCheckDone (s : State) (set : Nat) : State :=
  let t : State := { s with img := { s.img with run := .none } }
  match s.judgeSet set with
  | some x => (t.cancelApply x.2 x.1).cmdEnds 0x04 x.2 []
  | none =>
    let u : State := { (t.fs R.IMG_ACTIVE F.IMG_ACTIVE_apply_state 2) with
      img := { t.img with pending := some ⟨set, s.now, false, none, s.now, false, s.fencedMask⟩ } }
    (u.cmdEnds 0x04 Code.ok []).tryBank

/-- APPLY_CHECK_DONE. -/
def execApplyCheckDone (s : State) : Answer :=
  occurs s.checkingSet.isSome s (s.applyCheckDone (s.checkingSet.getD 0))

/-- ROUTING_BANK_RETRY (R243): 10 µs after the last refusal. -/
def execRoutingBankRetry (s : State) : Answer :=
  match s.img.pending with
  | some p => occurs (!p.bankWritten) s (s.runTo (p.lastTry + 10000)).tryBank
  | none => .next s

/-- APPLY_RECHECK_DONE (R244, R551): the second check ends; the change is cancelled with its code, or waits on with the dies that are fenced now. -/
def execApplyRecheckDone (s : State) : Answer :=
  match s.img.run with
  | .recheck set _ =>
    let t : State := { s with img := { s.img with run := .none } }
    .next (match s.judgeSet set with
      | some x => t.cancelApply x.2 x.1
      | none =>
        let u : State := { t with img := { t.img with pending := t.img.pending.map (fun p => ({ p with fenced := t.fencedMask } : PendingSet)) } }
        if u.effState = MState.configured && (match u.img.pending with
          | some p => p.bankWritten
          | none => false) then u.applyParked else u)
  | _ => .next s

end Machine
end Sys2Proof
end

