-- ==== Sys2Proof/Machine/Host.lean ====
section
/-!
DEFINITION. Commands of the host ports (R291-R296), the memory access port (R297, R298), and the events of a port's link (R278, R533).
-/
namespace Sys2Proof
namespace Machine

/-! ### Commands (R291) -/

/-- A command of a port is BUSY. -/
def State.cmdBusy (s : State) (port : Nat) : Bool := s.fg (R.HP_CMD_STATUS port) F.HP_CMD_STATUS_state = 1

/-- R291 step 1: a push starts a command; its arguments and payload are copied. -/
def State.cmdBegin (s : State) (port op tag : Nat) : State :=
  let c : CmdSt := ⟨op, tag % 2 ^ 16, (List.range 8).map (fun i => s.rd (R.HP_CMD_ARG port i)), (List.range 32).map (fun i => s.rd (R.HP_CMD_PAYLOAD port i)),
    0, [], false⟩
  let k := R.HP_CMD_STATUS port
  let t := (((s.fs k F.HP_CMD_STATUS_state 1).fs k F.HP_CMD_STATUS_opcode op).fs k F.HP_CMD_STATUS_tag tag)
  { t with host := { t.host with cmd := tset t.host.cmd port c } }

/-- A port's command has its outcome and waits to complete. -/
def State.cmdReady (s : State) (port code : Nat) (res : List Word) : State := match tget s.host.cmd port with
  | some c => { s with host := { s.host with cmd := tset s.host.cmd port { c with code := code, res := res, ready := true } } }
  | none => s

/-- R291 step 2. -/
def State.cmdOverrun (s : State) (port : Nat) : State := s.raise (R.HP_CMD_STATUS port) F.HP_CMD_STATUS_overrun

/-- R291 step 3, R292: a push of an opcode. `code` is the first failed check; `f` takes effect only where every check holds. -/
def State.push (s : State) (port op tag : Nat) (code : State → List Word → Nat) (f : State → List Word → State) : State :=
  if s.cmdBusy port then s.cmdOverrun port
  else
    let args := (List.range 8).map (fun i => s.rd (R.HP_CMD_ARG port i))
    let t := s.cmdBegin port op tag
    let c := code s args
    if c = Code.ok then f t args else t.cmdReady port c []

/-- A push reaches the module while it has power and is not held in reset. -/
def pushRow (port op tag : Nat) (code : State → List Word → Nat) (f : State → List Word → State) (s : State) : Answer :=
  occurs (s.hostOn port) s (s.push port op tag code f)

/-- R292: the token and state checks of a command of the holder. -/
def State.holderCheck (s : State) (port : Nat) (states : List Nat) : Nat :=
  firstFail [(port ≠ s.tokenPort, Code.notPermitted), (!states.contains s.effState, Code.notPermitted)]

/-- R292: the activities a mask names, bits 0 and 255 ignored. -/
def maskActs (args : List Word) : List Nat :=
  (List.range 254).filterMap (fun i => if bit ((args.getD ((i + 1) / 64) 0).toNat) ((i + 1) % 64) then some (i + 1) else none)

/-- CMD_NOP. -/
def execCmdNop (port tag : Nat) (s : State) : Answer := pushRow port 0x00 tag (fun _ _ => Code.ok) (fun t _ => t.cmdReady port Code.ok []) s

/-- CMD_UNKNOWN_OPCODE (R292). -/
def execCmdUnknownOpcode (port opcode tag : Nat) (s : State) : Answer :=
  if 0x0C ≤ opcode ∧ opcode < 256 then pushRow port opcode tag (fun _ _ => Code.badFormat) (fun t _ => t) s else .next s

/-- CMD_PUSH_BUSY (R291). -/
def execCmdPushBusy (port : Nat) (s : State) : Answer := occurs (s.hostOn port && s.cmdBusy port) s (s.cmdOverrun port)

/-- R538, R292: the checks of START. -/
def State.startCode (s : State) (port : Nat) (args : List Word) : Nat :=
  let m := maskActs args
  firstFail [(s.holderCheck port [MState.configured, MState.serving] ≠ Code.ok, Code.notPermitted),
    (!s.fb R.TIME_STATUS F.TIME_STATUS_acquired, Code.notPermitted),
    (m.isEmpty || m.any (fun a => s.actState a ≠ 1 && s.actState a ≠ 2), Code.outOfRange)]

/-- START: accepted, to take effect at a step boundary (R292, R239). -/
def execStart (port tag : Nat) (s : State) : Answer :=
  pushRow port 0x01 tag (fun t a => t.startCode port a)
    (fun t a => State.cmdReady { t with host := { t.host with starts := t.host.starts ++ [(maskActs a, t.now)] } } port Code.ok []) s

/-- R293: pending starts of activities are cancelled. -/
def State.cancelStarts (s : State) (m : List Nat) : State :=
  { s with host := { s.host with starts := (s.host.starts.map (fun e => (e.1.filter (fun a => !m.contains a), e.2))).filter (fun e => !e.1.isEmpty) } }

/-- R244: a STOP or TEARDOWN while a change is WAITING cancels it. -/
def State.cancelWaiting (s : State) : State := if s.img.pending.isSome then s.cancelApply Code.notPermitted 0 else s

/-- R292, R145: a RUNNING activity is stopped. -/
def State.stopAct (s : State) (a : Nat) : State :=
  if s.actState a ≠ 2 then s else ((boundCtxs s.img.cfg a).foldl (fun (t : State) x => t.haltCtx x Code.ok) s).setAct a 3

/-- The states of STOP and TEARDOWN (R292). -/
def stopStates : List Nat := [MState.configured, MState.serving, MState.snapshot, MState.held]

/-- STOP. -/
def execStop (port tag : Nat) (s : State) : Answer :=
  pushRow port 0x02 tag (fun t _ => t.holderCheck port stopStates)
    (fun t a => State.cmdReady (((maskActs a).foldl State.stopAct t).cancelStarts (maskActs a)).cancelWaiting port Code.ok []) s

/-- R257, R290, R292, R351, R357: one activity is torn down; its parked packets are discarded and counted. -/
def State.teardownAct (s : State) (a : Nat) : State :=
  if s.actState a = 0 || a = 0 || a = 255 then s
  else
    let xs := boundCtxs s.img.cfg a
    let t := xs.foldl (fun (u : State) x => ((u.dropQueued x).setCtx x 0).modCtx x (fun c => { c with loops := [], atStep := false })) (s.emptyStreams a)
    let fj := { t.fj with loads := t.fj.loads.filter (fun l => l.act ≠ a), parked := t.fj.parked.filter (fun e => e.2.1.act ≠ a) }
    let gone := (t.fj.parked.filter (fun e => e.2.1.act = a)).length
    (State.abortCalls { t.countN R.FJ_CNT_PARK_EXPIRED gone with fj := fj } (fun r => grpAct r = a) Code.notPermitted).setAct a 1

/-- TEARDOWN. -/
def execTeardown (port tag : Nat) (s : State) : Answer :=
  pushRow port 0x03 tag
    (fun t a => firstFail [(t.holderCheck port stopStates ≠ Code.ok, Code.notPermitted), ((maskActs a).any (fun x => t.actState x = 2), Code.outOfRange)])
    (fun t a => State.cmdReady (t.streamNotify (((maskActs a).foldl State.teardownAct t).cancelStarts (maskActs a)).cancelWaiting) port Code.ok []) s

/-- TEARDOWN_PACKET (R357): a fabric manager device tears down every activity of a job key, and the pair entries that its contexts have used are cleared. -/
def State.teardownKey (s : State) (key : Nat) : State :=
  let m := (actList s.img.cfg).filter (fun a => a ≠ 0 && a ≠ 255 && actKey s.img.cfg a = key)
  let xs := m.flatMap (boundCtxs s.img.cfg)
  let t := m.foldl (fun (u : State) a => (u.stopAct a).teardownAct a) s
  s.streamNotify ((t.clearPairs (fun k => xs.any (fun x => x / 4 = k / 2 ^ 20 && bit (s.pair k).users (x % 4)))).cancelStarts m)

/-- R238, R292: the checks of APPLY. -/
def State.applyCode (s : State) (port : Nat) (args : List Word) : Nat :=
  let a := (args.getD 0 0).toNat
  firstFail [(port ≠ s.tokenPort, Code.notPermitted), (!s.overlayState, Code.notPermitted),
    (a % 2 = 1 || 2 ^ 16 ≤ a || (maskList 16 a).any (fun i => i ≠ 0 && (tget s.img.overlays i).isNone), Code.outOfRange),
    (s.fg R.IMG_ACTIVE F.IMG_ACTIVE_apply_state ≠ 0 || s.img.run ≠ .none, Code.busy)]

/-- APPLY (R238): the check of a change begins; an equal set is in force already. -/
def execApply (port tag : Nat) (s : State) : Answer :=
  pushRow port 0x04 tag (fun t a => t.applyCode port a)
    (fun t a =>
      let set := (a.getD 0 0).toNat
      if set = t.inForce then t.cmdReady port Code.ok []
      else
        let u := (t.fs R.IMG_ACTIVE F.IMG_ACTIVE_pending (set / 2)).fs R.IMG_ACTIVE F.IMG_ACTIVE_apply_state 1
        State.showSlots { u with img := { u.img with run := .apply set u.now } }) s

/-- SNAPSHOT_NOW (R292): a snapshot at the next step boundary; completes at the end of the pause. -/
def execSnapshotNow (port tag : Nat) (s : State) : Answer :=
  pushRow port 0x05 tag (fun t _ => firstFail [(t.holderCheck port [MState.serving] ≠ Code.ok, Code.notPermitted), (snapSteps t.img.cfg = 0, Code.notPermitted)])
    (fun t _ => { t with host := { t.host with snapNow := some port } }) s

/-! ### Reset and reload of a die (R203) -/

/-- R78, R147, R183: a register of a die's block that only its own clear bit clears, or that the MGC keeps of a sensor until the next module start (R502): the check and retry
counters of an array, its stall counter, the ECC counters of a core, what MEM_BND_THERM shows. -/
def keptInDie (off : Nat) : Bool :=
  if off < 0x80000 then off % 0x20000 = 0x30 || (decide (0x18058 ≤ off % 0x20000) && decide (off % 0x20000 ≤ 0x18088))
  else off % 0x100 = 8 || off % 0x100 = 0x10 || off % 0x100 = 0x18

/-- A register of a die's block that a die reset clears: not those of its links (R211), nor those that outlast it. -/
def inDieBlock (d key : Nat) : Bool := key / 0x100000 = 8 + d && decide (key % 0x100000 < 0x90000) && !keptInDie (key % 0x100000)

/-- A byte of a die's SRAM or bonded memory, in the lists of State. -/
def inDieMem (d a : Nat) : Bool :=
  (decide (a < 2 ^ 32) && a / 2 ^ 29 = d) || (decide (2 ^ 40 ≤ a) && decide (a < 2 ^ 50) && (a - 2 ^ 40) / 2 ^ 36 = d)

/-- A far cell of a die's stacks, or a byte of an accumulator area of its cores. -/
def inDieFar (d a : Nat) : Bool := (decide (a < 2 ^ 45) && a / 2 ^ 40 / 3 = d) || (decide (2 ^ 62 ≤ a) && inDieMem d (a - 2 ^ 62))

/-- A core of a die, from a table key that has `n` entries a core. -/
def ofDie (d n key : Nat) : Bool := key / n / 4 = d

/-- R203 steps 1 and 2, R479: what a die reset clears: its registers, memories, stacks, queues and rings; its repair fuses are read and its cores wait for their canary. -/
def State.dieClear (s : State) (d : Nat) : State :=
  let sq := s.seq
  let t : State := { s with
    regs := s.regs.filter (fun e => !inDieBlock d e.1),
    mem := s.mem.filter (fun e => !inDieMem d e.1),
    far := s.far.filter (fun e => !inDieFar d e.1),
    tiers := { s.tiers with accStamp := s.tiers.accStamp.filter (fun e => e.1 / 4 ≠ d), keyEpoch := s.tiers.keyEpoch + 1 },
    seq := { sq with imem := sq.imem.filter (fun e => !ofDie d 1 e.1), ctx := sq.ctx.filter (fun e => !ofDie d 4 e.1), queue := sq.queue.filter (fun e => !ofDie d 8 e.1),
                     running := sq.running.filter (fun e => !ofDie d 8 e.1), ring := sq.ring.filter (fun e => !ofDie d 16 e.1),
                     slotFull := sq.slotFull.filter (fun e => !ofDie d 16 e.1), prescanned := sq.prescanned.filter (fun e => !ofDie d 1 e.1),
                     lastIssued := sq.lastIssued.filter (fun e => !ofDie d 2 e.1), waited := sq.waited.filter (fun e => !ofDie d 4 e.1) } }
  let lo := sramKey (4 * d) 0 / 8
  let u := ((t.eccClear lo (lo + 2 ^ 26)).eccClear (2 ^ 60 + bondKey (4 * d) 0 / 16) (2 ^ 60 + bondKey (4 * d + 4) 0 / 16)).eccClear (2 ^ 61 + 3 * d * 2 ^ 35) (2 ^ 61 + (3 * d + 3) * 2 ^ 35)
  u.loadRepair d

/-- R203, R292: the checks of DIE_RESET. ARG0 with a bit above [2:0] names no die: OUT_OF_RANGE (DESIGN CHOICE; assumption log 148). -/
def State.dieResetCode (s : State) (port : Nat) (args : List Word) : Nat :=
  let d := (args.getD 0 0).toNat % 8
  firstFail [(s.holderCheck port [MState.configured, MState.serving, MState.held] ≠ Code.ok, Code.notPermitted),
    (8 ≤ (args.getD 0 0).toNat, Code.outOfRange),
    ((actList s.img.cfg).any (fun a => a ≠ 0 && a ≠ 255 && s.actState a = 2 && s.actUsesDie a d), Code.notPermitted),
    (s.dieState d = 2 || s.dieState d = 3, Code.busy)]

/-- R203 steps 1 and 2: the die is taken out of service and reset; it is LOADING, which shows once its reset of 10 µs is over. -/
def State.dieReset (s : State) (d : Nat) : State :=
  let t := if s.dieState d = 0 then s.fenceDie d 5 else s
  State.fs { t.dieClear d with mgt := { t.mgt with fencedAt := tset t.mgt.fencedAt d t.now } } (R.DIE_STATUS d) F.DIE_STATUS_state 3

/-- DIE_RESET. -/
def execDieReset (port tag : Nat) (s : State) : Answer :=
  pushRow port 0x06 tag (fun t a => t.dieResetCode port a) (fun t a => t.dieReset ((a.getD 0 0).toNat % 8)) s

/-- R203 steps 3 to 5: the die's ports, clocks and links come up, its records are written, and it is in RUN. A change that waits is checked again, since fewer dies are
fenced now (R551). -/
def State.dieRun (s : State) (d : Nat) : State :=
  let t := ((List.range 4).foldl (fun (u : State) i => u.fs (R.XB_PORT_STATUS (4 * d + i)) F.XB_PORT_STATUS_state 0) s).fs R.XB_STATUS F.XB_STATUS_dead_dies
    (setBits (s.fg R.XB_STATUS F.XB_STATUS_dead_dies) d 1 0)
  let t := (t.setAclk d true).fs R.CLK_STATUS F.CLK_STATUS_bclk_lock (setBits (t.fg R.CLK_STATUS F.CLK_STATUS_bclk_lock) d 1 1)
  let u := ([0, 1, 2].foldl (fun (v : State) l => v.trainLink (endKey d l)) t).restoreDone d
  let v := (((u.fs (R.DIE_STATUS d) F.DIE_STATUS_state 0).fs (R.DIE_STATUS d) F.DIE_STATUS_fence_cause 0).showHot d (tgetD s.mgt.level d 0)).reloadDie d
  (if v.spState d = 13 then v.spStep1 d else v).applyRecheck

/-- R188, R203: a die that fails its training or loading returns to FENCED, with the cause logged. -/
def State.dieFails (s : State) (d cause : Nat) : State :=
  ((s.fs (R.DIE_STATUS d) F.DIE_STATUS_state 1).log Code.dieLost 2 (0x1000 + d) [BitVec.ofNat 8 cause]).dieResetEnds d Code.dieLost

/-- R28, R188: a hub link with no fibre lit has no usable quarter. -/
def State.hubDark (s : State) (d : Nat) : Bool := s.fb (R.DL_LINK_STATUS d 0) F.DL_LINK_STATUS_light_lo && s.fb (R.DL_LINK_STATUS d 0) F.DL_LINK_STATUS_light_hi

/-- DIE_RELOAD_DONE (R203): `ok` says that training and loading succeeded; the die's cores have run their canaries. -/
def execDieReloadDone (die : Nat) (ok : Bool) (s : State) : Answer :=
  let ready := (List.range 4).all (fun c => s.canaryRan (4 * die + c))
  occurs (die < 8 && s.dieState die = 3 && (!ok || ready)) s
    (let t := s.runTo (s.resetOver die)
     if !ok then t.dieFails die 5 else if t.hubDark die then t.dieFails die 4 else (t.dieRun die).dieResetEnds die Code.ok)

/-! ### Module reset, TEST, dump -/

/-- States "any from READY" and "any from FIRMWARE" (R292): by code (R279). -/
def fromState (n : Nat) : List Nat := (List.range 12).filter (fun k => n ≤ k)

/-- The serial as two words (R283). -/
def State.serialWord (s : State) (i : Nat) : Word := BitVec.ofNat 64 (fieldAt s.fuses.serial (8 * i) 8)

/-- MODULE_RESET: the reset follows 1 ms after completion. -/
def execModuleReset (port tag : Nat) (s : State) : Answer :=
  pushRow port 0x07 tag
    (fun t a => firstFail [(port ≠ t.tokenPort, Code.notPermitted), (!(fromState MState.ready).contains t.mstate, Code.notPermitted),
      (a.getD 0 0 ≠ t.serialWord 0, Code.outOfRange)])
    (fun t _ => t.cmdReady port Code.ok []) s

/-- TEST_ENTER (R280). -/
def execTestEnter (port tag : Nat) (s : State) : Answer :=
  pushRow port 0x08 tag (fun t _ => firstFail [(port ≠ t.tokenPort, Code.notPermitted), (t.mstate ≠ MState.ready, Code.notPermitted)])
    (fun t _ => (t.setState MState.test).cmdReady port Code.ok []) s

/-- R292, R298: the results of DUMP_OPEN: length, and where the dump lies. -/
def State.dumpRes (s : State) : List Word := match s.mgt.dump with
  | some d => [BitVec.ofNat 64 d.length, BitVec.ofNat 64 (b2n d.bonded)]
  | none => []

/-- DUMP_OPEN. -/
def execDumpOpen (port tag : Nat) (s : State) : Answer :=
  pushRow port 0x09 tag (fun t _ => firstFail [(t.mstate ≠ MState.dumped, Code.notPermitted)])
    (fun t _ => State.cmdReady { t with host := { t.host with dumpOpen := true } } port Code.ok t.dumpRes) s

/-! ### The token (R294-R296) -/

/-- TOKEN_NONCE: a new nonce of 48 random bytes, live for 10 s. -/
def execTokenNonce (port tag : Nat) (s : State) : Answer :=
  pushRow port 0x0A tag (fun t _ => firstFail [(!(fromState MState.firmware).contains t.mstate, Code.notPermitted)])
    (fun t _ =>
      let r := t.random 48
      State.cmdReady { r.2 with host := { r.2.host with nonce := tset r.2.host.nonce port (r.1, t.now) } } port Code.ok (wordsOf r.1)) s

/-- R295: the checks of a claim on its message. -/
def State.claimCode (s : State) (port : Nat) (m : Bytes) : Nat :=
  firstFail [(fieldAt m 64 1 ≠ port || port = s.tokenPort, Code.notPermitted), (slice m 0 16 ≠ s.fuses.serial, Code.keyUnknown),
    ((match tget s.host.nonce port with
      | some n => n.1 ≠ slice m 16 48 || decide (n.2 + 10000000000 ≤ s.now)
      | none => true), Code.staleVersion),
    (!ecdsaOk s.store.ownerPub (sha384 (m.take 72)) (slice m 72 96), Code.badSignature)]

/-- R296: the token moves. -/
def State.moveToken (s : State) (port : Nat) : State :=
  let t := s.fs R.GLB_STATUS F.GLB_STATUS_token_port port
  (State.msixBoth { t with store := { t.store with tokenHome := port } } 6).imgAbandon

/-- TOKEN_CLAIM: the nonce is consumed by any claim that reaches its own checks. -/
def State.claim (s : State) (port : Nat) : State :=
  let m := bytesOf ((List.range 21).map (fun i => s.rd (R.HP_CMD_PAYLOAD port i)))
  let c := s.claimCode port m
  let t : State := { s with host := { s.host with nonce := tdel s.host.nonce port } }
  if c = Code.ok then (t.moveToken port).cmdReady port Code.ok [] else t.cmdReady port c []

/-- TOKEN_CLAIM. -/
def execTokenClaim (port tag : Nat) (s : State) : Answer :=
  pushRow port 0x0B tag (fun t _ => firstFail [(port = t.tokenPort, Code.notPermitted), (!(fromState MState.firmware).contains t.mstate, Code.notPermitted)])
    (fun t _ => t.claim port)
    (if s.cmdBusy port then s else if port = s.tokenPort then { s with host := { s.host with nonce := tdel s.host.nonce port } } else s)

/-- NONCE_EXPIRY (R294). -/
def execNonceExpiry (port : Nat) (s : State) : Answer :=
  match tget s.host.nonce port with
  | some n => .next (let t := s.runTo (n.2 + 10000000000); { t with host := { t.host with nonce := tdel t.host.nonce port } })
  | none => .next s

/-- R291 step 4: results, code and DONE are shown and vector 0 is sent; a completed MODULE_RESET schedules its reset. -/
def State.cmdComplete (s : State) (port : Nat) (c : CmdSt) : State :=
  let k := R.HP_CMD_STATUS port
  let t : State := { s with host := { s.host with cmd := tdel s.host.cmd port } }
  let t := (List.range 4).foldl (fun (u : State) i => u.wr (R.HP_CMD_RES port i) (c.res.getD i 0)) t
  let t := if c.opcode = 0x0A && c.code = Code.ok then [0, 1].foldl (fun (u : State) i => u.wr (R.HP_CMD_NONCE_HI port i) (c.res.getD (4 + i) 0)) t else t
  let t := ((t.fs k F.HP_CMD_STATUS_code c.code).fs k F.HP_CMD_STATUS_state 2).msixNow port 0
  if c.opcode = 0x07 && c.code = Code.ok then { t with host := { t.host with resetAt := some (t.now + 1000000) } } else t

/-- CMD_COMPLETE. -/
def execCmdComplete (port : Nat) (s : State) : Answer :=
  match tget s.host.cmd port with
  | some c => occurs (port < 2 && c.ready) s (s.cmdComplete port c)
  | none => .next s

/-! ### The memory access port (R297, R298) -/

/-- The selected space, unit and byte offset. -/
def State.mapSel (s : State) (host : Nat) : Nat × Nat × Nat :=
  (s.fg (R.MAP_SEL host) F.MAP_SEL_space, s.fg (R.MAP_SEL host) F.MAP_SEL_unit, 8 * s.fg (R.MAP_ADDR host) F.MAP_ADDR_offset)

/-- R297: a MAP record covers the word with a right (0 read, 1 write) and is open in the module state; in TEST also where its states name the one that the module acts as
(R280; DESIGN CHOICE; assumption log 149). -/
def State.mapAllows (s : State) (space unit off right : Nat) : Bool :=
  (recsOf s.img.cfg RT.map).any (fun r => r.at 0 1 = space && (space = 4 || r.at 4 1 = unit) && bit (r.at 1 1) right && (bit (r.at 2 2) s.mstate || bit (r.at 2 2) s.effState)
    && decide (r.at 8 8 ≤ off) && decide (off + 8 ≤ r.at 8 8 + r.at 16 8))

/-- The target of a space below 4. -/
def mapTarget (space unit off : Nat) : Target := if space = 0 then .far (unit % 16) off else if space = 1 then .bond unit off else .sram unit off

/-- R297, R15: a word advances the address. -/
def State.mapStep (s : State) (host : Nat) : State := s.fs (R.MAP_ADDR host) F.MAP_ADDR_offset (s.fg (R.MAP_ADDR host) F.MAP_ADDR_offset + 1)

/-- R297: a word refused or failed. -/
def State.mapFail (s : State) (host code : Nat) : State :=
  let k := R.MAP_STATUS host
  ((s.fs k F.MAP_STATUS_code code).raise k F.MAP_STATUS_err).fsat k F.MAP_STATUS_denied 1

/-- R298: where a byte of the dump lies: in the tail of a bonded slice, or in the keep domain. -/
def State.dumpTarget (s : State) (bonded : Bool) (o : Nat) : Option Target :=
  if bonded then some (.bond (o / 201326592) (2 ^ 34 - 201326592 + o % 201326592)) else s.keepDom.map (fun i => .far i ((subArea s.img.cfg 3).1 + o))

/-- R297, R298: bytes of the dump that lie in one region, with their ECC, charged to activity 0. -/
def State.dumpRead (s : State) (bonded : Bool) (o n : Nat) : Bytes × State × Bool := match s.dumpTarget bonded o with
  | some t => (s.chargeTarget t 0 n).targetRead t n
  | none => (zeros n, s, false)

/-- Hub SRAM bytes with their ECC. -/
def State.hubRead (s : State) (off n : Nat) : Bytes × State × Bool :=
  let r := s.eccRead (hubKey off / 8) ((hubKey off + n + 7) / 8)
  (s.memRdN (hubKey off) n, r.1, r.2)

/-- Writes hub SRAM. -/
def State.hubWrite (s : State) (off : Nat) (b : Bytes) : State := (s.memWrN (hubKey off) b).eccClear ((hubKey off + 7) / 8) ((hubKey off + b.length) / 8)

/-- R26, R195: the quarter-ports by which a word of a target goes to the hub and comes from it. -/
def State.mapPorts (s : State) : Target → List Nat
  | .far i off => s.farPorts i off 8
  | .bond c _ => [4 * (c / 4)]
  | .sram c _ => [4 * (c / 4)]
  | _ => []

/-- R297: the port may read (0) or write (1) the word. -/
def State.mapRight (s : State) (host space unit off right : Nat) : Bool := s.mapAllows space unit off right && (right = 0 || host = s.tokenPort)

/-- R139, R190, R263, R437: a word to which the port has the right waits while an MMA runs on its core's accumulator banks, while the hub link does not send, for the budget
of activity 0, and a write into an ERASURE tensor for deltas. -/
def State.mapWaits (s : State) (host space unit off right : Nat) : Bool :=
  let t := mapTarget space unit off
  decide (space < 3) && s.mapRight host space unit off right && !s.targetDead t
  && (s.accHeld t 8 || !s.targetCovered t 0 8 || !s.unitLinks (s.mapPorts t) (right = 0) || (right = 1 && s.erasureWaits t 8))

/-- All ones. -/
def ones64 : Word := BitVec.ofNat 64 (2 ^ 64 - 1)

/-- R297: what a read of memory gives: the word, or all ones on an uncorrectable error; the address advances. -/
def mapWord (host : Nat) (r : Bytes × State × Bool) : Word × State :=
  if r.2.2 then (ones64, (r.2.1.mapFail host Code.memUncorrectable).mapStep host) else (BitVec.ofNat 64 (leNat r.1), r.2.1.mapStep host)

/-- R297: one word read: the data and the state after it. -/
def State.mapRead (s : State) (host : Nat) : Word × State :=
  let m := s.mapSel host
  if m.1 = 5 then
    match s.mgt.dump with
    | some d =>
      if s.mstate = MState.dumped && s.host.dumpOpen && decide (m.2.2 < d.length) then mapWord host (s.dumpRead d.bonded m.2.2 8)
      else (ones64, s.mapFail host Code.notPermitted)
    | none => (ones64, s.mapFail host Code.notPermitted)
  else if (m.1 = 0 || m.1 = 1 || m.1 = 2 || m.1 = 4) && s.mapRight host m.1 m.2.1 m.2.2 0 then
    let t := mapTarget m.1 m.2.1 m.2.2
    if m.1 ≠ 4 && s.targetDead t then (ones64, (s.mapFail host Code.targetDead).mapStep host)
    else
      mapWord host (if m.1 = 4 then s.hubRead m.2.2 8 else ((s.chargeTarget t 0 8).unitMoves (s.mapPorts t) true).targetRead t 8)
  else (ones64, s.mapFail host Code.notPermitted)

/-- MAP_DATA_READ: an access that must wait (R139, R263) does not happen yet. -/
def execMapDataRead (host : Nat) (s : State) : Answer :=
  let m := s.mapSel host
  let r := s.mapRead host
  occurs (host < 2 && s.power = 0 && !s.mapWaits host m.1 m.2.1 m.2.2 0) s (r.2.emit (.readData host [r.1]))

/-- R297: one word written by the token holder. -/
def State.mapWrite (s : State) (host : Nat) (data : Word) : State :=
  let m := s.mapSel host
  if (m.1 = 0 || m.1 = 1 || m.1 = 2 || m.1 = 4) && s.mapRight host m.1 m.2.1 m.2.2 1 then
    let t := mapTarget m.1 m.2.1 m.2.2
    let b := leBytes 8 data.toNat
    if m.1 = 4 then (s.hubWrite m.2.2 b).mapStep host
    else if s.targetDead t then (s.mapFail host Code.targetDead).mapStep host
    else (((s.chargeTarget t 0 8).unitMoves (s.mapPorts t) false).targetWrite t 0 false b).mapStep host
  else s.mapFail host Code.notPermitted

/-- MAP_DATA_WRITE. -/
def execMapDataWrite (host : Nat) (data : Word) (s : State) : Answer :=
  let m := s.mapSel host
  occurs (host < 2 && s.power = 0 && !s.mapWaits host m.1 m.2.1 m.2.2 1) s (s.mapWrite host data)

/-! ### Events of a port (R278, R533) -/

/-- A register of a host port that its reset clears: command registers, MSI-X table and pending bits, MAP registers. -/
def portReg (h key : Nat) : Bool :=
  (decide (R.HP_CMD_PUSH h ≤ key) && decide (key < R.HP_CMD_PUSH h + 0x8000)) || key = R.MAP_SEL h || key = R.MAP_ADDR h || key = R.MAP_STATUS h

/-- R278: a port's controller, configuration space, MSI-X table, command state and MAP registers are reset; its link is left to the event. A BUSY command runs on and its result is
lost; so a MODULE_RESET that has been accepted still resets. -/
def State.resetPort (s : State) (h : Nat) : State :=
  { s with regs := s.regs.filter (fun e => !portReg h e.1),
           host := { s.host with cmd := tdel s.host.cmd h, pci := tset s.host.pci h { PciSt.reset with link := (s.pci h).link }, vecPending := s.host.vecPending.filter (fun e => e.1 / 64 ≠ h),
                                 modStart := s.host.modStart.filter (fun e => e.1 / 64 ≠ h),
                                 resetAt := match tget s.host.cmd h with
                                   | some c => if c.opcode = 0x07 && c.ready && c.code = Code.ok then some (s.now + 1000000) else s.host.resetAt
                                   | none => s.host.resetAt } }

/-- The PCLK of a port's controller is locked or not (R216; assumption log 77). -/
def State.setPclk (s : State) (h : Nat) (on : Bool) : State := s.fs R.CLK_STATUS F.CLK_STATUS_pclk_lock (setBits (s.fg R.CLK_STATUS F.CLK_STATUS_pclk_lock) h 1 (b2n on))

/-- The link of a port comes up at a negotiated width and speed, or is down (R277). -/
def State.setHostUp (s : State) (h : Nat) (up : Bool) : State :=
  { s.fs R.GLB_STATUS (if h = 0 then F.GLB_STATUS_hpa_up else F.GLB_STATUS_hpb_up) (b2n up) with
    host := { s.host with pci := tset s.host.pci h { s.pci h with link := if up then pciLink h s.now else (0, 0) } } }

/-- R228, R278: a reset of the holder abandons an image load. -/
def State.holderReset (s : State) (h : Nat) : State := if h = s.tokenPort then s.imgAbandon else s

/-- PERST_ACCEPTED. -/
def execPerstAccepted (host : Nat) (s : State) : Answer :=
  occurs (host < 2) s
    (let t := (((s.holderReset host).resetPort host).setHostUp host false).setPclk host false
     { t with host := { t.host with perstLow := tset t.host.perstLow host true } })

/-- PERST_RELEASE (R533): after an accepted reset the port may train; a shorter pulse is only counted. -/
def execPerstRelease (host lowNs : Nat) (s : State) : Answer :=
  occurs (host < 2) s
    (if tgetD s.host.perstLow host false then { s with host := { s.host with perstLow := tdel s.host.perstLow host } }
     else if lowNs < 1000000 then s.count (R.PIN_CNT_PERST_SHORT host) else s)

/-- FUNCTION_LEVEL_RESET. -/
def execFunctionLevelReset (host : Nat) (s : State) : Answer := occurs (host < 2) s ((s.holderReset host).resetPort host)

/-- D3COLD_ENTRY. -/
def execD3coldEntry (host : Nat) (s : State) : Answer :=
  occurs (host < 2) s (let t := (s.setHostUp host false).setPclk host false; { t with host := { t.host with d3cold := tset t.host.d3cold host true } })

/-- D3COLD_EXIT: as PERST_N; the link trains anew. -/
def execD3coldExit (host : Nat) (s : State) : Answer :=
  occurs (host < 2 && tgetD s.host.d3cold host false) s
    (let t := (s.holderReset host).resetPort host; { t with host := { t.host with d3cold := tdel t.host.d3cold host } })

/-- HOST_LINK_DOWN: words consumed by reads whose completion is lost are lost; they left the module's FIFOs at the read (R288), so nothing more changes. -/
def execHostLinkDown (host : Nat) (_lostReads : List (Nat × Nat)) (s : State) : Answer := occurs (host < 2) s (s.setHostUp host false)

/-- HOST_LINK_UP (R283, R533). -/
def execHostLinkUp (host : Nat) (s : State) : Answer :=
  occurs (host < 2 && s.power = 0 && !tgetD s.host.perstLow host false && !tgetD s.host.d3cold host false) s ((s.setHostUp host true).setPclk host true)

end Machine
end Sys2Proof
end

