-- ==== Sys2Proof/Machine/Pauses.lean ====
section
/-!
DEFINITION. Step boundaries (R239), pauses (R135, R240, R241, R419), the schedule record (R420), starts (R117, R239), replay (R427, R429), HELD (R368).
-/
namespace Sys2Proof
namespace Machine

/-- R485: a step boundary passed. -/
def State.haunoStep (s : State) (b : Nat) : State :=
  s.eachHauno (fun (t : State) h => (t.fs (R.HLC_STEP h) F.HLC_STEP_boundary b).haunoEvent h F.HLC_IRQ_step 1)

/-! ### The schedule record (R420) -/

/-- A register the schedule record holds: context and ring status, counters, activities, groups. -/
def recReg (key : Nat) : Bool :=
  (decide (0x800000 ≤ key) && decide (key < 0x1000000) && decide (key / 0x20000 % 8 < 4) && (decide (key % 0x20000 / 8 < 0x100) || decide (0x10000 ≤ key % 0x20000 && key % 0x20000 < 0x10080)))
  || (decide (R.ACT_STATE 0 ≤ key) && decide (key ≤ R.ACT_STATE 255)) || (decide (R.CLE_GRP 0 ≤ key) && decide (key ≤ R.CLE_GRP 63))

/-- The schedule record of the present pause. -/
def State.schedRec (s : State) (n : Nat) : SchedRec :=
  ⟨n, s.cfgDigest, s.inForce, s.regs.filter (fun e => recReg e.1), s.seq, s.host, s.bud, s.fj, s.rind.chans, s.cle, s.kpu.jend, bits s.fuses.capability 48 8, s.epoch⟩

/-- R427 step 1: what a schedule record restores. The epoch in force stays that of the routes in force (R441, R444), and what the cores had still to hear of is dropped, because
they send it again (DESIGN CHOICE; assumption log 34). -/
def State.restoreRec (s : State) (r : SchedRec) : State :=
  let t : State := { s with
    regs := r.regs.foldl (fun a e => tset a e.1 e.2) (s.regs.filter (fun e => !recReg e.1)),
    seq := { r.seq with imem := s.seq.imem }, bud := r.bud, cle := r.cle,
    host := { s.host with staging := r.host.staging, plain := r.host.plain, farRing := r.host.farRing, farFree := r.host.farFree, sgu := r.host.sgu, sguIn := r.host.sguIn },
    fj := { s.fj with pairs := r.fj.pairs, follow := r.fj.follow, order := r.fj.order, hold := r.fj.hold, xseq := r.fj.xseq, high := r.fj.high,
                      sent := s.fj.sent.filter (fun e => e.core = 32), retry := s.fj.retry.filter (fun e => e.1.core = 32), loads := [], fences := [], tails := [] },
    rind := { s.rind with chans := r.chans } }
  (List.range 128).foldl (fun (u : State) x => if u.ctxState x = 3 then u.setCtx x 1 else u) t

/-- R427 step 2: the rings that host ports feed are emptied. -/
def State.emptyHostRings (s : State) : State :=
  (List.range 512).foldl (fun (t : State) id => match ringCfg t.img.cfg id with
    | some c => if c.kind = 2 then
        let x := t.ring id
        { (t.fs (ringReg id) F.RING_STATUS_used 0) with seq := { t.seq with ring := tset t.seq.ring id { x with head := x.fill, pos := 0 }, slotFull := tdel t.seq.slotFull id } }
      else t
    | none => t) s

/-- R425: the entries in journal bytes; `fuel` bounds their number. -/
def journalOf : Nat → Nat → Bytes → List JEntry
  | 0, _, _ => []
  | fuel + 1, pos, b =>
    let h := fieldAt b 0 8
    let kind := h % 16
    let n := if kind = 1 then 8 * bits h 16 16 else if kind = 3 then 64 else if kind = 4 then 8 else 0
    if b.length < 8 + n || kind = 0 || 4 < kind then []
    else ⟨pos, kind, bits h 4 12, bits h 32 32, slice b 8 n, 0⟩ :: journalOf fuel (pos + 8 + n) (b.drop (8 + n))

/-- R427 step 4: the journal from the mark of a snapshot on. -/
def fromMark (n : Nat) (j : List JEntry) : List JEntry :=
  (j.dropWhile (fun e => !(e.kind = 4 && fieldAt e.body 0 4 = n % 2 ^ 32))).drop 1

/-- R429, R442: the digest that must be in force after an APPLY entry: the map's spare digest for the one it records. -/
def mapDigest : Nat → Bytes → Bytes → Option Bytes
  | 0, _, _ => none
  | n + 1, m, d => if slice m 0 48 = d then some (slice m 48 48) else mapDigest n (m.drop 96) d

/-- R429: a mismatch of digests stops replay with STALE_VERSION: every bound context stops. -/
def State.replayStops (s : State) : State :=
  let t := (List.range 128).foldl (fun (u : State) x => if (u.ctx x).bound && u.ctxState x ≠ 0 then u.stopCtx x Code.staleVersion else u) s
  ({ t with kpu := { t.kpu with replay := none } }.fs R.KPU_STATUS F.KPU_STATUS_replaying 0).log Code.staleVersion 2 0 []

/-- R243, R245: the change of a replay writes its routing bank as the original did. -/
def State.replayBank (s : State) : State := match s.img.pending with
  | some p => (match applySet (s.img.recs.getD []) s.img.overlays p.set with
    | some new => if typeChanged s.img.cfg new RT.routing then s.setBank s.oldEpoch (s.newBank new) else s
    | none => s)
  | none => s

/-- R427 step 5, R429: the entries between two boundaries that are no words: snapshot marks are passed over, changes applied; a spare looks for the digest in force in the stand-in
map, a member in the entry itself. -/
def State.replayMarks : Nat → State → State
  | 0, s => s
  | fuel + 1, s => match s.kpu.replay with
    | some (e :: r) =>
      if e.kind = 4 then State.replayMarks fuel { s with kpu := { s.kpu with replay := some r } }
      else if e.kind = 3 then
        let t : State := { s with kpu := { s.kpu with replay := some r }, img := { s.img with pending := some ⟨fieldAt e.body 0 2, s.now, true, none, s.now, false, s.fencedMask⟩ } }
        let u := t.replayBank.applyActive
        let due := match s.kpu.ripen with
          | some x => mapDigest (x.map.length / 96) x.map (slice e.body 16 48)
          | none => some (slice e.body 16 48)
        if due = some u.cfgDigest then State.replayMarks fuel u else u.replayStops
      else s
    | _ => s

/-- R427 steps 2 to 4: replay of entries begins from a snapshot whose pages are back: its record is restored, and the changes right behind its mark are applied. -/
def State.replayFrom (s : State) (n : Nat) (r : SchedRec) (j : List JEntry) : State :=
  let t := (s.restoreRec r).emptyHostRings
  let u : State := { t with kpu := { t.kpu with replay := some j, last := some n }, boundaryNo := n + 1, host := { t.host with started := true } }
  State.replayMarks (j.length + 1) ((u.fs R.KPU_STATUS F.KPU_STATUS_replaying 1).cleResume)

/-- R427 steps 1 to 4, R440, R443: a RIPE spare that a START makes serve begins its replay. -/
def State.replayBegin (s : State) : State :=
  match s.kpu.ripen with
  | some r =>
    State.replayFrom (s.fs R.KPU_STATUS F.KPU_STATUS_spare_state 3) r.target (Config.recordOf r.recordBytes)
      (fromMark r.target (journalOf (r.journalBytes.length + 1) 0 r.journalBytes))
  | none => s

/-- R427 step 1: the MUSLIN tensors have the bytes of their staging copies again, charged to activity 0 (R439). -/
def State.unstage (s : State) : State :=
  (keepTensors s.img.cfg 1).foldl (fun (t : State) (r : Rec) => (List.range (r.at 16 8 / 4096)).foldl (fun (u : State) p =>
    let b := u.unitRead false 0 (r.at 1 1) (r.at 2 1) (r.at 24 8 + 4096 * p) 4096
    let v := b.2.1.unitWrite (r.at 1 1) (r.at 2 1) (r.at 8 8 + 4096 * p) b.1 b.2.2
    if r.at 1 1 = 0 then v.take 0 3 (r.at 2 1) 64 else v) t) s

/-- R427, R444 steps 4 and 6: a surviving member goes back to its target, whose pages its staging copies hold, and replays its own journal from the mark. Its partner's newer
versions stand for nothing any more: the next snapshot streams every page. -/
def State.recoverGo (s : State) (x : Recover) : State :=
  match s.kpu.recs.find? (fun r => r.n = x.target) with
  | none => s.recoverNone
  | some r =>
    let t := s.unstage
    let k := { t.kpu with epochs := (t.kpu.epochs.map (fun e => (e.1, min e.2 x.target))), recs := r :: t.kpu.recs.filter (fun q => decide (q.n < x.target)),
                          held := [], streaming := none, recover := none }
    State.replayFrom { t with kpu := k } x.target r (fromMark x.target t.kpu.journal)

/-! ### Starts -/

/-- R117, R292: an IDLE activity starts. -/
def State.startAct (s : State) (a : Nat) : State :=
  if s.actState a ≠ 1 then s else (boundCtxs s.img.cfg a).foldl (fun (t : State) x => t.startCtx x) (s.setAct a 2)

/-- R239, R292: the starts accepted at least 100 µs before the boundary take effect; the first one moves CONFIGURED to SERVING. One that starts a stopped job again after a loss
waits for the pages that the partner still has to return (R444; assumption log 34). -/
def State.takeStarts (s : State) : State :=
  let due := s.host.starts.filter (fun e => decide (e.2 + 100000 ≤ s.now))
  if due.isEmpty || (match s.kpu.recover with
    | some x => !x.want.isEmpty
    | none => false) then s
  else
    let t : State := { s with host := { s.host with starts := s.host.starts.filter (fun e => !decide (e.2 + 100000 ≤ s.now)), started := true } }
    let u := if t.mstate = MState.configured then t.setState MState.serving else t
    if u.fg R.KPU_STATUS F.KPU_STATUS_spare_state = 2 && u.fg R.KPU_STATUS F.KPU_STATUS_role = 2 then u.replayBegin
    else match u.kpu.recover with
      | some x => u.recoverGo x
      | none => (due.flatMap (fun e => e.1)).foldl State.startAct u

/-! ### HELD (R368) -/

/-- R366, R368: a lease is in force. -/
def State.leased (s : State) : Bool := s.fg R.FJ_STATUS F.FJ_STATUS_lease = 1 && decide (s.rack < (s.rd R.FJ_LEASE).toNat)

/-- R366, R368: at a boundary, a module that has started becomes HELD without a lease, holding its calls (R403), and SERVING again with one. Not in TEST (R280). -/
def State.leaseCheck (s : State) : State :=
  if s.mstate = MState.serving && !s.leased then (((s.setState MState.held).log Code.leaseLost 2 0 []).msixBoth 7).cleHold
  else if s.mstate = MState.held && s.leased then ((s.setState MState.serving).msixBoth 7).cleResume
  else s

/-! ### Snapshots (R417-R419) -/

/-- R418: a page is dirty. -/
def State.pageDirty (s : State) (r : Rec) (p : Nat) : Bool :=
  match tget s.kpu.epochs (r.id * 2 ^ 24 + p), s.kpu.last with
  | some e, some n => decide (n + 1 ≤ e)
  | some _, none => true
  | none, _ => false

/-- The dirty pages of a tensor. -/
def State.dirtyPages (s : State) (r : Rec) : List Nat := (List.range (r.at 16 8 / 4096)).filter (s.pageDirty r)

/-- R419 step 2: a tensor has more dirty pages than its dirty_max. -/
def State.tooDirty (s : State) : Bool := (keepTensors s.img.cfg 1).any (fun r => decide (r.at 4 4 < (s.dirtyPages r).length))

/-- R417: a due snapshot is skipped. -/
def State.snapSkipped (s : State) : Bool :=
  s.heldNow || s.fb R.KPU_STATUS F.KPU_STATUS_replaying || s.fb R.KPU_CTL F.KPU_CTL_suspend || s.kpu.streaming.isSome

/-- R240: something waits for a snapshot or maintenance pause. -/
def State.maintDue (s : State) : Bool :=
  (List.range 32).any (fun c => s.dieUp (c / 4) && !s.coreDead c && s.fb (R.ARR_STATUS (c / 4) (c % 4)) F.ARR_STATUS_canary_pending)
  || (indices 24 (fun k => s.fg (R.FMC_STK_STATUS k) F.FMC_STK_STATUS_retire_state = 3)) ≠ []
  || (List.range 24).any (fun k => s.fb (linkReg k) F.DL_LINK_STATUS_retrain_pending
      || (s.fb (R.DL_CTL (k / 3)) F.DL_CTL_restore && (s.fg (linkReg k) F.DL_LINK_STATUS_width = 1 || s.fg (linkReg k) F.DL_LINK_STATUS_width = 2)))
  || (List.range 16).any (fun p => s.spFrames p && (s.fb (R.SP_CTL p) F.SP_CTL_restore || s.mgt.optic.contains p))

/-- R419 step 4: the dirty pages of a tensor reach their staging copies, charged to its activity with gates suspended (R422). -/
def State.stageTensor (s : State) (r : Rec) : State :=
  (s.dirtyPages r).foldl (fun (t : State) p =>
    let b := t.unitRead false (r.at 3 1) (r.at 1 1) (r.at 2 1) (r.at 8 8 + 4096 * p) 4096
    let u := (b.2.1.unitWrite (r.at 1 1) (r.at 2 1) (r.at 24 8 + 4096 * p) b.1 b.2.2).pmc 59 0x0C0 1 ⟨some 0x31, some 1, some (r.at 3 1), none, none⟩
    if r.at 1 1 = 0 then u.charge (r.at 3 1) 3 (r.at 2 1) 64 else if r.at 1 1 = 1 then u.charge (r.at 3 1) 2 (r.at 2 1) 128 else u) s

/-- R419 steps 3, 4 and 6, R423: snapshot `n` is taken, and streams or is sealed here. The deltas logged before it are older from now on (R437; assumption log 147). -/
def State.takeSnapshot (s : State) (n : Nat) : State :=
  let r := s.schedRec n
  let t := ((keepTensors s.img.cfg 1).foldl State.stageTensor s).journal 4 0 0 (leBytes 4 n ++ zeros 4)
  let all := s.fb R.KPU_CTL F.KPU_CTL_full_next
  let u : State := { t with kpu := { t.kpu with recs := (r :: t.kpu.recs).take 2, last := some n }, eru := { t.eru with log := t.eru.log.filterMap (fun d => if d.old then none else some { d with old := true }), rolled := [] } }
  let v := ((u.fs R.KPU_SNAP_STATUS F.KPU_SNAP_STATUS_last_taken n).count R.KPU_CNT_TAKEN).fs R.KPU_CTL F.KPU_CTL_full_next 0
  if v.paired && !v.inTest then v.streamSnapshot n all else v.sealed n true

/-- R419: a snapshot is abandoned. -/
def State.abandonSnapshot (s : State) (n : Nat) : State :=
  ((s.count R.KPU_CNT_ABANDONED).raise R.KPU_STATUS F.KPU_STATUS_overrun).emit (.report Code.outOfRange (leBytes 4 n))

/-! ### The end of a pause -/

/-- R419 step 6, R241 step 6: the cores resume, calls and issue go on, and the module state returns; `len` is how long the pause has lasted. A pause of more than
250 µs is logged (R234). -/
def State.resume (s : State) (p : Pause) (len : Nat) : State :=
  let t := (List.range 32).foldl (fun (u : State) c =>
    (u.fs (R.SEQ_STATUS (c / 4) (c % 4)) F.SEQ_STATUS_snapshot_pending 0).fs (R.SEQ_STATUS (c / 4) (c % 4)) F.SEQ_STATUS_parked 0) s
  let t := (List.range 128).foldl (fun (u : State) x => if u.ctxState x = 3 then u.setCtx x (if (u.ctx x).atStep then 2 else 1) else u) t
  let t := if 250000 < len then t.log Code.ok 0 0 ([12] ++ leBytes 4 len) else t
  let t : State := { t.fs R.KPU_SNAP_STATUS F.KPU_SNAP_STATUS_last_pause (min 0xFFFF (cdiv len 1000)) with pause := none }
  let t := if t.mstate = MState.snapshot then t.setState p.back else t
  let t := (if t.fb R.CLE_STATUS F.CLE_STATUS_held && !t.heldNow then t.cleResume else t).haunoPause false
  (s.streamNotify t).keepPump

/-- R419 steps 3 to 6, R244: everything of a pause from its staging on. An abandoned snapshot goes to step 6 at once. -/
def State.pauseEnd (s : State) (p : Pause) : State :=
  let lost := p.snapshot && p.voided
  let t := if !p.snapshot then s else if lost then s.abandonSnapshot p.boundary else s.takeSnapshot p.boundary
  let ready := match s.img.pending with
    | some q => p.apply && !lost && q.bankWritten && !q.again && (match s.img.run with
      | .recheck _ _ => false
      | _ => true)
    | none => false
  let u := if ready then t.applyActive else t
  let v := match u.host.snapNow with
    | some _ => if p.snapshot then
        State.cmdEnds { u with host := { u.host with snapNow := none } } 0x05 (if lost then Code.outOfRange else Code.ok) [BitVec.ofNat 64 (p.boundary % 2 ^ 32)]
      else u
    | none => u
  v.resume p (s.rack - p.asked)

/-- Work of a pause that has rows of its own is still going on: canaries, retrains of die links and of ports. -/
def State.pauseBusy (s : State) : Bool :=
  (match s.pause with
    | some p => p.canaries
    | none => []).any (fun c => s.dieUp (c / 4) && !s.coreDead c && s.fb (R.ARR_STATUS (c / 4) (c % 4)) F.ARR_STATUS_canary_pending)
  || (List.range 24).any (fun k => s.fb (linkReg k) F.DL_LINK_STATUS_retraining)
  || (List.range 16).any (fun p => s.spFrames p && s.fb (R.SP_CTL p) F.SP_CTL_restore)

/-- R54, R176, R177, R190, R193, R320, R499: what a snapshot or maintenance pause starts at moment A; the stacks that switch were COPIED when it was asked for. -/
def State.maintStart (s : State) (p : Pause) : State :=
  let t := s.startRetrains.settleRestores.retireSwitch p.retires
  let u := t.mgt.optic.foldl (fun (v : State) p => if v.spFrames p then v.fs (R.SP_CTL p) F.SP_CTL_restore 1 else v) t
  { u with mgt := { u.mgt with optic := [] } }

/-- R135, R241 step 2, R419 step 2: moment A: every core is parked, and a snapshot with too many dirty pages, or one voided by a fence, is abandoned; its
retrains and switches go ahead. A pause that has nothing to wait for ends at once. -/
def State.momentA (s : State) (p : Pause) : State :=
  let t := (List.range 32).foldl (fun (u : State) c => u.fs (R.SEQ_STATUS (c / 4) (c % 4)) F.SEQ_STATUS_parked 1) s
  let q := { p with atA := some s.now, voided := p.voided || (p.snapshot && s.tooDirty) }
  let t : State := { t with pause := some q }
  let t := if p.snapshot || p.maint then t.maintStart q else t
  if p.snapshot && q.voided then t.pauseEnd q
  else
    if !p.snapshot && !(p.maint && t.pauseBusy) then t.pauseEnd q else t

/-- CORE_PARKED (R135): a core is parked; with the last one the pause reaches moment A. -/
def execCoreParked (core : Nat) (s : State) : Answer :=
  match s.pause with
  | some p => occurs (core < 32 && p.atA.isNone && s.corePark core) s
      (if (List.range 32).all s.corePark then s.momentA p else s.fs (R.SEQ_STATUS (core / 4) (core % 4)) F.SEQ_STATUS_parked 1)
  | none => .next s

/-- SNAPSHOT_STAGING_DONE (R419, R240): the work of the pause is done and the cores resume. -/
def execSnapshotStagingDone (s : State) : Answer :=
  match s.pause with
  | some p => occurs (p.atA.isSome && !((p.snapshot || p.maint) && s.pauseBusy)) s (s.pauseEnd p)
  | none => .next s

/-! ### The boundary -/

/-- R238, R243, R244: a waiting change takes effect at this boundary. -/
def State.applyDue (s : State) : Bool := match s.img.pending with
  | some q => q.bankWritten && !q.again && decide (q.since + 100000 ≤ s.now) && (match s.img.run with
    | .recheck _ _ => false
    | _ => true)
  | none => false

/-- R417, R239, R292: a snapshot is due at boundary `b`; `started` says that a START took effect before it. -/
def State.snapDue (s : State) (b : Nat) (started : Bool) : Bool :=
  let n := snapSteps s.img.cfg
  n ≠ 0 && ((started && b % n = 0) || s.host.snapNow.isSome)

/-- R417, R292: a due snapshot that is skipped counts; a SNAPSHOT_NOW that waited for it ends. -/
def State.skipSnapshot (s : State) : State :=
  (if s.host.snapNow.isSome then State.cmdEnds { s with host := { s.host with snapNow := none } } 0x05 Code.notPermitted [] else s).count R.KPU_CNT_SKIPPED

/-- What a boundary `b` does once its time has come: the mark, starts, leases, KEEP packets that can leave now, and the pause it asks for. -/
def State.boundary (s : State) (b : Nat) : State :=
  let started := s.host.started
  let t := s.journal 2 0 0 []
  let t := State.haunoStep { t with boundaryNo := b + 1 } b
  let t := t.partnerWait.takeStarts.leaseCheck.keepPump
  let due := t.snapDue b started
  let skip := due && t.snapSkipped
  let t := if skip then t.skipSnapshot else t
  let maint := snapSteps t.img.cfg = 0 && t.maintDue
  let p : Pause := ⟨due && !skip, t.applyDue, maint, b, none, false, t.mstate, [], t.rack, []⟩
  if t.pause.isNone && (p.snapshot || p.apply || p.maint) then t.askPause p else t.passContexts t.pause.isSome

/-- STEP_BOUNDARY (R239). In a replay boundaries do not wait for rack time and are REPLAY_BOUNDARY's. -/
def execStepBoundary (s : State) : Answer :=
  occurs (s.img.recs.isSome && stepPeriod s.img.cfg ≠ 0 && !s.fb R.KPU_STATUS F.KPU_STATUS_replaying && decide (4 ≤ s.mstate) && decide (s.mstate ≤ 8)) s
    (State.boundary (s.runToRack (stepPhase s.img.cfg + s.boundaryNo * stepPeriod s.img.cfg)) s.boundaryNo)

/-! ### Replay (R427, R429) -/

/-- R427 step 5: every bound context is at a STEP, IDLE or STOPPED. -/
def State.replayParked (s : State) : Bool :=
  (List.range 128).all (fun x => !(s.ctx x).bound || s.ctxState x = 0 || s.ctxState x = 4 || (s.ctx x).atStep)

/-- R427 step 6: replay ends, and the module goes on live from the next boundary. A spare then rebuilds its parity units (R443). -/
def State.replayEnd (s : State) : State :=
  let t := s.fs R.KPU_STATUS F.KPU_STATUS_replaying 0
  let t := if t.kpu.ripen.isSome && t.eruPresent && keepG t.img.cfg ≠ 0 then t.parityResync else t
  { t with kpu := { t.kpu with replay := none, ripen := none }, boundaryNo := t.nextBoundary t.img.cfg }

/-- REPLAY_BOUNDARY (R427): a boundary of the replay, or its end after the last entry. A snapshot due at it is skipped (R417). -/
def State.replayBoundary (s : State) : State :=
  match s.kpu.replay with
  | some (e :: r) =>
    let t : State := { s with kpu := { s.kpu with replay := some r } }
    let u := t.journal 2 0 0 []
    let u := if u.snapDue e.boundary true then u.skipSnapshot else u
    let u := State.haunoStep { u with boundaryNo := u.boundaryNo + 1 } e.boundary
    let v := State.replayMarks (r.length + 1) u
    let w := v.passContexts false
    if w.kpu.replay = some [] then w.replayEnd else w
  | _ => s.replayEnd

/-- REPLAY_BOUNDARY. -/
def execReplayBoundary (s : State) : Answer :=
  match s.kpu.replay with
  | some (e :: _) => occurs (e.kind = 2 && s.replayParked) s s.replayBoundary
  | some [] => .next s.replayBoundary
  | none => .next s

end Machine
end Sys2Proof
end

