-- ==== Sys2Proof/Machine/Mgmt.lean ====
section
/-!
DEFINITION. Management: sensors, hot states, refresh steps and trips (R496-R505, R160-R163, R168), the thermal alert (R500, R541), the power governor
(R33, R269, R506, R507), fatal errors (R516, R517).
-/
namespace Sys2Proof
namespace Machine

/-! ### Sensors (R497) -/

/-- What a sensor measures: 0 logic, 1 DRAM layer, 2 far stack, 3 optical engine, 4 hub, 5 board. -/
def sensorKind (i : Nat) : Nat := if i < 320 then (if i % 40 < 24 then 0 else 1) else if i < 368 then 2 else if i < 400 then 3 else if i < 416 then 4 else 5
/-- Its die, stack or port. -/
def sensorUnit (i : Nat) : Nat := if i < 320 then i / 40 else if i < 368 then (i - 320) / 2 else if i < 400 then (i - 368) / 2 else 0
/-- R497: the sensors compared with one another. -/
def sensorGroup (i : Nat) : List Nat := (List.range 420).filter (fun j => sensorKind j = sensorKind i && sensorUnit j = sensorUnit i)
/-- R497: the sensors of an absent stack are absent. -/
def State.sensorPresent (s : State) (i : Nat) : Bool := i < 420 && (sensorKind i ≠ 2 || s.stackPresent (sensorUnit i))
/-- R499: trip limits; a board sensor has none. -/
def tripLimit (i : Nat) : Option Nat := match sensorKind i with
  | 0 => some 110
  | 1 => some 108
  | 2 => some 105
  | 3 => some 90
  | 4 => some 110
  | _ => none
/-- R499, R226: the hot limit in force in °C. -/
def State.hotLimit (s : State) (i : Nat) : Nat :=
  let lim (off d : Nat) : Nat := match findRec s.img.cfg RT.limits 0 with
    | some r => r.at off 1
    | none => d
  match sensorKind i with
  | 0 => lim 2 100
  | 1 => lim 3 100
  | 2 => lim 4 95
  | 3 => lim 5 80
  | 4 => lim 2 100
  | _ => 90
/-- A sensor before its first sample. -/
def Sensor.empty : Sensor := ⟨[], 0, 0, 0, 0, 0, []⟩
/-- A sensor. -/
def State.sensor (s : State) (i : Nat) : Sensor := tgetD s.mgt.sens i Sensor.empty
/-- Changes a sensor. -/
def State.setSensor (s : State) (i : Nat) (x : Sensor) : State := { s with mgt := { s.mgt with sens := tset s.mgt.sens i x } }
/-- R502: what a failed sensor reads, in 1/16 °C. -/
def failedValue (i : Nat) : Int := match tripLimit i with
  | some t => 16 * (t : Int) - 16
  | none => 1440
/-- The raw value as it reads. -/
def State.rawTemp (s : State) (i : Nat) : Int := if (s.sensor i).cause ≠ 0 then failedValue i else (s.sensor i).raws.headD 0
/-- R498, R502: the filtered value: the mean of the last eight raw samples, rounded down (assumption log 43). -/
def State.filtTemp (s : State) (i : Nat) : Int :=
  let x := s.sensor i
  if x.cause ≠ 0 then failedValue i else if x.raws.isEmpty then 0 else x.raws.sum / (x.raws.length : Int)
/-- A filtered value reaches a temperature in °C. -/
def State.reaches (s : State) (i t : Nat) : Bool := s.sensorPresent i && decide (16 * (t : Int) ≤ s.filtTemp i)
/-- The highest filtered value of some sensors; `z` where none is present. -/
def State.maxTemp (s : State) (ids : List Nat) : Int :=
  match ids.filter s.sensorPresent with
  | [] => 0
  | i :: r => r.foldl (fun m j => max m (s.filtTemp j)) (s.filtTemp i)

/-- R498, R501, R503: one raw sample of a sensor that has not failed. -/
def Sensor.take (x : Sensor) (i now : Nat) (v : Int) : Sensor :=
  let hot := match tripLimit i with
    | some t => decide (16 * (t : Int) ≤ v)
    | none => false
  let steady := !x.raws.isEmpty && decide (max x.high v - min x.low v ≤ 1)
  { x with raws := (v :: x.raws).take 8, hits := if hot then x.hits + 1 else 0, since := if steady then x.since else now,
           low := if steady then min x.low v else v, high := if steady then max x.high v else v, spans := if steady then x.spans else [] }

/-- R501: what the other sensors of a group have spanned since a sensor's value stands still. -/
def State.spanOthers (s : State) (i : Nat) (raws : List (Nat × Int)) : State :=
  let x := s.sensor i
  let sp := (raws.filter (fun e => e.1 ≠ i && (sensorGroup i).contains e.1 && (s.sensor e.1).cause = 0)).foldl
    (fun (t : Tab (Int × Int)) e => match tget t e.1 with
      | some p => tset t e.1 (min p.1 e.2, max p.2 e.2)
      | none => tset t e.1 (e.2, e.2)) x.spans
  s.setSensor i { x with spans := sp }

/-- R501: a sensor whose second is over has stood still while two others changed by 2 °C; else its second begins anew. -/
def State.secondOver (s : State) (i : Nat) : Bool := decide ((s.sensor i).since + 1000000000 ≤ s.now) && !(s.sensor i).raws.isEmpty
/-- R501, second case. -/
def State.stuck (s : State) (i : Nat) : Bool := s.secondOver i && decide (2 ≤ ((s.sensor i).spans.filter (fun e => decide (32 ≤ e.2.2 - e.2.1))).length)

/-! ### Fatal errors (R516, R517) -/

/-- FATAL_ERROR (R517 steps 1 and 2, R542): the module is FAULTED, FAULT_N is driven, everything stops, and a dump begins. A second one during the dump ends it. -/
def State.fatalError (s : State) (cause : Nat) : State :=
  let seq := s.store.logNext
  let t := s.log Code.fatal 3 0 [BitVec.ofNat 8 cause]
  if s.mstate = MState.faulted then { t with mgt := { t.mgt with dump := t.mgt.dump.map (fun d => { d with cut := true }) } }
  else if s.mstate = MState.dumped then t
  else
    let u := (t.setState MState.faulted).emit (.pin "FAULT_N" false)
    let u : State := { u with pins := { u.pins with faultLow := true }, pause := none,
                              mgt := { u.mgt with dump := some ⟨cause, seq, s.img.recs.isNone || s.keepDom.isNone, 0, false⟩ } }
    let v := (List.range 128).foldl (fun (w : State) x => w.haltCtx x Code.fatal) u
    (List.range 16).foldl (fun (w : State) p => if 0 < w.spState p && w.spState p < 12 then w.spDown p 0 else w) v

/-! ### Sensor failures (R501, R502) -/

/-- R502: a sensor fails. -/
def State.sensorFails (s : State) (i cause : Nat) : State :=
  let t := s.setSensor i { s.sensor i with cause := cause, hits := 0 }
  let t := ((t.raise R.MGT_STATUS F.MGT_STATUS_sensor_failed).log Code.sensorFailed 2 (0x8000 + i) [BitVec.ofNat 8 cause]).platformEvent ([3] ++ leBytes 2 i)
  if sensorKind i = 1 then
    let k := i % 40 - 24
    let r := R.MEM_BND_THERM (i / 40) (k % 4)
    t.fs r F.MEM_BND_THERM_sensor_failed (t.fg r F.MEM_BND_THERM_sensor_failed ||| 2 ^ (k / 4))
  else t

/-- R502: the compute rails of a die are off: SHUTDOWN, without its clocks (R216). -/
def State.dieOff (s : State) (d : Nat) : State :=
  ((s.fs (R.DIE_STATUS d) F.DIE_STATUS_state 4).setAclk d false).fs R.CLK_STATUS F.CLK_STATUS_bclk_lock (setBits (s.fg R.CLK_STATUS F.CLK_STATUS_bclk_lock) d 1 0)

/-- R502: a die whose 40 sensors have failed is fenced and its rails are turned off; with every hub sensor failed the error is fatal. -/
def State.afterFailures (s : State) : State :=
  let dead (d : Nat) : Bool := s.fg (R.DIE_STATUS d) F.DIE_STATUS_state ≠ 4 && (List.range 40).all (fun k => (s.sensor (40 * d + k)).cause ≠ 0)
  let t := ((List.range 8).filter dead).foldl (fun (u : State) d => (if u.dieLive d then u.fenceDie d 6 else u).dieOff d) s
  if (List.range 16).all (fun k => (t.sensor (400 + k)).cause ≠ 0) && decide (t.mstate < MState.faulted) then t.fatalError 4 else t

/-! ### Hot states and refresh steps (R160-R163, R168, R499) -/

/-- Every entry into or out of a hot state is logged and sent on vector 5 (R499). -/
def State.hotEvent (s : State) (source i level : Nat) : State :=
  (s.log Code.ok 0 source ([6] ++ leBytes 2 i ++ leBytes 1 level)).msixBoth 5

/-- A location's time below its return value: runs while `below` holds. -/
def State.cooling (s : State) (key : Nat) (below : Bool) : State :=
  { s with mgt := { s.mgt with cool := if below then tset s.mgt.cool key (tgetD s.mgt.cool key s.now) else tdel s.mgt.cool key } }

/-- R500: the alert caps every die's scale. -/
def State.alertCap (s : State) : Bool := (s.mgt.alertAt.isSome || s.mgt.alertOff.isSome) && !s.fb R.MGT_STATUS F.MGT_STATUS_alert_latched

/-- R162, R500: MGT_STATUS.die_scale, the lower of the hot state's scale and the alert's. -/
def State.showScales (s : State) : State :=
  (List.range 8).foldl (fun (t : State) d =>
    t.fs R.MGT_STATUS F.MGT_STATUS_die_scale (setBits (t.fg R.MGT_STATUS F.MGT_STATUS_die_scale) (2 * d) 2 (max (tgetD s.mgt.level d 0) (b2n s.alertCap)))) s

/-- R162: the hot level a die's filtered values ask for. -/
def State.dieAsks (s : State) (d : Nat) : Nat :=
  if (List.range 40).any (fun k => s.reaches (40 * d + k) (s.hotLimit (40 * d + k) + 4)) then 2
  else if (List.range 40).any (fun k => s.reaches (40 * d + k) (s.hotLimit (40 * d + k))) then 1 else 0

/-- Sets the hot level of a die. -/
def State.setLevel (s : State) (d n : Nat) : State :=
  let t : State := { s with mgt := { s.mgt with level := tset s.mgt.level d n } }
  (t.showScales.showHot d n).hotEvent (0x1000 + d) (40 * d) n

/-- R162: a die's hot state at a sample. -/
def State.dieHot (s : State) (d : Nat) : State :=
  let lv := tgetD s.mgt.level d 0
  let w := s.dieAsks d
  if lv < w then (s.setLevel d w).cooling (40 * d) false
  else if lv = 0 then s
  else
    let back (k : Nat) : Nat := if lv = 2 then s.hotLimit (40 * d + k) + 1 else s.hotLimit (40 * d + k) - 3
    s.cooling (40 * d) ((List.range 40).all (fun k => !s.reaches (40 * d + k) (back k)))

/-- R160, R161: the refresh rate of a layer-quarter at a sample of its sensor. -/
def State.layerRefresh (s : State) (i : Nat) : State :=
  let k := i % 40 - 24
  let core := 4 * (i / 40) + k % 4
  let r := bits (s.fg (R.MEM_BND_THERM (core / 4) (core % 4)) F.MEM_BND_THERM_refresh) (2 * (k / 4)) 2
  let w := if s.reaches i 95 then 2 else if s.reaches i 85 then 1 else 0
  if r < w then ((s.setRefresh core (k / 4) w).msixBoth 5).cooling (1000 + i) false
  else if r = 0 then s
  else s.cooling (1000 + i) (decide (s.filtTemp i < 16 * ((if r = 2 then 92 else 82) : Int)))

/-- R168: a stack's refresh rate and hot state at a sample. -/
def State.stackHot (s : State) (k : Nat) : State :=
  if !s.stackPresent k then s
  else
    let a := 320 + 2 * k
    let reg := R.FMC_STK_STATUS k
    let t :=
      if s.fb reg F.FMC_STK_STATUS_refresh_x2 then s.cooling (1000 + a) (decide (s.filtTemp a < 1312) && decide (s.filtTemp (a + 1) < 1312))
      else if s.reaches a 85 || s.reaches (a + 1) 85 then (s.fs reg F.FMC_STK_STATUS_refresh_x2 1).msixBoth 5 else s
    let hot := bit (t.fg R.MGT_STATUS F.MGT_STATUS_stack_hot) k
    let lim := t.hotLimit a
    if hot then t.cooling a (!t.reaches a (lim - 3) && !t.reaches (a + 1) (lim - 3))
    else if t.reaches a lim || t.reaches (a + 1) lim then
      ((t.fs R.MGT_STATUS F.MGT_STATUS_stack_hot (t.fg R.MGT_STATUS F.MGT_STATUS_stack_hot ||| 2 ^ k)).fs R.BUD_STATUS F.BUD_STATUS_far_scaled
        (t.fg R.BUD_STATUS F.BUD_STATUS_far_scaled ||| 2 ^ k)).hotEvent (0x3000 + k) a 1
    else t

/-- R499: an optical engine at a sample: at its hot limit the port declares lanes 8-15 failed. -/
def State.opticHot (s : State) (p : Nat) : State :=
  let a := 368 + 2 * p
  let lim := s.hotLimit a
  if bit (s.fg R.MGT_STATUS F.MGT_STATUS_optic_hot) p then s.cooling a (!s.reaches a (lim - 3) && !s.reaches (a + 1) (lim - 3))
  else if s.reaches a lim || s.reaches (a + 1) lim then
    ((s.fs R.MGT_STATUS F.MGT_STATUS_optic_hot (s.fg R.MGT_STATUS F.MGT_STATUS_optic_hot ||| 2 ^ p)).hotEvent (0x4000 + p) a 1).lanesFail p 0xFF00 false
  else s

/-- R499: the hub and the board at a sample. -/
def State.hubBoardHot (s : State) : State :=
  let lim := s.hotLimit 400
  let any (ids : List Nat) (t : Nat) : Bool := ids.any (fun i => s.reaches i t)
  let hub := (List.range 16).map (· + 400)
  let t :=
    if s.fb R.MGT_STATUS F.MGT_STATUS_hub_hot then s.cooling 400 (!any hub (lim - 3))
    else if any hub lim then (s.fs R.MGT_STATUS F.MGT_STATUS_hub_hot 1).hotEvent 0x9000 400 1 else s
  let b := any [416, 417, 418, 419] 90
  if b = t.fb R.MGT_STATUS F.MGT_STATUS_board_hot then t else (t.fs R.MGT_STATUS F.MGT_STATUS_board_hot (b2n b)).hotEvent 0 416 (b2n b)

/-- R160-R163, R168, R499: everything filtered values do while the rails are on. -/
def State.hotActions (s : State) : State :=
  let t := (List.range 8).foldl State.dieHot s
  let t := ((List.range 320).filter (fun i => sensorKind i = 1)).foldl State.layerRefresh t
  let t := (List.range 24).foldl State.stackHot t
  let t := (List.range 16).foldl State.opticHot t
  t.hubBoardHot

/-- HOT_STATE_RETURN (R162, R168, R499): 10 ms below its return value end a location's hot state, or its 0.50 step. Locations are named by their first sensor. -/
def State.hotReturn (s : State) (loc : Nat) : State :=
  let t := s.cooling loc false
  if loc < 320 then t.setLevel (loc / 40) (tgetD t.mgt.level (loc / 40) 0 - 1)
  else if loc < 368 then
    let k := (loc - 320) / 2
    let m (v : Nat) : Nat := if bit v k then v - 2 ^ k else v
    ((t.fs R.MGT_STATUS F.MGT_STATUS_stack_hot (m (t.fg R.MGT_STATUS F.MGT_STATUS_stack_hot))).fs R.BUD_STATUS F.BUD_STATUS_far_scaled
      (m (t.fg R.BUD_STATUS F.BUD_STATUS_far_scaled))).hotEvent (0x3000 + k) loc 0
  else if loc < 400 then
    let p := (loc - 368) / 2
    let v := t.fg R.MGT_STATUS F.MGT_STATUS_optic_hot
    State.hotEvent { (t.fs R.MGT_STATUS F.MGT_STATUS_optic_hot (if bit v p then v - 2 ^ p else v)) with mgt := { t.mgt with optic := t.mgt.optic ++ [p] } } (0x4000 + p) loc 0
  else (t.fs R.MGT_STATUS F.MGT_STATUS_hub_hot 0).hotEvent 0x9000 400 0

/-- HOT_STATE_RETURN. -/
def execHotStateReturn (loc : Nat) (s : State) : Answer :=
  match tget s.mgt.cool loc with
  | some t => occurs (loc < 420) s ((s.runTo (t + 10000000)).hotReturn loc)
  | none => .next s

/-- REFRESH_STEP_DOWN (R161, R168): 10 ms more than 3 °C below a threshold lower a refresh rate. Layer-quarters are named by their sensor, stacks by their first. -/
def State.refreshDown (s : State) (loc : Nat) : State :=
  let t := s.cooling (1000 + loc) false
  if loc < 320 then
    let k := loc % 40 - 24
    let core := 4 * (loc / 40) + k % 4
    let r := bits (t.fg (R.MEM_BND_THERM (core / 4) (core % 4)) F.MEM_BND_THERM_refresh) (2 * (k / 4)) 2
    (t.setRefresh core (k / 4) (r - 1)).msixBoth 5
  else (t.fs (R.FMC_STK_STATUS ((loc - 320) / 2)) F.FMC_STK_STATUS_refresh_x2 0).msixBoth 5

/-- REFRESH_STEP_DOWN. -/
def execRefreshStepDown (loc : Nat) (s : State) : Answer :=
  match tget s.mgt.cool (1000 + loc) with
  | some t => occurs (loc < 368) s ((s.runTo (t + 10000000)).refreshDown loc)
  | none => .next s

/-! ### Trips (R503-R505) -/

/-- Two's complement of a temperature in 16 bits. -/
def temp16 (v : Int) : Bytes := leBytes 2 (v % 65536).toNat

/-- R504: the trip record of a sensor, with `more` others in the same MCLK. -/
def State.tripRecord (s : State) (i more seq : Nat) : Bytes :=
  let dies (f : Nat → List Nat) : Bytes := (List.range 8).flatMap (fun d => temp16 (s.maxTemp (f d)))
  let three := (s.sensor i).raws.take 3
  let b := leBytes 8 seq ++ leBytes 8 s.rackRead ++ leBytes 4 s.store.bootCount ++ leBytes 2 i ++ leBytes 1 more ++ leBytes 1 s.mstate
    ++ three.reverse.flatMap temp16 ++ leBytes 2 (16 * (tripLimit i).getD 0)
    ++ dies (fun d => (List.range 24).map (· + 40 * d)) ++ dies (fun d => (List.range 16).map (· + 40 * d + 24))
    ++ (List.range 24).flatMap (fun k => temp16 (s.maxTemp [320 + 2 * k, 321 + 2 * k])) ++ (List.range 16).flatMap (fun p => temp16 (s.maxTemp [368 + 2 * p, 369 + 2 * p]))
    ++ temp16 (s.maxTemp ((List.range 16).map (· + 400))) ++ temp16 (s.maxTemp [416, 417, 418, 419])
    ++ leBytes 2 (s.fg R.PWR_STATUS F.PWR_STATUS_mean_10ms) ++ leBytes 2 (s.fg R.PWR_STATUS F.PWR_STATUS_cap_in_force)
    ++ (List.range 8).flatMap (fun d => leBytes 2 (s.fg (R.CLK_ACLK d) F.CLK_ACLK_freq)) ++ leBytes 1 (s.fg R.BUD_STATUS F.BUD_STATUS_gov_scale) ++ zeros 7
    ++ (if s.img.recs.isSome then s.cfgDigest else zeros 48) ++ zeros 28
  b ++ leBytes 4 (crc32c b)

/-- R177: a retirement in progress is recorded, and CLEAR_RETIRE undoes those it named (R179), when the far stacks lose power or are reset. -/
def State.retireKept (s : State) : Store :=
  let going := (List.range 24).filter (fun k => let x := s.fg (R.FMC_STK_STATUS k) F.FMC_STK_STATUS_retire_state; decide (1 ≤ x) && decide (x ≤ 3))
  let m := going.foldl (fun (m : Tab Nat) k => tset m k (s.fg (R.FMC_STK_STATUS k) F.FMC_STK_STATUS_retired_ch)) s.store.retired
  { s.store with retired := (indices 24 (fun k => s.fb (R.FMC_STK_STATUS k) F.FMC_STK_STATUS_clear_retire)).foldl tdel m }

/-- Host ports with nothing in them. -/
def State.noHost (_ : State) : HostState := ⟨[], [], [], [], [], [], 63, [], [], [], [], [], [], [], [], false, none, none, false, []⟩

/-- What is lost with the main rails and kept in the always-on domain: sensors, alert, log, flash, pins. The world's messages and queue stay. -/
def State.railsOff (s : State) (power : Nat) : State :=
  { State.cold s.fuses s.retireKept s.fw s.pins with
    mgt := { s.mgt with level := [], cool := [], optic := [], energy := 0, checks := 0, stepped := false, restartAt := none, dump := none }, time := s.time, power := power, now := s.now,
    freeCtr := s.freeCtr, randCtr := s.randCtr, sent := s.sent, pending := s.pending,
    host := { s.noHost with perstLow := s.host.perstLow, d3cold := s.host.d3cold } }

/-- THERMAL_TRIP (R503, R542): logged and recorded, THERM_TRIP_N asserted, every main rail off, a restart 100 ms later. -/
def State.thermalTrip (s : State) (ids : List Nat) : State :=
  match ids with
  | [] => s
  | i :: more =>
    let seq := s.store.logNext
    let b := s.tripRecord i more.length seq
    let t := ((s.log Code.thermalTrip 2 (0x8000 + i) [BitVec.ofNat 8 more.length]).platformEvent ([1] ++ leBytes 2 i)).emit (.pin "THERM_TRIP_N" false)
    let trips := t.store.trips ++ [(seq, b)]
    let u : State := { t with store := { t.store with trips := trips.drop (trips.length - 16), tripPending := true }, pins := { t.pins with tripLow := true } }
    if s.power = 2 then u else
      let v := u.railsOff 4
      { v with mgt := { v.mgt with restartAt := some (s.now + 100200000) } }

/-- R505: every filtered value is below its hot limit. -/
def State.allCool (s : State) : Bool := (List.range 420).all (fun i => !s.reaches i (s.hotLimit i))

/-! ### The power governor (R33, R269, R506, R507) -/

/-- Sets g. -/
def State.setG (s : State) (g : Nat) : State :=
  ((s.fs R.BUD_STATUS F.BUD_STATUS_gov_scale g).fs R.PWR_STATUS F.PWR_STATUS_g g).fs R.BUD_STATUS F.BUD_STATUS_pool_open (b2n (g = 16))

/-- R506: how far g steps down at a 1 ms check: `energy` in W·ms so far in the window, this millisecond with it, `k` checks made. -/
def govDown (capNow capNext energy k mean : Nat) : Nat :=
  if capNext + 400 < mean then 4
  else if 98 * 10 * capNow < 100 * (energy + mean * (10 - k)) || 98 * capNext < 100 * mean then 1 else 0

/-- GOVERNOR_CHECK (R506). -/
def State.govCheck (s : State) (mean : Nat) : State :=
  let e := s.mgt.energy + mean
  let k := s.mgt.checks + 1
  let g := s.fg R.BUD_STATUS F.BUD_STATUS_gov_scale
  let dn := govDown (s.fg R.PWR_STATUS F.PWR_STATUS_cap_in_force) (s.fg R.PWR_STATUS F.PWR_STATUS_cap_next) e k mean
  let t : State := { s with mgt := { s.mgt with energy := e, checks := k, stepped := s.mgt.stepped || decide (dn ≠ 0) } }
  (t.fs R.PWR_STATUS F.PWR_STATUS_mean_1ms mean).setG (g - dn)

/-- GOVERNOR_CHECK, each 1 ms within a window. -/
def execGovernorCheck (meanW : Nat) (s : State) : Answer :=
  occurs (s.power = 0 && decide (s.mgt.checks < 10)) s ((s.runToRack ((s.rack / 1000000 + 1) * 1000000)).govCheck meanW)

/-- POWER_WINDOW_END (R506, R507, R270): `meanW` is the mean of the window. -/
def State.windowEnd (s : State) (mean : Nat) : State :=
  let g := s.fg R.BUD_STATUS F.BUD_STATUS_gov_scale
  let cap := s.fg R.PWR_STATUS F.PWR_STATUS_cap_in_force
  let t := s.fs R.PWR_STATUS F.PWR_STATUS_mean_10ms mean
  let t := if 100 * mean < 92 * cap && !s.mgt.stepped then t.setG (min 16 (g + 1)) else t
  let bad := decide (cap < mean) && decide (g = 0)
  let t := if bad then (t.raise R.BUD_STATUS F.BUD_STATUS_cap_unmet).log Code.ok 1 0 [7] else t
  let t := (t.fs R.PWR_STATUS F.PWR_STATUS_cap_in_force (t.fg R.PWR_STATUS F.PWR_STATUS_cap_next)).fs R.PWR_STATUS F.PWR_STATUS_cap_next (t.fg R.PWR_CAP F.PWR_CAP_cap)
  { t with mgt := { t.mgt with energy := 0, checks := 0, stepped := false } }

/-- POWER_WINDOW_END. -/
def execPowerWindowEnd (meanW : Nat) (s : State) : Answer :=
  let due := cdiv s.rack 10000000 * 10000000
  occurs (s.power = 0) s ((s.runToRack (if s.mgt.checks < 10 && due = s.rack then due + 10000000 else due)).windowEnd meanW)

/-- PWR_CAP_WRITE (R507, R519). -/
def execPwrCapWrite (port cap : Nat) (s : State) : Answer :=
  occurs (s.hostOn port && port = s.tokenPort) s
    (if 1800 ≤ cap && cap ≤ 3600 then s.fs R.PWR_CAP F.PWR_CAP_cap cap else s.raise R.PWR_STATUS F.PWR_STATUS_cap_refused)

/-! ### The thermal alert (R500, R541) -/

/-- R500: the alert is latched as a fault. -/
def State.latchAlert (s : State) : State := (s.raise R.MGT_STATUS F.MGT_STATUS_alert_latched).showScales

/-- ALERT_ASSERTED (R541): more than 20 accepted assertions within 1 s latch it. -/
def State.alertOn (s : State) : State :=
  let l := (s.mgt.alerts.filter (fun t => decide (s.now < t + 1000000000))) ++ [s.now]
  let t : State := { s with mgt := { s.mgt with alertAt := some s.now, alertOff := none, alerts := l } }
  let t := ((t.fs R.MGT_STATUS F.MGT_STATUS_alert_in 1).fs R.TIME_STATUS F.TIME_STATUS_alert_filtered 1).count R.PIN_CNT_ALERT
  if 20 < l.length then t.latchAlert else t.showScales

/-- ALERT_ASSERTED. -/
def execAlertAsserted (s : State) : Answer := occurs (s.power = 0 && s.mgt.alertAt.isNone) s s.alertOn

/-- ALERT_REMOVED (R541). -/
def execAlertRemoved (s : State) : Answer :=
  occurs (s.power = 0 && s.mgt.alertAt.isSome) s
    ((State.fs { s with mgt := { s.mgt with alertAt := none, alertOff := some s.now } } R.MGT_STATUS F.MGT_STATUS_alert_in 0).fs R.TIME_STATUS F.TIME_STATUS_alert_filtered 0)

/-- ALERT_SCALE_RELEASE (R500). -/
def execAlertScaleRelease (s : State) : Answer :=
  match s.mgt.alertOff with
  | some t => .next (let u := s.runTo (t + 10000000); State.showScales { u with mgt := { u.mgt with alertOff := none } })
  | none => .next s

/-- ALERT_LATCHED (R541): an assertion of more than 10 s. -/
def execAlertLatched (s : State) : Answer :=
  match s.mgt.alertAt with
  | some t => .next (s.runTo (t + 10000000000)).latchAlert
  | none => .next s

/-- ALERT_REARM (R520, R541). -/
def execAlertRearm (port : Nat) (s : State) : Answer :=
  occurs (s.hostOn port && port = s.tokenPort) s (State.showScales ((State.fs { s with mgt := { s.mgt with alerts := [] } } R.MGT_STATUS F.MGT_STATUS_alert_latched 0)))

/-- MGT_CLEAR_COUNTS (R520). -/
def execMgtClearCounts (port : Nat) (s : State) : Answer := occurs (s.hostOn port && port = s.tokenPort) s (s.zeroRegs [R.MGT_HUB_ECC, R.PMC_DENIED])

/-- PIN_CLEAR_COUNTS (R548). -/
def execPinClearCounts (port : Nat) (s : State) : Answer :=
  occurs (s.hostOn port && port = s.tokenPort) s (s.zeroRegs [R.PIN_CNT_TICK_EARLY, R.PIN_CNT_TICK_PHASE, R.PIN_CNT_TICK_WIDTH, R.PIN_CNT_HOLDOVER, R.PIN_CNT_RESET_SHORT,
    R.PIN_CNT_PERST_SHORT 0, R.PIN_CNT_PERST_SHORT 1, R.PIN_CNT_ALERT])

/-- MGC_WATCHDOG (R516). -/
def execMgcWatchdog (s : State) : Answer := occurs (s.power = 0) s (s.fatalError 3)

/-- MGC_SRAM_UNCORRECTABLE (R516): the MGC's own hub SRAM, above the five shares of the memory plan, or the loader reserve. -/
def execMgcSramUncorrectable (addr : Nat) (s : State) : Answer :=
  let shares := match findRec s.img.cfg RT.memplan 0 with
    | some r => ((List.range 5).map (fun i => r.at (64 + 2 * i) 2)).sum * 2 ^ 20
    | none => 0
  occurs (s.power = 0 && decide (shares ≤ addr) && decide (addr < 2 ^ 28)) s ((s.fsat R.MGT_HUB_ECC F.MGT_HUB_ECC_uncorrectable 1).fatalError 1)

/-- INTERNAL_PARITY_ERROR (R516). -/
def execInternalParityError (_hub : Bool) (s : State) : Answer := occurs (s.power = 0) s (s.fatalError 2)

end Machine
end Sys2Proof
end

