-- ==== Sys2Proof/Machine/Firmware.lean ====
section
/-!
DEFINITION. Firmware packages and updates (R487, R488), and the choice of a slot at a start (R482, R489).
-/
namespace Sys2Proof
namespace Machine

/-- R482, R488: the slot that an update writes: the one not active, slot A while no slot boots. -/
def State.idleSlot (s : State) : Nat := if s.mgt.stopped && s.mstate = MState.rennet then 0 else 1 - s.fw.active

/-- A slot. -/
def State.fwSlot (s : State) (i : Nat) : FwSlot := tgetD s.fw.slots i ⟨0, 0, zeros 48, zeros 48, false, false⟩

/-- Marks a slot failed. -/
def State.slotFails (s : State) (i : Nat) : State := { s with fw := { s.fw with slots := tset s.fw.slots i { s.fwSlot i with good := false } } }

/-- R487: the component table of a package. -/
def fwTable (b : Bytes) : Bytes := slice b 48 (64 * fieldAt b 14 2)

/-- R488 step 3: magic and format: fields in their ranges and a length that fits. -/
def fwFormOk (b : Bytes) : Bool :=
  fieldAt b 0 8 = 0x4B505746384E5351 && fieldAt b 8 2 = 1 && decide (fieldAt b 10 1 ≤ 64) && b.length = 48 + 64 * fieldAt b 14 2 + fieldAt b 28 4 + 16 + 96

/-- R488 step 3: tag and component digests. -/
def fwBodyOk (b key : Bytes) : Bool :=
  let n := 48 + 64 * fieldAt b 14 2
  let len := fieldAt b 28 4
  match gcmOpen key (slice b 32 12) (b.take n) (slice b n len) (slice b (n + len) 16) with
  | some pt => (List.range (fieldAt b 14 2)).all (fun i =>
      let e := 48 + 64 * i
      decide (fieldAt b (e + 4) 4 + fieldAt b (e + 8) 4 ≤ len) && sha384 (slice pt (fieldAt b (e + 4) 4) (fieldAt b (e + 8) 4)) = slice b (e + 16) 48)
  | none => false

/-- R488 step 3: the first check of a package that fails. -/
def State.fwCode (s : State) (b : Bytes) : Nat :=
  firstFail [(!fwFormOk b, Code.badFormat), (!ecdsaOk s.fuses.vendorPub (sha384 (b.take (b.length - 96))) (b.drop (b.length - 96)), Code.badSignature),
    (decide (fieldAt b 10 1 < s.fuses.rollback), Code.staleVersion), ((tget s.fuses.fwKeys (fieldAt b 24 4)).isNone, Code.keyUnknown),
    (!fwBodyOk b (tgetD s.fuses.fwKeys (fieldAt b 24 4) []), Code.badSignature)]

/-- R487: what a slot keeps of a package. -/
def fwSlotOf (b : Bytes) : FwSlot :=
  let fw := match (List.range (fieldAt b 14 2)).find? (fun i => fieldAt b (48 + 64 * i) 2 = 1) with
    | some i => slice b (48 + 64 * i + 16) 48
    | none => zeros 48
  ⟨fieldAt b 12 2, fieldAt b 10 1, fw, sha384 (fwTable b), true, true⟩

/-- R488 step 1: an update opens for a sender (1 host, 2 PLDM), over the idle slot. -/
def State.fwOpen (s : State) (who len : Nat) : Nat × State :=
  if s.fw.update.isSome then (Code.busy, s)
  else
    let t := s.slotFails s.idleSlot
    (Code.ok, State.fs { t with fw := { t.fw with update := some (who, len), buf := [] } } R.RIND_STATUS F.RIND_STATUS_fw_update 1)

/-- R488 step 2: a piece of a package continues exactly where the last ended. -/
def State.fwPiece (s : State) (who off : Nat) (b : Bytes) : Nat × State := match s.fw.update with
  | some u =>
    if u.1 ≠ who then (Code.notPermitted, s)
    else if off ≠ s.fw.buf.length || u.2 < off + b.length then (Code.outOfRange, s)
    else (Code.ok, { s with fw := { s.fw with buf := s.fw.buf ++ b } })
  | none => (Code.notPermitted, s)

/-- R488 step 3: the package is checked; on success the boot record names the idle slot as next with a try count of 1. -/
def State.fwClose (s : State) (who : Nat) : Nat × State := match s.fw.update with
  | some u =>
    if u.1 ≠ who then (Code.notPermitted, s)
    else
      let b := s.fw.buf
      let c := if b.length = u.2 then s.fwCode b else Code.badFormat
      let i := s.idleSlot
      if c = Code.ok then
        (c, (State.fs { s with fw := { s.fw with slots := tset s.fw.slots i (fwSlotOf b), next := some i, tries := 1, update := none, buf := [] } }
          R.RIND_STATUS F.RIND_STATUS_fw_update 3).fs R.RIND_STATUS F.RIND_STATUS_next_slot i)
      else (c, State.fs { s with fw := { s.fw with update := none, buf := [] } } R.RIND_STATUS F.RIND_STATUS_fw_update 0)
  | none => (Code.notPermitted, s)

/-- R488: a reset during an update abandons it and marks the idle slot failed. -/
def State.fwAbandon (s : State) : State :=
  if s.fw.update.isSome then State.slotFails { s with fw := { s.fw with update := none, buf := [] } } s.idleSlot else s

/-- R482 step 3: a slot passes the checks of Rennet. -/
def State.slotBoots (s : State) (i : Nat) : Bool := (s.fwSlot i).good && decide (s.fuses.rollback ≤ (s.fwSlot i).rollback)

/-- R482 step 3, R489: the slot Rennet tries first, the next one while its try count is not zero. -/
def State.firstSlot (s : State) : Nat := match s.fw.next with
  | some n => if s.fw.tries = 0 then s.fw.active else n
  | none => s.fw.active

/-- R482 step 3: the slot Rennet boots. -/
def State.bootSlot (s : State) : Option Nat := [s.firstSlot, 1 - s.firstSlot].find? s.slotBoots

end Machine
end Sys2Proof
end

