-- ==== Sys2Proof/Machine/Boot.lean ====
section
/-!
DEFINITION. Module starts and boot (R482, R489, R529-R534, R542, R543), sensor samples and trips (R498-R505), rack time (R535-R540).
-/
namespace Sys2Proof
namespace Machine

/-! ### Starts (R482, R531, R532) -/

/-- R6, R546: the capability word of a part. -/
def capabilityOf (part : Nat) : Nat := if part = 0x2480 then 0x000110FF07FFFFFF else if part = 0x2440 then 0x000110FF02FFFFFF else 0x000110FF006DB6DB

/-- What registers show of fuses, stores and straps in RENNET (R219, R283, R294, R330, R492, R534, R548). -/
def State.startRegs (s : State) (cause boot ports : Nat) : State :=
  let t := ((((s.wr R.GLB_ID (BitVec.ofNat 64 (s.fuses.part + 0x10000))).wr R.GLB_CAPABILITY (BitVec.ofNat 64 s.fuses.capability)).wr (R.GLB_SERIAL 0) (s.serialWord 0)).wr
    (R.GLB_SERIAL 1) (s.serialWord 1)).wr R.GLB_STATUS (BitVec.ofNat 64 (2 * s.store.tokenHome + 4 * ports))
  let t := (((t.wr R.PIN_STRAPS (BitVec.ofNat 64 (s.pins.slotId % 64 + 64 * (s.pins.rackId % 64) + 4096 * (s.pins.feedId % 16)))).fs R.RST_STATUS F.RST_STATUS_cause cause).fs
    R.RST_STATUS F.RST_STATUS_input_ok (b2n s.pins.inputOk)).fs R.FJ_STATUS F.FJ_STATUS_device (64 * (s.pins.rackId % 64) + s.pins.slotId % 64)
  let r := b2n (!s.store.ownerPub.isEmpty) + 2 * b2n s.store.pendingOwner.isSome + 4 * b2n s.fuses.debugEver + 16 * boot + 2 ^ 6 * s.fuses.rollback + 2 ^ 13 * s.fuses.transfers
    + 2 ^ 20 * b2n s.store.leaseKey.isSome + 2 ^ 21 * b2n s.store.dumpKey.isSome + 2 ^ 22 * s.store.bootCount
  let t := (((t.wr R.RIND_STATUS (BitVec.ofNat 64 r)).wr (R.RIND_OWNER 0) (BitVec.ofNat 64 (fieldAt s.store.ownerId 0 8))).wr (R.RIND_OWNER 1)
    (BitVec.ofNat 64 (fieldAt s.store.ownerId 8 8))).wr R.IMG_FLOOR (BitVec.ofNat 64 s.store.imageFloor)
  let t := (t.fs R.EVT_STATUS F.EVT_STATUS_wrapped (b2n s.store.logWrapped)).fs R.FMC_STATUS F.FMC_STATUS_retired_count s.store.retired.length
  (List.range 24).foldl (fun (u : State) k =>
    if s.stackPresent k then u.wr (R.FMC_STK_STATUS k) (BitVec.ofNat 64 (match tget s.store.retired k with
      | some ch => 1 + 2 * 4 + 16 * ch
      | none => 1)) else u) t

/-- R482, R489, R532: what a start makes of the module: everything but fuses, stores, flash and pins is lost; the boot count rises, the try count falls, FAULT_N is
released unless no slot boots (R542), and the start is logged. A start without the 48 V input waits for it (R531 step 3). -/
def State.startOnce (s : State) (cause : Nat) : State :=
  let boot := s.bootSlot
  let fw := match s.fw.next with
    | some n => if s.fw.tries = 0 then { s.fw with trial := none } else { s.fw with tries := s.fw.tries - 1, trial := if boot = some n then some s.now else none }
    | none => { s.fw with trial := none }
  let ports := if [1, 2, 3, 6].contains cause then s.fg R.GLB_STATUS ⟨2, 2⟩ else 0
  let low := s.store.tripPending
  let c := State.cold s.fuses { s.retireKept with bootCount := (s.store.bootCount + 1) % 2 ^ 32 } fw { s.pins with faultLow := boot.isNone, tripLow := low }
  let t : State := { c with
    mgt := { c.mgt with stopped := boot.isNone }, time := { c.time with lost := s.time.lost }, power := if s.pins.inputOk then 0 else 5, now := s.now,
    freeCtr := s.freeCtr, randCtr := s.randCtr, sent := s.sent, pending := s.pending,
    tiers := { c.tiers with began := s.now },
    host := { s.noHost with perstLow := s.host.perstLow, d3cold := s.host.d3cold, pci := if [1, 2, 3, 6].contains cause then s.host.pci else [] } }
  let t := if s.pins.faultLow = boot.isNone then t else t.emit (.pin "FAULT_N" boot.isSome)
  let t := if s.pins.tripLow = low then t else t.emit (.pin "THERM_TRIP_N" !low)
  (t.startRegs cause (boot.getD 0) ports).log Code.ok 0 0 [1, BitVec.ofNat 8 cause]

/-- A module start. A component that fails its digest marks the slot failed, and the module is reset once to boot the other slot, with cause 6 (R482 step 4). An update
in progress is abandoned (R488). -/
def State.startModule (s : State) (cause : Nat) : State :=
  let t := s.fwAbandon.startOnce cause
  let b := t.fg R.RIND_STATUS F.RIND_STATUS_boot_slot
  if !t.mgt.stopped && !(t.fwSlot b).parts then (t.slotFails b).startOnce 6 else t

/-- R482 step 6, R203: the remaining rails are on, every processor has its firmware, stacks and links are trained: READY. Selvage ports have no configuration yet. -/
def State.bringUp (s : State) : State :=
  let t := (List.range 8).foldl (fun (u : State) d => (u.fs (R.DIE_STATUS d) F.DIE_STATUS_state 0).setAclk d true) s
  let t := (List.range 8).foldl (fun (u : State) i => u.fs (R.XB_PORT_STATUS (32 + i)) F.XB_PORT_STATUS_state 2) t
  let t := (t.fs R.CLK_STATUS F.CLK_STATUS_bclk_lock 0xFF).fs R.CLK_STATUS F.CLK_STATUS_fclk_lock (s.fuses.capability % 2 ^ 24)
  let t := (List.range 8).foldl (fun (u : State) d => (u.trainLink (endKey d 0)).trainLink (endKey d 1)) t
  let t := (List.range 8).foldl (fun (u : State) d => if u.hubDark d then u.fenceDie d 4 else u) t
  t.setState MState.ready

/-- R489: new firmware that reached READY: its slot becomes active, the rollback fuses are blown up to its index, and the update is logged. -/
def State.fwConfirm (s : State) : State :=
  if !(match s.fw.trial with
    | some t => decide (s.now ≤ t + 10000000000)
    | none => false) then s
  else
    let b := s.fg R.RIND_STATUS F.RIND_STATUS_boot_slot
    let r := max s.fuses.rollback (s.fwSlot b).rollback
    ((State.fs { s with fw := { s.fw with active := b, next := none, tries := 0, trial := none }, fuses := { s.fuses with rollback := r } } R.RIND_STATUS F.RIND_STATUS_rollback r).log
      Code.ok 0 0 [3, BitVec.ofNat 8 b])

/-- R3, R482 step 5: the owner region holds an operating environment that the owner key signs, over the SHA-384 digest of its bytes (assumption log 79). -/
def State.envSigned (s : State) : Bool := match s.fw.owner with
  | some e => ecdsaOk s.store.ownerPub (sha384 e.1) e.2
  | none => false

/-- R482 step 5: the Hauno core loader checks the owner's environment; on an unowned module or a failed check the Hauno cores stay in reset, and that is logged. -/
def State.haunoBoot (s : State) : State :=
  if s.fb R.RIND_STATUS F.RIND_STATUS_owned && s.envSigned then { s with mgt := { s.mgt with haunoUp := true } } else s.log Code.ok 0 0x9000 [10]

/-- R459: the Rind store's tag fails, or its transfer count differs from the fuses. -/
def State.storeBad (s : State) : Bool := !s.store.tagOk || s.store.transfers ≠ s.fuses.transfers

/-- BOOT_READY (R482 steps 4 to 6, R6, R505): with a trip unacknowledged the module enters TRIPPED on its hub rail alone; with a fuse fault it stops in FIRMWARE;
with a Rind store whose tag or transfer count fails, too, and FATAL is logged (R459); else it is READY once every core has run its canary. -/
def State.bootReady (s : State) : State :=
  let t := if s.storeBad then s.firmwareUp.log Code.fatal 3 0 [0] else s.firmwareUp
  if s.storeBad || s.fuses.capability ≠ capabilityOf s.fuses.part then
    { t.emit (.pin "FAULT_N" false) with mgt := { t.mgt with stopped := true }, pins := { t.pins with faultLow := true } }
  else if s.store.tripPending then t.setState MState.tripped
  else t.bringUp.fwConfirm.haunoBoot

/-- BOOT_READY. -/
def execBootReady (s : State) : Answer :=
  let early := s.power = 0 && !s.mgt.stopped && decide (s.mstate ≤ MState.firmware) && (s.store.tripPending || s.storeBad || s.fuses.capability ≠ capabilityOf s.fuses.part)
  occurs (early || (s.booting && (List.range 32).all s.canaryRan)) s s.bootReady

/-- UPDATE_WATCHDOG (R489): new firmware not at READY within 10 s. -/
def execUpdateWatchdog (s : State) : Answer :=
  match s.fw.trial with
  | some t => occurs (s.power = 0 || s.power = 5) s (let u := s.runTo (t + 10000000000); State.startModule { u with fw := { u.fw with tries := 0 } } 3)
  | none => .next s

/-- MODULE_RESET_EXECUTE (R292): 1 ms after a MODULE_RESET completed. -/
def execModuleResetExecute (s : State) : Answer :=
  match s.host.resetAt with
  | some t => occurs (s.power = 0) s ((s.runTo t).startModule 2)
  | none => .next s

/-! ### Supplies (R529, R530) -/

/-- INPUT_POWER_FAIL (R529): below 38.0 V or above 62.0 V, in 0.1 V, for 20 µs: all main rails are off within 50 µs. -/
def execInputPowerFail (dv : Nat) (s : State) : Answer :=
  let t : State := { s with pins := { s.pins with inputOk := false } }
  occurs (s.pins.inputOk && (decide (dv < 380) || decide (620 < dv))) s
    (let u := if s.power = 0 then t.railsOff 2 else t
     (u.fs R.RST_STATUS F.RST_STATUS_input_ok 0).fs R.RST_STATUS F.RST_STATUS_input_dv dv)

/-- INPUT_POWER_RESTORED (R529, R531): within 40.0 to 60.0 V for 100 ms: a start with cause 4, or one that waited goes on. -/
def execInputPowerRestored (dv : Nat) (s : State) : Answer :=
  let t : State := { s with pins := { s.pins with inputOk := true } }
  let shown (u : State) : State := (u.fs R.RST_STATUS F.RST_STATUS_input_ok 1).fs R.RST_STATUS F.RST_STATUS_input_dv dv
  occurs (!s.pins.inputOk && decide (400 ≤ dv) && decide (dv ≤ 600)) s
    (if s.power = 2 then shown ((t.pass 100000000).startModule 4) else if s.power = 5 then shown { t.pass 100000000 with power := 0 } else if s.power = 4 then shown t else t)

/-- AUX_POWER_FAIL (R530, R527): the always-on domain and the main rails go off; THERM_TRIP_N and FAULT_N are released. -/
def State.auxFail (s : State) : State :=
  let c := State.cold s.fuses s.retireKept s.fw { s.pins with tripLow := false, faultLow := false }
  let t : State := { c with power := 1, now := s.now, time := { c.time with lost := s.time.lost }, freeCtr := s.freeCtr, randCtr := s.randCtr, sent := s.sent, pending := s.pending,
                            host := { s.noHost with perstLow := s.host.perstLow, d3cold := s.host.d3cold } }
  let t := if s.pins.tripLow then t.emit (.pin "THERM_TRIP_N" true) else t
  (if s.pins.faultLow then t.emit (.pin "FAULT_N" true) else t).fs R.GLB_STATE F.GLB_STATE_state MState.off

/-- AUX_POWER_FAIL. -/
def execAuxPowerFail (s : State) : Answer := occurs (s.power ≠ 1) s s.auxFail

/-- AUX_POWER_UP (R530, R531). -/
def execAuxPowerUp (s : State) : Answer := occurs (s.power = 1) s (s.startModule 0)

/-- STRAP_CHANGE (R534): a strap that changes after sampling has no effect but PIN_STRAPS.changed, and is logged once per start. -/
def State.strapChange (s : State) (slot rack feed : Nat) : State :=
  let t : State := { s with pins := { s.pins with slotId := slot % 64, rackId := rack % 64, feedId := feed % 16 } }
  if s.power = 1 || s.power = 3 then t
  else
    let u := if s.mgt.strapLogged then t else t.log Code.ok 0 0 [11]
    State.raise { u with mgt := { u.mgt with strapLogged := true } } R.PIN_STRAPS F.PIN_STRAPS_changed

/-- STRAP_CHANGE. -/
def execStrapChange (slot rack feed : Nat) (s : State) : Answer :=
  occurs (slot % 64 ≠ s.pins.slotId || rack % 64 ≠ s.pins.rackId || feed % 16 ≠ s.pins.feedId) s (s.strapChange slot rack feed)

/-! ### MOD_RESET_N (R533) -/

/-- MOD_RESET_ACCEPTED: the module and the MGC are held; registers read their reset values, the host links stay up. -/
def State.heldReset (s : State) : State :=
  let c := State.cold s.fuses s.retireKept s.fw s.pins
  { ((c.startRegs (s.fg R.RST_STATUS F.RST_STATUS_cause) (s.fg R.RIND_STATUS F.RIND_STATUS_boot_slot) (s.fg R.GLB_STATUS ⟨2, 2⟩)).zeroRegs [R.RIND_STATUS, R.RIND_OWNER 0, R.RIND_OWNER 1]).fs R.RST_STATUS F.RST_STATUS_input_ok 0 with
           power := 3, now := s.now, time := { c.time with lost := s.time.lost }, freeCtr := s.freeCtr, randCtr := s.randCtr,
           sent := s.sent, pending := s.pending, host := { s.noHost with perstLow := s.host.perstLow, d3cold := s.host.d3cold, pci := s.host.pci } }

/-- MOD_RESET_ACCEPTED. -/
def execModResetAccepted (s : State) : Answer := occurs (s.power ≠ 1 && s.power ≠ 3) s s.heldReset

/-- MOD_RESET_RELEASE: a start with cause 1 begins 10 µs after the pin goes high; a pulse shorter than 1 ms is only counted. -/
def execModResetRelease (lowNs : Nat) (s : State) : Answer :=
  if s.power = 3 then .next ((s.pass 10000).startModule 1)
  else occurs (s.power ≠ 1 && decide (lowNs < 1000000)) s (s.count R.PIN_CNT_RESET_SHORT)

/-! ### Samples (R498-R505) -/

/-- A raw sample is out of range (R501). -/
def outOfRangeTemp (v : Int) : Bool := decide (v < -640) || decide (2400 < v)

/-- R501: the samples of a moment fail sensors, or are taken. -/
def State.takeSamples (s : State) (raws : List (Nat × Int)) : State :=
  let live := raws.filter (fun e => s.sensorPresent e.1 && (s.sensor e.1).cause = 0)
  let t := live.foldl (fun (u : State) e => if outOfRangeTemp e.2 then u.sensorFails e.1 1 else u.setSensor e.1 ((u.sensor e.1).take e.1 u.now e.2)) s
  let good := live.filter (fun e => !outOfRangeTemp e.2)
  let t := good.foldl (fun (u : State) e => u.spanOthers e.1 good) t
  good.foldl (fun (u : State) e =>
    if u.stuck e.1 then u.sensorFails e.1 2
    else if u.secondOver e.1 then
      let x := u.sensor e.1
      u.setSensor e.1 { x with since := u.now, low := x.raws.headD 0, high := x.raws.headD 0, spans := [] }
    else u) t

/-- R505 step 3: THERM_TRIP_N is released, and the remaining rails come on; the module enters READY when they have booted. -/
def State.tripRelease (s : State) : State :=
  State.fs { s.emit (.pin "THERM_TRIP_N" true) with store := { s.store with tripPending := false }, pins := { s.pins with tripLow := false } }
    R.TRIP_STATUS F.TRIP_STATUS_ack_waiting 0

/-- SENSOR_SAMPLE: the sensors that complete a trip at this sample (R503) go before hot actions. -/
def State.sampleDone (s : State) : State :=
  let trips := (List.range 420).filter (fun i => (s.sensor i).hits = 3 && (s.sensor i).cause = 0)
  if !trips.isEmpty then s.thermalTrip trips
  else
    let t := if s.power = 0 && decide (MState.firmware ≤ s.mstate) then s.hotActions else s
    if t.fb R.TRIP_STATUS F.TRIP_STATUS_ack_waiting && t.allCool then t.tripRelease else t

/-- Sensors are measured whether or not their rails are on (R494). -/
def State.measures (s : State) : Bool := s.power ≠ 1 && s.power ≠ 3

/-- SENSOR_SAMPLE, at each multiple of 8 µs: `raw` gives 16-bit two's-complement values by sensor. -/
def execSensorSample (raw : List (Nat × Nat)) (s : State) : Answer :=
  let t := s.runTo ((s.now / 8000 + 1) * 8000)
  let raws := ((List.range 420).filterMap (fun i => (raw.find? (fun e => e.1 = i)).map (fun e => (i, sint 16 e.2))))
  occurs s.measures s (t.takeSamples raws).afterFailures.sampleDone

/-- R501: the sensors of one converter: at most four consecutive ones of a group. -/
def converterOf (i : Nat) : List Nat :=
  let g := sensorGroup i
  let at_ (j : Nat) : Nat := (g.filter (· < j)).length / 4
  g.filter (fun j => at_ j = at_ i)

/-- CONVERTER_SELF_TEST, at each multiple of 100 ms: `failed` names the converters that failed by a sensor each. -/
def execConverterSelfTest (failed : List Nat) (s : State) : Answer :=
  let t := s.runTo ((s.now / 100000000 + 1) * 100000000)
  let ids := (List.range 420).filter (fun i => s.sensorPresent i && (s.sensor i).cause = 0 && failed.any (fun f => decide (f < 420) && (converterOf f).contains i))
  occurs s.measures s (ids.foldl (fun (u : State) i => u.sensorFails i 3) t).afterFailures

/-- TRIP_RESTART (R503 step 7). -/
def execTripRestart (s : State) : Answer :=
  match s.mgt.restartAt with
  | some t => occurs (s.power = 4) s ((s.runTo t).startModule 5)
  | none => .next s

/-- TRIP_ACK (R505, R522). -/
def State.tripAck (s : State) (seq : Nat) : State :=
  match s.store.trips.getLast? with
  | some r =>
    if s.store.tripPending && seq = r.1 then (if s.allCool then s.tripRelease else s.fs R.TRIP_STATUS F.TRIP_STATUS_ack_waiting 1)
    else s.raise R.TRIP_STATUS F.TRIP_STATUS_ack_bad
  | none => s.raise R.TRIP_STATUS F.TRIP_STATUS_ack_bad

/-- TRIP_ACK. -/
def execTripAck (port seq : Nat) (s : State) : Answer := occurs (s.hostOn port && port = s.tokenPort) s (s.tripAck seq)

/-! ### Rack time (R535-R540) -/

/-- R539: entry into holdover. -/
def State.holdover (s : State) : State :=
  if s.fb R.CLK_STATUS F.CLK_STATUS_tclk_holdover then s
  else (((s.fs R.CLK_STATUS F.CLK_STATUS_tclk_holdover 1).fs R.TIME_STATUS F.TIME_STATUS_holdover 1).count R.PIN_CNT_HOLDOVER).log Code.ok 0 0 [8]

/-- RACKCLK_LOST (R535): no edge for 100 ns; the PLL unlocks. -/
def State.rackclkLost (s : State) : State :=
  let t : State := { s.pass 100 with time := { (s.pass 100).time with lost := true, lastTick := none, pos := none, frame := none, disp := (0, 0) } }
  ((t.fs R.TIME_STATUS F.TIME_STATUS_rackclk_ok 0).fs R.CLK_STATUS F.CLK_STATUS_tclk_lock 0).holdover

/-- RACKCLK_LOST. -/
def execRackclkLost (s : State) : Answer :=
  if s.time.lost then .next s else if s.power = 0 then .next s.rackclkLost else .next { s with time := { s.time with lost := true } }

/-- RACKCLK_RESTORED (R539). -/
def execRackclkRestored (s : State) : Answer :=
  let t : State := { s with time := { s.time with lost := false } }
  if !s.time.lost then .next s
  else if s.power = 0 && MState.rennet < s.mstate then .next ((t.fs R.TIME_STATUS F.TIME_STATUS_rackclk_ok 1).fs R.CLK_STATUS F.CLK_STATUS_tclk_lock 1) else .next t

/-- TICK_TIMEOUT (R539): no tick edge accepted for 8 ms, counted from the start where none was. -/
def execTickTimeout (s : State) : Answer :=
  occurs (s.power = 0 && MState.rennet < s.mstate && !s.fb R.CLK_STATUS F.CLK_STATUS_tclk_holdover) s (s.runTo (s.time.lastTick.getD s.tiers.began + 8000000)).holdover

/-- SLEW_COMPLETE (R539): time runs to the correction that ends the offset. -/
def execSlewComplete (s : State) : Answer :=
  occurs (s.fb R.TIME_STATUS F.TIME_STATUS_slewing) s
    ((if s.time.offset = 0 then s else s.pass (s.time.offset.natAbs * 10000 - s.time.acc)).fs R.TIME_STATUS F.TIME_STATUS_slewing 0)

/-- TIME_OFFSET_UPDATE (R540, R550): once per second while the port is UP. -/
def execTimeOffsetUpdate (j : Nat) (offset : Int) (s : State) : Answer :=
  occurs (j < 4 && s.spUp (12 + j)) s
    ((s.fs (R.TIME_OFFSET j) F.TIME_OFFSET_offset (uint 32 offset)).fs (R.TIME_OFFSET j) F.TIME_OFFSET_valid 1)

/-- R537: the meaning of a pulse width: 2 marker, 0 and 1 bits. -/
def tickWidth (w : Nat) : Option Nat :=
  if 19 ≤ w ∧ w ≤ 21 then some 2 else if 4 ≤ w ∧ w ≤ 6 then some 0 else if 9 ≤ w ∧ w ≤ 11 then some 1 else none

/-- R537: the tick number of the marker that ends a frame, where the frame is valid. -/
def frameNumber (t : TimeSt) : Option Nat :=
  if t.pos = some 63 && !t.void && t.bits.length = 63 && (t.bits.drop 48).all (!·) then
    some (((t.bits.take 48).zipIdx).foldl (fun (n : Nat) b => n + b2n b.1 * 2 ^ b.2) 0)
  else none

/-- R539: an offset begins to be removed. -/
def State.startSlew (s : State) (d : Int) : State :=
  State.fs { s with time := { s.time with offset := d, acc := 0, disp := (0, 0) } } R.TIME_STATUS F.TIME_STATUS_slewing (if d = 0 then 0 else 1)

/-- 32-bit two's complement, saturating (R549). -/
def sat32 (d : Int) : Nat := uint 32 (max (-2147483648) (min 2147483647 d))

/-- R538, R539: a marker of tick number `n` after two frames that agree: rack time is acquired, or holdover ends with an offset. -/
def State.markerAgrees (s : State) (n : Nat) : State :=
  let off (t : State) : State := (t.fs R.CLK_STATUS F.CLK_STATUS_tclk_holdover 0).fs R.TIME_STATUS F.TIME_STATUS_holdover 0
  if !s.fb R.TIME_STATUS F.TIME_STATUS_acquired then
    let t : State := State.fs { s with rack := n * 1000000 } R.TIME_STATUS F.TIME_STATUS_acquired 1
    off { t with boundaryNo := t.nextBoundary t.img.cfg, time := { t.time with offset := 0, acc := 0, disp := (0, 0) } }
  else if s.fb R.CLK_STATUS F.CLK_STATUS_tclk_holdover then
    let d : Int := (s.rack : Int) - (n : Int) * 1000000
    ((off (s.startSlew d)).fs R.TIME_STATUS F.TIME_STATUS_last_offset (sat32 d)).log Code.ok 0 0 ([9] ++ leBytes 4 (sat32 d))
  else s

/-- R537, R538: an accepted tick is decoded into its frame. -/
def State.tickFrame (s : State) (width : Nat) : State :=
  let x := s.time
  match tickWidth width with
  | some 2 =>
    let n := frameNumber x
    let t : State := match n, x.frame with
      | some a, some b => if a = b + 64 then s.markerAgrees a else s
      | _, _ => s
    { t with time := { t.time with pos := some 0, bits := [], void := false, frame := n } }
  | some b => { s with time := { x with pos := x.pos.map (· + 1), bits := x.bits ++ [decide (b = 1)] } }
  | none => State.count { s with time := { x with pos := x.pos.map (· + 1), void := true } } R.PIN_CNT_TICK_WIDTH

/-- R536: the displacement of an accepted tick from this module's rack time, positive where the count is ahead. -/
def State.tickDisp (s : State) : Int := if s.rack % 1000000 < 500000 then (s.rack % 1000000 : Nat) else (s.rack % 1000000 : Nat) - (1000000 : Int)

/-- R536: the eighth accepted tick in a row with one displacement re-aligns the phase. -/
def State.tickPhase (s : State) : State :=
  if !s.fb R.TIME_STATUS F.TIME_STATUS_acquired || s.fb R.CLK_STATUS F.CLK_STATUS_tclk_holdover || s.time.offset ≠ 0 then s
  else
    let d := s.tickDisp
    let n := if d = s.time.disp.1 && d ≠ 0 then s.time.disp.2 + 1 else if d = 0 then 0 else 1
    let t : State := { s with time := { s.time with disp := (d, n) } }
    if 8 ≤ n then t.startSlew d else t

/-- RACKTICK_EDGE (R536): an edge `interval` RACKCLK cycles after the last accepted one. One that comes too late starts the reference anew (assumption log 44). -/
def State.tickEdge (s : State) (interval width : Nat) : State :=
  match s.time.lastTick with
  | none => State.tickFrame { s with time := { s.time with lastTick := some s.now, pos := none, frame := none, void := false } } width
  | some l =>
    let t := s.runTo (l + 40 * interval)
    if interval < 24750 then t.count R.PIN_CNT_TICK_EARLY
    else if 25250 < interval then State.tickFrame { t with time := { t.time with lastTick := some t.now, pos := none, frame := none, disp := (0, 0) } } width
    else
      let u := if interval = 25000 then t else t.count R.PIN_CNT_TICK_PHASE
      (State.tickPhase { u with time := { u.time with lastTick := some u.now } }).tickFrame width

/-- RACKTICK_EDGE. -/
def execRacktickEdge (interval width : Nat) (s : State) : Answer :=
  let ahead := match s.time.lastTick with
    | some l => decide (s.now ≤ l + 40 * interval)
    | none => true
  occurs (s.power = 0 && !s.time.lost && ahead) s (s.tickEdge interval width)

end Machine
end Sys2Proof
end

