-- ==== Sys2Proof/Machine/Dump.lean ====
section
/-!
DEFINITION. The dump (R480, R517, R518), the tray controller over SMBus (R495, R496, R488), and the JTAG port (R481).
-/
namespace Sys2Proof

/-- Contents of dump sections whose layout the spec does not give: readable registers (1), stream buffer (6), Hauno core state (7), by section, unit and log sequence
number of the fatal error (assumption log 45). -/
opaque Config.dumpSection : Nat → Nat → Nat → Bytes

namespace Machine

/-! ### The dump (R480, R518) -/

/-- R504, R508: the event memory: trip records, then the ring of log entries by sequence number. -/
def State.eventMemory (s : State) : Bytes :=
  let trips := (List.range 16).flatMap (fun i => match s.store.trips[i]? with
    | some r => r.2
    | none => zeros 256)
  let entry (e : LogEntry) : Bytes :=
    leBytes 8 e.seq ++ leBytes 8 e.time ++ leBytes 1 e.code ++ leBytes 1 e.severity ++ leBytes 2 e.source ++ leBytes 2 e.rep ++ e.detail
  trips ++ (List.range 8064).flatMap (fun i => match s.store.log.find? (fun e => (e.seq - 1) % 8064 = i) with
    | some e => entry e
    | none => zeros 32)

/-- A section of the dump: id, unit, absent, content. -/
abbrev DumpSection := Nat × Nat × Bool × Bytes

/-- R518: the sections; those of a fenced die are absent. -/
def State.dumpSections (s : State) (seq : Nat) : List DumpSection :=
  let cores (f : Nat → DumpSection) : List DumpSection := (List.range 32).map (fun c => if s.dieUp (c / 4) then f c else ((f c).1, c, true, []))
  [(1, 0, false, Config.dumpSection 1 0 seq), (2, 0, false, s.eventMemory)]
    ++ cores (fun c => (3, c, false, (tgetD s.seq.imem c []).flatMap (leBytes 16) ++ zeros (65536 - 16 * (tgetD s.seq.imem c []).length)))
    ++ [(4, 0, false, s.memRdN (hubKey 0) (2 ^ 28))]
    ++ cores (fun c => (5, c, false, s.memRdN (sramKey c 0) (2 ^ 27)))
    ++ [(6, 0, false, Config.dumpSection 6 0 seq)] ++ (List.range 16).map (fun h => (7, h, false, Config.dumpSection 7 h seq))

/-- R518: the plaintext: the section table, then the sections. -/
def dumpPlain (l : List DumpSection) : Bytes :=
  let first := 8 + 32 * l.length
  let table := l.foldl (fun (x : Nat × Bytes) e =>
    (x.1 + e.2.2.2.length, x.2 ++ leBytes 2 e.1 ++ leBytes 2 e.2.1 ++ leBytes 4 (b2n e.2.2.1) ++ leBytes 8 (if e.2.2.1 then 0 else x.1) ++ leBytes 8 e.2.2.2.length ++ zeros 8)) (first, [])
  leBytes 4 l.length ++ zeros 4 ++ table.2 ++ l.flatMap (fun e => e.2.2.2)

/-- R518: the head. -/
def State.dumpHead (s : State) (d : DumpSt) (segs plain : Nat) (eph : Bytes) : Bytes :=
  leBytes 8 0x504D5544384E5351 ++ leBytes 2 1 ++ leBytes 1 (b2n (!d.cut)) ++ leBytes 1 d.cause ++ leBytes 4 segs ++ s.fuses.serial ++ leBytes 8 d.seq ++ leBytes 8 s.rackRead
    ++ leBytes 4 s.store.bootCount ++ zeros 4 ++ leBytes 8 plain ++ eph ++ zeros 7 ++ (if s.img.recs.isSome then s.cfgDigest else zeros 48) ++ zeros 3880

/-- R298: writes bytes of the dump. -/
def State.dumpPut (s : State) (bonded : Bool) (b : Bytes) : State :=
  if bonded then (b.zipIdx).foldl (fun (t : State) p => t.memWr (bondKey (p.2 / 201326592) (2 ^ 34 - 201326592 + p.2 % 201326592)) p.1) s
  else match s.keepDom with
    | some i => s.farWrite i (subArea s.img.cfg 3).1 b
    | none => s

/-- R480, R517 step 3: the dump sealed to the dump key; without one it has length 0. A second fatal error leaves the segments sealed so far, a free number. -/
def State.dumpWrite (s : State) (d : DumpSt) : State :=
  match s.store.dumpKey with
  | none => { s with mgt := { s.mgt with dump := some { d with length := 0 } } }
  | some pub =>
    let k := s.scalar
    let all := chunks (2 ^ 20) (dumpPlain (s.dumpSections d.seq))
    let f := k.2.free
    let segs := if d.cut then all.take (f.1 % (all.length + 1)) else all
    let t := if d.cut then f.2 else k.2
    let plain := (segs.map List.length).sum
    let head := s.dumpHead d segs.length plain (pubOf k.1)
    let key := match ecdh k.1 pub with
      | some z => kdf z s.fuses.serial "QSN8 dump" 32
      | none => zeros 32
    let sealed_ := (segs.zipIdx).map (fun p => gcmSeal key (zeros 4 ++ leBytes 8 p.2) (head.take 256) p.1 16)
    let tags := sealed_.flatMap (fun x => x.2)
    let u := t.dumpPut d.bonded (head ++ tags ++ zeros (131072 - tags.length) ++ sealed_.flatMap (fun x => x.1))
    { u with mgt := { u.mgt with dump := some { d with length := 0x21000 + plain } } }

/-- DUMP_COMPLETE (R517 step 4). -/
def execDumpComplete (s : State) : Answer :=
  match s.mgt.dump with
  | some d => occurs (s.power = 0 && s.mstate = MState.faulted) s ((s.dumpWrite d).setState MState.dumped)
  | none => .next s

/-! ### SMBus (R495, R496) -/

/-- R496: the value of a numeric sensor, in whole °C, W or steps; none where the number names no numeric sensor. -/
def State.pldmValue (s : State) (id : Nat) : Option Int :=
  let deg (ids : List Nat) : Option Int := some (s.maxTemp ids / 16)
  let kind (k : Nat) : List Nat := (List.range 420).filter (fun i => sensorKind i = k)
  if 1 ≤ id ∧ id ≤ 6 then deg (kind (id - 1))
  else if id = 7 then some (s.fg R.PWR_STATUS F.PWR_STATUS_mean_10ms)
  else if id = 8 then some (s.fg R.PWR_STATUS F.PWR_STATUS_cap_in_force)
  else if id = 10 then some (s.fg R.PWR_STATUS F.PWR_STATUS_g)
  else if 0x100 ≤ id ∧ id < 0x108 then deg ((List.range 40).map (· + 40 * (id - 0x100)))
  else none

/-- R496: the limits of a temperature sensor: upper warning the hot limit in force, upper fatal the trip limit. -/
def State.pldmLimits (s : State) (id : Nat) : Option (Nat × Nat) :=
  let first := if id = 1 then some 0 else if id = 2 then some 24 else if id = 3 then some 320 else if id = 4 then some 368 else if id = 5 then some 400 else if id = 6 then some 416
    else if 0x100 ≤ id ∧ id < 0x108 then some (40 * (id - 0x100)) else none
  first.map (fun i => (s.hotLimit i, (tripLimit i).getD 0))

/-- An answer over SMBus: type, command, completion code, data (assumption log 46). -/
def State.pldmAnswer (s : State) (m : PldmMsg) (code : Nat) (data : Bytes) : State := s.emit (.pldm (leBytes 1 m.type ++ leBytes 1 m.command ++ leBytes 1 code ++ data))

/-- A completion code of an update from a status code. -/
def pldmCode (c : Nat) : Nat := if c = Code.ok then 0 else 0x80 + c

/-- PLDM_MESSAGE (R495, R496, R488): MCTP control (type 0x100 here), PLDM base, platform monitoring and firmware update (assumption log 46). -/
def State.pldm (s : State) (m : PldmMsg) : State :=
  let upd (r : Nat × State) : State := r.2.pldmAnswer m (pldmCode r.1) []
  if m.type = 0x100 then
    match m.command with
    | 1 => State.pldmAnswer { s with mgt := { s.mgt with eid := fieldAt m.payload 0 1 } } m 0 (m.payload.take 1)
    | 2 => s.pldmAnswer m 0 (leBytes 1 s.mgt.eid)
    | _ => s.pldmAnswer m 5 []
  else if m.type = 0 then
    match m.command with
    | 4 => s.pldmAnswer m 0 (leBytes 8 0x25)
    | _ => s.pldmAnswer m 5 []
  else if m.type = 2 then
    let id := fieldAt m.payload 0 2
    match m.command with
    | 4 => State.pldmAnswer { s with mgt := { s.mgt with receiver := some (fieldAt m.payload 0 1) } } m 0 []
    | 5 => s.pldmAnswer m 0 (leBytes 1 (s.mgt.receiver.getD 0))
    | 0x11 => match s.pldmValue id with
      | some v => s.pldmAnswer m 0 (leBytes 2 (uint 16 v))
      | none => s.pldmAnswer m 0x80 []
    | 0x12 => match s.pldmLimits id with
      | some l => s.pldmAnswer m 0 (leBytes 2 l.1 ++ leBytes 2 l.2)
      | none => s.pldmAnswer m 0x80 []
    | 0x21 => if id = 9 then s.pldmAnswer m 0 (leBytes 1 s.mstate) else s.pldmAnswer m 0x80 []
    | _ => s.pldmAnswer m 5 []
  else if m.type = 5 then
    match m.command with
    | 0x10 => upd (s.fwOpen 2 (fieldAt m.payload 0 4))
    | 0x15 => upd (s.fwPiece 2 (fieldAt m.payload 0 4) (m.payload.drop 4))
    | 0x1A => upd (s.fwClose 2)
    | 0x1D => match s.fw.update with
      | some u => if u.1 = 2 then (State.fs s.fwAbandon R.RIND_STATUS F.RIND_STATUS_fw_update 0).pldmAnswer m 0 [] else s.pldmAnswer m 0x80 []
      | none => s.pldmAnswer m 0x80 []
    | _ => s.pldmAnswer m 5 []
  else s.pldmAnswer m 0x20 []

/-- PLDM_MESSAGE: SMBus answers while the always-on domain runs and is not held in reset (R495, R533). A module without a bootable slot answers only firmware update (R482). -/
def execPldmMessage (msg : PldmMsg) (s : State) : Answer :=
  occurs (s.measures && (msg.type = 5 || !(s.mgt.stopped && s.mstate = MState.rennet))) s (s.pldm msg)

/-! ### JTAG (R481) -/

/-- JTAG_ACCESS: instruction 0 BYPASS (one bit of delay), 1 IDCODE, others the unlocked port's. Locked, the port answers only the first two; what IDCODE and the others shift
out is not stated, a free value (assumption log 47). -/
def State.jtagAccess (s : State) (instr data : Nat) : State :=
  if instr = 0 then s.emit (.jtag (2 * data))
  else if instr = 1 || s.fb R.RIND_STATUS F.RIND_STATUS_jtag_open then (let f := s.free; f.2.emit (.jtag f.1))
  else s

/-- JTAG_ACCESS. -/
def execJtagAccess (instr data : Nat) (s : State) : Answer := occurs (s.power ≠ 1) s (s.jtagAccess instr data)

end Machine
end Sys2Proof
end

