-- ==== Sys2Proof/Machine/Keep.lean ====
section
/-!
DEFINITION. KEEP packets at their receiver (R423, R430-R433, R436-R439, R443, R449): pairing, the ward's frames and journal, parity, stripe chains; and the stand-in and
ripening of a spare (R440-R443).
-/
namespace Sys2Proof
namespace Machine

/-! ### GF(2^8) (R434) -/

/-- Multiplication by α. -/
def rsDouble (a : Nat) : Nat := if 128 ≤ a then (2 * a) ^^^ 0x11D else 2 * a
/-- Product in GF(2^8) over the low `n` bits of `b`. -/
def rsMulN : Nat → Nat → Nat → Nat
  | 0, _, _ => 0
  | n + 1, a, b => (if b % 2 = 1 then a else 0) ^^^ rsMulN n (rsDouble a) (b / 2)
/-- Product in GF(2^8). -/
def rsMul (a b : Nat) : Nat := rsMulN 8 a b
/-- Power of α. -/
def rsPow : Nat → Nat
  | 0 => 1
  | n + 1 => rsDouble (rsPow n)
/-- The inverse of a non-zero element. -/
def rsInv (a : Nat) : Nat := ((List.range 255).find? (fun n => rsMul a (rsPow n) = 1)).elim 0 rsPow
/-- Bytes times a coefficient. -/
def rsScale (c : Nat) (b : Bytes) : Bytes := b.map (fun x => BitVec.ofNat 8 (rsMul c x.toNat))
/-- Sum of two byte strings. -/
def rsAdd (a b : Bytes) : Bytes := (a.zip b).map (fun p => p.1 ^^^ p.2)

/-! ### The ward's frames and journal (R430-R432) -/

/-- R430 step 2, R431: the checks of a PAIR request. -/
def State.pairCode (s : State) (src : Nat) (d : Bytes) : Nat :=
  let c := s.img.cfg
  let muslin := fieldAt d 24 8
  let rmax := fieldAt d 32 8
  firstFail [(keepWard c ≠ src, Code.notPermitted), (fieldAt d 16 1 = s.fg R.PIN_STRAPS F.PIN_STRAPS_feed_id && !bit (fieldAt d 17 1) 0, Code.feedShared),
    (decide ((subArea c 0).2 < 2 * (muslin + rmax)) || decide ((subArea c 1).2 < fieldAt d 40 8), Code.outOfRange)]

/-- PAIR (R430): the request is checked and answered; sealed versions of the same ward stand. A ward that is refused is paired no more (R453). -/
def State.pairRx (s : State) (q : Packet) : State :=
  let c := s.pairCode q.src q.data
  let muslin := fieldAt q.data 24 8
  let rmax := fieldAt q.data 32 8
  let ring := fieldAt q.data 40 8
  let w : Ward := match s.kpu.ward with
    | some w => if w.dev = q.src && w.muslin = muslin && w.rmax = rmax && w.ring = ring then w else ⟨q.src, muslin, rmax, ring, [], 0, 0, 0⟩
    | none => ⟨q.src, muslin, rmax, ring, [], 0, 0, 0⟩
  let t := if c = Code.ok then State.fs { s with kpu := { s.kpu with ward := some w } } R.KPU_STATUS F.KPU_STATUS_ward_paired 1
    else match s.kpu.ward with
      | some w => if w.dev = q.src then s.fs R.KPU_STATUS F.KPU_STATUS_ward_paired 0 else s
      | none => s
  t.sendKeep q.src KKind.pairReply 0 0xF1 0 false (leBytes 1 c)

/-- PAIR_REPLY (R430): PAIRED, every page streams next; or REFUSED, logged, to be tried again after 1 s. -/
def State.pairReplyRx (s : State) (q : Packet) : State :=
  let c := fieldAt q.data 0 1
  if q.src ≠ keepPartner s.img.cfg || s.pairState ≠ 1 then s
  else if c = Code.ok then State.setPair { s with kpu := { s.kpu with held := [] } } 2
  else
    let t := ((s.setPair 3).fs R.KPU_STATUS F.KPU_STATUS_pair_code c).log c 2 0 []
    { t with kpu := { t.kpu with pairAt := t.now + 1000000000 } }

/-- PAIR_RETRY (R430): once per second while unpaired. -/
def execPairRetry (s : State) : Answer :=
  occurs (s.img.recs.isSome && keepPartner s.img.cfg ≠ 0xFFFF && s.pairState ≠ 2 && !s.inTest && decide (MState.configured ≤ s.mstate) && decide (s.mstate ≤ MState.held)) s
    (s.runTo s.kpu.pairAt).sendPair

/-- R432: bytes of a frame with its record area. -/
def Ward.stride (w : Ward) : Nat := w.muslin + w.rmax

/-- The ward that sent a packet. -/
def State.wardOf (s : State) (q : Packet) : Option Ward := match s.kpu.ward with
  | some w => if w.dev = q.src then some w else none
  | none => none

/-- R258, R26: far bytes that ripening writes are charged to activity 0 (R259, R439); the bytes fall from the hub. -/
def State.ripenWay (s : State) (space unit off n : Nat) : State :=
  (if space = 0 then s.take 0 3 unit (cdiv n 64) else s).unitMoves (s.unitPorts space unit off n) false

/-- A spare that ripens from this sender's packets. -/
def State.ripening (s : State) (q : Packet) : Option Ripen := if q.chan = 0xF3 && s.fg R.KPU_STATUS F.KPU_STATUS_spare_state = 1 then s.kpu.ripen else none

/-- What a spare still waits for, with one part of the keepable state arrived: its bytes count once (R443, R451). -/
def State.ripened (s : State) (r : Ripen) (part : Nat × Nat) (n : Nat) : State :=
  State.fsat { s with kpu := { s.kpu with ripen := some { r with want := r.want.erase part } } } R.KPU_RIPEN F.KPU_RIPEN_count (if r.want.contains part then n else 0)

/-- A write that no keeping unit follows: restored bytes are not dirty and leave no delta. -/
def State.restoreBytes (s : State) (space unit off : Nat) (b : Bytes) : State :=
  let t := s.unitWrite space unit off b false
  { t with kpu := { t.kpu with epochs := s.kpu.epochs }, eru := { t.eru with out := s.eru.out } }

/-- R443, R427 step 1: a page of the lost module's Muslin set reaches its tensor and its staging copy. -/
def State.restorePage (s : State) (off : Nat) (b : Bytes) : State :=
  match (keepTensors s.img.cfg 1).find? (fun (r : Rec) => decide (muslinOff s.img.cfg r.id ≤ off) && decide (off < muslinOff s.img.cfg r.id + r.at 16 8)) with
  | some r =>
    let o := off - muslinOff s.img.cfg r.id
    [r.at 8 8 + o, r.at 24 8 + o].foldl (fun (t : State) x => (t.ripenWay (r.at 1 1) (r.at 2 1) x b.length).restoreBytes (r.at 1 1) (r.at 2 1) x b) s
  | none => s

/-- R444 step 4: a surviving member that draws its pages back from this sender. -/
def State.recovering (s : State) (q : Packet) : Option Recover := if q.chan = 0xF3 && q.src = keepPartner s.img.cfg then s.kpu.recover else none

/-- R444 step 4: a page of the target comes back to its staging copy. -/
def State.unstagedPage (s : State) (x : Recover) (off : Nat) (b : Bytes) : State :=
  let t := match (keepTensors s.img.cfg 1).find? (fun (r : Rec) => decide (muslinOff s.img.cfg r.id ≤ off) && decide (off < muslinOff s.img.cfg r.id + r.at 16 8)) with
    | some r =>
      let o := r.at 24 8 + (off - muslinOff s.img.cfg r.id)
      (s.ripenWay (r.at 1 1) (r.at 2 1) o b.length).restoreBytes (r.at 1 1) (r.at 2 1) o b
    | none => s
  { t with kpu := { t.kpu with recover := some { x with want := x.want.erase off } } }

/-- R444 step 4: the SEAL behind the pages of a frame must be the target's; where the partner's frame held another version, the other frame is asked for (assumption log 48). -/
def State.recoverEnd (s : State) (x : Recover) (q : Packet) : State :=
  if fieldAt q.data 0 4 = x.target % 2 ^ 32 then { s with kpu := { s.kpu with recover := some { x with want := x.want.erase (muslinSize s.img.cfg) } } }
  else if x.other then s.recoverFails Code.outOfRange
  else State.askFrame { s with kpu := { s.kpu with recover := some { x with want := muslinWant s.img.cfg, other := true } } } (1 - x.target % 2)

/-- R432: the frame being filled is never read for recovery: the version that stood in it is gone with its first byte. -/
def State.frameOpen (s : State) (w : Ward) : State := { s with kpu := { s.kpu with ward := some { w with sealed := w.sealed.take 1 } } }

/-- PAGE (R432): one Muslin page into the frame being filled; at a ripening spare, into its tensor, if its holder could read it (R447); at a member that goes back to an older
version, into its staging copy (R444). -/
def State.pageRx (s : State) (q : Packet) : Nat × State :=
  let off := q.addr % 2 ^ 56
  match s.ripening q, s.recovering q, s.wardOf q with
  | some r, _, _ => (Code.ok, if q.poison then s.ripenFails Code.memUncorrectable else (s.restorePage off q.data).ripened r (0, off / 4096) q.data.length)
  | none, some x, _ => (Code.ok, if q.poison then s.recoverFails Code.memUncorrectable else s.unstagedPage x off q.data)
  | none, none, some w =>
    if w.muslin < off + q.data.length then (Code.outOfRange, s) else (Code.ok, (s.frameOpen w).keepWrite (q.chan ≠ 0xF3) q.act 0 (w.fill * w.stride + off) q.data q.poison)
  | none, none, none => (Code.notPermitted, s)

/-- RECORD (R432): part of the record into the frame's record area; at a ripening spare, of the record it needs. A member that goes back has its own record (R444). -/
def State.recordRx (s : State) (q : Packet) : Nat × State :=
  let off := q.addr % 2 ^ 56
  match s.ripening q, s.recovering q, s.wardOf q with
  | some r, _, _ =>
    (Code.ok, if q.poison then s.ripenFails Code.memUncorrectable else { s with kpu := { s.kpu with ripen := some { r with record := (off, q.data) :: r.record } } })
  | none, some _, _ => (Code.ok, s)
  | none, none, some w =>
    if w.rmax < off + q.data.length then (Code.outOfRange, s)
    else (Code.ok, (s.frameOpen w).keepWrite (q.chan ≠ 0xF3) q.act 0 (w.fill * w.stride + w.muslin + off) q.data q.poison)
  | none, none, none => (Code.notPermitted, s)

/-- What a spare needs of a frame: every page, and the record. -/
def frameWant (c : List Rec) : List (Nat × Nat) := (List.range (muslinSize c / 4096)).map (fun p => (0, p)) ++ [(1, 0)]

/-- SEAL at a ripening spare ends a frame (assumption log 50): the version must be the target (R443), and the record complete; then the journal is asked for. Where
the holder's frame held another version, the other frame is asked for (assumption log 48), and the pages that came count no more (R451). -/
def State.frameEnd (s : State) (r : Ripen) (q : Packet) : State :=
  let c := s.img.cfg
  if fieldAt q.data 0 4 ≠ r.target then
    if r.other then s.ripenFails Code.outOfRange
    else
      let rest := r.want.filter (fun w => w.1 ≠ 0 && w.1 ≠ 1)
      let had := muslinSize c - 4096 * (r.want.filter (fun w => w.1 = 0)).length
      State.askFrame { s.fs R.KPU_RIPEN F.KPU_RIPEN_count (s.fg R.KPU_RIPEN F.KPU_RIPEN_count - had) with kpu := { s.kpu with ripen := some { r with want := frameWant c ++ rest, record := [], other := true } } } (1 - r.target % 2)
  else if r.recordBytes.length ≠ fieldAt q.data 4 4 then s.ripenFails Code.outOfRange
  else
    State.sendKeep { s with kpu := { s.kpu with ripen := some { r with want := r.want.erase (1, 0) } } } (keepPartner c) KKind.fetch (Config.recordOf r.recordBytes).jpos 0xF3 0 false
      (leBytes 8 (journalRing c) ++ leBytes 1 1 ++ zeros 7)

/-- SEAL (R423, R432): the frame being filled is current, and the other one is filled next (assumption log 48). -/
def State.sealRx (s : State) (q : Packet) : Nat × State := match s.ripening q, s.recovering q, s.wardOf q with
  | some r, _, _ => (Code.ok, s.frameEnd r q)
  | none, some x, _ => (Code.ok, s.recoverEnd x q)
  | none, none, some w => (Code.ok, { s with kpu := { s.kpu with ward := some { w with sealed := ((fieldAt q.data 0 4, fieldAt q.data 4 4) :: w.sealed).take 2, fill := 1 - w.fill } } })
  | none, none, none => (Code.notPermitted, s)

/-- Writes bytes into the ring of the JOURNAL sub-area. -/
def State.ringPut (s : State) (gated : Bool) (act ring pos : Nat) (b : Bytes) : State :=
  let o := pos % ring
  let a := b.take (ring - o)
  (s.keepWrite gated act 1 o a false).keepWrite gated act 1 0 (b.drop (ring - o)) false

/-- Reads bytes of that ring. -/
def State.ringGet (s : State) (ring pos n : Nat) : Bytes × State × Bool :=
  let o := pos % ring
  let k := min n (ring - o)
  let a := s.keepRead false 0 1 o k
  let b := a.2.1.keepRead false 0 1 0 (n - k)
  (a.1 ++ b.1, b.2.1, a.2.2 || b.2.2)

/-- R425, R443: the journal of a spare has arrived whole, once a packet of less than 4,096 bytes ends it without a gap; it must begin with the mark of the target. -/
def State.journalEnd (s : State) (r : Ripen) : State :=
  let b := r.journalBytes
  let last := r.journal.foldl (fun n p => if p.2.length < 4096 then p.1 + p.2.length else n) 0
  if last = 0 || (Config.recordOf r.recordBytes).jpos + b.length ≠ last then s
  else if fieldAt b 0 8 % 16 = 4 && fieldAt b 8 4 = r.target then { s with kpu := { s.kpu with ripen := some { r with want := r.want.erase (3, 0) } } }
  else s.ripenFails Code.outOfRange

/-- JOURNAL (R426): entries of the ward into the JOURNAL sub-area, where a gap before them cuts off what is held; at a ripening spare, of the journal it replays. -/
def State.journalRx (s : State) (q : Packet) : Nat × State :=
  let pos := q.addr % 2 ^ 56
  match s.ripening q, s.wardOf q with
  | some r, _ =>
    let r2 := { r with journal := (pos, q.data) :: r.journal }
    (Code.ok, if q.poison then s.ripenFails Code.memUncorrectable else State.journalEnd { s with kpu := { s.kpu with ripen := some r2 } } r2)
  | none, some w =>
    if w.ring = 0 then (Code.outOfRange, s)
    else
      let t := s.ringPut (q.chan ≠ 0xF3) q.act w.ring pos q.data
      (Code.ok, { t with kpu := { t.kpu with ward := some { w with jfrom := if pos = w.jend then w.jfrom else pos, jend := pos + q.data.length } } })
  | none, none => (Code.notPermitted, s)

/-- RESYNC (R433): the ward is PAIRING again, and its whole set streams next. -/
def State.resyncRx (s : State) (q : Packet) : Nat × State :=
  if q.src ≠ keepPartner s.img.cfg then (Code.notPermitted, s) else (Code.ok, State.sendPair { s with kpu := { s.kpu with held := [], streaming := none } })

/-! ### Parity and chains (R435-R438) -/

/-- The position of a device in the group. -/
def keepPosOf (c : List Rec) (dev : Nat) : Option Nat := (List.range (keepG c)).find? (fun i => keepMember c i = dev)

/-- R435: the index of a position in stripe `t`: 0 to k - 1 data, k its P, k + 1 its Q. -/
def stripeIdx (g t m : Nat) : Nat := (m + 2 * g - t % g - 2) % g

/-- R437: the log without what a source's next delta shows to be behind its fence: its deltas from before the last snapshot (DESIGN CHOICE; assumption log 147). -/
def State.logFenced (s : State) (src : Nat) : List Delta := s.eru.log.filter (fun d => !(d.old && d.src = src))

/-- R437: bytes of the delta log as a source's next delta finds it. -/
def State.deltaLog (s : State) (src : Nat) : Nat := (((s.logFenced src).map (fun d => 16 + d.bytes.length)).sum)
/-- R414: the room of the delta log. -/
def logRoom (c : List Rec) : Nat := (subArea c 2).2 - 8192 * cdiv (keepAt c 8 4) (keepK c)

/-- DELTA (R436, R437): P adds δ, or Q adds α^j·δ; the delta is logged. -/
def State.deltaRx (s : State) (q : Packet) : Nat × State :=
  let c := s.img.cfg
  let g := keepG c
  let t := q.addr % 2 ^ 56 / 4096
  let first := q.addr % 4096
  match keepPosOf c q.src with
  | none => (Code.notPermitted, s)
  | some m =>
    let mine := stripeIdx g t (keepPos c)
    let j := stripeIdx g t m
    if g < 3 || !s.eruPresent || mine < keepK c || keepK c ≤ j || 4096 < first + q.data.length then (Code.notPermitted, s)
    else
      let isQ := mine = keepK c + 1
      let off := 4096 * (2 * (t / g) + b2n isQ) + first
      let d := if isQ then rsScale (rsPow j) q.data else q.data
      let r := s.keepRead true q.act 2 off q.data.length
      let u := r.2.1.keepWrite true q.act 2 off (rsAdd r.1 d) r.2.2
      (Code.ok, (State.count { u with eru := { u.eru with log := u.logFenced q.src ++ [⟨q.src, t, first, q.data, isQ, false⟩] } } R.ERU_CNT_DELTA).pmc 60 0x0D0 1 (pktAttr 0x37 q))

/-- R435: the tensor and byte in it of a byte of the shard. -/
def shardAt (c : List Rec) (off : Nat) : Option (Rec × Nat) :=
  ((keepTensors c 2).find? (fun (r : Rec) => decide (shardOff c r.id ≤ off) && decide (off < shardOff c r.id + r.at 16 8))).map (fun r => (r, off - shardOff c r.id))

/-- R435: this member's unit of a stripe, the state after it is read, and whether it could not be. -/
def State.stripeUnit (s : State) (t : Nat) : Bytes × State × Bool :=
  let c := s.img.cfg
  let g := keepG c
  let i := stripeIdx g t (keepPos c)
  if keepK c ≤ i then s.keepRead false 0 2 (4096 * (2 * (t / g) + (i - keepK c))) 4096
  else match shardAt c (4096 * (t / g * keepK c + i)) with
    | some p =>
      let r := s.unitRead false 0 (p.1.at 1 1) (p.1.at 2 1) (p.1.at 8 8 + p.2) 4096
      (r.1, r.2.1.unitMoves (s.unitPorts (p.1.at 1 1) (p.1.at 2 1) (p.1.at 8 8 + p.2) 4096) true, r.2.2)
    | none => (zeros 4096, s, false)

/-- R434, R438: the coefficient with which the unit of index `j` enters the rebuilt unit of index `x`, where the unit of index `y` is lost too. -/
def chainCoef (k x : Nat) (y : Option Nat) (j : Nat) : Nat :=
  let a (n : Nat) : Nat := rsPow n
  match y with
  | some w =>
    if x < k ∧ w < k then
      let den := rsInv (a x ^^^ a w)
      if j = k then rsMul (a w) den else if j = k + 1 then den else rsMul (a w ^^^ a j) den
    else if x < k ∧ w = k then (let v := rsInv (a x); if j = k + 1 then v else rsMul (a j) v)
    else if x < k then (if j = k + 1 then 0 else 1)
    else if x = k ∧ w < k then (let v := rsInv (a w); if j = k + 1 then v else 1 ^^^ rsMul (a j) v)
    else if x = k + 1 ∧ w < k then (if j = k then a w else a j ^^^ a w)
    else if x = k then 1 else a j
  | none => if x ≤ k then (if j = k + 1 then 0 else 1) else (if j = k then 0 else a j)

/-- R438, R443, R449: the chain of a stripe that goes on here: the device that asked for it, else the group's spare, and the lost positions, the one to be rebuilt first: the
asker's own, or the first loss that this member knows, which the spare takes (DESIGN CHOICE; assumption log 49). -/
def State.chainFor (s : State) (t : Nat) : Nat × List Nat :=
  let dev := ((s.eru.asked.find? (fun a => a.1 = t)).map (fun a => a.2)).getD (keepSpare s.img.cfg)
  (dev, ((keepPosOf s.img.cfg dev).toList ++ s.eru.lost).eraseDups)

/-- R437, R438: the last deltas of a lost source in a stripe are removed from the parity unit held here; how many the two holders do not share, which no message tells either of them, is a free value (assumption log 82). -/
def State.rollSource (s : State) (t m : Nat) : State :=
  let c := s.img.cfg
  let mine := s.eru.log.filter (fun d => d.stripe = t && d.src = keepMember c m)
  let f := s.free
  let gone := (mine.reverse).take (f.1 % (mine.length + 1))
  gone.foldl (fun (u : State) d =>
    let off := 4096 * (2 * (t / keepG c) + b2n d.q) + d.first
    let x := if d.q then rsScale (rsPow (stripeIdx (keepG c) t m)) d.bytes else d.bytes
    let r := u.keepRead false 0 2 off x.length
    let v := r.2.1.keepWrite false 0 2 off (rsAdd r.1 x) r.2.2
    State.count { v with eru := { v.eru with log := v.eru.log.erase d } } R.ERU_CNT_ROLLBACK) f.2

/-- R438: where two data positions of a stripe are lost, its holders roll their units back once before its chain. -/
def State.rollBack (s : State) (t : Nat) (lost : List Nat) : State :=
  let c := s.img.cfg
  let data := lost.filter (fun m => decide (stripeIdx (keepG c) t m < keepK c))
  if stripeIdx (keepG c) t (keepPos c) < keepK c || data.length < 2 || s.eru.rolled.contains t then s
  else data.foldl (fun (u : State) m => u.rollSource t m) { s with eru := { s.eru with rolled := t :: s.eru.rolled } }

/-- R438: this member adds its coefficient times its unit to a running sum, and hands it to the next survivor, or, behind the last one, to the device that asked for the unit. A
sum with a part that could not be read, or with no loss known here, goes on as such (R447). -/
def State.chainStep (s : State) (t : Nat) (sum : Bytes) (poison : Bool) : State :=
  let c := s.img.cfg
  let g := keepG c
  let r := s.chainFor t
  let idx (m : Nat) : Nat := stripeIdx g t m
  let co := chainCoef (keepK c) (idx (r.2.headD 0)) ((r.2.drop 1).head?.map idx) (idx (keepPos c))
  let u := (State.rollBack { s with eru := { s.eru with asked := s.eru.asked.erase (t, r.1) } } t r.2).stripeUnit t
  let next := ((List.range g).find? (fun m => decide (keepPos c < m) && !r.2.contains m)).elim r.1 (keepMember c)
  u.2.1.sendKeepAs next KKind.rebuild (t * 4096) 0xF3 0 false (poison || u.2.2 || r.2.isEmpty) (rsAdd sum (rsScale co u.1))

/-- FETCH of a stripe's chain (R438): it is noted for whom this member adds its part, and the first survivor starts (assumption log 49). -/
def State.chainAsked (s : State) (t dev : Nat) : State :=
  let u : State := { s with eru := { s.eru with asked := s.eru.asked ++ [(t, dev)] } }
  if (List.range (keepG s.img.cfg)).find? (fun m => !(u.chainFor t).2.contains m) = some (keepPos s.img.cfg) then u.chainStep t (zeros 4096) false else u

/-- R438: before a chain starts, every delta this member sent to a live holder is acknowledged. -/
def State.deltasOut (s : State) : Bool :=
  s.fj.sent.any (fun e => e.core = 32 && e.pkt.chan = 0xF2 && !(s.pair (pairKey 32 e.pkt.dest 0xF2)).lost)

/-- REBUILD (R438): one more member adds its unit; at the spare, a unit of the lost shard has come back. After a third loss no chain goes on, and a unit that was not
available rebuilds nothing (R447). -/
def State.rebuildRx (s : State) (q : Packet) : Nat × State :=
  let c := s.img.cfg
  let g := keepG c
  let t := q.addr % 2 ^ 56 / 4096
  if g < 3 || !s.eruPresent || q.data.length ≠ 4096 then (Code.notPermitted, s)
  else if s.thirdLoss then (Code.targetDead, s)
  else match s.ripening q with
    | some r =>
      let i := stripeIdx g t r.pos
      if q.poison then (Code.ok, s.ripenFails Code.memUncorrectable)
      else
        let u := match shardAt c (4096 * (t / g * keepK c + i)) with
          | some p => (s.ripenWay (p.1.at 1 1) (p.1.at 2 1) (p.1.at 8 8 + p.2) 4096).restoreBytes (p.1.at 1 1) (p.1.at 2 1) (p.1.at 8 8 + p.2) q.data
          | none => s
        (Code.ok, (u.ripened r (2, t) 4096).count R.ERU_CNT_REBUILT)
    | none =>
      if s.eru.rebuild.contains (t, keepPos c) then
        if q.poison then (Code.ok, s)
        else
          let i := stripeIdx g t (keepPos c)
          let u := s.keepWrite false 0 2 (4096 * (2 * (t / g) + (i - keepK c))) q.data false
          let left := s.eru.rebuild.erase (t, keepPos c)
          let v : State := State.count { u with eru := { u.eru with rebuild := left } } R.ERU_CNT_REBUILT
          (Code.ok, if left.isEmpty then v.fs R.ERU_STATUS F.ERU_STATUS_parity_resync 0 else v)
      else (Code.ok, s.chainStep t q.data q.poison)

/-- R432, R443: the sealed version that a FETCH of a frame names: the one of that parity; of two with one parity, the newer by it and the older by the other (assumption log 48). -/
def Ward.fetched (w : Ward) (f : Nat) : Option Nat := match w.sealed with
  | [a, b] => if a.1 % 2 = b.1 % 2 then (if a.1 % 2 = f then some 0 else some 1) else if a.1 % 2 = f then some 0 else some 1
  | [a] => if a.1 % 2 = f then some 0 else none
  | _ => none

/-- FETCH of a frame (R443): its pages in the bytes asked for, and with its record the SEAL of its version (assumption log 50). -/
def State.fetchFrame (s : State) (q : Packet) (w : Ward) (off len : Nat) : Nat × State :=
  match w.fetched (off / w.stride) with
  | none => (Code.notPermitted, s)
  | some i =>
    let v := w.sealed.getD i (0, 0)
    let base := (if i = 0 then 1 - w.fill else w.fill) * w.stride
    let o := off % w.stride
    let pages := (List.range (w.muslin / 4096)).filter (fun p => decide (o ≤ 4096 * p) && decide (4096 * p < o + len))
    let t := pages.foldl (fun (u : State) p =>
      let r := u.keepRead false 0 0 (base + 4096 * p) 4096
      r.2.1.sendKeepAs q.src KKind.page (4096 * p) 0xF3 0 false r.2.2 r.1) s
    if w.muslin < o + len then
      let r := t.keepRead false 0 0 (base + w.muslin) v.2
      (Code.ok, (r.2.1.sendPieces q.src KKind.record 0 0xF3 0 r.2.2 r.1).sendKeep q.src KKind.sealKind 0 0xF3 0 true (leBytes 4 v.1 ++ leBytes 4 v.2))
    else (Code.ok, t)

/-- FETCH of the journal (R443): from a byte that is still held without a gap to its end (R447); the last packet is short (assumption log 50). -/
def State.fetchJournal (s : State) (q : Packet) (w : Ward) (off len : Nat) : Nat × State :=
  if off < w.jfrom || off + w.ring < w.jend || w.jend < off then (Code.notPermitted, s)
  else
    let n := min len (w.jend - off)
    let r := s.ringGet w.ring off n
    let t := r.2.1.sendPieces q.src KKind.journal off 0xF3 0 r.2.2 r.1
    (Code.ok, if n % 4096 = 0 then t.sendKeep q.src KKind.journal (off + n) 0xF3 0 false [] else t)

/-- FETCH (R443): a sealed frame with its record, the journal, or the start of a stripe's chain, but none after a third loss (R447). -/
def State.fetchRx (s : State) (q : Packet) : Nat × State :=
  let off := q.addr % 2 ^ 56
  let len := fieldAt q.data 0 8
  match fieldAt q.data 8 1, s.kpu.ward with
  | 0, some w => if w.stride = 0 then (Code.notPermitted, s) else s.fetchFrame q w off len
  | 1, some w => if w.ring = 0 then (Code.notPermitted, s) else s.fetchJournal q w off len
  | 2, _ =>
    if keepG s.img.cfg < 3 || !s.eruPresent then (Code.notPermitted, s)
    else if s.thirdLoss then (Code.targetDead, s)
    else (Code.ok, s.chainAsked (off / 4096) q.src)
  | _, _ => (Code.notPermitted, s)

/-! ### The rows -/

/-- The effect of a KEEP packet by its kind. -/
def State.keepApply (s : State) (q : Packet) : Nat × State :=
  let k := q.addr / 2 ^ 56
  if k = KKind.pair then (Code.ok, s.pairRx q)
  else if k = KKind.pairReply then (Code.ok, s.pairReplyRx q)
  else if k = KKind.page then s.pageRx q
  else if k = KKind.record then s.recordRx q
  else if k = KKind.sealKind then s.sealRx q
  else if k = KKind.journal then s.journalRx q
  else if k = KKind.delta then s.deltaRx q
  else if k = KKind.fetch then s.fetchRx q
  else if k = KKind.rebuild then s.rebuildRx q
  else if k = KKind.resync then s.resyncRx q
  else (Code.badFormat, s)

/-- R439: an applied KEEP packet is acknowledged, a refused one answered with its code. -/
def State.keepAnswer (s : State) (q : Packet) : State :=
  let r := s.keepApply q
  if r.1 = Code.ok then (r.2.orderStep q).respond q .unit FOp.ack false [] else r.2.refuse q r.1

/-- R348, R439: parked flagged KEEP packets whose count is met are applied. -/
def State.keepUnpark : Nat → State → State
  | 0, s => s
  | fuel + 1, s => match s.fj.parked.find? (fun e => e.2.1.cls = 4 && decide (e.2.1.follow ≤ s.orderC e.2.1)) with
    | none => s
    | some e => State.keepUnpark fuel (State.keepAnswer { s with fj := { s.fj with parked := s.fj.parked.erase e } } e.2.1)

/-- R348-R351: a flagged packet whose count is not met parks on its port. -/
def State.keepIn (s : State) (port : Nat) (q : Packet) : State :=
  if q.flagged && decide (s.orderC q < q.follow) then
    if (s.fj.parked.filter (fun e => e.1 = min 16 port)).length < 64 then (State.count { s with fj := { s.fj with parked := s.fj.parked ++ [(min 16 port, q, s.now)] } } R.FJ_CNT_PARKED).pmc 57 0x082 1 (pktAttr 0x37 q)
    else s.refuse q Code.parkFull
  else
    let t := s.keepAnswer q
    State.keepUnpark (t.fj.parked.length + 1) t

/-- R263, R439: the far bytes that a KEEP packet touches in the keep domain are not held back by its activity's gate, which holds no ripening. -/
def State.keepOpen (s : State) (q : Packet) : Bool := q.chan = 0xF3 || (match s.keepDom with
  | some d => s.farClear q.act d
  | none => true)

/-- A KEEP packet of a kind at a port: it reaches the hub (R27) and is checked as R337 gives, then applied, parked or refused. -/
def keepRow (p : Nat) (pkt : Packet) (mine : Bool) (s : State) : Answer :=
  match (s.takeRx p pkt).bind (fun t => t.toHub p pkt) with
  | none => occurs false s s
  | some t =>
    let r := t.inspect pkt
    occurs (mine && pkt.cls = 4 && pkt.dest = s.device && s.keepOpen pkt) s
      ((if r.1 ≠ Code.ok then (r.2.2.countTag r.1).refuse pkt r.1 else r.2.2.keepIn p r.2.1).drainPump)

/-- The kind of a KEEP packet. -/
def keepKind (pkt : Packet) : Nat := pkt.addr / 2 ^ 56

/-- PAIR. A class BULK packet of no other row is refused here. -/
def execPair (p : Nat) (pkt : Packet) (s : State) : Answer :=
  keepRow p pkt (keepKind pkt ≤ KKind.pair || decide (KKind.resync < keepKind pkt)) s
/-- PAIR_REPLY. -/
def execPairReply (p : Nat) (pkt : Packet) (s : State) : Answer := keepRow p pkt (keepKind pkt = KKind.pairReply) s
/-- PAGE. -/
def execPage (p : Nat) (pkt : Packet) (s : State) : Answer := keepRow p pkt (keepKind pkt = KKind.page) s
/-- RECORD. -/
def execRecord (p : Nat) (pkt : Packet) (s : State) : Answer := keepRow p pkt (keepKind pkt = KKind.record) s
/-- SEAL. -/
def execSeal (p : Nat) (pkt : Packet) (s : State) : Answer := keepRow p pkt (keepKind pkt = KKind.sealKind) s
/-- JOURNAL. -/
def execJournal (p : Nat) (pkt : Packet) (s : State) : Answer := keepRow p pkt (keepKind pkt = KKind.journal) s
/-- DELTA (R437): a full log holds it, and shows log_full. -/
def execDelta (p : Nat) (pkt : Packet) (s : State) : Answer :=
  if keepKind pkt = KKind.delta && s.eruPresent && keepG s.img.cfg ≠ 0 && decide (logRoom s.img.cfg < s.deltaLog pkt.src + 16 + pkt.data.length) then
    occurs ((s.takeRx p pkt).isSome && pkt.cls = 4 && pkt.dest = s.device) s (s.raise R.ERU_STATUS F.ERU_STATUS_log_full)
  else keepRow p pkt (keepKind pkt = KKind.delta) s
/-- FETCH: a chain does not start before this member's deltas are drained (R438). -/
def execFetch (p : Nat) (pkt : Packet) (s : State) : Answer := keepRow p pkt (keepKind pkt = KKind.fetch && !s.deltasOut) s
/-- REBUILD. -/
def execRebuild (p : Nat) (pkt : Packet) (s : State) : Answer := keepRow p pkt (keepKind pkt = KKind.rebuild && !s.deltasOut) s
/-- RESYNC. -/
def execResync (p : Nat) (pkt : Packet) (s : State) : Answer := keepRow p pkt (keepKind pkt = KKind.resync) s

/-! ### Spares (R440-R443) -/

/-- R442: the checks of a stand-in order. -/
def State.standInCode (s : State) (d : Bytes) : Nat :=
  firstFail [(slice d 0 16 ≠ s.fuses.serial || slice d 24 48 ≠ s.cfgDigest, Code.staleVersion),
    (s.fg R.KPU_STATUS F.KPU_STATUS_role ≠ 2 || s.fg R.KPU_STATUS F.KPU_STATUS_spare_state ≠ 0, Code.notPermitted)]

/-- R443: what a spare asks for: the frame of its target with the record, and every unit of the position by chains of its survivors. -/
def State.ripenBegin (s : State) (d : Bytes) : State :=
  let c := s.img.cfg
  let g := keepG c
  let pos := fieldAt d 18 1
  let units := if g = 0 || !s.eruPresent then [] else (List.range (keepAt c 8 4)).map (fun u => (unitStripe g pos u).1)
  let r : Ripen := ⟨fieldAt d 16 2, pos, fieldAt d 20 4, slice d 72 (96 * fieldAt d 19 1), frameWant c ++ [(3, 0)] ++ units.map (fun t => (2, t)), [], [], false⟩
  let t := ((State.fs { s with kpu := { s.kpu with ripen := some r } } R.KPU_STATUS F.KPU_STATUS_spare_state 1).wr R.KPU_RIPEN 0).wr R.KPU_RIPEN_TOTAL
    (BitVec.ofNat 64 (muslinSize c + 4096 * units.length))
  (t.askFrame (r.target % 2)).askUnits pos units

/-- STAND_IN_ORDER (R442): authenticated under the lease key, from the fabric manager (R471); a refused order is counted and logged. -/
def State.standIn (s : State) (q : Packet) : State :=
  let c := s.standInCode q.data
  if q.key ≠ 0 || !s.isManager q.src then s.count R.FJ_CNT_REFUSED
  else if c ≠ Code.ok then (s.count R.FJ_CNT_REFUSED).log c 2 0 []
  else (s.ripenBegin q.data).rxCount q

/-- A MGMT packet of a kind (R471). -/
def mgmtRow (p : Nat) (pkt : Packet) (mine : Bool) (f : State → Packet → State) (s : State) : Answer :=
  match (s.takeRx p pkt).bind (fun t => t.toHub p pkt) with
  | none => occurs false s s
  | some t =>
    let r := t.inspect pkt
    occurs (mine && pkt.cls = 0 && pkt.op = FOp.mgmt && pkt.dest = s.device) s ((if r.1 = Code.ok then f r.2.2 r.2.1 else r.2.2.dropPkt r.1).drainPump)

/-- R471: the kind of a MGMT message. -/
def mgmtKind (pkt : Packet) : Nat := pkt.addr % 2 ^ 16

/-- STAND_IN_ORDER. -/
def execStandInOrder (p : Nat) (pkt : Packet) (s : State) : Answer := mgmtRow p pkt (mgmtKind pkt = 1) State.standIn s

/-- RIPENING_DONE (R440, R443): everything has arrived. -/
def execRipeningDone (s : State) : Answer := match s.kpu.ripen with
  | some r => occurs (s.fg R.KPU_STATUS F.KPU_STATUS_spare_state = 1 && r.want.isEmpty) s (s.fs R.KPU_STATUS F.KPU_STATUS_spare_state 2)
  | none => .next s

/-! ### Registers (R451, R452) -/

/-- KPU_CLEAR_COUNTS. -/
def execKpuClearCounts (port : Nat) (s : State) : Answer :=
  occurs (s.hostOn port && port = s.tokenPort) s (s.zeroRegs [R.KPU_CNT_TAKEN, R.KPU_CNT_ABANDONED, R.KPU_CNT_SKIPPED, R.KPU_CNT_PAGES, R.KPU_CNT_JNL_STALL])

/-- KPU_FULL_NEXT. -/
def execKpuFullNext (port : Nat) (s : State) : Answer := occurs (s.hostOn port && port = s.tokenPort) s (s.fs R.KPU_CTL F.KPU_CTL_full_next 1)

/-- ERU_CLEAR_COUNTS; on a part without the ERU its registers are absent (R8, R451). -/
def execEruClearCounts (port : Nat) (s : State) : Answer :=
  occurs (s.hostOn port && port = s.tokenPort && s.eruPresent) s (s.zeroRegs [R.ERU_CNT_DELTA, R.ERU_CNT_REBUILT, R.ERU_CNT_ROLLBACK])

end Machine
end Sys2Proof
end

