-- ==== Sys2Proof/Machine/Rind.lean ====
section
/-!
DEFINITION. The Rind's mailboxes and their messages (R460-R464, R475, R476, R481, R488, R491-R493), and the exchange of job keys (R471, R472).
-/
namespace Sys2Proof
namespace Machine

/-! ### Mailboxes (R460) -/

/-- The mailbox of a port. -/
def State.mbox (s : State) (port : Nat) : Mbox := tgetD s.rind.mbox port ⟨[], []⟩
/-- Sets it; RIND_MBOX_STATUS shows its words. -/
def State.setMbox (s : State) (port : Nat) (m : Mbox) : State :=
  let k := R.RIND_MBOX_STATUS port
  (State.fs { s with rind := { s.rind with mbox := tset s.rind.mbox port m } } k F.RIND_MBOX_STATUS_in_words (min 0x3FFF m.inw.length)).fs k F.RIND_MBOX_STATUS_out_words
    (min 0x3FFF m.outw.length)
/-- RIND_MBOX_STATUS.state: 0 IDLE, 1 RECEIVING, 2 BUSY, 3 DONE. -/
def State.mboxState (s : State) (port : Nat) : Nat := s.fg (R.RIND_MBOX_STATUS port) F.RIND_MBOX_STATUS_state
/-- Sets it. -/
def State.setMboxState (s : State) (port n : Nat) : State := s.fs (R.RIND_MBOX_STATUS port) F.RIND_MBOX_STATUS_state n
/-- R493: stray. -/
def State.mboxStray (s : State) (port : Nat) : State := s.raise (R.RIND_MBOX_STATUS port) F.RIND_MBOX_STATUS_stray

/-- MBOX_BEGIN. While the Rind is BUSY with the port's message it is ignored. -/
def execMboxBegin (port : Nat) (s : State) : Answer :=
  occurs (s.hostOn port && s.mboxState port ≠ 2) s ((s.setMbox port ⟨[], (s.mbox port).outw⟩).setMboxState port 1)

/-- MBOX_IN_WRITE: whole words are appended up to 8,192; a partial word, or one beyond, sets stray. -/
def State.mboxIn (s : State) (port size : Nat) (words : List Word) : State :=
  let m := s.mbox port
  let l := m.inw ++ words
  let t := s.setMbox port { m with inw := l.take 8192 }
  if size % 8 ≠ 0 || 8192 < l.length then t.mboxStray port else t

/-- MBOX_IN_WRITE: words written while no message is being received are dropped. -/
def execMboxInWrite (port size : Nat) (words : List Word) (s : State) : Answer :=
  occurs (s.hostOn port && s.mboxState port = 1) s (s.mboxIn port size words)

/-- MBOX_COMMIT. -/
def execMboxCommit (port : Nat) (s : State) : Answer :=
  occurs (s.hostOn port && (s.mboxState port = 1 || s.mboxState port = 2)) s
    (if s.mboxState port = 2 then s.mboxStray port else State.setMboxState { s with rind := { s.rind with order := s.rind.order ++ [port] } } port 2)

/-- MBOX_ABORT. -/
def execMboxAbort (port : Nat) (s : State) : Answer :=
  occurs (s.hostOn port && s.mboxState port = 1) s ((s.setMbox port ⟨[], (s.mbox port).outw⟩).setMboxState port 0)

/-- MBOX_OUT_READ: the next word of the response; all ones past its end. -/
def State.mboxOut (s : State) (port : Nat) : State := match (s.mbox port).outw with
  | w :: r => (s.setMbox port { s.mbox port with outw := r }).emit (.readData port [w])
  | [] => s.emit (.readData port [ones64])

/-- MBOX_OUT_READ. -/
def execMboxOutRead (port : Nat) (s : State) : Answer := occurs (s.hostOn port) s (s.mboxOut port)

/-! ### Messages (R461, R462) -/

/-- The bytes of a committed message. -/
def State.mboxMsg (s : State) (port : Nat) : Bytes := bytesOf (s.mbox port).inw
/-- Its type. -/
def State.mboxType (s : State) (port : Nat) : Nat := fieldAt (s.mboxMsg port) 0 2

/-- R462: the length of a message of a type, head included; FW_DATA has a piece of any length behind its offset. -/
def mboxLength (ty n : Nat) : Bool := match ty with
  | 1 => n = 64
  | 2 => n = 232
  | 3 => n = 152
  | 4 => n = 304
  | 5 => n = 472
  | 6 => n = 40
  | 7 => n = 24
  | 8 => n = 232
  | 9 => n = 24
  | 10 => decide (24 ≤ n) && decide (n ≤ 65536)
  | 11 => n = 16
  | _ => false

/-- R461 check 1: head, type and length. -/
def State.mboxOk (s : State) (port : Nat) : Bool :=
  let m := s.mboxMsg port
  let n := fieldAt m 4 4
  fieldAt m 2 2 = 1 && fieldAt m 12 4 = 0 && n % 8 = 0 && n = m.length && mboxLength (s.mboxType port) n

/-- R462: "Either" or "Holder", and the states of a type (R280). -/
def State.mboxPermits (s : State) (port ty : Nat) : Bool :=
  let st := s.effState
  let holder := port = s.tokenPort
  match ty with
  | 1 => decide (MState.firmware ≤ s.mstate)
  | 2 => holder && s.mstate = MState.ready
  | 3 => holder && s.mstate = MState.ready
  | 4 => holder && decide (MState.ready ≤ st) && decide (st ≤ MState.held)
  | 5 => decide (MState.configured ≤ st) && decide (st ≤ MState.held)
  | 6 => decide (MState.configured ≤ st) && decide (st ≤ MState.held)
  | 7 => decide (MState.configured ≤ st) && decide (st ≤ MState.held)
  | 8 => holder && (s.mstate = MState.ready || s.mstate = MState.test)
  | _ => holder && decide (MState.ready ≤ s.mstate) && decide (s.mstate ≤ MState.test)

/-- R460 step 4, R461: the response to the port's message: head, status, and data where the status is OK. -/
def State.mboxAnswer (s : State) (port code : Nat) (data : Bytes) : State :=
  let m := s.mboxMsg port
  let body := leBytes 1 code ++ zeros 7 ++ (if code = Code.ok then data else [])
  let body := body ++ zeros ((8 - body.length % 8) % 8)
  let r := leBytes 2 (fieldAt m 0 2 + 0x8000) ++ leBytes 1 1 ++ zeros 1 ++ leBytes 4 (16 + body.length) ++ slice m 8 4 ++ zeros 4 ++ body
  let t := ((s.setMbox port ⟨[], wordsOf r⟩).setMboxState port 3).fs (R.RIND_MBOX_STATUS port) F.RIND_MBOX_STATUS_code code
  let t : State := { t with rind := { t.rind with order := t.rind.order.erase port } }
  if code = Code.ok then t else t.count R.RIND_CNT_MBOX_REFUSED

/-- The Rind handles a message of a type: the first committed one (R460). `f` answers its own checks with a code, data and the state after it. -/
def mboxRow (port ty : Nat) (f : State → Bytes → Nat × Bytes × State) (s : State) : Answer :=
  occurs (s.power = 0 && s.rind.order.head? = some port && s.mboxType port = ty && s.mboxOk port) s
    (if !s.mboxPermits port ty then s.mboxAnswer port Code.notPermitted []
     else
       let r := f s ((s.mboxMsg port).drop 16)
       r.2.2.mboxAnswer port r.1 r.2.1)

/-- MBOX_BAD_MESSAGE (R461 check 1). -/
def execMboxBadMessage (port : Nat) (s : State) : Answer :=
  occurs (s.power = 0 && s.rind.order.head? = some port && !s.mboxOk port) s (s.mboxAnswer port Code.badFormat [])

/-- A report and the chain with their lengths (R462). -/
def State.reportChain (s : State) (nonce : Bytes) : Option (Bytes × State) := match s.report nonce with
  | some r => some (leBytes 4 r.1.length ++ leBytes 4 s.chain.length ++ r.1 ++ s.chain, r.2)
  | none => none

/-- ATTEST (R462): a report on the nonce, and the chain. Without the attestation key (R481) there is none (assumption log 51). -/
def execAttest (port : Nat) (s : State) : Answer :=
  mboxRow port 1 (fun t b => match t.reportChain (slice b 0 48) with
    | some r => (Code.ok, r.1, r.2)
    | none => (Code.notPermitted, [], t)) s

/-- Runs checks in order; where all hold, the effect. -/
def checked (l : List (Bool × Nat)) (s t : State) (data : Bytes) : Nat × Bytes × State := if firstFail l = Code.ok then (Code.ok, data, t) else (firstFail l, [], s)

/-- R18: makes checks without an order, the highest code that applies deciding; where all hold, the effect. -/
def ruled (l : List (Bool × Nat)) (s t : State) (data : Bytes) : Nat × Bytes × State := if highestCode l = Code.ok then (Code.ok, data, t) else (highestCode l, [], s)

/-! ### Owner orders (R463, R464) -/

/-- RIND_OWNER shows an owner key id. -/
def State.showOwner (s : State) (id : Bytes) : State := (s.wr (R.RIND_OWNER 0) (BitVec.ofNat 64 (fieldAt id 0 8))).wr (R.RIND_OWNER 1) (BitVec.ofNat 64 (fieldAt id 8 8))

/-- An owner key is enrolled. -/
def State.owned (s : State) : Bool := s.fb R.RIND_STATUS F.RIND_STATUS_owned

/-- OWNER_ENROL (R463). -/
def execOwnerEnrol (port : Nat) (s : State) : Answer :=
  mboxRow port 2 (fun t b =>
    let pub := slice b 16 97
    let id := (sha384 pub).take 16
    checked [(t.owned, Code.notPermitted), (slice b 0 16 ≠ t.fuses.serial, Code.keyUnknown),
        (match t.store.pendingOwner with
          | some p => p ≠ id
          | none => false, Code.keyUnknown),
        (!ecdsaOk pub (sha384 (b.take 120)) (slice b 120 96), Code.badSignature)] t
      (((State.fs { t with store := { t.store with ownerPub := pub, ownerId := id, pendingOwner := none, orderCtr := 0 } } R.RIND_STATUS F.RIND_STATUS_owned 1).fs
        R.RIND_STATUS F.RIND_STATUS_transfer_pending 0).showOwner id) []) s

/-- R464: the owner, the dump key and the lease key are gone from the store. -/
def State.dropOwner (s : State) : State :=
  ((State.fs { s with store := { s.store with ownerPub := [], ownerId := [], dumpKey := none, leaseKey := none } } R.RIND_STATUS F.RIND_STATUS_owned 0).fs
    R.RIND_STATUS F.RIND_STATUS_lease_key 0).fs R.RIND_STATUS F.RIND_STATUS_dump_key 0 |>.showOwner []

/-- R464: what is checked of every owner order, `n` bytes of which are signed; the rule gives no order of checks (R18). -/
def State.orderChecks (s : State) (b : Bytes) (n : Nat) : List (Bool × Nat) :=
  [(!s.owned, Code.notPermitted), (slice b 0 16 ≠ s.fuses.serial, Code.keyUnknown), (decide (fieldAt b 16 8 ≤ s.store.orderCtr), Code.staleVersion),
   (!ecdsaOk s.store.ownerPub (sha384 (b.take n)) (slice b n 96), Code.badSignature)]

/-- OWNER_TRANSFER (R464). -/
def execOwnerTransfer (port : Nat) (s : State) : Answer :=
  mboxRow port 3 (fun t b =>
    let u := t.dropOwner
    let v : State := { u with store := { u.store with imageFloor := 0, pendingOwner := some (slice b 24 16), orderCtr := fieldAt b 16 8, transfers := t.store.transfers + 1 },
                              fuses := { u.fuses with transfers := t.fuses.transfers + 1 } }
    ruled (t.orderChecks b 40 ++ [(decide (16 ≤ t.fuses.transfers), Code.outOfRange)]) t
      (((v.fs R.RIND_STATUS F.RIND_STATUS_transfer_pending 1).fs R.RIND_STATUS F.RIND_STATUS_transfers (t.fuses.transfers + 1)).wr R.IMG_FLOOR 0) []) s

/-- R464: the lease key unwrapped; none where the tag fails. -/
def State.unwrapLease (s : State) (b : Bytes) : Option Bytes :=
  match s.ik with
  | none => none
  | some d => match ecdh d (slice b 32 97) with
    | some z => gcmOpen (kdf z (slice b 0 16) "QSN8 key install" 32) (slice b 132 12) (b.take 132) (slice b 144 32) (slice b 176 16)
    | none => none

/-- KEY_INSTALL (R464): kind 0 the lease key, wrapped; kind 1 the dump public key. -/
def execKeyInstall (port : Nat) (s : State) : Answer :=
  mboxRow port 4 (fun t b =>
    let kind := fieldAt b 24 1
    let ordered (u : State) : State := { u with store := { u.store with orderCtr := fieldAt b 16 8 } }
    match highestCode (t.orderChecks b 192 ++ [(decide (1 < kind), Code.badFormat), (kind = 0 && (t.unwrapLease b).isNone, Code.badSignature)]) with
    | 0 =>
      if kind = 1 then (Code.ok, [], ordered (State.fs { t with store := { t.store with dumpKey := some (slice b 32 97) } } R.RIND_STATUS F.RIND_STATUS_dump_key 1))
      else (match t.unwrapLease b with
        | some k => (Code.ok, [], ordered (State.fs { t with store := { t.store with leaseKey := some k } } R.RIND_STATUS F.RIND_STATUS_lease_key 1))
        | none => (Code.badSignature, [], t))
    | c => (c, [], t)) s

/-! ### Secure channels (R475, R476) -/

/-- R475: the checks of CHAN_OPEN. -/
def State.chanCode (s : State) (b : Bytes) : Nat :=
  let ch := fieldAt b 0 2
  let first := fieldAt b 260 2
  let last := fieldAt b 262 2
  let grant := slice b 160 104
  firstFail [(!s.owned, Code.notPermitted), (ch < first || last < ch || ch = 0 || 4095 < ch, Code.outOfRange),
    (!(ecdsaOk s.store.ownerPub (sha384 (s.fuses.serial ++ grant)) (slice b 264 96) || ecdsaOk s.store.ownerPub (sha384 (zeros 16 ++ grant)) (slice b 264 96)), Code.badSignature),
    (!ecdsaOk (slice b 160 97) (sha384 (s.fuses.serial ++ b.take 360)) (slice b 360 96), Code.badSignature)]

/-- R476: a channel opens with new keys; what stood in the staging FIFOs of a channel that was open is discarded. -/
def State.chanSet (s : State) (ch : Nat) (km : Bytes) : State :=
  let ports := ((recsOf s.img.cfg RT.stream).filter (fun r => match streamCfg s.img.cfg r.id with
    | some c => c.channel = ch
    | none => false)).map (fun (r : Rec) => r.id)
  let was := (tget s.rind.chans ch).isSome
  let t : State := { s with rind := { s.rind with chans := tset s.rind.chans ch ⟨slice km 0 32, slice km 32 32, slice km 64 4, slice km 68 4, 0, 0, false⟩ } }
  let u := if was then ports.foldl (fun (v : State) n => (v.setStaging n []).setPlain n []) t else t
  s.streamNotify (ports.foldl (fun (v : State) n => match streamCfg v.img.cfg n with
    | some c => if c.output then v.fillOut n else v
    | none => v) u)

/-- CHAN_OPEN (R475). -/
def execChanOpen (port : Nat) (s : State) : Answer :=
  mboxRow port 5 (fun t b =>
    match t.chanCode b with
    | 0 =>
      let k := t.scalar
      let eph := pubOf k.1
      let nonce := sha384 (b.take 360 ++ eph)
      (match ecdh k.1 (slice b 8 97), k.2.reportChain nonce with
        | some z, some r => (Code.ok, eph ++ zeros 7 ++ r.1, r.2.chanSet (fieldAt b 0 2) (kdf z nonce "QSN8 channel" 72))
        | _, _ => (Code.badSignature, [], t))
    | c => (c, [], t)) s

/-- CHAN_CLOSE (R476). A channel that is not open has no key to check (assumption log 51). -/
def execChanClose (port : Nat) (s : State) : Answer :=
  mboxRow port 6 (fun t b =>
    match tget t.rind.chans (fieldAt b 0 2) with
    | none => (Code.keyUnknown, [], t)
    | some c =>
      if (gcmOpen c.kin (c.sin ++ List.replicate 8 0xFF) (b.take 8) [] (slice b 8 16)).isSome then
        (Code.ok, [], t.streamNotify { t with rind := { t.rind with chans := tdel t.rind.chans (fieldAt b 0 2) } })
      else (Code.badSignature, [], t)) s

/-- CHAN_STATUS (R476): open, next input and next output record number. -/
def execChanStatus (port : Nat) (s : State) : Answer :=
  mboxRow port 7 (fun t b => (Code.ok, match tget t.rind.chans (fieldAt b 0 2) with
    | some c => leBytes 1 1 ++ leBytes 8 c.inNo ++ leBytes 8 c.outNo
    | none => zeros 17, t)) s

/-! ### DEBUG_UNLOCK (R481) -/

/-- R481: the effects in their order: fuse, keys, ports, TEST, JTAG. Far memory, whose keys are gone, is unreadable. -/
def State.debugUnlock (s : State) : State :=
  let t : State := State.fs { s with fuses := { s.fuses with debugEver := true } } R.RIND_STATUS F.RIND_STATUS_debug_ever 1
  let u : State := { t.dropOwner with keys := ⟨none, [], [], [], true⟩, rind := { t.rind with chans := [] }, tiers := { t.tiers with memKeys := none, keyEpoch := t.tiers.keyEpoch + 1 },
                                      far := t.far.filter (fun c => decide (2 ^ 62 ≤ c.1)) }
  let v := (List.range 16).foldl (fun (w : State) p => if 0 < w.spState p && w.spState p < 12 then w.spDown p 0 else w) u
  (if v.mstate = MState.ready then v.setState MState.test else v).fs R.RIND_STATUS F.RIND_STATUS_jtag_open 1

/-- DEBUG_UNLOCK. -/
def execDebugUnlock (port : Nat) (s : State) : Answer :=
  mboxRow port 8 (fun t b =>
    let d := sha384 (b.take 24)
    checked [(slice b 0 16 ≠ t.fuses.serial, Code.keyUnknown), (!ecdsaOk t.store.ownerPub d (slice b 24 96), Code.badSignature),
      (!ecdsaOk t.fuses.debugPub d (slice b 120 96), Code.badSignature)] t t.debugUnlock []) s

/-! ### Firmware update by the host (R488) -/

/-- FW_BEGIN. -/
def execFwBegin (port : Nat) (s : State) : Answer := mboxRow port 9 (fun t b => let r := t.fwOpen 1 (fieldAt b 0 8); (r.1, [], r.2)) s
/-- FW_DATA. -/
def execFwData (port : Nat) (s : State) : Answer := mboxRow port 10 (fun t b => let r := t.fwPiece 1 (fieldAt b 0 8) (b.drop 8); (r.1, [], r.2)) s
/-- FW_END. -/
def execFwEnd (port : Nat) (s : State) : Answer := mboxRow port 11 (fun t _ => let r := t.fwClose 1; (r.1, [], r.2)) s

/-- RIND_CLEAR_COUNTS (R491, R493): by either port. -/
def execRindClearCounts (port : Nat) (s : State) : Answer :=
  occurs (s.hostOn port) s (s.zeroRegs [R.RIND_CNT_REC_BAD, R.RIND_CNT_REC_DUP, R.RIND_CNT_RESYNC, R.RIND_CNT_ATT_FAIL, R.RIND_CNT_KEY_REFUSED, R.RIND_CNT_MBOX_REFUSED])

/-! ### Messages of the fabric manager (R357, R471) -/

/-- R471: a message of kinds 0x0010 to 0x0012 comes from a fabric manager device, under the lease key. -/
def State.fromManager (s : State) (q : Packet) : Bool := q.key = 0 && s.isManager q.src

/-- MGMT: a message of a kind that no other row handles reaches the MGC (R471). -/
def execMgmt (p : Nat) (pkt : Packet) (s : State) : Answer :=
  mgmtRow p pkt (mgmtKind pkt ≠ 1 && !(decide (0x10 ≤ mgmtKind pkt) && decide (mgmtKind pkt ≤ 0x14))) (fun t q => t.rxCount q) s

/-- TEARDOWN_PACKET (R357). -/
def execTeardownPacket (p : Nat) (pkt : Packet) (s : State) : Answer :=
  match (s.takeRx p pkt).bind (fun t => t.toHub p pkt) with
  | none => occurs false s s
  | some t =>
    let r := t.inspect pkt
    occurs (pkt.cls = 0 && pkt.op = FOp.teardown && pkt.dest = s.device) s
      ((if r.1 ≠ Code.ok then r.2.2.dropPkt r.1
        else if r.2.2.fromManager r.2.1 then (r.2.2.teardownKey (fieldAt r.2.1.data 0 2)).rxCount r.2.1
        else r.2.2.count R.FJ_CNT_REFUSED).drainPump)

/-! ### Job keys (R471, R472) -/

/-- Keeps a job key, or the keep key (R456). -/
def State.putKey (s : State) (id : Nat) (k : Bytes) : State :=
  if id = 0xFFFF then { s with keys := { s.keys with keep := some k } } else { s with keys := { s.keys with job := tset s.keys.job id k } }

/-- A key can be kept: one that is held, the keep key, or one of at most 256 job keys (R456). -/
def State.keyRoom (s : State) (id : Nat) : Bool := id = 0 || id = 0xFFFF || (tget s.keys.job id).isSome || decide (s.keys.job.length < 256)

/-- R472: a message that would install one key too many is refused with OUT_OF_RANGE, which is logged. -/
def State.keyFull (s : State) (id : Nat) : State := (s.count R.FJ_CNT_REFUSED).log Code.outOfRange 2 0 (leBytes 2 id)

/-- A message of the MGC under the lease key (R471). -/
def State.sendMgmt (s : State) (dest kind : Nat) (d : Bytes) : State :=
  s.issue ⟨dest, s.device, 0, 0, s.epoch, 0, false, false, false, 0, 0, FOp.mgmt, 0, 0, d.length - 1, 0, 0, kind, d, []⟩ .unit 0

/-- KEY_LEAD (R472): the key is generated where it is not held, and the devices join its list. -/
def State.keyLead (s : State) (q : Packet) : State :=
  let id := fieldAt q.data 0 2
  let devs := (List.range (fieldAt q.data 2 2)).map (fun i => fieldAt q.data (8 + 2 * i) 2)
  if !s.fromManager q || id = 0 then s.count R.FJ_CNT_REFUSED
  else if !s.keyRoom id then s.keyFull id
  else
    let t := if (s.keyOf id).isSome then s else (let r := s.random 32; r.2.putKey id r.1)
    let l := tgetD t.keys.lists id ⟨[], []⟩
    State.rxCount { t with keys := { t.keys with lists := tset t.keys.lists id { l with devs := (l.devs ++ devs).eraseDups } } } q

/-- KEY_LEAD. -/
def execKeyLead (p : Nat) (pkt : Packet) (s : State) : Answer := mgmtRow p pkt (mgmtKind pkt = 0x10) State.keyLead s

/-- R472: a KREQ on the ephemeral key of a fetch. -/
def State.sendKreq (s : State) (id leader eph : Nat) : State :=
  let pub := pubOf (scalarAt eph)
  match s.reportChain (sha384 (leBytes 2 id ++ pub)) with
  | some r => r.2.sendMgmt leader 0x13 (leBytes 2 id ++ zeros 6 ++ pub ++ zeros 7 ++ r.1)
  | none => s

/-- KEY_FETCH (R472): the member asks the leader at once, and every 10 ms after. -/
def State.keyFetch (s : State) (q : Packet) : State :=
  let id := fieldAt q.data 0 2
  let leader := fieldAt q.data 2 2
  if !s.fromManager q || id = 0 then s.count R.FJ_CNT_REFUSED
  else if !s.keyRoom id then s.keyFull id
  else
    let eph := s.randCtr
    let t := s.scalar.2
    State.rxCount (State.sendKreq { t with keys := { t.keys with fetch := tset t.keys.fetch id (leader, eph, t.now, t.now) } } id leader eph) q

/-- KEY_FETCH. -/
def execKeyFetch (p : Nat) (pkt : Packet) (s : State) : Answer := mgmtRow p pkt (mgmtKind pkt = 0x11) State.keyFetch s

/-- KREQ_RETRY (R472): 10 ms after the last KREQ another leaves; 1 s after the first, KEY_UNKNOWN is logged and the member stops. -/
def State.kreqRetry (s : State) (id : Nat) (f : Nat × Nat × Nat × Nat) : State :=
  if f.2.2.1 + 1000000000 ≤ f.2.2.2 + 10000000 then
    let t := s.runTo (f.2.2.1 + 1000000000)
    State.log { t with keys := { t.keys with fetch := tdel t.keys.fetch id } } Code.keyUnknown 2 0 (leBytes 2 id)
  else
    let t := s.runTo (f.2.2.2 + 10000000)
    State.sendKreq { t with keys := { t.keys with fetch := tset t.keys.fetch id (f.1, f.2.1, f.2.2.1, t.now) } } id f.1 f.2.1

/-- KREQ_RETRY. -/
def execKreqRetry (key : Nat) (s : State) : Answer := match tget s.keys.fetch key with
  | some f => .next (s.kreqRetry key f)
  | none => .next s

/-- KEY_DROP (R472): refused with NOT_PERMITTED while an activity that names the key is RUNNING. -/
def State.keyDrop (s : State) (q : Packet) : State :=
  let id := fieldAt q.data 0 2
  if !s.fromManager q then s.count R.FJ_CNT_REFUSED
  else if (actList s.img.cfg).any (fun a => a ≠ 0 && a ≠ 255 && actKey s.img.cfg a = id && s.actState a = 2) then (s.count R.FJ_CNT_REFUSED).log Code.notPermitted 2 0 (leBytes 2 id)
  else
    let k := s.keys
    State.rxCount { s with keys := { k with keep := if id = 0xFFFF then none else k.keep, job := tdel k.job id, lists := tdel k.lists id, fetch := tdel k.fetch id } } q

/-- KEY_DROP. -/
def execKeyDrop (p : Nat) (pkt : Packet) (s : State) : Answer := mgmtRow p pkt (mgmtKind pkt = 0x12) State.keyDrop s

/-- R472: the checks of a partner's report in a key exchange, from its signature on: the code, and its boot count. -/
def State.keyReportCode (s : State) (chain report nonce : Bytes) : Nat × Nat :=
  match s.reportOk chain report nonce with
  | none => (Code.badSignature, 0)
  | some (r, _) =>
    (firstFail [(!bit r.flags 2 || !s.owned || r.owner ≠ slice s.store.ownerId 0 16, Code.keyUnknown), (bit r.flags 1, Code.notPermitted),
      (r.arith ≠ bits s.fuses.capability 48 8, Code.staleVersion)], r.boot)

/-- The report and chain behind an offset of a message (R471): two lengths, then both. -/
def reportIn (d : Bytes) (off : Nat) : Bytes × Bytes :=
  let a := fieldAt d off 4
  (slice d (off + 8) a, slice d (off + 8 + a) (fieldAt d (off + 4) 4))

/-- R472: the first check of a KREQ that fails, and the boot count of the member. -/
def State.kreqCode (s : State) (q : Packet) : Nat × Nat :=
  let d := q.data
  let id := fieldAt d 0 2
  match tget s.keys.lists id with
  | none => (Code.notPermitted, 0)
  | some l =>
    if !l.devs.contains q.src || (s.keyOf id).isNone then (Code.notPermitted, 0)
    else
      let rc := reportIn d 112
      let c := s.keyReportCode rc.2 rc.1 (sha384 (leBytes 2 id ++ slice d 8 97))
      if c.1 ≠ Code.ok then c
      else match tget l.given q.src with
        | some b => if b = c.2 then c else (Code.notPermitted, 0)
        | none => c

/-- R472: KRESP with the key wrapped. -/
def State.krespOk (s : State) (q : Packet) (boot : Nat) : Option State :=
  let d := q.data
  let id := fieldAt d 0 2
  let k := s.scalar
  let eph := pubOf k.1
  let nonce := sha384 (slice d 8 97 ++ eph)
  match ecdh k.1 (slice d 8 97), k.2.reportChain nonce, s.keyOf id with
  | some z, some r, some key =>
    let n := r.2.random 12
    let w := gcmSeal (kdf z nonce "QSN8 job key" 32) n.1 (leBytes 2 id) key 16
    let l := tgetD s.keys.lists id ⟨[], []⟩
    let t : State := { n.2 with keys := { n.2.keys with lists := tset n.2.keys.lists id { l with given := tset l.given q.src boot } } }
    some (t.sendMgmt q.src 0x14 (leBytes 2 id ++ leBytes 1 Code.ok ++ zeros 5 ++ eph ++ zeros 7 ++ n.1 ++ w.1 ++ w.2 ++ r.1))
  | _, _, _ => none

/-- KREQ (R472): checked and answered; a refusal is counted and answered with its code. -/
def State.kreqRx (s : State) (q : Packet) : State :=
  let c := s.kreqCode q
  let no (code : Nat) : State := (s.count R.RIND_CNT_KEY_REFUSED).sendMgmt q.src 0x14 (leBytes 2 (fieldAt q.data 0 2) ++ leBytes 1 code ++ zeros 177)
  (if c.1 ≠ Code.ok then no c.1 else (s.krespOk q c.2).getD (no Code.badSignature)).rxCount q

/-- KREQ. -/
def execKreq (p : Nat) (pkt : Packet) (s : State) : Answer := mgmtRow p pkt (mgmtKind pkt = 0x13) State.kreqRx s

/-- R472: the member ends its fetch with a code, logged where it is not OK. -/
def State.fetchEnds (s : State) (id code : Nat) : State :=
  let t : State := { s with keys := { s.keys with fetch := tdel s.keys.fetch id } }
  if code = Code.ok then t else t.log code 2 0 (leBytes 2 id)

/-- KRESP (R472): the leader's report is checked before the key is installed; a failed unwrap is a failed signature. -/
def State.krespRx (s : State) (q : Packet) : State :=
  let d := q.data
  let id := fieldAt d 0 2
  match tget s.keys.fetch id with
  | none => s.count R.FJ_CNT_REFUSED
  | some f =>
    if f.1 ≠ q.src then s.count R.FJ_CNT_REFUSED
    else if fieldAt d 2 1 ≠ Code.ok then (s.fetchEnds id (fieldAt d 2 1)).rxCount q
    else
      let nonce := sha384 (pubOf (scalarAt f.2.1) ++ slice d 8 97)
      let rc := reportIn d 172
      let c := s.keyReportCode rc.2 rc.1 nonce
      let key := match ecdh (scalarAt f.2.1) (slice d 8 97) with
        | some z => gcmOpen (kdf z nonce "QSN8 job key" 32) (slice d 112 12) (leBytes 2 id) (slice d 124 32) (slice d 156 16)
        | none => none
      (match c.1, key with
        | 0, some k => if s.keyRoom id then (s.putKey id k).fetchEnds id Code.ok else s.fetchEnds id Code.outOfRange
        | 0, none => s.fetchEnds id Code.badSignature
        | e, _ => s.fetchEnds id e).rxCount q

/-- KRESP. -/
def execKresp (p : Nat) (pkt : Packet) (s : State) : Answer := mgmtRow p pkt (mgmtKind pkt = 0x14) State.krespRx s

end Machine
end Sys2Proof
end

