-- ==== Sys2Proof/Machine/Sgu.lean ====
section
/-!
DEFINITION. The signal unit (R107-R112): G.711, the analysis and synthesis of one frame, and the rules of its frames. The G.711 tables are those
of ITU-T G.711 (assumption log 52).
-/
namespace Sys2Proof
namespace Machine

/-! ### G.711 (assumption log 52) -/

/-- µ-law expansion in the 16-bit scale. -/
def ulawExpand (b : Nat) : Int :=
  let t := 255 - b % 256
  let m : Int := ((bits t 0 4 * 8 + 132) * 2 ^ bits t 4 3 : Nat) - 132
  if bit t 7 then -m else m

/-- A-law expansion in the 16-bit scale. -/
def alawExpand (b : Nat) : Int :=
  let t := (b % 256) ^^^ 0x55
  let seg := bits t 4 3
  let m : Nat := if seg = 0 then bits t 0 4 * 16 + 8 else (bits t 0 4 * 16 + 264) * 2 ^ (seg - 1)
  if bit t 7 then m else -(m : Int)

/-- The magnitude that compression uses: the one's complement of a negative value. -/
def compressMag (v : Int) : Nat := if v < 0 then (-v - 1).toNat else v.toNat

/-- µ-law compression of a 16-bit value. -/
def ulawCompress (v : Int) : Nat :=
  let a := min 0x1FFF (compressMag v / 4 + 33)
  let seg := blen (a / 64)
  (7 - seg) * 16 + (15 - a / 2 ^ (seg + 1) % 16) + (if v < 0 then 0 else 128)

/-- A-law compression of a 16-bit value. -/
def alawCompress (v : Int) : Nat :=
  let a := compressMag v / 16
  let r := if a ≤ 15 then a else
    let e := blen (a / 32)
    a / 2 ^ e - 16 + (e + 1) * 16
  (r + (if v < 0 then 0 else 128)) ^^^ 0x55

/-! ### Arithmetic of a frame -/

/-- FP16. -/
def fp16 : Fmt := ⟨16, 5, 10, 15, 11, 1, false, false⟩
/-- BF16. -/
def bf16 : Fmt := ⟨16, 8, 7, 127, 8, 1, false, false⟩

/-- The exact sum of products, without the window of R89 (R109: every sum is exact; DEDUCED; assumption log 56). -/
def dotNum (xs ys : List Num) : Num := (xs.zip ys).foldl (fun a p => addNum a (mulNum p.1 p.2)) (.fin false 0 0)

/-- A BF16 entry of the table record at a byte offset (R108). -/
def sguTab (r : Rec) (off : Nat) : Num := decodeRaw bf16 (r.at off 2)

/-- R109: an input sample as FP16. -/
def sguSample (law raw : Nat) : Nat :=
  let v := if law = 0 then ulawExpand raw else if law = 1 then alawExpand raw else sint 16 raw
  encodeNum fp16 0 (.fin (decide (v < 0)) v.natAbs (-15))

/-- R109: the 320 resampled values of a frame from the 31 samples before it and its 160. -/
def sguResample (r : Rec) (x : List Nat) : List Nat :=
  (List.range 320).map (fun k =>
    let n := k / 2
    let taps := (List.range 32).map (fun t => sguTab r (2 * (2 * t + k % 2)))
    encodeNum fp16 0 (dotNum taps ((List.range 32).map (fun t => decodeRaw fp16 (x.getD (31 + n - t) 0)))))

/-- R109: the power of the 257 lines of a window. -/
def sguPower (r : Rec) (s : List Num) : List Num :=
  (List.range 257).map (fun f =>
    let row (im : Nat) : List Num := (List.range 512).map (fun i => sguTab r (256 + 4 * (512 * f + i) + 2 * im))
    let re := rnd32 0 (dotNum (row 0) s)
    let im := rnd32 0 (dotNum (row 1) s)
    rnd32 0 (addNum (mulNum im im) (rnd32 0 (mulNum re re))))

/-- R109: one mel feature of a window, in FP32. -/
def sguMel (r : Rec) (pw : List Num) (b : Nat) : Num :=
  let a := ((pw.zipIdx)).foldl (fun a p =>
    let w := sguTab r (1048832 + 514 * b + 2 * p.2)
    if w.isZero then a else rnd32 0 (addNum (mulNum w p.1) a)) (.fin false 0 0)
  decodeRaw fp32 (unaryFn 0x0D a)

/-- A list of `n` values ending with the given ones, +0 before them. -/
def lastOf (n : Nat) (l : List Nat) : List Nat := (List.replicate n 0 ++ l).drop l.length

/-- R109: the features of a frame in the channel's format, and the history after it. -/
def sguFeatures (tab : Rec) (bands out : Nat) (hist : SguSlot) (x : List Nat) : List Nat × List Nat × List Nat :=
  let xs := lastOf 31 hist.inp ++ x
  let z := sguResample tab xs
  let zs := lastOf 352 hist.mid ++ z
  let m := (List.range 2).flatMap (fun w =>
    let pw := sguPower tab (((zs.drop (160 * w)).take 512).map (decodeRaw fp16))
    (List.range bands).map (fun b => match outFmt out with
      | some f => encodeNum f 0 (sguMel tab pw b)
      | none => 0))
  (m, lastOf 31 xs, lastOf 352 zs)

/-- R110: one output value: the saturated integer; none where the sum is a NaN, of which the spec states no result. -/
def sguOutValue (y : Num) : Option Int := match y with
  | .nan => none
  | .inf s => some (if s then -32768 else 32767)
  | .fin s m q =>
    let e := q + 15
    let r : Nat := if 0 ≤ e then m * 2 ^ e.toNat else roundBits 0 (m / 2 ^ (-e).toNat) (m % 2 ^ (-e).toNat) (2 ^ ((-e).toNat - 1))
    some (max (-32768) (min 32767 (if s then -(r : Int) else (r : Int))))

/-- R110: one output sample of a law from the sum y. -/
def sguOut (law : Nat) (y : Num) : Option Nat := (sguOutValue y).map (fun v => if law = 0 then ulawCompress v else if law = 1 then alawCompress v else uint 16 v)

/-- R110: the 160 sums of a synthesis frame from the 63 samples before it and its 320. -/
def sguSums (tab : Rec) (us : List Nat) : List Num :=
  (List.range 160).map (fun n => rnd32 0 (dotNum ((List.range 64).map (fun t => sguTab tab (128 + 2 * t))) ((List.range 64).map (fun t => decodeRaw fp16 (us.getD (63 + 2 * n - t) 0)))))

/-! ### Frames (R111) -/

/-- The record of a channel. -/
def State.sguChan (s : State) (c : Nat) : Option Rec := if c < 64 then findRec s.img.cfg RT.signal c else none

/-- R111: the words of an input frame. -/
def sguWords (r : Rec) : Nat := if r.at 0 1 = 1 then 81 else if r.at 1 1 = 2 then 41 else 21

/-- The words that wait at a channel. -/
def State.sguWaiting (s : State) (r : Rec) : List Word := tgetD s.host.sguIn (r.at 2 2) []

/-- The head word of the frame that waits. -/
def State.sguHead (s : State) (r : Rec) : Nat := ((s.sguWaiting r).headD 0).toNat

/-- R111: a frame is bad: its call slot, or its sample count. -/
def State.sguBad (s : State) (r : Rec) : Bool :=
  decide (r.at 4 2 ≤ bits (s.sguHead r) 0 16) || bits (s.sguHead r) 16 16 ≠ (if r.at 0 1 = 1 then 320 else 160)

/-- The frame leaves the words that wait: as many as its channel's layout fixes, a bad one too (DEDUCED; assumption log 57). -/
def State.sguTake (s : State) (r : Rec) : State :=
  let w := (s.sguWaiting r).drop (sguWords r)
  { s with host := { s.host with sguIn := if w.isEmpty then tdel s.host.sguIn (r.at 2 2) else tset s.host.sguIn (r.at 2 2) w } }

/-- R111: the history of the frame's slot, empty at a gap, and whether there is a gap. -/
def State.sguHist (s : State) (c : Nat) (r : Rec) : SguSlot × Bool :=
  let h := s.sguHead r
  match tget s.host.sgu (1024 * c + bits h 0 16) with
  | none => (⟨0, [], []⟩, false)
  | some x => if bits h 32 32 = (x.last + 1) % 2 ^ 32 then (x, false) else (⟨0, [], []⟩, true)

/-- The raw samples of the frame that waits, `b` bits each. -/
def State.sguRaw (s : State) (r : Rec) (b n : Nat) : List Nat :=
  let x := leNat (bytesOf (((s.sguWaiting r).take (sguWords r)).drop 1))
  (List.range n).map (fun i => bits x (i * b) b)

/-- A frame is complete: counted, its gap too, and its slot keeps the new history. -/
def State.sguDone (s : State) (c slot : Nat) (gap : Bool) (x : SguSlot) : State :=
  let t := (s.fsat (R.SGU_CH c) F.SGU_CH_frames 1).pmc 61 0x0E0 1 ⟨some 0x34, some 1, none, none, none⟩
  let u := if gap then t.fsat (R.SGU_CH c) F.SGU_CH_gaps 1 else t
  { u with host := { u.host with sgu := tset u.host.sgu (1024 * c + slot) x } }

/-- A bad frame is dropped whole. -/
def State.sguDrop (s : State) (c : Nat) (r : Rec) : State := (s.sguTake r).fsat (R.SGU_CH c) F.SGU_CH_dropped 1

/-- The feature frame of R111. -/
def featureFrame (head bands out : Nat) (m : List Nat) : Bytes :=
  leBytes 2 head ++ leBytes 2 bands ++ leBytes 4 (head / 2 ^ 32) ++ zeros 56 ++ padTo 64 (packRaw (outBits out) m)

/-- R111, R195, R258: a feature frame crosses the hub link of its core's die by quarter-port 0, charged as crossbar flits to the activity of the channel's port. -/
def State.sguCharges (s : State) (r : Rec) : Nat × List (Nat × Nat × Nat) := match streamCfg s.img.cfg (r.at 2 2), ringCfg s.img.cfg (16 * r.at 8 1 + r.at 9 1) with
  | some p, some _ => (p.act, [(4, xOut (4 * (r.at 8 1 / 4)), cdiv (64 + (2 * r.at 6 1 * outBits (r.at 7 1) + 511) / 512 * 64) 64)])
  | _, _ => (0, [])

/-- R190, R263: the link of a feature frame sends, and the budget covers it. -/
def State.sguCrosses (s : State) (r : Rec) : Bool :=
  let c := s.sguCharges r
  s.coversAll c.1 c.2 && c.2.all (fun x => s.outSends (x.2.1 / 2) x.2.2)

/-- R109, R111: one analysis frame fills the next slot of its ring. -/
def State.sguAnalyse (s : State) (c : Nat) (r tab : Rec) : State :=
  let h := s.sguHead r
  let k := s.sguHist c r
  let x := (s.sguRaw r (if r.at 1 1 = 2 then 16 else 8) 160).map (sguSample (r.at 1 1))
  let f := sguFeatures tab (r.at 6 1) (r.at 7 1) k.1 x
  let id := 16 * r.at 8 1 + r.at 9 1
  let p := s.sguCharges r
  let t := ((s.chargeAll p.1 p.2).sguTake r).sguDone c (bits h 0 16) k.2 ⟨bits h 32 32, f.2.1, f.2.2⟩
  let t := p.2.foldl (fun (u : State) x => u.linkSend (hubEnd (x.2.1 / 8)) (cdiv x.2.2 4)) t
  match ringCfg s.img.cfg id with
  | some g => (t.sramWrite (r.at 8 1) (g.base + (t.ring id).fill * g.size) (featureFrame h (r.at 6 1) (r.at 7 1) f.1)).ringFill id
  | none => t

/-- R110, R111: one synthesis frame goes to the output port; a value of which the spec states no result is a free value (assumption log 3). -/
def State.sguSynth (s : State) (c : Nat) (r tab : Rec) : State :=
  let h := s.sguHead r
  let k := s.sguHist c r
  let us := lastOf 63 k.1.inp ++ s.sguRaw r 16 320
  let b := if r.at 1 1 = 2 then 16 else 8
  let t := (s.sguTake r).sguDone c (bits h 0 16) k.2 ⟨bits h 32 32, lastOf 63 us, []⟩
  let v := t.fillFree ((sguSums tab us).map (sguOut (r.at 1 1)))
  let head : Word := BitVec.ofNat 64 (bits h 0 16 + 160 * 2 ^ 16 + bits h 32 32 * 2 ^ 32)
  v.2.putOut (r.at 2 2) (match streamCfg s.img.cfg (r.at 2 2) with
    | some g => g.channel
    | none => 0) (head :: wordsOf (packRaw b v.1))

/-- R111: a whole frame waits at a channel and nothing holds the SGU. -/
def State.sguReady (s : State) (c : Nat) : Bool := match s.sguChan c with
  | some r => s.sguPresent && s.pause.isNone && decide (sguWords r ≤ (s.sguWaiting r).length) && (findRec s.img.cfg RT.signal 64).isSome
  | none => false

/-- R111: what a good frame waits for: a free slot of its ring and its way there, or room in the port's output FIFO, whose secure channel is open (R477). -/
def State.sguRoom (s : State) (r : Rec) : Bool :=
  if r.at 0 1 = 1 then
    (s.plain (r.at 2 2)).isEmpty && decide ((s.staging (r.at 2 2)).length < stagingRoom) && (match streamCfg s.img.cfg (r.at 2 2) with
      | some p => s.chanOpen p.channel
      | none => true)
  else s.ringFree (16 * r.at 8 1 + r.at 9 1) && s.dieUp (r.at 8 1 / 4) && s.sguCrosses r

/-- R111: the frame that waits at a channel can be handled now. -/
def State.sguCan (s : State) (c : Nat) : Bool := match s.sguChan c with
  | some r => s.sguReady c && (s.sguBad r || s.sguRoom r)
  | none => false

/-- R111: channels with frames waiting are served in round-robin: none that comes sooner after the one served last can be handled. -/
def State.sguTurn (s : State) (c : Nat) : Bool :=
  let after (d : Nat) : Nat := (d + 63 - s.host.sguLast) % 64
  s.sguCan c && (List.range 64).all (fun d => !s.sguCan d || decide (after c ≤ after d))

/-- The SGU serves a channel. -/
def State.sguServed (s : State) (c : Nat) : State := { s with host := { s.host with sguLast := c } }

/-- The channel's record and the table record. -/
def State.sguRecs (s : State) (c : Nat) : Rec × Rec := ((s.sguChan c).getD ⟨0, 0, []⟩, (findRec s.img.cfg RT.signal 64).getD ⟨0, 0, []⟩)

/-- SGU_ANALYSIS_FRAME (R109, R111): a good frame waits for a free slot of its ring. -/
def execSguAnalysisFrame (chan : Nat) (s : State) : Answer :=
  let r := s.sguRecs chan
  occurs (r.1.at 0 1 = 0 && s.sguTurn chan) s
    (State.streamNotify s ((if s.sguBad r.1 then s.sguDrop chan r.1 else s.sguAnalyse chan r.1 r.2).sguServed chan))

/-- SGU_SYNTHESIS_FRAME (R110, R111): a good frame waits while the port's FIFO is full. -/
def execSguSynthesisFrame (chan : Nat) (s : State) : Answer :=
  let r := s.sguRecs chan
  occurs (r.1.at 0 1 = 1 && s.sguTurn chan) s
    (State.streamNotify s ((if s.sguBad r.1 then s.sguDrop chan r.1 else s.sguSynth chan r.1 r.2).sguServed chan))

/-- SGU_CLEAR_COUNTS (R112). -/
def State.sguClear (s : State) : State :=
  (List.range 64).foldl (fun (t : State) c => ((t.fs (R.SGU_CH c) F.SGU_CH_frames 0).fs (R.SGU_CH c) F.SGU_CH_dropped 0).fs (R.SGU_CH c) F.SGU_CH_gaps 0) s

/-- SGU_CLEAR_COUNTS: of the holder's port only. -/
def execSguClearCounts (port : Nat) (s : State) : Answer := occurs (s.hostOn port && port = s.tokenPort && s.sguPresent) s s.sguClear

end Machine
end Sys2Proof
end

