-- ==== Sys2Proof/Machine/Regs.lean ====
section
/-!
DEFINITION. Host accesses to BAR0 (R8, R9, R14, R15, R281, R282): writes by the access codes, the bits whose writing is a row of its own, and what
registers read as that are computed from elsewhere in the state.
-/
namespace Sys2Proof


namespace Machine

/-! ### Access codes (R14, R15) -/

/-- The bits of a field. -/
def Fld.mask (f : Fld) : Nat := (2 ^ f.w - 1) * 2 ^ f.lo

/-- One field under a write of the bits `m` with data `d`. `fixed` says that RWL fields no longer change. -/
def mergeField (fixed : Bool) (m d old : Nat) (f : FldRow) : Nat :=
  let e := f.fld.mask &&& m
  let put := old - (old &&& e) + (d &&& e)
  match f.acc with
  | .rw => put
  | .rwl => if fixed then old else put
  | .w1c => old - (old &&& (d &&& e))
  | _ => old

/-- A register's word after a write of the bits `m`. -/
def mergeFields (fixed : Bool) (fields : List FldRow) (m d old : Nat) : Nat := fields.foldl (mergeField fixed m d) old

/-- A write to a register by the access codes of its fields; offsets not listed ignore it (R281). -/
def State.regMerge (s : State) (key m d : Nat) : State := match rowAt key with
  | some r =>
    let old := (s.rd key).toNat
    let new := mergeFields s.img.recs.isSome r.fields m d old
    if new = old then s else s.wr key (BitVec.ofNat 64 new)
  | none => s

/-! ### Where an access may go -/

/-- The end of BAR0 (R281). -/
def barEnd : Nat := 0x4000000

/-- R8, R10: the offset lies in the block of a unit that is absent. -/
def State.absentAt (s : State) (off : Nat) : Bool :=
  let pmc := (off - 0xD0000) / 0x100
  (!s.eruPresent && decide (0x608000 ≤ off) && decide (off < 0x800000))
  || (decide (0x1001000 ≤ off) && decide (off < 0x1007000) && !s.stackPresent ((off - 0x1001000) / 0x400))
  || (!s.sguPresent && decide (0x1800000 ≤ off) && decide (off < 0x1C00000))
  || (decide (0xD0000 ≤ off) && decide (off < 0xD6800) && ((pmc = 60 && !s.eruPresent) || (pmc = 61 && !s.sguPresent) || (decide (62 ≤ pmc) && decide (pmc < 86) && !s.stackPresent (pmc - 62))))

/-- A block whose registers only the holder of the token may write (R112, R325, R371, R406, R451, R519, R547). -/
def holderBlock (off : Nat) : Bool :=
  (decide (0x6000 ≤ off) && decide (off < 0x7000)) || (decide (0xC0000 ≤ off) && decide (off < 0x110000)) || (decide (0x200000 ≤ off) && decide (off < 0x800000))
  || (decide (0x1800000 ≤ off) && decide (off < 0x1C00000))

/-- R282, R228: a port may write at an offset. -/
def State.mayWrite (s : State) (port off : Nat) : Bool :=
  if decide (0x20000 ≤ off) && decide (off < 0x40000) then (off - 0x20000) / 0x10000 = port
  else if (decide (0x40000 ≤ off) && decide (off < 0x80000)) || holderBlock off then port = s.tokenPort
  else true

/-- The key of a register that is banked by port (R282, R491). -/
def bankedKey (port off : Nat) : Nat :=
  if (decide (0x1C00000 ≤ off) && decide (off < 0x1C01000)) || off = 0x10018 || off = 0x10020 then off + 2 ^ 27 * port else off

/-- R282: an access that BAR0 does not accept. -/
def badAccess (off size : Nat) : Bool := !((size = 4 || size = 8) && off % size = 0)

/-! ### Bits and words whose writing is a row of its own -/

/-- The state a command leads to. -/
def stateAfter (a : Answer) (s : State) : State := match a with
  | .next t => t
  | _ => s

/-- A meaning applied where a written bit is set. -/
def State.onBit (s : State) (m d bitNo : Nat) (f : State → Answer) : State := if bit (m &&& d) bitNo then stateAfter (f s) s else s

/-- R291, R292: a push by its opcode. -/
def State.pushOp (s : State) (port v : Nat) : State :=
  let op := bits v 0 8
  let tag := bits v 8 16
  let f : State → Answer := match op with
    | 0x00 => execCmdNop port tag
    | 0x01 => execStart port tag
    | 0x02 => execStop port tag
    | 0x03 => execTeardown port tag
    | 0x04 => execApply port tag
    | 0x05 => execSnapshotNow port tag
    | 0x06 => execDieReset port tag
    | 0x07 => execModuleReset port tag
    | 0x08 => execTestEnter port tag
    | 0x09 => execDumpOpen port tag
    | 0x0A => execTokenNonce port tag
    | 0x0B => execTokenClaim port tag
    | _ => execCmdUnknownOpcode port op tag
  stateAfter (f s) s

/-- Global block and image port (R216, R228, R247, R548). -/
def State.hookGlobal (s : State) (port off m d : Nat) : State :=
  if 0x2000 ≤ off ∧ off < 0x2040 then s.onBit m d 22 (execClkClearLow port ((off - 0x2000) / 8))
  else if off = R.PIN_CTL then s.onBit m d 0 (execPinClearCounts port)
  else if off = 0x10018 then
    let t := s.onBit m d 0 (execMboxBegin port)
    let u := if bit (m &&& d) 0 then t else t.onBit m d 1 (execMboxCommit port)
    (u.onBit m d 2 (execMboxAbort port)).onBit m d 3 (execRindClearCounts port)
  else if off = R.IMG_CTL then
    let t := s.onBit m d 0 (execImgBegin port (s.fg R.IMG_CTL F.IMG_CTL_kind))
    let u := if bit (m &&& d) 0 then t else t.onBit m d 2 (execImgCommit port)
    u.onBit m d 3 (execImgAbort port)
  else if off = R.BUD_CTL then s.onBit m d 0 (execBudClearCounts port)
  else s

/-- R300: a vector whose mask is cleared while it is pending sends its message. -/
def State.unmask (s : State) (port v : Nat) : State :=
  let k := R.HP_MSIX_PBA port
  if bit (s.rd k).toNat v && !s.msixMasked port v then (s.wr k (BitVec.ofNat 64 (setBits (s.rd k).toNat v 1 0))).msixNow port v else s

/-- HPx block (R291, R300, R301). A write that reaches no bit of the opcode in HPx_CMD_PUSH starts no command (DESIGN CHOICE; assumption log 150). -/
def State.hookHost (s : State) (port off m d : Nat) : State :=
  let o := (off - 0x20000) % 0x10000
  if o = 0 then (if m % 2 ^ 24 ≠ 0 then s.pushOp port (m &&& d) else s)
  else if 0x1000 ≤ o ∧ o < 0x1400 then s.unmask port ((o - 0x1000) / 16)
  else if 0x8000 ≤ o then s.onBit m d 63 (execStreamClearDropped port ((o - 0x8000) / 8))
  else s

/-- Management block (R505, R507, R509, R520). -/
def State.hookMgmt (s : State) (port off m d : Nat) : State :=
  if off = R.MGT_CTL then (s.onBit m d 0 (execAlertRearm port)).onBit m d 1 (execMgtClearCounts port)
  else if off = R.TRIP_ACK then stateAfter (execTripAck port (m &&& d) s) s
  else if off = R.EVT_IDX then
    (if (s.store.log.any (fun e => e.seq = (s.rd R.EVT_IDX).toNat)) then s else s.raise R.EVT_STATUS F.EVT_STATUS_miss)
  else s

/-- Selvage ports, Fjarux, CLE, KPU and ERU (R326, R372, R407, R409, R452, R455). -/
def State.hookFabric (s : State) (port off m d : Nat) : State :=
  if 0x100000 ≤ off ∧ off < 0x110000 then
    let p := (off - 0x100000) / 0x1000
    if off % 0x1000 = 0 then
      (((s.onBit m d 29 (execSpRestore port p)).onBit m d 30 (execSpReenable port p)).onBit m d 31 (execSpClearCounts port p)).onBit m d 32
        (execSpTestFail port p (s.fg (R.SP_CTL p) F.SP_CTL_test_lane))
    else s
  else if off = R.FJ_CTL then s.onBit m d 0 (execFjClearCounts port)
  else if off = R.CLE_CTL then (s.onBit m d 0 (execCleClearCounts port)).onBit m d 1 (execCleInjectResidue port)
  else if off = R.CLE_ERR then (if bit (m &&& d) 14 then s.fs R.CLE_ERR F.CLE_ERR_code 0 else s)
  else if off = R.KPU_CTL then (s.onBit m d 0 (execKpuClearCounts port)).onBit m d 2 (execKpuFullNext port)
  else if off = R.ERU_CTL then s.onBit m d 0 (execEruClearCounts port)
  else s

/-- R135: a context that test_hold comes to hold while a pause is asked for is parked with it. -/
def State.holdParks (s : State) (core : Nat) : State :=
  (List.range 4).foldl (fun (t : State) k =>
    let x := 4 * core + k
    if t.pauseAsked core && t.testHeld x && (t.ctxState x = 1 || t.ctxState x = 2) then t.setCtx x 3 else t) s

/-- Compute dies (R71, R75, R79, R147, R183, R213). -/
def State.hookDie (s : State) (port off m d : Nat) : State :=
  let die := (off - 0x800000) / 0x100000
  let o := off % 0x100000
  if o < 0x80000 then
    let core := 4 * die + o / 0x20000
    let x := o % 0x20000
    if x = 0 then ((s.onBit m d 4 (execSeqTestStep port core)).onBit m d 5 (execSeqClearStall port core)).holdParks core
    else if x = 0x18000 then (s.onBit m d 2 (execArrCanaryNow port core)).onBit m d 3 (execArrClearCounts port core)
    else if x = 0x18028 then
      (if bit (m &&& d) 12 then
        (((s.fs off F.ARR_ERR_STATUS_code 0).fs off F.ARR_ERR_STATUS_cause 0).fs off F.ARR_ERR_STATUS_retried 0).fs off F.ARR_ERR_STATUS_failed 0 else s)
    else if x = 0x18090 then
      s.onBit m d 0 (execArrInjectArm port core (s.fg off F.ARR_INJECT_bit) (s.fg off F.ARR_INJECT_column))
    else s
  else if o < 0x80400 ∧ o % 0x100 = 0 then s.onBit m d 0 (execMemClearCounts port (4 * die + (o - 0x80000) / 0x100))
  else if o = 0x90008 then
    ((s.onBit m d 16 (execDlRestore port die)).onBit m d 17 (execDlClearCounts port die)).onBit m d 18
      (execDlTestFail port die (s.fg off F.DL_CTL_test_link) (s.fg off F.DL_CTL_test_lane))
  else s

/-- Far memory, SGU and the memory access port (R112, R184, R302). -/
def State.hookHigh (s : State) (port off m d : Nat) : State :=
  if off = R.FMC_CTL then s.onBit m d 20 (execFmcClearCounts port)
  else if 0x1001000 ≤ off ∧ off < 0x1007000 ∧ off % 0x400 = 0 then s.onBit m d 34 (execClearRetire port ((off - 0x1001000) / 0x400))
  else if off = R.FMC_MARGIN_CTL then s.onBit m d 0 (execMarginStart port)
  else if off = R.SGU_CTL then s.onBit m d 0 (execSguClearCounts port)
  else if off = 0x1C00010 then (if bit (m &&& d) 8 then s.fs (R.MAP_STATUS port) F.MAP_STATUS_denied 0 else s)
  else s

/-- What a write sets off beside the fields it changes. -/
def State.hooks (s : State) (port off m d : Nat) : State :=
  if off < 0x20000 then s.hookGlobal port off m d
  else if off < 0x40000 then s.hookHost port off m d
  else if off < 0xC0000 then s.hookGlobal port off m d
  else if off < 0x100000 then s.hookMgmt port off m d
  else if off < 0x800000 then s.hookFabric port off m d
  else if off < 0x1000000 then s.hookDie port off m d
  else s.hookHigh port off m d

/-- R71, R79, R147: bits whose writing is ignored outside TEST. -/
def State.testMask (s : State) (off m : Nat) : Nat :=
  if s.inTest || off < 0x800000 || 0x1000000 ≤ off || 0x80000 ≤ off % 0x100000 then m
  else
    let x := off % 0x20000
    if x = 0 then m - (m &&& 0x1F) else if x = 0x18000 then m - (m &&& 0x10) else if x = 0x18090 then 0 else m

/-- REGISTER_WRITE (R14, R15, R228, R281, R282): a write of 4 or 8 bytes. Writes of windows and of PWR_CAP are their own rows' effects; a new copy_share holds from its write on (R176).
A 4-byte write in the MAP_DATA window moves no word and leaves MAP_STATUS (DESIGN CHOICE; assumption log 151). -/
def State.regWrite (s : State) (port addr size data : Nat) : State :=
  let off := addr / 8 * 8
  let sh := addr % 8 * 8
  let m := (2 ^ (8 * size) - 1) * 2 ^ sh
  let d := data % 2 ^ (8 * size) * 2 ^ sh
  let words : List Word := if size = 8 then [BitVec.ofNat 64 data] else []
  if s.absentAt off then s.raise R.GLB_STATUS F.GLB_STATUS_absent_access
  else if !s.mayWrite port off then (if 0x40000 ≤ off ∧ off < 0x80000 then s.raise R.IMG_STATUS F.IMG_STATUS_foreign else s)
  else if 0x41000 ≤ off ∧ off < 0x42000 then stateAfter (execImgDataWrite port size words s) s
  else if 0x18000 ≤ off ∧ off < 0x1C000 then stateAfter (execMboxInWrite port size words s) s
  else if 0x1C01000 ≤ off ∧ off < 0x1C02000 then (if size = 8 then stateAfter (execMapDataWrite port (BitVec.ofNat 64 data) s) s else s)
  else if off = R.PWR_CAP then (if sh = 0 then stateAfter (execPwrCapWrite port (data % 2 ^ 12) s) s else s)
  else
    let k := s.testMask off m
    let t := if off = R.FMC_CTL then s.copyRebase else s
    (t.regMerge (bankedKey port off) k d).hooks port off k d

/-- REGISTER_WRITE. -/
def execRegisterWrite (port addr size data : Nat) (s : State) : Answer :=
  occurs (s.hostOn port && decide (addr < barEnd) && !badAccess addr size) s (s.regWrite port addr size data)

/-- ABSENT_UNIT_ACCESS (R8, R9): a read returns zero, a write is ignored, the access is flagged. -/
def execAbsentUnitAccess (port addr : Nat) (write : Bool) (s : State) : Answer :=
  let t := s.raise R.GLB_STATUS F.GLB_STATUS_absent_access
  occurs (s.hostOn port && decide (addr < barEnd) && s.absentAt addr) s (if write then t else t.emit (.readData port [0]))

/-- BAR0_BAD_ACCESS (R282): Unsupported Request; a write is dropped, a read returns no data. -/
def execBar0BadAccess (port addr size : Nat) (_write : Bool) (s : State) : Answer :=
  occurs (s.hostOn port && decide (addr < barEnd) && badAccess addr size) s (s.refuseTlp port)

/-! ### Registers that are computed when they are read -/

/-- R74: ARR_SKEW_DATA of a core for its selected entry. -/
def State.skewData (s : State) (d c : Nat) : Nat :=
  let r := (s.rd (R.ARR_REPAIR d c)).toNat
  let row (i : Nat) : Option Nat := if bit r (9 * i) then some (bits r (9 * i + 1) 8) else none
  let e := s.fg (R.ARR_SKEW_IDX d c) F.ARR_SKEW_IDX_entry
  if 256 < e then 0
  else if e = 256 then 2 - b2n (row 0).isSome - b2n (row 1).isSome
  else
    let on0 := row 0 = some e
    let on1 := row 1 = some e
    skewDelay (row 0) (row 1) e + e * 2 ^ 9 + b2n (on0 || on1) * 2 ^ 17 + b2n (!on0 && on1) * 2 ^ 18

/-- R521: THM_DATA for the selected sensor. -/
def State.thmData (s : State) : Nat :=
  let i := s.fg R.THM_IDX F.THM_IDX_sensor
  if 420 ≤ i || !s.sensorPresent i || !s.measures then 0
  else
    let t16 (v : Int) : Nat := uint 16 v
    t16 (s.rawTemp i) + t16 (s.filtTemp i) * 2 ^ 16 + b2n ((s.sensor i).cause ≠ 0) * 2 ^ 32 + (s.sensor i).cause % 4 * 2 ^ 33 + b2n (s.reaches i (s.hotLimit i)) * 2 ^ 35
      + s.hotLimit i % 2 ^ 8 * 2 ^ 36 + (tripLimit i).getD 0 % 2 ^ 8 * 2 ^ 44 + 2 ^ 52

/-- R522: TRIP_STATUS. -/
def State.tripStatus (s : State) : Nat :=
  let st := (s.rd R.TRIP_STATUS).toNat
  let sq := if s.store.tripPending then (s.store.trips.getLast?.map (fun r => r.1)).getD 0 else 0
  sq % 2 ^ 48 + b2n s.store.tripPending * 2 ^ 48 + bits st 49 2 * 2 ^ 49 + min 15 s.store.trips.length * 2 ^ 51

/-- R509: the bytes of the selected log entry; zero when it is not held. -/
def State.evtData (s : State) (i : Nat) : Nat := match s.store.log.find? (fun e => e.seq = (s.rd R.EVT_IDX).toNat) with
  | some e => fieldAt (leBytes 8 e.seq ++ leBytes 8 e.time ++ leBytes 1 e.code ++ leBytes 1 e.severity ++ leBytes 2 e.source ++ leBytes 2 e.rep ++ e.detail) (8 * i) 8
  | none => 0

/-- R511, R515: an event belongs to a counter unit. -/
def pmcBelongs (u ev : Nat) : Bool :=
  ev = 0
  || (decide (u < 32) && decide (ev ≤ 0x00A)) || (decide (32 ≤ u) && decide (u < 40) && (ev = 0x020 || ev = 0x021)) || (u = 40 && decide (0x040 ≤ ev) && decide (ev ≤ 0x042))
  || (decide (41 ≤ u) && decide (u < 57) && decide (0x060 ≤ ev) && decide (ev ≤ 0x064)) || (u = 57 && decide (0x080 ≤ ev) && decide (ev ≤ 0x084))
  || (u = 58 && (ev = 0x0A0 || ev = 0x0A1)) || (u = 59 && (ev = 0x0C0 || ev = 0x0C1)) || (u = 60 && ev = 0x0D0) || (u = 61 && ev = 0x0E0)
  || (decide (62 ≤ u) && decide (u < 86) && decide (0x100 ≤ ev) && decide (ev ≤ 0x104)) || (decide (86 ≤ u) && decide (u < 102) && (ev = 0x120 || ev = 0x121))
  || (decide (102 ≤ u) && decide (u < 104) && decide (0x140 ≤ ev) && decide (ev ≤ 0x142))

/-- R511: PMC_STATUS of a unit. -/
def State.pmcStatus (s : State) (u : Nat) : Nat :=
  let on := indices 8 (fun i => s.fg (R.PMC_CTL u i) F.PMC_CTL_mode ≠ 0)
  let off := on.any (fun i => s.fg (R.PMC_CTL u i) F.PMC_CTL_mode = 1) && !(decide (MState.configured ≤ s.mstate) && decide (s.mstate ≤ MState.held))
  s.fg (R.PMC_STATUS u) F.PMC_STATUS_ovf + b2n off * 2 ^ 8 + maskOf (on.filter (fun i => !pmcBelongs u (s.fg (R.PMC_CTL u i) F.PMC_CTL_event))) * 2 ^ 16

/-- Registers computed on reading; none for a register that `regs` holds. No optical reading exists (0x8000, R329) for a source of an OFF port only (DESIGN CHOICE;
assumption log 152). FJ_EPOCH.marked is as the ports are now (R376). -/
def State.derived (s : State) (port off : Nat) : Option Nat :=
  if off = R.GLB_ID then some ((s.rd off).toNat % 2 ^ 24 + port % 2 * 2 ^ 24)
  else if off = R.TIME_NOW then some s.rackRead
  else if off = R.BUD_DATA0 then some (s.budData 0)
  else if off = R.BUD_DATA1 then some (s.budData 1)
  else if off = R.BUD_DATA2 then some (s.budData 2)
  else if off = R.THM_DATA then some s.thmData
  else if off = R.TRIP_STATUS then some s.tripStatus
  else if off = R.EVT_FIRST then some ((s.store.log.head?.map (fun e => e.seq)).getD s.store.logNext)
  else if off = R.EVT_NEXT then some s.store.logNext
  else if R.EVT_DATA 0 ≤ off ∧ off < R.EVT_DATA 4 then some (s.evtData ((off - R.EVT_DATA 0) / 8))
  else if 0xD0000 ≤ off ∧ off < 0xD6800 ∧ off % 0x100 = 0x90 then some (s.pmcStatus ((off - 0xD0000) / 0x100))
  else if (0x28000 ≤ off ∧ off < 0x30000) ∨ (0x38000 ≤ off ∧ off < 0x40000) then some (s.streamStatus ((off % 0x10000 - 0x8000) / 8))
  else if 0x100000 ≤ off ∧ off < 0x110000 ∧ off % 0x1000 = 0x40 then
    let p := (off - 0x100000) / 0x1000
    let i := (s.rd (R.SP_POWER_IDX p)).toNat % 32
    some (if s.spState p = 0 ∧ i < 16 then 0x8000 else Config.opticPower p i (s.now / 100000) % 2 ^ 16)
  else if 0x800000 ≤ off ∧ off < 0x1000000 ∧ off % 0x100000 < 0x80000 ∧ off % 0x20000 = 0x18020 then
    some (s.skewData ((off - 0x800000) / 0x100000) (off % 0x100000 / 0x20000))
  else if 0x800000 ≤ off ∧ off < 0x1000000 ∧ off % 0x100000 < 0x80000 ∧ off % 0x20000 = 0x18090 ∧ !s.inTest then some 0
  else if 0x1000108 ≤ off ∧ off < 0x1000200 ∧ off % 16 = 8 then some 0
  else if 0x1001000 ≤ off ∧ off < 0x1007000 ∧ off % 0x400 = 0 then
    let k := (off - 0x1001000) / 0x400
    if s.fg off F.FMC_STK_STATUS_retire_state = 2 then
      some (setBits (s.rd off).toNat F.FMC_STK_STATUS_copy_rows.lo F.FMC_STK_STATUS_copy_rows.w (s.copyDue k)) else none
  else if 0x890000 ≤ off ∧ off < 0x1090000 ∧ off % 0x100000 = 0x90000 ∧ s.fg off F.DIE_STATUS_state = 3 ∧ s.now < s.resetOver ((off - 0x890000) / 0x100000) then
    some ((s.rd off).toNat - 1)
  else if off = R.FJ_EPOCH then some (setBits (s.rd off).toNat F.FJ_EPOCH_marked.lo F.FJ_EPOCH_marked.w (maskOf (indices 16 s.marked)))
  else if off = R.SGU_STATUS then some ((s.rd off).toNat % 2 ^ 8 + b2n s.pause.isSome * 2 ^ 8)
  else none

/-- What a register at an offset reads as through a port (R8, R14, R281): RS fields and absent blocks read zero; with the module held in reset the link
bits of GLB_STATUS read their reset value too (R533). -/
def State.readReg (s : State) (port off : Nat) : Nat :=
  if s.absentAt off then 0
  else if s.power = 3 ∧ off = R.GLB_STATUS then (s.rd off).toNat - bits (s.rd off).toNat 2 2 * 4
  else match s.derived port off with
    | some v => v
    | none => (s.rd (bankedKey port off)).toNat

end Machine
end Sys2Proof
end

