-- ==== Sys2Proof/Machine/Hauno.lean ====
section
/-!
DEFINITION. The Hauno cores' accesses (R483-R486): their spaces, ranges and local registers, the counter copy (R514), HLC_SIG and the timer.
-/
namespace Sys2Proof
namespace Machine

/-- The HAUNO record of a core that runs the owner's environment: enabled, on a module with power whose environment was accepted (R3, R482 step 5, R484). -/
def State.haunoRec (s : State) (h : Nat) : Option Rec :=
  if s.power = 0 && s.mgt.haunoUp && decide (MState.configured ≤ s.mstate) && decide (s.mstate ≤ MState.test) then
    match findRec s.img.cfg RT.hauno h with
    | some r => if h < 16 && bit (r.at 0 1) 0 then some r else none
    | none => none
  else none

/-- R483: the access-fault exception: nothing is read or written. -/
def State.haunoFault (s : State) (h : Nat) : State := s.emit (.haunoFault h)

/-- R484: one range entry covers `n` bytes of a space with a right (0 read, 1 write). -/
def rangeCovers (r : Rec) (i space unit off n right : Nat) : Bool :=
  r.at (8 + 24 * i) 1 = space && bit (r.at (9 + 24 * i) 1) right && (space = 3 || r.at (10 + 24 * i) 1 = unit)
  && decide (r.at (16 + 24 * i) 8 ≤ off) && decide (off + n ≤ r.at (16 + 24 * i) 8 + r.at (24 + 24 * i) 8)

/-- R484: the ranges grant an access to a target. -/
def haunoAllows (r : Rec) (t : Target) (n right : Nat) : Bool :=
  (List.range (r.at 2 2)).any (fun i => match t with
    | .far d off => rangeCovers r i 0 d off n right
    | .bond c off => rangeCovers r i 1 c off n right
    | .sram c off => rangeCovers r i 2 c off n right
    | .stream p => right = 1 && rangeCovers r i 3 0 p 1 1
    | _ => false)

/-- The input port of a store to a stream port, if the core's activity is bound to it. -/
def State.haunoPort (s : State) (r : Rec) (t : Target) : Bool := match t with
  | .stream n => match streamCfg s.img.cfg n with
    | some c => !c.output && c.act = r.at 1 1
    | none => false
  | _ => true

/-- R483, R484: an access to spaces 0x0-0x3 raises the access fault. -/
def State.haunoBad (s : State) (r : Rec) (t : Target) (n : Nat) (write : Bool) : Bool :=
  !haunoAllows r t n (b2n write) || s.targetOut t n || s.targetDead t || !s.haunoPort r t || (match t with
    | .far d _ => s.isKeepDom d
    | _ => false)

/-- R484, R258, R195: the crossbar flits of an access by a hub unit to `n` bytes of a target: out of the switch to the target's die for a write, in from it for a read. -/
def State.unitFlits (s : State) (t : Target) (n : Nat) (write : Bool) : List (Nat × Nat × Nat) :=
  let at_ (d i : Nat) : List (Nat × Nat × Nat) := [(4, if write then xOut (4 * d + i) else xIn (4 * d + i), cdiv n 64)]
  match t with
  | .far i off => if s.fg (R.FMC_DOM_CFG i) F.FMC_DOM_CFG_kind = 0 then at_ (s.fg (R.FMC_DOM_CFG i) F.FMC_DOM_CFG_die) 0 else at_ ((s.domMap i off).1 / 3) (off / 256 % 4)
  | .bond c _ => at_ (c / 4) 0
  | .sram c _ => at_ (c / 4) 0
  | _ => []

/-- R484, R486, R139, R190, R263, R437: an access to spaces 0x0-0x3 waits: for the end of a pause, a gate, its hub link, an MMA on the accumulator banks, deltas, credit of a
stream port. -/
def State.haunoWaits (s : State) (r : Rec) (t : Target) (n : Nat) (write : Bool) : Bool :=
  s.pause.isSome || !s.targetCovered t (r.at 1 1) n || !s.coversAll (r.at 1 1) (s.unitFlits t n write)
  || (s.unitFlits t n write).any (fun c => !(if write then s.outSends (c.2.1 / 2) c.2.2 else s.inSends (c.2.1 / 2) c.2.2)) || s.accHeld t n
  || (write && s.erasureWaits t n) || (match t with
    | .stream p => match streamCfg s.img.cfg p with
      | some c => n % 8 = 0 && decide (s.streamCredit p c < n / 8)
      | none => false
    | _ => false)

/-- The data of a read: what was read, or a free value where a word could not be corrected (assumption log 3). -/
def State.haunoRead (s : State) (h n : Nat) (b : Bytes) (bad : Bool) : State :=
  if bad then (let f := s.free; f.2.emit (.haunoData h (f.1 % 256 ^ n))) else s.emit (.haunoData h (leNat b))

/-- R332, R483: words appended to an input port; the offset is ignored, and only a host's write ends a resync (R478). -/
def State.haunoStream (s : State) (p : Nat) (b : Bytes) : State :=
  if b.length % 8 ≠ 0 then s.streamDrop p
  else s.setStaging p (s.staging p ++ (wordsOf b).map (fun w => (w, false)))

/-- R483, R484: an access to spaces 0x0-0x3, charged to the record's activity. -/
def State.haunoMem (s : State) (h : Nat) (r : Rec) (t : Target) (n : Nat) (write : Bool) (data : Nat) : State :=
  if s.haunoBad r t n write then s.haunoFault h
  else match t with
    | .stream p => s.haunoStream p (leBytes n data)
    | _ =>
      let cs := s.unitFlits t n write
      let u := cs.foldl (fun (u : State) c => if write then u.fall (c.2.1 / 2) c.2.2 else u.rise (c.2.1 / 2) c.2.2) ((s.chargeTarget t (r.at 1 1) n).chargeAll (r.at 1 1) cs)
      if write then u.targetWrite t (r.at 1 1) false (leBytes n data)
      else
        let x := u.targetRead t n
        x.2.1.haunoRead h n x.1 x.2.2

/-- R226, R483: the Hauno share of hub SRAM in bytes; the shares lie in the record's order from byte 0. -/
def State.haunoShare (s : State) : Nat := recField s.img.cfg RT.memplan 0 64 2 * 2 ^ 20

/-- R483: space 0x4. -/
def State.haunoHub (s : State) (h addr n : Nat) (write : Bool) (data : Nat) : State :=
  if s.haunoShare < addr + n then s.haunoFault h
  else if write then s.hubWrite addr (leBytes n data)
  else
    let x := s.hubRead addr n
    x.2.1.haunoRead h n x.1 x.2.2

/-- R514: user code may read the counters of a unit. -/
def State.userCounters (s : State) (u : Nat) : Bool := match findRec s.img.cfg RT.counter 0 with
  | some r => bit (r.at 16 1) 0 && bit (r.at 0 16) u
  | none => false

/-- R510, R483: a counter unit that is absent, or on a fenced die. -/
def State.unitGone (s : State) (u : Nat) : Bool :=
  decide (104 ≤ u) || (decide (u < 32) && !s.dieUp (u / 4)) || (decide (32 ≤ u) && decide (u < 40) && !s.dieUp (u - 32)) || (u = 60 && !s.eruPresent) || (u = 61 && !s.sguPresent)
  || (decide (62 ≤ u) && decide (u < 86) && !(s.stackPresent (u - 62) && s.dieUp ((u - 62) / 3)))

/-- R483, R514: space 0x6, the read-only copy of the counter block of a unit. -/
def State.haunoCounters (s : State) (h level u addr n : Nat) (write : Bool) : State :=
  if write || s.unitGone u || decide (0x100 < addr + n) then s.haunoFault h
  else if level = 0 && !s.userCounters u then (s.count R.PMC_DENIED).emit (.haunoData h 0)
  else s.emit (.haunoData h (bits (s.readReg 0 (0xD0000 + 0x100 * u + addr / 8 * 8)) (8 * (addr % 8)) (8 * n)))

/-- R485, R133: a value is added to a counter of a matrix core that a range grants; otherwise it is dropped and the fault raised. -/
def State.hlcSig (s : State) (h data : Nat) : State :=
  let core := bits data 5 5
  if haunoGrants s.img.cfg h core 1 then (if s.dieUp (core / 4) then State.streamNotify s (s.cntBump core (bits data 0 5) (bits data 32 32)) else s.haunoFault h)
  else s.haunoFault h

/-- HLC_SIG (R485). -/
def execHlcSig (core data : Nat) (s : State) : Answer := occurs (s.haunoRec core).isSome s (s.hlcSig core data)

/-- A Hauno local register's offset, or none. -/
def hlcListed (off : Nat) : Bool := decide (off ≤ 0x28) || (decide (0x100 ≤ off) && decide (off < 0x200))

/-- R485: a write to a local register by its access codes. A watch on a core that no range lets the Hauno core read raises the fault and never fires. -/
def State.hlcWrite (s : State) (h addr n data : Nat) : State :=
  let off := addr / 8 * 8
  let m := (2 ^ (8 * n) - 1) * 2 ^ (8 * (addr % 8))
  let d := data % 2 ^ (8 * n) * 2 ^ (8 * (addr % 8))
  if off = 0x28 then s.hlcSig h d
  else
    let t := (s.regMerge (R.HLC_TIME h + off) m d).haunoRaised s h
    if off = 0x10 then { t with time := { t.time with timers := tdel t.time.timers h } }
    else if 0x100 ≤ off ∧ t.fb (R.HLC_TIME h + off) F.HLC_WATCH_enable ∧ !haunoGrants s.img.cfg h (t.fg (R.HLC_TIME h + off) F.HLC_WATCH_core) 0 then t.haunoFault h
    else t

/-- R485: what a local register reads as. -/
def State.hlcRead (s : State) (h off : Nat) : Nat := if off = 0 then s.rackRead else (s.rd (R.HLC_TIME h + off)).toNat

/-- R485: space 0x7. -/
def State.haunoLocal (s : State) (h addr n : Nat) (write : Bool) (data : Nat) : State :=
  if !hlcListed (addr / 8 * 8) || decide (8 < addr % 8 + n) then s.haunoFault h
  else if write then s.hlcWrite h addr n data
  else s.emit (.haunoData h (bits (s.hlcRead h (addr / 8 * 8)) (8 * (addr % 8)) (8 * n)))

/-- HAUNO_ACCESS (R483): `addr` is the offset in the space (of the unit's block in space 0x6), `unit` the counter unit, `level` 0 user, 1 supervisor, 2 machine. -/
def State.haunoAccess (s : State) (h : Nat) (r : Rec) (level space unit addr n : Nat) (write : Bool) (data : Nat) : State :=
  if space < 4 then s.haunoMem h r (targetOf (space * 2 ^ 48 + addr % 2 ^ 48)) n write data
  else if space = 4 then s.haunoHub h addr n write data
  else if space = 6 then s.haunoCounters h level unit addr n write
  else if space = 7 then s.haunoLocal h addr n write data
  else s.haunoFault h

/-- HAUNO_ACCESS: one of 1 to 64 bytes; one that must wait does not happen yet. -/
def execHaunoAccess (core level space unit addr size : Nat) (write : Bool) (data : Nat) (s : State) : Answer :=
  match s.haunoRec core with
  | some r =>
    let t := targetOf (space * 2 ^ 48 + addr % 2 ^ 48)
    let waits := decide (space < 4) && !s.haunoBad r t size write && s.haunoWaits r t size write
    occurs (decide (level < 3) && decide (space < 16) && decide (addr < 2 ^ 48) && decide (0 < size) && decide (size ≤ 64) && !waits) s
      (State.streamNotify s (s.haunoAccess core r level space unit addr size write data))
  | none => .next s

/-- HAUNO_TIMER (R485): HLC_TIME reaches HLC_TIMER, once for each value written. -/
def execHaunoTimer (core : Nat) (s : State) : Answer :=
  let v := (s.rd (R.HLC_TIMER core)).toNat
  occurs ((s.haunoRec core).isSome && v ≠ 0 && s.fb R.TIME_STATUS F.TIME_STATUS_acquired && tget s.time.timers core ≠ some v) s
    (let t := s.runToRack v
     State.haunoEvent { t with time := { t.time with timers := tset t.time.timers core v } } core F.HLC_IRQ_timer 1)

end Machine
end Sys2Proof
end

