-- ==== Sys2Proof/Machine/Pay.lean ====
section
/-!
DEFINITION. How the use of a started instruction is charged as counters allow (R262-R266), and the budget period boundary (R261).
-/
namespace Sys2Proof
namespace Machine

/-- R266: a high-priority context of a core is eligible. -/
def State.highEligible (s : State) (core : Nat) : Bool :=
  (List.range 4).any (fun k => s.eligible (4 * core + k) && actHigh s.img.cfg (s.ctxAct (4 * core + k)))

/-- The next request of a copy (R262): the unit of 64 bytes of the other tier it begins at, and its units: none across 256 bytes, and none across a row. -/
def QIns.request (q : QIns) : Nat × Nat :=
  let o := moveOff q.word
  let u := q.paid % q.row
  let a := (o.1 + q.paid / q.row * o.2) / 64 + u
  (a, min (q.row - u) (4 - a % 4))

/-- R25, R172, R195, R258: where a far request of a copy enters and leaves the switch: from the die that holds the granule to the core's die for a load, and the reverse
for a store; none where the granule lies on the core's own die. -/
def State.farSwitch (s : State) (q : QIns) (a : Nat) : Option (Nat × Nat) :=
  let g := a / 4
  let d := (s.domMap q.inst (256 * g)).1 / 3
  let mine := 4 * (q.core / 4) + g % 4
  let other := 4 * d + g % 4
  if d = q.core / 4 then none else if wOp q.word = 0x0A then some (other, mine) else some (mine, other)

/-- What the next request of a copy is charged with: its bytes, and its flits where it crosses the switch, as many as its bytes fill (DESIGN CHOICE;
assumption log 74). -/
def State.requestCharges (s : State) (q : QIns) : List (Nat × Nat × Nat) :=
  let r := q.request
  (q.res, q.inst, r.2) :: (if q.res = 3 then (match s.farSwitch q r.1 with
    | some x => switchCharges x.1 x.2 r.2
    | none => []) else [])

/-- The links that the next request of a copy crosses send (R190). -/
def State.requestSends (s : State) (q : QIns) : Bool :=
  if q.res = 3 then (match s.farSwitch q q.request.1 with
    | some x => s.inSends x.1 q.request.2 && s.outSends x.2 q.request.2
    | none => true) else true

/-- R262-R264: the next request of a copy is granted and charged, if it can be: gates are suspended for what a core has started (R264). -/
def State.payRequest (s : State) (key : Nat) (q : QIns) : Option State :=
  if q.owed ≤ q.paid || !s.requestSends q then none
  else
    let cs := s.requestCharges q
    let go : Option State := if s.suspended q.core then some (s.takeAll q.act cs) else if s.coversAll q.act cs then some (s.chargeAll q.act cs) else none
    go.map (fun t =>
      let u := match (if q.res = 3 then s.farSwitch q q.request.1 else none) with
        | some x => t.switched x.1 x.2 q.request.2
        | none => t
      { u with seq := { u.seq with running := tset u.seq.running key { q with paid := q.paid + q.request.2 } } })

/-- R262, R264, R266: cycles of an array or vector instruction are charged as its counter allows, then drawn, in ACLK in which no high-priority context of the core is
eligible; all of them where gates are suspended. -/
def State.payCycles (s : State) (key : Nat) (q : QIns) : State :=
  let c := s.ctr q.act q.res q.inst
  let rest := q.owed - q.paid
  let own := if s.suspended q.core then rest else min rest c.left.toNat
  let drawn := if s.highEligible q.core then 0 else min (rest - own) (s.drawable q.act q.res q.inst)
  if own + drawn = 0 then s
  else
    let k := budKey q.act q.res q.inst
    { s with bud := { s.bud with ctr := tset s.bud.ctr k { c with used := satAdd 0xFFFFFFFF c.used (own + drawn), left := c.left - own, drawn := c.drawn + drawn },
                                 pool := if drawn = 0 then s.bud.pool else tset s.bud.pool (q.res * 256 + q.inst) (tgetD s.bud.pool (q.res * 256 + q.inst) 0 - (drawn : Int)) },
             seq := { s.seq with running := tset s.seq.running key { q with paid := q.paid + own + drawn } } }

/-- One grant of what the instruction in a running slot still owes: a request of a copy, or all the cycles that are covered. -/
def State.payStep (s : State) (key : Nat) : State :=
  match tget s.seq.running key with
  | none => s
  | some q => if q.owed ≤ q.paid then s else if q.res < 2 then s.payCycles key q else (s.payRequest key q).getD s

/-- Grants follow until none is covered; `fuel` bounds their number. -/
def State.payLoop : Nat → State → Nat → State
  | 0, s, _ => s
  | fuel + 1, s, key =>
    let t := s.payStep key
    if t.seq.running = s.seq.running then s else State.payLoop fuel t key

/-- What the instruction in a running slot still owes. -/
def State.owes (s : State) (key : Nat) : Nat := match tget s.seq.running key with
  | some q => q.owed - q.paid
  | none => 0

/-- R262-R266: the instruction in a running slot is charged for as much of its use as its activity covers. -/
def State.payOne (s : State) (key : Nat) : State := State.payLoop (s.owes key) s key

/-- R262: the transfers of an activity are granted in turn, request by request, until none is covered. -/
def State.payRounds : Nat → State → Nat → State
  | 0, s, _ => s
  | fuel + 1, s, a =>
    let t := (s.seq.running.filter (fun e => e.2.act = a)).foldl (fun (u : State) e => u.payStep e.1) s
    if t.seq.running = s.seq.running then s else State.payRounds fuel t a

/-- R261, R266: after a refill every started instruction is charged on, activity 255 first and the others in ascending order. -/
def State.payAll (s : State) : State :=
  (255 :: List.range 255).foldl (fun (t : State) a => State.payRounds (((t.seq.running.filter (fun e => e.2.act = a)).map (fun e => e.2.owed - e.2.paid)).sum) t a) s

/-- R263, R392: collective packets that waited for CLE slots leave, and their calls go on. -/
def State.collRefill (s : State) : State := (List.range 64).foldl (fun (t : State) g => if (t.grp g).out.isEmpty then t else t.collAdvance g) s

/-- BUDGET_PERIOD_BOUNDARY (R261, R208): refill; gates open, and what has started, the KPU's and the ERU's far requests with it, is charged on. -/
def State.periodBoundary (s : State) : State :=
  let t := s.runToRack s.nextPeriod
  let u := t.refill
  let v := (List.range 32).foldl (fun x c => if x.fg (R.ARR_STATUS (c / 4) (c % 4)) F.ARR_STATUS_state = 2 then x.fs (R.ARR_STATUS (c / 4) (c % 4)) F.ARR_STATUS_state 1 else x) u
  ((actList s.img.cfg).foldl (fun x a => x.fs (R.ACT_STATE a) F.ACT_STATE_gated_now 0) v).payAll.payDebts.keepPump.collRefill

/-- BUDGET_PERIOD_BOUNDARY. -/
def execBudgetPeriodBoundary (s : State) : Answer := occurs (budgetPeriod s.img.cfg ≠ 0) s s.periodBoundary

end Machine
end Sys2Proof
end

