-- ==== Sys2Proof/Machine/Units.lean ====
section
/-!
DEFINITION. The seven units of a core: when the head of a queue starts (R119), what it does, and when it completes (R120, R145). What the array,
vector, move and route units do is in SeqUnits; here stand SOUT, the Fjarux unit (R129, R130, R339, R346-R356), COLL (R131) and the rows.
-/
namespace Sys2Proof
namespace Machine

/-- The descriptor of a list at an index; an empty one where the list is shorter. -/
def descAt (ds : List Desc) (i : Nat) : Desc := ds.getD i ⟨0, 0, 0, 0, 0, false, false, 0, 0, 0⟩

/-! ### Output to a stream port -/

/-- SOUT's port (R128). -/
def soutPort (w : Nat) : Nat := bits w 21 12

/-- R26, R195: the quarter-port by which the words of a SOUT rise to the hub: by its stream port, or port 0 where they go to the SGU. -/
def State.soutWay (s : State) (q : QIns) : Nat :=
  let n := soutPort q.word
  4 * (q.core / 4) + (match streamCfg s.img.cfg n with
    | some c => if c.kind = 3 then 0 else n % 4
    | none => 0)

/-- The flits of 64 bytes of a SOUT's words. -/
def soutFlits (q : QIns) : Nat := cdiv (descAt q.descs 0).bytes 64

/-- R289, R111, R190, R475: a SOUT can start: its die's link sends, and the channel is open and nothing waits before the FIFO, or the synthesis channel has room. -/
def State.soutReady (s : State) (q : QIns) : Bool :=
  let n := soutPort q.word
  s.rises (s.soutWay q) (soutFlits q) && (match streamCfg s.img.cfg n with
  | some c => if c.kind = 3 then decide ((tgetD s.host.sguIn n []).length < 81) else s.chanOpen c.channel && (s.plain n).isEmpty
  | none => true)

/-- SOUT (R128, R289): the words of the descriptor's extent go to the port. -/
def State.soutRun (s : State) (q : QIns) (env : UnitEnv) : State × Nat :=
  let n := soutPort q.word
  let m := (s.upset env.upsets).descBytes q.core (descAt q.descs 0)
  if m.2.2 then (m.2.1, Code.memUncorrectable)
  else match streamCfg s.img.cfg n with
    | some c =>
      let t := m.2.1.rise (s.soutWay q) (soutFlits q)
      if c.kind = 3 then
        ({ t with host := { t.host with sguIn := tset t.host.sguIn n (tgetD t.host.sguIn n [] ++ wordsOf m.1) } }, Code.ok)
      else (t.putOut n c.channel (wordsOf m.1), Code.ok)
    | none => (m.2.1, Code.ok)

/-! ### JST, JLD, JAT -/

/-- The global address of a fabric word (R129). -/
def fabAddr (w : Nat) : Nat := bits w 32 64
/-- Its device (R331). -/
def fabDev (w : Nat) : Nat := bits (fabAddr w) 52 12
/-- Its ordering channel. -/
def fabChan (w : Nat) : Nat := bits w 21 8
/-- Its flag bit. -/
def fabFlag (w : Nat) : Bool := bit w 29

/-- The Fjarux opcode of a fabric word (R335). -/
def fabOp (w : Nat) : Nat :=
  if wOp w = 0x50 then FOp.store else if wOp w = 0x51 then FOp.load else (if fabFlag w then 0x18 else 0x10) + bits w 101 4 % 8

/-- The right of R338 that a fabric word needs: 0 store, 1 load, 2 atomic. -/
def fabRight (w : Nat) : Nat := wOp w - 0x50

/-- R129: bytes of the descriptor's extent, row by row. -/
def Desc.total (d : Desc) : Nat := d.rows * packedRow d.fmt d.cols

/-- Bytes at the home that a fabric word touches. -/
def fabBytes (q : QIns) : Nat := if wOp q.word = 0x52 then atomicWidth (fabOp q.word) else (descAt q.descs 0).total

/-- R129: a transfer is cut into packets of at most 4 KiB: first byte and length of each. -/
def packetCuts (n : Nat) : List (Nat × Nat) := (List.range (cdiv n 4096)).map (fun i => (4096 * i, min 4096 (n - 4096 * i)))

/-- R338, R339: a window of an activity lets `n` bytes at an address pass with a right. -/
def windowPasses (c : List Rec) (act right addr n : Nat) : Bool :=
  match findRec c RT.window act with
  | none => false
  | some r =>
    let dev := bits addr 52 12
    let off := bits addr 0 48
    (List.range (r.at 0 2)).any (fun i =>
      let o := 8 + 32 * i
      decide (r.at o 2 ≤ dev) && decide (dev ≤ r.at (o + 2) 2) && r.at (o + 4) 1 = bits addr 48 4 && bit (r.at (o + 5) 1) right
      && decide (r.at (o + 8) 8 ≤ off) && decide (off + n ≤ r.at (o + 8) 8 + r.at (o + 16) 8))

/-- R141: offset bits that the sender refuses. -/
def offsetOut (addr n : Nat) : Bool :=
  let sp := bits addr 48 4
  let o := bits addr 0 48
  (sp = 1 && (o / 2 ^ 39 ≠ 0 || decide (2 ^ 34 < bits o 0 34 + n))) || (sp = 2 && (o / 2 ^ 32 ≠ 0 || decide (2 ^ 27 < bits o 0 27 + n)))

/-- R339, R141, R18: what the sender refuses a fabric instruction with; with several codes the highest. -/
def State.fabRefusal (s : State) (q : QIns) : Nat :=
  let a := fabAddr q.word
  let cuts := if wOp q.word = 0x52 then [(0, fabBytes q)] else packetCuts (fabBytes q)
  highestCode [
    (!cuts.all (fun c => windowPasses s.img.cfg q.act (fabRight q.word) (a + c.1) c.2), Code.notPermitted),
    (offsetOut a (fabBytes q), Code.outOfRange),
    ((s.keyOf (actKey s.img.cfg q.act)).isNone, Code.keyUnknown)]

/-- A packet of a fabric instruction before it is numbered and sealed (R334). -/
def fabPacket (c : List Rec) (q : QIns) (first len : Nat) (flagged : Bool) (data : Bytes) : Packet :=
  { dest := fabDev q.word, src := 0, cls := 1, vc := 2, epoch := 0, mode := b2n (bit q.word 30), flagged := flagged, poison := false, transit := false,
    chan := fabChan q.word, seq := 0, op := fabOp q.word, act := q.act, key := actKey c q.act, len := len - 1, follow := 0, hop := 0,
    addr := (fabAddr q.word + first) % 2 ^ 64, data := data, tag := [] }

/-- The pieces of SRAM that receive what a descriptor's rows load. -/
def Desc.pieces (d : Desc) : List (Nat × Nat) := (List.range d.rows).map (fun r => (d.base + r * d.stride, packedRow d.fmt d.cols))

/-- The bytes [first, first + n) of a list of pieces, as pieces. -/
def cutPieces : List (Nat × Nat) → Nat → Nat → List (Nat × Nat)
  | [], _, _ => []
  | (a, l) :: r, first, n =>
    if n = 0 then []
    else if l ≤ first then cutPieces r (first - l) n
    else (a + first, min n (l - first)) :: cutPieces r 0 (n - min n (l - first))

/-- R348, R352: a fabric instruction need not wait for its stream or for an entry of the pair table. -/
def State.fabReady (s : State) (q : QIns) : Bool :=
  let w := q.word
  !s.streamHeld 1 (fabDev w) (fabChan w) false && (wOp w = 0x51 || s.pairRoom q.core (pairKey q.core (fabDev w) (fabChan w)))

/-- R348: a packet of a JST leaves, but a flagged one that ends a full interval waits until all of the interval is acknowledged. -/
def State.jstPacket (s : State) (core iss : Nat) (p : Packet) : State :=
  if p.flagged && s.streamHeld 1 p.dest p.chan true then { s with fj := { s.fj with tails := s.fj.tails ++ [(core, iss, p)] } }
  else s.sendAcked p core iss

/-- JST (R129): the source leaves in packets; the last one is flagged where the word says so. -/
def State.jstRun (s : State) (q : QIns) (b : Bytes) : State :=
  (packetCuts b.length).foldl (fun (t : State) c =>
    t.jstPacket q.core q.no (fabPacket s.img.cfg q c.1 c.2 (fabFlag q.word && c.1 + c.2 = b.length) (slice b c.1 c.2))) s

/-- The flagged packet that an instruction still holds (R348). -/
def State.jstTail (s : State) (q : QIns) : Option (Nat × Nat × Packet) := s.fj.tails.find? (fun e => e.1 = q.core && e.2.1 = q.no)

/-- R348: the flagged packet that an instruction holds leaves once its interval is acknowledged. -/
def State.sendTail (s : State) (q : QIns) : State := match s.jstTail q with
  | some e =>
    if s.streamHeld 1 e.2.2.dest e.2.2.chan true || !s.pairRoom e.1 (pairKey e.1 e.2.2.dest e.2.2.chan) then s
    else State.sendAcked { s with fj := { s.fj with tails := s.fj.tails.erase e } } e.2.2 e.1 e.2.1
  | none => s

/-- JLD (R129): one LOAD for each packet's share of the destination. -/
def State.jldRun (s : State) (q : QIns) : State :=
  let d := descAt q.descs 0
  (packetCuts d.total).foldl (fun (t : State) c =>
    t.sendLoad (fabPacket s.img.cfg q c.1 c.2 false []) q.core q.act (cutPieces d.pieces c.1 c.2) q.no) s

/-- JAT (R129): one atomic, with its old value where flag is set. -/
def State.jatRun (s : State) (q : QIns) (b : Bytes) : State :=
  let p := fabPacket s.img.cfg q 0 b.length false b
  if fabFlag q.word then s.sendLoad p q.core q.act (descAt q.descs 1).pieces q.no
  else s.sendAcked p q.core q.no

/-- JST, JLD and JAT start: refused as a whole at the sender, or sent (R339). -/
def State.fabRun (s : State) (q : QIns) (env : UnitEnv) : State × Nat :=
  let bad := s.fabRefusal q
  if bad ≠ Code.ok then (s, bad)
  else if wOp q.word = 0x51 then (s.jldRun q, Code.ok)
  else
    let m := (s.upset env.upsets).descBytes q.core (descAt q.descs 0)
    if m.2.2 then (m.2.1, Code.memUncorrectable)
    else (if wOp q.word = 0x50 then m.2.1.jstRun q m.1 else m.2.1.jatRun q m.1, Code.ok)

/-! ### FENCE -/

/-- R130: a FENCE covers a pair of its core to which its context has issued. -/
def fenceCovers (q : QIns) (k users : Nat) : Bool :=
  k / 2 ^ 20 = q.core && bit users q.ctx && (bit q.word 29 || k % 256 = fabChan q.word) && (bit q.word 42 || k / 256 % 2 ^ 12 = bits q.word 30 12)

/-- FENCE starts: the counts issued so far of every pair it covers are recorded (R354). -/
def State.fenceRun (s : State) (q : QIns) : State :=
  { s with fj := { s.fj with fences := s.fj.fences ++ [⟨q.core, q.no, (s.fj.pairs.filter (fun e => fenceCovers q e.1 e.2.users)).map (fun (e : Nat × Pair) => (e.1, e.2.issued))⟩] } }

/-- The fence of an instruction. -/
def State.fenceOf (s : State) (q : QIns) : Option FenceSt := s.fj.fences.find? (fun f => f.core = q.core && f.iss = q.no)

/-- R354: a covered pair is lost, or a packet issued before the fence received a NACK. -/
def State.fenceBad (s : State) (f : FenceSt) (k : Nat) : Bool :=
  (s.pair k).lost || (match (s.pair k).nacked with
    | some i => decide (i < f.iss)
    | none => false)

/-- R354: every covered pair has its issued count acknowledged. -/
def State.fenceDone (s : State) (f : FenceSt) : Bool := f.covers.all (fun c => decide (c.2 ≤ (s.pair c.1).acked) || (tget s.fj.pairs c.1).isNone)

/-- R354: a FENCE ends: with FENCE_LOST, resetting the pairs it reports, or with OK. -/
def State.fenceEnd (s : State) (f : FenceSt) : State × Nat :=
  let bad := (f.covers.map (fun (c : Nat × Nat) => c.1)).filter (s.fenceBad f)
  let t : State := { s with fj := { s.fj with fences := s.fj.fences.erase f } }
  if bad.isEmpty then (t, Code.ok)
  else
    let u := t.clearPairs (fun k => bad.contains k)
    ({ u with fj := { u.fj with follow := u.fj.follow.filter (fun (e : Nat × Nat) => !(bad.any (fun k => numKey 1 (k / 256 % 2 ^ 12) (k % 256) = e.1))) } }, Code.fenceLost)

/-! ### COLL -/

/-- Whether a core's source is read in a call: never of a barrier, of a broadcast only that of the root's lowest local core (R131, R381). -/
def collReads (r : Rec) (w core : Nat) : Bool :=
  let op := bits w 22 4
  op ≠ 4 && (op ≠ 3 || (bits w 37 12 = grpRank r && (grpCores r).head? = some core))

/-- The COLL of a group at the head of a core's collective queue. -/
def State.collQueued (s : State) (g core : Nat) : Option QIns := match s.queue core 6 with
  | q :: _ => if bits q.word 16 6 = g then some q else none
  | [] => none

/-- A COLL of a core leaves its queue and runs: waiting for its call, or with the code that ends it. -/
def State.collPop (s : State) (core : Nat) (code : Nat) : State := match s.queue core 6 with
  | q :: rest => (s.setQueue core 6 rest).setRunning core 6 (some { q with code := code, waitFor := b2n (code = Code.ok) })
  | [] => s

/-- The sources of a call's local cores are read: the cores whose source holds an uncorrectable word. -/
def State.collSources (s : State) (g : Nat) (r : Rec) : State × List Nat :=
  (grpCores r).foldl (fun (acc : State × List Nat) c => match s.collQueued g c with
    | some q =>
      if collReads r q.word c then
        let e := acc.1.descEcc c (descAt q.descs 0) true
        (e.1, if e.2 then acc.2 ++ [c] else acc.2)
      else acc
    | none => acc) (s, [])

/-- R382, R145: the local COLLs of a group start together and its call begins; where a source cannot be read, its COLL fails and the others wait on in their queues. -/
def State.collStart (s : State) (g : Nat) (env : UnitEnv) : State := match s.group g with
  | none => s
  | some r =>
    let x := (s.upset env.upsets).collSources g r
    if x.2.isEmpty then ((grpCores r).foldl (fun (u : State) c => u.collPop c Code.ok) x.1).collBegin g
    else x.2.foldl (fun (u : State) c => u.collPop c Code.memUncorrectable) x.1

/-! ### Starting -/

/-- The slot an instruction runs in: of a unit its own, but a far copy runs beside a bonded one (R127). -/
def runSlot (unit w : Nat) : Nat := if unit = 2 && decide (0x0A ≤ wOp w) then 3 else unit

/-- R119: a store of the move engine whose source a running load of its context writes waits. -/
def State.moveHazard (s : State) (q : QIns) : Bool :=
  (wOp q.word = 0x09 || wOp q.word = 0x0B)
  && [2, 3].any (fun k => match s.running q.core k with
    | some r => r.ctx = q.ctx && (wOp r.word = 0x08 || wOp r.word = 0x0A)
        && meets ((descAt r.descs 0).range (fmtBits (descAt r.descs 0).fmt)) ((descAt q.descs 0).range (fmtBits (descAt q.descs 0).fmt))
    | none => false)

/-- R262, R263: the gate of the activity is open for a unit's resource. -/
def State.unitCovered (s : State) (unit : Nat) (q : QIns) : Bool :=
  let ok (res inst : Nat) : Bool := s.ownCovers q.act res inst 1 || (s.canDraw q.act res inst 1 && !(res < 2 && s.highEligible q.core))
  match unit with
  | 0 => ok 0 q.core
  | 1 => ok 1 q.core
  | 2 => if 0x0A ≤ wOp q.word then ok 3 (bits q.word 21 4) else ok 2 q.core
  | _ => true

/-- The bytes from the first to the last that a move touches in far or bonded memory. -/
def moveExtent (q : QIns) : Nat := let d := descAt q.descs 0; (d.rows - 1) * (moveOff q.word).2 + packedRow d.fmt d.cols

/-- What the instruction itself waits for before it starts. -/
def State.unitClear (s : State) (unit : Nat) (q : QIns) : Bool :=
  match unit with
  | 0 => s.scanned q.core
  | 2 => !s.moveHazard q && !(wOp q.word = 0x0B && s.erasureHeld (bits q.word 21 4) (moveOff q.word).1 (moveExtent q))
  | 4 => if wOp q.word = 0x40 then (s.rsendDests q.core q.word).all s.ringFree else s.soutReady q
  | 5 => wOp q.word = 0x58 || (!s.fjStill && (s.fabRefusal q ≠ Code.ok || s.fabReady q))
  | _ => true

/-- The core works, and no pause holds back what has not started (R135); at moment A and after nothing starts. -/
def State.coreRuns (s : State) (core : Nat) : Bool :=
  s.dieUp (core / 4) && !s.coreDead core && decide (4 ≤ s.mstate) && decide (s.mstate ≤ 8)
  && !(s.pauseAsked core && (List.range 4).all (fun k => s.ctxParked (4 * core + k)))

/-- R382, R403, R26, R190: the local COLLs of a group are all at the head of their queues, no call of the group is in progress, calls are not held, and the sources
can rise to the hub. -/
def State.collReady (s : State) (core : Nat) (q : QIns) : Bool :=
  let g := bits q.word 16 6
  match s.group g with
  | some r =>
    (grpCores r).contains core && s.grpState g = 0 && !s.grpHeld g && !s.fb R.CLE_STATUS F.CLE_STATUS_held
    && (grpCores r).all (fun c => (s.collQueued g c).isSome && s.coreRuns c && (s.running c 6).isNone && s.rises (4 * (c / 4)) 256)
  | none => false

/-- R119: the head of a unit's queue can start. The move engine has one queue, so a far copy behind a bonded copy that waits, waits with it, and the reverse
(DEDUCED; assumption log 69). -/
def State.canStart (s : State) (core unit : Nat) : Bool :=
  match s.queue core unit with
  | q :: _ => decide (core < 32) && unitList.contains unit && s.coreRuns core && (s.running core (runSlot unit q.word)).isNone && s.unitClear unit q && s.unitCovered unit q
    && (unit ≠ 6 || s.collReady core q)
  | [] => false

/-- What an instruction does as it starts: the state and the code so far. -/
def State.unitRun (s : State) (unit : Nat) (q : QIns) (env : UnitEnv) : State × Nat :=
  match unit with
  | 0 =>
    let r := State.mmaRun (s.fs (R.ARR_STATUS (q.core / 4) (q.core % 4)) F.ARR_STATUS_state 1) q env
    ({ r.1 with seq := { r.1.seq with prescanned := tdel r.1.seq.prescanned q.core } }, r.2)
  | 1 => s.vopRun q env
  | 2 =>
    let r := s.moveRun q env
    (r.1.eruFlush q.act, r.2)
  | 4 => if wOp q.word = 0x40 then s.rsendRun q env else s.soutRun q env
  | _ => if wOp q.word = 0x58 then (s.fenceRun q, Code.ok) else s.fabRun q env

/-- The head of a unit's queue starts. -/
def State.unitStart (s : State) (core unit : Nat) (env : UnitEnv) : State :=
  match s.queue core unit with
  | [] => s
  | q :: rest =>
    if unit = 6 then s.collStart (bits q.word 16 6) env
    else
    let t := (s.setQueue core unit rest).setRunning core (runSlot unit q.word) (some q)
    let r := t.unitRun unit q env
    State.streamNotify s ((r.1.endsWith core (runSlot unit q.word) r.2).payOne (8 * core + runSlot unit q.word))

/-- UNIT_INSTRUCTION_START (R119). -/
def execUnitInstructionStart (core unit : Nat) (env : UnitEnv) (s : State) : Answer :=
  occurs (s.canStart core unit) s (s.unitStart core unit env)

/-! ### Completing -/

/-- What a started instruction still waits for (R128-R131, R262-R264, R352-R356). `slot` is the slot it runs in. -/
def State.unitDone (s : State) (slot : Nat) (q : QIns) : Bool :=
  if q.paid < q.owed then false
  else if slot = 4 then wOp q.word = 0x40 || (s.plain (soutPort q.word)).isEmpty
  else if slot = 5 then
    if wOp q.word = 0x58 then (match s.fenceOf q with
      | some f => s.fenceDone f || f.covers.any (fun c => s.fenceBad f c.1)
      | none => true)
    else if wOp q.word = 0x51 || (wOp q.word = 0x52 && fabFlag q.word) then !s.fj.loads.any (fun l => l.core = q.core && l.iss = q.no)
    else !s.fj.xq.any (fun h => h.iss = q.no) && (s.jstTail q).isNone
  else if slot = 6 then q.waitFor = 0
  else true

/-- R119, R120: an instruction completes: its slot is free; OK and INEXACT add to its counter where cen is set, another code stops its context (R145). -/
def State.complete (s : State) (slot : Nat) (q : QIns) (code : Nat) : State :=
  let x := 4 * q.core + q.ctx
  let t := s.setRunning q.core slot none
  let a := R.ARR_STATUS (q.core / 4) (q.core % 4)
  let u := if slot = 0 && t.fg a F.ARR_STATUS_state ≠ 3 then t.fs a F.ARR_STATUS_state 0 else t
  if code = Code.ok || code = Code.inexact then
    let v := if code = Code.inexact then u.raise (ctxReg x) F.SEQ_CTX_STATUS_inexact else u
    if wCen q.word then v.cntBump q.core (wCcnt q.word) 1 else v
  else if u.ctxState x = 4 then u else u.stopCtx x code

/-- An instruction in a slot completes, a FENCE with its verdict, a COLL with its group's settlement (R401). -/
def State.unitComplete (s : State) (slot : Nat) (q : QIns) : State :=
  if slot = 5 && wOp q.word = 0x58 then
    match s.fenceOf q with
    | some f => (s.fenceEnd f).1.complete slot q (s.fenceEnd f).2
    | none => s.complete slot q q.code
  else if slot = 6 then (s.complete slot q q.code).collSettle (bits q.word 16 6)
  else s.complete slot q q.code

/-- UNIT_INSTRUCTION_COMPLETE (R120): an instruction whose use is charged in full and that waits for nothing else; a flagged packet that waited for its interval leaves
first, and where it has not left the module at once the instruction goes on (R348). -/
def execUnitInstructionComplete (core unit : Nat) (s : State) : Answer :=
  let t := s.payOne (8 * core + unit)
  match t.running core unit with
  | none => .next s
  | some q =>
    let u := if unit = 5 then t.sendTail q else t
    occurs (core < 32 && unit < 7 && (u.unitDone unit q || ((t.jstTail q).isSome && (u.jstTail q).isNone))) s
      (if u.unitDone unit q then State.streamNotify s (u.unitComplete unit q) else u)

end Machine
end Sys2Proof
end

