-- ==== Sys2Proof/Machine/Dispatch.lean ====
section
/-!
DEFINITION. The meaning of each command: one arm per constructor of Instr.
-/
namespace Sys2Proof
namespace Machine

/-- A command's effect on everything but the queue. -/
def exec (i : Instr) (s : State) : Host.Outcome State Fault Refusal :=
  match i with
  | .registerWrite port addr size data => Sys2Proof.Machine.execRegisterWrite port addr size data s
  | .absentUnitAccess port addr write => Sys2Proof.Machine.execAbsentUnitAccess port addr write s
  | .bar0BadAccess port addr size write => Sys2Proof.Machine.execBar0BadAccess port addr size write s
  | .nop core ctx => Sys2Proof.Machine.execNop core ctx s
  | .tdset core ctx => Sys2Proof.Machine.execTdset core ctx s
  | .bld core ctx => Sys2Proof.Machine.execBld core ctx s
  | .bst core ctx => Sys2Proof.Machine.execBst core ctx s
  | .xld core ctx => Sys2Proof.Machine.execXld core ctx s
  | .xst core ctx => Sys2Proof.Machine.execXst core ctx s
  | .mma core ctx => Sys2Proof.Machine.execMma core ctx s
  | .vop core ctx => Sys2Proof.Machine.execVop core ctx s
  | .rsend core ctx => Sys2Proof.Machine.execRsend core ctx s
  | .rrel core ctx => Sys2Proof.Machine.execRrel core ctx s
  | .sout core ctx => Sys2Proof.Machine.execSout core ctx s
  | .jst core ctx => Sys2Proof.Machine.execJst core ctx s
  | .jld core ctx => Sys2Proof.Machine.execJld core ctx s
  | .jat core ctx => Sys2Proof.Machine.execJat core ctx s
  | .fence core ctx => Sys2Proof.Machine.execFence core ctx s
  | .coll core ctx => Sys2Proof.Machine.execColl core ctx s
  | .wait core ctx => Sys2Proof.Machine.execWait core ctx s
  | .sig core ctx => Sys2Proof.Machine.execSig core ctx s
  | .brc core ctx => Sys2Proof.Machine.execBrc core ctx s
  | .snap core ctx => Sys2Proof.Machine.execSnap core ctx s
  | .step core ctx => Sys2Proof.Machine.execStep core ctx s
  | .loop core ctx => Sys2Proof.Machine.execLoop core ctx s
  | .br core ctx => Sys2Proof.Machine.execBr core ctx s
  | .halt core ctx => Sys2Proof.Machine.execHalt core ctx s
  | .unitInstructionStart core unit env => Sys2Proof.Machine.execUnitInstructionStart core unit env s
  | .unitInstructionComplete core unit => Sys2Proof.Machine.execUnitInstructionComplete core unit s
  | .anchorPrescan core => Sys2Proof.Machine.execAnchorPrescan core s
  | .ringSlotComplete core ring => Sys2Proof.Machine.execRingSlotComplete core ring s
  | .canaryDone core main early late again => Sys2Proof.Machine.execCanaryDone core main early late again s
  | .stepBoundary => Sys2Proof.Machine.execStepBoundary s
  | .coreParked core => Sys2Proof.Machine.execCoreParked core s
  | .snapshotStagingDone => Sys2Proof.Machine.execSnapshotStagingDone s
  | .budgetPeriodBoundary => Sys2Proof.Machine.execBudgetPeriodBoundary s
  | .budgetExhausted act res inst => Sys2Proof.Machine.execBudgetExhausted act res inst s
  | .imgBegin port kind => Sys2Proof.Machine.execImgBegin port kind s
  | .imgDataWrite port size words => Sys2Proof.Machine.execImgDataWrite port size words s
  | .imgCommit port => Sys2Proof.Machine.execImgCommit port s
  | .imgAbort port => Sys2Proof.Machine.execImgAbort port s
  | .imgCheckDone => Sys2Proof.Machine.execImgCheckDone s
  | .cmdNop port tag => Sys2Proof.Machine.execCmdNop port tag s
  | .start port tag => Sys2Proof.Machine.execStart port tag s
  | .stop port tag => Sys2Proof.Machine.execStop port tag s
  | .teardown port tag => Sys2Proof.Machine.execTeardown port tag s
  | .apply port tag => Sys2Proof.Machine.execApply port tag s
  | .snapshotNow port tag => Sys2Proof.Machine.execSnapshotNow port tag s
  | .dieReset port tag => Sys2Proof.Machine.execDieReset port tag s
  | .moduleReset port tag => Sys2Proof.Machine.execModuleReset port tag s
  | .moduleResetExecute => Sys2Proof.Machine.execModuleResetExecute s
  | .testEnter port tag => Sys2Proof.Machine.execTestEnter port tag s
  | .dumpOpen port tag => Sys2Proof.Machine.execDumpOpen port tag s
  | .tokenNonce port tag => Sys2Proof.Machine.execTokenNonce port tag s
  | .tokenClaim port tag => Sys2Proof.Machine.execTokenClaim port tag s
  | .cmdUnknownOpcode port opcode tag => Sys2Proof.Machine.execCmdUnknownOpcode port opcode tag s
  | .cmdPushBusy port => Sys2Proof.Machine.execCmdPushBusy port s
  | .cmdComplete port => Sys2Proof.Machine.execCmdComplete port s
  | .nonceExpiry port => Sys2Proof.Machine.execNonceExpiry port s
  | .applyCheckDone => Sys2Proof.Machine.execApplyCheckDone s
  | .routingBankRetry => Sys2Proof.Machine.execRoutingBankRetry s
  | .applyRecheckDone => Sys2Proof.Machine.execApplyRecheckDone s
  | .dieReloadDone die ok => Sys2Proof.Machine.execDieReloadDone die ok s
  | .streamWrite host port offset aligned words => Sys2Proof.Machine.execStreamWrite host port offset aligned words s
  | .streamWordDeliver port => Sys2Proof.Machine.execStreamWordDeliver port s
  | .streamRead host port aligned count => Sys2Proof.Machine.execStreamRead host port aligned count s
  | .streamClearDropped host port => Sys2Proof.Machine.execStreamClearDropped host port s
  | .msixModerationEnd host => Sys2Proof.Machine.execMsixModerationEnd host s
  | .mapDataRead host => Sys2Proof.Machine.execMapDataRead host s
  | .mapDataWrite host data => Sys2Proof.Machine.execMapDataWrite host data s
  | .perstAccepted host => Sys2Proof.Machine.execPerstAccepted host s
  | .perstRelease host lowNs => Sys2Proof.Machine.execPerstRelease host lowNs s
  | .functionLevelReset host => Sys2Proof.Machine.execFunctionLevelReset host s
  | .d3coldEntry host => Sys2Proof.Machine.execD3coldEntry host s
  | .d3coldExit host => Sys2Proof.Machine.execD3coldExit host s
  | .hostLinkDown host lostReads => Sys2Proof.Machine.execHostLinkDown host lostReads s
  | .dieClockLoss die => Sys2Proof.Machine.execDieClockLoss die s
  | .neighbourClockLoss die west => Sys2Proof.Machine.execNeighbourClockLoss die west s
  | .aclkLoss die => Sys2Proof.Machine.execAclkLoss die s
  | .linkFlitRx die link flit => Sys2Proof.Machine.execLinkFlitRx die link flit s
  | .laneErrorWindow die link lane errors => Sys2Proof.Machine.execLaneErrorWindow die link lane errors s
  | .linkLaneFail die link lane => Sys2Proof.Machine.execLinkLaneFail die link lane s
  | .linkRetrainDone die link good => Sys2Proof.Machine.execLinkRetrainDone die link good s
  | .xbarGrant out inp => Sys2Proof.Machine.execXbarGrant out inp s
  | .lightLineLost fibre lines => Sys2Proof.Machine.execLightLineLost fibre lines s
  | .lightLinePresent fibre line => Sys2Proof.Machine.execLightLinePresent fibre line s
  | .spLockDone p locked => Sys2Proof.Machine.execSpLockDone p locked s
  | .spTrainingDone p rtt failed farFailed => Sys2Proof.Machine.execSpTrainingDone p rtt failed farFailed s
  | .spFecLockDone p => Sys2Proof.Machine.execSpFecLockDone p s
  | .spBringupTimeout p => Sys2Proof.Machine.execSpBringupTimeout p s
  | .spBackoffExpiry p => Sys2Proof.Machine.execSpBackoffExpiry p s
  | .identSend p => Sys2Proof.Machine.execIdentSend p s
  | .ident p msg => Sys2Proof.Machine.execIdent p msg s
  | .lhello p msg => Sys2Proof.Machine.execLhello p msg s
  | .lattest p msg => Sys2Proof.Machine.execLattest p msg s
  | .lfinish p msg => Sys2Proof.Machine.execLfinish p msg s
  | .attestRetry p => Sys2Proof.Machine.execAttestRetry p s
  | .spFrameRx p frame => Sys2Proof.Machine.execSpFrameRx p frame s
  | .widthOrder p farMask switchAt => Sys2Proof.Machine.execWidthOrder p farMask switchAt s
  | .spLaneFail p lanes => Sys2Proof.Machine.execSpLaneFail p lanes s
  | .spUncWindow p counts => Sys2Proof.Machine.execSpUncWindow p counts s
  | .spCreditWatchdog p vc => Sys2Proof.Machine.execSpCreditWatchdog p vc s
  | .spStallLimit p vc => Sys2Proof.Machine.execSpStallLimit p vc s
  | .spRetrainDone p out => Sys2Proof.Machine.execSpRetrainDone p out s
  | .linkRekey p => Sys2Proof.Machine.execLinkRekey p s
  | .store p pkt => Sys2Proof.Machine.execStore p pkt s
  | .load p pkt => Sys2Proof.Machine.execLoad p pkt s
  | .atomic p pkt => Sys2Proof.Machine.execAtomic p pkt s
  | .loadRsp p pkt => Sys2Proof.Machine.execLoadRsp p pkt s
  | .atomicRsp p pkt => Sys2Proof.Machine.execAtomicRsp p pkt s
  | .ack p pkt => Sys2Proof.Machine.execAck p pkt s
  | .nack p pkt => Sys2Proof.Machine.execNack p pkt s
  | .drain p vc epoch => Sys2Proof.Machine.execDrain p vc epoch s
  | .lease p pkt => Sys2Proof.Machine.execLease p pkt s
  | .leaseExpiry => Sys2Proof.Machine.execLeaseExpiry s
  | .teardownPacket p pkt => Sys2Proof.Machine.execTeardownPacket p pkt s
  | .mgmt p pkt => Sys2Proof.Machine.execMgmt p pkt s
  | .standInOrder p pkt => Sys2Proof.Machine.execStandInOrder p pkt s
  | .keyLead p pkt => Sys2Proof.Machine.execKeyLead p pkt s
  | .keyFetch p pkt => Sys2Proof.Machine.execKeyFetch p pkt s
  | .keyDrop p pkt => Sys2Proof.Machine.execKeyDrop p pkt s
  | .kreq p pkt => Sys2Proof.Machine.execKreq p pkt s
  | .kresp p pkt => Sys2Proof.Machine.execKresp p pkt s
  | .kreqRetry key => Sys2Proof.Machine.execKreqRetry key s
  | .fjTransit p pkt => Sys2Proof.Machine.execFjTransit p pkt s
  | .ingressApply line => Sys2Proof.Machine.execIngressApply line s
  | .parkTimeout idx => Sys2Proof.Machine.execParkTimeout idx s
  | .ackTimeout core dev chan => Sys2Proof.Machine.execAckTimeout core dev chan s
  | .loadTimeout idx => Sys2Proof.Machine.execLoadTimeout idx s
  | .fjRetry idx => Sys2Proof.Machine.execFjRetry idx s
  | .collAnchor p pkt => Sys2Proof.Machine.execCollAnchor p pkt s
  | .collReduce p pkt => Sys2Proof.Machine.execCollReduce p pkt s
  | .collGather p pkt => Sys2Proof.Machine.execCollGather p pkt s
  | .collDone p pkt => Sys2Proof.Machine.execCollDone p pkt s
  | .collCommit p pkt => Sys2Proof.Machine.execCollCommit p pkt s
  | .collAbort p pkt => Sys2Proof.Machine.execCollAbort p pkt s
  | .stepDeadline group => Sys2Proof.Machine.execStepDeadline group s
  | .pair p pkt => Sys2Proof.Machine.execPair p pkt s
  | .pairReply p pkt => Sys2Proof.Machine.execPairReply p pkt s
  | .pairRetry => Sys2Proof.Machine.execPairRetry s
  | .page p pkt => Sys2Proof.Machine.execPage p pkt s
  | .record p pkt => Sys2Proof.Machine.execRecord p pkt s
  | .seal p pkt => Sys2Proof.Machine.execSeal p pkt s
  | .journal p pkt => Sys2Proof.Machine.execJournal p pkt s
  | .delta p pkt => Sys2Proof.Machine.execDelta p pkt s
  | .fetch p pkt => Sys2Proof.Machine.execFetch p pkt s
  | .rebuild p pkt => Sys2Proof.Machine.execRebuild p pkt s
  | .resync p pkt => Sys2Proof.Machine.execResync p pkt s
  | .ripeningDone => Sys2Proof.Machine.execRipeningDone s
  | .replayBoundary => Sys2Proof.Machine.execReplayBoundary s
  | .sensorSample raw => Sys2Proof.Machine.execSensorSample raw s
  | .refreshStepDown loc => Sys2Proof.Machine.execRefreshStepDown loc s
  | .dramRefresh channel => Sys2Proof.Machine.execDramRefresh channel s
  | .hotStateReturn loc => Sys2Proof.Machine.execHotStateReturn loc s
  | .converterSelfTest failed => Sys2Proof.Machine.execConverterSelfTest failed s
  | .tripRestart => Sys2Proof.Machine.execTripRestart s
  | .tripAck port seq => Sys2Proof.Machine.execTripAck port seq s
  | .alertAsserted => Sys2Proof.Machine.execAlertAsserted s
  | .alertRemoved => Sys2Proof.Machine.execAlertRemoved s
  | .alertScaleRelease => Sys2Proof.Machine.execAlertScaleRelease s
  | .alertLatched => Sys2Proof.Machine.execAlertLatched s
  | .governorCheck meanW => Sys2Proof.Machine.execGovernorCheck meanW s
  | .powerWindowEnd meanW => Sys2Proof.Machine.execPowerWindowEnd meanW s
  | .pwrCapWrite port cap => Sys2Proof.Machine.execPwrCapWrite port cap s
  | .inputPowerFail dv => Sys2Proof.Machine.execInputPowerFail dv s
  | .inputPowerRestored dv => Sys2Proof.Machine.execInputPowerRestored dv s
  | .auxPowerFail => Sys2Proof.Machine.execAuxPowerFail s
  | .auxPowerUp => Sys2Proof.Machine.execAuxPowerUp s
  | .strapChange slot rack feed => Sys2Proof.Machine.execStrapChange slot rack feed s
  | .bootReady => Sys2Proof.Machine.execBootReady s
  | .updateWatchdog => Sys2Proof.Machine.execUpdateWatchdog s
  | .modResetAccepted => Sys2Proof.Machine.execModResetAccepted s
  | .modResetRelease lowNs => Sys2Proof.Machine.execModResetRelease lowNs s
  | .mgcWatchdog => Sys2Proof.Machine.execMgcWatchdog s
  | .dumpComplete => Sys2Proof.Machine.execDumpComplete s
  | .racktickEdge interval width => Sys2Proof.Machine.execRacktickEdge interval width s
  | .rackclkLost => Sys2Proof.Machine.execRackclkLost s
  | .tickTimeout => Sys2Proof.Machine.execTickTimeout s
  | .slewComplete => Sys2Proof.Machine.execSlewComplete s
  | .timeOffsetUpdate j offset => Sys2Proof.Machine.execTimeOffsetUpdate j offset s
  | .fmcErrorWindow stack channel => Sys2Proof.Machine.execFmcErrorWindow stack channel s
  | .retireCopyDone stack => Sys2Proof.Machine.execRetireCopyDone stack s
  | .patrolScrub tier addr newer => Sys2Proof.Machine.execPatrolScrub tier addr newer s
  | .marginStart port => Sys2Proof.Machine.execMarginStart port s
  | .marginDone errors firstLine => Sys2Proof.Machine.execMarginDone errors firstLine s
  | .clearRetire port stack => Sys2Proof.Machine.execClearRetire port stack s
  | .sguAnalysisFrame chan => Sys2Proof.Machine.execSguAnalysisFrame chan s
  | .sguSynthesisFrame chan => Sys2Proof.Machine.execSguSynthesisFrame chan s
  | .haunoAccess core level space unit addr size write data => Sys2Proof.Machine.execHaunoAccess core level space unit addr size write data s
  | .hlcSig core data => Sys2Proof.Machine.execHlcSig core data s
  | .haunoTimer core => Sys2Proof.Machine.execHaunoTimer core s
  | .mboxBegin port => Sys2Proof.Machine.execMboxBegin port s
  | .mboxInWrite port size words => Sys2Proof.Machine.execMboxInWrite port size words s
  | .mboxCommit port => Sys2Proof.Machine.execMboxCommit port s
  | .mboxAbort port => Sys2Proof.Machine.execMboxAbort port s
  | .mboxOutRead port => Sys2Proof.Machine.execMboxOutRead port s
  | .mboxBadMessage port => Sys2Proof.Machine.execMboxBadMessage port s
  | .attest port => Sys2Proof.Machine.execAttest port s
  | .ownerEnrol port => Sys2Proof.Machine.execOwnerEnrol port s
  | .ownerTransfer port => Sys2Proof.Machine.execOwnerTransfer port s
  | .keyInstall port => Sys2Proof.Machine.execKeyInstall port s
  | .chanOpen port => Sys2Proof.Machine.execChanOpen port s
  | .chanClose port => Sys2Proof.Machine.execChanClose port s
  | .chanStatus port => Sys2Proof.Machine.execChanStatus port s
  | .debugUnlock port => Sys2Proof.Machine.execDebugUnlock port s
  | .fwBegin port => Sys2Proof.Machine.execFwBegin port s
  | .fwData port => Sys2Proof.Machine.execFwData port s
  | .fwEnd port => Sys2Proof.Machine.execFwEnd port s
  | .pldmMessage msg => Sys2Proof.Machine.execPldmMessage msg s
  | .arrCanaryNow port core => Sys2Proof.Machine.execArrCanaryNow port core s
  | .arrClearCounts port core => Sys2Proof.Machine.execArrClearCounts port core s
  | .arrInjectArm port core bit column => Sys2Proof.Machine.execArrInjectArm port core bit column s
  | .seqTestStep port core => Sys2Proof.Machine.execSeqTestStep port core s
  | .seqClearStall port core => Sys2Proof.Machine.execSeqClearStall port core s
  | .memClearCounts port core => Sys2Proof.Machine.execMemClearCounts port core s
  | .fmcClearCounts port => Sys2Proof.Machine.execFmcClearCounts port s
  | .dlRestore port die => Sys2Proof.Machine.execDlRestore port die s
  | .dlClearCounts port die => Sys2Proof.Machine.execDlClearCounts port die s
  | .dlTestFail port die link lane => Sys2Proof.Machine.execDlTestFail port die link lane s
  | .clkClearLow port die => Sys2Proof.Machine.execClkClearLow port die s
  | .sguClearCounts port => Sys2Proof.Machine.execSguClearCounts port s
  | .budClearCounts port => Sys2Proof.Machine.execBudClearCounts port s
  | .spRestore port p => Sys2Proof.Machine.execSpRestore port p s
  | .spReenable port p => Sys2Proof.Machine.execSpReenable port p s
  | .spClearCounts port p => Sys2Proof.Machine.execSpClearCounts port p s
  | .spTestFail port p lane => Sys2Proof.Machine.execSpTestFail port p lane s
  | .fjClearCounts port => Sys2Proof.Machine.execFjClearCounts port s
  | .cleClearCounts port => Sys2Proof.Machine.execCleClearCounts port s
  | .cleInjectResidue port => Sys2Proof.Machine.execCleInjectResidue port s
  | .kpuClearCounts port => Sys2Proof.Machine.execKpuClearCounts port s
  | .kpuFullNext port => Sys2Proof.Machine.execKpuFullNext port s
  | .eruClearCounts port => Sys2Proof.Machine.execEruClearCounts port s
  | .rindClearCounts port => Sys2Proof.Machine.execRindClearCounts port s
  | .alertRearm port => Sys2Proof.Machine.execAlertRearm port s
  | .mgtClearCounts port => Sys2Proof.Machine.execMgtClearCounts port s
  | .pinClearCounts port => Sys2Proof.Machine.execPinClearCounts port s
  | .receivedLightAboveLos p => Sys2Proof.Machine.execReceivedLightAboveLos p s
  | .rackclkRestored => Sys2Proof.Machine.execRackclkRestored s
  | .hostLinkUp host => Sys2Proof.Machine.execHostLinkUp host s
  | .jtagAccess instr data => Sys2Proof.Machine.execJtagAccess instr data s
  | .mgcSramUncorrectable addr => Sys2Proof.Machine.execMgcSramUncorrectable addr s
  | .internalParityError hub => Sys2Proof.Machine.execInternalParityError hub s

end Machine
end Sys2Proof
end

