-- ==== Sys2Proof/Machine/Idle.lean ====
section
/-!
DEFINITION. What the block does when no command waits: one TCLK passes (assumption log 4).
-/
namespace Sys2Proof
namespace Machine

/-- One TCLK of 1 ns passes. -/
def State.idle (s : State) : State := s.pass 1

end Machine
end Sys2Proof
end

