-- ==== Sys2Proof/Machine/Step.lean ====
section
/-!
DEFINITION. One step of the block: the command at the front of the queue, or one TCLK of time on an empty queue.
-/
namespace Sys2Proof
namespace Machine

/-- The state without its queue's front. -/
def State.withPending (s : State) (q : List Instr) : State := { s with pending := q }

/-- One step: `exec` of the command at the front, on the state with the queue's rest; on an empty queue one TCLK passes. -/
def step (s : State) : Host.Outcome State Fault Refusal :=
  match s.pending with
  | [] => .next s.idle
  | c :: q => exec c (s.withPending q)

/-- The state with the command a word spells at the front of its queue; unchanged where the word spells none. -/
def State.withFetchWord (s : State) (nbits w : Nat) : State :=
  match decodeTableWord nbits w with
  | some c => s.withPending (c :: s.pending)
  | none => s

end Machine
end Sys2Proof
end

