-- ==== Sys2Proof/Safety.lean ====
section
/-!
DEFINITION. What a well-kept state is: the canonical form of memory, far memory and registers, in which equal contents are equal data; and what
no command ever takes back.
-/
namespace Sys2Proof
namespace Machine

/-- The keys of a table rise strictly. -/
abbrev rising {α : Type} (t : Tab α) : Prop := t.Pairwise (fun a b => a.1 < b.1)

/-- The canonical form of memory: addresses strictly rising, no entry equal to what an unlisted address reads as. -/
abbrev Memory.wf (m : List Host.Cell) : Prop := rising m ∧ ∀ c ∈ m, c.2 ≠ memUnlisted

/-- The canonical form of a state: memory, far memory and registers. -/
abbrev State.Canon (s : State) : Prop := Memory.wf s.mem ∧ rising s.far ∧ rising s.regs

/-- What holds between a state and every later one: the canonical form is kept, the queue is the sender's alone, local time does not go back, nothing sent is
taken back, no free value or random byte is drawn twice, log entries keep counting up (R508), and fuses are only ever blown (R457). -/
structure State.Evolves (s t : State) : Prop where
  canon : s.Canon → t.Canon
  queue : t.pending = s.pending
  time : s.now ≤ t.now
  sent : s.sent <+: t.sent
  free : s.freeCtr ≤ t.freeCtr
  random : s.randCtr ≤ t.randCtr
  logged : s.store.logNext ≤ t.store.logNext
  part : t.fuses.part = s.fuses.part
  rollback : s.fuses.rollback ≤ t.fuses.rollback
  transfers : s.fuses.transfers ≤ t.fuses.transfers

/-- The parts of the state, as frames speak of them. Most are fields of `State`. Split off are the programs (`imem`), what contexts have waited (`waits`), the configuration in force (`cfg`), what unwritten
bytes of memory and the clear text of far memory depend on (`stamps`, `boot`), and of the persistent store the event log, the owner's entries, and the trip and retirement records. -/
inductive Part where
  | regs | mem | far | seq | waits | imem | tiers | stamps | links | sp | fj | keys | rind | fw | cle | kpu | eru | img | cfg | bud | host | pause | fuses | log | owner | trips | boot | pins | mgt | time | power | now | rack | boundaryNo | freeCtr | randCtr | sent | pending
deriving DecidableEq, Repr

/-- A part of the state is the same in two states. -/
def Part.Same (p : Part) (s t : State) : Prop := match p with
  | .regs => t.regs = s.regs
  | .mem => t.mem = s.mem
  | .far => t.far = s.far
  | .seq => (t.seq.ctx, t.seq.queue, t.seq.running, t.seq.ring, t.seq.slotFull, t.seq.issueNo, t.seq.lastIssued, t.seq.prescanned) =
      (s.seq.ctx, s.seq.queue, s.seq.running, s.seq.ring, s.seq.slotFull, s.seq.issueNo, s.seq.lastIssued, s.seq.prescanned)
  | .waits => t.seq.waited = s.seq.waited
  | .imem => t.seq.imem = s.seq.imem
  | .tiers => (t.tiers.ecc, t.tiers.lastRefresh, t.tiers.nextRefresh, t.tiers.began, t.tiers.windowEnd, t.tiers.copyAt, t.tiers.marginRun) =
      (s.tiers.ecc, s.tiers.lastRefresh, s.tiers.nextRefresh, s.tiers.began, s.tiers.windowEnd, s.tiers.copyAt, s.tiers.marginRun)
  | .stamps => (t.tiers.memKeys, t.tiers.keyEpoch, t.tiers.accStamp) =
      (s.tiers.memKeys, s.tiers.keyEpoch, s.tiers.accStamp)
  | .links => t.links = s.links
  | .sp => t.sp = s.sp
  | .fj => t.fj = s.fj
  | .keys => t.keys = s.keys
  | .rind => t.rind = s.rind
  | .fw => t.fw = s.fw
  | .cle => t.cle = s.cle
  | .kpu => t.kpu = s.kpu
  | .eru => t.eru = s.eru
  | .img => (t.img.words, t.img.kind, t.img.excess, t.img.run, t.img.pending) =
      (s.img.words, s.img.kind, s.img.excess, s.img.run, s.img.pending)
  | .cfg => (t.img.recs, t.img.baseDigest, t.img.overlays, t.img.cfg) =
      (s.img.recs, s.img.baseDigest, s.img.overlays, s.img.cfg)
  | .bud => t.bud = s.bud
  | .host => t.host = s.host
  | .pause => t.pause = s.pause
  | .fuses => t.fuses = s.fuses
  | .log => (t.store.log, t.store.logNext, t.store.logAt, t.store.logWrapped) =
      (s.store.log, s.store.logNext, s.store.logAt, s.store.logWrapped)
  | .owner => (t.store.ownerPub, t.store.ownerId, t.store.pendingOwner, t.store.dumpKey, t.store.leaseKey, t.store.orderCtr, t.store.certs, t.store.root, t.store.imageFloor, t.store.tokenHome, t.store.transfers, t.store.tagOk) =
      (s.store.ownerPub, s.store.ownerId, s.store.pendingOwner, s.store.dumpKey, s.store.leaseKey, s.store.orderCtr, s.store.certs, s.store.root, s.store.imageFloor, s.store.tokenHome, s.store.transfers, s.store.tagOk)
  | .trips => (t.store.trips, t.store.tripPending, t.store.retired) =
      (s.store.trips, s.store.tripPending, s.store.retired)
  | .boot => t.store.bootCount = s.store.bootCount
  | .pins => t.pins = s.pins
  | .mgt => t.mgt = s.mgt
  | .time => t.time = s.time
  | .power => t.power = s.power
  | .now => t.now = s.now
  | .rack => t.rack = s.rack
  | .boundaryNo => t.boundaryNo = s.boundaryNo
  | .freeCtr => t.freeCtr = s.freeCtr
  | .randCtr => t.randCtr = s.randCtr
  | .sent => t.sent = s.sent
  | .pending => t.pending = s.pending

/-- Between two states nothing but the listed parts differs. -/
def State.Touches (s : State) (ps : List Part) (t : State) : Prop := ∀ p : Part, ps.contains p = false → p.Same s t

/-- The frame of a command: the parts of the state outside which it changes nothing, whatever its operands and the state are. -/
def frameOf (c : Instr) : List Part := match c with
  | .anchorPrescan .. | .seqTestStep .. => [.seq]
  | .cmdPushBusy .. | .streamClearDropped .. | .lightLinePresent .. | .spLockDone .. | .ripeningDone | .pwrCapWrite .. | .timeOffsetUpdate .. | .clearRetire ..
    | .arrCanaryNow .. | .arrClearCounts .. | .arrInjectArm .. | .seqClearStall .. | .memClearCounts .. | .fmcClearCounts .. | .dlRestore .. | .dlClearCounts ..
    | .clkClearLow .. | .sguClearCounts .. | .spRestore .. | .spReenable .. | .spClearCounts .. | .fjClearCounts .. | .cleClearCounts .. | .cleInjectResidue ..
    | .kpuClearCounts .. | .kpuFullNext .. | .eruClearCounts .. | .rindClearCounts .. | .mgtClearCounts .. | .pinClearCounts .. => [.regs]
  | .absentUnitAccess .. => [.regs, .sent]
  | .bar0BadAccess .. => [.host, .sent]
  | .budgetExhausted .. | .budClearCounts .. => [.regs, .bud]
  | .imgBegin .. | .imgCommit .. | .imgAbort .. => [.regs, .img]
  | .cmdNop .. | .start .. | .snapshotNow .. | .moduleReset .. | .dumpOpen .. | .cmdUnknownOpcode .. | .streamWrite .. | .perstRelease .. | .d3coldEntry ..
    | .hostLinkDown .. | .hostLinkUp .. => [.regs, .host]
  | .spFecLockDone .. | .receivedLightAboveLos .. => [.regs, .sp]
  | .linkRekey .. => [.sp, .sent]
  | .alertAsserted | .alertRemoved | .alertRearm .. => [.regs, .mgt]
  | .marginStart .. => [.regs, .tiers]
  | .mboxBegin .. | .mboxInWrite .. | .mboxCommit .. | .mboxAbort .. | .mboxBadMessage .. | .chanStatus .. => [.regs, .rind]
  | .rackclkRestored => [.regs, .time]
  | .jtagAccess .. => [.freeCtr, .sent]
  | .nop .. | .tdset .. | .bld .. | .bst .. | .xld .. | .xst .. | .mma .. | .vop .. | .rsend .. | .sout .. | .jst .. | .jld .. | .jat .. | .fence .. | .coll .. | .wait ..
    | .brc .. | .snap .. | .step .. | .loop .. | .br .. | .halt .. => [.regs, .seq, .waits]
  | .imgDataWrite .. => [.regs, .img, .sent]
  | .apply .. => [.regs, .img, .host]
  | .tokenNonce .. => [.regs, .host, .randCtr]
  | .cmdComplete .. | .streamRead .. | .hlcSig .. => [.regs, .host, .sent]
  | .store .. | .load .. | .atomic .. | .drain .. | .fjTransit .. => [.regs, .sp, .fj]
  | .mboxOutRead .. => [.regs, .rind, .sent]
  | .attest .. => [.regs, .rind, .randCtr]
  | .ownerEnrol .. | .keyInstall .. => [.regs, .rind, .owner]
  | .fwBegin .. | .fwData .. | .fwEnd .. => [.regs, .rind, .fw]
  | .ringSlotComplete .. => [.regs, .seq, .host, .sent]
  | .stop .. => [.regs, .seq, .img, .host]
  | .testEnter .. => [.regs, .host, .log, .sent]
  | .perstAccepted .. | .functionLevelReset .. | .d3coldExit .. => [.regs, .img, .host, .sent]
  | .spTrainingDone .. | .spBringupTimeout .. | .lattest .. => [.regs, .sp, .log, .sent]
  | .tripAck .. => [.regs, .trips, .pins, .sent]
  | .ownerTransfer .. => [.regs, .rind, .fuses, .owner]
  | .chanClose .. => [.regs, .rind, .host, .sent]
  | .pldmMessage .. => [.regs, .fw, .mgt, .sent]
  | .sig .. => [.regs, .seq, .waits, .host, .sent]
  | .tokenClaim .. => [.regs, .img, .host, .owner, .sent]
  | .spBackoffExpiry .. | .leaseExpiry | .alertLatched | .slewComplete => [.regs, .waits, .time, .now, .rack]
  | .ident .. | .lhello .. => [.regs, .sp, .log, .randCtr, .sent]
  | .spFrameRx .. | .widthOrder .. | .spLaneFail .. | .spRetrainDone .. | .spTestFail .. => [.regs, .sp, .fj, .log, .sent]
  | .lease .. | .mgmt .. => [.regs, .links, .sp, .fj, .bud]
  | .strapChange .. => [.regs, .log, .pins, .mgt, .sent]
  | .patrolScrub .. => [.regs, .tiers, .bud, .log, .sent]
  | .sguSynthesisFrame .. => [.regs, .rind, .host, .freeCtr, .sent]
  | .chanOpen .. => [.regs, .rind, .host, .randCtr, .sent]
  | .rrel .. => [.regs, .seq, .waits, .host, .log, .sent]
  | .nonceExpiry .. => [.regs, .waits, .host, .time, .now, .rack]
  | .mapDataRead .. => [.regs, .tiers, .links, .bud, .log, .sent]
  | .xbarGrant .. => [.regs, .links, .sp, .fj, .bud, .sent]
  | .lfinish .. => [.regs, .sp, .fj, .kpu, .log, .sent]
  | .parkTimeout .. | .fjRetry .. => [.regs, .waits, .fj, .time, .now, .rack]
  | .dramRefresh .. | .fmcErrorWindow .. => [.regs, .waits, .tiers, .time, .now, .rack]
  | .alertScaleRelease | .governorCheck .. => [.regs, .waits, .mgt, .time, .now, .rack]
  | .haunoTimer .. => [.regs, .waits, .time, .now, .rack, .sent]
  | .msixModerationEnd .. => [.regs, .waits, .host, .time, .now, .rack, .sent]
  | .identSend .. => [.regs, .waits, .sp, .time, .now, .rack, .sent]
  | .kreq .. => [.regs, .links, .sp, .fj, .keys, .bud, .randCtr]
  | .rackclkLost | .tickTimeout => [.regs, .waits, .log, .time, .now, .rack, .sent]
  | .attestRetry .. => [.regs, .waits, .sp, .time, .now, .rack, .randCtr, .sent]
  | .spCreditWatchdog .. => [.regs, .waits, .sp, .log, .time, .now, .rack, .sent]
  | .keyDrop .. | .kresp .. => [.regs, .links, .sp, .fj, .keys, .bud, .log, .sent]
  | .refreshStepDown .. => [.regs, .waits, .tiers, .mgt, .time, .now, .rack, .sent]
  | .hotStateReturn .. | .powerWindowEnd .. => [.regs, .waits, .log, .mgt, .time, .now, .rack, .sent]
  | .racktickEdge .. => [.regs, .waits, .log, .time, .now, .rack, .boundaryNo, .sent]
  | .marginDone .. => [.regs, .far, .waits, .tiers, .stamps, .time, .now, .rack]
  | .unitInstructionComplete .. => [.regs, .seq, .links, .fj, .cle, .bud, .host, .log, .sent]
  | .teardown .. => [.regs, .seq, .fj, .cle, .img, .bud, .host, .log, .sent]
  | .spUncWindow .. | .spStallLimit .. => [.regs, .waits, .sp, .fj, .log, .time, .now, .rack, .sent]
  | .loadRsp .. | .atomicRsp .. => [.regs, .mem, .far, .tiers, .links, .sp, .fj, .kpu, .bud]
  | .standInOrder .. => [.regs, .tiers, .links, .sp, .fj, .kpu, .bud, .log, .sent]
  | .keyLead .. | .keyFetch .. => [.regs, .links, .sp, .fj, .keys, .bud, .log, .randCtr, .sent]
  | .loadTimeout .. => [.regs, .seq, .waits, .tiers, .fj, .time, .now, .rack, .sent]
  | .mgcWatchdog | .mgcSramUncorrectable .. | .internalParityError .. => [.regs, .seq, .sp, .fj, .pause, .log, .pins, .mgt, .sent]
  | .ack .. => [.regs, .tiers, .links, .sp, .fj, .kpu, .bud, .host, .log, .sent]
  | .teardownPacket .. => [.regs, .seq, .links, .sp, .fj, .cle, .bud, .host, .log, .sent]
  | .kreqRetry .. => [.regs, .waits, .fj, .keys, .log, .time, .now, .rack, .randCtr, .sent]
  | .retireCopyDone .. => [.regs, .far, .waits, .tiers, .bud, .log, .time, .now, .rack, .sent]
  | .sguAnalysisFrame .. => [.regs, .mem, .far, .seq, .tiers, .links, .kpu, .bud, .host, .sent]
  | .canaryDone .. => [.regs, .seq, .waits, .fw, .img, .bud, .log, .time, .now, .rack, .sent]
  | .mapDataWrite .. => [.regs, .mem, .far, .tiers, .links, .fj, .kpu, .eru, .bud, .log, .sent]
  | .stepDeadline .. => [.regs, .seq, .waits, .fj, .cle, .bud, .log, .time, .now, .rack, .sent]
  | .debugUnlock .. => [.regs, .far, .stamps, .sp, .fj, .keys, .rind, .fuses, .log, .owner, .sent]
  | .linkFlitRx .. | .linkRetrainDone .. => [.regs, .mem, .far, .seq, .tiers, .links, .fj, .cle, .kpu, .bud, .log, .sent]
  | .nack .. => [.regs, .seq, .tiers, .links, .sp, .fj, .kpu, .eru, .bud, .host, .log, .sent]
  | .ingressApply .. => [.regs, .mem, .far, .tiers, .links, .fj, .kpu, .eru, .bud, .host, .log, .sent]
  | .pairRetry => [.regs, .waits, .tiers, .links, .fj, .kpu, .bud, .log, .time, .now, .rack, .sent]
  | .dumpComplete => [.regs, .mem, .far, .tiers, .kpu, .eru, .bud, .log, .mgt, .freeCtr, .randCtr, .sent]
  | .dieReloadDone .. => [.regs, .seq, .waits, .imem, .links, .img, .host, .log, .mgt, .time, .now, .rack, .sent]
  | .dieClockLoss .. | .neighbourClockLoss .. | .aclkLoss .. | .linkLaneFail .. | .lightLineLost .. | .dlTestFail .. => [.regs, .seq, .links, .sp, .fj, .cle, .img, .bud, .host, .pause, .log, .mgt, .sent]
  | .ackTimeout .. => [.regs, .waits, .tiers, .links, .fj, .kpu, .eru, .bud, .log, .time, .now, .rack, .sent]
  | .collAnchor .. | .collReduce .. | .collGather .. | .collDone .. | .collCommit .. | .collAbort .. => [.regs, .mem, .far, .seq, .tiers, .links, .sp, .fj, .cle, .kpu, .bud, .log, .sent]
  | .pair .. | .pairReply .. | .page .. | .record .. | .seal .. | .journal .. | .delta .. | .fetch .. | .rebuild .. | .resync .. => [.regs, .mem, .far, .tiers, .links, .sp, .fj, .kpu, .eru, .bud, .log, .freeCtr, .sent]
  | .streamWordDeliver .. => [.regs, .mem, .far, .seq, .tiers, .links, .fj, .rind, .kpu, .eru, .bud, .host, .log, .sent]
  | .haunoAccess .. => [.regs, .mem, .far, .tiers, .links, .fj, .kpu, .eru, .bud, .host, .log, .time, .freeCtr, .sent]
  | .budgetPeriodBoundary => [.regs, .mem, .far, .seq, .waits, .tiers, .links, .fj, .cle, .kpu, .bud, .log, .time, .now, .rack, .sent]
  | .bootReady => [.regs, .seq, .links, .sp, .fj, .fw, .cle, .img, .bud, .host, .pause, .fuses, .log, .pins, .mgt, .sent]
  | .laneErrorWindow .. => [.regs, .seq, .waits, .links, .sp, .fj, .cle, .img, .bud, .host, .pause, .log, .mgt, .time, .now, .rack, .sent]
  | .unitInstructionStart .. => [.regs, .mem, .far, .seq, .tiers, .stamps, .links, .fj, .rind, .cle, .kpu, .eru, .img, .bud, .host, .log, .freeCtr, .sent]
  | .converterSelfTest .. => [.regs, .seq, .waits, .links, .sp, .fj, .cle, .img, .bud, .host, .pause, .log, .pins, .mgt, .time, .now, .rack, .sent]
  | .dieReset .. => [.regs, .mem, .far, .seq, .waits, .imem, .tiers, .stamps, .links, .sp, .fj, .cle, .img, .bud, .host, .pause, .log, .mgt, .sent]
  | .replayBoundary => [.regs, .far, .seq, .imem, .tiers, .stamps, .links, .sp, .fj, .cle, .kpu, .eru, .img, .cfg, .bud, .host, .log, .boundaryNo, .freeCtr, .randCtr, .sent]
  | .imgCheckDone => [.regs, .far, .seq, .imem, .tiers, .stamps, .links, .sp, .fj, .cle, .kpu, .eru, .img, .cfg, .bud, .host, .log, .owner, .boundaryNo, .freeCtr, .randCtr, .sent]
  | .applyCheckDone | .applyRecheckDone => [.regs, .far, .seq, .imem, .tiers, .stamps, .links, .sp, .fj, .cle, .kpu, .eru, .img, .cfg, .bud, .host, .pause, .log, .boundaryNo, .freeCtr, .randCtr, .sent]
  | .snapshotStagingDone => [.regs, .mem, .far, .seq, .imem, .tiers, .stamps, .links, .sp, .fj, .cle, .kpu, .eru, .img, .cfg, .bud, .host, .pause, .log, .boundaryNo, .freeCtr, .randCtr, .sent]
  | .coreParked .. => [.regs, .mem, .far, .seq, .imem, .tiers, .stamps, .links, .sp, .fj, .cle, .kpu, .eru, .img, .cfg, .bud, .host, .pause, .log, .trips, .mgt, .boundaryNo, .freeCtr, .randCtr, .sent]
  | .registerWrite .. => [.regs, .mem, .far, .seq, .waits, .imem, .tiers, .stamps, .links, .sp, .fj, .rind, .cle, .kpu, .eru, .img, .bud, .host, .pause, .log, .owner, .trips, .pins, .mgt, .randCtr, .sent]
  | .routingBankRetry => [.regs, .far, .seq, .waits, .imem, .tiers, .stamps, .links, .sp, .fj, .cle, .kpu, .eru, .img, .cfg, .bud, .host, .pause, .log, .time, .now, .rack, .boundaryNo, .freeCtr, .randCtr, .sent]
  | .stepBoundary => [.regs, .mem, .far, .seq, .waits, .imem, .tiers, .stamps, .links, .sp, .fj, .rind, .cle, .kpu, .eru, .img, .cfg, .bud, .host, .pause, .log, .time, .now, .rack, .boundaryNo, .freeCtr, .randCtr, .sent]
  | .inputPowerFail .. | .auxPowerFail | .auxPowerUp | .modResetAccepted => [.regs, .mem, .far, .seq, .waits, .imem, .tiers, .stamps, .links, .sp, .fj, .keys, .rind, .fw, .cle, .kpu, .eru, .img, .cfg, .bud, .host, .pause, .log, .owner, .trips, .boot, .pins, .mgt, .time, .power, .rack, .boundaryNo, .sent]
  | .moduleResetExecute | .sensorSample .. | .tripRestart | .inputPowerRestored .. | .updateWatchdog | .modResetRelease .. => [.regs, .mem, .far, .seq, .waits, .imem, .tiers, .stamps, .links, .sp, .fj, .keys, .rind, .fw, .cle, .kpu, .eru, .img, .cfg, .bud, .host, .pause, .log, .owner, .trips, .boot, .pins, .mgt, .time, .power, .now, .rack, .boundaryNo, .sent]

/-- Every byte of memory reads as before; of far memory, which holds cipher text (R167), under the same keys. -/
def State.SameMemory (s t : State) : Prop := (∀ a, t.memRd a = s.memRd a) ∧ (∀ a, t.farRd a = s.farRd a) ∧ t.tiers.memKeys = s.tiers.memKeys

/-- Between two states only the registers at the listed keys differ. -/
def State.RegsOnly (s t : State) (ks : List Nat) : Prop := t = { s with regs := t.regs } ∧ ∀ k, k ∉ ks → t.rd k = s.rd k

/-- A register's field holds a value, and the register's bits outside the field are as before. -/
def State.FieldSet (s t : State) (k : Nat) (f : Fld) (v : Nat) : Prop :=
  t.fg k f = v ∧ ∀ i, i < f.lo ∨ f.lo + f.w ≤ i → (t.rd k).getLsbD i = (s.rd k).getLsbD i

/-- The listed registers read zero, and nothing else differs. -/
def State.Zeroes (s t : State) (ks : List Nat) : Prop := (∀ k ∈ ks, t.rd k = 0) ∧ s.RegsOnly t ks

/-- One field of one register takes a value, and nothing else differs. -/
def State.SetsOnly (s t : State) (k : Nat) (f : Fld) (v : Nat) : Prop := s.FieldSet t k f v ∧ s.RegsOnly t [k]

/-- One context moved: its state, its next index and its loops are these; every other context, every queue and all of memory are as before. -/
def State.Moved (s t : State) (x st pc : Nat) (loops : List LoopSt) : Prop :=
  t.ctxState x = st ∧ t.ctxPc x = pc ∧ (t.ctx x).loops = loops ∧
  (∀ y, y < 128 → y ≠ x → t.ctxState y = s.ctxState y ∧ t.ctxPc y = s.ctxPc y ∧ (t.ctx y).loops = (s.ctx y).loops ∧ (t.ctx y).tds = (s.ctx y).tds) ∧
  t.seq.queue = s.seq.queue ∧ s.SameMemory t

/-- R291: a pushed command is BUSY with its opcode and tag, its arguments and payload are copied, and it has its outcome or waits for it. -/
def State.Pushed (s t : State) (port op tag : Nat) (out : Option (Nat × List Word)) : Prop :=
  t.fg (R.HP_CMD_STATUS port) F.HP_CMD_STATUS_state = 1 ∧ t.fg (R.HP_CMD_STATUS port) F.HP_CMD_STATUS_opcode = op % 256 ∧
  t.fg (R.HP_CMD_STATUS port) F.HP_CMD_STATUS_tag = tag % 2 ^ 16 ∧
  tget t.host.cmd port = some ⟨op, tag % 2 ^ 16, (List.range 8).map (fun i => s.rd (R.HP_CMD_ARG port i)), (List.range 32).map (fun i => s.rd (R.HP_CMD_PAYLOAD port i)),
    (out.getD (0, [])).1, (out.getD (0, [])).2, out.isSome⟩

/-- Between two states only a command slot of a host port and its status register differ. -/
def State.OnlyCommand (s t : State) (port : Nat) : Prop :=
  t = { s with regs := t.regs, host := { s.host with cmd := t.host.cmd } } ∧ (∀ k, k ≠ R.HP_CMD_STATUS port → t.rd k = s.rd k) ∧
  ∀ p, p ≠ port → tget t.host.cmd p = tget s.host.cmd p

/-- Nothing volatile is held: no byte of any memory, no image, no program, no command, no job key, no link key. -/
def State.Blank (t : State) : Prop :=
  t.mem = [] ∧ t.far = [] ∧ t.img.recs = none ∧ t.img.cfg = [] ∧ t.img.overlays = [] ∧ t.seq.imem = [] ∧ t.seq.ctx = [] ∧ t.host.cmd = [] ∧ t.keys.job = [] ∧ t.keys.keep = none ∧ t.sp = []

/-- The boot record names slots A and B (R482). -/
def State.TwoSlots (s : State) : Prop := s.fw.active < 2 ∧ ∀ n, s.fw.next = some n → n < 2

/-- What every command keeps: the canonical form, a boot record that names slots A and B, and less than one slew step of time carried over (R539). -/
def State.Kept (s : State) : Prop := s.Canon ∧ s.TwoSlots ∧ s.time.acc < 10000

/-- Every component of the slot that the next start boots matches its table (R482 step 4). -/
def State.bootsWhole (s : State) : Bool := match s.fwAbandon.bootSlot with
  | some b => (s.fwAbandon.fwSlot b).parts
  | none => true

/-- R482, R532: a module start with a cause, after which another follows with cause 6 where a component fails; fuses stay, and the boot count rises. -/
def State.Started (s t : State) (cause : Nat) : Prop :=
  t.Blank ∧ t.mstate = MState.rennet ∧ t.fuses = s.fuses ∧ t.fg R.RST_STATUS F.RST_STATUS_cause = (if s.bootsWhole then cause else 6) ∧
  t.store.bootCount = (s.store.bootCount + if s.bootsWhole then 1 else 2) % 2 ^ 32 ∧ t.now = s.now

end Machine
end Sys2Proof
end

