-- ==== Sys2Proof/Certificates/Slice0/Obligations.lean ====
section
/-!
DEFINITION. The statements for the provers. Each docstring names the rules of the spec the statement is about; what rests on a choice of the model names its log entry.
-/
open Sys2Proof Sys2Proof.Machine

/-- The W1S command rows that clear counters (R79, R146, R183, R184, R211, R325, R371, R406, R451, R491, R519, R547): a write from a port that may give it
puts exactly the counters of its table to zero and changes nothing else. Rows of blocks that only the owner-host token's port may write need that port. The rows that set or clear a control or status field (R71, R79, R112, R147, R211, R216, R273, R326, R407, R451, R500) give the named fields the values of their tables and change nothing else, and the rows that act in TEST state only (R71, R147, R178, R407) act there. -/
def Obligations.CommandBitsActOnTheirFieldsOnly : Prop :=
  (∀ (s : State) (port : Nat), s.hostOn port = true →
    (∀ core, core < 32 → ∃ t, exec (.seqClearStall port core) s = .next t ∧ s.Zeroes t [R.SEQ_ARR_STALL (core / 4) (core % 4)]) ∧
    (∀ core, core < 32 → ∃ t, exec (.arrClearCounts port core) s = .next t ∧
      s.Zeroes t [R.ARR_CNT_CHECKED (core / 4) (core % 4), R.ARR_CNT_SKIP_SPECIAL (core / 4) (core % 4), R.ARR_CNT_SKIP_OVERFLOW (core / 4) (core % 4),
        R.ARR_CNT_SKIP_INEXACT (core / 4) (core % 4), R.ARR_CNT_SKIP_WIDE (core / 4) (core % 4), R.ARR_CNT_SPLIT (core / 4) (core % 4), R.ARR_CNT_RETRY (core / 4) (core % 4)]) ∧
    (∀ core, core < 32 → ∃ t, exec (.memClearCounts port core) s = .next t ∧ s.Zeroes t [R.MEM_SRAM_ECC (core / 4) (core % 4), R.MEM_BND_ECC (core / 4) (core % 4)]) ∧
    (∃ t, exec (.fmcClearCounts port) s = .next t ∧ s.Zeroes t ((List.range 24).flatMap fun st => (List.range 32).map fun ch => R.FMC_CH_ERR st ch)) ∧
    (∀ die, die < 8 → ∃ t, exec (.dlClearCounts port die) s = .next t ∧ s.Zeroes t [R.DL_DROP_CNT die, R.HL_RETRY_CNT die, R.NLE_RETRY_CNT die, R.NLW_RETRY_CNT die]) ∧
    (∃ t, exec (.rindClearCounts port) s = .next t ∧
      s.Zeroes t [R.RIND_CNT_REC_BAD, R.RIND_CNT_REC_DUP, R.RIND_CNT_RESYNC, R.RIND_CNT_ATT_FAIL, R.RIND_CNT_KEY_REFUSED, R.RIND_CNT_MBOX_REFUSED]) ∧
    (port = s.tokenPort →
      (∀ p, p < 16 → ∃ t, exec (.spClearCounts port p) s = .next t ∧
        s.Zeroes t [R.SP_CNT_REPLAY p, R.SP_CNT_FEC_CORR p, R.SP_CNT_FEC_UNC p, R.SP_CNT_WD p, R.SP_CNT_QDROP p, R.SP_CNT_DROP p, R.SP_CNT_BAD_IDENT p, R.SP_CNT_DOWN p]) ∧
      (∃ t, exec (.fjClearCounts port) s = .next t ∧
        s.Zeroes t [R.FJ_CNT_TX, R.FJ_CNT_RX, R.FJ_CNT_TRANSIT, R.FJ_CNT_FALLBACK, R.FJ_CNT_PARKED, R.FJ_CNT_PARK_FULL, R.FJ_CNT_PARK_EXPIRED, R.FJ_CNT_ACK_TIMEOUT,
          R.FJ_CNT_LOAD_TIMEOUT, R.FJ_CNT_NO_ROUTE, R.FJ_CNT_BAD_TAG, R.FJ_CNT_RETIRED, R.FJ_CNT_COMBINED, R.FJ_CNT_NACK_RX, R.FJ_CNT_REFUSED]) ∧
      (∃ t, exec (.cleClearCounts port) s = .next t ∧
        s.Zeroes t [R.CLE_CNT_CALLS, R.CLE_CNT_INEXACT, R.CLE_CNT_REPEAT, R.CLE_CNT_RESIDUE, R.CLE_CNT_TIMEOUT, R.CLE_CNT_ABORT_RX, R.CLE_CNT_STALE]) ∧
      (∃ t, exec (.kpuClearCounts port) s = .next t ∧
        s.Zeroes t [R.KPU_CNT_TAKEN, R.KPU_CNT_ABANDONED, R.KPU_CNT_SKIPPED, R.KPU_CNT_PAGES, R.KPU_CNT_JNL_STALL]) ∧
      (s.eruPresent = true → ∃ t, exec (.eruClearCounts port) s = .next t ∧ s.Zeroes t [R.ERU_CNT_DELTA, R.ERU_CNT_REBUILT, R.ERU_CNT_ROLLBACK]) ∧
      (∃ t, exec (.mgtClearCounts port) s = .next t ∧ s.Zeroes t [R.MGT_HUB_ECC, R.PMC_DENIED]) ∧
      (∃ t, exec (.pinClearCounts port) s = .next t ∧
        s.Zeroes t [R.PIN_CNT_TICK_EARLY, R.PIN_CNT_TICK_PHASE, R.PIN_CNT_TICK_WIDTH, R.PIN_CNT_HOLDOVER, R.PIN_CNT_RESET_SHORT, R.PIN_CNT_PERST_SHORT 0,
          R.PIN_CNT_PERST_SHORT 1, R.PIN_CNT_ALERT]))) ∧
  (∀ (s : State) (port : Nat), s.hostOn port = true →
    (∀ die, die < 8 → ∃ t, exec (.clkClearLow port die) s = .next t ∧ s.SetsOnly t (R.CLK_ACLK die) F.CLK_ACLK_low 0x7FF) ∧
    (∀ die, die < 8 → ∃ t, exec (.dlRestore port die) s = .next t ∧ s.SetsOnly t (R.DL_CTL die) F.DL_CTL_restore 1) ∧
    (∀ core, core < 32 → ∃ t, exec (.arrCanaryNow port core) s = .next t ∧
      s.FieldSet t (R.ARR_CTL (core / 4) (core % 4)) F.ARR_CTL_canary_now 1 ∧ s.FieldSet t (R.ARR_STATUS (core / 4) (core % 4)) F.ARR_STATUS_canary_pending 1 ∧
      s.RegsOnly t [R.ARR_CTL (core / 4) (core % 4), R.ARR_STATUS (core / 4) (core % 4)]) ∧
    (∃ t, exec (.budClearCounts port) s = .next t ∧ s.FieldSet t R.BUD_STATUS F.BUD_STATUS_unknown_act 0 ∧
      t.bud.ctr = s.bud.ctr.map (fun p => (p.1, { p.2 with gatedCount := 0, shown := 0 })) ∧
      t = { s with regs := t.regs, bud := { s.bud with ctr := t.bud.ctr } } ∧ ∀ k, k ≠ R.BUD_STATUS → t.rd k = s.rd k) ∧
    (port = s.tokenPort →
      (∀ p, p < 16 → ∃ t, exec (.spRestore port p) s = .next t ∧ s.SetsOnly t (R.SP_CTL p) F.SP_CTL_restore 1) ∧
      (∃ t, exec (.kpuFullNext port) s = .next t ∧ s.SetsOnly t R.KPU_CTL F.KPU_CTL_full_next 1) ∧
      (∃ t, exec (.alertRearm port) s = .next t ∧ t.fg R.MGT_STATUS F.MGT_STATUS_alert_latched = 0 ∧
        t = { s with regs := t.regs, mgt := { s.mgt with alerts := [] } } ∧ ∀ k, k ≠ R.MGT_STATUS → t.rd k = s.rd k) ∧
      (s.sguPresent = true → ∃ t, exec (.sguClearCounts port) s = .next t ∧
        (∀ c, c < 64 → t.fg (R.SGU_CH c) F.SGU_CH_frames = 0 ∧ t.fg (R.SGU_CH c) F.SGU_CH_dropped = 0 ∧ t.fg (R.SGU_CH c) F.SGU_CH_gaps = 0) ∧
        s.RegsOnly t ((List.range 64).map R.SGU_CH)))) ∧
  (∀ (s : State) (port : Nat), s.hostOn port = true → s.mstate = MState.test →
    (∀ core b col, core < 32 → b < 64 → col < 256 → ∃ t, exec (.arrInjectArm port core b col) s = .next t ∧
      t.fg (R.ARR_INJECT (core / 4) (core % 4)) F.ARR_INJECT_arm = 1 ∧ t.fg (R.ARR_INJECT (core / 4) (core % 4)) F.ARR_INJECT_bit = b ∧
      t.fg (R.ARR_INJECT (core / 4) (core % 4)) F.ARR_INJECT_column = col ∧ s.RegsOnly t [R.ARR_INJECT (core / 4) (core % 4)]) ∧
    (∀ core, core < 32 → ∃ t, exec (.seqTestStep port core) s = .next t ∧
      (∀ k, k < 4 → s.testHeld (4 * core + k) = true → (t.ctx (4 * core + k)).held = true) ∧
      (∀ x, x / 4 ≠ core → t.ctx x = s.ctx x) ∧ t = { s with seq := { s.seq with ctx := t.seq.ctx } }) ∧
    (∀ k, k < 24 → s.stackPresent k = true → ∃ t, exec (.clearRetire port k) s = .next t ∧ s.SetsOnly t (R.FMC_STK_STATUS k) F.FMC_STK_STATUS_clear_retire 1) ∧
    (port = s.tokenPort → ∃ t, exec (.cleInjectResidue port) s = .next t ∧ s.SetsOnly t R.CLE_CTL F.CLE_CTL_inject_residue 1))

/-- REGISTER_WRITE by the access codes (R14, R15, R9, R282), at one register of each code: HP_CMD_ARGi (RW) of the writing port takes a word, or the half a 4-byte write
reaches; the other port's write of it is ignored; GLB_STATUS.absent_access (W1C, R9) is cleared by writing 1 and kept by writing 0; GLB_ID (RO) does not change;
ARR_CTL.check_strict (RWL) takes the bit until an image is loaded and keeps its value from then on. Nothing else changes. -/
def Obligations.RegisterWriteFollowsTheAccessCodes : Prop :=
  ∀ (s : State) (port data : Nat), s.hostOn port = true → data < 2 ^ 64 →
    (∀ i, i < 4 → ∃ t, exec (.registerWrite port (R.HP_CMD_ARG port i) 8 data) s = .next t ∧ (t.rd (R.HP_CMD_ARG port i)).toNat = data ∧ s.RegsOnly t [R.HP_CMD_ARG port i]) ∧
    (∀ i, i < 4 → data < 2 ^ 32 → ∃ t, exec (.registerWrite port (R.HP_CMD_ARG port i + 4) 4 data) s = .next t ∧
      (t.rd (R.HP_CMD_ARG port i)).toNat = data * 2 ^ 32 + (s.rd (R.HP_CMD_ARG port i)).toNat % 2 ^ 32 ∧ s.RegsOnly t [R.HP_CMD_ARG port i]) ∧
    (∀ i, i < 4 → exec (.registerWrite port (R.HP_CMD_ARG (1 - port) i) 8 data) s = .next s) ∧
    (∃ t, exec (.registerWrite port R.GLB_STATUS 8 data) s = .next t ∧
      t.fg R.GLB_STATUS F.GLB_STATUS_absent_access = (if data.testBit F.GLB_STATUS_absent_access.lo then 0 else s.fg R.GLB_STATUS F.GLB_STATUS_absent_access) ∧
      s.FieldSet t R.GLB_STATUS F.GLB_STATUS_absent_access (t.fg R.GLB_STATUS F.GLB_STATUS_absent_access) ∧ s.RegsOnly t [R.GLB_STATUS]) ∧
    exec (.registerWrite port R.GLB_ID 8 data) s = .next s ∧
    (∀ d c, d < 8 → c < 4 → data < 2 → ∃ t, exec (.registerWrite port (R.ARR_CTL d c) 4 data) s = .next t ∧
      t.fg (R.ARR_CTL d c) F.ARR_CTL_check_strict = (if s.img.recs.isSome then s.fg (R.ARR_CTL d c) F.ARR_CTL_check_strict else data) ∧ s.RegsOnly t [R.ARR_CTL d c])

/-- The instructions a sequencer executes itself (R116, R118, R121, R122, R132, R134, R135): the context that the arbiter names executes the instruction at its index and moves
on, through the loops that end there (`afterLoops`); BR and a taken BRC go to their target and end the loops that do not hold it, LOOP begins its body, WAIT, SIG, BRC use
the counter as R132 says, SNAP and STEP park while a pause is asked for, and HALT makes the context IDLE. No other context, no queue and no memory changes. -/
def Obligations.SequencerInstructionsMoveTheirContext : Prop :=
  ∀ (s : State) (core ctx : Nat), core < 32 → ctx < 4 → s.arbiter core = some ctx →
    let x := 4 * core + ctx
    let w := s.nextWord x
    let pc := s.ctxPc x
    let loops := (s.ctx x).loops
    let nx := afterLoops pc loops
    let ended := loops.dropWhile (fun l => !(l.first ≤ bits w 16 12 && bits w 16 12 ≤ l.last))
    let ended' := loops.dropWhile (fun l => !(l.first ≤ bits w 64 12 && bits w 64 12 ≤ l.last))
    let j := bits w 16 5
    let v := bits w 32 32
    (wOp w = 0x00 → ∃ t, exec (.nop core ctx) s = .next t ∧ s.Moved t x 1 (nx.1 % 4096) nx.2) ∧
    (wOp w = 0x01 → ∃ t, exec (.tdset core ctx) s = .next t ∧ s.Moved t x 1 (nx.1 % 4096) nx.2 ∧ (t.ctx x).tds = tset (s.ctx x).tds j w) ∧
    (wOp w = 0x70 → ∃ t, exec (.wait core ctx) s = .next t ∧ s.Moved t x 1 (nx.1 % 4096) nx.2 ∧ v ≤ s.cnt core j ∧
      t.cnt core j = (if bit w 21 then s.cnt core j - v else s.cnt core j)) ∧
    (wOp w = 0x71 → ∃ t, exec (.sig core ctx) s = .next t ∧ s.Moved t x 1 (nx.1 % 4096) nx.2 ∧
      ((∀ r ∈ recsOf s.img.cfg RT.stream, r.at 22 1 ≠ core ∨ r.at 24 1 % 32 ≠ j) → t.cnt core j = min (s.cnt core j + v) (2 ^ 32 - 1))) ∧
    (wOp w = 0x72 → ∃ t, exec (.brc core ctx) s = .next t ∧ t.cnt core j = s.cnt core j ∧
      (if v ≤ s.cnt core j then s.Moved t x 1 (bits w 64 12) ended' else s.Moved t x 1 (nx.1 % 4096) nx.2)) ∧
    (wOp w = 0x78 → ∃ t, exec (.snap core ctx) s = .next t ∧ s.Moved t x (if s.pauseAsked core then 3 else 1) (nx.1 % 4096) nx.2) ∧
    (wOp w = 0x79 → ∃ t, exec (.step core ctx) s = .next t ∧ s.Moved t x (if s.pauseAsked core then 3 else 2) (nx.1 % 4096) nx.2 ∧ (t.ctx x).atStep = true) ∧
    (wOp w = 0x7C → ∃ t, exec (.loop core ctx) s = .next t ∧ s.Moved t x 1 ((pc + 1) % 4096) (⟨pc + 1, bits w 40 12, bits w 16 24 - 1⟩ :: loops)) ∧
    (wOp w = 0x7D → ∃ t, exec (.br core ctx) s = .next t ∧ s.Moved t x 1 (bits w 16 12) ended) ∧
    (wOp w = 0x7E → ∃ t, exec (.halt core ctx) s = .next t ∧ s.Moved t x 0 pc loops)

/-- Where a sequencer waits instead (R118, R123, R132, R135, R368): a WAIT below its value, a unit instruction whose ring has no complete slot, and, while the module is HELD,
a remote or collective instruction leave the context where it is, BLOCKED, or PARKED if a pause is asked for. -/
def Obligations.BlockedInstructionsWaitOrPark : Prop :=
  ∀ (s : State) (core ctx : Nat), core < 32 → ctx < 4 → s.canLook (4 * core + ctx) = true →
    let x := 4 * core + ctx
    let w := s.nextWord x
    let waits (t : State) : Prop := s.Moved t x (if s.pauseAsked core then 3 else 2) (s.ctxPc x) (s.ctx x).loops ∧ s.RegsOnly t [ctxReg x]
    (wOp w = 0x70 → s.cnt core (bits w 16 5) < bits w 32 32 → ∃ t, exec (.wait core ctx) s = .next t ∧ waits t) ∧
    (s.wDescs x w = none → (wOp w = 0x20 → ∃ t, exec (.mma core ctx) s = .next t ∧ waits t) ∧ (wOp w = 0x30 → ∃ t, exec (.vop core ctx) s = .next t ∧ waits t) ∧
      (wOp w = 0x08 → ∃ t, exec (.bld core ctx) s = .next t ∧ waits t) ∧ (wOp w = 0x0A → ∃ t, exec (.xld core ctx) s = .next t ∧ waits t)) ∧
    (s.heldNow = true → (wOp w = 0x50 → ∃ t, exec (.jst core ctx) s = .next t ∧ waits t) ∧ (wOp w = 0x51 → ∃ t, exec (.jld core ctx) s = .next t ∧ waits t) ∧
      (wOp w = 0x52 → ∃ t, exec (.jat core ctx) s = .next t ∧ waits t) ∧ (wOp w = 0x60 → ∃ t, exec (.coll core ctx) s = .next t ∧ waits t))

/-- Issue into a unit's queue (R117, R119): the context the arbiter names puts its instruction, with the descriptors captured now, at the end of the unit's queue, which had
room, and moves on. RREL (R143): the head slot of the ring is freed; on a ring that holds no complete slot the context stops with OUT_OF_RANGE. -/
def Obligations.UnitInstructionsIssueAndRrelFrees : Prop :=
  (∀ (s : State) (core ctx : Nat), core < 32 → ctx < 4 → s.arbiter core = some ctx →
    let x := 4 * core + ctx
    let w := s.nextWord x
    let nx := afterLoops (s.ctxPc x) (s.ctx x).loops
    let issues (u : Nat) (t : State) : Prop :=
      (s.queue core u).length < 4 ∧ (∃ q : QIns, t.queue core u = s.queue core u ++ [q] ∧ q.core = core ∧ q.ctx = ctx ∧ q.pc = s.ctxPc x ∧ q.word = w ∧ q.act = s.ctxAct x ∧
        q.no = s.seq.issueNo ∧ some q.descs = s.wDescs x w) ∧
      (∀ k, k ≠ 8 * core + u → tgetD t.seq.queue k [] = tgetD s.seq.queue k []) ∧ t.seq.issueNo = s.seq.issueNo + 1 ∧
      t.ctxState x = 1 ∧ t.ctxPc x = nx.1 % 4096 ∧ (t.ctx x).loops = nx.2 ∧ t.seq.running = s.seq.running ∧ s.SameMemory t
    (wOp w = 0x08 → ∃ t, exec (.bld core ctx) s = .next t ∧ issues 2 t) ∧
    (wOp w = 0x09 → ∃ t, exec (.bst core ctx) s = .next t ∧ issues 2 t) ∧
    (wOp w = 0x0A → ∃ t, exec (.xld core ctx) s = .next t ∧ issues 2 t) ∧
    (wOp w = 0x0B → ∃ t, exec (.xst core ctx) s = .next t ∧ issues 2 t) ∧
    (wOp w = 0x20 → ∃ t, exec (.mma core ctx) s = .next t ∧ issues 0 t) ∧
    (wOp w = 0x30 → ∃ t, exec (.vop core ctx) s = .next t ∧ issues 1 t) ∧
    (wOp w = 0x40 → ∃ t, exec (.rsend core ctx) s = .next t ∧ issues 4 t) ∧
    (wOp w = 0x42 → ∃ t, exec (.sout core ctx) s = .next t ∧ issues 4 t) ∧
    (wOp w = 0x50 → ∃ t, exec (.jst core ctx) s = .next t ∧ issues 5 t) ∧
    (wOp w = 0x51 → ∃ t, exec (.jld core ctx) s = .next t ∧ issues 5 t) ∧
    (wOp w = 0x52 → ∃ t, exec (.jat core ctx) s = .next t ∧ issues 5 t) ∧
    (wOp w = 0x58 → ∃ t, exec (.fence core ctx) s = .next t ∧ issues 5 t) ∧
    (wOp w = 0x60 → ∃ t, exec (.coll core ctx) s = .next t ∧ issues 6 t)) ∧
  (∀ (s : State) (core ctx : Nat) (c : RingCfg), core < 32 → ctx < 4 → s.arbiter core = some ctx → wOp (s.nextWord (4 * core + ctx)) = 0x41 →
    let x := 4 * core + ctx
    let id := 16 * core + bits (s.nextWord x) 16 4
    ringCfg s.img.cfg id = some c →
    ∃ t, exec (.rrel core ctx) s = .next t ∧
      (if s.ringUsed id = 0 then t.ctxState x = 4 ∧ t.fg (ctxReg x) F.SEQ_CTX_STATUS_code = Code.outOfRange ∧ t.seq.ring = s.seq.ring
       else t.ringUsed id = s.ringUsed id - 1 ∧ (t.ring id).head = ((s.ring id).head + 1) % c.slots ∧ t.ctxState x = 1 ∧
         t.ctxPc x = (afterLoops (s.ctxPc x) (s.ctx x).loops).1 % 4096))

/-- The head of a unit's queue starts (R119, R120, R127): it leaves the queue and runs in the unit's slot; the vector, move and route units keep it there to be completed.
A load or store of bonded memory by the move engine, met with no ECC error, makes every byte of the destination rows, which lie inside the core's SRAM (or slice) and
not on one another, the byte of the source rows, and no other byte of memory changes; a load from far memory that R169 and R201 do not refuse gives the clear text of its interleave domain (R167)
to the destination rows, and no domain's contents change. Where it settles what the spec leaves open, the choice is the model's (assumption log 58). -/
def Obligations.StartedCopiesMoveTheirRows : Prop :=
  ∀ (s : State) (core : Nat) (env : UnitEnv) (q : QIns) (rest : List QIns) (d : Desc), s.Canon →
    s.queue core 2 = q :: rest → s.canStart core 2 = true → q.core = core → q.descs = [d] → env.upsets = [] → s.tiers.ecc = [] →
    let n := packedRow d.fmt d.cols
    let o := moveOff q.word
    let runs (t : State) : Prop := t.queue core 2 = rest ∧ ∃ r : QIns, t.running core 2 = some r ∧ r.code = Code.ok ∧ r.word = q.word ∧ r.no = q.no ∧ r.ctx = q.ctx
    (wOp q.word = 0x08 → d.base + (d.rows - 1) * d.stride + n ≤ 2 ^ 27 → (n ≤ d.stride ∨ d.rows ≤ 1) →
      ∃ t, exec (.unitInstructionStart core 2 env) s = .next t ∧ runs t ∧
        (∀ r i, r < d.rows → i < n → t.memRd (sramKey core (d.base + r * d.stride + i)) = s.memRd (bondKey core (o.1 + r * o.2 + i))) ∧
        (∀ a, (∀ r i, r < d.rows → i < n → a ≠ sramKey core (d.base + r * d.stride + i)) → t.memRd a = s.memRd a)) ∧
    (wOp q.word = 0x09 → (n ≤ o.2 ∨ d.rows ≤ 1) →
      ∃ t, exec (.unitInstructionStart core 2 env) s = .next t ∧ runs t ∧
        (d.base + (d.rows - 1) * d.stride + n ≤ 2 ^ 27 → ∀ r i, r < d.rows → i < n → t.memRd (bondKey core (o.1 + r * o.2 + i)) = s.memRd (sramKey core (d.base + r * d.stride + i))) ∧
        (∀ a, (∀ r i, r < d.rows → i < n → a ≠ bondKey core (o.1 + r * o.2 + i)) → t.memRd a = s.memRd a)) ∧
    (wOp q.word = 0x0A → s.farApart core (bits q.word 21 4) = false → s.farRefusal (bits q.word 21 4) o.1 ((d.rows - 1) * o.2 + n) = Code.ok →
      d.base + (d.rows - 1) * d.stride + n ≤ 2 ^ 27 → (n ≤ d.stride ∨ d.rows ≤ 1) →
      ∃ t, exec (.unitInstructionStart core 2 env) s = .next t ∧ t.queue core 2 = rest ∧ (∃ r : QIns, t.running core 3 = some r ∧ r.code = Code.ok ∧ r.word = q.word ∧ r.no = q.no) ∧
        (∀ r i, r < d.rows → i < n → t.memRd (sramKey core (d.base + r * d.stride + i)) = s.farPlain (bits q.word 21 4) (o.1 + r * o.2 + i)) ∧
        (∀ a, (∀ r i, r < d.rows → i < n → a ≠ sramKey core (d.base + r * d.stride + i)) → t.memRd a = s.memRd a) ∧ ∀ i off, off < s.domSize i → t.farPlain i off = s.farPlain i off)

/-- A started VOP (R103-R106, R119, R125) with no ECC error: every element of D holds the function's result on the source elements of its place, where the spec states one (`vopElem`),
and no byte outside the rows of D changes; RSUM writes the sum of each source row, where the spec states one (`rsumElem`), as the first element of its row of D and ends INEXACT where a sum is inexact.
A started MMA (R62, R68, R119, R124) writes nothing but the rows of C and the accumulator area at the top of its core's SRAM, whether its check passes or not. Where it settles what the spec leaves open, the choice is the model's (assumption log 58, 64, 65 and 66). -/
def Obligations.StartedVopsAndMmasWriteTheirOutput : Prop :=
  (∀ (s : State) (core : Nat) (env : UnitEnv) (q : QIns) (rest : List QIns) (d : Desc) (srcs : List Desc), s.Canon →
    s.queue core 1 = q :: rest → s.canStart core 1 = true → q.core = core → q.descs = d :: srcs → env.upsets = [] → s.tiers.ecc = [] → bits q.word 36 8 ≠ 0x12 →
    d.base + (d.rows - 1) * d.stride + packedRow d.fmt d.cols ≤ 2 ^ 27 → (packedRow d.fmt d.cols ≤ d.stride ∨ d.rows ≤ 1) →
    ∃ t, exec (.unitInstructionStart core 1 env) s = .next t ∧ t.queue core 1 = rest ∧ (∃ r : QIns, t.running core 1 = some r ∧ r.code = Code.ok ∧ r.word = q.word) ∧
      (∀ r c v, r < d.rows → c < d.cols →
        vopElem (bits q.word 36 8) (bits q.word 44 2) d.fmt (srcs.map (fun x => x.fmt)) ((srcs.map (s.descRows core)).map (fun m => srcAt m r c 0))
          ((srcs.map (fun x => s.descNums core x true)).map (fun m => srcAt m r c .nan)) = some v →
        ((t.descRows core d).getD r []).getD c 0 = v % 2 ^ fmtBits d.fmt) ∧
      (∀ a, (∀ r i, r < d.rows → i < packedRow d.fmt d.cols → a ≠ sramKey core (d.base + r * d.stride + i)) → t.memRd a = s.memRd a)) ∧
  (∀ (s : State) (core : Nat) (env : UnitEnv) (q : QIns) (rest : List QIns) (d x : Desc), s.Canon →
    s.queue core 1 = q :: rest → s.canStart core 1 = true → q.core = core → q.descs = [d, x] → env.upsets = [] → s.tiers.ecc = [] → bits q.word 36 8 = 0x12 →
    d.base + (d.rows - 1) * d.stride + packedRow d.fmt 1 ≤ 2 ^ 27 → (packedRow d.fmt 1 ≤ d.stride ∨ d.rows ≤ 1) →
    let sum (r : Nat) : Option Nat × Bool :=
      rsumElem (bits q.word 44 2) x.fmt d.fmt ((s.descNums core x true).getD (if x.rows = 1 then 0 else r) (if x.fmt = 0x1F then [.nan] else []))
    ∃ t, exec (.unitInstructionStart core 1 env) s = .next t ∧ t.queue core 1 = rest ∧
      (∃ r : QIns, t.running core 1 = some r ∧ r.code = (if (List.range d.rows).any (fun i => (sum i).2) then Code.inexact else Code.ok) ∧ r.word = q.word) ∧
      (∀ r v, r < d.rows → (sum r).1 = some v → ((t.descRows core { d with cols := 1 }).getD r []).getD 0 0 = v % 2 ^ fmtBits d.fmt) ∧
      (∀ a, (∀ r i, r < d.rows → i < packedRow d.fmt 1 → a ≠ sramKey core (d.base + r * d.stride + i)) → t.memRd a = s.memRd a)) ∧
  (∀ (s : State) (core : Nat) (env : UnitEnv) (q : QIns) (rest : List QIns) (a b c : Desc), s.Canon →
    s.queue core 0 = q :: rest → s.canStart core 0 = true → q.core = core → q.descs = [a, b, c] →
    let m := (s.mmaCfg core q).m
    let n := (s.mmaCfg core q).n * (if bit q.word 75 then 2 else 1)
    (if c.colMajor then c.rows = n ∧ c.cols = m else c.rows = m ∧ c.cols = n) →
    ∃ t, exec (.unitInstructionStart core 0 env) s = .next t ∧
      ∀ x, isAcc x = false → (x < sramKey core (c.range (outBits (s.mmaCfg core q).out)).1 ∨ sramKey core (c.range (outBits (s.mmaCfg core q).out)).2 ≤ x) → t.memRd x = s.memRd x)

/-- Messages, fences, pre-scans and ring slots (R90, R119, R130, R143, R144, R354): a started RSEND puts its message at the start of the next slot of every destination ring, each on a core
of its own, and writes nothing else; a started FENCE records the packets issued so far of every pair it covers; a pre-scan records, for the MMA at the head of the array queue, what the anchors
rest on, namely the largest exponents of both operands as they stand, and only this; a filled ring slot becomes complete and its counter rises by 1. Where it settles what the spec leaves open, the choice is the model's (assumption log 115 and 128). -/
def Obligations.RouteFenceScanAndRingEvents : Prop :=
  (∀ (s : State) (core : Nat) (env : UnitEnv) (q : QIns) (rest : List QIns) (d : Desc), s.Canon → s.queue core 4 = q :: rest → s.canStart core 4 = true → q.core = core → q.descs = [d] →
    wOp q.word = 0x40 → env.upsets = [] → s.tiers.ecc = [] →
    let ids := s.rsendDests core q.word
    let msg := (s.descBytes core d).1
    let at_ (id : Nat) (c : RingCfg) : Nat := c.base + (s.ring id).fill * c.size
    ids.Pairwise (fun a b => a / 16 ≠ b / 16) → (∀ id ∈ ids, ∀ c, ringCfg s.img.cfg id = some c → at_ id c + msg.length ≤ 2 ^ 27) →
    ∃ t, exec (.unitInstructionStart core 4 env) s = .next t ∧ t.queue core 4 = rest ∧ (∃ r : QIns, t.running core 4 = some r ∧ r.code = Code.ok ∧ r.word = q.word) ∧
      (∀ id ∈ ids, ∀ c, ringCfg s.img.cfg id = some c →
        t.slotFull id = s.slotFull id + 1 ∧ (t.ring id).fill = ((s.ring id).fill + 1) % c.slots ∧ (t.ring id).head = (s.ring id).head ∧ t.ringUsed id = s.ringUsed id ∧
        t.memRdN (sramKey (id / 16) (at_ id c)) msg.length = msg) ∧
      (∀ a, (∀ id ∈ ids, ∀ c, ringCfg s.img.cfg id = some c → ∀ i, i < msg.length → a ≠ sramKey (id / 16) (at_ id c + i)) → t.memRd a = s.memRd a)) ∧
  (∀ (s : State) (core : Nat) (env : UnitEnv) (q : QIns) (rest : List QIns), s.queue core 5 = q :: rest → s.canStart core 5 = true → q.core = core → wOp q.word = 0x58 →
    ∃ t, exec (.unitInstructionStart core 5 env) s = .next t ∧ t.queue core 5 = rest ∧ (∃ r : QIns, t.running core 5 = some r ∧ r.code = Code.ok ∧ r.word = q.word) ∧
      t.fj = { s.fj with fences := s.fj.fences ++ [⟨core, q.no, (s.fj.pairs.filter (fun e => fenceCovers q e.1 e.2.users)).map (fun e => (e.1, e.2.issued))⟩] } ∧ s.SameMemory t) ∧
  (∀ (s : State) (core : Nat) (q : QIns) (rest : List QIns) (a b c : Desc), core < 32 → s.queue core 0 = q :: rest → q.descs = [a, b, c] → s.canPrescan core = true →
    s.coreDead core = false → s.scanned core = false →
    ∃ t, exec (.anchorPrescan core) s = .next t ∧ t.scanned core = true ∧
      tget t.seq.prescanned core = some (preScan q.no (s.mmaOperands core q a b).1 (s.mmaOperands core q a b).2) ∧ (∀ k, k ≠ core → tget t.seq.prescanned k = tget s.seq.prescanned k) ∧
      t = { s with seq := { s.seq with prescanned := t.seq.prescanned } }) ∧
  (∀ (s : State) (core ring : Nat) (c : RingCfg), core < 32 → ring < 16 → ringCfg s.img.cfg (16 * core + ring) = some c → 0 < s.slotFull (16 * core + ring) →
    ∃ t, exec (.ringSlotComplete core ring) s = .next t ∧ t.ringUsed (16 * core + ring) = (s.ringUsed (16 * core + ring) + 1) % 2 ^ 13 ∧
      t.slotFull (16 * core + ring) = s.slotFull (16 * core + ring) - 1 ∧
      (c.counter < 32 → (∀ r ∈ recsOf s.img.cfg RT.stream, r.at 22 1 ≠ core ∨ r.at 24 1 % 32 ≠ c.counter) → t.cnt core c.counter = min (s.cnt core c.counter + 1) (2 ^ 32 - 1)) ∧
      s.SameMemory t)

/-- Completion (R119, R120, R145): an instruction of the array, vector, move or route unit, or a fabric instruction other than FENCE, that waits for nothing more leaves its slot; with
OK or INEXACT it adds 1 to its completion counter where cen is set, and INEXACT shows in the context's status; any other code stops its context with that code. Where it settles what the spec leaves open, the choice is the model's (assumption log 58). -/
def Obligations.CompletedInstructionsCountOrStop : Prop :=
  ∀ (s : State) (core unit : Nat) (q : QIns), core < 32 → unit < 6 →
    let p := s.payOne (8 * core + unit)
    p.running core unit = some q → q.core = core → q.ctx < 4 → p.unitDone unit q = true → (unit = 5 → wOp q.word ≠ 0x58 ∧ p.jstTail q = none) →
    let x := 4 * core + q.ctx
    ∃ t, exec (.unitInstructionComplete core unit) s = .next t ∧ t.running core unit = none ∧ s.SameMemory t ∧
      (if q.code = Code.ok ∨ q.code = Code.inexact then
        t.ctxState x = s.ctxState x ∧ t.seq.queue = s.seq.queue ∧ (q.code = Code.inexact → t.fb (ctxReg x) F.SEQ_CTX_STATUS_inexact = true) ∧
        (if wCen q.word then
          (∀ r ∈ recsOf s.img.cfg RT.stream, r.at 22 1 ≠ core ∨ r.at 24 1 % 32 ≠ wCcnt q.word) → t.cnt core (wCcnt q.word) = min (s.cnt core (wCcnt q.word) + 1) (2 ^ 32 - 1)
         else t.cnt core (wCcnt q.word) = s.cnt core (wCcnt q.word))
       else t.ctxState x = 4 ∧ (s.ctxState x ≠ 4 → q.code < 256 → t.fg (ctxReg x) F.SEQ_CTX_STATUS_code = q.code ∧ ∀ u ∈ unitList, ∀ i ∈ t.queue core u, i.ctx ≠ q.ctx))

/-- Step boundaries (R134, R239, R240, R417, R419, R424, R485): a boundary comes at its rack time, is numbered, marked in the journal and shown to the Hauno cores. Where no pause
begins and HELD does not end there, contexts that waited at a STEP go on; where a snapshot is due that nothing skips, a pause begins, every working core is asked to park and the module enters SNAPSHOT. Where it settles what the spec leaves open, the choice is the model's (assumption log 12). -/
def Obligations.StepBoundariesPassOrBeginAPause : Prop :=
  ∀ (s : State), s.img.recs.isSome = true → stepPeriod s.img.cfg ≠ 0 → s.fb R.KPU_STATUS F.KPU_STATUS_replaying = false → 4 ≤ s.mstate → s.mstate ≤ 8 → s.host.starts = [] →
    s.time.offset = 0 →
    let due := max s.rack (stepPhase s.img.cfg + s.boundaryNo * stepPeriod s.img.cfg)
    ∃ t, exec .stepBoundary s = .next t ∧ t.boundaryNo = s.boundaryNo + 1 ∧ t.rack = due ∧ t.now - s.now = due - s.rack ∧
      (∀ h, h < 16 → t.fg (R.HLC_STEP h) F.HLC_STEP_boundary = s.boundaryNo % 2 ^ 32 ∧ t.fg (R.HLC_IRQ h) F.HLC_IRQ_step = 1) ∧
      (hasKeep s.img.cfg = true → s.kpu.lostAt = none → t.kpu.journal = s.kpu.journal ++ [⟨s.kpu.jend, 2, 0, s.boundaryNo, [], 0⟩]) ∧
      (s.pause = none → s.snapDue s.boundaryNo s.host.started = false → s.img.pending = none → snapSteps s.img.cfg ≠ 0 → (s.mstate = MState.held → s.fg R.FJ_STATUS F.FJ_STATUS_lease ≠ 1) →
        t.pause = none ∧ ∀ x, x < 128 → (t.ctx x).atStep = false ∧ t.ctxState x = (if (s.ctx x).atStep ∧ s.ctxState x = 2 then 1 else s.ctxState x)) ∧
      (s.pause = none → s.snapDue s.boundaryNo s.host.started = true → s.mstate = MState.serving → s.fg R.FJ_STATUS F.FJ_STATUS_lease = 1 → due < (s.rd R.FJ_LEASE).toNat →
        s.fb R.KPU_CTL F.KPU_CTL_suspend = false → s.kpu.streaming = none →
        (∃ p, t.pause = some p ∧ p.snapshot = true ∧ p.boundary = s.boundaryNo ∧ p.back = MState.serving ∧ p.atA = none) ∧ t.mstate = MState.snapshot ∧
        (∀ c, c < 32 → s.dieUp (c / 4) = true → s.coreDead c = false → t.pauseAsked c = true) ∧
        (∀ x, x < 128 → t.ctxState x = (if s.ctxState x = 2 then 3 else s.ctxState x)))

/-- Pauses (R135, R241, R419, R427): a core that has parked is shown; with the last one the pause reaches moment A, and a pause that only applies a set ends there. At the end of a
snapshot's work it is taken, or abandoned if it was invalidated, the cores resume where they parked, and the module state returns. A boundary of a replay passes once every bound context
waits for it, and the last one ends the replay. Where it settles what the spec leaves open, the choice is the model's (assumption log 96 and 134). -/
def Obligations.PausesParkAndResume : Prop :=
  ∀ (s : State),
    (∀ (p : Pause) (core : Nat), s.pause = some p → p.atA = none → core < 32 → s.corePark core = true →
      ∃ t, exec (.coreParked core) s = .next t ∧
        ((List.range 32).all s.corePark = false → s.SetsOnly t (R.SEQ_STATUS (core / 4) (core % 4)) F.SEQ_STATUS_parked 1) ∧
        ((List.range 32).all s.corePark = true → p.snapshot = true → p.voided = false → s.tooDirty = false →
          t.pause = some { p with atA := some s.now } ∧ ∀ c, c < 32 → t.fb (R.SEQ_STATUS (c / 4) (c % 4)) F.SEQ_STATUS_parked = true) ∧
        ((List.range 32).all s.corePark = true → p.snapshot = false → p.maint = false → t.pause = none)) ∧
    (∀ (p : Pause), s.pause = some p → p.atA.isSome = true → p.snapshot = true → p.apply = false → s.pauseBusy = false → p.back < 16 →
      ∃ t, exec .snapshotStagingDone s = .next t ∧ t.pause = none ∧ (s.mstate = MState.snapshot → t.mstate = p.back) ∧
        (∀ x, x < 128 → t.ctxState x = (if s.ctxState x = 3 then (if (s.ctx x).atStep then 2 else 1) else s.ctxState x)) ∧
        (∀ c, c < 32 → t.pauseAsked c = false ∧ t.fb (R.SEQ_STATUS (c / 4) (c % 4)) F.SEQ_STATUS_parked = false) ∧
        (if p.voided then t.kpu.last = s.kpu.last ∧ t.fb R.KPU_STATUS F.KPU_STATUS_overrun = true ∧ t.rd R.KPU_CNT_TAKEN = s.rd R.KPU_CNT_TAKEN
         else t.kpu.last = some p.boundary ∧ t.fg R.KPU_SNAP_STATUS F.KPU_SNAP_STATUS_last_taken = p.boundary % 2 ^ 32 ∧
           t.fg R.KPU_CNT_TAKEN ⟨0, 48⟩ = min (s.fg R.KPU_CNT_TAKEN ⟨0, 48⟩ + 1) (2 ^ 48 - 1))) ∧
    (∀ (e : JEntry) (r : List JEntry), s.kpu.replay = some (e :: r) → e.kind = 2 → s.replayParked = true → (∀ n ∈ r.head?, n.kind ≠ 3 ∧ n.kind ≠ 4) →
      ∃ t, exec .replayBoundary s = .next t ∧
        (if r = [] then t.kpu.replay = none ∧ t.fb R.KPU_STATUS F.KPU_STATUS_replaying = false
         else t.kpu.replay = some r ∧ t.boundaryNo = s.boundaryNo + 1 ∧ (∀ h, h < 16 → t.fg (R.HLC_STEP h) F.HLC_STEP_boundary = e.boundary % 2 ^ 32) ∧
           ∀ x, x < 128 → t.ctxState x = (if (s.ctx x).atStep ∧ s.ctxState x = 2 then 1 else s.ctxState x)))

/-- Canaries (R54-R57, R71): sums of 0x8080, 0 and 0, at the first run or at the rerun, pass the core's canary; two failures make the core FAILED with cause CANARY. Where it settles what the spec leaves open, the choice is the model's (assumption log 68). -/
def Obligations.CanariesJudgeTheArray : Prop :=
  ∀ (s : State) (core main early late again : Nat), core < 32 → (s.running core 0).isNone = true → s.canaryTime core = true →
    let st := R.ARR_STATUS (core / 4) (core % 4)
    let passes (m e l : Nat) : Prop := m % 2 ^ 32 = 0x8080 ∧ e % 2 ^ 32 = 0 ∧ l % 2 ^ 32 = 0
    let once := passes main early late
    let twice := passes (bits again 0 32) (bits again 32 32) (bits again 64 32)
    ∃ t, exec (.canaryDone core main early late again) s = .next t ∧ t.fg st F.ARR_STATUS_canary_pending = 0 ∧ t.fg (R.ARR_CTL (core / 4) (core % 4)) F.ARR_CTL_canary_now = 0 ∧
      (once → t.fg (R.ARR_CANARY_MAIN (core / 4) (core % 4)) F.ARR_CANARY_MAIN_sum = 0x8080 ∧ t.fg (R.ARR_CANARY_EARLY (core / 4) (core % 4)) F.ARR_CANARY_EARLY_sum = 0 ∧
        t.fg (R.ARR_CANARY_LATE (core / 4) (core % 4)) F.ARR_CANARY_LATE_sum = 0) ∧
      (once ∨ twice → t.fg st F.ARR_STATUS_canary_passed = 1 ∧ t.coreDead core = s.coreDead core) ∧
      (¬once → ¬twice → t.fg st F.ARR_STATUS_canary_passed = 0 ∧ t.coreDead core = true ∧
        (∀ k, k < 4 → t.ctxState (4 * core + k) = 0 ∨ t.ctxState (4 * core + k) = 4) ∧
        (s.fb (R.ARR_ERR_STATUS (core / 4) (core % 4)) F.ARR_ERR_STATUS_valid = false →
          t.fg (R.ARR_ERR_STATUS (core / 4) (core % 4)) F.ARR_ERR_STATUS_cause = 3 ∧ t.fb (R.ARR_ERR_STATUS (core / 4) (core % 4)) F.ARR_ERR_STATUS_failed = true))

/-- Budgets (R208, R260, R261, R263, R265, R275): at a period boundary every counter is set to its effective budget, not added to, its use of the period becomes that of the last period,
gates open, and pools are empty while the governor scales. An activity that nothing covers is gated, counted once per period. -/
def Obligations.BudgetsRefillAndGate : Prop :=
  ∀ (s : State),
    (budgetPeriod s.img.cfg ≠ 0 → s.seq.running = [] → s.bud.debt = [] → s.kpu.out = [] → (∀ g, (s.grp g).out = []) → s.time.offset = 0 →
      ∃ t, exec .budgetPeriodBoundary s = .next t ∧ t.rack = s.nextPeriod ∧
        (∀ a res inst, a ∈ actList s.img.cfg → res < 7 → inst < resInstances res → (budWritten s.img.cfg (s.domStacks inst).length a res inst).1 ≠ 0 →
          let o := tgetD s.bud.ctr (budKey a res inst) BudCtr.zero
          let c := tgetD t.bud.ctr (budKey a res inst) BudCtr.zero
          c.eff = s.budEff a res inst ∧ c.left = s.budEff a res inst ∧ c.used = 0 ∧ c.usedLast = o.used ∧ c.gated = false ∧ c.gatedCount = o.gatedCount ∧ c.drawn = 0) ∧
        (∀ a, a ∈ actList s.img.cfg → t.fg (R.ACT_STATE a) F.ACT_STATE_gated_now = 0) ∧
        (s.fg R.BUD_STATUS F.BUD_STATUS_gov_scale < 16 → ∀ res inst, res < 7 → inst < resInstances res → tgetD t.bud.pool (res * 256 + inst) 0 = 0)) ∧
    (∀ a res inst, a < 256 → inst < resInstances res → actExists s.img.cfg a = true → s.img.recs.isSome = true →
      s.covers a res inst (s.nextCharge a res inst) = false → (res < 3 → s.suspended inst = false) →
      ∃ t, exec (.budgetExhausted a res inst) s = .next t ∧ t.fg (R.ACT_STATE a) F.ACT_STATE_gated_now = 1 ∧
        (let o := tgetD s.bud.ctr (budKey a res inst) BudCtr.zero
         let c := tgetD t.bud.ctr (budKey a res inst) BudCtr.zero
         c.gated = true ∧ c.left = o.left ∧ c.gatedCount = (if o.gated then o.gatedCount else min (o.gatedCount + 1) (2 ^ 32 - 1))) ∧
        (∀ k, k ≠ budKey a res inst → tget t.bud.ctr k = tget s.bud.ctr k))

/-- The image port (R227, R228, R229, R230, R247, R248): begin discards what was received and takes the kind, data appends whole words and abandons the load at a partial one, commit starts
the check run, abort discards a received image; a data write or commit at the wrong time is stray, a second commit busy; and a port without the token is only noted as foreign. -/
def Obligations.ImagePortFollowsItsLoadState : Prop :=
  ∀ (s : State) (port kind size : Nat) (words : List Word), s.hostOn port = true →
    let stat (t : State) (f : Fld) : Prop := s.SetsOnly t R.IMG_STATUS f 1
    (port ≠ s.tokenPort →
      (∃ t, exec (.imgBegin port kind) s = .next t ∧ stat t F.IMG_STATUS_foreign) ∧ (∃ t, exec (.imgDataWrite port size words) s = .next t ∧ stat t F.IMG_STATUS_foreign) ∧
      (∃ t, exec (.imgCommit port) s = .next t ∧ stat t F.IMG_STATUS_foreign) ∧ (∃ t, exec (.imgAbort port) s = .next t ∧ stat t F.IMG_STATUS_foreign)) ∧
    (port = s.tokenPort →
      (∃ t, exec (.imgBegin port kind) s = .next t ∧ t.fg R.IMG_CTL F.IMG_CTL_kind = kind % 2 ∧ s.SameMemory t ∧
        (if s.loadState = 2 then s.RegsOnly t [R.IMG_CTL]
         else t.loadState = 1 ∧ t.img.words = [] ∧ t.img.excess = false ∧ t.img.kind = kind % 2 ∧ t.fg R.IMG_STATUS F.IMG_STATUS_words = 0 ∧ t.img.cfg = s.img.cfg)) ∧
      (∃ t, exec (.imgDataWrite port size words) s = .next t ∧ t.img.cfg = s.img.cfg ∧
        (s.loadState ≠ 1 → stat t F.IMG_STATUS_stray) ∧
        (s.loadState = 1 → size % 8 = 0 → size ≠ 0 → words.length = size / 8 → s.img.words.length + words.length ≤ imgRoom →
          t.img.words = s.img.words ++ words ∧ t.img.excess = s.img.excess ∧ t.loadState = 1 ∧
          t.fg R.IMG_STATUS F.IMG_STATUS_words = min (s.fg R.IMG_STATUS F.IMG_STATUS_words + size / 8) (2 ^ 22 - 1)) ∧
        (s.loadState = 1 → size % 8 ≠ 0 → t.loadState = 0 ∧ t.img.words = [] ∧ t.fg R.IMG_RESULT F.IMG_RESULT_code = Code.badFormat ∧ t.fg R.IMG_RESULT F.IMG_RESULT_check = 2)) ∧
      (∃ t, exec (.imgCommit port) s = .next t ∧ t.img.words = s.img.words ∧ t.img.cfg = s.img.cfg ∧
        (s.loadState = 0 → stat t F.IMG_STATUS_stray) ∧ (s.loadState ≠ 0 → s.img.run ≠ .none → stat t F.IMG_STATUS_busy) ∧
        (s.loadState ≠ 0 → s.img.run = .none → t.loadState = 2 ∧ t.img.run = .commit s.now)) ∧
      (∃ t, exec (.imgAbort port) s = .next t ∧ t.img.cfg = s.img.cfg ∧ t.img.run = s.img.run ∧
        (if s.loadState = 1 then t.loadState = 0 ∧ t.img.words = [] ∧ t.img.excess = false else t = s)))

/-- The end of a check run (R217, R218, R227, R231, R237, R249): what the checks find stands in IMG_RESULT and the port is IDLE; an image that fails leaves the configuration in force and the
resident overlays as they are; a base image that passes takes effect and makes a READY module CONFIGURED, an overlay that passes becomes resident only. A base image outside READY and TEST, or with one in force, fails check 1. Where it settles what the spec leaves open, the choice is the model's (assumption log 93). -/
def Obligations.CheckRunsDecideImages : Prop :=
  ∀ (s : State) (since : Nat), s.img.run = .commit since →
    let e := bytesOf s.img.words
    ∃ t, exec .imgCheckDone s = .next t ∧ t.loadState = 0 ∧ t.img.words = [] ∧
      (s.img.kind = 0 → (s.mstate ≠ MState.ready ∧ s.inTest = false) ∨ s.img.recs.isSome = true → t.fg R.IMG_RESULT F.IMG_RESULT_code = Code.notPermitted ∧ t.fg R.IMG_RESULT F.IMG_RESULT_check = 1) ∧
      (match s.judgeImage e with
       | .error x => t.fg R.IMG_RESULT F.IMG_RESULT_code = x.2.1 % 256 ∧ t.fg R.IMG_RESULT F.IMG_RESULT_check = x.1 % 16 ∧
           t.img.cfg = s.img.cfg ∧ t.img.recs = s.img.recs ∧ t.img.overlays = s.img.overlays ∧ t.mstate = s.mstate ∧ t.seq.imem = s.seq.imem
       | .ok r => t.fg R.IMG_RESULT F.IMG_RESULT_code = Code.ok ∧
           (if s.img.kind = 0 then t.img.recs = some r.1 ∧ t.img.cfg = r.1 ∧ t.img.baseDigest = sha384 (e.take (304 + fieldAt e 284 4)) ∧
              t.mstate = (if s.mstate = MState.ready then MState.configured else s.mstate)
            else t.img.recs = s.img.recs ∧ t.img.cfg = s.img.cfg ∧
              tget t.img.overlays (fieldAt e 11 1) = some ⟨r.1, sha384 (e.take (304 + fieldAt e 284 4)), fieldAt e 16 8, fieldAt e 284 4⟩ ∧ t.seq.imem = s.seq.imem))

/-- Changes of the active set (R231, R238, R241, R243, R244): a failed check cancels the change with its code; one that passes waits for its boundary with its bank written, or takes effect at
once in CONFIGURED with every core parked, where it else asks for a pause (R116); a routing bank refused for 5 ms cancels with EPOCH_BUSY; a second check that fails cancels a waiting change, and one that
passes notes the dies that are fenced (R551), and in CONFIGURED puts it in force. -/
def Obligations.ActiveSetChangesWaitOrEnd : Prop :=
  ∀ (s : State),
    let cancelled (t : State) (code check : Nat) : Prop := t.fg R.IMG_ACTIVE F.IMG_ACTIVE_apply_state = 0 ∧ t.fg R.IMG_ACTIVE F.IMG_ACTIVE_pending = 0 ∧ t.img.pending = none ∧
      t.fg R.IMG_ACTIVE F.IMG_ACTIVE_last_code = code % 256 ∧ t.fg R.IMG_ACTIVE F.IMG_ACTIVE_last_check = check % 16 ∧ t.img.cfg = s.img.cfg ∧ t.inForce = s.inForce
    let base := s.img.recs.getD []
    (∀ set since, s.img.run = .apply set since →
      ∃ t, exec .applyCheckDone s = .next t ∧
        (∀ p c, p < 2 → tget s.host.cmd p = some c → c.opcode = 0x04 → c.ready = false →
          ∃ d, tget t.host.cmd p = some d ∧ d.ready = true ∧ d.tag = c.tag ∧ d.code = (match s.judgeSet set with | some x => x.2 | none => Code.ok)) ∧
        (match s.judgeSet set with
         | some x => cancelled t x.2 x.1
         | none => ∀ new, applySet base s.img.overlays set = some new → typeChanged s.img.cfg new RT.routing = false →
             (if s.effState = MState.configured ∧ s.pause = none ∧ (List.range 32).all s.corePark = true then
                t.inForce = 2 * (set / 2 % 2 ^ 15) ∧ t.img.pending = none ∧ t.img.cfg = new ∧ t.fg R.IMG_ACTIVE F.IMG_ACTIVE_apply_state = 0
              else t.img.pending = some ⟨set, s.now, true, none, s.now, false, s.fencedMask⟩ ∧ t.fg R.IMG_ACTIVE F.IMG_ACTIVE_apply_state = 2 ∧ t.img.cfg = s.img.cfg ∧
                (s.effState = MState.configured → ∃ p, t.pause = some p ∧ p.apply = true)))) ∧
    (∀ p new, s.img.pending = some p → p.bankWritten = false → applySet base s.img.overlays p.set = some new → typeChanged s.img.cfg new RT.routing = true → s.effState ≠ MState.configured →
      let at_ := max s.now (p.lastTry + 10000)
      ∃ t, exec .routingBankRetry s = .next t ∧ t.now = at_ ∧
        (if s.fb R.FJ_EPOCH F.FJ_EPOCH_free then t.img.pending = some { p with bankWritten := true, firstRefusal := none } ∧ t.img.cfg = s.img.cfg
         else match p.firstRefusal with
           | some x => if x + 5000000 ≤ at_ then cancelled t Code.epochBusy 0 else t.img.pending = some { p with lastTry := at_ }
           | none => t.img.pending = some { p with firstRefusal := some at_, lastTry := at_ })) ∧
    (∀ set since, s.img.run = .recheck set since →
      ∃ t, exec .applyRecheckDone s = .next t ∧ t.img.run = .none ∧
        (match s.judgeSet set with
         | some x => cancelled t x.2 x.1
         | none => match s.img.pending with
           | none => t = { s with img := { s.img with run := .none } }
           | some p => if s.effState = MState.configured ∧ p.bankWritten = true then
               (if s.pause = none ∧ (List.range 32).all s.corePark = true then ∀ new, applySet base s.img.overlays p.set = some new →
                  t.img.pending = none ∧ t.img.cfg = new ∧ t.inForce = 2 * (p.set / 2 % 2 ^ 15)
                else t.img.cfg = s.img.cfg ∧ t.img.pending = some { p with fenced := s.fencedMask } ∧ ∃ x, t.pause = some x ∧ x.apply = true)
             else t = { s with img := { s.img with run := .none, pending := some { p with fenced := s.fencedMask } } }))

/-- Pushes that only answer (R291, R292): on an idle port NOP completes with OK and an unknown opcode with BAD_FORMAT, and nothing else changes; a push on a BUSY port only sets overrun,
whatever it pushes. Commands on activities (R145, R238, R239, R244, R292, R293): with every check held, START is accepted for a step boundary, STOP makes its RUNNING activities STOPPED with their contexts,
TEARDOWN makes its activities LOADED with their contexts IDLE, APPLY begins its check, SNAPSHOT_NOW waits for the boundary; STOP and TEARDOWN cancel pending starts and a waiting change. A
command that fails a check answers the first failed check's code and does nothing else. Where it settles what the spec leaves open, the choice is the model's (assumption log 16). -/
def Obligations.ActivityCommandsActAnswerOrOverrun : Prop :=
  (∀ (s : State) (port tag : Nat), s.hostOn port = true →
    (s.cmdBusy port = false →
      (∃ t, exec (.cmdNop port tag) s = .next t ∧ s.Pushed t port 0x00 tag (some (Code.ok, [])) ∧ s.OnlyCommand t port) ∧
      (∀ op, 0x0C ≤ op → op < 256 → ∃ t, exec (.cmdUnknownOpcode port op tag) s = .next t ∧ s.Pushed t port op tag (some (Code.badFormat, [])) ∧ s.OnlyCommand t port)) ∧
    (s.cmdBusy port = true →
      (∃ t, exec (.cmdPushBusy port) s = .next t ∧ s.SetsOnly t (R.HP_CMD_STATUS port) F.HP_CMD_STATUS_overrun 1) ∧
      (∃ t, exec (.start port tag) s = .next t ∧ s.SetsOnly t (R.HP_CMD_STATUS port) F.HP_CMD_STATUS_overrun 1) ∧
      (∃ t, exec (.moduleReset port tag) s = .next t ∧ s.SetsOnly t (R.HP_CMD_STATUS port) F.HP_CMD_STATUS_overrun 1))) ∧
  (∀ (s : State) (port tag : Nat), s.hostOn port = true → s.cmdBusy port = false →
    let args := (List.range 8).map (fun i => s.rd (R.HP_CMD_ARG port i))
    let m := maskActs args
    let c1 := s.startCode port args
    let c4 := s.applyCode port args
    let h2 := s.holderCheck port stopStates
    let c5 := s.holderCheck port [MState.serving]
    let set := (args.getD 0 0).toNat
    let kept : List (List Nat × Nat) := (s.host.starts.map (fun e => (e.1.filter (fun a => !m.contains a), e.2))).filter (fun e => !e.1.isEmpty)
    (∃ t, exec (.start port tag) s = .next t ∧ s.Pushed t port 0x01 tag (some (c1, [])) ∧ s.SameMemory t ∧
      (if c1 = Code.ok then t.host.starts = s.host.starts ++ [(m, s.now)] else s.OnlyCommand t port)) ∧
    (∃ t, exec (.stop port tag) s = .next t ∧ s.Pushed t port 0x02 tag (some (h2, [])) ∧ s.SameMemory t ∧
      (if h2 = Code.ok then t.host.starts = kept ∧ t.img.pending = none ∧
         (∀ a, a ∈ m → s.actState a = 2 → t.actState a = 3 ∧ ∀ x, x ∈ boundCtxs s.img.cfg a → x < 128 → t.ctxState x = 0 ∨ t.ctxState x = 4) ∧
         (∀ a, a < 256 → a ∉ m → t.actState a = s.actState a)
       else s.OnlyCommand t port)) ∧
    (∃ t, exec (.teardown port tag) s = .next t ∧ s.SameMemory t ∧
      (if h2 = Code.ok ∧ ∀ a, a ∈ m → s.actState a ≠ 2 then s.Pushed t port 0x03 tag (some (Code.ok, [])) ∧ t.host.starts = kept ∧ t.img.pending = none ∧
         (∀ a, a ∈ m → s.actState a ≠ 0 → t.actState a = 1 ∧ ∀ x, x ∈ boundCtxs s.img.cfg a → x < 128 → t.ctxState x = 0 ∧ (t.ctx x).loops = [])
       else s.OnlyCommand t port)) ∧
    (∃ t, exec (.apply port tag) s = .next t ∧ s.SameMemory t ∧ t.img.cfg = s.img.cfg ∧
      (if c4 = Code.ok then
         (if set = s.inForce then s.Pushed t port 0x04 tag (some (Code.ok, [])) ∧ s.OnlyCommand t port
          else s.Pushed t port 0x04 tag none ∧ t.img.run = .apply set s.now ∧ t.fg R.IMG_ACTIVE F.IMG_ACTIVE_apply_state = 1 ∧ t.fg R.IMG_ACTIVE F.IMG_ACTIVE_pending = set / 2 % 2 ^ 15)
       else s.Pushed t port 0x04 tag (some (c4, [])) ∧ s.OnlyCommand t port)) ∧
    (∃ t, exec (.snapshotNow port tag) s = .next t ∧ s.SameMemory t ∧
      (if c5 = Code.ok ∧ snapSteps s.img.cfg ≠ 0 then s.Pushed t port 0x05 tag none ∧ t.host.snapNow = some port
       else s.Pushed t port 0x05 tag (some (Code.notPermitted, [])) ∧ s.OnlyCommand t port)))

/-- A die's reset and reload (R199, R203, R292): DIE_RESET with every check held puts the die to LOADING and clears its SRAM and bonded memory, leaving that of every other die; a reload that
succeeds, its cores having run their canaries and a fibre of its hub link being lit, puts it to RUN and completes the command, and one that fails leaves it FENCED with DIE_LOST. Where it settles what the spec leaves open, the choice is the model's (assumption log 97). -/
def Obligations.DieResetClearsAndReloads : Prop :=
  ∀ (s : State) (port tag : Nat), s.Canon →
    (s.hostOn port = true → s.cmdBusy port = false →
      let args := (List.range 8).map (fun i => s.rd (R.HP_CMD_ARG port i))
      let d := (args.getD 0 0).toNat
      ∃ t, exec (.dieReset port tag) s = .next t ∧
        (if s.dieResetCode port args = Code.ok then s.Pushed t port 0x06 tag none ∧ t.dieState (d % 8) = 3 ∧
           (∀ a, isAcc a = false → t.memRd a = (if inDieMem (d % 8) a then memUnlisted else s.memRd a)) ∧
           (∀ e, e < 8 → e ≠ d % 8 → t.dieState e = s.dieState e)
         else s.Pushed t port 0x06 tag (some (s.dieResetCode port args, [])) ∧ s.OnlyCommand t port)) ∧
    (∀ die ok, die < 8 → s.dieState die = 3 → (ok = true → ∀ c, c < 4 → s.canaryRan (4 * die + c) = true) →
      let good := ok && !s.hubDark die
      ∃ t, exec (.dieReloadDone die ok) s = .next t ∧ t.dieState die = (if good then 0 else 1) ∧
        (∀ p c, p < 2 → tget s.host.cmd p = some c → c.opcode = 0x06 → (c.args.getD 0 0).toNat % 8 = die → c.ready = false →
          ∃ d, tget t.host.cmd p = some d ∧ d.ready = true ∧ d.tag = c.tag ∧ d.code = (if good then Code.ok else Code.dieLost)))

/-- Commands on the module (R280, R291, R292, R294, R295, R296, R298): MODULE_RESET answers and its reset comes 1 ms after the answer, TEST_ENTER enters TEST from READY, DUMP_OPEN opens a complete
dump, TOKEN_NONCE stores a fresh nonce of 48 random bytes, live for 10 s, and TOKEN_CLAIM consumes it and moves the token where every check holds. A completed command shows its results and
code, is DONE and frees the port. -/
def Obligations.ModuleCommandsAndTheToken : Prop :=
  ∀ (s : State) (port tag : Nat), s.hostOn port = true →
    (s.cmdBusy port = false →
      (∃ t, exec (.moduleReset port tag) s = .next t ∧ s.OnlyCommand t port ∧
        s.Pushed t port 0x07 tag (some (if port ≠ s.tokenPort ∨ s.mstate < MState.ready ∨ 12 ≤ s.mstate then Code.notPermitted else if s.rd (R.HP_CMD_ARG port 0) ≠ s.serialWord 0 then Code.outOfRange else Code.ok, []))) ∧
      (∃ t, exec (.testEnter port tag) s = .next t ∧
        (if port = s.tokenPort ∧ s.mstate = MState.ready then s.Pushed t port 0x08 tag (some (Code.ok, [])) ∧ t.mstate = MState.test
         else s.Pushed t port 0x08 tag (some (Code.notPermitted, [])) ∧ s.OnlyCommand t port)) ∧
      (∃ t, exec (.dumpOpen port tag) s = .next t ∧
        (if s.mstate = MState.dumped then s.Pushed t port 0x09 tag (some (Code.ok, s.dumpRes)) ∧ t.host.dumpOpen = true
         else s.Pushed t port 0x09 tag (some (Code.notPermitted, [])) ∧ s.OnlyCommand t port)) ∧
      (MState.firmware ≤ s.mstate → s.mstate < 12 → ∃ t, exec (.tokenNonce port tag) s = .next t ∧ s.Pushed t port 0x0A tag (some (Code.ok, wordsOf (s.random 48).1)) ∧
        tget t.host.nonce port = some ((s.random 48).1, s.now) ∧ t.randCtr = s.randCtr + 48 ∧ ∀ p, p ≠ port → tget t.host.nonce p = tget s.host.nonce p) ∧
      (MState.firmware ≤ s.mstate → s.mstate < 12 → port ≠ s.tokenPort →
        let code := s.claimCode port (bytesOf ((List.range 21).map (fun i => s.rd (R.HP_CMD_PAYLOAD port i))))
        ∃ t, exec (.tokenClaim port tag) s = .next t ∧ s.Pushed t port 0x0B tag (some (code, [])) ∧ tget t.host.nonce port = none ∧
          (if code = Code.ok then t.tokenPort = port ∧ t.store.tokenHome = port ∧ t.loadState = 0 else t.tokenPort = s.tokenPort ∧ t.store = s.store ∧ t.img = s.img))) ∧
    (∀ c, tget s.host.cmd port = some c → c.ready = true →
      ∃ t, exec (.cmdComplete port) s = .next t ∧ tget t.host.cmd port = none ∧ t.fg (R.HP_CMD_STATUS port) F.HP_CMD_STATUS_state = 2 ∧
        t.fg (R.HP_CMD_STATUS port) F.HP_CMD_STATUS_code = c.code % 256 ∧ (∀ i, i < 4 → t.rd (R.HP_CMD_RES port i) = c.res.getD i 0) ∧
        ((s.pci port).msix = true → (s.pci port).masked = false → s.msixMasked port 0 = false → s.hostUp port = true → t.sent = s.sent ++ [.msix port 0]) ∧
        t.host.resetAt = (if c.opcode = 0x07 ∧ c.code = Code.ok then some (s.now + 1000000) else s.host.resetAt) ∧ s.SameMemory t) ∧
    (∀ n, tget s.host.nonce port = some n →
      ∃ t, exec (.nonceExpiry port) s = .next t ∧ t.now = max s.now (n.2 + 10000000000) ∧ tget t.host.nonce port = none)

/-- Accesses with rules of their own (R8, R9, R282, R297): an access to an absent unit sets absent_access, and a read of it returns zero; a bad access is answered with Unsupported Request and has
no other effect; a word of SRAM read through the memory access port returns its bytes and advances the address, one written by the token holder stores them and nothing else; an access no MAP
record allows, or a write from the other port, is denied. Where it settles what the spec leaves open, the choice is the model's (assumption log 114). -/
def Obligations.MappedAndRefusedAccesses : Prop :=
  ∀ (s : State) (port : Nat), s.Canon → s.hostOn port = true →
    let m := s.mapSel port
    let free (right : Nat) : Prop := s.mapWaits port m.1 m.2.1 m.2.2 right = false
    let denied (t : State) : Prop := t.fg (R.MAP_STATUS port) F.MAP_STATUS_code = Code.notPermitted ∧ t.fb (R.MAP_STATUS port) F.MAP_STATUS_err = true ∧
      t.rd (R.MAP_ADDR port) = s.rd (R.MAP_ADDR port) ∧ s.SameMemory t
    let stepped (t : State) : Prop := t.fg (R.MAP_ADDR port) F.MAP_ADDR_offset = (s.fg (R.MAP_ADDR port) F.MAP_ADDR_offset + 1) % 2 ^ 45
    (∀ addr write, addr < barEnd → s.absentAt addr = true →
      ∃ t, exec (.absentUnitAccess port addr write) s = .next t ∧ s.FieldSet t R.GLB_STATUS F.GLB_STATUS_absent_access 1 ∧ (∀ k, k ≠ R.GLB_STATUS → t.rd k = s.rd k) ∧
        t = { s with regs := t.regs, sent := t.sent } ∧ t.sent = (if write then s.sent else s.sent ++ [.readData port [0]])) ∧
    (∀ addr size write, addr < barEnd → ¬((size = 4 ∨ size = 8) ∧ addr % size = 0) →
      ∃ t, exec (.bar0BadAccess port addr size write) s = .next t ∧ t.sent = s.sent ++ [.unsupportedRequest port] ∧ bit (t.pci port).errors 20 = true ∧
        t = { s with sent := t.sent, host := { s.host with pci := t.host.pci } }) ∧
    (free 0 → m.1 = 2 → s.targetDead (mapTarget 2 m.2.1 m.2.2) = false → s.tiers.ecc = [] → s.mapAllows 2 m.2.1 m.2.2 0 = true →
      ∃ t, exec (.mapDataRead port) s = .next t ∧ t.sent = s.sent ++ [.readData port [BitVec.ofNat 64 (leNat (s.memRdN (sramKey m.2.1 m.2.2) 8))]] ∧ stepped t ∧ s.SameMemory t) ∧
    (m.1 < 5 → m.1 ≠ 3 → s.mapAllows m.1 m.2.1 m.2.2 0 = false →
      ∃ t, exec (.mapDataRead port) s = .next t ∧ t.sent = s.sent ++ [.readData port [BitVec.ofNat 64 (2 ^ 64 - 1)]] ∧ denied t) ∧
    (∀ data : Word, free 1 → m.1 = 2 → s.targetDead (mapTarget 2 m.2.1 m.2.2) = false → port = s.tokenPort → s.mapAllows 2 m.2.1 m.2.2 1 = true →
      ∃ t, exec (.mapDataWrite port data) s = .next t ∧ stepped t ∧
        (∀ i, i < 8 → t.memRd (sramKey m.2.1 m.2.2 + i) = BitVec.ofNat 8 (data.toNat / 256 ^ i)) ∧
        (∀ a, (∀ i, i < 8 → a ≠ sramKey m.2.1 m.2.2 + i) → t.memRd a = s.memRd a) ∧ ∀ a, a < 2 ^ 62 → t.farRd a = s.farRd a) ∧
    (∀ data : Word, (port ≠ s.tokenPort ∨ s.mapAllows m.1 m.2.1 m.2.2 1 = false) → ∃ t, exec (.mapDataWrite port data) s = .next t ∧ denied t)

/-- Stream ports (R143, R284, R286, R287, R288, R300, R301): a TLP within the credit is appended whole and any other is dropped whole and counted; a word leaves staging for the fill position of its
ring; a read returns the words in order and all ones from the first empty position; and clearing the dropped count and the end of a vector's interval do what they say. -/
def Obligations.StreamPortsTakeAndGiveWords : Prop :=
  ∀ (s : State) (host port : Nat) (aligned : Bool), host < 2 → port < 4096 → s.Canon →
    let dropped (t : State) : Nat := t.fg (R.HP_STREAM_STATUS 0 port) F.HP_STREAM_STATUS_dropped
    (∀ (offset : Nat) (words : List Word), s.hostUp host = true → offset < 2 ^ 16 → words ≠ [] →
      ∃ t, exec (.streamWrite host port offset aligned words) s = .next t ∧ s.SameMemory t ∧
        (match streamCfg s.img.cfg port with
         | none => t.host = s.host ∧ dropped t = min (dropped s + 1) 0xFFFF
         | some c =>
           if aligned = true ∧ c.output = false ∧ bit c.hosts host = true ∧ words.length ≤ s.streamCredit port c then
             t.staging port = s.staging port ++ (words.zipIdx).map (fun p => (p.1, decide (offset = 0 ∧ p.2 = 0))) ∧ dropped t = dropped s
           else t.host = s.host ∧ dropped t = min (dropped s + 1) 0xFFFF)) ∧
    (∀ count, s.hostUp host = true → count ≠ 0 →
      ∃ t data, exec (.streamRead host port aligned count) s = .next t ∧ t.sent.getLast? = some (.readData host data) ∧ data.length = count ∧ s.SameMemory t ∧
        (match streamCfg s.img.cfg port with
         | none => data = List.replicate count (BitVec.allOnes 64) ∧ t.host.staging = s.host.staging
         | some c =>
           if aligned = true ∧ c.output = true ∧ bit c.hosts host = true ∧ s.chanOpen c.channel = true then
             (∀ i, i < count → data[i]? = some (((s.staging port)[i]?.map (fun p => p.1)).getD (BitVec.allOnes 64))) ∧ (s.plain port = [] → t.staging port = (s.staging port).drop count)
           else data = List.replicate count (BitVec.allOnes 64) ∧ t.host.staging = s.host.staging)) ∧
    (∀ (c : StreamCfg) (r : RingCfg) (w : Word) (mark : Bool) (rest : List (Word × Bool)), streamCfg s.img.cfg port = some c → c.output = false → c.kind = 0 → c.channel = 0 →
      ringCfg s.img.cfg c.dest = some r → s.inSnapshot = false → s.wordFalls port c = true → s.fb R.KPU_STATUS F.KPU_STATUS_replaying = false → s.kpu.full = false → s.plain port = [] → s.staging port = (w, mark) :: rest →
      s.ringFree c.dest = true →
      let at_ := sramKey (c.dest / 16) (r.base + (s.ring c.dest).fill * r.size + (s.ring c.dest).pos)
      ∃ t, exec (.streamWordDeliver port) s = .next t ∧ t.staging port = rest ∧ (∀ i, i < 8 → t.memRd (at_ + i) = BitVec.ofNat 8 (w.toNat / 256 ^ i)) ∧
        (∀ a, (∀ i, i < 8 → a ≠ at_ + i) → t.memRd a = s.memRd a) ∧
        (if (s.ring c.dest).pos + 8 = r.size then t.slotFull c.dest = s.slotFull c.dest + 1 ∧ (t.ring c.dest).pos = 0 ∧ (t.ring c.dest).fill = ((s.ring c.dest).fill + 1) % r.slots
         else t.slotFull c.dest = s.slotFull c.dest ∧ (t.ring c.dest).pos = (s.ring c.dest).pos + 8 ∧ (t.ring c.dest).fill = (s.ring c.dest).fill)) ∧
    (∀ c, streamCfg s.img.cfg port = some c → bit c.hosts host = true →
      ∃ t, exec (.streamClearDropped host port) s = .next t ∧ s.SetsOnly t (R.HP_STREAM_STATUS 0 port) F.HP_STREAM_STATUS_dropped 0) ∧
    (∀ v n start, v < 64 → s.host.vecPending = [(64 * host + v, n)] → tget s.host.modStart (64 * host + v) = some start → (s.pci host).msix = true → (s.pci host).masked = false → s.msixMasked host v = false → s.hostUp host = true →
      ∃ t, exec (.msixModerationEnd host) s = .next t ∧ t.now = max s.now (start + 1000 * s.fg (R.HP_MSIX_MOD host) F.HP_MSIX_MOD_interval) ∧
        t.sent = s.sent ++ [.msix host v] ∧ t.host.vecPending = [] ∧ tget t.host.modStart (64 * host + v) = some t.now)

/-- Events of a host port (R278, R533): an accepted PERST_N, a function level reset and the return from D3cold clear the port's command, MSI-X and MAP registers and its command, an image load it
holds is abandoned, and the other port's registers, the configuration and memory stay; link loss and return show in GLB_STATUS. Where it settles what the spec leaves open, the choice is the model's (assumption log 30 and 76). -/
def Obligations.PortEventsResetTheirPort : Prop :=
  ∀ (s : State) (host : Nat), host < 2 → s.Canon →
    let up (t : State) : Bool := t.hostUp host
    let reset (t : State) : Prop := (∀ k, portReg host k = true → t.rd k = resetWord k) ∧ tget t.host.cmd host = none ∧ (∀ k, portReg (1 - host) k = true → t.rd k = s.rd k) ∧
      tget t.host.cmd (1 - host) = tget s.host.cmd (1 - host) ∧ t.tokenPort = s.tokenPort ∧ t.mstate = s.mstate ∧ t.img.cfg = s.img.cfg ∧ t.host.staging = s.host.staging ∧ s.SameMemory t ∧
      (host = s.tokenPort → t.loadState = 0) ∧ t.hostUp (1 - host) = s.hostUp (1 - host)
    (∃ t, exec (.perstAccepted host) s = .next t ∧ reset t ∧ up t = false ∧ tget t.host.perstLow host = some true) ∧
    (∃ t, exec (.functionLevelReset host) s = .next t ∧ reset t ∧ up t = up s ∧ (t.pci host).link = (s.pci host).link) ∧
    (∀ lowNs, ∃ t, exec (.perstRelease host lowNs) s = .next t ∧
      (if tgetD s.host.perstLow host false then tget t.host.perstLow host = none ∧ t.regs = s.regs
       else t.host = s.host ∧ t.fg (R.PIN_CNT_PERST_SHORT host) ⟨0, 48⟩ = (if lowNs < 1000000 then min (s.fg (R.PIN_CNT_PERST_SHORT host) ⟨0, 48⟩ + 1) (2 ^ 48 - 1) else s.fg (R.PIN_CNT_PERST_SHORT host) ⟨0, 48⟩))) ∧
    (∃ t, exec (.d3coldEntry host) s = .next t ∧ up t = false ∧ tget t.host.d3cold host = some true ∧ t.tokenPort = s.tokenPort) ∧
    (tget s.host.d3cold host = some true → ∃ t, exec (.d3coldExit host) s = .next t ∧ reset t ∧ tget t.host.d3cold host = none) ∧
    (∀ lost, ∃ t, exec (.hostLinkDown host lost) s = .next t ∧ (t.pci host).link = (0, 0) ∧
        s.SetsOnly { t with host := { t.host with pci := s.host.pci } } R.GLB_STATUS (if host = 0 then F.GLB_STATUS_hpa_up else F.GLB_STATUS_hpb_up) 0) ∧
    (s.power = 0 → tgetD s.host.perstLow host false = false → tgetD s.host.d3cold host false = false →
      ∃ t, exec (.hostLinkUp host) s = .next t ∧ s.FieldSet t R.GLB_STATUS (if host = 0 then F.GLB_STATUS_hpa_up else F.GLB_STATUS_hpb_up) 1 ∧
        s.RegsOnly { t with host := { t.host with pci := s.host.pci } } [R.GLB_STATUS, R.CLK_STATUS] ∧ bit (t.fg R.CLK_STATUS F.CLK_STATUS_pclk_lock) host = true ∧ 0 < (t.pci host).link.1)

/-- The loss of a die (R199, R200, R201, R145): a die whose clock is seen to stop, by the hub, by a neighbour, or because it lost its ACLK, is FENCED with the cause, its crossbar ports are DEAD and
its links closed, its cores hold no instruction and no running context, and every activity that uses it is FAULTED; no other die's state and no memory changes. -/
def Obligations.LostDiesAreFenced : Prop :=
  ∀ (s : State) (d : Nat), d < 8 → (s.dieState d = 0 ∨ s.dieState d = 3) →
    let fenced (t : State) (cause : Nat) : Prop :=
      t.dieState d = 1 ∧ t.fg (R.DIE_STATUS d) F.DIE_STATUS_fence_cause = cause ∧
      t.fg (R.DIE_STATUS d) F.DIE_STATUS_loss_count = min (s.fg (R.DIE_STATUS d) F.DIE_STATUS_loss_count + 1) 255 ∧
      (∀ i, i < 4 → t.fg (R.XB_PORT_STATUS (4 * d + i)) F.XB_PORT_STATUS_state = 1) ∧
      (∀ c, c < 4 → (∀ k, k < 4 → t.ctxState (4 * (4 * d + c) + k) = 0 ∨ t.ctxState (4 * (4 * d + c) + k) = 4) ∧
        ∀ u, u < 7 → t.running (4 * d + c) u = none ∧ t.queue (4 * d + c) u = []) ∧
      (∀ l, l < 3 → t.fg (R.DL_LINK_STATUS d l) F.DL_LINK_STATUS_width = 3) ∧
      (∀ a, a ∈ actList s.img.cfg → 0 < a → a < 255 → s.actUsesDie a d = true → s.actState a ≠ 0 → t.actState a = 4) ∧
      (∀ e, e < 8 → e ≠ d → t.dieState e = s.dieState e) ∧ s.SameMemory t
    (∃ t, exec (.dieClockLoss d) s = .next t ∧ fenced t 1) ∧
    (∃ t, exec (.aclkLoss d) s = .next t ∧ fenced t 1 ∧ bit (t.fg R.CLK_STATUS F.CLK_STATUS_aclk_run) d = false) ∧
    (s.dieUp ((d + 1) % 8) = true → s.fg (R.DL_LINK_STATUS ((d + 1) % 8) 2) F.DL_LINK_STATUS_width ≠ 3 →
      ∃ t, exec (.neighbourClockLoss ((d + 1) % 8) true) s = .next t ∧ fenced t 2) ∧
    (s.dieUp ((d + 7) % 8) = true → s.fg (R.DL_LINK_STATUS ((d + 7) % 8) 1) F.DL_LINK_STATUS_width ≠ 3 →
      ∃ t, exec (.neighbourClockLoss ((d + 7) % 8) false) s = .next t ∧ fenced t 3)

/-- Die links (R186, R187, R188, R190, R193, R213): flits are delivered once and in order, release what they acknowledge, and a bad one is sent again with those behind it; a hub lane that fails, by itself, by the errors of a window or ordered in TEST,
leaves the width of the lanes left or fences the die; a neighbour lane that fails is replaced by a spare and the link retrains, or the width follows; and a restored link whose lost lanes all train
is at full width again. Where it settles what the spec leaves open, the choice is the model's (assumption log 129). -/
def Obligations.DieLinksKeepTheirLanes : Prop :=
  ∀ (s : State) (die link : Nat), die < 8 → link < 3 → s.dieUp die = true →
    let k := endKey die link
    let st := R.DL_LINK_STATUS die link
    let width (t : State) : Nat × Nat := (t.fg st F.DL_LINK_STATUS_width, t.fg st F.DL_LINK_STATUS_in_use)
    let hub (t : State) (lane : Nat) : Prop := let w := nextWidth 128 (width s) (lane :: s.lostLanes k) false; if w.1 = 3 then t.dieState die = 1 else width t = w ∧ t.dieState die = 0
    s.fg st F.DL_LINK_STATUS_width ≠ 3 →
    (∀ (l : Nat) (f : LinkFlit), l < 4 → s.fg (linkReg (regEnd (flitEnd die l))) F.DL_LINK_STATUS_width ≠ 3 → (∀ g, g < 64 → s.grpState g ≠ 5) →
      let e := flitEnd die l
      let q := peerEnd e
      let again := (s.link q).unacked.filter (fun n => decide ((s.link e).rxSeq ≤ n))
      let resent := if again = [] then [(s.link e).rxSeq] else again
      ∃ t, exec (.linkFlitRx die l f) s = .next t ∧ width t = width s ∧ s.SameMemory t ∧
      (if f.crcOk = false then t.links = s.links ∧ t.sent = s.sent ++ resent.map (fun n => .linkFlit (regEnd q / 3) (if 24 ≤ q then 3 else q % 3) n (s.link q).rxSeq) ∧
         (l = 0 ∨ l = 3 → t.fg (R.HL_RETRY_CNT die) ⟨0, 48⟩ = min (s.fg (R.HL_RETRY_CNT die) ⟨0, 48⟩ + resent.length) (2 ^ 48 - 1))
       else (t.link e).unacked = (s.link e).unacked.filter (fun n => decide (f.ack ≤ n)) ∧
         (if f.seq = (s.link e).rxSeq then (t.link e).rxSeq = f.seq + 1 ∧ t.sent = s.sent ++ [.linkFlit die l (f.seq + 1) f.ack] else (t.link e).rxSeq = (s.link e).rxSeq ∧ t.sent = s.sent))) ∧
    (∀ lane, link = 0 → lane < 128 → lane ∉ (s.link k).failed → ∃ t, exec (.linkLaneFail die link lane) s = .next t ∧ hub t lane) ∧
    (∀ lane errors, link = 0 → lane < 128 → lane ∉ (s.link k).failed →
      let th := s.fg (R.DL_CTL die) F.DL_CTL_lane_err_thresh
      ∃ t, exec (.laneErrorWindow die link lane errors) s = .next t ∧ t.now = s.now + 1000000 ∧ (if th ≠ 0 ∧ th ≤ errors then hub t lane else t.links = s.links ∧ width t = width s)) ∧
    (∀ port lane, s.hostOn port = true → s.inTest = true → link = 0 → lane < 128 → lane ∉ (s.link k).failed → ∃ t, exec (.dlTestFail port die link lane) s = .next t ∧ hub t lane) ∧
    (∀ lane n, link ≠ 0 → lane < 1056 → lane ∉ (s.link k).failed → (s.link k).logical lane = some n →
      ∃ t, exec (.linkLaneFail die link lane) s = .next t ∧ t.dieState die = 0 ∧ lane ∈ (t.link k).failed ∧
        (match (s.link k).freeSpare with
         | some sp => width t = width s ∧ t.fb st F.DL_LINK_STATUS_retraining = true ∧ tget (t.link k).spares n = some sp
         | none => width t = nextWidth 1024 (width s) (n :: s.lostLanes k) false)) ∧
    (∀ good, s.fb st F.DL_LINK_STATUS_retraining = true → (∀ g, g < 64 → s.grpState g ≠ 5) →
      ∃ t, exec (.linkRetrainDone die link good) s = .next t ∧ t.fb st F.DL_LINK_STATUS_retraining = false ∧
        ((s.link k).restoring = false → width t = width s ∧ t.links = s.links) ∧
        ((s.link k).restoring = true → (∀ e ∈ endsOf k, ∀ l ∈ (s.link e).lost, l ∈ good) → s.fg st F.DL_LINK_STATUS_light_lo = 0 → s.fg st F.DL_LINK_STATUS_light_hi = 0 →
          width t = (0, 0) ∧ (t.link k).restoring = false ∧ (t.link k).ordered = false))

/-- Comb light (R28, R310, R311): lines that are lost or come back show in both ports of their fibre; with no line left both hub links lose the half it lights, and with all sixteen present a port
that was DARK starts to lock, where its record and its die let it. -/
def Obligations.LightLinesShowAndLock : Prop :=
  ∀ (s : State) (fibre line : Nat), fibre < 8 → line < 16 →
    let ok (t : State) (p : Nat) : Nat := t.fg (R.SP_LIGHT p) F.SP_LIGHT_line_ok
    let all (t : State) (p : Nat) : Nat := t.fg (R.SP_LIGHT p) F.SP_LIGHT_fibre_ok
    let lo (t : State) : Nat := t.fg (R.DL_LINK_STATUS fibre 0) F.DL_LINK_STATUS_light_lo
    let hi (t : State) : Nat := t.fg (R.DL_LINK_STATUS ((fibre + 4) % 8) 0) F.DL_LINK_STATUS_light_hi
    let old := ok s (2 * fibre)
    let back (p : Nat) : Nat := if s.spExpect p = 0 ∨ (s.spExpect p = 2 ∧ s.inTest = false) then 0 else if 4 ≤ s.fg (R.SP_STATUS p) F.SP_STATUS_attest_fails then 12
      else if p < 8 ∧ s.dieUp p = false then 13 else 2
    (∀ lost, bit lost line = true → bit old line = true →
      ∃ t, exec (.lightLineLost fibre lost) s = .next t ∧ s.SameMemory t ∧
        (∀ p, p / 2 = fibre → (∀ i, i < 16 → bit (ok t p) i = (bit old i && !bit lost i)) ∧ all t p = 0) ∧
        ((∀ i, i < 16 → bit old i = true → bit lost i = true) → lo t = 1 ∧ hi t = 1 ∧
          (∀ p, p / 2 = fibre → 2 ≤ s.spState p → s.spState p ≤ 11 → t.spState p = 13)) ∧
        (∀ i, i < 16 → bit old i = true → bit lost i = false → lo t = lo s ∧ hi t = hi s)) ∧
    (bit old line = false →
      ∃ t, exec (.lightLinePresent fibre line) s = .next t ∧ s.SameMemory t ∧ lo t = 0 ∧ hi t = 0 ∧
        (∀ p, p / 2 = fibre → ok t p = old ||| 2 ^ line ∧ all t p = (if old ||| 2 ^ line = 0xFFFF then 1 else 0) ∧
          t.spState p = (if old ||| 2 ^ line = 0xFFFF ∧ s.spState p = 1 then back p else s.spState p)))

/-- Bring-up (R311, R312, R316, R323): each step of a port leads to the next one; lanes that did not lock or train are failed and set the width; a step that exceeds its bound backs off for its
interval, which doubles up to 1,024 ms, or counts as a failed attestation, the fourth of which disables the port; light that returns restarts the interval; and a port goes back to step 1, OFF without
a wiring record to expect, DISABLED while four attestations have failed, and backed off while its die is out of service. -/
def Obligations.PortsComeUpByTheirSteps : Prop :=
  ∀ (s : State) (p : Nat), p < 16 →
    let x := s.spS p
    let st (t : State) (f : Fld) : Nat := t.fg (R.SP_STATUS p) f
    let step1 (fails : Nat) : Nat := if s.spExpect p = 0 ∨ (s.spExpect p = 2 ∧ s.inTest = false) then 0 else if 4 ≤ fails then 12 else if p < 8 ∧ s.dieUp p = false then 13 else if s.lightOk p then 2 else 1
    let n := st s F.SP_STATUS_attest_fails + 1
    (∀ locked, s.spState p = 2 → ∃ t, exec (.spLockDone p locked) s = .next t ∧ t.spState p = 3 ∧ t.fg (R.SP_LANES p) F.SP_LANES_locked = locked % 2 ^ 16 ∧
      t.fg (R.SP_LANES p) F.SP_LANES_failed_here = 0xFFFF - locked % 2 ^ 16 ∧ bit (t.fg R.CLK_STATUS F.CLK_STATUS_lclk_lock) p = true ∧ s.RegsOnly t [R.SP_LANES p, R.SP_STATUS p, R.CLK_STATUS]) ∧
    (∀ rtt failed far, s.spState p = 3 → failed < 2 ^ 16 → far < 2 ^ 16 →
      let w := laneWidth ((failed ||| (0xFFFF - s.fg (R.SP_LANES p) F.SP_LANES_locked)) ||| far)
      ∃ t, exec (.spTrainingDone p rtt failed far) s = .next t ∧ st t F.SP_STATUS_rtt = min rtt 0xFFFF ∧ st t F.SP_STATUS_over_reach = b2n (decide (reachRtt p (12 ≤ p && s.longReach) < rtt)) ∧
        (if w.1 = 3 then t.spState p = 13 else t.spState p = 4 ∧ st t F.SP_STATUS_width = w.1 ∧ st t F.SP_STATUS_in_use = w.2)) ∧
    (s.spState p = 4 → ∃ t, exec (.spFecLockDone p) s = .next t ∧ t.spState p = 5 ∧ (t.spS p).txSeq = 0 ∧ (t.spS p).rxSeq = 0 ∧ (t.spS p).replay = [] ∧ (t.spS p).verdict = 0) ∧
    (2 ≤ s.spState p → s.spState p ≤ 5 →
      ∃ t, exec (.spBringupTimeout p) s = .next t ∧ t.spState p = 13 ∧ st t F.SP_STATUS_width = 3 ∧ (t.spS p).retryAt = s.now + x.backoff ∧ (t.spS p).backoff = min (2 * x.backoff) 1024000000 ∧ (t.spS p).keys = none) ∧
    (6 ≤ s.spState p → s.spState p ≤ 7 →
      ∃ t, exec (.spBringupTimeout p) s = .next t ∧ t.spState p = (if 4 ≤ n then 12 else 11) ∧ st t F.SP_STATUS_attest_fails = n % 8 ∧
        (t.spS p).retryAt = s.now + 1000000000 * 2 ^ (n - 1) ∧ (t.spS p).keys = none) ∧
    (s.spState p = 13 → (p < 8 → s.dieUp p = true) → s.mstate < MState.faulted →
      ∃ t, exec (.spBackoffExpiry p) s = .next t ∧ t.now = max s.now x.retryAt ∧ t.spState p = step1 (st s F.SP_STATUS_attest_fails)) ∧
    (∀ port, s.hostOn port = true → port = s.tokenPort → s.spState p = 12 → st s F.SP_STATUS_attest_fails = 4 →
      ∃ t, exec (.spReenable port p) s = .next t ∧ t.spState p = step1 0 ∧ st t F.SP_STATUS_attest_fails = 0 ∧ s.RegsOnly t [R.SP_STATUS p]) ∧
    (∃ t, exec (.receivedLightAboveLos p) s = .next t ∧ (t.spS p).backoff = 1000000 ∧ s.SameMemory t ∧
      t.spState p = (if s.spState p = 13 ∧ (p < 8 → s.dieUp p = true) ∧ s.mstate < MState.faulted then step1 (st s F.SP_STATUS_attest_fails) else s.spState p))

/-- Identity and attestation (R314, R315, R316, R323, R466, R467, R468): IDENTs are repeated in frames of 24 bytes; one that is received is judged, a bad one only counted, and leads to a held state
or, with both verdicts good, to attestation; reports that verify lead to keying, a finish that verifies puts the port UP, and any that does not verify counts as a failed attestation. -/
def Obligations.PortsIdentifyAndAttest : Prop :=
  ∀ (s : State) (p : Nat) (msg : Bytes), p < 16 → 4 ≤ s.spState p → s.spState p < 12 →
    let x := s.spS p
    let st := s.spState p
    let failed (t : State) : Prop := t.spState p = 11 ∨ t.spState p = 12
    ((st = 5 ∨ st = 9 ∨ st = 10) →
      ∃ t fs, exec (.identSend p) s = .next t ∧ t.now = s.now + (if st = 5 then 10000 else 1000000000) ∧ t.sent = s.sent ++ fs ∧ fs.length = (chunks 24 (s.identMsg p)).length ∧
        (∀ m ∈ fs, ∃ b, m = .frame p b) ∧ t.spState p = st) ∧
    (st = 11 → ∃ t, exec (.attestRetry p) s = .next t ∧ t.spState p = 6 ∧ t.now = max s.now x.retryAt ∧ t.randCtr = s.randCtr + 96 ∧ (t.spS p).helloOut ≠ []) ∧
    (msg ≠ [] → x.msgIn.take msg.length = msg →
      (let good := msg.length = 128 ∧ fieldAt msg 0 4 = 0x544E4449 ∧ fieldAt msg 4 2 = 1 ∧ fieldAt msg 124 4 = crc32c (msg.take 124)
       let c := s.judge p msg
       ∃ t, exec (.ident p msg) s = .next t ∧ (st ≠ 6 → st ≠ 7 → t.spState p ≠ 6 → (t.spS p).msgIn = x.msgIn.drop msg.length) ∧
        (¬good → t.spState p = st ∧ t.fg (R.SP_CNT_BAD_IDENT p) ⟨0, 48⟩ = min (s.fg (R.SP_CNT_BAD_IDENT p) ⟨0, 48⟩ + 1) (2 ^ 48 - 1)) ∧
        (good → (st = 5 ∨ st = 9 ∨ st = 10) → (t.spS p).lastIdent = msg ∧
          (c = Code.levelMismatch → t.spState p = 10) ∧ (c = Code.miswired → t.spState p = 9) ∧
          (c = Code.ok → fieldAt msg 30 1 = 1 → t.spState p = 6) ∧ (c = Code.ok → fieldAt msg 30 1 = 0 → t.spState p = 5) ∧
          (c = Code.ok → fieldAt msg 30 1 = 2 → t.fg (R.SP_STATUS p) F.SP_STATUS_far_reject = 1 ∧ (t.spState p = 9 ∨ t.spState p = 10)))) ∧
      (st = 6 → fieldAt msg 0 4 = 0x4F4C4548 → fieldAt msg 4 2 = 1 → msg.length = 160 → x.latIn = [] →
        ∃ t, exec (.lhello p msg) s = .next t ∧ t.spState p = 6 ∧ (t.spS p).helloIn = msg ∧ (t.spS p).msgIn = x.msgIn.drop msg.length) ∧
      (st = 6 → fieldAt msg 0 4 = 0x5441544C → fieldAt msg 4 2 = 1 → msg.length = 16 + fieldAt msg 8 4 + fieldAt msg 12 4 → x.helloIn ≠ [] →
        let rl := fieldAt msg 8 4
        let c := s.attestCode (slice msg (16 + rl) (fieldAt msg 12 4)) (slice msg 16 rl) (ownNonce x.helloIn x.helloOut) x.lastIdent (s.spExpect p)
        ∃ t, exec (.lattest p msg) s = .next t ∧
          (c ≠ Code.ok → failed t ∧ t.fg R.RIND_CNT_ATT_FAIL ⟨0, 48⟩ = min (s.fg R.RIND_CNT_ATT_FAIL ⟨0, 48⟩ + 1) (2 ^ 48 - 1)) ∧
          (c = Code.ok → x.latOut = [] → t.spState p = 6 ∧ (t.spS p).latIn = msg) ∧ (c = Code.ok → x.latOut ≠ [] → t.spState p = 7 ∨ failed t)) ∧
      (∀ k, st = 7 → fieldAt msg 0 4 = 0x4E49464C → msg.length = 24 → x.newKeys = some k →
        ∃ t, exec (.lfinish p msg) s = .next t ∧
          (if msg = finishMsg k.rxKey k.rxSalt (s.transcript p) then t.spState p = 8 ∧ (t.spS p).keys = some k ∧
             t.fg (R.SP_STATUS p) F.SP_STATUS_op_level = min s.runningFw.level (fieldAt x.lastIdent 28 2) % 2 ^ 16 ∧ t.fg (R.SP_STATUS p) F.SP_STATUS_attest_fails = 0
           else failed t ∧ (t.spS p).keys = none)))

/-- Frames and lanes of a port in use (R304, R317, R318, R319, R320, R326): a good frame in order advances the receiver and a damaged one is asked for again; a lane that fails by itself, in TEST, or by
the codewords of a window, sets the width of the lanes left, or takes the port down; a partner's width order does so at the frame it names; and a retrain, in this end's pause or the partner's, starts from the lanes that
still fail at either end. Where it settles what the spec leaves open, the choice is the model's (assumption log 129). -/
def Obligations.SelvageLanesSetTheWidth : Prop :=
  ∀ (s : State) (p : Nat), p < 16 →
    let st := s.spState p
    let field (t : State) (f : Fld) : Nat := t.fg (R.SP_STATUS p) f
    let here (t : State) : Nat := t.fg (R.SP_LANES p) F.SP_LANES_failed_here
    let far (t : State) : Nat := t.fg (R.SP_LANES p) F.SP_LANES_failed_far
    let runs (t : State) (w : Nat × Nat) : Prop := field t F.SP_STATUS_width = w.1 ∧ field t F.SP_STATUS_in_use = w.2 ∧ t.spState p = st
    let down (t : State) (cause : Nat) : Prop := t.spState p = 13 ∧ field t F.SP_STATUS_down_cause = cause ∧ (t.spS p).keys = none
    let lanes (t : State) (h : Nat) (dark : Bool) : Prop :=
      here t = h ∧ (if dark then down t 1 else if (laneWidth (h ||| far s)).1 = 3 then down t 3 else
        (laneWidth (h ||| far s) ≠ laneWidth (here s ||| far s) → runs t (laneWidth (h ||| far s))) ∧ (laneWidth (h ||| far s) = laneWidth (here s ||| far s) → t.rd (R.SP_STATUS p) = s.rd (R.SP_STATUS p)))
    (∀ f : SpFrame, 4 ≤ st → st < 12 →
      ∃ t, exec (.spFrameRx p f) s = .next t ∧ t.fg (R.SP_CNT_FEC_CORR p) ⟨0, 48⟩ = min (s.fg (R.SP_CNT_FEC_CORR p) ⟨0, 48⟩ + f.fixed) (2 ^ 48 - 1) ∧
        (if s.frameGood p f then
           f.again = false → (s.spS p).rxSeq = fieldAt f.bytes 0 3 % 2 ^ 20 → (t.spS p).rxSeq = ((s.spS p).rxSeq + 1) % 2 ^ 20 ∨ t.spState p = 13
         else f.again = false → t.sp = s.sp ∧ t.fj = s.fj ∧ t.sent = s.sent ++ [.resendAsk p (s.spS p).rxSeq])) ∧
    (∀ mask, mask ≠ 0 → mask < 2 ^ 16 → 3 ≤ st → st ≤ 11 → ∃ t, exec (.spLaneFail p mask) s = .next t ∧ lanes t (here s ||| mask) ((List.range 16).all (fun i => !bit (s.fg (R.SP_LANES p) F.SP_LANES_locked) i || bit mask i)) ∧
      ∀ i, i < 16 → bit mask i = true → bit (t.fg (R.SP_LANES p) F.SP_LANES_locked) i = false) ∧
    (∀ port lane, s.hostOn port = true → port = s.tokenPort → s.inTest = true → lane < 16 → 3 ≤ st → st ≤ 11 → ∃ t, exec (.spTestFail port p lane) s = .next t ∧ lanes t (here s ||| 2 ^ lane) false) ∧
    (∀ counts : List Nat, counts.length = 16 → 4 ≤ st → st < 12 →
      let th := s.fg (R.SP_CTL p) F.SP_CTL_unc_thresh
      let m := maskOf (indices 16 (fun i => decide (th ≠ 0 ∧ th ≤ counts.getD i 0)))
      ∃ t, exec (.spUncWindow p counts) s = .next t ∧ t.now = s.now + 1000000 ∧ t.fg (R.SP_CNT_FEC_UNC p) ⟨0, 48⟩ = min (s.fg (R.SP_CNT_FEC_UNC p) ⟨0, 48⟩ + counts.sum) (2 ^ 48 - 1) ∧
        (if m = 0 then t.rd (R.SP_LANES p) = s.rd (R.SP_LANES p) ∧ t.rd (R.SP_STATUS p) = s.rd (R.SP_STATUS p) else lanes t (here s ||| m) false)) ∧
    (∀ mask at_, 4 ≤ st → st < 12 → (s.spS p).order = some (mask, at_) → mask < 2 ^ 16 →
      ∃ t, exec (.widthOrder p mask at_) s = .next t ∧ far t = far s ||| mask ∧ here t = here s ∧
        (let w := laneWidth (here s ||| (far s ||| mask))
         if w.1 = 3 then down t 3
         else if w = laneWidth (here s ||| far s) then t.rd (R.SP_STATUS p) = s.rd (R.SP_STATUS p)
         else if frameReached (s.spS p).rxSeq at_ = true then runs t w ∧ (t.spS p).switchAt = none
         else (t.spS p).switchAt = some at_ ∧ t.rd (R.SP_STATUS p) = s.rd (R.SP_STATUS p))) ∧
    (∀ h f own, h < 2 ^ 16 → f < 2 ^ 16 → 4 ≤ st → st < 12 → (own = true → s.atPause = true ∧ s.fb (R.SP_CTL p) F.SP_CTL_restore = true) →
      ∃ t, exec (.spRetrainDone p ⟨h, f, own⟩) s = .next t ∧ (own = true → t.fb (R.SP_CTL p) F.SP_CTL_restore = false) ∧ here t = h ∧ far t = f ∧
        (if (laneWidth (h ||| f)).1 = 3 then down t 3 else runs t (laneWidth (h ||| f)) ∧ t.fg (R.SP_LANES p) F.SP_LANES_locked = 0xFFFF - h))

/-- Watchdogs, link keys and grants (R197, R262, R322, R470): a virtual channel starved for credit_wd µs marks the port slow, and one starved for stall_limit µs takes it down; at its frame limit an end
names a frame (log entry 144) and takes its next key at it; the crossbar sends the head it picks, of which every flit is charged; those that have credits leave and the rest wait
for credits, but for a port whose partner is not attested, which uses none. -/
def Obligations.SelvageWatchdogsKeysAndGrants : Prop :=
  ∀ (s : State) (p vc : Nat), p < 16 → vc < 10 →
    let since := tgetD (s.spS p).starved vc s.now
    (s.starving p vc = true →
      ∃ t, exec (.spCreditWatchdog p vc) s = .next t ∧ t.now = max s.now (since + 1000 * max 1 (s.fg (R.SP_CTL p) F.SP_CTL_credit_wd)) ∧ t.fb (R.SP_STATUS p) F.SP_STATUS_slow = true ∧
        t.fg (R.SP_CNT_WD p) ⟨0, 48⟩ = min (s.fg (R.SP_CNT_WD p) ⟨0, 48⟩ + 1) (2 ^ 48 - 1) ∧ t.spState p = 8 ∧ t.fj = s.fj) ∧
    (s.starving p vc = true → s.fg (R.SP_CTL p) F.SP_CTL_stall_limit ≠ 0 →
      ∃ t, exec (.spStallLimit p vc) s = .next t ∧ t.now = max s.now (since + 1000 * s.fg (R.SP_CTL p) F.SP_CTL_stall_limit) ∧ t.spState p = 13 ∧
        t.fg (R.SP_STATUS p) F.SP_STATUS_down_cause = 5 ∧ (t.spS p).keys = none) ∧
    (∀ k, (s.spS p).keys = some k →
      let km := kdf k.txKey k.txSalt "QSN8 link update" 36
      (2 ^ 32 ≤ k.txCount → (s.spS p).rekeyTx = none →
        ∃ t fs, exec (.linkRekey p) s = .next t ∧ (t.spS p).rekeyTx = some 0 ∧ (t.spS p).keys = some { k with txCount := k.txCount + fs.length } ∧
          t.sent = s.sent ++ fs ∧ fs.length = (chunks 24 (Config.rekeyHead ++ leBytes 3 0)).length ∧ (∀ m ∈ fs, ∃ b, m = .frame p b) ∧ s.SameMemory t) ∧
      ((s.spS p).rekeyTx = some ((s.spS p).txSeq % 2 ^ 20) → ((s.switchTx p).spS p).keys = some { k with txKey := slice km 0 32, txSalt := slice km 32 4, txCount := 0 })) ∧
    (∀ out inp h, s.inHead out inp = some h → out < 40 → s.xbarPick out = some inp → s.fb R.FJ_EPOCH F.FJ_EPOCH_draining = false →
      ∃ t fs, exec (.xbarGrant out inp) s = .next t ∧ t.fj.xq = s.fj.xq.erase h ∧ tget t.fj.xlast out = some inp ∧
        (tgetD t.bud.ctr (budKey h.act 5 h.sp) BudCtr.zero).used = min (2 ^ 32 - 1) ((tgetD s.bud.ctr (budKey h.act 5 h.sp) BudCtr.zero).used + h.pkt.flits) ∧
        (let fl := chunks 64 h.pkt.raw
         let n := if s.spState h.sp = 11 then fl.length else min fl.length (s.credit h.sp h.pkt.vc)
         (t.spS h.sp).credits = (s.spS h.sp).credits.modify h.pkt.vc (fun c => c - n) ∧
         (t.spS h.sp).tail = (if n < fl.length then some (out, h.pkt.vc, fl.drop n) else none) ∧
         t.sent = s.sent ++ fs ∧ fs.length = cdiv n 35 ∧ (∀ m ∈ fs, ∃ b, m = .frame h.sp b)))

/-- What the home ingress does with a request (R337, R349, R350, R364): a STORE, LOAD or atomic at the head of its virtual channel within its source's share is checked; one that fails leaves the queues
as they are and is counted as refused; a flagged one whose follow count is not met parks on its port or finds it full; any other enters the ingress queue. -/
def Obligations.HomeIngressQueuesParksOrRefuses : Prop :=
  ∀ (s u : State) (port : Nat) (pkt : Packet) (c : Instr), s.takeRx port pkt = some u → pkt.dest = s.device → s.ingressRoom pkt = true → s.fb R.FJ_EPOCH F.FJ_EPOCH_draining = false →
    ((c = .store port pkt ∧ pkt.cls = 1 ∧ pkt.op ≠ FOp.load ∧ isAtomic pkt.op = false) ∨ (c = .load port pkt ∧ pkt.cls = 1 ∧ pkt.op = FOp.load) ∨
      (c = .atomic port pkt ∧ pkt.cls = 1 ∧ isAtomic pkt.op = true)) →
    let r := u.accept port pkt
    let q := r.2.1
    let more (t : State) (k : Nat) : Prop := t.fg k ⟨0, 48⟩ = min (s.fg k ⟨0, 48⟩ + 1) (2 ^ 48 - 1)
    ∃ t, exec c s = .next t ∧ s.SameMemory t ∧ t.fj.order = s.fj.order ∧
      (if r.1 ≠ Code.ok then t.fj.ingress = s.fj.ingress ∧ t.fj.parked = s.fj.parked ∧ more t R.FJ_CNT_REFUSED ∧ (r.1 = Code.keyUnknown ∨ r.1 = Code.badSignature → more t R.FJ_CNT_BAD_TAG)
       else if q.flagged = true ∧ s.orderC q < q.follow then
         t.fj.ingress = s.fj.ingress ∧
         (if (s.fj.parked.filter (fun e => min 16 e.1 = min 16 port)).length < 64 then t.fj.parked = s.fj.parked ++ [(port, q, s.now)] ∧ more t R.FJ_CNT_PARKED
          else t.fj.parked = s.fj.parked ∧ more t R.FJ_CNT_PARK_FULL)
       else t.fj.ingress = s.fj.ingress ++ [(port, q)] ∧ t.fj.parked = s.fj.parked)

/-- Applying the packets of a line (R129, R335, R349, R361, R362, R363): a store writes its bytes and no others, an atomic its new value, a load nothing; an unflagged packet adds 1 to its stream's count
and a flagged one takes its follow count; of two whole-line stores an unflagged first is retired; two additions to one word are
both in the sum. The target's die lives, no MMA holds the accumulator banks it lies in (R139), and the way to it is open. Where it settles what the spec leaves open, the choice is the model's (assumption log 27). -/
def Obligations.AppliedPacketsActOnTheirLine : Prop :=
  ∀ (s : State) (e : Nat × Packet) (core off : Nat), s.Canon → targetOf e.2.addr = .sram core off → s.fj.parked = [] → s.tiers.ecc = [] → s.targetDead (targetOf e.2.addr) = false →
    s.accHeld (targetOf e.2.addr) (reqBytes e.2) = false → s.fb R.FJ_EPOCH F.FJ_EPOCH_draining = false →
    let way (x : Nat × Packet) : Prop := s.waysOpen x.1 x.2 = true
    let line := lineOf e.2
    let k := sramKey core off
    let counted (t : State) (p : Packet) : Prop := t.orderC p = (if p.flagged then s.orderC p - p.follow else (s.orderC p + 1) % 2 ^ 24)
    let only (t : State) (n : Nat) : Prop := ∀ a, (a < k ∨ k + n ≤ a) → t.memRd a = s.memRd a
    way e →
    (s.lineHead line = some e → s.fj.ingress.filter (fun f => lineOf f.2 = line) = [e] →
      ∃ t, exec (.ingressApply line) s = .next t ∧ t.fj.ingress = s.fj.ingress.erase e ∧ counted t e.2 ∧
        t.fg R.FJ_CNT_RX ⟨0, 48⟩ = min (s.fg R.FJ_CNT_RX ⟨0, 48⟩ + 1) (2 ^ 48 - 1) ∧
        (if e.2.op = FOp.load then only t 0
         else if isAtomic e.2.op then
           let w := atomicWidth e.2.op
           only t w ∧ leNat (t.memRdN k w) = (atomicNew e.2.op (leNat (s.memRdN k w)) e.2.data).getD (leNat (s.memRdN k w)) % 2 ^ (8 * w)
         else only t e.2.data.length ∧ ∀ i b, e.2.data[i]? = some b → t.memRd (k + i) = b)) ∧
    (∀ f : Nat × Packet, s.fj.ingress = [e, f] → lineOf f.2 = line → fullLine e.2 = true → e.2.flagged = false → fullLine f.2 = true → e.2.addr = f.2.addr → way f →
      ∃ t, exec (.ingressApply line) s = .next t ∧ t.fj.ingress = [] ∧ only t 64 ∧ (∀ i b, f.2.data[i]? = some b → t.memRd (k + i) = b) ∧
        t.fg R.FJ_CNT_RETIRED ⟨0, 48⟩ = min (s.fg R.FJ_CNT_RETIRED ⟨0, 48⟩ + 1) (2 ^ 48 - 1)) ∧
    (∀ f : Nat × Packet, s.fj.ingress = [e, f] → e.2.op = 0x10 → combines e.2 f.2 = true →
      ∃ t, exec (.ingressApply line) s = .next t ∧ t.fj.ingress = [] ∧ only t 8 ∧
        leNat (t.memRdN k 8) = (leNat (s.memRdN k 8) + fieldAt e.2.data 0 8 + fieldAt f.2.data 0 8) % 2 ^ 64 ∧
        t.fg R.FJ_CNT_COMBINED ⟨0, 48⟩ = min (s.fg R.FJ_CNT_COMBINED ⟨0, 48⟩ + 1) (2 ^ 48 - 1))

/-- Answers to packets of a core (R335, R348, R350, R352, R354, R355, R356): an ACK and an ATOMIC_RSP count their packet as acknowledged and release the stream it held, a NACK to be retried waits for the
retry delay, unless its pair is lost, and any other counts as the answer and is remembered by the pair, a LOAD_RSP puts its data into SRAM; an answer with a bad head, of an activity that is not here,
to nothing, or with a bad tag, changes only counts. A NACK may come from the home, a hop or this module. An answer crosses to its core when its way is open
and no MMA holds the banks its data goes to. -/
def Obligations.AnswersCompleteTheirPackets : Prop :=
  ∀ (s u : State) (p : Nat) (q : Packet), s.Canon → (s.takeRx p q).bind (fun t => t.rspCross p q) = some u → q.cls = 2 → q.dest = s.device → s.fb R.FJ_EPOCH F.FJ_EPOCH_draining = false →
    let more (t : State) (k : Nat) : Prop := t.fg k ⟨0, 48⟩ = min (s.fg k ⟨0, 48⟩ + 1) (2 ^ 48 - 1)
    let done (t : State) (e : Sent) : Prop :=
      let k := pairKey e.core e.pkt.dest e.pkt.chan
      t.fj.sent = s.fj.sent.erase e ∧ (t.pair k).acked = (s.pair k).acked + 1 ∧ (t.pair k).issued = (s.pair k).issued ∧ (t.pair k).lost = (s.pair k).lost ∧ (∀ j, j ≠ k → t.pair j = s.pair j) ∧
      (e.pkt.flagged = true → tget t.fj.hold (numKey e.pkt.cls e.pkt.dest e.pkt.chan) = none)
    let wrote (t : State) (core off n : Nat) (b : Bytes) : Prop :=
      (∀ i x, i < n → b[i]? = some x → t.memRd (sramKey core (off + i)) = x) ∧ ∀ a, (a < sramKey core off ∨ sramKey core off + n ≤ a) → t.memRd a = s.memRd a
    (q.op = FOp.ack →
      ∃ t, exec (.ack p q) s = .next t ∧ s.SameMemory t ∧
        (∀ c, s.rspBad q = some c → t.fj.sent = s.fj.sent ∧ t.fj.pairs = s.fj.pairs ∧ more t R.FJ_CNT_REFUSED) ∧
        (s.rspBad q = none → ∀ e, s.sentOf q = some e → e.core < 32 → ∀ o, s.openRsp q e.xseq = some o → done t e ∧ more t R.FJ_CNT_RX) ∧
        (s.rspBad q = none → ∀ e, s.sentOf q = some e → s.openRsp q e.xseq = none → t.fj.sent = s.fj.sent ∧ t.fj.pairs = s.fj.pairs ∧ more t R.FJ_CNT_BAD_TAG ∧ more t R.FJ_CNT_REFUSED) ∧
        (s.sentOf q = none → t.fj.sent = s.fj.sent ∧ t.fj.pairs = s.fj.pairs)) ∧
    (q.op = FOp.atomicRsp → s.rspBad q = none → ∀ e o l off n, s.sentOf q = some e → s.openRsp q e.xseq = some o → s.loadOf q = some l → l.parts = [(off, n)] → o.data.length = n →
      ∃ t, exec (.atomicRsp p q) s = .next t ∧ done t e ∧ t.fj.loads = s.fj.loads.erase l ∧ wrote t l.core off n o.data) ∧
    (q.op = FOp.nack → s.rspBad q = none → ∀ e o, s.nackedSent q = some e → e.core < 32 → (∀ l ∈ s.fj.loads, ¬(l.dev = e.pkt.dest ∧ l.chan = e.pkt.chan ∧ l.seq = e.pkt.seq)) → s.openRsp q e.xseq = some o →
      ∃ t, exec (.nack p q) s = .next t ∧ s.SameMemory t ∧ more t R.FJ_CNT_NACK_RX ∧ t.fb R.FJ_STATUS F.FJ_STATUS_nack = true ∧ t.fb R.FJ_NACK_LOG F.FJ_NACK_LOG_valid = true ∧
        (let code := fieldAt o.data 0 1
         if code = Code.parkFull ∨ code = Code.busy then
           t.fj.sent = s.fj.sent ∧ t.fj.pairs = s.fj.pairs ∧ t.fj.retry = s.fj.retry ++
             (if (s.pair (pairKey e.core e.pkt.dest e.pkt.chan)).lost then [] else [(e, s.now + 1000 * max 1 (s.fg R.FJ_TIMERS F.FJ_TIMERS_retry_delay))])
         else done t e ∧ (t.pair (pairKey e.core e.pkt.dest e.pkt.chan)).nacked = some (min e.iss ((s.pair (pairKey e.core e.pkt.dest e.pkt.chan)).nacked.getD e.iss)))) ∧
    (q.op = FOp.loadRsp → s.rspBad q = none → ∀ l o off n, s.loadOf q = some l → l.op = FOp.load → s.openRsp q (s.loadXseq l) = some o → l.parts = [(off, n)] → o.data.length = n →
      ∃ t, exec (.loadRsp p q) s = .next t ∧ t.fj.loads = s.fj.loads.erase l ∧ t.fj.sent = s.fj.sent ∧ wrote t l.core off n o.data)

/-- Timers of the fabric (R346, R350, R351, R353, R356): a packet parked too long is discarded and its stream's count cleared; the oldest unanswered packet of a pair loses it; a load without
a response fails with TARGET_DEAD; a packet to be retried leaves again with its numbers. -/
def Obligations.FabricTimersExpire : Prop :=
  ∀ (s : State),
    let more (t : State) (k : Nat) : Prop := t.fg k ⟨0, 48⟩ = min (s.fg k ⟨0, 48⟩ + 1) (2 ^ 48 - 1)
    (∀ i e, s.fj.parked[i]? = some e →
      ∃ t, exec (.parkTimeout i) s = .next t ∧ t.now = max s.now (e.2.2 + 1000 * max 1 (s.fg R.FJ_TIMERS F.FJ_TIMERS_park_timeout)) ∧ t.fj.parked = s.fj.parked.erase e ∧ t.orderC e.2.1 = 0 ∧
        (∀ k, k ≠ orderKey e.2.1 → tget t.fj.order k = tget s.fj.order k) ∧ more t R.FJ_CNT_PARK_EXPIRED ∧ t.sent = s.sent ∧ s.SameMemory t) ∧
    (∀ core dev chan since, core < 32 → s.oldest core dev chan = some since → (s.pair (pairKey core dev chan)).lost = false →
      ∃ t, exec (.ackTimeout core dev chan) s = .next t ∧ t.now = max s.now (since + 1000 * max 1 (s.fg R.FJ_TIMERS F.FJ_TIMERS_ack_timeout)) ∧
        (t.pair (pairKey core dev chan)).lost = true ∧ (∀ k, k ≠ pairKey core dev chan → t.pair k = s.pair k) ∧ t.fb R.FJ_STATUS F.FJ_STATUS_lost_pair = true ∧ more t R.FJ_CNT_ACK_TIMEOUT ∧
        t.fj.sent = s.fj.sent ∧ s.SameMemory t) ∧
    (∀ i l, s.fj.loads[i]? = some l →
      ∃ t, exec (.loadTimeout i) s = .next t ∧ t.now = max s.now (l.since + 1000 * max 1 (s.fg R.FJ_TIMERS F.FJ_TIMERS_load_timeout)) ∧ t.fj.loads = s.fj.loads.erase l ∧
        more t R.FJ_CNT_LOAD_TIMEOUT ∧ t.sent = s.sent ++ [.report Code.targetDead (leBytes 2 l.dev ++ leBytes 1 l.act)] ∧ s.SameMemory t ∧
        (∀ part ∈ l.parts, ∀ w, part.1 / 8 ≤ w → w < (part.1 + part.2 + 7) / 8 → tget t.tiers.ecc (sramKey l.core 0 / 8 + w) = some 3)) ∧
    (∀ i r, s.fj.retry[i]? = some r → s.fj.sent.contains r.1 = true → s.fjStill = false →
      let k : Packet := { r.1.pkt with src := s.device, vc := 2 * r.1.pkt.cls, epoch := s.epoch, transit := false, hop := 0, tag := [] }
      ∃ t, exec (.fjRetry i) s = .next t ∧ t.now = max s.now r.2 ∧ t.fj.retry = s.fj.retry.erase r ∧ t.fj.sent = s.fj.sent ∧ t.fj.pairs = s.fj.pairs ∧
        (∀ key, s.keyOf r.1.pkt.key = some key → r.1.pkt.dest = s.device → t.rx (s.originOf r.1.core).key = s.rx (s.originOf r.1.core).key ++ [k.seal key r.1.xseq]) ∧
        (∀ key q fb, s.keyOf r.1.pkt.key = some key → s.route (k.seal key r.1.xseq) (s.originOf r.1.core) = Route.port q fb → ∃ h, t.fj.xq = s.fj.xq ++ [h] ∧ h.sp = q ∧ h.pkt.seq = r.1.pkt.seq ∧ h.pkt.follow = r.1.pkt.follow ∧ h.pkt.dest = r.1.pkt.dest))

/-- Transit, drain markers and leases (R335, R343, R345, R359, R360, R366, R367, R368): a packet for another module goes to the port R343 picks, one hop further, counted, or is refused; a marker of the epoch that drains
marks its input, and any other is counted; a valid LEASE sets the lease, and at its expiry the lease has ended. Where it settles what the spec leaves open, the choice is the model's (assumption log 24). -/
def Obligations.TransitDrainMarkersAndLeases : Prop :=
  ∀ (s : State) (p : Nat),
    let more (t : State) (k : Nat) : Prop := t.fg k ⟨0, 48⟩ = min (s.fg k ⟨0, 48⟩ + 1) (2 ^ 48 - 1)
    (∀ (pkt : Packet) (u : State), p < 16 → s.takeRx p pkt = some u → pkt.dest ≠ s.device → pkt.op ≠ FOp.drain →
      ∃ t, exec (.fjTransit p pkt) s = .next t ∧ s.SameMemory t ∧
        (match s.route { pkt with transit := true } (.port p) with
         | .port q fb => more t R.FJ_CNT_TRANSIT ∧ ∃ h, s.fj.xq ++ [h] <+: t.fj.xq ∧ h.sp = q ∧ h.out = xbarPort q pkt.chan ∧ h.inp = xbarPort p pkt.chan ∧ h.act = 255 ∧
             h.pkt = { pkt with transit := true, vc := 2 * pkt.cls + s.level { pkt with transit := true } (some p) q, hop := pkt.hop + 1, mode := if fb then 1 else pkt.mode }
         | _ => t.fg R.FJ_CNT_TRANSIT ⟨0, 48⟩ = s.fg R.FJ_CNT_TRANSIT ⟨0, 48⟩ ∧ min (s.fg R.FJ_CNT_NO_ROUTE ⟨0, 48⟩ + 1) (2 ^ 48 - 1) ≤ t.fg R.FJ_CNT_NO_ROUTE ⟨0, 48⟩)) ∧
    (∀ vc epoch k, p < 16 → (s.rx p).find? (fun x => x.vc = vc) = some k → k.op = FOp.drain → k.epoch = epoch → badHead k = false →
      ∃ t, exec (.drain p vc epoch) s = .next t ∧ s.SameMemory t ∧
        (if s.fb R.FJ_EPOCH F.FJ_EPOCH_draining = true ∧ epoch = 1 - s.epoch then t.fj.marksIn = pvKey p vc :: s.fj.marksIn else t.fj.marksIn = s.fj.marksIn ∧ more t R.FJ_CNT_REFUSED)) ∧
    (∀ (pkt : Packet) (u : State), (s.takeRx p pkt).bind (fun t => t.toHub p pkt) = some u → pkt.cls = 0 → pkt.op = FOp.lease → pkt.dest = s.device → (u.inspect pkt).1 = Code.ok →
      let q := (u.inspect pkt).2.1
      ∃ t, exec (.lease p pkt) s = .next t ∧ s.SameMemory t ∧
        (if q.key = 0 ∧ s.leaseOk q.data = true then t.rd R.FJ_LEASE = BitVec.ofNat 64 (fieldAt q.data 32 8) ∧ t.rd R.FJ_LEASE_TERM = BitVec.ofNat 64 (fieldAt q.data 16 8) ∧
           t.fg R.FJ_STATUS F.FJ_STATUS_lease = 1 ∧ t.fj.leaseNo = fieldAt q.data 24 8 ∧ t.fj.fm = (fieldAt q.data 40 2, fieldAt q.data 42 2)
         else t.rd R.FJ_LEASE = s.rd R.FJ_LEASE ∧ t.fg R.FJ_STATUS F.FJ_STATUS_lease = s.fg R.FJ_STATUS F.FJ_STATUS_lease ∧ more t R.FJ_CNT_REFUSED)) ∧
    (s.fg R.FJ_STATUS F.FJ_STATUS_lease = 1 → ∃ t, exec .leaseExpiry s = .next t ∧ t.fg R.FJ_STATUS F.FJ_STATUS_lease = 2 ∧ s.now ≤ t.now ∧ s.SameMemory t ∧
      (s.time.offset = 0 → t.rack = max s.rack (s.rd R.FJ_LEASE).toNat))

/-- Messages of the fabric manager (R357, R442, R443, R471, R472): MGMT reaches the MGC; a TEARDOWN packet tears down the activities of its key, their parked packets and the pairs their contexts used; KEY_LEAD makes the
module hold the key and lists its devices, KEY_FETCH begins a fetch, KEY_DROP erases a key that no RUNNING activity names; a stand-in order that passes its checks begins ripening. From any other sender they are counted only. -/
def Obligations.FabricManagerMessages : Prop :=
  ∀ (s u : State) (p : Nat) (pkt : Packet), (s.takeRx p pkt).bind (fun t => t.toHub p pkt) = some u → pkt.cls = 0 → pkt.dest = s.device → (u.inspect pkt).1 = Code.ok →
    let v := (u.inspect pkt).2.2
    let q := (u.inspect pkt).2.1
    let id := fieldAt q.data 0 2
    let kind := mgmtKind pkt
    let more (t : State) (k : Nat) : Prop := t.fg k ⟨0, 48⟩ = min (s.fg k ⟨0, 48⟩ + 1) (2 ^ 48 - 1)
    (pkt.op = FOp.mgmt → kind ≠ 1 → (kind < 0x10 ∨ 0x14 < kind) → ∃ t, exec (.mgmt p pkt) s = .next t ∧ more t R.FJ_CNT_RX ∧ t.keys = s.keys ∧ t.kpu = s.kpu ∧ s.SameMemory t) ∧
    (pkt.op = FOp.teardown → ∃ t, exec (.teardownPacket p pkt) s = .next t ∧ s.SameMemory t ∧
      (if v.fromManager q = true then
         (∀ a, a ∈ actList s.img.cfg → a ≠ 0 → a < 255 → actKey s.img.cfg a = id → s.actState a ≠ 0 →
           t.actState a = 1 ∧ (∀ e ∈ t.fj.parked, e.2.1.act ≠ a) ∧ (∀ x, x ∈ boundCtxs s.img.cfg a → x < 128 → t.ctxState x = 0 ∧ (t.ctx x).loops = []) ∧
           ∀ x, x ∈ boundCtxs s.img.cfg a → ∀ k, k / 2 ^ 20 = x / 4 → bit (s.pair k).users (x % 4) = true → tget t.fj.pairs k = none) ∧
         (∀ a, a < 256 → (a ∉ actList s.img.cfg ∨ a = 0 ∨ a = 255 ∨ actKey s.img.cfg a ≠ id) → t.actState a = s.actState a)
       else more t R.FJ_CNT_REFUSED ∧ t.seq = s.seq ∧ t.host = s.host)) ∧
    (pkt.op = FOp.mgmt → kind = 0x10 → ∃ t, exec (.keyLead p pkt) s = .next t ∧
      (if v.fromManager q = true ∧ id ≠ 0 ∧ v.keyRoom id = true then
         t.keyOf id = (if (s.keyOf id).isSome then s.keyOf id else some (s.random 32).1) ∧
         (∀ i, i < fieldAt q.data 2 2 → ∃ l, tget t.keys.lists id = some l ∧ l.devs.contains (fieldAt q.data (8 + 2 * i) 2) = true) ∧ t.keys.fetch = s.keys.fetch
       else more t R.FJ_CNT_REFUSED ∧ t.keys = s.keys)) ∧
    (pkt.op = FOp.mgmt → kind = 0x11 → ∃ t, exec (.keyFetch p pkt) s = .next t ∧
      (if v.fromManager q = true ∧ id ≠ 0 ∧ v.keyRoom id = true then tget t.keys.fetch id = some (fieldAt q.data 2 2, s.randCtr, s.now, s.now) ∧ s.randCtr + 48 ≤ t.randCtr ∧ t.keys.job = s.keys.job
       else more t R.FJ_CNT_REFUSED ∧ t.keys = s.keys)) ∧
    (pkt.op = FOp.mgmt → kind = 0x12 → ∃ t, exec (.keyDrop p pkt) s = .next t ∧
      (if v.fromManager q = true ∧ ∀ a, a ∈ actList s.img.cfg → a ≠ 0 → a ≠ 255 → actKey s.img.cfg a = id → s.actState a ≠ 2 then
         (id ≠ 0 → t.keyOf id = none) ∧ tget t.keys.lists id = none ∧ tget t.keys.fetch id = none ∧ (∀ k, k ≠ id → tget t.keys.job k = tget s.keys.job k)
       else more t R.FJ_CNT_REFUSED ∧ t.keys = s.keys)) ∧
    (pkt.op = FOp.mgmt → kind = 1 → ∃ t, exec (.standInOrder p pkt) s = .next t ∧
      (if q.key = 0 ∧ s.isManager q.src = true ∧ s.standInCode q.data = Code.ok then
         t.fg R.KPU_STATUS F.KPU_STATUS_spare_state = 1 ∧ t.rd R.KPU_RIPEN = 0 ∧ ∃ r, t.kpu.ripen = some r ∧ r.lost = fieldAt q.data 16 2 ∧ r.pos = fieldAt q.data 18 1 ∧ r.target = fieldAt q.data 20 4 ∧ r.record = [] ∧ r.journal = []
       else more t R.FJ_CNT_REFUSED ∧ t.fg R.KPU_STATUS F.KPU_STATUS_spare_state = s.fg R.KPU_STATUS F.KPU_STATUS_spare_state ∧ t.kpu = s.kpu))

/-- The exchange of a job key (R472): the leader refuses a KREQ that fails a check, counting it, and else remembers the boot count the key is given under; the member installs the key of a KRESP that passes its checks
and ends its fetch; it asks again every 10 ms and stops 1 s after the first KREQ. -/
def Obligations.JobKeysAreExchanged : Prop :=
  (∀ (s u : State) (p : Nat) (pkt : Packet), (s.takeRx p pkt).bind (fun t => t.toHub p pkt) = some u → pkt.cls = 0 → pkt.op = FOp.mgmt → pkt.dest = s.device → (u.inspect pkt).1 = Code.ok →
    let v := (u.inspect pkt).2.2
    let q := (u.inspect pkt).2.1
    let d := q.data
    let id := fieldAt d 0 2
    let more (t : State) (k : Nat) : Prop := t.fg k ⟨0, 48⟩ = min (s.fg k ⟨0, 48⟩ + 1) (2 ^ 48 - 1)
    (mgmtKind pkt = 0x13 → ∃ t, exec (.kreq p pkt) s = .next t ∧ t.keys.job = s.keys.job ∧ t.keys.fetch = s.keys.fetch ∧
      (if (v.kreqCode q).1 = Code.ok ∧ (v.krespOk q (v.kreqCode q).2).isSome then ∃ l, tget t.keys.lists id = some l ∧ tget l.given q.src = some (v.kreqCode q).2
       else more t R.RIND_CNT_KEY_REFUSED ∧ t.keys = s.keys)) ∧
    (mgmtKind pkt = 0x14 → ∃ t, exec (.kresp p pkt) s = .next t ∧
      (match tget s.keys.fetch id with
       | some f =>
         if f.1 = q.src then
           let nonce := sha384 (pubOf (scalarAt f.2.1) ++ slice d 8 97)
           let key := match ecdh (scalarAt f.2.1) (slice d 8 97) with
             | some z => gcmOpen (kdf z nonce "QSN8 job key" 32) (slice d 112 12) (leBytes 2 id) (slice d 124 32) (slice d 156 16)
             | none => none
           tget t.keys.fetch id = none ∧
           (if fieldAt d 2 1 = Code.ok ∧ (v.keyReportCode (reportIn d 172).2 (reportIn d 172).1 nonce).1 = Code.ok ∧ key.isSome ∧ v.keyRoom id = true then (if id = 0xFFFF then t.keys.keep else tget t.keys.job id) = key
            else t.keys.job = s.keys.job ∧ t.keys.keep = s.keys.keep)
         else t.keys = s.keys ∧ more t R.FJ_CNT_REFUSED
       | none => t.keys = s.keys ∧ more t R.FJ_CNT_REFUSED))) ∧
  (∀ (s : State) (id : Nat) (f : Nat × Nat × Nat × Nat), tget s.keys.fetch id = some f →
    ∃ t, exec (.kreqRetry id) s = .next t ∧ t.keys.job = s.keys.job ∧
      (if f.2.2.1 + 1000000000 ≤ f.2.2.2 + 10000000 then t.now = max s.now (f.2.2.1 + 1000000000) ∧ tget t.keys.fetch id = none
       else t.now = max s.now (f.2.2.2 + 10000000) ∧ tget t.keys.fetch id = some (f.1, f.2.1, f.2.2.1, t.now)))

/-- KEEP packets of the Muslin side (R423, R426, R430, R432, R433, R439): a PAIR is checked and answered, a PAIR_REPLY pairs or refuses, a PAGE, RECORD or JOURNAL of the ward goes where R432 puts it and nowhere
else, in the frame being filled, of which nothing sealed stands any more, a SEAL makes the frame current, a RESYNC begins pairing again; a packet that no ward or partner may send is refused; PAIR_RETRY asks again. Packets
leave at once where their stream and the pair table let them (R347, R352), and a gate holds none. Where it settles what the spec leaves open, the choice is the model's (assumption log 48 and 50). -/
def Obligations.KeepPacketsOfPartnerAndWard : Prop :=
  (∀ (s u : State) (p : Nat) (pkt : Packet), (s.takeRx p pkt).bind (fun t => t.toHub p pkt) = some u → pkt.cls = 4 → pkt.dest = s.device → s.keepOpen pkt = true → (u.inspect pkt).1 = Code.ok → s.fj.parked = [] →
    let q := (u.inspect pkt).2.1
    (q.flagged = true → q.follow ≤ s.orderC q) → s.ripening q = none → s.recovering q = none →
    let off := q.addr % 2 ^ 56
    let gated : Bool := q.chan ≠ 0xF3
    let more (t : State) (k : Nat) : Prop := t.fg k ⟨0, 48⟩ = min (s.fg k ⟨0, 48⟩ + 1) (2 ^ 48 - 1)
    let taken (t : State) : Prop := t.orderC q = (if q.flagged then s.orderC q - q.follow else (s.orderC q + 1) % 2 ^ 24) ∧ more t R.FJ_CNT_RX
    let refused (t : State) : Prop := more t R.FJ_CNT_REFUSED ∧ s.SameMemory t ∧ t.kpu = s.kpu ∧ t.orderC q = s.orderC q
    let wrote (t w : State) : Prop := (∀ a, isAcc a = false → t.memRd a = s.memRd a) ∧ ∀ a, t.memRd a = w.memRd a ∧ t.farRd a = w.farRd a
    (keepKind pkt = KKind.pair → ∃ t, exec (.pair p pkt) s = .next t ∧ taken t ∧ s.SameMemory t ∧
      (s.keys.keep.isSome → s.kpu.out = [] → s.keepCan ⟨q.src, KKind.pairReply, 0, 0xF1, 0, false, false, [], none⟩ = true →
        ∃ e, t.fj.sent = s.fj.sent ++ [e] ∧ e.core = 32 ∧ e.pkt.dest = q.src ∧ e.pkt.addr = KKind.pairReply * 2 ^ 56 ∧ e.pkt.data = leBytes 1 (s.pairCode q.src q.data)) ∧
      (if s.pairCode q.src q.data = Code.ok then t.fb R.KPU_STATUS F.KPU_STATUS_ward_paired = true ∧
         ∃ w, t.kpu.ward = some w ∧ w.dev = q.src ∧ w.muslin = fieldAt q.data 24 8 ∧ w.rmax = fieldAt q.data 32 8 ∧ w.ring = fieldAt q.data 40 8
       else t.kpu.ward = s.kpu.ward)) ∧
    (keepKind pkt = KKind.pairReply → ∃ t, exec (.pairReply p pkt) s = .next t ∧ taken t ∧ s.SameMemory t ∧
      (let c := fieldAt q.data 0 1
       if q.src = keepPartner s.img.cfg ∧ s.pairState = 1 then
         (if c = Code.ok then t.pairState = 2 ∧ t.kpu.held = [] else t.pairState = 3 ∧ t.fg R.KPU_STATUS F.KPU_STATUS_pair_code = c ∧ t.kpu.pairAt = s.now + 1000000000)
       else t.rd R.KPU_STATUS = s.rd R.KPU_STATUS ∧ t.kpu = s.kpu)) ∧
    (keepKind pkt = KKind.page → ∃ t, exec (.page p pkt) s = .next t ∧
      (match s.wardOf q with
       | some w => if w.muslin < off + q.data.length then refused t else taken t ∧ wrote t (s.keepWrite gated q.act 0 (w.fill * w.stride + off) q.data q.poison) ∧ t.kpu.ward = some { w with sealed := w.sealed.take 1 }
       | none => refused t)) ∧
    (keepKind pkt = KKind.record → ∃ t, exec (.record p pkt) s = .next t ∧
      (match s.wardOf q with
       | some w => if w.rmax < off + q.data.length then refused t else taken t ∧ wrote t (s.keepWrite gated q.act 0 (w.fill * w.stride + w.muslin + off) q.data q.poison) ∧
           t.kpu.ward = some { w with sealed := w.sealed.take 1 }
       | none => refused t)) ∧
    (keepKind pkt = KKind.sealKind → ∃ t, exec (.seal p pkt) s = .next t ∧ s.SameMemory t ∧
      (match s.wardOf q with
       | some w => taken t ∧ t.kpu.ward = some { w with sealed := ((fieldAt q.data 0 4, fieldAt q.data 4 4) :: w.sealed).take 2, fill := 1 - w.fill }
       | none => refused t)) ∧
    (keepKind pkt = KKind.journal → ∃ t, exec (.journal p pkt) s = .next t ∧
      (match s.wardOf q with
       | some w => if w.ring = 0 then refused t else taken t ∧ wrote t (s.ringPut gated q.act w.ring off q.data) ∧
           t.kpu.ward = some { w with jfrom := if off = w.jend then w.jfrom else off, jend := off + q.data.length }
       | none => refused t)) ∧
    (keepKind pkt = KKind.resync → ∃ t, exec (.resync p pkt) s = .next t ∧ s.SameMemory t ∧
      (if q.src = keepPartner s.img.cfg then taken t ∧ t.kpu.held = [] ∧ t.kpu.streaming = none ∧ (keepPartner s.img.cfg ≠ 0xFFFF → s.kpu.out = [] → t.pairState = 1 ∧ t.kpu.pairAt = s.now + 1000000000)
       else refused t))) ∧
  (∀ s : State, s.img.recs.isSome → keepPartner s.img.cfg ≠ 0xFFFF → s.pairState ≠ 2 → s.inTest = false → MState.configured ≤ s.mstate → s.mstate ≤ MState.held → s.kpu.out = [] →
    ∃ t, exec .pairRetry s = .next t ∧ t.now = max s.now s.kpu.pairAt ∧ t.pairState = 1 ∧ t.kpu.pairAt = t.now + 1000000000 ∧ s.SameMemory t ∧
      (s.keys.keep.isSome → s.keepCan ⟨keepPartner s.img.cfg, KKind.pair, 0, 0xF1, 0, false, false, [], none⟩ = true →
        ∃ e, t.fj.sent = s.fj.sent ++ [e] ∧ e.core = 32 ∧ e.pkt.dest = keepPartner s.img.cfg ∧ e.pkt.addr = KKind.pair * 2 ^ 56))

/-- Parity, chains and ripening (R436, R437, R438, R439, R440, R443): a DELTA is added into this holder's parity and logged, and waits while the log is full; a FETCH of the journal that is held without a gap is answered
with its bytes, the last packet short; a REBUILD of another
member goes on to the next, if no third one is lost, and one this member asked for ends in its parity; a RIPENING spare that has everything is RIPE. Where it settles what the spec leaves open, the choice is the model's (assumption log 49, 50 and 82). -/
def Obligations.ParityChainsAndRipening : Prop :=
  (∀ (s u : State) (p : Nat) (pkt : Packet), (s.takeRx p pkt).bind (fun t => t.toHub p pkt) = some u → pkt.cls = 4 → pkt.dest = s.device → s.keepOpen pkt = true → (u.inspect pkt).1 = Code.ok → s.fj.parked = [] →
    let q := (u.inspect pkt).2.1
    (q.flagged = true → q.follow ≤ s.orderC q) → s.ripening q = none → s.eruPresent = true → 3 ≤ keepG s.img.cfg →
    let c := s.img.cfg
    let off := q.addr % 2 ^ 56
    let g := keepG c
    let more (t : State) (k : Nat) : Prop := t.fg k ⟨0, 48⟩ = min (s.fg k ⟨0, 48⟩ + 1) (2 ^ 48 - 1)
    let wrote (t w : State) : Prop := (∀ a, isAcc a = false → t.memRd a = s.memRd a) ∧ ∀ a, t.memRd a = w.memRd a ∧ t.farRd a = w.farRd a
    (keepKind pkt = KKind.delta → ∃ t, exec (.delta p pkt) s = .next t ∧
      (if logRoom c < s.deltaLog pkt.src + 16 + pkt.data.length then t.fb R.ERU_STATUS F.ERU_STATUS_log_full = true ∧ t.fj = s.fj ∧ t.eru = s.eru ∧ s.SameMemory t
       else match keepPosOf c q.src with
         | some m =>
           let i := stripeIdx g (off / 4096) (keepPos c)
           let j := stripeIdx g (off / 4096) m
           if keepK c ≤ i ∧ j < keepK c ∧ off % 4096 + q.data.length ≤ 4096 then
             let isQ := decide (i = keepK c + 1)
             let at_ := 4096 * (2 * (off / 4096 / g) + b2n isQ) + off % 4096
             let d := if isQ then rsScale (rsPow j) q.data else q.data
             wrote t (s.keepWrite true q.act 2 at_ (rsAdd (s.keepRead true q.act 2 at_ q.data.length).1 d) (s.keepRead true q.act 2 at_ q.data.length).2.2) ∧
               t.eru.log = s.logFenced q.src ++ [⟨q.src, off / 4096, off % 4096, q.data, isQ, false⟩] ∧ more t R.ERU_CNT_DELTA
           else more t R.FJ_CNT_REFUSED ∧ t.eru = s.eru ∧ s.SameMemory t
         | none => more t R.FJ_CNT_REFUSED ∧ t.eru = s.eru ∧ s.SameMemory t)) ∧
    (keepKind pkt = KKind.fetch → s.deltasOut = false → ∀ w, s.kpu.ward = some w → w.ring ≠ 0 → fieldAt q.data 8 1 = 1 → w.jfrom ≤ off → w.jend ≤ off + w.ring → off ≤ w.jend → s.keys.keep.isSome → s.kpu.out = [] →
      let n := min (fieldAt q.data 0 8) (w.jend - off)
      s.keepCan ⟨q.src, KKind.journal, off, 0xF3, 0, false, false, [], none⟩ = true → s.unanswered 4 q.src 0xF3 + n / 4096 + 2 ≤ 2 ^ 22 →
      ∃ t l, exec (.fetch p pkt) s = .next t ∧ t.fj.sent = s.fj.sent ++ l ∧ l ≠ [] ∧ (∀ e ∈ l, e.core = 32 ∧ e.pkt.dest = q.src ∧ e.pkt.addr / 2 ^ 56 = KKind.journal) ∧
        (l.flatMap (fun e => e.pkt.data)).take n = (s.ringGet w.ring off n).1 ∧ ∃ e, l.getLast? = some e ∧ e.pkt.data.length < 4096) ∧
    (keepKind pkt = KKind.rebuild → s.deltasOut = false → q.data.length = 4096 → s.thirdLoss = false → q.poison = false →
      ∃ t, exec (.rebuild p pkt) s = .next t ∧ more t R.FJ_CNT_RX ∧
        (if s.eru.rebuild.contains (off / 4096, keepPos c) then
           wrote t (s.keepWrite false 0 2 (4096 * (2 * (off / 4096 / g) + (stripeIdx g (off / 4096) (keepPos c) - keepK c))) q.data false) ∧ t.eru.rebuild = s.eru.rebuild.erase (off / 4096, keepPos c) ∧ more t R.ERU_CNT_REBUILT
         else ((s.chainFor (off / 4096)).2.length < 2 → s.SameMemory t) ∧ (s.keys.keep.isSome → s.kpu.out = [] →
          (∀ dev, s.keepCan ⟨dev, KKind.rebuild, off / 4096 * 4096, 0xF3, 0, false, false, [], none⟩ = true) → ∃ e, t.fj.sent = s.fj.sent ++ [e] ∧ e.core = 32 ∧ e.pkt.addr = KKind.rebuild * 2 ^ 56 + off / 4096 * 4096 ∧ e.pkt.data.length = 4096)))) ∧
  (∀ (s : State) (r : Ripen), s.kpu.ripen = some r → s.fg R.KPU_STATUS F.KPU_STATUS_spare_state = 1 → r.want = [] →
    ∃ t, exec .ripeningDone s = .next t ∧ s.SetsOnly t R.KPU_STATUS F.KPU_STATUS_spare_state 2)

/-- Collective packets (R190, R382, R389, R392, R397, R399, R400, R401, R402, R403, R404): one for a call that is over is stale, but for the COMMIT of the HCLK in which an ABORT ended the call, which completes it; one for a later call or step, or for a held call, is kept; one whose call descriptor
disagrees aborts the call; the last DONE at rank 0, and COMMIT elsewhere, write the destinations and complete the local COLLs with OK, an ABORT in hand or not; an ABORT for the call in progress, where no commit is due,
and the step deadline end them with their code and leave memory alone; the number of an ABORT is remembered. Where it settles what the spec leaves open, the choice is the model's (assumption log 25 and 37). -/
def Obligations.CollectiveCallsCommitOrAbort : Prop :=
  ∀ (s : State) (g : Nat) (r : Rec), g < 64 → s.group g = some r →
    let more (t : State) (k : Nat) : Prop := t.fg k ⟨0, 48⟩ = min (s.fg k ⟨0, 48⟩ + 1) (2 ^ 48 - 1)
    let ended (t : State) (code : Nat) : Prop := ∀ c q, c ∈ grpCores r → s.running c 6 = some q → bits q.word 16 6 = g → ∃ x, t.running c 6 = some x ∧ x.code = code ∧ x.waitFor = 0 ∧ x.word = q.word
    let aborted (t : State) (code : Nat) : Prop := ended t code ∧ t.grpBusy g = false ∧ (t.grp g).desc = none ∧ s.SameMemory t ∧ t.fb R.CLE_ERR F.CLE_ERR_valid = true ∧
      (s.fb R.CLE_ERR F.CLE_ERR_valid = false → t.fg R.CLE_ERR F.CLE_ERR_code = code ∧ t.fg R.CLE_ERR F.CLE_ERR_group = g)
    let committed (t : State) (d : CallDesc) : Prop := ended t Code.ok ∧ t.grpState g = 0 ∧ t.grpCall g = (s.grpCall g + 1) % 2 ^ 32 ∧ (t.grp g).desc = none ∧ more t R.CLE_CNT_CALLS ∧
      (∀ a, t.memRd a = (s.collWrite g r d).memRd a)
    let kept (t : State) (m : CollIn) : Prop := t.grp g = { s.grp g with inbox := (s.grp g).inbox ++ [m] } ∧ t.rd (R.CLE_GRP g) = s.rd (R.CLE_GRP g) ∧ s.SameMemory t ∧ t.seq = s.seq
    (∀ (u : State) (p ph : Nat) (pkt : Packet) (c : Instr), (s.takeRx p pkt).bind (fun v => v.toHub p pkt) = some u → (u.inspect pkt).1 = Code.ok → (s.grp g).out = [] →
      let q := (u.inspect pkt).2.1
      let m := collOf q.data
      let stale : Prop := m.call < s.grpCall g ∨ (m.call = s.grpCall g ∧ s.grpState g = 6)
      let idle : Prop := s.grpBusy g = false ∨ s.grpHeld g = true
      let here (x : CollIn) : Prop := x ∈ (s.grp g).inbox ∧ x.call = s.grpCall g
      let v := ((u.inspect pkt).2.2.rxCount q).charge (s.collAct q) 6 0 1
      q.op = FOp.coll → q.dest = s.device → fieldAt q.data 0 1 = g → fieldAt q.data 1 1 = ph → s.covers (s.collAct q) 6 0 1 = true →
      ((c = .collAnchor p pkt ∧ ph = 0) ∨ (c = .collReduce p pkt ∧ ph = 1) ∨ (c = .collGather p pkt ∧ ph = 2) ∨ (c = .collDone p pkt ∧ ph = 3) ∨ (c = .collCommit p pkt ∧ ph = 4) →
        ∃ t, exec c s = .next t ∧
          (stale → (s.grp g).undo = none → more t R.CLE_CNT_STALE ∧ t.cle = s.cle ∧ t.seq = s.seq ∧ s.SameMemory t) ∧
          (∀ w, (s.grp g).undo = some w → w.at_ = v.now → ph = 4 → grpRank r ≠ 0 → m.call = s.grpCall g → m.desc = w.desc → s.grpState g = 6 → v.collFalls r w.desc = true →
            (∀ c, c ∈ grpCores r → ∃ x, s.running c 6 = some x ∧ bits x.word 16 6 = g) →
            ended t Code.ok ∧ t.grpState g = 0 ∧ (t.grp g).undo = none ∧ ∀ a, t.memRd a = ((s.modGrp g (fun x => { x with res := w.res })).collWrite g r w.desc).memRd a) ∧
          (¬stale → (idle → kept t m) ∧ (s.grpCall g < m.call → m ∈ (t.grp g).inbox) ∧
            ∀ d, (s.grp g).desc = some d → m.call = s.grpCall g → ¬idle →
              (m.desc ≠ d → (s.grpState g = 5 → grpRank r ≠ 0 → ∀ x, here x → x.phase = 4 → x.desc ≠ d) → aborted t Code.badFormat) ∧
              (m.desc = d → (∀ x, here x → x.phase ≠ 5 ∧ x.desc = d) → (s.grpState g = 1 ∨ s.grpState g = 2 ∨ s.grpState g = 4) → (s.grp g).sent = true → (s.grp g).closing = false →
                (let step (x : CollIn) : Bool := x.call = s.grpCall g && x.phase = phaseOf (s.grpState g) && x.step = s.grpStep g
                 let want := match (stepPlan r d (phaseOf (s.grpState g)) (s.grpStep g)).recv with
                   | some rg => rg.2
                   | none => 0
                 ((((s.grp g).inbox ++ [m]).filter step).map (fun x => x.count)).sum < want → kept t m)) ∧
              (m.desc = d → (∀ x, here x → x.phase ≠ 5 → x.desc = d) → s.grpState g = 5 → v.collFalls r d = true →
                ((ph = 3 ∧ grpRank r = 0 ∧ ∀ k, 0 < k → k < grpN r → k = m.rank ∨ ∃ x, here x ∧ x.phase = 3 ∧ x.rank = k) ∨ (ph = 4 ∧ grpRank r ≠ 0)) → committed t d))) ∧
      (c = .collAbort p pkt → ph = 5 →
        ∃ t, exec c s = .next t ∧ more t R.CLE_CNT_ABORT_RX ∧
          (stale → t.cle = s.cle ∧ t.seq = s.seq ∧ s.SameMemory t) ∧
          (¬stale → (∃ n k, (t.grp g).abortNo = some (n, k) ∧ m.call ≤ n) ∧
            (idle → t.seq = s.seq ∧ t.rd (R.CLE_GRP g) = s.rd (R.CLE_GRP g) ∧ s.SameMemory t) ∧
            ∀ d, (s.grp g).desc = some d → m.call = s.grpCall g → ¬idle → (∀ x, here x → x.phase ≠ 5 ∧ x.desc = d) →
              (s.grpState g = 5 → (if grpRank r = 0 then ∃ k, 0 < k ∧ k < grpN r ∧ ∀ x, here x → ¬(x.phase = 3 ∧ x.rank = k) else ∀ x, here x → x.phase ≠ 4)) →
              aborted t (fieldAt q.data 14 1)))) ∧
    (∀ d, (s.grp g).desc = some d → s.grpBusy g = true → s.grpHeld g = false →
      (s.grpState g = 5 → grpRank r ≠ 0 → ∀ x, x ∈ (s.grp g).inbox → x.call = s.grpCall g → x.phase = 4 → x.desc ≠ d) →
      ∃ t, exec (.stepDeadline g) s = .next t ∧ t.now = max s.now ((s.grp g).since + grpDeadline r + 1) ∧ aborted t Code.stepTimeout ∧ more t R.CLE_CNT_TIMEOUT ∧
        OutMsg.report Code.stepTimeout (leBytes 1 g) ∈ t.sent)

/-- Starts (R482, R489, R503, R529, R530, R531, R532, R533): each kind of start, at its moment, leaves nothing volatile, enters RENNET, shows its cause and counts a boot; the update watchdog starts the module with the try count
at 0; a MOD_RESET_N pulse shorter than 1 ms is only counted. -/
def Obligations.ModuleStartsLoseTheVolatileState : Prop :=
  ∀ s : State, s.TwoSlots →
    (∀ at_, s.host.resetAt = some at_ → s.power = 0 → ∃ t, exec .moduleResetExecute s = .next t ∧ { s with now := max s.now at_ }.Started t 2) ∧
    (∀ low, s.power = 3 → ∃ t, exec (.modResetRelease low) s = .next t ∧ { s with now := s.now + 10000 }.Started t 1) ∧
    (∀ low, s.power ≠ 1 → s.power ≠ 3 → low < 1000000 →
      ∃ t, exec (.modResetRelease low) s = .next t ∧ t.fg R.PIN_CNT_RESET_SHORT ⟨0, 48⟩ = min (s.fg R.PIN_CNT_RESET_SHORT ⟨0, 48⟩ + 1) (2 ^ 48 - 1) ∧ s.RegsOnly t [R.PIN_CNT_RESET_SHORT]) ∧
    (∀ dv, s.pins.inputOk = false → 400 ≤ dv → dv ≤ 600 → ∃ t, exec (.inputPowerRestored dv) s = .next t ∧ t.pins.inputOk = true ∧
      (s.power = 2 → t.Blank ∧ t.mstate = MState.rennet ∧ t.fuses = s.fuses ∧ t.now = s.now + 100000000 ∧ t.store.bootCount = (s.store.bootCount + if s.bootsWhole then 1 else 2) % 2 ^ 32 ∧
        t.fg R.RST_STATUS F.RST_STATUS_cause = (if s.bootsWhole then 4 else 6) ∧ t.fg R.RST_STATUS F.RST_STATUS_input_dv = dv ∧ t.fb R.RST_STATUS F.RST_STATUS_input_ok = true) ∧
      (s.power = 5 → t.power = 0 ∧ t.fb R.RST_STATUS F.RST_STATUS_input_ok = true ∧ t.now = s.now + 100000000)) ∧
    (s.power = 1 → ∃ t, exec .auxPowerUp s = .next t ∧ s.Started t 0) ∧
    (∀ at_, s.mgt.restartAt = some at_ → s.power = 4 → ∃ t, exec .tripRestart s = .next t ∧ { s with now := max s.now at_ }.Started t 5) ∧
    (∀ at_, s.fw.trial = some at_ → (s.power = 0 ∨ s.power = 5) → ∃ t, exec .updateWatchdog s = .next t ∧
      { s with now := max s.now (at_ + 10000000000), fw := { s.fw with tries := 0 } }.Started t 3)

/-- Supplies, resets and straps (R529, R530, R533, R534): a failed 48 V input, a failed auxiliary supply and an accepted MOD_RESET_N take every memory with them and leave fuses and the trip record; a strap that
changes after sampling only sets PIN_STRAPS.changed. -/
def Obligations.SuppliesAndStraps : Prop :=
  ∀ s : State,
    (∀ dv, s.pins.inputOk = true → (dv < 380 ∨ 620 < dv) → dv < 4096 → ∃ t, exec (.inputPowerFail dv) s = .next t ∧ t.pins.inputOk = false ∧ t.fuses = s.fuses ∧ t.store.trips = s.store.trips ∧
      (s.power = 0 → t.power = 2 ∧ t.Blank ∧ t.fg R.RST_STATUS F.RST_STATUS_input_dv = dv ∧ t.pins.tripLow = s.pins.tripLow ∧ t.pins.faultLow = s.pins.faultLow) ∧
      (s.power ≠ 0 → t = { s with regs := t.regs, pins := { s.pins with inputOk := false } } ∧ (∀ k, k ≠ R.RST_STATUS → t.rd k = s.rd k) ∧
        t.fb R.RST_STATUS F.RST_STATUS_input_ok = false ∧ t.fg R.RST_STATUS F.RST_STATUS_input_dv = dv)) ∧
    (s.power ≠ 1 → ∃ t, exec .auxPowerFail s = .next t ∧ t.power = 1 ∧ t.Blank ∧ t.mstate = MState.off ∧ t.fuses = s.fuses ∧ t.store.trips = s.store.trips ∧ t.pins.tripLow = false ∧ t.pins.faultLow = false) ∧
    (s.power ≠ 1 → s.power ≠ 3 → ∃ t, exec .modResetAccepted s = .next t ∧ t.power = 3 ∧ t.Blank ∧ t.mstate = MState.rennet ∧ t.fuses = s.fuses ∧ t.store.trips = s.store.trips) ∧
    (∀ slot rack feed, slot < 64 → rack < 64 → feed < 16 → (slot ≠ s.pins.slotId ∨ rack ≠ s.pins.rackId ∨ feed ≠ s.pins.feedId) →
      ∃ t, exec (.strapChange slot rack feed) s = .next t ∧ t.pins.slotId = slot ∧ t.pins.rackId = rack ∧ t.pins.feedId = feed ∧ s.SameMemory t ∧
        t.fg R.PIN_STRAPS F.PIN_STRAPS_slot_id = s.fg R.PIN_STRAPS F.PIN_STRAPS_slot_id ∧ (s.power ≠ 1 → s.power ≠ 3 → t.fb R.PIN_STRAPS F.PIN_STRAPS_changed = true))

/-- Fatal errors and the dump (R516, R517, R542): each kind of fatal error makes the module FAULTED, drives FAULT_N, stops every context, takes every port down and begins a dump with its cause; a second one during the dump
cuts it, and the completed dump makes the module DUMPED. -/
def Obligations.FatalErrorsFaultAndDump : Prop :=
  ∀ (s : State) (c : Instr) (cause : Nat), s.power = 0 →
    ((c = .mgcWatchdog ∧ cause = 3) ∨ (∃ hub, c = .internalParityError hub ∧ cause = 2) ∨ (∃ addr, c = .mgcSramUncorrectable addr ∧ cause = 1 ∧ addr < 2 ^ 28 ∧
      ∀ r, findRec s.img.cfg RT.memplan 0 = some r → ((List.range 5).map (fun i => r.at (64 + 2 * i) 2)).sum * 2 ^ 20 ≤ addr)) →
    (∃ t, exec c s = .next t ∧ s.SameMemory t ∧
      (if s.mstate = MState.faulted then t.mstate = MState.faulted ∧ (∀ d, s.mgt.dump = some d → t.mgt.dump = some { d with cut := true }) ∧ t.seq = s.seq
       else if s.mstate = MState.dumped then t.mstate = MState.dumped ∧ t.mgt.dump = s.mgt.dump ∧ t.seq = s.seq
       else t.mstate = MState.faulted ∧ t.pins.faultLow = true ∧ OutMsg.pin "FAULT_N" false ∈ t.sent ∧ (∃ d, t.mgt.dump = some d ∧ d.cause = cause ∧ d.seq = s.store.logNext ∧ d.cut = false) ∧
         (∀ x, x < 128 → t.ctxState x = 0 ∨ t.ctxState x = 4) ∧ ∀ p, p < 16 → t.spState p = 0 ∨ 12 ≤ t.spState p)) ∧
    (∀ d, s.mgt.dump = some d → s.mstate = MState.faulted →
      ∃ t, exec .dumpComplete s = .next t ∧ t.mstate = MState.dumped ∧ (s.store.dumpKey = none → t.mgt.dump = some { d with length := 0 } ∧ s.SameMemory t) ∧
        (s.store.dumpKey.isSome → ∃ e, t.mgt.dump = some e ∧ 0x21000 ≤ e.length ∧ e.cause = d.cause ∧ e.seq = d.seq))

/-- BOOT_READY (R6, R482, R489, R505): with a trip unacknowledged the module is TRIPPED; with a capability word that is not the part's it stops and drives FAULT_N; else, once every core has run its canary, it is READY
with every die whose hub link has light in RUN, and new firmware on trial for no more than 10 s is confirmed, the rollback fuses rising to its index. -/
def Obligations.BootEndsReadyTrippedOrStopped : Prop :=
  ∀ s : State,
    (s.power = 0 → s.mgt.stopped = false → s.mstate = MState.rennet ∨ s.mstate = MState.firmware → s.fuses.capability ≠ capabilityOf s.fuses.part →
      ∃ t, exec .bootReady s = .next t ∧ t.mstate = MState.firmware ∧ t.mgt.stopped = true ∧ t.pins.faultLow = true ∧ t.fuses = s.fuses) ∧
    (s.power = 0 → s.mgt.stopped = false → s.mstate ≤ MState.firmware → s.fuses.capability = capabilityOf s.fuses.part → s.storeBad = false → s.store.tripPending = true →
      ∃ t, exec .bootReady s = .next t ∧ t.mstate = MState.tripped ∧ t.fuses = s.fuses ∧ t.store.tripPending = true) ∧
    (s.booting = true → s.fuses.capability = capabilityOf s.fuses.part → s.storeBad = false → (∀ c, c < 32 → s.canaryRan c = true) →
      ∃ t, exec .bootReady s = .next t ∧ t.mstate = MState.ready ∧ (∀ d, d < 8 → t.dieState d = if s.hubDark d then 1 else 0) ∧
        ((∀ x, s.fw.trial = some x → x + 10000000000 < s.now) → t.fw = s.fw ∧ t.fuses = s.fuses) ∧
        (∀ x, s.fw.trial = some x → s.now ≤ x + 10000000000 → let b := s.fg R.RIND_STATUS F.RIND_STATUS_boot_slot
           t.fw.active = b ∧ t.fw.next = none ∧ t.fw.trial = none ∧ t.fuses.rollback = max s.fuses.rollback (s.fwSlot b).rollback ∧ t.fuses.transfers = s.fuses.transfers))

/-- Sensors at their samples (R160, R162, R168, R498, R501, R502, R503): a sample enters the last eight of a sensor that has not failed, one out of range fails it, and a sensor at its trip limit for the third time trips the module;
filtered values raise the hot level of a die and the refresh rates of a layer-quarter and a stack. A converter that fails its test fails its sensors. Where it settles what the spec leaves open, the choice is the model's (assumption log 43 and 98). -/
def Obligations.SamplesFilterFailTripAndHeat : Prop :=
  ∀ s : State, s.power ≠ 1 → s.power ≠ 3 →
    (∀ raw : List (Nat × Nat), ∃ t, exec (.sensorSample raw) s = .next t ∧
      (∀ i e, i < 420 → s.sensorPresent i = true → raw.find? (fun x => x.1 = i) = some e →
        let v := sint 16 e.2
        let x := s.sensor i
        (x.cause ≠ 0 → t.sensor i = x) ∧
        (x.cause = 0 → outOfRangeTemp v = true → (t.sensor i).cause = 1 ∧ t.rawTemp i = failedValue i ∧ t.filtTemp i = failedValue i) ∧
        (x.cause = 0 → outOfRangeTemp v = false → (t.sensor i).cause ≠ 1 ∧ (t.sensor i).raws = (v :: x.raws).take 8) ∧
        (∀ limit : Nat, tripLimit i = some limit → x.cause = 0 → outOfRangeTemp v = false → (t.sensor i).cause = 0 → x.hits = 2 → 16 * (limit : Int) ≤ v → s.power ≠ 2 →
          t.power = 4 ∧ t.Blank ∧ t.pins.tripLow = true ∧ t.store.tripPending = true ∧ OutMsg.pin "THERM_TRIP_N" false ∈ t.sent)) ∧
      (∀ i, raw.find? (fun x => x.1 = i) = none → t.sensor i = s.sensor i) ∧
      (s.power = 0 → t.power = 0 → MState.firmware ≤ t.mstate →
        (∀ d, d < 8 → tgetD t.mgt.level d 0 = max (tgetD s.mgt.level d 0) (t.dieAsks d)) ∧
        (∀ i, i < 320 → 24 ≤ i % 40 →
          let rate (u : State) : Nat := bits (u.fg (R.MEM_BND_THERM (i / 40) (i % 40 % 4)) F.MEM_BND_THERM_refresh) (2 * ((i % 40 - 24) / 4)) 2
          rate t = max (rate s) (if t.reaches i 95 then 2 else if t.reaches i 85 then 1 else 0)) ∧
        (∀ k, k < 24 → s.stackPresent k = true → s.fb (R.FMC_STK_STATUS k) F.FMC_STK_STATUS_refresh_x2 = false →
          t.fb (R.FMC_STK_STATUS k) F.FMC_STK_STATUS_refresh_x2 = (t.reaches (320 + 2 * k) 85 || t.reaches (321 + 2 * k) 85)))) ∧
    (∀ failed : List Nat, ∃ t, exec (.converterSelfTest failed) s = .next t ∧ t.now = max s.now ((s.now / 100000000 + 1) * 100000000) ∧
      ∀ i, i < 420 → (t.sensor i).cause = (if s.sensorPresent i = true ∧ (s.sensor i).cause = 0 ∧ ∃ f ∈ failed, f < 420 ∧ i ∈ converterOf f then 3 else (s.sensor i).cause))

/-- Returns and refreshes (R160, R161, R162, R168, R499): 10 ms after a location has cooled, a refresh rate falls by one step, a hot level by one, and a hot bit clears; a bonded channel refreshes at its interval. -/
def Obligations.CooledLocationsStepBack : Prop :=
  ∀ (s : State) (loc since : Nat),
    let due (t : State) : Prop := t.now = max s.now (since + 10000000)
    (∀ i, i < 320 → 24 ≤ i % 40 → tget s.mgt.cool (1000 + i) = some since →
      let rate (u : State) : Nat := bits (u.fg (R.MEM_BND_THERM (i / 40) (i % 40 % 4)) F.MEM_BND_THERM_refresh) (2 * ((i % 40 - 24) / 4)) 2
      ∃ t, exec (.refreshStepDown i) s = .next t ∧ due t ∧ rate t = rate s - 1 ∧ s.SameMemory t) ∧
    (∀ k, k < 24 → tget s.mgt.cool (1320 + 2 * k) = some since → ∃ t, exec (.refreshStepDown (320 + 2 * k)) s = .next t ∧ due t ∧ t.fb (R.FMC_STK_STATUS k) F.FMC_STK_STATUS_refresh_x2 = false ∧ s.SameMemory t) ∧
    (∀ d, d < 8 → tget s.mgt.cool (40 * d) = some since → ∃ t, exec (.hotStateReturn (40 * d)) s = .next t ∧ due t ∧ tgetD t.mgt.level d 0 = tgetD s.mgt.level d 0 - 1 ∧
      (∀ e, e ≠ d → tgetD t.mgt.level e 0 = tgetD s.mgt.level e 0) ∧ s.SameMemory t) ∧
    (∀ k, k < 24 → tget s.mgt.cool (320 + 2 * k) = some since → ∃ t, exec (.hotStateReturn (320 + 2 * k)) s = .next t ∧ due t ∧
      bit (t.fg R.MGT_STATUS F.MGT_STATUS_stack_hot) k = false ∧ bit (t.fg R.BUD_STATUS F.BUD_STATUS_far_scaled) k = false) ∧
    (∀ p, p < 16 → tget s.mgt.cool (368 + 2 * p) = some since → ∃ t, exec (.hotStateReturn (368 + 2 * p)) s = .next t ∧ due t ∧ bit (t.fg R.MGT_STATUS F.MGT_STATUS_optic_hot) p = false ∧ t.mgt.optic = s.mgt.optic ++ [p]) ∧
    (tget s.mgt.cool 400 = some since → ∃ t, exec (.hotStateReturn 400) s = .next t ∧ due t ∧ t.fb R.MGT_STATUS F.MGT_STATUS_hub_hot = false) ∧
    (loc < 1024 → s.dieUp (loc / 128) = true → ∃ t, exec (.dramRefresh loc) s = .next t ∧ t.now = max s.now (tgetD s.tiers.nextRefresh loc 3900) ∧ tget t.tiers.lastRefresh loc = some t.now ∧
      tget t.tiers.nextRefresh loc = some (t.now + s.refreshInterval loc) ∧ (∀ c, c ≠ loc → tget t.tiers.nextRefresh c = tget s.tiers.nextRefresh c) ∧ s.SameMemory t)

/-- Trip acknowledgement, the alert and the governor (R269, R500, R505, R506, R507, R541): the newest record's number releases the trip once everything is cool; an alert is counted, more than 20 within 1 s or one of 10 s latch it, and
10 ms after its removal it has no more effect; each 1 ms the governor steps g down as R506 gives, at the window's end it may step up, a window above its cap at g = 0 sets cap_unmet, which nothing else here clears,
and the caps move on; a cap out of range is refused. -/
def Obligations.TripAcksAlertsAndTheGovernor : Prop :=
  ∀ s : State,
    let scale (t : State) (d : Nat) : Nat := bits (t.fg R.MGT_STATUS F.MGT_STATUS_die_scale) (2 * d) 2
    let g (t : State) : Nat := t.fg R.PWR_STATUS F.PWR_STATUS_g
    (∀ port seq, s.hostOn port = true → port = s.tokenPort → ∃ t, exec (.tripAck port seq) s = .next t ∧ s.SameMemory t ∧
      (if s.store.tripPending = true ∧ ∃ r, s.store.trips.getLast? = some r ∧ r.1 = seq then
         (if s.allCool then t.store.tripPending = false ∧ t.pins.tripLow = false ∧ t.fb R.TRIP_STATUS F.TRIP_STATUS_ack_waiting = false ∧ t.sent = s.sent ++ [.pin "THERM_TRIP_N" true]
          else t.store.tripPending = true ∧ t.fb R.TRIP_STATUS F.TRIP_STATUS_ack_waiting = true)
       else t.store = s.store ∧ t.fb R.TRIP_STATUS F.TRIP_STATUS_ack_bad = true)) ∧
    (s.power = 0 → s.mgt.alertAt = none → ∃ t, exec .alertAsserted s = .next t ∧ t.mgt.alertAt = some s.now ∧ t.fb R.MGT_STATUS F.MGT_STATUS_alert_in = true ∧
      t.fg R.PIN_CNT_ALERT ⟨0, 48⟩ = min (s.fg R.PIN_CNT_ALERT ⟨0, 48⟩ + 1) (2 ^ 48 - 1) ∧
      (if 20 ≤ (s.mgt.alerts.filter (fun a => decide (s.now < a + 1000000000))).length then t.fb R.MGT_STATUS F.MGT_STATUS_alert_latched = true
       else s.fb R.MGT_STATUS F.MGT_STATUS_alert_latched = false → ∀ d, d < 8 → tgetD s.mgt.level d 0 ≤ 2 → scale t d = max 1 (tgetD s.mgt.level d 0))) ∧
    (∀ a, s.power = 0 → s.mgt.alertAt = some a → ∃ t, exec .alertRemoved s = .next t ∧ t.mgt.alertAt = none ∧ t.mgt.alertOff = some s.now ∧ t.fb R.MGT_STATUS F.MGT_STATUS_alert_in = false ∧ ∀ d, scale t d = scale s d) ∧
    (∀ a, s.mgt.alertOff = some a → s.mgt.alertAt = none → ∃ t, exec .alertScaleRelease s = .next t ∧ t.now = max s.now (a + 10000000) ∧ t.mgt.alertOff = none ∧
      ∀ d, d < 8 → tgetD s.mgt.level d 0 ≤ 2 → scale t d = tgetD s.mgt.level d 0) ∧
    (∀ a, s.mgt.alertAt = some a → ∃ t, exec .alertLatched s = .next t ∧ t.now = max s.now (a + 10000000000) ∧ t.fb R.MGT_STATUS F.MGT_STATUS_alert_latched = true ∧
      ∀ d, d < 8 → tgetD s.mgt.level d 0 ≤ 2 → scale t d = tgetD s.mgt.level d 0) ∧
    (∀ mean, s.power = 0 → s.mgt.checks < 10 → s.time.offset = 0 → mean < 2 ^ 13 →
      let old := s.fg R.BUD_STATUS F.BUD_STATUS_gov_scale
      let cap := s.fg R.PWR_STATUS F.PWR_STATUS_cap_in_force
      let next := s.fg R.PWR_STATUS F.PWR_STATUS_cap_next
      let e := s.mgt.energy + mean
      let down := if next + 400 < mean then 4 else if 98 * 10 * cap < 100 * (e + mean * (10 - (s.mgt.checks + 1))) ∨ 98 * next < 100 * mean then 1 else 0
      ∃ t, exec (.governorCheck mean) s = .next t ∧ t.rack = (s.rack / 1000000 + 1) * 1000000 ∧ t.mgt.energy = e ∧ t.mgt.checks = s.mgt.checks + 1 ∧ t.fg R.PWR_STATUS F.PWR_STATUS_mean_1ms = mean ∧
        g t = old - down ∧ t.fg R.BUD_STATUS F.BUD_STATUS_gov_scale = old - down ∧ t.fb R.BUD_STATUS F.BUD_STATUS_pool_open = decide (old - down = 16) ∧ (t.mgt.stepped = true ↔ s.mgt.stepped = true ∨ down ≠ 0)) ∧
    (∀ mean, s.power = 0 → mean < 2 ^ 13 → s.fg R.BUD_STATUS F.BUD_STATUS_gov_scale ≤ 16 →
      let old := s.fg R.BUD_STATUS F.BUD_STATUS_gov_scale
      let cap := s.fg R.PWR_STATUS F.PWR_STATUS_cap_in_force
      ∃ t, exec (.powerWindowEnd mean) s = .next t ∧ t.fg R.PWR_STATUS F.PWR_STATUS_mean_10ms = mean ∧ t.mgt.energy = 0 ∧ t.mgt.checks = 0 ∧ t.mgt.stepped = false ∧
        t.fg R.BUD_STATUS F.BUD_STATUS_gov_scale = (if 100 * mean < 92 * cap ∧ s.mgt.stepped = false then min 16 (old + 1) else old) ∧ t.fb R.BUD_STATUS F.BUD_STATUS_cap_unmet = (s.fb R.BUD_STATUS F.BUD_STATUS_cap_unmet || decide (cap < mean ∧ old = 0)) ∧
        t.fg R.PWR_STATUS F.PWR_STATUS_cap_in_force = s.fg R.PWR_STATUS F.PWR_STATUS_cap_next ∧ t.fg R.PWR_STATUS F.PWR_STATUS_cap_next = s.fg R.PWR_CAP F.PWR_CAP_cap) ∧
    (∀ port cap, s.hostOn port = true → port = s.tokenPort → ∃ t, exec (.pwrCapWrite port cap) s = .next t ∧
      (if 1800 ≤ cap ∧ cap ≤ 3600 then s.SetsOnly t R.PWR_CAP F.PWR_CAP_cap cap else s.SetsOnly t R.PWR_STATUS F.PWR_STATUS_cap_refused 1))

/-- Ticks and rack time (R535, R536, R537, R538, R539, R540): an early tick is dropped and counted, an accepted one off its place or of another width is counted, a marker after two frames that agree sets the count or ends holdover with an
offset; holdover follows the loss of RACKCLK or 8 ms without a tick; a slew ends when its offset is zero; a measured offset shows. Where it settles what the spec leaves open, the choice is the model's (assumption log 44). -/
def Obligations.RackTimeFollowsItsTicks : Prop :=
  ∀ s : State,
    let more (t : State) (k : Nat) : Prop := t.fg k ⟨0, 48⟩ = min (s.fg k ⟨0, 48⟩ + 1) (2 ^ 48 - 1)
    let same (t : State) (k : Nat) : Prop := t.rd k = s.rd k
    let held (t : State) : Prop := t.fb R.CLK_STATUS F.CLK_STATUS_tclk_holdover = true ∧ (s.fb R.CLK_STATUS F.CLK_STATUS_tclk_holdover = false → t.fb R.TIME_STATUS F.TIME_STATUS_holdover = true ∧ more t R.PIN_CNT_HOLDOVER)
    (∀ interval width l, s.power = 0 → s.time.lost = false → s.time.lastTick = some l → s.now ≤ l + 40 * interval →
      ∃ t, exec (.racktickEdge interval width) s = .next t ∧ t.now = l + 40 * interval ∧ s.SameMemory t ∧
        (interval < 24750 → more t R.PIN_CNT_TICK_EARLY ∧ t.time.lastTick = some l ∧ t.time.bits = s.time.bits ∧ t.time.frame = s.time.frame) ∧
        (24750 ≤ interval → interval ≤ 25250 → t.time.lastTick = some t.now ∧ (if interval = 25000 then same t R.PIN_CNT_TICK_PHASE else more t R.PIN_CNT_TICK_PHASE) ∧
          ((width < 4 ∨ (6 < width ∧ width < 9) ∨ (11 < width ∧ width < 19) ∨ 21 < width) → more t R.PIN_CNT_TICK_WIDTH ∧ t.time.void = true) ∧
          (4 ≤ width → width ≤ 6 → t.time.bits = s.time.bits ++ [false] ∧ same t R.PIN_CNT_TICK_WIDTH) ∧
          (9 ≤ width → width ≤ 11 → t.time.bits = s.time.bits ++ [true] ∧ same t R.PIN_CNT_TICK_WIDTH) ∧
          (19 ≤ width → width ≤ 21 → t.time.frame = frameNumber s.time ∧ t.time.bits = [] ∧ t.time.pos = some 0 ∧
            ∀ n, frameNumber s.time = some (n + 64) → s.time.frame = some n →
              (s.fb R.TIME_STATUS F.TIME_STATUS_acquired = false → t.rack = (n + 64) * 1000000 ∧ t.fb R.TIME_STATUS F.TIME_STATUS_acquired = true ∧ t.fb R.CLK_STATUS F.CLK_STATUS_tclk_holdover = false) ∧
              (s.fb R.TIME_STATUS F.TIME_STATUS_acquired = true → s.fb R.CLK_STATUS F.CLK_STATUS_tclk_holdover = true →
                t.fb R.CLK_STATUS F.CLK_STATUS_tclk_holdover = false ∧ t.fb R.TIME_STATUS F.TIME_STATUS_holdover = false ∧ t.time.offset = (t.rack : Int) - ((n + 64) * 1000000 : Nat) ∧
                t.fg R.TIME_STATUS F.TIME_STATUS_last_offset = sat32 t.time.offset ∧ (t.fb R.TIME_STATUS F.TIME_STATUS_slewing = true ↔ t.time.offset ≠ 0))))) ∧
    (s.power = 0 → s.time.lost = false → ∃ t, exec .rackclkLost s = .next t ∧ t.now = s.now + 100 ∧ t.time.lost = true ∧ t.fb R.TIME_STATUS F.TIME_STATUS_rackclk_ok = false ∧ t.fb R.CLK_STATUS F.CLK_STATUS_tclk_lock = false ∧ held t) ∧
    (s.power = 0 → MState.rennet < s.mstate → s.time.lost = true → ∃ t, exec .rackclkRestored s = .next t ∧ t.time.lost = false ∧ t.fb R.TIME_STATUS F.TIME_STATUS_rackclk_ok = true ∧ t.fb R.CLK_STATUS F.CLK_STATUS_tclk_lock = true) ∧
    (s.power = 0 → MState.rennet < s.mstate → s.fb R.CLK_STATUS F.CLK_STATUS_tclk_holdover = false →
      ∃ t, exec .tickTimeout s = .next t ∧ t.now = max s.now (s.time.lastTick.getD s.tiers.began + 8000000) ∧ held t) ∧
    (s.fb R.TIME_STATUS F.TIME_STATUS_slewing = true → ∃ t, exec .slewComplete s = .next t ∧ t.fb R.TIME_STATUS F.TIME_STATUS_slewing = false ∧ t.time.offset = 0 ∧ (s.time.acc < 10000 → s.rack ≤ t.rack)) ∧
    (∀ j o, j < 4 → s.spUp (12 + j) = true → -2147483648 ≤ o → o ≤ 2147483647 → ∃ t, exec (.timeOffsetUpdate j o) s = .next t ∧ s.RegsOnly t [R.TIME_OFFSET j] ∧
      sint 32 (t.fg (R.TIME_OFFSET j) F.TIME_OFFSET_offset) = o ∧ t.fb (R.TIME_OFFSET j) F.TIME_OFFSET_valid = true)

/-- The memory tiers' own events (R154, R155, R166, R175, R176, R178, R180): a channel's window count restarts, a copied channel holds at its targets what the rows still to copy held, a scrub corrects and counts,
and where it reads bonded or far memory is charged to activity 0, a margin run starts or shows its code and
ends with its result. Where it settles what the spec leaves open, the choice is the model's (assumption log 72). -/
def Obligations.TiersCopyScrubAndMeasure : Prop :=
  ∀ s : State,
    (∀ k ch, k < 24 → ch < 32 → s.stackPresent k = true → ∃ t, exec (.fmcErrorWindow k ch) s = .next t ∧ t.now = max s.now (tgetD s.tiers.windowEnd (32 * k + ch) (s.tiers.began + 1000000000)) ∧
      t.fg (R.FMC_CH_ERR k ch) F.FMC_CH_ERR_window = 0 ∧ t.fg (R.FMC_CH_ERR k ch) F.FMC_CH_ERR_corrected = s.fg (R.FMC_CH_ERR k ch) F.FMC_CH_ERR_corrected ∧ s.SameMemory t) ∧
    (∀ k, s.Canon → k < 24 → s.fg (R.FMC_STK_STATUS k) F.FMC_STK_STATUS_retire_state = 2 →
      let ch := s.fg (R.FMC_STK_STATUS k) F.FMC_STK_STATUS_retired_ch
      let r0 := s.fg (R.FMC_STK_STATUS k) F.FMC_STK_STATUS_copy_rows
      let target (row b : Nat) : Nat := farKey k (retireTarget ch row).1 (retireTarget ch row).2 b
      ∃ t, exec (.retireCopyDone k) s = .next t ∧ t.fg (R.FMC_STK_STATUS k) F.FMC_STK_STATUS_retire_state = 3 ∧ t.fg (R.FMC_STK_STATUS k) F.FMC_STK_STATUS_copy_rows = max r0 10158080 ∧
        (∀ row b v, r0 ≤ row → row < 10158080 → b < 256 → cellGet s.far (farKey k ch row b) = some v → t.farRd (target row b) = v) ∧
        (∀ a, (∀ row b, r0 ≤ row → row < 10158080 → b < 256 → a ≠ target row b) → t.farRd a = s.farRd a) ∧ t.mem = s.mem) ∧
    (∀ tier addr newer, tier < 4 → addr < tierLimit tier → s.scrubOff tier addr = false → (∀ c, s.scrubCharge tier addr = some c → s.img.recs = none ∨ 0 < (s.ctr 0 c.1 c.2).left) → ∃ t, exec (.patrolScrub tier addr newer) s = .next t ∧ s.SameMemory t ∧
      (∀ c, s.scrubCharge tier addr = some c → (t.ctr 0 c.1 c.2).used = min (2 ^ 32 - 1) ((s.ctr 0 c.1 c.2).used + 1)) ∧
      (s.eccIn (scrubWord tier addr) (scrubWord tier addr + 1) = [] → t.tiers.ecc = s.tiers.ecc ∧ t.regs = s.regs) ∧
      (s.eccIn (scrubWord tier addr) (scrubWord tier addr + 1) = [(scrubWord tier addr, 1)] → tget t.tiers.ecc (scrubWord tier addr) = none ∧
        (tier = 0 → ∀ core, core = addr / 2 ^ 27 → t.fg (R.MEM_SRAM_ECC (core / 4) (core % 4)) F.MEM_SRAM_ECC_corrected =
          min (s.fg (R.MEM_SRAM_ECC (core / 4) (core % 4)) F.MEM_SRAM_ECC_corrected + 1) (2 ^ F.MEM_SRAM_ECC_corrected.w - 1)))) ∧
    (∀ port, s.hostOn port = true → ∃ t, exec (.marginStart port) s = .next t ∧ s.SameMemory t ∧
      (if s.marginCode = Code.ok then t.tiers.marginRun = some (s.rd R.FMC_MARGIN_CTL).toNat ∧ t.fb R.FMC_MARGIN_CTL F.FMC_MARGIN_CTL_start = true ∧ t.fb R.FMC_MARGIN_RESULT F.FMC_MARGIN_RESULT_done = false
       else t.tiers.marginRun = s.tiers.marginRun ∧ t.fb R.FMC_MARGIN_RESULT F.FMC_MARGIN_RESULT_done = true ∧ t.fg R.FMC_MARGIN_RESULT F.FMC_MARGIN_RESULT_status = s.marginCode)) ∧
    (∀ errors firstLine c, s.tiers.marginRun = some c → ∃ t, exec (.marginDone errors firstLine) s = .next t ∧ t.now = s.now + 10 * bits c F.FMC_MARGIN_CTL_granules.lo F.FMC_MARGIN_CTL_granules.w ∧ t.tiers.marginRun = none ∧
      t.fb R.FMC_MARGIN_CTL F.FMC_MARGIN_CTL_start = false ∧ t.fb R.FMC_MARGIN_RESULT F.FMC_MARGIN_RESULT_done = true ∧ t.fg R.FMC_MARGIN_RESULT F.FMC_MARGIN_RESULT_status = 0 ∧
      t.fg R.FMC_MARGIN_RESULT F.FMC_MARGIN_RESULT_errors = min errors 0xFFFFFFFF ∧ (0 < errors → firstLine < 80 → t.fg R.FMC_MARGIN_RESULT F.FMC_MARGIN_RESULT_first_line = firstLine) ∧ t.mem = s.mem)

/-- Frames of the signal unit (R109, R110, R111), of a channel whose turn it is: a bad frame is dropped whole and counted; a good one is counted, with its gap, keeps its slot's new history, and its features fill the next slot of the channel's ring, or its samples
follow at the output port, behind a head word. Where it settles what the spec leaves open, the choice is the model's (assumption log 56 and 57). -/
def Obligations.SguFramesReachRingAndPort : Prop :=
  ∀ (s : State) (c : Nat) (r tab : Rec), s.Canon → s.sguChan c = some r → findRec s.img.cfg RT.signal 64 = some tab →
    let h := s.sguHead r
    let k := s.sguHist c r
    let turn (mode : Nat) : Prop := r.at 0 1 = mode ∧ s.sguTurn c = true
    let left (t : State) : Prop := t.sguWaiting r = (s.sguWaiting r).drop (sguWords r)
    let grew (t : State) (f : Fld) (n : Nat) : Prop := t.fg (R.SGU_CH c) f = min (s.fg (R.SGU_CH c) f + n) (2 ^ f.w - 1)
    let counted (t : State) : Prop := grew t F.SGU_CH_frames 1 ∧ grew t F.SGU_CH_gaps (b2n k.2) ∧ grew t F.SGU_CH_dropped 0 ∧ left t
    let dropped (t : State) : Prop := grew t F.SGU_CH_dropped 1 ∧ grew t F.SGU_CH_frames 0 ∧ left t ∧ s.SameMemory t ∧ t.seq = s.seq ∧ t.host.sgu = s.host.sgu
    (∀ mode row, (mode = 0 ∧ row = Instr.sguAnalysisFrame c ∨ mode = 1 ∧ row = Instr.sguSynthesisFrame c) → turn mode → s.sguBad r = true → ∃ t, exec row s = .next t ∧ dropped t) ∧
    (∀ g, turn 0 → s.sguBad r = false → ringCfg s.img.cfg (16 * r.at 8 1 + r.at 9 1) = some g →
      let x := (s.sguRaw r (if r.at 1 1 = 2 then 16 else 8) 160).map (sguSample (r.at 1 1))
      let f := sguFeatures tab (r.at 6 1) (r.at 7 1) k.1 x
      let frame := featureFrame h (r.at 6 1) (r.at 7 1) f.1
      let id := 16 * r.at 8 1 + r.at 9 1
      let key := sramKey (r.at 8 1) (g.base + (s.ring id).fill * g.size)
      ∃ t, exec (.sguAnalysisFrame c) s = .next t ∧ counted t ∧ t.slotFull id = s.slotFull id + 1 ∧ (t.ring id).fill = ((s.ring id).fill + 1) % g.slots ∧
        tget t.host.sgu (1024 * c + bits h 0 16) = some ⟨bits h 32 32, f.2.1, f.2.2⟩ ∧
        (∀ i b, frame[i]? = some b → t.memRd (key + i) = b) ∧ (∀ a, (a < key ∨ key + frame.length ≤ a) → t.memRd a = s.memRd a)) ∧
    (∀ g, turn 1 → s.sguBad r = false → streamCfg s.img.cfg (r.at 2 2) = some g → tget s.rind.chans g.channel = none →
      let us := lastOf 63 k.1.inp ++ s.sguRaw r 16 320
      let want := (sguSums tab us).map (sguOut (r.at 1 1))
      let head : Word := BitVec.ofNat 64 (bits h 0 16 + 160 * 2 ^ 16 + bits h 32 32 * 2 ^ 32)
      ∃ (t : State) (vs : List Nat), exec (.sguSynthesisFrame c) s = .next t ∧ counted t ∧ s.SameMemory t ∧ tget t.host.sgu (1024 * c + bits h 0 16) = some ⟨bits h 32 32, lastOf 63 us, []⟩ ∧
        vs.length = 160 ∧ (∀ (i v : Nat), want[i]? = some (some v) → vs[i]? = some v) ∧
        (t.staging (r.at 2 2)).map (fun w => w.1) ++ t.plain (r.at 2 2) = (s.staging (r.at 2 2)).map (fun w => w.1) ++ head :: wordsOf (packRaw (if r.at 1 1 = 2 then 16 else 8) vs))

/-- Accesses of a Hauno core (R483, R484, R485, R514): one that no range grants, or to a space or register that is not there, raises the access fault and does nothing else; a granted one that need not wait reads or writes SRAM, hub SRAM
or a local register; user code reads only the counters it may; HLC_SIG adds to a granted counter, and the timer shows when its time has come. Where it settles what the spec leaves open, the choice is the model's (assumption log 112 and 130). -/
def Obligations.HaunoAccessesAndLocalEvents : Prop :=
  ∀ (s : State) (h : Nat) (r : Rec), s.Canon → s.haunoRec h = some r →
    let say (t : State) (m : OutMsg) : Prop := t = { s with sent := s.sent ++ [m] }
    (∀ level space unit addr n data, ∀ w : Bool, level < 3 → space < 16 → addr < 2 ^ 48 → 0 < n → n ≤ 64 →
      let tg := targetOf (space * 2 ^ 48 + addr)
      let go (t : State) : Prop := exec (.haunoAccess h level space unit addr n w data) s = .next t
      (space < 4 → s.haunoBad r tg n w = true → ∃ t, go t ∧ say t (.haunoFault h)) ∧
      (space = 5 ∨ 8 ≤ space → ∃ t, go t ∧ say t (.haunoFault h)) ∧
      (∀ core off, tg = .sram core off → space < 4 → s.haunoBad r tg n w = false → s.haunoWaits r tg n w = false → s.tiers.ecc = [] →
        ∃ t, go t ∧ (if w then t.sent = s.sent ∧ leNat (t.memRdN (sramKey core off) n) = data % 256 ^ n ∧ ∀ a, (a < sramKey core off ∨ sramKey core off + n ≤ a) → t.memRd a = s.memRd a
          else t.sent = s.sent ++ [.haunoData h (leNat (s.memRdN (sramKey core off) n))] ∧ s.SameMemory t)) ∧
      (space = 4 → s.tiers.ecc = [] → ∃ t, go t ∧
        (if s.haunoShare < addr + n then say t (.haunoFault h)
         else if w then t.sent = s.sent ∧ leNat (t.memRdN (hubKey addr) n) = data % 256 ^ n ∧ ∀ a, (a < hubKey addr ∨ hubKey addr + n ≤ a) → t.memRd a = s.memRd a
         else say t (.haunoData h (leNat (s.memRdN (hubKey addr) n))))) ∧
      (space = 6 → ∃ t, go t ∧
        (if w = true ∨ s.unitGone unit = true ∨ 0x100 < addr + n then say t (.haunoFault h)
         else if level = 0 ∧ s.userCounters unit = false then t.sent = s.sent ++ [.haunoData h 0] ∧ t.fg R.PMC_DENIED ⟨0, 48⟩ = min (s.fg R.PMC_DENIED ⟨0, 48⟩ + 1) (2 ^ 48 - 1)
         else say t (.haunoData h (bits (s.readReg 0 (0xD0000 + 0x100 * unit + addr / 8 * 8)) (8 * (addr % 8)) (8 * n))))) ∧
      (space = 7 → ∃ t, go t ∧
        (if hlcListed (addr / 8 * 8) = false ∨ 8 < addr % 8 + n then say t (.haunoFault h)
         else if w = false then say t (.haunoData h (bits (if addr / 8 = 0 then s.rackRead else (s.rd (R.HLC_TIME h + addr / 8 * 8)).toNat) (8 * (addr % 8)) (8 * n)))
         else addr / 8 ≠ 5 → (∀ k, k ≠ R.HLC_TIME h + addr / 8 * 8 → t.rd k = s.rd k) ∧ s.SameMemory t ∧ t.seq = s.seq))) ∧
    (∀ data, let core := bits data 5 5
      ∃ t, exec (.hlcSig h data) s = .next t ∧ s.SameMemory t ∧
        (if haunoGrants s.img.cfg h core 1 = true ∧ s.dieUp (core / 4) = true then
           (∀ x ∈ recsOf s.img.cfg RT.stream, x.at 22 1 ≠ core ∨ x.at 24 1 % 32 ≠ bits data 0 5) → t.cnt core (bits data 0 5) = min (s.cnt core (bits data 0 5) + bits data 32 32) (2 ^ 32 - 1)
         else say t (.haunoFault h))) ∧
    (s.rd (R.HLC_TIMER h) ≠ 0 → s.fb R.TIME_STATUS F.TIME_STATUS_acquired = true → tget s.time.timers h ≠ some (s.rd (R.HLC_TIMER h)).toNat →
      ∃ t, exec (.haunoTimer h) s = .next t ∧ t.fb (R.HLC_IRQ h) F.HLC_IRQ_timer = true ∧ tget t.time.timers h = some (s.rd (R.HLC_TIMER h)).toNat ∧ s.SameMemory t ∧
        (s.time.offset = 0 → t.rack = max s.rack (s.rd (R.HLC_TIMER h)).toNat))

/-- A mailbox exchange (R460, R461, R493): begin empties the message and receives, writes append up to 8,192 words, commit makes the mailbox BUSY in its order, a read takes the next word or reads all ones; what does not fit sets stray, and a
message whose head, type or length fails is answered BAD_FORMAT. -/
def Obligations.MailboxExchangesMessages : Prop :=
  ∀ (s : State) (port : Nat), s.hostOn port = true →
    let m := s.mbox port
    let st (t : State) : Nat := t.mboxState port
    let stray (t : State) : Bool := t.fb (R.RIND_MBOX_STATUS port) F.RIND_MBOX_STATUS_stray
    (st s ≠ 2 → ∃ t, exec (.mboxBegin port) s = .next t ∧ st t = 1 ∧ t.mbox port = ⟨[], m.outw⟩ ∧ ∀ p, p ≠ port → t.mbox p = s.mbox p) ∧
    (∀ size words, st s = 1 → ∃ t, exec (.mboxInWrite port size words) s = .next t ∧ st t = 1 ∧ t.mbox port = ⟨(m.inw ++ words).take 8192, m.outw⟩ ∧
      (stray t = true ↔ stray s = true ∨ size % 8 ≠ 0 ∨ 8192 < (m.inw ++ words).length)) ∧
    (st s = 1 → ∃ t, exec (.mboxCommit port) s = .next t ∧ st t = 2 ∧ t.rind.order = s.rind.order ++ [port] ∧ t.mbox port = m) ∧
    (st s = 2 → ∃ t, exec (.mboxCommit port) s = .next t ∧ s.SetsOnly t (R.RIND_MBOX_STATUS port) F.RIND_MBOX_STATUS_stray 1) ∧
    (st s = 1 → ∃ t, exec (.mboxAbort port) s = .next t ∧ st t = 0 ∧ t.mbox port = ⟨[], m.outw⟩) ∧
    (∃ t, exec (.mboxOutRead port) s = .next t ∧ t.sent = s.sent ++ [.readData port [m.outw.headD ones64]] ∧ t.mbox port = ⟨m.inw, m.outw.drop 1⟩ ∧ st t = st s) ∧
    (s.power = 0 → s.rind.order.head? = some port → s.mboxOk port = false →
      ∃ t, exec (.mboxBadMessage port) s = .next t ∧ st t = 3 ∧ t.fg (R.RIND_MBOX_STATUS port) F.RIND_MBOX_STATUS_code = Code.badFormat ∧ t.rind.order = s.rind.order.drop 1 ∧ t.store = s.store ∧ t.keys = s.keys ∧
        t.fg R.RIND_CNT_MBOX_REFUSED ⟨0, 48⟩ = min (s.fg R.RIND_CNT_MBOX_REFUSED ⟨0, 48⟩ + 1) (2 ^ 48 - 1) ∧ ∃ w, (t.mbox port).outw.head? = some w ∧ w.toNat % 2 ^ 24 = (s.mboxType port + 0x8000) % 2 ^ 16 + 2 ^ 16)

/-- Messages of the Rind (R461, R462, R463, R464, R475, R476, R481, R488): each is answered with the first check that fails and then changes nothing; where all hold, a report is made, an owner is enrolled or transferred, a key installed, a
channel opened, closed or described, debug unlocked, firmware begun, continued and ended as its rule gives. Where it settles what the spec leaves open, the choice is the model's (assumption log 51). -/
def Obligations.RindMessagesAnswerAndAct : Prop :=
  ∀ (s : State) (port ty : Nat), s.power = 0 → s.rind.order.head? = some port → s.mboxType port = ty → s.mboxOk port = true → s.hostOn port = true →
    let b := (s.mboxMsg port).drop 16
    let ok := s.mboxPermits port ty
    let row (c : Instr) : Prop := (ty, c) ∈ [(1, Instr.attest port), (2, .ownerEnrol port), (3, .ownerTransfer port), (4, .keyInstall port), (5, .chanOpen port), (6, .chanClose port), (7, .chanStatus port),
      (8, .debugUnlock port), (9, .fwBegin port), (10, .fwData port), (11, .fwEnd port)]
    let answered (t : State) (code : Nat) (data : Bytes) : Prop :=
      let body := leBytes 1 code ++ zeros 7 ++ (if code = Code.ok then data else [])
      let full := body ++ zeros ((8 - body.length % 8) % 8)
      t.mboxState port = 3 ∧ t.fg (R.RIND_MBOX_STATUS port) F.RIND_MBOX_STATUS_code = code ∧ t.rind.order = s.rind.order.drop 1 ∧
      t.mbox port = ⟨[], wordsOf (leBytes 2 (ty + 0x8000) ++ leBytes 1 1 ++ zeros 1 ++ leBytes 4 (16 + full.length) ++ slice (s.mboxMsg port) 8 4 ++ zeros 4 ++ full)⟩
    let kept (t : State) : Prop := t.store = s.store ∧ t.fuses = s.fuses ∧ t.keys = s.keys ∧ t.rind.chans = s.rind.chans ∧ t.fw = s.fw ∧ t.mem = s.mem ∧ t.far = s.far
    let digest := sha384 (b.take 24)
    let enrol := firstFail [(s.owned, Code.notPermitted), (slice b 0 16 ≠ s.fuses.serial, Code.keyUnknown),
      (match s.store.pendingOwner with
        | some p => p ≠ (sha384 (slice b 16 97)).take 16
        | none => false, Code.keyUnknown),
      (!ecdsaOk (slice b 16 97) (sha384 (b.take 120)) (slice b 120 96), Code.badSignature)]
    let order (n : Nat) : List (Bool × Nat) := [(!s.owned, Code.notPermitted), (slice b 0 16 ≠ s.fuses.serial, Code.keyUnknown), (decide (fieldAt b 16 8 ≤ s.store.orderCtr), Code.staleVersion),
      (!ecdsaOk s.store.ownerPub (sha384 (b.take n)) (slice b n 96), Code.badSignature)]
    let transfer := highestCode (order 40 ++ [(decide (16 ≤ s.fuses.transfers), Code.outOfRange)])
    let install := highestCode (order 192 ++ [(decide (1 < fieldAt b 24 1), Code.badFormat), (fieldAt b 24 1 = 0 && (s.unwrapLease b).isNone, Code.badSignature)])
    let unlock := firstFail [(slice b 0 16 ≠ s.fuses.serial, Code.keyUnknown), (!ecdsaOk s.store.ownerPub digest (slice b 24 96), Code.badSignature), (!ecdsaOk s.fuses.debugPub digest (slice b 120 96), Code.badSignature)]
    (∀ c, row c → ok = false → ∃ t, exec c s = .next t ∧ answered t Code.notPermitted [] ∧ kept t) ∧
    (ty = 1 → ok = true → ∃ t, exec (.attest port) s = .next t ∧ kept t ∧ (match s.reportChain (slice b 0 48) with
      | some r => answered t Code.ok r.1
      | none => answered t Code.notPermitted [])) ∧
    (ty = 2 → ok = true → ∃ t, exec (.ownerEnrol port) s = .next t ∧ answered t enrol [] ∧ (if enrol = Code.ok then
        t.store = { s.store with ownerPub := slice b 16 97, ownerId := (sha384 (slice b 16 97)).take 16, pendingOwner := none, orderCtr := 0 } ∧ t.owned = true ∧ t.fuses = s.fuses
      else kept t)) ∧
    (ty = 3 → ok = true → ∃ t, exec (.ownerTransfer port) s = .next t ∧ answered t transfer [] ∧ (if transfer = Code.ok then
        t.store = { s.store with ownerPub := [], ownerId := [], dumpKey := none, leaseKey := none, imageFloor := 0, pendingOwner := some (slice b 24 16), orderCtr := fieldAt b 16 8, transfers := s.fuses.transfers + 1 } ∧
        t.fuses = { s.fuses with transfers := s.fuses.transfers + 1 } ∧ t.owned = false
      else kept t)) ∧
    (ty = 4 → ok = true → ∃ t, exec (.keyInstall port) s = .next t ∧ (if install = Code.ok then
        (if fieldAt b 24 1 = 1 then answered t Code.ok [] ∧ t.store = { s.store with dumpKey := some (slice b 32 97), orderCtr := fieldAt b 16 8 }
         else match s.unwrapLease b with
           | some k => answered t Code.ok [] ∧ t.store = { s.store with leaseKey := some k, orderCtr := fieldAt b 16 8 }
           | none => answered t Code.badSignature [] ∧ kept t)
      else answered t install [] ∧ kept t)) ∧
    (ty = 5 → ok = true → ∃ t, exec (.chanOpen port) s = .next t ∧
      (let k := s.scalar
       let nonce := sha384 (b.take 360 ++ pubOf k.1)
       let km := kdf ((ecdh k.1 (slice b 8 97)).getD []) nonce "QSN8 channel" 72
       if s.chanCode b = Code.ok ∧ (ecdh k.1 (slice b 8 97)).isSome ∧ (k.2.reportChain nonce).isSome then
         t.mboxState port = 3 ∧ t.fg (R.RIND_MBOX_STATUS port) F.RIND_MBOX_STATUS_code = Code.ok ∧
         tget t.rind.chans (fieldAt b 0 2) = some ⟨slice km 0 32, slice km 32 32, slice km 64 4, slice km 68 4, 0, 0, false⟩ ∧ ∀ n, n ≠ fieldAt b 0 2 → tget t.rind.chans n = tget s.rind.chans n
       else kept t ∧ answered t (if s.chanCode b = Code.ok then Code.badSignature else s.chanCode b) [])) ∧
    (ty = 6 → ok = true → ∃ t, exec (.chanClose port) s = .next t ∧ (match tget s.rind.chans (fieldAt b 0 2) with
      | none => answered t Code.keyUnknown [] ∧ kept t
      | some c => if (gcmOpen c.kin (c.sin ++ List.replicate 8 0xFF) (b.take 8) [] (slice b 8 16)).isSome then answered t Code.ok [] ∧ tget t.rind.chans (fieldAt b 0 2) = none
        else answered t Code.badSignature [] ∧ kept t)) ∧
    (ty = 7 → ok = true → ∃ t, exec (.chanStatus port) s = .next t ∧ kept t ∧ answered t Code.ok (match tget s.rind.chans (fieldAt b 0 2) with
      | some c => leBytes 1 1 ++ leBytes 8 c.inNo ++ leBytes 8 c.outNo
      | none => zeros 17)) ∧
    (ty = 8 → ok = true → ∃ t, exec (.debugUnlock port) s = .next t ∧ answered t unlock [] ∧ (if unlock = Code.ok then
        t.fuses = { s.fuses with debugEver := true } ∧ t.keys = ⟨none, [], [], [], true⟩ ∧ t.rind.chans = [] ∧ t.store.ownerPub = [] ∧ t.store.leaseKey = none ∧ t.store.dumpKey = none ∧
        t.fb R.RIND_STATUS F.RIND_STATUS_jtag_open = true ∧ (∀ p, p < 16 → t.spState p = 0 ∨ 12 ≤ t.spState p) ∧ t.mstate = (if s.mstate = MState.ready then MState.test else s.mstate)
      else kept t)) ∧
    (ty = 9 → ok = true → ∃ t, exec (.fwBegin port) s = .next t ∧ (if s.fw.update.isSome then answered t Code.busy [] ∧ kept t
      else answered t Code.ok [] ∧ t.fw.update = some (1, fieldAt b 0 8) ∧ t.fw.buf = [] ∧ (t.fwSlot s.idleSlot).good = false ∧ t.fw.active = s.fw.active)) ∧
    (ty = 10 → ok = true → ∃ t, exec (.fwData port) s = .next t ∧ (match s.fw.update with
      | some u => if u.1 ≠ 1 then answered t Code.notPermitted [] ∧ kept t
        else if fieldAt b 0 8 ≠ s.fw.buf.length ∨ u.2 < fieldAt b 0 8 + (b.drop 8).length then answered t Code.outOfRange [] ∧ kept t
        else answered t Code.ok [] ∧ t.fw = { s.fw with buf := s.fw.buf ++ b.drop 8 }
      | none => answered t Code.notPermitted [] ∧ kept t)) ∧
    (ty = 11 → ok = true → ∃ t, exec (.fwEnd port) s = .next t ∧ (match s.fw.update with
      | some u =>
        let code := if s.fw.buf.length = u.2 then s.fwCode s.fw.buf else Code.badFormat
        if u.1 ≠ 1 then answered t Code.notPermitted [] ∧ kept t
        else answered t code [] ∧ t.fw.update = none ∧ t.fw.active = s.fw.active ∧ (if code = Code.ok then t.fw.next = some s.idleSlot ∧ t.fw.tries = 1 ∧ t.fwSlot s.idleSlot = fwSlotOf s.fw.buf else t.fw.next = s.fw.next)
      | none => answered t Code.notPermitted [] ∧ kept t))

/-- The tray controller and the debug port (R481, R488, R495, R496): the endpoint number and the event receiver are set and answered, sensors answer their values and the module state, an update by PLDM opens and ends by the same checks; the
JTAG port answers BYPASS and IDCODE, and other instructions only once it is unlocked. The message and instruction codes are the model's (assumption log 46 and 47). -/
def Obligations.TrayControllerAndJtagAnswer : Prop :=
  ∀ s : State,
    (∀ m : PldmMsg, s.power ≠ 1 → s.power ≠ 3 → (s.mgt.stopped = false ∨ s.mstate ≠ MState.rennet) →
      let said (t : State) (code : Nat) (data : Bytes) : Prop := t.sent = s.sent ++ [.pldm (leBytes 1 m.type ++ leBytes 1 m.command ++ leBytes 1 code ++ data)]
      let only (t : State) : Prop := t = { s with sent := t.sent }
      let id := fieldAt m.payload 0 2
      (m.type = 0x100 → m.command = 1 → ∃ t, exec (.pldmMessage m) s = .next t ∧ said t 0 (m.payload.take 1) ∧ t.mgt.eid = fieldAt m.payload 0 1) ∧
      (m.type = 0x100 → m.command = 2 → ∃ t, exec (.pldmMessage m) s = .next t ∧ said t 0 (leBytes 1 s.mgt.eid) ∧ only t) ∧
      (m.type = 2 → m.command = 4 → ∃ t, exec (.pldmMessage m) s = .next t ∧ said t 0 [] ∧ t.mgt.receiver = some (fieldAt m.payload 0 1)) ∧
      (m.type = 2 → m.command = 0x21 → ∃ t, exec (.pldmMessage m) s = .next t ∧ only t ∧ (if id = 9 then said t 0 (leBytes 1 s.mstate) else said t 0x80 [])) ∧
      (m.type = 2 → m.command = 0x11 → ∃ t, exec (.pldmMessage m) s = .next t ∧ only t ∧
        (id = 7 → said t 0 (leBytes 2 (s.fg R.PWR_STATUS F.PWR_STATUS_mean_10ms))) ∧ (id = 8 → said t 0 (leBytes 2 (s.fg R.PWR_STATUS F.PWR_STATUS_cap_in_force))) ∧
        (id = 10 → said t 0 (leBytes 2 (s.fg R.PWR_STATUS F.PWR_STATUS_g))) ∧ (id = 9 → said t 0x80 [])) ∧
      (m.type = 5 → m.command = 0x10 → ∃ t, exec (.pldmMessage m) s = .next t ∧ (if s.fw.update.isSome then said t (0x80 + Code.busy) [] ∧ t.fw = s.fw else said t 0 [] ∧ t.fw.update = some (2, fieldAt m.payload 0 4))) ∧
      (m.type = 5 → m.command = 0x1A → ∃ t, exec (.pldmMessage m) s = .next t ∧ ∀ u, s.fw.update = some u →
        (let code := if s.fw.buf.length = u.2 then s.fwCode s.fw.buf else Code.badFormat
         if u.1 ≠ 2 then said t (0x80 + Code.notPermitted) [] ∧ t.fw = s.fw else t.fw.update = none ∧ said t (if code = Code.ok then 0 else 0x80 + code) []))) ∧
    (∀ instr data, s.power ≠ 1 →
      (instr = 0 → ∃ t, exec (.jtagAccess instr data) s = .next t ∧ t = { s with sent := s.sent ++ [.jtag (2 * data)] }) ∧
      (instr = 1 ∨ s.fb R.RIND_STATUS F.RIND_STATUS_jtag_open = true → 0 < instr → ∃ t v, exec (.jtagAccess instr data) s = .next t ∧ t = { s with freeCtr := s.freeCtr + 1, sent := s.sent ++ [.jtag v] }) ∧
      (1 < instr → s.fb R.RIND_STATUS F.RIND_STATUS_jtag_open = false → exec (.jtagAccess instr data) s = .next s))

/-- The queue of commands (assumption log 4): a step takes the command at the front and answers what `exec` answers on the state with the queue's rest; with nothing waiting, 1 ns passes and
memory, registers and queue stay. -/
def Obligations.StepRunsTheFrontCommand : Prop :=
  ∀ (s : State) (c : Instr) (q : List Instr), step { s with pending := c :: q } = exec c { s with pending := q } ∧
    ∃ t, step { s with pending := [] } = .next t ∧ t.now = s.now + 1 ∧ t.regs = s.regs ∧ t.pending = [] ∧ s.SameMemory t ∧ (s.time.offset = 0 → t.rack = s.rack + 1)

/-- Reset (R12, R14, R372, R375, R531, R532): the module is in RENNET after a start of cause 0 with the input in range, the first start is counted and logged, no command waits, every context is
IDLE, every die in RESET, nothing volatile is held, no lease stands, and every register the start does not set reads its reset value. -/
def Obligations.ResetIsAFreshStart : Prop :=
  State.reset.Kept ∧ State.reset.pending = [] ∧ State.reset.Blank ∧ State.reset.mstate = MState.rennet ∧ State.reset.fg R.RST_STATUS F.RST_STATUS_cause = 0 ∧
  State.reset.fb R.RST_STATUS F.RST_STATUS_input_ok = true ∧ State.reset.store.bootCount = 1 ∧ State.reset.store.log.map (fun e => e.seq) = [1] ∧ State.reset.pause = none ∧
  (∀ x, x < 128 → State.reset.ctxState x = 0) ∧ (∀ d, d < 8 → State.reset.dieState d = 2) ∧ (State.reset.rd R.FJ_LEASE).toNat = 0 ∧ State.reset.inForce = 0 ∧ State.reset.loadState = 0 ∧
  (∀ k, k ∉ State.reset.regs.map (fun e => e.1) → State.reset.rd k = resetWord k)

/-- An invariant of every step: memory, far memory and registers keep their canonical form, the boot record names the slots A and B (R482), and less than one slew step is carried over (R539). -/
def Obligations.EveryStepKeepsTheInvariant : Prop := ∀ s t : State, s.Kept → step s = .next t → t.Kept

/-- No command stops the block, and none takes anything back (R457, R508): from every state every command answers a next state; there the canonical form holds if it did, the queue is the
sender's, time has not gone back, everything sent stays sent, no free value or random byte is drawn twice, log entries count up, and the fuses' part number is kept and their counts only rise. -/
def Obligations.EveryCommandCompletesAndTakesNothingBack : Prop := ∀ (c : Instr) (s : State), ∃ t, exec c s = .next t ∧ s.Evolves t

/-- The frame of every command (`frameOf`): whatever its operands and the state, it changes only the parts of the state that its frame lists; and where memory is not among them, every byte reads
as before. -/
def Obligations.CommandsChangeOnlyTheirParts : Prop :=
  ∀ (c : Instr) (s t : State), exec c s = .next t → s.Touches (frameOf c) t ∧ ((∀ p ∈ [Machine.Part.mem, .far, .stamps, .boot], p ∉ frameOf c) → s.SameMemory t)

/-- R82: sub-byte elements are packed in little-endian order, as they are written to memory (`packRaw`) and as they are read (`rowRaw`): FP4 and INT4 place element 2j in bits [3:0] of byte j and
element 2j + 1 in bits [7:4], FP6 places element i of each 3-byte group in bits [6i + 5:6i]. R83: a pass runs in 4-bit mode exactly when both operands are in a format of 0x04-0x07 or 0x12-0x14. -/
def Obligations.SubByteElementsArePackedLittleEndian : Prop :=
  (∀ xs : List Nat,
    (packRaw 4 xs).length = (xs.length + 1) / 2 ∧ (packRaw 6 xs).length = (6 * xs.length + 7) / 8 ∧
    (∀ j, j < (xs.length + 1) / 2 → ∃ b, (packRaw 4 xs)[j]? = some b ∧ b.toNat % 16 = xs.getD (2 * j) 0 % 16 ∧ b.toNat / 16 = xs.getD (2 * j + 1) 0 % 16) ∧
    (∀ g i, i < 4 → 4 * g + i < xs.length → leNat (((packRaw 6 xs).drop (3 * g)).take 3) / 2 ^ (6 * i) % 64 = xs.getD (4 * g + i) 0 % 64)) ∧
  (∀ (fmt cols : Nat) (bs : Bytes),
    (fmt ∈ [0x06, 0x07, 0x14] → ∀ j, (2 * j < cols → (rowRaw fmt cols bs)[2 * j]? = some ((bs.getD j 0).toNat % 16)) ∧ (2 * j + 1 < cols → (rowRaw fmt cols bs)[2 * j + 1]? = some ((bs.getD j 0).toNat / 16))) ∧
    (fmt ∈ [0x04, 0x05, 0x12, 0x13] → ∀ g i, i < 4 → 4 * g + i < cols → (rowRaw fmt cols bs)[4 * g + i]? = some (leNat ((bs.drop (3 * g)).take 3) / 2 ^ (6 * i) % 64))) ∧
  ∀ c : MmaCfg, fourBit c = true ↔ c.fa ∈ [0x04, 0x05, 0x06, 0x07, 0x12, 0x13, 0x14] ∧ c.fb ∈ [0x04, 0x05, 0x06, 0x07, 0x12, 0x13, 0x14]

/-- R174: while channel x of a stack is retired, its granule r is served by entry (r mod 31) of the other 31 channels in ascending order, at reserve granule 10,158,080 + r div 31; every other channel
serves its own granules; two granules are never served at one place; and the hash of R170 does not depend on it. -/
def Obligations.RetiredGranulesAreServedByTheOtherChannels : Prop :=
  ∀ (s : State) (k ch : Nat), k < 24 → ch < 32 →
    let st := R.FMC_STK_STATUS k
    s.fg st F.FMC_STK_STATUS_retire_state = 4 → s.fg st F.FMC_STK_STATUS_retired_ch = ch →
    (∀ r, s.farServe k ch r = (((List.range 32).filter (fun c => c ≠ ch)).getD (r % 31) 0, 10158080 + r / 31)) ∧
    (∀ c r, c ≠ ch → s.farServe k c r = (c, r)) ∧
    (∀ c c' r r', c < 32 → c' < 32 → r < 10158080 → r' < 10158080 → s.farServe k c r = s.farServe k c' r' → c = c' ∧ r = r') ∧
    (∀ i off, (s.domMap i off).1 = k → s.farKeyOf i off = farKey k (s.farServe k (s.domMap i off).2.1 (s.domMap i off).2.2).1 (s.farServe k (s.domMap i off).2.1 (s.domMap i off).2.2).2 (off % 256)) ∧
    (∀ v i off, i < 16 → ((s.fs st F.FMC_STK_STATUS_retire_state v).fs st F.FMC_STK_STATUS_retired_ch v).domMap i off = s.domMap i off)
end

