-- ==== Sys2Proof/Laws/Tables.lean ====
section
/-!
SUPPORT. Laws of sparse tables and cell lists: read after write, and that writes keep the canonical form.
-/
namespace Sys2Proof
namespace Machine
set_option Elab.async false

section
variable {α : Type}

theorem rising_head {k : Nat} {v : α} {t : Tab α} (h : rising ((k, v) :: t)) : ∀ e ∈ t, k < e.1 := (List.pairwise_cons.1 h).1

theorem mem_tset {t : Tab α} {k : Nat} {v : α} {e : Nat × α} (h : e ∈ tset t k v) : e = (k, v) ∨ e ∈ t := by
  induction t with
  | nil => simpa [tset] using h
  | cons x r ih =>
    obtain ⟨j, u⟩ := x
    simp only [tset] at h
    split at h
    · simp only [List.mem_cons] at h ⊢; tauto
    · split at h
      · simp only [List.mem_cons] at h ⊢; tauto
      · simp only [List.mem_cons] at h ⊢; tauto

theorem mem_tdel {t : Tab α} {k : Nat} {e : Nat × α} (h : e ∈ tdel t k) : e ∈ t := (List.mem_filter.1 h).1

/-- A write keeps a table's keys rising. -/
theorem rising_tset {t : Tab α} (h : rising t) (k : Nat) (v : α) : rising (tset t k v) := by
  induction t with
  | nil => exact List.pairwise_singleton _ _
  | cons x r ih =>
    obtain ⟨j, u⟩ := x
    obtain ⟨h1, h2⟩ := List.pairwise_cons.1 h
    simp only [tset]
    split
    · next e => subst e; exact List.pairwise_cons.2 ⟨h1, h2⟩
    · split
      · next hk =>
        refine List.pairwise_cons.2 ⟨fun e he => ?_, h⟩
        rcases List.mem_cons.1 he with rfl | he
        · exact hk
        · exact Nat.lt_trans hk (h1 e he)
      · next hj hk =>
        refine List.pairwise_cons.2 ⟨fun e he => ?_, ih h2⟩
        rcases mem_tset he with rfl | he
        · show j < k; omega
        · exact h1 e he

/-- A removal keeps a table's keys rising. -/
theorem rising_tdel {t : Tab α} (h : rising t) (k : Nat) : rising (tdel t k) := h.filter _

/-- Writes in turn keep a table's keys rising. -/
theorem rising_foldl_tset {t : Tab α} (h : rising t) (l : List (Nat × α)) : rising (l.foldl (fun a e => tset a e.1 e.2) t) := by
  induction l generalizing t with
  | nil => exact h
  | cons e r ih => exact ih (rising_tset h e.1 e.2)

theorem rising_filter {t : Tab α} (h : rising t) (p : Nat × α → Bool) : rising (t.filter p) := h.filter p

/-- Read after write. -/
theorem tget_tset (t : Tab α) (k j : Nat) (v : α) : tget (tset t k v) j = if j = k then some v else tget t j := by
  induction t with
  | nil => simp only [tset, tget]; split_ifs <;> first | rfl | omega
  | cons x r ih =>
    obtain ⟨i, u⟩ := x
    simp only [tset]
    split
    · next e => subst e; simp only [tget]; split_ifs <;> first | rfl | omega
    · split
      · simp only [tget]; split_ifs <;> first | rfl | omega
      · simp only [tget, ih]; split_ifs <;> first | rfl | omega

/-- Read after removal. -/
theorem tget_tdel (t : Tab α) (k j : Nat) : tget (tdel t k) j = if j = k then none else tget t j := by
  induction t with
  | nil => simp [tdel, tget]
  | cons x r ih =>
    obtain ⟨i, u⟩ := x
    simp only [tdel] at ih
    by_cases e : i = k
    · simp only [tdel, List.filter, e, ne_eq, not_true_eq_false, decide_false, ih, tget]; split_ifs <;> first | rfl | omega
    · simp only [tdel, List.filter, e, ne_eq, not_false_eq_true, decide_true, ih, tget]; split_ifs <;> first | rfl | omega

theorem tgetD_tset (t : Tab α) (k j : Nat) (v d : α) : tgetD (tset t k v) j d = if j = k then v else tgetD t j d := by
  simp only [tgetD, tget_tset]; split_ifs <;> rfl

@[simp] theorem tget_nil (k : Nat) : tget ([] : Tab α) k = none := rfl
@[simp] theorem tgetD_nil (k : Nat) (d : α) : tgetD ([] : Tab α) k d = d := rfl
@[simp] theorem tget_tset_self (t : Tab α) (k : Nat) (v : α) : tget (tset t k v) k = some v := by simp [tget_tset]
@[simp] theorem tgetD_tset_self (t : Tab α) (k : Nat) (v d : α) : tgetD (tset t k v) k d = v := by simp [tgetD_tset]

end

/-- A byte written to a cell list keeps its canonical form. -/
theorem Memory.wf_cellPut {m : List Host.Cell} (h : Memory.wf m) (a : Nat) (b : Byte) : Memory.wf (cellPut m a b) := by
  unfold cellPut
  split
  · exact ⟨rising_tdel h.1 a, fun c hc => h.2 c (mem_tdel hc)⟩
  · next hb =>
    refine ⟨rising_tset h.1 a b, fun c hc => ?_⟩
    rcases mem_tset hc with rfl | hc
    · exact hb
    · exact h.2 c hc

/-- Read after write of a cell list. -/
theorem cellGet_cellPut (m : List Host.Cell) (a b : Nat) (v : Byte) :
    (cellGet (cellPut m a v) b).getD memUnlisted = if b = a then v else (cellGet m b).getD memUnlisted := by
  unfold cellPut cellGet
  split
  · next e => rw [tget_tdel]; split_ifs <;> simp [e]
  · rw [tget_tset]; split_ifs <;> rfl

/-- Bytes put into far memory keep its keys rising. -/
theorem rising_farPutN {m : List Host.Cell} (h : rising m) (as : List Nat) (bs : Bytes) : rising (farPutN m as bs) := by
  induction as generalizing m bs with
  | nil => exact h
  | cons a as ih =>
    cases bs with
    | nil => exact h
    | cons b bs => exact ih (rising_tset h a b) bs

end Machine
end Sys2Proof
end

