-- ==== Sys2Proof/Laws/Registers.lean ====
section
/-!
SUPPORT. Laws of registers and their fields: read after write, fields that do not overlap, counters, lists of registers put to zero.
-/
namespace Sys2Proof
namespace Machine
set_option Elab.async false

/-! ### Bit fields of numbers -/

theorem testBit_bits (x lo w i : Nat) : (bits x lo w).testBit i = (decide (i < w) && x.testBit (lo + i)) := by
  simp only [bits, Nat.testBit_mod_two_pow, Nat.testBit_div_two_pow, Nat.add_comm]

theorem bits_lt (x lo w : Nat) : bits x lo w < 2 ^ w := Nat.mod_lt _ (Nat.two_pow_pos w)

theorem setBits_eq (x lo w v : Nat) : setBits x lo w v = 2 ^ lo * (2 ^ w * (x / 2 ^ lo / 2 ^ w) + v % 2 ^ w) + x % 2 ^ lo := by
  have h1 := Nat.div_add_mod x (2 ^ lo)
  have h2 := Nat.div_add_mod (x / 2 ^ lo) (2 ^ w)
  have h3 : bits x lo w * 2 ^ lo = 2 ^ lo * (x / 2 ^ lo % 2 ^ w) := by rw [bits, Nat.mul_comm]
  have h4 : 2 ^ lo * (x / 2 ^ lo) = 2 ^ lo * (2 ^ w * (x / 2 ^ lo / 2 ^ w)) + 2 ^ lo * (x / 2 ^ lo % 2 ^ w) := by rw [← Nat.mul_add, h2]
  rw [setBits, h3, Nat.mul_add, Nat.mul_comm (v % 2 ^ w)]
  omega

/-- Replacing a field replaces its bits and no others. -/
theorem testBit_setBits (x lo w v i : Nat) : (setBits x lo w v).testBit i = if lo ≤ i ∧ i < lo + w then v.testBit (i - lo) else x.testBit i := by
  rw [setBits_eq, Nat.testBit_two_pow_mul_add _ (Nat.mod_lt _ (Nat.two_pow_pos lo))]
  split
  · next h => rw [Nat.testBit_mod_two_pow, if_neg (by omega)]; simp [h]
  · next h =>
    rw [Nat.testBit_two_pow_mul_add _ (Nat.mod_lt _ (Nat.two_pow_pos w))]
    split
    · next k => rw [Nat.testBit_mod_two_pow, if_pos (by omega)]; simp [k]
    · next k =>
      rw [Nat.testBit_div_two_pow, Nat.testBit_div_two_pow, if_neg (by omega)]
      congr 1
      omega

theorem setBits_lt {x lo w v n : Nat} (h : x < 2 ^ n) (k : lo + w ≤ n) : setBits x lo w v < 2 ^ n := by
  refine Nat.lt_pow_two_of_testBit _ fun i hi => ?_
  rw [testBit_setBits, if_neg (by omega)]
  exact Nat.testBit_lt_two_pow (Nat.lt_of_lt_of_le h (Nat.pow_le_pow_right (by decide) hi))

/-- A replaced field reads as the value put into it. -/
theorem bits_setBits (x lo w v : Nat) : bits (setBits x lo w v) lo w = v % 2 ^ w := by
  refine Nat.eq_of_testBit_eq fun i => ?_
  rw [testBit_bits, testBit_setBits, Nat.testBit_mod_two_pow]
  by_cases h : i < w
  · rw [if_pos ⟨Nat.le_add_right _ _, by omega⟩, Nat.add_sub_cancel_left]
  · simp [h]

/-- A field that does not overlap a replaced one reads as before. -/
theorem bits_setBits_disjoint {x lo w v a b : Nat} (h : a + b ≤ lo ∨ lo + w ≤ a) : bits (setBits x lo w v) a b = bits x a b := by
  refine Nat.eq_of_testBit_eq fun i => ?_
  rw [testBit_bits, testBit_bits, testBit_setBits]
  by_cases k : i < b
  · rw [if_neg (by omega)]
  · simp [k]

/-- A write under a mask takes the masked bits from the new number and keeps the others. -/
theorem testBit_merge (x y e i : Nat) : (x - (x &&& e) + (y &&& e)).testBit i = if e.testBit i then y.testBit i else x.testBit i := by
  have two : ∀ a b : Nat, (a &&& b) % 2 = a % 2 * (b % 2) := by
    intro a b
    have t := Nat.testBit_and a b 0
    simp only [Nat.testBit_zero] at t
    rcases Nat.mod_two_eq_zero_or_one a with h | h <;> rcases Nat.mod_two_eq_zero_or_one b with k | k <;> simp only [h, k] at t ⊢ <;>
      rcases Nat.mod_two_eq_zero_or_one (a &&& b) with q | q <;> simp_all
  have key : ∀ x y e : Nat, (x - (x &&& e) + (y &&& e)) / 2 = x / 2 - (x / 2 &&& e / 2) + (y / 2 &&& e / 2) ∧
      (x - (x &&& e) + (y &&& e)) % 2 = if e % 2 = 1 then y % 2 else x % 2 := by
    intro x y e
    have h1 := two x e
    have h2 := two y e
    have h3 : (x &&& e) / 2 = x / 2 &&& e / 2 := by rw [← Nat.shiftRight_one, Nat.shiftRight_and_distrib, Nat.shiftRight_one, Nat.shiftRight_one]
    have h4 : (y &&& e) / 2 = y / 2 &&& e / 2 := by rw [← Nat.shiftRight_one, Nat.shiftRight_and_distrib, Nat.shiftRight_one, Nat.shiftRight_one]
    have h5 : (x &&& e) ≤ x := Nat.and_le_left
    rw [← h3, ← h4]
    rcases Nat.mod_two_eq_zero_or_one e with k | k <;> rw [k] at h1 h2 <;> simp [k] <;> omega
  induction i generalizing x y e with
  | zero =>
    have := (key x y e).2
    simp only [Nat.testBit_zero, this]
    split_ifs <;> simp_all
  | succ i ih => rw [Nat.testBit_succ, (key x y e).1, ih, ← Nat.testBit_succ, ← Nat.testBit_succ, ← Nat.testBit_succ]

/-! ### Registers -/

theorem State.rd_wr (s : State) (k j : Nat) (w : Word) : (s.wr k w).rd j = if j = k then w else s.rd j := by
  simp only [State.rd, State.wr, tgetD_tset]

@[simp] theorem State.rd_wr_self (s : State) (k : Nat) (w : Word) : (s.wr k w).rd k = w := by rw [State.rd_wr, if_pos rfl]

theorem State.rd_wr_ne {s : State} {k j : Nat} {w : Word} (h : j ≠ k) : (s.wr k w).rd j = s.rd j := by rw [State.rd_wr, if_neg h]

theorem State.rd_fs_ne {s : State} {k j : Nat} {f : Fld} {v : Nat} (h : j ≠ k) : (s.fs k f v).rd j = s.rd j := State.rd_wr_ne h

theorem State.toNat_rd_fs {s : State} {k : Nat} {f : Fld} {v : Nat} (h : f.lo + f.w ≤ 64) : ((s.fs k f v).rd k).toNat = setBits (s.rd k).toNat f.lo f.w v := by
  rw [State.fs, State.rd_wr_self, BitVec.toNat_ofNat, Nat.mod_eq_of_lt (setBits_lt (s.rd k).isLt h)]

/-- A field reads as what was written to it. -/
theorem State.fg_fs {s : State} {k : Nat} {f : Fld} {v : Nat} (h : f.lo + f.w ≤ 64) : (s.fs k f v).fg k f = v % 2 ^ f.w := by
  rw [State.fg, State.toNat_rd_fs h, bits_setBits]

/-- A write to one register leaves the fields of others. -/
theorem State.fg_fs_ne {s : State} {k j : Nat} {f g : Fld} {v : Nat} (h : j ≠ k) : (s.fs k f v).fg j g = s.fg j g := by
  rw [State.fg, State.fg, State.rd_fs_ne h]

/-- A write to a field leaves the other fields of its register. -/
theorem State.fg_fs_disjoint {s : State} {k : Nat} {f g : Fld} {v : Nat} (hf : f.lo + f.w ≤ 64) (h : g.lo + g.w ≤ f.lo ∨ f.lo + f.w ≤ g.lo) :
    (s.fs k f v).fg k g = s.fg k g := by
  rw [State.fg, State.fg, State.toNat_rd_fs hf, bits_setBits_disjoint h]

theorem State.fg_wr_ne {s : State} {k j : Nat} {w : Word} {g : Fld} (h : j ≠ k) : (s.wr k w).fg j g = s.fg j g := by
  rw [State.fg, State.fg, State.rd_wr_ne h]

theorem State.fieldSet_fs (s : State) (k : Nat) (f : Fld) (v : Nat) (h : f.lo + f.w ≤ 64) (hv : v < 2 ^ f.w) : s.FieldSet (s.fs k f v) k f v := by
  refine ⟨by rw [State.fg_fs h, Nat.mod_eq_of_lt hv], fun i hi => ?_⟩
  rw [← BitVec.testBit_toNat, ← BitVec.testBit_toNat, State.toNat_rd_fs h, testBit_setBits, if_neg (by omega)]

theorem State.rd_zeroRegs (s : State) (ks : List Nat) (j : Nat) : (s.zeroRegs ks).rd j = if j ∈ ks then 0 else s.rd j := by
  unfold State.zeroRegs
  induction ks generalizing s with
  | nil => simp
  | cons k r ih =>
    rw [List.foldl_cons, ih, State.rd_wr]
    by_cases h : j ∈ r
    · simp [h]
    · by_cases e : j = k <;> simp [h, e]

/-! ### What a register write leaves alone -/

theorem State.RegsOnly.refl (s : State) (ks : List Nat) : s.RegsOnly s ks := ⟨rfl, fun _ _ => rfl⟩

theorem State.RegsOnly.trans {s t u : State} {ks : List Nat} (h : s.RegsOnly t ks) (k : t.RegsOnly u ks) : s.RegsOnly u ks := by
  obtain ⟨e, f⟩ := h
  obtain ⟨e', f'⟩ := k
  refine ⟨?_, fun j hj => (f' j hj).trans (f j hj)⟩
  rw [e', e]

theorem State.RegsOnly.mono {s t : State} {ks js : List Nat} (h : s.RegsOnly t ks) (k : ∀ j ∈ ks, j ∈ js) : s.RegsOnly t js :=
  ⟨h.1, fun j hj => h.2 j fun e => hj (k j e)⟩

theorem State.regsOnly_wr (s : State) {k : Nat} {ks : List Nat} (w : Word) (h : k ∈ ks) : s.RegsOnly (s.wr k w) ks :=
  ⟨rfl, fun j hj => State.rd_wr_ne fun e => hj (e ▸ h)⟩

theorem State.regsOnly_fs (s : State) {k : Nat} {ks : List Nat} (f : Fld) (v : Nat) (h : k ∈ ks) : s.RegsOnly (s.fs k f v) ks := State.regsOnly_wr s _ h

theorem State.regsOnly_zeroRegs (s : State) (ks : List Nat) : s.RegsOnly (s.zeroRegs ks) ks := by
  refine ⟨?_, fun j hj => by rw [State.rd_zeroRegs, if_neg hj]⟩
  unfold State.zeroRegs
  suffices h : ∀ (l : List Nat) (t : State), t = { s with regs := t.regs } → l.foldl (fun s k => s.wr k 0) t = { s with regs := (l.foldl (fun s k => s.wr k 0) t).regs } from h ks s rfl
  intro l
  induction l with
  | nil => exact fun _ h => h
  | cons k r ih =>
    intro t h
    exact ih _ (by rw [h]; rfl)

theorem State.zeroes_zeroRegs (s : State) (ks : List Nat) : s.Zeroes (s.zeroRegs ks) ks :=
  ⟨fun k h => by rw [State.rd_zeroRegs, if_pos h], State.regsOnly_zeroRegs s ks⟩

theorem State.Zeroes.congr {s t : State} {ks js : List Nat} (h : s.Zeroes t ks) (e : ∀ k, k ∈ js ↔ k ∈ ks) : s.Zeroes t js :=
  ⟨fun k hk => h.1 k ((e k).1 hk), h.2.mono fun k hk => (e k).2 hk⟩

theorem State.setsOnly_fs (s : State) (k : Nat) (f : Fld) (v : Nat) (h : f.lo + f.w ≤ 64) (hv : v < 2 ^ f.w) : s.SetsOnly (s.fs k f v) k f v :=
  ⟨State.fieldSet_fs s k f v h hv, State.regsOnly_fs s f v (List.mem_singleton.2 rfl)⟩

/-- A field set and then other fields or registers written keeps its value. -/
theorem State.FieldSet.fs_ne {s t : State} {k j : Nat} {f g : Fld} {v x : Nat} (h : s.FieldSet t k f v) (e : k ≠ j) : s.FieldSet (t.fs j g x) k f v :=
  ⟨(State.fg_fs_ne e).trans h.1, fun i hi => by rw [State.rd_fs_ne e, h.2 i hi]⟩

/-- Registers written one by one, each from its own old word: a register outside them is as before. -/
theorem State.rd_foldl_range_ne {g : State → Nat → State} {key : Nat → Nat} (hne : ∀ s c j, j ≠ key c → (g s c).rd j = s.rd j) (s : State) (n j : Nat)
    (hj : ∀ c, c < n → j ≠ key c) : ((List.range n).foldl g s).rd j = s.rd j := by
  induction n with
  | zero => rfl
  | succ n ih =>
    rw [List.range_succ, List.foldl_append, List.foldl_cons, List.foldl_nil, hne _ _ _ (hj n (Nat.lt_succ_self n)), ih fun c hc => hj c (Nat.lt_succ_of_lt hc)]

/-- Registers written one by one, each from its own old word: what each then holds. -/
theorem State.rd_foldl_range {g : State → Nat → State} {key : Nat → Nat} {w : Nat → Word → Word} (hne : ∀ s c j, j ≠ key c → (g s c).rd j = s.rd j)
    (hself : ∀ s c, (g s c).rd (key c) = w c (s.rd (key c))) (inj : ∀ a b, key a = key b → a = b) (s : State) (n c : Nat) (hc : c < n) :
    ((List.range n).foldl g s).rd (key c) = w c (s.rd (key c)) := by
  induction n with
  | zero => exact absurd hc (Nat.not_lt_zero c)
  | succ n ih =>
    rw [List.range_succ, List.foldl_append, List.foldl_cons, List.foldl_nil]
    by_cases e : c = n
    · subst e
      rw [hself, State.rd_foldl_range_ne hne s c _ fun d hd q => by have := inj _ _ q; omega]
    · rw [hne _ _ _ fun q => e (inj _ _ q), ih (by omega)]

/-- A fold of register writes touches registers alone. -/
theorem State.regs_foldl {α : Type} {g : State → α → State} (hg : ∀ s c, g s c = { s with regs := (g s c).regs }) (s : State) (l : List α) :
    l.foldl g s = { s with regs := (l.foldl g s).regs } := by
  induction l generalizing s with
  | nil => rfl
  | cons c r ih =>
    rw [List.foldl_cons]
    have e := hg s c
    generalize g s c = u at e
    generalize u.regs = q at e
    subst e
    exact ih _

/-! ### Events that happen and events that do not -/

theorem occurs_true {c : Bool} {s t : State} (h : c = true) : occurs c s t = .next t := by simp [occurs, h]

theorem occurs_false {c : Bool} {s t : State} (h : c = false) : occurs c s t = .next s := by simp [occurs, h]

end Machine
end Sys2Proof
end

