-- ==== Sys2Proof/Laws/State.lean ====
section
/-!
SUPPORT. What each primitive update leaves alone, field by field, and the field it writes.
-/
namespace Sys2Proof
namespace Machine
set_option Elab.async false

section
variable (s : State)

@[simp] theorem State.wr_regs (k : Nat) (w : Word) : (s.wr k w).regs = tset s.regs k w := rfl
@[simp] theorem State.wr_mem (k : Nat) (w : Word) : (s.wr k w).mem = s.mem := rfl
@[simp] theorem State.wr_far (k : Nat) (w : Word) : (s.wr k w).far = s.far := rfl
@[simp] theorem State.wr_seq (k : Nat) (w : Word) : (s.wr k w).seq = s.seq := rfl
@[simp] theorem State.wr_tiers (k : Nat) (w : Word) : (s.wr k w).tiers = s.tiers := rfl
@[simp] theorem State.wr_links (k : Nat) (w : Word) : (s.wr k w).links = s.links := rfl
@[simp] theorem State.wr_sp (k : Nat) (w : Word) : (s.wr k w).sp = s.sp := rfl
@[simp] theorem State.wr_fj (k : Nat) (w : Word) : (s.wr k w).fj = s.fj := rfl
@[simp] theorem State.wr_keys (k : Nat) (w : Word) : (s.wr k w).keys = s.keys := rfl
@[simp] theorem State.wr_rind (k : Nat) (w : Word) : (s.wr k w).rind = s.rind := rfl
@[simp] theorem State.wr_fw (k : Nat) (w : Word) : (s.wr k w).fw = s.fw := rfl
@[simp] theorem State.wr_cle (k : Nat) (w : Word) : (s.wr k w).cle = s.cle := rfl
@[simp] theorem State.wr_kpu (k : Nat) (w : Word) : (s.wr k w).kpu = s.kpu := rfl
@[simp] theorem State.wr_eru (k : Nat) (w : Word) : (s.wr k w).eru = s.eru := rfl
@[simp] theorem State.wr_img (k : Nat) (w : Word) : (s.wr k w).img = s.img := rfl
@[simp] theorem State.wr_bud (k : Nat) (w : Word) : (s.wr k w).bud = s.bud := rfl
@[simp] theorem State.wr_host (k : Nat) (w : Word) : (s.wr k w).host = s.host := rfl
@[simp] theorem State.wr_pause (k : Nat) (w : Word) : (s.wr k w).pause = s.pause := rfl
@[simp] theorem State.wr_fuses (k : Nat) (w : Word) : (s.wr k w).fuses = s.fuses := rfl
@[simp] theorem State.wr_store (k : Nat) (w : Word) : (s.wr k w).store = s.store := rfl
@[simp] theorem State.wr_pins (k : Nat) (w : Word) : (s.wr k w).pins = s.pins := rfl
@[simp] theorem State.wr_mgt (k : Nat) (w : Word) : (s.wr k w).mgt = s.mgt := rfl
@[simp] theorem State.wr_time (k : Nat) (w : Word) : (s.wr k w).time = s.time := rfl
@[simp] theorem State.wr_power (k : Nat) (w : Word) : (s.wr k w).power = s.power := rfl
@[simp] theorem State.wr_now (k : Nat) (w : Word) : (s.wr k w).now = s.now := rfl
@[simp] theorem State.wr_rack (k : Nat) (w : Word) : (s.wr k w).rack = s.rack := rfl
@[simp] theorem State.wr_boundaryNo (k : Nat) (w : Word) : (s.wr k w).boundaryNo = s.boundaryNo := rfl
@[simp] theorem State.wr_freeCtr (k : Nat) (w : Word) : (s.wr k w).freeCtr = s.freeCtr := rfl
@[simp] theorem State.wr_randCtr (k : Nat) (w : Word) : (s.wr k w).randCtr = s.randCtr := rfl
@[simp] theorem State.wr_sent (k : Nat) (w : Word) : (s.wr k w).sent = s.sent := rfl
@[simp] theorem State.wr_pending (k : Nat) (w : Word) : (s.wr k w).pending = s.pending := rfl

@[simp] theorem State.fs_mem (k : Nat) (f : Fld) (v : Nat) : (s.fs k f v).mem = s.mem := rfl
@[simp] theorem State.fs_far (k : Nat) (f : Fld) (v : Nat) : (s.fs k f v).far = s.far := rfl
@[simp] theorem State.fs_seq (k : Nat) (f : Fld) (v : Nat) : (s.fs k f v).seq = s.seq := rfl
@[simp] theorem State.fs_tiers (k : Nat) (f : Fld) (v : Nat) : (s.fs k f v).tiers = s.tiers := rfl
@[simp] theorem State.fs_links (k : Nat) (f : Fld) (v : Nat) : (s.fs k f v).links = s.links := rfl
@[simp] theorem State.fs_sp (k : Nat) (f : Fld) (v : Nat) : (s.fs k f v).sp = s.sp := rfl
@[simp] theorem State.fs_fj (k : Nat) (f : Fld) (v : Nat) : (s.fs k f v).fj = s.fj := rfl
@[simp] theorem State.fs_keys (k : Nat) (f : Fld) (v : Nat) : (s.fs k f v).keys = s.keys := rfl
@[simp] theorem State.fs_rind (k : Nat) (f : Fld) (v : Nat) : (s.fs k f v).rind = s.rind := rfl
@[simp] theorem State.fs_fw (k : Nat) (f : Fld) (v : Nat) : (s.fs k f v).fw = s.fw := rfl
@[simp] theorem State.fs_cle (k : Nat) (f : Fld) (v : Nat) : (s.fs k f v).cle = s.cle := rfl
@[simp] theorem State.fs_kpu (k : Nat) (f : Fld) (v : Nat) : (s.fs k f v).kpu = s.kpu := rfl
@[simp] theorem State.fs_eru (k : Nat) (f : Fld) (v : Nat) : (s.fs k f v).eru = s.eru := rfl
@[simp] theorem State.fs_img (k : Nat) (f : Fld) (v : Nat) : (s.fs k f v).img = s.img := rfl
@[simp] theorem State.fs_bud (k : Nat) (f : Fld) (v : Nat) : (s.fs k f v).bud = s.bud := rfl
@[simp] theorem State.fs_host (k : Nat) (f : Fld) (v : Nat) : (s.fs k f v).host = s.host := rfl
@[simp] theorem State.fs_pause (k : Nat) (f : Fld) (v : Nat) : (s.fs k f v).pause = s.pause := rfl
@[simp] theorem State.fs_fuses (k : Nat) (f : Fld) (v : Nat) : (s.fs k f v).fuses = s.fuses := rfl
@[simp] theorem State.fs_store (k : Nat) (f : Fld) (v : Nat) : (s.fs k f v).store = s.store := rfl
@[simp] theorem State.fs_pins (k : Nat) (f : Fld) (v : Nat) : (s.fs k f v).pins = s.pins := rfl
@[simp] theorem State.fs_mgt (k : Nat) (f : Fld) (v : Nat) : (s.fs k f v).mgt = s.mgt := rfl
@[simp] theorem State.fs_time (k : Nat) (f : Fld) (v : Nat) : (s.fs k f v).time = s.time := rfl
@[simp] theorem State.fs_power (k : Nat) (f : Fld) (v : Nat) : (s.fs k f v).power = s.power := rfl
@[simp] theorem State.fs_now (k : Nat) (f : Fld) (v : Nat) : (s.fs k f v).now = s.now := rfl
@[simp] theorem State.fs_rack (k : Nat) (f : Fld) (v : Nat) : (s.fs k f v).rack = s.rack := rfl
@[simp] theorem State.fs_boundaryNo (k : Nat) (f : Fld) (v : Nat) : (s.fs k f v).boundaryNo = s.boundaryNo := rfl
@[simp] theorem State.fs_freeCtr (k : Nat) (f : Fld) (v : Nat) : (s.fs k f v).freeCtr = s.freeCtr := rfl
@[simp] theorem State.fs_randCtr (k : Nat) (f : Fld) (v : Nat) : (s.fs k f v).randCtr = s.randCtr := rfl
@[simp] theorem State.fs_sent (k : Nat) (f : Fld) (v : Nat) : (s.fs k f v).sent = s.sent := rfl
@[simp] theorem State.fs_pending (k : Nat) (f : Fld) (v : Nat) : (s.fs k f v).pending = s.pending := rfl

@[simp] theorem State.fsat_mem (k : Nat) (f : Fld) (n : Nat) : (s.fsat k f n).mem = s.mem := rfl
@[simp] theorem State.fsat_far (k : Nat) (f : Fld) (n : Nat) : (s.fsat k f n).far = s.far := rfl
@[simp] theorem State.fsat_seq (k : Nat) (f : Fld) (n : Nat) : (s.fsat k f n).seq = s.seq := rfl
@[simp] theorem State.fsat_tiers (k : Nat) (f : Fld) (n : Nat) : (s.fsat k f n).tiers = s.tiers := rfl
@[simp] theorem State.fsat_links (k : Nat) (f : Fld) (n : Nat) : (s.fsat k f n).links = s.links := rfl
@[simp] theorem State.fsat_sp (k : Nat) (f : Fld) (n : Nat) : (s.fsat k f n).sp = s.sp := rfl
@[simp] theorem State.fsat_fj (k : Nat) (f : Fld) (n : Nat) : (s.fsat k f n).fj = s.fj := rfl
@[simp] theorem State.fsat_keys (k : Nat) (f : Fld) (n : Nat) : (s.fsat k f n).keys = s.keys := rfl
@[simp] theorem State.fsat_rind (k : Nat) (f : Fld) (n : Nat) : (s.fsat k f n).rind = s.rind := rfl
@[simp] theorem State.fsat_fw (k : Nat) (f : Fld) (n : Nat) : (s.fsat k f n).fw = s.fw := rfl
@[simp] theorem State.fsat_cle (k : Nat) (f : Fld) (n : Nat) : (s.fsat k f n).cle = s.cle := rfl
@[simp] theorem State.fsat_kpu (k : Nat) (f : Fld) (n : Nat) : (s.fsat k f n).kpu = s.kpu := rfl
@[simp] theorem State.fsat_eru (k : Nat) (f : Fld) (n : Nat) : (s.fsat k f n).eru = s.eru := rfl
@[simp] theorem State.fsat_img (k : Nat) (f : Fld) (n : Nat) : (s.fsat k f n).img = s.img := rfl
@[simp] theorem State.fsat_bud (k : Nat) (f : Fld) (n : Nat) : (s.fsat k f n).bud = s.bud := rfl
@[simp] theorem State.fsat_host (k : Nat) (f : Fld) (n : Nat) : (s.fsat k f n).host = s.host := rfl
@[simp] theorem State.fsat_pause (k : Nat) (f : Fld) (n : Nat) : (s.fsat k f n).pause = s.pause := rfl
@[simp] theorem State.fsat_fuses (k : Nat) (f : Fld) (n : Nat) : (s.fsat k f n).fuses = s.fuses := rfl
@[simp] theorem State.fsat_store (k : Nat) (f : Fld) (n : Nat) : (s.fsat k f n).store = s.store := rfl
@[simp] theorem State.fsat_pins (k : Nat) (f : Fld) (n : Nat) : (s.fsat k f n).pins = s.pins := rfl
@[simp] theorem State.fsat_mgt (k : Nat) (f : Fld) (n : Nat) : (s.fsat k f n).mgt = s.mgt := rfl
@[simp] theorem State.fsat_time (k : Nat) (f : Fld) (n : Nat) : (s.fsat k f n).time = s.time := rfl
@[simp] theorem State.fsat_power (k : Nat) (f : Fld) (n : Nat) : (s.fsat k f n).power = s.power := rfl
@[simp] theorem State.fsat_now (k : Nat) (f : Fld) (n : Nat) : (s.fsat k f n).now = s.now := rfl
@[simp] theorem State.fsat_rack (k : Nat) (f : Fld) (n : Nat) : (s.fsat k f n).rack = s.rack := rfl
@[simp] theorem State.fsat_boundaryNo (k : Nat) (f : Fld) (n : Nat) : (s.fsat k f n).boundaryNo = s.boundaryNo := rfl
@[simp] theorem State.fsat_freeCtr (k : Nat) (f : Fld) (n : Nat) : (s.fsat k f n).freeCtr = s.freeCtr := rfl
@[simp] theorem State.fsat_randCtr (k : Nat) (f : Fld) (n : Nat) : (s.fsat k f n).randCtr = s.randCtr := rfl
@[simp] theorem State.fsat_sent (k : Nat) (f : Fld) (n : Nat) : (s.fsat k f n).sent = s.sent := rfl
@[simp] theorem State.fsat_pending (k : Nat) (f : Fld) (n : Nat) : (s.fsat k f n).pending = s.pending := rfl

@[simp] theorem State.count_mem (k : Nat) : (s.count k).mem = s.mem := rfl
@[simp] theorem State.count_far (k : Nat) : (s.count k).far = s.far := rfl
@[simp] theorem State.count_seq (k : Nat) : (s.count k).seq = s.seq := rfl
@[simp] theorem State.count_tiers (k : Nat) : (s.count k).tiers = s.tiers := rfl
@[simp] theorem State.count_links (k : Nat) : (s.count k).links = s.links := rfl
@[simp] theorem State.count_sp (k : Nat) : (s.count k).sp = s.sp := rfl
@[simp] theorem State.count_fj (k : Nat) : (s.count k).fj = s.fj := rfl
@[simp] theorem State.count_keys (k : Nat) : (s.count k).keys = s.keys := rfl
@[simp] theorem State.count_rind (k : Nat) : (s.count k).rind = s.rind := rfl
@[simp] theorem State.count_fw (k : Nat) : (s.count k).fw = s.fw := rfl
@[simp] theorem State.count_cle (k : Nat) : (s.count k).cle = s.cle := rfl
@[simp] theorem State.count_kpu (k : Nat) : (s.count k).kpu = s.kpu := rfl
@[simp] theorem State.count_eru (k : Nat) : (s.count k).eru = s.eru := rfl
@[simp] theorem State.count_img (k : Nat) : (s.count k).img = s.img := rfl
@[simp] theorem State.count_bud (k : Nat) : (s.count k).bud = s.bud := rfl
@[simp] theorem State.count_host (k : Nat) : (s.count k).host = s.host := rfl
@[simp] theorem State.count_pause (k : Nat) : (s.count k).pause = s.pause := rfl
@[simp] theorem State.count_fuses (k : Nat) : (s.count k).fuses = s.fuses := rfl
@[simp] theorem State.count_store (k : Nat) : (s.count k).store = s.store := rfl
@[simp] theorem State.count_pins (k : Nat) : (s.count k).pins = s.pins := rfl
@[simp] theorem State.count_mgt (k : Nat) : (s.count k).mgt = s.mgt := rfl
@[simp] theorem State.count_time (k : Nat) : (s.count k).time = s.time := rfl
@[simp] theorem State.count_power (k : Nat) : (s.count k).power = s.power := rfl
@[simp] theorem State.count_now (k : Nat) : (s.count k).now = s.now := rfl
@[simp] theorem State.count_rack (k : Nat) : (s.count k).rack = s.rack := rfl
@[simp] theorem State.count_boundaryNo (k : Nat) : (s.count k).boundaryNo = s.boundaryNo := rfl
@[simp] theorem State.count_freeCtr (k : Nat) : (s.count k).freeCtr = s.freeCtr := rfl
@[simp] theorem State.count_randCtr (k : Nat) : (s.count k).randCtr = s.randCtr := rfl
@[simp] theorem State.count_sent (k : Nat) : (s.count k).sent = s.sent := rfl
@[simp] theorem State.count_pending (k : Nat) : (s.count k).pending = s.pending := rfl

@[simp] theorem State.countN_mem (k n : Nat) : (s.countN k n).mem = s.mem := rfl
@[simp] theorem State.countN_far (k n : Nat) : (s.countN k n).far = s.far := rfl
@[simp] theorem State.countN_seq (k n : Nat) : (s.countN k n).seq = s.seq := rfl
@[simp] theorem State.countN_tiers (k n : Nat) : (s.countN k n).tiers = s.tiers := rfl
@[simp] theorem State.countN_links (k n : Nat) : (s.countN k n).links = s.links := rfl
@[simp] theorem State.countN_sp (k n : Nat) : (s.countN k n).sp = s.sp := rfl
@[simp] theorem State.countN_fj (k n : Nat) : (s.countN k n).fj = s.fj := rfl
@[simp] theorem State.countN_keys (k n : Nat) : (s.countN k n).keys = s.keys := rfl
@[simp] theorem State.countN_rind (k n : Nat) : (s.countN k n).rind = s.rind := rfl
@[simp] theorem State.countN_fw (k n : Nat) : (s.countN k n).fw = s.fw := rfl
@[simp] theorem State.countN_cle (k n : Nat) : (s.countN k n).cle = s.cle := rfl
@[simp] theorem State.countN_kpu (k n : Nat) : (s.countN k n).kpu = s.kpu := rfl
@[simp] theorem State.countN_eru (k n : Nat) : (s.countN k n).eru = s.eru := rfl
@[simp] theorem State.countN_img (k n : Nat) : (s.countN k n).img = s.img := rfl
@[simp] theorem State.countN_bud (k n : Nat) : (s.countN k n).bud = s.bud := rfl
@[simp] theorem State.countN_host (k n : Nat) : (s.countN k n).host = s.host := rfl
@[simp] theorem State.countN_pause (k n : Nat) : (s.countN k n).pause = s.pause := rfl
@[simp] theorem State.countN_fuses (k n : Nat) : (s.countN k n).fuses = s.fuses := rfl
@[simp] theorem State.countN_store (k n : Nat) : (s.countN k n).store = s.store := rfl
@[simp] theorem State.countN_pins (k n : Nat) : (s.countN k n).pins = s.pins := rfl
@[simp] theorem State.countN_mgt (k n : Nat) : (s.countN k n).mgt = s.mgt := rfl
@[simp] theorem State.countN_time (k n : Nat) : (s.countN k n).time = s.time := rfl
@[simp] theorem State.countN_power (k n : Nat) : (s.countN k n).power = s.power := rfl
@[simp] theorem State.countN_now (k n : Nat) : (s.countN k n).now = s.now := rfl
@[simp] theorem State.countN_rack (k n : Nat) : (s.countN k n).rack = s.rack := rfl
@[simp] theorem State.countN_boundaryNo (k n : Nat) : (s.countN k n).boundaryNo = s.boundaryNo := rfl
@[simp] theorem State.countN_freeCtr (k n : Nat) : (s.countN k n).freeCtr = s.freeCtr := rfl
@[simp] theorem State.countN_randCtr (k n : Nat) : (s.countN k n).randCtr = s.randCtr := rfl
@[simp] theorem State.countN_sent (k n : Nat) : (s.countN k n).sent = s.sent := rfl
@[simp] theorem State.countN_pending (k n : Nat) : (s.countN k n).pending = s.pending := rfl

@[simp] theorem State.raise_mem (k : Nat) (f : Fld) : (s.raise k f).mem = s.mem := rfl
@[simp] theorem State.raise_far (k : Nat) (f : Fld) : (s.raise k f).far = s.far := rfl
@[simp] theorem State.raise_seq (k : Nat) (f : Fld) : (s.raise k f).seq = s.seq := rfl
@[simp] theorem State.raise_tiers (k : Nat) (f : Fld) : (s.raise k f).tiers = s.tiers := rfl
@[simp] theorem State.raise_links (k : Nat) (f : Fld) : (s.raise k f).links = s.links := rfl
@[simp] theorem State.raise_sp (k : Nat) (f : Fld) : (s.raise k f).sp = s.sp := rfl
@[simp] theorem State.raise_fj (k : Nat) (f : Fld) : (s.raise k f).fj = s.fj := rfl
@[simp] theorem State.raise_keys (k : Nat) (f : Fld) : (s.raise k f).keys = s.keys := rfl
@[simp] theorem State.raise_rind (k : Nat) (f : Fld) : (s.raise k f).rind = s.rind := rfl
@[simp] theorem State.raise_fw (k : Nat) (f : Fld) : (s.raise k f).fw = s.fw := rfl
@[simp] theorem State.raise_cle (k : Nat) (f : Fld) : (s.raise k f).cle = s.cle := rfl
@[simp] theorem State.raise_kpu (k : Nat) (f : Fld) : (s.raise k f).kpu = s.kpu := rfl
@[simp] theorem State.raise_eru (k : Nat) (f : Fld) : (s.raise k f).eru = s.eru := rfl
@[simp] theorem State.raise_img (k : Nat) (f : Fld) : (s.raise k f).img = s.img := rfl
@[simp] theorem State.raise_bud (k : Nat) (f : Fld) : (s.raise k f).bud = s.bud := rfl
@[simp] theorem State.raise_host (k : Nat) (f : Fld) : (s.raise k f).host = s.host := rfl
@[simp] theorem State.raise_pause (k : Nat) (f : Fld) : (s.raise k f).pause = s.pause := rfl
@[simp] theorem State.raise_fuses (k : Nat) (f : Fld) : (s.raise k f).fuses = s.fuses := rfl
@[simp] theorem State.raise_store (k : Nat) (f : Fld) : (s.raise k f).store = s.store := rfl
@[simp] theorem State.raise_pins (k : Nat) (f : Fld) : (s.raise k f).pins = s.pins := rfl
@[simp] theorem State.raise_mgt (k : Nat) (f : Fld) : (s.raise k f).mgt = s.mgt := rfl
@[simp] theorem State.raise_time (k : Nat) (f : Fld) : (s.raise k f).time = s.time := rfl
@[simp] theorem State.raise_power (k : Nat) (f : Fld) : (s.raise k f).power = s.power := rfl
@[simp] theorem State.raise_now (k : Nat) (f : Fld) : (s.raise k f).now = s.now := rfl
@[simp] theorem State.raise_rack (k : Nat) (f : Fld) : (s.raise k f).rack = s.rack := rfl
@[simp] theorem State.raise_boundaryNo (k : Nat) (f : Fld) : (s.raise k f).boundaryNo = s.boundaryNo := rfl
@[simp] theorem State.raise_freeCtr (k : Nat) (f : Fld) : (s.raise k f).freeCtr = s.freeCtr := rfl
@[simp] theorem State.raise_randCtr (k : Nat) (f : Fld) : (s.raise k f).randCtr = s.randCtr := rfl
@[simp] theorem State.raise_sent (k : Nat) (f : Fld) : (s.raise k f).sent = s.sent := rfl
@[simp] theorem State.raise_pending (k : Nat) (f : Fld) : (s.raise k f).pending = s.pending := rfl

@[simp] theorem State.resetReg_regs (k : Nat) : (s.resetReg k).regs = tdel s.regs k := rfl
@[simp] theorem State.resetReg_mem (k : Nat) : (s.resetReg k).mem = s.mem := rfl
@[simp] theorem State.resetReg_far (k : Nat) : (s.resetReg k).far = s.far := rfl
@[simp] theorem State.resetReg_seq (k : Nat) : (s.resetReg k).seq = s.seq := rfl
@[simp] theorem State.resetReg_tiers (k : Nat) : (s.resetReg k).tiers = s.tiers := rfl
@[simp] theorem State.resetReg_links (k : Nat) : (s.resetReg k).links = s.links := rfl
@[simp] theorem State.resetReg_sp (k : Nat) : (s.resetReg k).sp = s.sp := rfl
@[simp] theorem State.resetReg_fj (k : Nat) : (s.resetReg k).fj = s.fj := rfl
@[simp] theorem State.resetReg_keys (k : Nat) : (s.resetReg k).keys = s.keys := rfl
@[simp] theorem State.resetReg_rind (k : Nat) : (s.resetReg k).rind = s.rind := rfl
@[simp] theorem State.resetReg_fw (k : Nat) : (s.resetReg k).fw = s.fw := rfl
@[simp] theorem State.resetReg_cle (k : Nat) : (s.resetReg k).cle = s.cle := rfl
@[simp] theorem State.resetReg_kpu (k : Nat) : (s.resetReg k).kpu = s.kpu := rfl
@[simp] theorem State.resetReg_eru (k : Nat) : (s.resetReg k).eru = s.eru := rfl
@[simp] theorem State.resetReg_img (k : Nat) : (s.resetReg k).img = s.img := rfl
@[simp] theorem State.resetReg_bud (k : Nat) : (s.resetReg k).bud = s.bud := rfl
@[simp] theorem State.resetReg_host (k : Nat) : (s.resetReg k).host = s.host := rfl
@[simp] theorem State.resetReg_pause (k : Nat) : (s.resetReg k).pause = s.pause := rfl
@[simp] theorem State.resetReg_fuses (k : Nat) : (s.resetReg k).fuses = s.fuses := rfl
@[simp] theorem State.resetReg_store (k : Nat) : (s.resetReg k).store = s.store := rfl
@[simp] theorem State.resetReg_pins (k : Nat) : (s.resetReg k).pins = s.pins := rfl
@[simp] theorem State.resetReg_mgt (k : Nat) : (s.resetReg k).mgt = s.mgt := rfl
@[simp] theorem State.resetReg_time (k : Nat) : (s.resetReg k).time = s.time := rfl
@[simp] theorem State.resetReg_power (k : Nat) : (s.resetReg k).power = s.power := rfl
@[simp] theorem State.resetReg_now (k : Nat) : (s.resetReg k).now = s.now := rfl
@[simp] theorem State.resetReg_rack (k : Nat) : (s.resetReg k).rack = s.rack := rfl
@[simp] theorem State.resetReg_boundaryNo (k : Nat) : (s.resetReg k).boundaryNo = s.boundaryNo := rfl
@[simp] theorem State.resetReg_freeCtr (k : Nat) : (s.resetReg k).freeCtr = s.freeCtr := rfl
@[simp] theorem State.resetReg_randCtr (k : Nat) : (s.resetReg k).randCtr = s.randCtr := rfl
@[simp] theorem State.resetReg_sent (k : Nat) : (s.resetReg k).sent = s.sent := rfl
@[simp] theorem State.resetReg_pending (k : Nat) : (s.resetReg k).pending = s.pending := rfl

@[simp] theorem State.setCtx_mem (x st : Nat) : (s.setCtx x st).mem = s.mem := rfl
@[simp] theorem State.setCtx_far (x st : Nat) : (s.setCtx x st).far = s.far := rfl
@[simp] theorem State.setCtx_seq (x st : Nat) : (s.setCtx x st).seq = s.seq := rfl
@[simp] theorem State.setCtx_tiers (x st : Nat) : (s.setCtx x st).tiers = s.tiers := rfl
@[simp] theorem State.setCtx_links (x st : Nat) : (s.setCtx x st).links = s.links := rfl
@[simp] theorem State.setCtx_sp (x st : Nat) : (s.setCtx x st).sp = s.sp := rfl
@[simp] theorem State.setCtx_fj (x st : Nat) : (s.setCtx x st).fj = s.fj := rfl
@[simp] theorem State.setCtx_keys (x st : Nat) : (s.setCtx x st).keys = s.keys := rfl
@[simp] theorem State.setCtx_rind (x st : Nat) : (s.setCtx x st).rind = s.rind := rfl
@[simp] theorem State.setCtx_fw (x st : Nat) : (s.setCtx x st).fw = s.fw := rfl
@[simp] theorem State.setCtx_cle (x st : Nat) : (s.setCtx x st).cle = s.cle := rfl
@[simp] theorem State.setCtx_kpu (x st : Nat) : (s.setCtx x st).kpu = s.kpu := rfl
@[simp] theorem State.setCtx_eru (x st : Nat) : (s.setCtx x st).eru = s.eru := rfl
@[simp] theorem State.setCtx_img (x st : Nat) : (s.setCtx x st).img = s.img := rfl
@[simp] theorem State.setCtx_bud (x st : Nat) : (s.setCtx x st).bud = s.bud := rfl
@[simp] theorem State.setCtx_host (x st : Nat) : (s.setCtx x st).host = s.host := rfl
@[simp] theorem State.setCtx_pause (x st : Nat) : (s.setCtx x st).pause = s.pause := rfl
@[simp] theorem State.setCtx_fuses (x st : Nat) : (s.setCtx x st).fuses = s.fuses := rfl
@[simp] theorem State.setCtx_store (x st : Nat) : (s.setCtx x st).store = s.store := rfl
@[simp] theorem State.setCtx_pins (x st : Nat) : (s.setCtx x st).pins = s.pins := rfl
@[simp] theorem State.setCtx_mgt (x st : Nat) : (s.setCtx x st).mgt = s.mgt := rfl
@[simp] theorem State.setCtx_time (x st : Nat) : (s.setCtx x st).time = s.time := rfl
@[simp] theorem State.setCtx_power (x st : Nat) : (s.setCtx x st).power = s.power := rfl
@[simp] theorem State.setCtx_now (x st : Nat) : (s.setCtx x st).now = s.now := rfl
@[simp] theorem State.setCtx_rack (x st : Nat) : (s.setCtx x st).rack = s.rack := rfl
@[simp] theorem State.setCtx_boundaryNo (x st : Nat) : (s.setCtx x st).boundaryNo = s.boundaryNo := rfl
@[simp] theorem State.setCtx_freeCtr (x st : Nat) : (s.setCtx x st).freeCtr = s.freeCtr := rfl
@[simp] theorem State.setCtx_randCtr (x st : Nat) : (s.setCtx x st).randCtr = s.randCtr := rfl
@[simp] theorem State.setCtx_sent (x st : Nat) : (s.setCtx x st).sent = s.sent := rfl
@[simp] theorem State.setCtx_pending (x st : Nat) : (s.setCtx x st).pending = s.pending := rfl

@[simp] theorem State.emit_regs (m : OutMsg) : (s.emit m).regs = s.regs := rfl
@[simp] theorem State.emit_mem (m : OutMsg) : (s.emit m).mem = s.mem := rfl
@[simp] theorem State.emit_far (m : OutMsg) : (s.emit m).far = s.far := rfl
@[simp] theorem State.emit_seq (m : OutMsg) : (s.emit m).seq = s.seq := rfl
@[simp] theorem State.emit_tiers (m : OutMsg) : (s.emit m).tiers = s.tiers := rfl
@[simp] theorem State.emit_links (m : OutMsg) : (s.emit m).links = s.links := rfl
@[simp] theorem State.emit_sp (m : OutMsg) : (s.emit m).sp = s.sp := rfl
@[simp] theorem State.emit_fj (m : OutMsg) : (s.emit m).fj = s.fj := rfl
@[simp] theorem State.emit_keys (m : OutMsg) : (s.emit m).keys = s.keys := rfl
@[simp] theorem State.emit_rind (m : OutMsg) : (s.emit m).rind = s.rind := rfl
@[simp] theorem State.emit_fw (m : OutMsg) : (s.emit m).fw = s.fw := rfl
@[simp] theorem State.emit_cle (m : OutMsg) : (s.emit m).cle = s.cle := rfl
@[simp] theorem State.emit_kpu (m : OutMsg) : (s.emit m).kpu = s.kpu := rfl
@[simp] theorem State.emit_eru (m : OutMsg) : (s.emit m).eru = s.eru := rfl
@[simp] theorem State.emit_img (m : OutMsg) : (s.emit m).img = s.img := rfl
@[simp] theorem State.emit_bud (m : OutMsg) : (s.emit m).bud = s.bud := rfl
@[simp] theorem State.emit_host (m : OutMsg) : (s.emit m).host = s.host := rfl
@[simp] theorem State.emit_pause (m : OutMsg) : (s.emit m).pause = s.pause := rfl
@[simp] theorem State.emit_fuses (m : OutMsg) : (s.emit m).fuses = s.fuses := rfl
@[simp] theorem State.emit_store (m : OutMsg) : (s.emit m).store = s.store := rfl
@[simp] theorem State.emit_pins (m : OutMsg) : (s.emit m).pins = s.pins := rfl
@[simp] theorem State.emit_mgt (m : OutMsg) : (s.emit m).mgt = s.mgt := rfl
@[simp] theorem State.emit_time (m : OutMsg) : (s.emit m).time = s.time := rfl
@[simp] theorem State.emit_power (m : OutMsg) : (s.emit m).power = s.power := rfl
@[simp] theorem State.emit_now (m : OutMsg) : (s.emit m).now = s.now := rfl
@[simp] theorem State.emit_rack (m : OutMsg) : (s.emit m).rack = s.rack := rfl
@[simp] theorem State.emit_boundaryNo (m : OutMsg) : (s.emit m).boundaryNo = s.boundaryNo := rfl
@[simp] theorem State.emit_freeCtr (m : OutMsg) : (s.emit m).freeCtr = s.freeCtr := rfl
@[simp] theorem State.emit_randCtr (m : OutMsg) : (s.emit m).randCtr = s.randCtr := rfl
@[simp] theorem State.emit_sent (m : OutMsg) : (s.emit m).sent = s.sent ++ [m] := rfl
@[simp] theorem State.emit_pending (m : OutMsg) : (s.emit m).pending = s.pending := rfl

@[simp] theorem State.withPending_regs (q : List Instr) : (s.withPending q).regs = s.regs := rfl
@[simp] theorem State.withPending_mem (q : List Instr) : (s.withPending q).mem = s.mem := rfl
@[simp] theorem State.withPending_far (q : List Instr) : (s.withPending q).far = s.far := rfl
@[simp] theorem State.withPending_seq (q : List Instr) : (s.withPending q).seq = s.seq := rfl
@[simp] theorem State.withPending_tiers (q : List Instr) : (s.withPending q).tiers = s.tiers := rfl
@[simp] theorem State.withPending_links (q : List Instr) : (s.withPending q).links = s.links := rfl
@[simp] theorem State.withPending_sp (q : List Instr) : (s.withPending q).sp = s.sp := rfl
@[simp] theorem State.withPending_fj (q : List Instr) : (s.withPending q).fj = s.fj := rfl
@[simp] theorem State.withPending_keys (q : List Instr) : (s.withPending q).keys = s.keys := rfl
@[simp] theorem State.withPending_rind (q : List Instr) : (s.withPending q).rind = s.rind := rfl
@[simp] theorem State.withPending_fw (q : List Instr) : (s.withPending q).fw = s.fw := rfl
@[simp] theorem State.withPending_cle (q : List Instr) : (s.withPending q).cle = s.cle := rfl
@[simp] theorem State.withPending_kpu (q : List Instr) : (s.withPending q).kpu = s.kpu := rfl
@[simp] theorem State.withPending_eru (q : List Instr) : (s.withPending q).eru = s.eru := rfl
@[simp] theorem State.withPending_img (q : List Instr) : (s.withPending q).img = s.img := rfl
@[simp] theorem State.withPending_bud (q : List Instr) : (s.withPending q).bud = s.bud := rfl
@[simp] theorem State.withPending_host (q : List Instr) : (s.withPending q).host = s.host := rfl
@[simp] theorem State.withPending_pause (q : List Instr) : (s.withPending q).pause = s.pause := rfl
@[simp] theorem State.withPending_fuses (q : List Instr) : (s.withPending q).fuses = s.fuses := rfl
@[simp] theorem State.withPending_store (q : List Instr) : (s.withPending q).store = s.store := rfl
@[simp] theorem State.withPending_pins (q : List Instr) : (s.withPending q).pins = s.pins := rfl
@[simp] theorem State.withPending_mgt (q : List Instr) : (s.withPending q).mgt = s.mgt := rfl
@[simp] theorem State.withPending_time (q : List Instr) : (s.withPending q).time = s.time := rfl
@[simp] theorem State.withPending_power (q : List Instr) : (s.withPending q).power = s.power := rfl
@[simp] theorem State.withPending_now (q : List Instr) : (s.withPending q).now = s.now := rfl
@[simp] theorem State.withPending_rack (q : List Instr) : (s.withPending q).rack = s.rack := rfl
@[simp] theorem State.withPending_boundaryNo (q : List Instr) : (s.withPending q).boundaryNo = s.boundaryNo := rfl
@[simp] theorem State.withPending_freeCtr (q : List Instr) : (s.withPending q).freeCtr = s.freeCtr := rfl
@[simp] theorem State.withPending_randCtr (q : List Instr) : (s.withPending q).randCtr = s.randCtr := rfl
@[simp] theorem State.withPending_sent (q : List Instr) : (s.withPending q).sent = s.sent := rfl
@[simp] theorem State.withPending_pending (q : List Instr) : (s.withPending q).pending = q := rfl

@[simp] theorem State.eccMark_regs (w v : Nat) : (s.eccMark w v).regs = s.regs := rfl
@[simp] theorem State.eccMark_mem (w v : Nat) : (s.eccMark w v).mem = s.mem := rfl
@[simp] theorem State.eccMark_far (w v : Nat) : (s.eccMark w v).far = s.far := rfl
@[simp] theorem State.eccMark_seq (w v : Nat) : (s.eccMark w v).seq = s.seq := rfl
@[simp] theorem State.eccMark_links (w v : Nat) : (s.eccMark w v).links = s.links := rfl
@[simp] theorem State.eccMark_sp (w v : Nat) : (s.eccMark w v).sp = s.sp := rfl
@[simp] theorem State.eccMark_fj (w v : Nat) : (s.eccMark w v).fj = s.fj := rfl
@[simp] theorem State.eccMark_keys (w v : Nat) : (s.eccMark w v).keys = s.keys := rfl
@[simp] theorem State.eccMark_rind (w v : Nat) : (s.eccMark w v).rind = s.rind := rfl
@[simp] theorem State.eccMark_fw (w v : Nat) : (s.eccMark w v).fw = s.fw := rfl
@[simp] theorem State.eccMark_cle (w v : Nat) : (s.eccMark w v).cle = s.cle := rfl
@[simp] theorem State.eccMark_kpu (w v : Nat) : (s.eccMark w v).kpu = s.kpu := rfl
@[simp] theorem State.eccMark_eru (w v : Nat) : (s.eccMark w v).eru = s.eru := rfl
@[simp] theorem State.eccMark_img (w v : Nat) : (s.eccMark w v).img = s.img := rfl
@[simp] theorem State.eccMark_bud (w v : Nat) : (s.eccMark w v).bud = s.bud := rfl
@[simp] theorem State.eccMark_host (w v : Nat) : (s.eccMark w v).host = s.host := rfl
@[simp] theorem State.eccMark_pause (w v : Nat) : (s.eccMark w v).pause = s.pause := rfl
@[simp] theorem State.eccMark_fuses (w v : Nat) : (s.eccMark w v).fuses = s.fuses := rfl
@[simp] theorem State.eccMark_store (w v : Nat) : (s.eccMark w v).store = s.store := rfl
@[simp] theorem State.eccMark_pins (w v : Nat) : (s.eccMark w v).pins = s.pins := rfl
@[simp] theorem State.eccMark_mgt (w v : Nat) : (s.eccMark w v).mgt = s.mgt := rfl
@[simp] theorem State.eccMark_time (w v : Nat) : (s.eccMark w v).time = s.time := rfl
@[simp] theorem State.eccMark_power (w v : Nat) : (s.eccMark w v).power = s.power := rfl
@[simp] theorem State.eccMark_now (w v : Nat) : (s.eccMark w v).now = s.now := rfl
@[simp] theorem State.eccMark_rack (w v : Nat) : (s.eccMark w v).rack = s.rack := rfl
@[simp] theorem State.eccMark_boundaryNo (w v : Nat) : (s.eccMark w v).boundaryNo = s.boundaryNo := rfl
@[simp] theorem State.eccMark_freeCtr (w v : Nat) : (s.eccMark w v).freeCtr = s.freeCtr := rfl
@[simp] theorem State.eccMark_randCtr (w v : Nat) : (s.eccMark w v).randCtr = s.randCtr := rfl
@[simp] theorem State.eccMark_sent (w v : Nat) : (s.eccMark w v).sent = s.sent := rfl
@[simp] theorem State.eccMark_pending (w v : Nat) : (s.eccMark w v).pending = s.pending := rfl

@[simp] theorem State.modCtx_regs (x : Nat) (f : CtxSt → CtxSt) : (s.modCtx x f).regs = s.regs := rfl
@[simp] theorem State.modCtx_mem (x : Nat) (f : CtxSt → CtxSt) : (s.modCtx x f).mem = s.mem := rfl
@[simp] theorem State.modCtx_far (x : Nat) (f : CtxSt → CtxSt) : (s.modCtx x f).far = s.far := rfl
@[simp] theorem State.modCtx_tiers (x : Nat) (f : CtxSt → CtxSt) : (s.modCtx x f).tiers = s.tiers := rfl
@[simp] theorem State.modCtx_links (x : Nat) (f : CtxSt → CtxSt) : (s.modCtx x f).links = s.links := rfl
@[simp] theorem State.modCtx_sp (x : Nat) (f : CtxSt → CtxSt) : (s.modCtx x f).sp = s.sp := rfl
@[simp] theorem State.modCtx_fj (x : Nat) (f : CtxSt → CtxSt) : (s.modCtx x f).fj = s.fj := rfl
@[simp] theorem State.modCtx_keys (x : Nat) (f : CtxSt → CtxSt) : (s.modCtx x f).keys = s.keys := rfl
@[simp] theorem State.modCtx_rind (x : Nat) (f : CtxSt → CtxSt) : (s.modCtx x f).rind = s.rind := rfl
@[simp] theorem State.modCtx_fw (x : Nat) (f : CtxSt → CtxSt) : (s.modCtx x f).fw = s.fw := rfl
@[simp] theorem State.modCtx_cle (x : Nat) (f : CtxSt → CtxSt) : (s.modCtx x f).cle = s.cle := rfl
@[simp] theorem State.modCtx_kpu (x : Nat) (f : CtxSt → CtxSt) : (s.modCtx x f).kpu = s.kpu := rfl
@[simp] theorem State.modCtx_eru (x : Nat) (f : CtxSt → CtxSt) : (s.modCtx x f).eru = s.eru := rfl
@[simp] theorem State.modCtx_img (x : Nat) (f : CtxSt → CtxSt) : (s.modCtx x f).img = s.img := rfl
@[simp] theorem State.modCtx_bud (x : Nat) (f : CtxSt → CtxSt) : (s.modCtx x f).bud = s.bud := rfl
@[simp] theorem State.modCtx_host (x : Nat) (f : CtxSt → CtxSt) : (s.modCtx x f).host = s.host := rfl
@[simp] theorem State.modCtx_pause (x : Nat) (f : CtxSt → CtxSt) : (s.modCtx x f).pause = s.pause := rfl
@[simp] theorem State.modCtx_fuses (x : Nat) (f : CtxSt → CtxSt) : (s.modCtx x f).fuses = s.fuses := rfl
@[simp] theorem State.modCtx_store (x : Nat) (f : CtxSt → CtxSt) : (s.modCtx x f).store = s.store := rfl
@[simp] theorem State.modCtx_pins (x : Nat) (f : CtxSt → CtxSt) : (s.modCtx x f).pins = s.pins := rfl
@[simp] theorem State.modCtx_mgt (x : Nat) (f : CtxSt → CtxSt) : (s.modCtx x f).mgt = s.mgt := rfl
@[simp] theorem State.modCtx_time (x : Nat) (f : CtxSt → CtxSt) : (s.modCtx x f).time = s.time := rfl
@[simp] theorem State.modCtx_power (x : Nat) (f : CtxSt → CtxSt) : (s.modCtx x f).power = s.power := rfl
@[simp] theorem State.modCtx_now (x : Nat) (f : CtxSt → CtxSt) : (s.modCtx x f).now = s.now := rfl
@[simp] theorem State.modCtx_rack (x : Nat) (f : CtxSt → CtxSt) : (s.modCtx x f).rack = s.rack := rfl
@[simp] theorem State.modCtx_boundaryNo (x : Nat) (f : CtxSt → CtxSt) : (s.modCtx x f).boundaryNo = s.boundaryNo := rfl
@[simp] theorem State.modCtx_freeCtr (x : Nat) (f : CtxSt → CtxSt) : (s.modCtx x f).freeCtr = s.freeCtr := rfl
@[simp] theorem State.modCtx_randCtr (x : Nat) (f : CtxSt → CtxSt) : (s.modCtx x f).randCtr = s.randCtr := rfl
@[simp] theorem State.modCtx_sent (x : Nat) (f : CtxSt → CtxSt) : (s.modCtx x f).sent = s.sent := rfl
@[simp] theorem State.modCtx_pending (x : Nat) (f : CtxSt → CtxSt) : (s.modCtx x f).pending = s.pending := rfl

@[simp] theorem State.setQueue_regs (core u : Nat) (q : List QIns) : (s.setQueue core u q).regs = s.regs := rfl
@[simp] theorem State.setQueue_mem (core u : Nat) (q : List QIns) : (s.setQueue core u q).mem = s.mem := rfl
@[simp] theorem State.setQueue_far (core u : Nat) (q : List QIns) : (s.setQueue core u q).far = s.far := rfl
@[simp] theorem State.setQueue_tiers (core u : Nat) (q : List QIns) : (s.setQueue core u q).tiers = s.tiers := rfl
@[simp] theorem State.setQueue_links (core u : Nat) (q : List QIns) : (s.setQueue core u q).links = s.links := rfl
@[simp] theorem State.setQueue_sp (core u : Nat) (q : List QIns) : (s.setQueue core u q).sp = s.sp := rfl
@[simp] theorem State.setQueue_fj (core u : Nat) (q : List QIns) : (s.setQueue core u q).fj = s.fj := rfl
@[simp] theorem State.setQueue_keys (core u : Nat) (q : List QIns) : (s.setQueue core u q).keys = s.keys := rfl
@[simp] theorem State.setQueue_rind (core u : Nat) (q : List QIns) : (s.setQueue core u q).rind = s.rind := rfl
@[simp] theorem State.setQueue_fw (core u : Nat) (q : List QIns) : (s.setQueue core u q).fw = s.fw := rfl
@[simp] theorem State.setQueue_cle (core u : Nat) (q : List QIns) : (s.setQueue core u q).cle = s.cle := rfl
@[simp] theorem State.setQueue_kpu (core u : Nat) (q : List QIns) : (s.setQueue core u q).kpu = s.kpu := rfl
@[simp] theorem State.setQueue_eru (core u : Nat) (q : List QIns) : (s.setQueue core u q).eru = s.eru := rfl
@[simp] theorem State.setQueue_img (core u : Nat) (q : List QIns) : (s.setQueue core u q).img = s.img := rfl
@[simp] theorem State.setQueue_bud (core u : Nat) (q : List QIns) : (s.setQueue core u q).bud = s.bud := rfl
@[simp] theorem State.setQueue_host (core u : Nat) (q : List QIns) : (s.setQueue core u q).host = s.host := rfl
@[simp] theorem State.setQueue_pause (core u : Nat) (q : List QIns) : (s.setQueue core u q).pause = s.pause := rfl
@[simp] theorem State.setQueue_fuses (core u : Nat) (q : List QIns) : (s.setQueue core u q).fuses = s.fuses := rfl
@[simp] theorem State.setQueue_store (core u : Nat) (q : List QIns) : (s.setQueue core u q).store = s.store := rfl
@[simp] theorem State.setQueue_pins (core u : Nat) (q : List QIns) : (s.setQueue core u q).pins = s.pins := rfl
@[simp] theorem State.setQueue_mgt (core u : Nat) (q : List QIns) : (s.setQueue core u q).mgt = s.mgt := rfl
@[simp] theorem State.setQueue_time (core u : Nat) (q : List QIns) : (s.setQueue core u q).time = s.time := rfl
@[simp] theorem State.setQueue_power (core u : Nat) (q : List QIns) : (s.setQueue core u q).power = s.power := rfl
@[simp] theorem State.setQueue_now (core u : Nat) (q : List QIns) : (s.setQueue core u q).now = s.now := rfl
@[simp] theorem State.setQueue_rack (core u : Nat) (q : List QIns) : (s.setQueue core u q).rack = s.rack := rfl
@[simp] theorem State.setQueue_boundaryNo (core u : Nat) (q : List QIns) : (s.setQueue core u q).boundaryNo = s.boundaryNo := rfl
@[simp] theorem State.setQueue_freeCtr (core u : Nat) (q : List QIns) : (s.setQueue core u q).freeCtr = s.freeCtr := rfl
@[simp] theorem State.setQueue_randCtr (core u : Nat) (q : List QIns) : (s.setQueue core u q).randCtr = s.randCtr := rfl
@[simp] theorem State.setQueue_sent (core u : Nat) (q : List QIns) : (s.setQueue core u q).sent = s.sent := rfl
@[simp] theorem State.setQueue_pending (core u : Nat) (q : List QIns) : (s.setQueue core u q).pending = s.pending := rfl

@[simp] theorem State.setRunning_regs (core u : Nat) (q : Option QIns) : (s.setRunning core u q).regs = s.regs := rfl
@[simp] theorem State.setRunning_mem (core u : Nat) (q : Option QIns) : (s.setRunning core u q).mem = s.mem := rfl
@[simp] theorem State.setRunning_far (core u : Nat) (q : Option QIns) : (s.setRunning core u q).far = s.far := rfl
@[simp] theorem State.setRunning_tiers (core u : Nat) (q : Option QIns) : (s.setRunning core u q).tiers = s.tiers := rfl
@[simp] theorem State.setRunning_links (core u : Nat) (q : Option QIns) : (s.setRunning core u q).links = s.links := rfl
@[simp] theorem State.setRunning_sp (core u : Nat) (q : Option QIns) : (s.setRunning core u q).sp = s.sp := rfl
@[simp] theorem State.setRunning_fj (core u : Nat) (q : Option QIns) : (s.setRunning core u q).fj = s.fj := rfl
@[simp] theorem State.setRunning_keys (core u : Nat) (q : Option QIns) : (s.setRunning core u q).keys = s.keys := rfl
@[simp] theorem State.setRunning_rind (core u : Nat) (q : Option QIns) : (s.setRunning core u q).rind = s.rind := rfl
@[simp] theorem State.setRunning_fw (core u : Nat) (q : Option QIns) : (s.setRunning core u q).fw = s.fw := rfl
@[simp] theorem State.setRunning_cle (core u : Nat) (q : Option QIns) : (s.setRunning core u q).cle = s.cle := rfl
@[simp] theorem State.setRunning_kpu (core u : Nat) (q : Option QIns) : (s.setRunning core u q).kpu = s.kpu := rfl
@[simp] theorem State.setRunning_eru (core u : Nat) (q : Option QIns) : (s.setRunning core u q).eru = s.eru := rfl
@[simp] theorem State.setRunning_img (core u : Nat) (q : Option QIns) : (s.setRunning core u q).img = s.img := rfl
@[simp] theorem State.setRunning_bud (core u : Nat) (q : Option QIns) : (s.setRunning core u q).bud = s.bud := rfl
@[simp] theorem State.setRunning_host (core u : Nat) (q : Option QIns) : (s.setRunning core u q).host = s.host := rfl
@[simp] theorem State.setRunning_pause (core u : Nat) (q : Option QIns) : (s.setRunning core u q).pause = s.pause := rfl
@[simp] theorem State.setRunning_fuses (core u : Nat) (q : Option QIns) : (s.setRunning core u q).fuses = s.fuses := rfl
@[simp] theorem State.setRunning_store (core u : Nat) (q : Option QIns) : (s.setRunning core u q).store = s.store := rfl
@[simp] theorem State.setRunning_pins (core u : Nat) (q : Option QIns) : (s.setRunning core u q).pins = s.pins := rfl
@[simp] theorem State.setRunning_mgt (core u : Nat) (q : Option QIns) : (s.setRunning core u q).mgt = s.mgt := rfl
@[simp] theorem State.setRunning_time (core u : Nat) (q : Option QIns) : (s.setRunning core u q).time = s.time := rfl
@[simp] theorem State.setRunning_power (core u : Nat) (q : Option QIns) : (s.setRunning core u q).power = s.power := rfl
@[simp] theorem State.setRunning_now (core u : Nat) (q : Option QIns) : (s.setRunning core u q).now = s.now := rfl
@[simp] theorem State.setRunning_rack (core u : Nat) (q : Option QIns) : (s.setRunning core u q).rack = s.rack := rfl
@[simp] theorem State.setRunning_boundaryNo (core u : Nat) (q : Option QIns) : (s.setRunning core u q).boundaryNo = s.boundaryNo := rfl
@[simp] theorem State.setRunning_freeCtr (core u : Nat) (q : Option QIns) : (s.setRunning core u q).freeCtr = s.freeCtr := rfl
@[simp] theorem State.setRunning_randCtr (core u : Nat) (q : Option QIns) : (s.setRunning core u q).randCtr = s.randCtr := rfl
@[simp] theorem State.setRunning_sent (core u : Nat) (q : Option QIns) : (s.setRunning core u q).sent = s.sent := rfl
@[simp] theorem State.setRunning_pending (core u : Nat) (q : Option QIns) : (s.setRunning core u q).pending = s.pending := rfl

@[simp] theorem State.setStaging_regs (n : Nat) (l : List (Word × Bool)) : (s.setStaging n l).regs = s.regs := rfl
@[simp] theorem State.setStaging_mem (n : Nat) (l : List (Word × Bool)) : (s.setStaging n l).mem = s.mem := rfl
@[simp] theorem State.setStaging_far (n : Nat) (l : List (Word × Bool)) : (s.setStaging n l).far = s.far := rfl
@[simp] theorem State.setStaging_seq (n : Nat) (l : List (Word × Bool)) : (s.setStaging n l).seq = s.seq := rfl
@[simp] theorem State.setStaging_tiers (n : Nat) (l : List (Word × Bool)) : (s.setStaging n l).tiers = s.tiers := rfl
@[simp] theorem State.setStaging_links (n : Nat) (l : List (Word × Bool)) : (s.setStaging n l).links = s.links := rfl
@[simp] theorem State.setStaging_sp (n : Nat) (l : List (Word × Bool)) : (s.setStaging n l).sp = s.sp := rfl
@[simp] theorem State.setStaging_fj (n : Nat) (l : List (Word × Bool)) : (s.setStaging n l).fj = s.fj := rfl
@[simp] theorem State.setStaging_keys (n : Nat) (l : List (Word × Bool)) : (s.setStaging n l).keys = s.keys := rfl
@[simp] theorem State.setStaging_rind (n : Nat) (l : List (Word × Bool)) : (s.setStaging n l).rind = s.rind := rfl
@[simp] theorem State.setStaging_fw (n : Nat) (l : List (Word × Bool)) : (s.setStaging n l).fw = s.fw := rfl
@[simp] theorem State.setStaging_cle (n : Nat) (l : List (Word × Bool)) : (s.setStaging n l).cle = s.cle := rfl
@[simp] theorem State.setStaging_kpu (n : Nat) (l : List (Word × Bool)) : (s.setStaging n l).kpu = s.kpu := rfl
@[simp] theorem State.setStaging_eru (n : Nat) (l : List (Word × Bool)) : (s.setStaging n l).eru = s.eru := rfl
@[simp] theorem State.setStaging_img (n : Nat) (l : List (Word × Bool)) : (s.setStaging n l).img = s.img := rfl
@[simp] theorem State.setStaging_bud (n : Nat) (l : List (Word × Bool)) : (s.setStaging n l).bud = s.bud := rfl
@[simp] theorem State.setStaging_pause (n : Nat) (l : List (Word × Bool)) : (s.setStaging n l).pause = s.pause := rfl
@[simp] theorem State.setStaging_fuses (n : Nat) (l : List (Word × Bool)) : (s.setStaging n l).fuses = s.fuses := rfl
@[simp] theorem State.setStaging_store (n : Nat) (l : List (Word × Bool)) : (s.setStaging n l).store = s.store := rfl
@[simp] theorem State.setStaging_pins (n : Nat) (l : List (Word × Bool)) : (s.setStaging n l).pins = s.pins := rfl
@[simp] theorem State.setStaging_mgt (n : Nat) (l : List (Word × Bool)) : (s.setStaging n l).mgt = s.mgt := rfl
@[simp] theorem State.setStaging_time (n : Nat) (l : List (Word × Bool)) : (s.setStaging n l).time = s.time := rfl
@[simp] theorem State.setStaging_power (n : Nat) (l : List (Word × Bool)) : (s.setStaging n l).power = s.power := rfl
@[simp] theorem State.setStaging_now (n : Nat) (l : List (Word × Bool)) : (s.setStaging n l).now = s.now := rfl
@[simp] theorem State.setStaging_rack (n : Nat) (l : List (Word × Bool)) : (s.setStaging n l).rack = s.rack := rfl
@[simp] theorem State.setStaging_boundaryNo (n : Nat) (l : List (Word × Bool)) : (s.setStaging n l).boundaryNo = s.boundaryNo := rfl
@[simp] theorem State.setStaging_freeCtr (n : Nat) (l : List (Word × Bool)) : (s.setStaging n l).freeCtr = s.freeCtr := rfl
@[simp] theorem State.setStaging_randCtr (n : Nat) (l : List (Word × Bool)) : (s.setStaging n l).randCtr = s.randCtr := rfl
@[simp] theorem State.setStaging_sent (n : Nat) (l : List (Word × Bool)) : (s.setStaging n l).sent = s.sent := rfl
@[simp] theorem State.setStaging_pending (n : Nat) (l : List (Word × Bool)) : (s.setStaging n l).pending = s.pending := rfl

@[simp] theorem State.setPlain_regs (n : Nat) (l : List Word) : (s.setPlain n l).regs = s.regs := rfl
@[simp] theorem State.setPlain_mem (n : Nat) (l : List Word) : (s.setPlain n l).mem = s.mem := rfl
@[simp] theorem State.setPlain_far (n : Nat) (l : List Word) : (s.setPlain n l).far = s.far := rfl
@[simp] theorem State.setPlain_seq (n : Nat) (l : List Word) : (s.setPlain n l).seq = s.seq := rfl
@[simp] theorem State.setPlain_tiers (n : Nat) (l : List Word) : (s.setPlain n l).tiers = s.tiers := rfl
@[simp] theorem State.setPlain_links (n : Nat) (l : List Word) : (s.setPlain n l).links = s.links := rfl
@[simp] theorem State.setPlain_sp (n : Nat) (l : List Word) : (s.setPlain n l).sp = s.sp := rfl
@[simp] theorem State.setPlain_fj (n : Nat) (l : List Word) : (s.setPlain n l).fj = s.fj := rfl
@[simp] theorem State.setPlain_keys (n : Nat) (l : List Word) : (s.setPlain n l).keys = s.keys := rfl
@[simp] theorem State.setPlain_rind (n : Nat) (l : List Word) : (s.setPlain n l).rind = s.rind := rfl
@[simp] theorem State.setPlain_fw (n : Nat) (l : List Word) : (s.setPlain n l).fw = s.fw := rfl
@[simp] theorem State.setPlain_cle (n : Nat) (l : List Word) : (s.setPlain n l).cle = s.cle := rfl
@[simp] theorem State.setPlain_kpu (n : Nat) (l : List Word) : (s.setPlain n l).kpu = s.kpu := rfl
@[simp] theorem State.setPlain_eru (n : Nat) (l : List Word) : (s.setPlain n l).eru = s.eru := rfl
@[simp] theorem State.setPlain_img (n : Nat) (l : List Word) : (s.setPlain n l).img = s.img := rfl
@[simp] theorem State.setPlain_bud (n : Nat) (l : List Word) : (s.setPlain n l).bud = s.bud := rfl
@[simp] theorem State.setPlain_pause (n : Nat) (l : List Word) : (s.setPlain n l).pause = s.pause := rfl
@[simp] theorem State.setPlain_fuses (n : Nat) (l : List Word) : (s.setPlain n l).fuses = s.fuses := rfl
@[simp] theorem State.setPlain_store (n : Nat) (l : List Word) : (s.setPlain n l).store = s.store := rfl
@[simp] theorem State.setPlain_pins (n : Nat) (l : List Word) : (s.setPlain n l).pins = s.pins := rfl
@[simp] theorem State.setPlain_mgt (n : Nat) (l : List Word) : (s.setPlain n l).mgt = s.mgt := rfl
@[simp] theorem State.setPlain_time (n : Nat) (l : List Word) : (s.setPlain n l).time = s.time := rfl
@[simp] theorem State.setPlain_power (n : Nat) (l : List Word) : (s.setPlain n l).power = s.power := rfl
@[simp] theorem State.setPlain_now (n : Nat) (l : List Word) : (s.setPlain n l).now = s.now := rfl
@[simp] theorem State.setPlain_rack (n : Nat) (l : List Word) : (s.setPlain n l).rack = s.rack := rfl
@[simp] theorem State.setPlain_boundaryNo (n : Nat) (l : List Word) : (s.setPlain n l).boundaryNo = s.boundaryNo := rfl
@[simp] theorem State.setPlain_freeCtr (n : Nat) (l : List Word) : (s.setPlain n l).freeCtr = s.freeCtr := rfl
@[simp] theorem State.setPlain_randCtr (n : Nat) (l : List Word) : (s.setPlain n l).randCtr = s.randCtr := rfl
@[simp] theorem State.setPlain_sent (n : Nat) (l : List Word) : (s.setPlain n l).sent = s.sent := rfl
@[simp] theorem State.setPlain_pending (n : Nat) (l : List Word) : (s.setPlain n l).pending = s.pending := rfl

@[simp] theorem State.modSp_regs (p : Nat) (f : SpSt → SpSt) : (s.modSp p f).regs = s.regs := rfl
@[simp] theorem State.modSp_mem (p : Nat) (f : SpSt → SpSt) : (s.modSp p f).mem = s.mem := rfl
@[simp] theorem State.modSp_far (p : Nat) (f : SpSt → SpSt) : (s.modSp p f).far = s.far := rfl
@[simp] theorem State.modSp_seq (p : Nat) (f : SpSt → SpSt) : (s.modSp p f).seq = s.seq := rfl
@[simp] theorem State.modSp_tiers (p : Nat) (f : SpSt → SpSt) : (s.modSp p f).tiers = s.tiers := rfl
@[simp] theorem State.modSp_links (p : Nat) (f : SpSt → SpSt) : (s.modSp p f).links = s.links := rfl
@[simp] theorem State.modSp_sp (p : Nat) (f : SpSt → SpSt) : (s.modSp p f).sp = tset s.sp p (f (s.spS p)) := rfl
@[simp] theorem State.modSp_fj (p : Nat) (f : SpSt → SpSt) : (s.modSp p f).fj = s.fj := rfl
@[simp] theorem State.modSp_keys (p : Nat) (f : SpSt → SpSt) : (s.modSp p f).keys = s.keys := rfl
@[simp] theorem State.modSp_rind (p : Nat) (f : SpSt → SpSt) : (s.modSp p f).rind = s.rind := rfl
@[simp] theorem State.modSp_fw (p : Nat) (f : SpSt → SpSt) : (s.modSp p f).fw = s.fw := rfl
@[simp] theorem State.modSp_cle (p : Nat) (f : SpSt → SpSt) : (s.modSp p f).cle = s.cle := rfl
@[simp] theorem State.modSp_kpu (p : Nat) (f : SpSt → SpSt) : (s.modSp p f).kpu = s.kpu := rfl
@[simp] theorem State.modSp_eru (p : Nat) (f : SpSt → SpSt) : (s.modSp p f).eru = s.eru := rfl
@[simp] theorem State.modSp_img (p : Nat) (f : SpSt → SpSt) : (s.modSp p f).img = s.img := rfl
@[simp] theorem State.modSp_bud (p : Nat) (f : SpSt → SpSt) : (s.modSp p f).bud = s.bud := rfl
@[simp] theorem State.modSp_host (p : Nat) (f : SpSt → SpSt) : (s.modSp p f).host = s.host := rfl
@[simp] theorem State.modSp_pause (p : Nat) (f : SpSt → SpSt) : (s.modSp p f).pause = s.pause := rfl
@[simp] theorem State.modSp_fuses (p : Nat) (f : SpSt → SpSt) : (s.modSp p f).fuses = s.fuses := rfl
@[simp] theorem State.modSp_store (p : Nat) (f : SpSt → SpSt) : (s.modSp p f).store = s.store := rfl
@[simp] theorem State.modSp_pins (p : Nat) (f : SpSt → SpSt) : (s.modSp p f).pins = s.pins := rfl
@[simp] theorem State.modSp_mgt (p : Nat) (f : SpSt → SpSt) : (s.modSp p f).mgt = s.mgt := rfl
@[simp] theorem State.modSp_time (p : Nat) (f : SpSt → SpSt) : (s.modSp p f).time = s.time := rfl
@[simp] theorem State.modSp_power (p : Nat) (f : SpSt → SpSt) : (s.modSp p f).power = s.power := rfl
@[simp] theorem State.modSp_now (p : Nat) (f : SpSt → SpSt) : (s.modSp p f).now = s.now := rfl
@[simp] theorem State.modSp_rack (p : Nat) (f : SpSt → SpSt) : (s.modSp p f).rack = s.rack := rfl
@[simp] theorem State.modSp_boundaryNo (p : Nat) (f : SpSt → SpSt) : (s.modSp p f).boundaryNo = s.boundaryNo := rfl
@[simp] theorem State.modSp_freeCtr (p : Nat) (f : SpSt → SpSt) : (s.modSp p f).freeCtr = s.freeCtr := rfl
@[simp] theorem State.modSp_randCtr (p : Nat) (f : SpSt → SpSt) : (s.modSp p f).randCtr = s.randCtr := rfl
@[simp] theorem State.modSp_sent (p : Nat) (f : SpSt → SpSt) : (s.modSp p f).sent = s.sent := rfl
@[simp] theorem State.modSp_pending (p : Nat) (f : SpSt → SpSt) : (s.modSp p f).pending = s.pending := rfl

@[simp] theorem State.arrive_regs (p : Nat) (k : Packet) : (s.arrive p k).regs = s.regs := rfl
@[simp] theorem State.arrive_mem (p : Nat) (k : Packet) : (s.arrive p k).mem = s.mem := rfl
@[simp] theorem State.arrive_far (p : Nat) (k : Packet) : (s.arrive p k).far = s.far := rfl
@[simp] theorem State.arrive_seq (p : Nat) (k : Packet) : (s.arrive p k).seq = s.seq := rfl
@[simp] theorem State.arrive_tiers (p : Nat) (k : Packet) : (s.arrive p k).tiers = s.tiers := rfl
@[simp] theorem State.arrive_links (p : Nat) (k : Packet) : (s.arrive p k).links = s.links := rfl
@[simp] theorem State.arrive_sp (p : Nat) (k : Packet) : (s.arrive p k).sp = s.sp := rfl
@[simp] theorem State.arrive_keys (p : Nat) (k : Packet) : (s.arrive p k).keys = s.keys := rfl
@[simp] theorem State.arrive_rind (p : Nat) (k : Packet) : (s.arrive p k).rind = s.rind := rfl
@[simp] theorem State.arrive_fw (p : Nat) (k : Packet) : (s.arrive p k).fw = s.fw := rfl
@[simp] theorem State.arrive_cle (p : Nat) (k : Packet) : (s.arrive p k).cle = s.cle := rfl
@[simp] theorem State.arrive_kpu (p : Nat) (k : Packet) : (s.arrive p k).kpu = s.kpu := rfl
@[simp] theorem State.arrive_eru (p : Nat) (k : Packet) : (s.arrive p k).eru = s.eru := rfl
@[simp] theorem State.arrive_img (p : Nat) (k : Packet) : (s.arrive p k).img = s.img := rfl
@[simp] theorem State.arrive_bud (p : Nat) (k : Packet) : (s.arrive p k).bud = s.bud := rfl
@[simp] theorem State.arrive_host (p : Nat) (k : Packet) : (s.arrive p k).host = s.host := rfl
@[simp] theorem State.arrive_pause (p : Nat) (k : Packet) : (s.arrive p k).pause = s.pause := rfl
@[simp] theorem State.arrive_fuses (p : Nat) (k : Packet) : (s.arrive p k).fuses = s.fuses := rfl
@[simp] theorem State.arrive_store (p : Nat) (k : Packet) : (s.arrive p k).store = s.store := rfl
@[simp] theorem State.arrive_pins (p : Nat) (k : Packet) : (s.arrive p k).pins = s.pins := rfl
@[simp] theorem State.arrive_mgt (p : Nat) (k : Packet) : (s.arrive p k).mgt = s.mgt := rfl
@[simp] theorem State.arrive_time (p : Nat) (k : Packet) : (s.arrive p k).time = s.time := rfl
@[simp] theorem State.arrive_power (p : Nat) (k : Packet) : (s.arrive p k).power = s.power := rfl
@[simp] theorem State.arrive_now (p : Nat) (k : Packet) : (s.arrive p k).now = s.now := rfl
@[simp] theorem State.arrive_rack (p : Nat) (k : Packet) : (s.arrive p k).rack = s.rack := rfl
@[simp] theorem State.arrive_boundaryNo (p : Nat) (k : Packet) : (s.arrive p k).boundaryNo = s.boundaryNo := rfl
@[simp] theorem State.arrive_freeCtr (p : Nat) (k : Packet) : (s.arrive p k).freeCtr = s.freeCtr := rfl
@[simp] theorem State.arrive_randCtr (p : Nat) (k : Packet) : (s.arrive p k).randCtr = s.randCtr := rfl
@[simp] theorem State.arrive_sent (p : Nat) (k : Packet) : (s.arrive p k).sent = s.sent := rfl
@[simp] theorem State.arrive_pending (p : Nat) (k : Packet) : (s.arrive p k).pending = s.pending := rfl

@[simp] theorem State.modPair_regs (k : Nat) (f : Pair → Pair) : (s.modPair k f).regs = s.regs := rfl
@[simp] theorem State.modPair_mem (k : Nat) (f : Pair → Pair) : (s.modPair k f).mem = s.mem := rfl
@[simp] theorem State.modPair_far (k : Nat) (f : Pair → Pair) : (s.modPair k f).far = s.far := rfl
@[simp] theorem State.modPair_seq (k : Nat) (f : Pair → Pair) : (s.modPair k f).seq = s.seq := rfl
@[simp] theorem State.modPair_tiers (k : Nat) (f : Pair → Pair) : (s.modPair k f).tiers = s.tiers := rfl
@[simp] theorem State.modPair_links (k : Nat) (f : Pair → Pair) : (s.modPair k f).links = s.links := rfl
@[simp] theorem State.modPair_sp (k : Nat) (f : Pair → Pair) : (s.modPair k f).sp = s.sp := rfl
@[simp] theorem State.modPair_keys (k : Nat) (f : Pair → Pair) : (s.modPair k f).keys = s.keys := rfl
@[simp] theorem State.modPair_rind (k : Nat) (f : Pair → Pair) : (s.modPair k f).rind = s.rind := rfl
@[simp] theorem State.modPair_fw (k : Nat) (f : Pair → Pair) : (s.modPair k f).fw = s.fw := rfl
@[simp] theorem State.modPair_cle (k : Nat) (f : Pair → Pair) : (s.modPair k f).cle = s.cle := rfl
@[simp] theorem State.modPair_kpu (k : Nat) (f : Pair → Pair) : (s.modPair k f).kpu = s.kpu := rfl
@[simp] theorem State.modPair_eru (k : Nat) (f : Pair → Pair) : (s.modPair k f).eru = s.eru := rfl
@[simp] theorem State.modPair_img (k : Nat) (f : Pair → Pair) : (s.modPair k f).img = s.img := rfl
@[simp] theorem State.modPair_bud (k : Nat) (f : Pair → Pair) : (s.modPair k f).bud = s.bud := rfl
@[simp] theorem State.modPair_host (k : Nat) (f : Pair → Pair) : (s.modPair k f).host = s.host := rfl
@[simp] theorem State.modPair_pause (k : Nat) (f : Pair → Pair) : (s.modPair k f).pause = s.pause := rfl
@[simp] theorem State.modPair_fuses (k : Nat) (f : Pair → Pair) : (s.modPair k f).fuses = s.fuses := rfl
@[simp] theorem State.modPair_store (k : Nat) (f : Pair → Pair) : (s.modPair k f).store = s.store := rfl
@[simp] theorem State.modPair_pins (k : Nat) (f : Pair → Pair) : (s.modPair k f).pins = s.pins := rfl
@[simp] theorem State.modPair_mgt (k : Nat) (f : Pair → Pair) : (s.modPair k f).mgt = s.mgt := rfl
@[simp] theorem State.modPair_time (k : Nat) (f : Pair → Pair) : (s.modPair k f).time = s.time := rfl
@[simp] theorem State.modPair_power (k : Nat) (f : Pair → Pair) : (s.modPair k f).power = s.power := rfl
@[simp] theorem State.modPair_now (k : Nat) (f : Pair → Pair) : (s.modPair k f).now = s.now := rfl
@[simp] theorem State.modPair_rack (k : Nat) (f : Pair → Pair) : (s.modPair k f).rack = s.rack := rfl
@[simp] theorem State.modPair_boundaryNo (k : Nat) (f : Pair → Pair) : (s.modPair k f).boundaryNo = s.boundaryNo := rfl
@[simp] theorem State.modPair_freeCtr (k : Nat) (f : Pair → Pair) : (s.modPair k f).freeCtr = s.freeCtr := rfl
@[simp] theorem State.modPair_randCtr (k : Nat) (f : Pair → Pair) : (s.modPair k f).randCtr = s.randCtr := rfl
@[simp] theorem State.modPair_sent (k : Nat) (f : Pair → Pair) : (s.modPair k f).sent = s.sent := rfl
@[simp] theorem State.modPair_pending (k : Nat) (f : Pair → Pair) : (s.modPair k f).pending = s.pending := rfl

@[simp] theorem State.modGrp_regs (g : Nat) (f : CleGrp → CleGrp) : (s.modGrp g f).regs = s.regs := rfl
@[simp] theorem State.modGrp_mem (g : Nat) (f : CleGrp → CleGrp) : (s.modGrp g f).mem = s.mem := rfl
@[simp] theorem State.modGrp_far (g : Nat) (f : CleGrp → CleGrp) : (s.modGrp g f).far = s.far := rfl
@[simp] theorem State.modGrp_seq (g : Nat) (f : CleGrp → CleGrp) : (s.modGrp g f).seq = s.seq := rfl
@[simp] theorem State.modGrp_tiers (g : Nat) (f : CleGrp → CleGrp) : (s.modGrp g f).tiers = s.tiers := rfl
@[simp] theorem State.modGrp_links (g : Nat) (f : CleGrp → CleGrp) : (s.modGrp g f).links = s.links := rfl
@[simp] theorem State.modGrp_sp (g : Nat) (f : CleGrp → CleGrp) : (s.modGrp g f).sp = s.sp := rfl
@[simp] theorem State.modGrp_fj (g : Nat) (f : CleGrp → CleGrp) : (s.modGrp g f).fj = s.fj := rfl
@[simp] theorem State.modGrp_keys (g : Nat) (f : CleGrp → CleGrp) : (s.modGrp g f).keys = s.keys := rfl
@[simp] theorem State.modGrp_rind (g : Nat) (f : CleGrp → CleGrp) : (s.modGrp g f).rind = s.rind := rfl
@[simp] theorem State.modGrp_fw (g : Nat) (f : CleGrp → CleGrp) : (s.modGrp g f).fw = s.fw := rfl
@[simp] theorem State.modGrp_cle (g : Nat) (f : CleGrp → CleGrp) : (s.modGrp g f).cle = tset s.cle g (f (s.grp g)) := rfl
@[simp] theorem State.modGrp_kpu (g : Nat) (f : CleGrp → CleGrp) : (s.modGrp g f).kpu = s.kpu := rfl
@[simp] theorem State.modGrp_eru (g : Nat) (f : CleGrp → CleGrp) : (s.modGrp g f).eru = s.eru := rfl
@[simp] theorem State.modGrp_img (g : Nat) (f : CleGrp → CleGrp) : (s.modGrp g f).img = s.img := rfl
@[simp] theorem State.modGrp_bud (g : Nat) (f : CleGrp → CleGrp) : (s.modGrp g f).bud = s.bud := rfl
@[simp] theorem State.modGrp_host (g : Nat) (f : CleGrp → CleGrp) : (s.modGrp g f).host = s.host := rfl
@[simp] theorem State.modGrp_pause (g : Nat) (f : CleGrp → CleGrp) : (s.modGrp g f).pause = s.pause := rfl
@[simp] theorem State.modGrp_fuses (g : Nat) (f : CleGrp → CleGrp) : (s.modGrp g f).fuses = s.fuses := rfl
@[simp] theorem State.modGrp_store (g : Nat) (f : CleGrp → CleGrp) : (s.modGrp g f).store = s.store := rfl
@[simp] theorem State.modGrp_pins (g : Nat) (f : CleGrp → CleGrp) : (s.modGrp g f).pins = s.pins := rfl
@[simp] theorem State.modGrp_mgt (g : Nat) (f : CleGrp → CleGrp) : (s.modGrp g f).mgt = s.mgt := rfl
@[simp] theorem State.modGrp_time (g : Nat) (f : CleGrp → CleGrp) : (s.modGrp g f).time = s.time := rfl
@[simp] theorem State.modGrp_power (g : Nat) (f : CleGrp → CleGrp) : (s.modGrp g f).power = s.power := rfl
@[simp] theorem State.modGrp_now (g : Nat) (f : CleGrp → CleGrp) : (s.modGrp g f).now = s.now := rfl
@[simp] theorem State.modGrp_rack (g : Nat) (f : CleGrp → CleGrp) : (s.modGrp g f).rack = s.rack := rfl
@[simp] theorem State.modGrp_boundaryNo (g : Nat) (f : CleGrp → CleGrp) : (s.modGrp g f).boundaryNo = s.boundaryNo := rfl
@[simp] theorem State.modGrp_freeCtr (g : Nat) (f : CleGrp → CleGrp) : (s.modGrp g f).freeCtr = s.freeCtr := rfl
@[simp] theorem State.modGrp_randCtr (g : Nat) (f : CleGrp → CleGrp) : (s.modGrp g f).randCtr = s.randCtr := rfl
@[simp] theorem State.modGrp_sent (g : Nat) (f : CleGrp → CleGrp) : (s.modGrp g f).sent = s.sent := rfl
@[simp] theorem State.modGrp_pending (g : Nat) (f : CleGrp → CleGrp) : (s.modGrp g f).pending = s.pending := rfl

@[simp] theorem State.modLink_regs (k : Nat) (f : LinkSt → LinkSt) : (s.modLink k f).regs = s.regs := rfl
@[simp] theorem State.modLink_mem (k : Nat) (f : LinkSt → LinkSt) : (s.modLink k f).mem = s.mem := rfl
@[simp] theorem State.modLink_far (k : Nat) (f : LinkSt → LinkSt) : (s.modLink k f).far = s.far := rfl
@[simp] theorem State.modLink_seq (k : Nat) (f : LinkSt → LinkSt) : (s.modLink k f).seq = s.seq := rfl
@[simp] theorem State.modLink_tiers (k : Nat) (f : LinkSt → LinkSt) : (s.modLink k f).tiers = s.tiers := rfl
@[simp] theorem State.modLink_links (k : Nat) (f : LinkSt → LinkSt) : (s.modLink k f).links = tset s.links k (f (s.link k)) := rfl
@[simp] theorem State.modLink_sp (k : Nat) (f : LinkSt → LinkSt) : (s.modLink k f).sp = s.sp := rfl
@[simp] theorem State.modLink_fj (k : Nat) (f : LinkSt → LinkSt) : (s.modLink k f).fj = s.fj := rfl
@[simp] theorem State.modLink_keys (k : Nat) (f : LinkSt → LinkSt) : (s.modLink k f).keys = s.keys := rfl
@[simp] theorem State.modLink_rind (k : Nat) (f : LinkSt → LinkSt) : (s.modLink k f).rind = s.rind := rfl
@[simp] theorem State.modLink_fw (k : Nat) (f : LinkSt → LinkSt) : (s.modLink k f).fw = s.fw := rfl
@[simp] theorem State.modLink_cle (k : Nat) (f : LinkSt → LinkSt) : (s.modLink k f).cle = s.cle := rfl
@[simp] theorem State.modLink_kpu (k : Nat) (f : LinkSt → LinkSt) : (s.modLink k f).kpu = s.kpu := rfl
@[simp] theorem State.modLink_eru (k : Nat) (f : LinkSt → LinkSt) : (s.modLink k f).eru = s.eru := rfl
@[simp] theorem State.modLink_img (k : Nat) (f : LinkSt → LinkSt) : (s.modLink k f).img = s.img := rfl
@[simp] theorem State.modLink_bud (k : Nat) (f : LinkSt → LinkSt) : (s.modLink k f).bud = s.bud := rfl
@[simp] theorem State.modLink_host (k : Nat) (f : LinkSt → LinkSt) : (s.modLink k f).host = s.host := rfl
@[simp] theorem State.modLink_pause (k : Nat) (f : LinkSt → LinkSt) : (s.modLink k f).pause = s.pause := rfl
@[simp] theorem State.modLink_fuses (k : Nat) (f : LinkSt → LinkSt) : (s.modLink k f).fuses = s.fuses := rfl
@[simp] theorem State.modLink_store (k : Nat) (f : LinkSt → LinkSt) : (s.modLink k f).store = s.store := rfl
@[simp] theorem State.modLink_pins (k : Nat) (f : LinkSt → LinkSt) : (s.modLink k f).pins = s.pins := rfl
@[simp] theorem State.modLink_mgt (k : Nat) (f : LinkSt → LinkSt) : (s.modLink k f).mgt = s.mgt := rfl
@[simp] theorem State.modLink_time (k : Nat) (f : LinkSt → LinkSt) : (s.modLink k f).time = s.time := rfl
@[simp] theorem State.modLink_power (k : Nat) (f : LinkSt → LinkSt) : (s.modLink k f).power = s.power := rfl
@[simp] theorem State.modLink_now (k : Nat) (f : LinkSt → LinkSt) : (s.modLink k f).now = s.now := rfl
@[simp] theorem State.modLink_rack (k : Nat) (f : LinkSt → LinkSt) : (s.modLink k f).rack = s.rack := rfl
@[simp] theorem State.modLink_boundaryNo (k : Nat) (f : LinkSt → LinkSt) : (s.modLink k f).boundaryNo = s.boundaryNo := rfl
@[simp] theorem State.modLink_freeCtr (k : Nat) (f : LinkSt → LinkSt) : (s.modLink k f).freeCtr = s.freeCtr := rfl
@[simp] theorem State.modLink_randCtr (k : Nat) (f : LinkSt → LinkSt) : (s.modLink k f).randCtr = s.randCtr := rfl
@[simp] theorem State.modLink_sent (k : Nat) (f : LinkSt → LinkSt) : (s.modLink k f).sent = s.sent := rfl
@[simp] theorem State.modLink_pending (k : Nat) (f : LinkSt → LinkSt) : (s.modLink k f).pending = s.pending := rfl

@[simp] theorem State.modChan_regs (c : Nat) (f : Chan → Chan) : (s.modChan c f).regs = s.regs := rfl
@[simp] theorem State.modChan_mem (c : Nat) (f : Chan → Chan) : (s.modChan c f).mem = s.mem := rfl
@[simp] theorem State.modChan_far (c : Nat) (f : Chan → Chan) : (s.modChan c f).far = s.far := rfl
@[simp] theorem State.modChan_seq (c : Nat) (f : Chan → Chan) : (s.modChan c f).seq = s.seq := rfl
@[simp] theorem State.modChan_tiers (c : Nat) (f : Chan → Chan) : (s.modChan c f).tiers = s.tiers := rfl
@[simp] theorem State.modChan_links (c : Nat) (f : Chan → Chan) : (s.modChan c f).links = s.links := rfl
@[simp] theorem State.modChan_sp (c : Nat) (f : Chan → Chan) : (s.modChan c f).sp = s.sp := rfl
@[simp] theorem State.modChan_fj (c : Nat) (f : Chan → Chan) : (s.modChan c f).fj = s.fj := rfl
@[simp] theorem State.modChan_keys (c : Nat) (f : Chan → Chan) : (s.modChan c f).keys = s.keys := rfl
@[simp] theorem State.modChan_fw (c : Nat) (f : Chan → Chan) : (s.modChan c f).fw = s.fw := rfl
@[simp] theorem State.modChan_cle (c : Nat) (f : Chan → Chan) : (s.modChan c f).cle = s.cle := rfl
@[simp] theorem State.modChan_kpu (c : Nat) (f : Chan → Chan) : (s.modChan c f).kpu = s.kpu := rfl
@[simp] theorem State.modChan_eru (c : Nat) (f : Chan → Chan) : (s.modChan c f).eru = s.eru := rfl
@[simp] theorem State.modChan_img (c : Nat) (f : Chan → Chan) : (s.modChan c f).img = s.img := rfl
@[simp] theorem State.modChan_bud (c : Nat) (f : Chan → Chan) : (s.modChan c f).bud = s.bud := rfl
@[simp] theorem State.modChan_host (c : Nat) (f : Chan → Chan) : (s.modChan c f).host = s.host := rfl
@[simp] theorem State.modChan_pause (c : Nat) (f : Chan → Chan) : (s.modChan c f).pause = s.pause := rfl
@[simp] theorem State.modChan_fuses (c : Nat) (f : Chan → Chan) : (s.modChan c f).fuses = s.fuses := rfl
@[simp] theorem State.modChan_store (c : Nat) (f : Chan → Chan) : (s.modChan c f).store = s.store := rfl
@[simp] theorem State.modChan_pins (c : Nat) (f : Chan → Chan) : (s.modChan c f).pins = s.pins := rfl
@[simp] theorem State.modChan_mgt (c : Nat) (f : Chan → Chan) : (s.modChan c f).mgt = s.mgt := rfl
@[simp] theorem State.modChan_time (c : Nat) (f : Chan → Chan) : (s.modChan c f).time = s.time := rfl
@[simp] theorem State.modChan_power (c : Nat) (f : Chan → Chan) : (s.modChan c f).power = s.power := rfl
@[simp] theorem State.modChan_now (c : Nat) (f : Chan → Chan) : (s.modChan c f).now = s.now := rfl
@[simp] theorem State.modChan_rack (c : Nat) (f : Chan → Chan) : (s.modChan c f).rack = s.rack := rfl
@[simp] theorem State.modChan_boundaryNo (c : Nat) (f : Chan → Chan) : (s.modChan c f).boundaryNo = s.boundaryNo := rfl
@[simp] theorem State.modChan_freeCtr (c : Nat) (f : Chan → Chan) : (s.modChan c f).freeCtr = s.freeCtr := rfl
@[simp] theorem State.modChan_randCtr (c : Nat) (f : Chan → Chan) : (s.modChan c f).randCtr = s.randCtr := rfl
@[simp] theorem State.modChan_sent (c : Nat) (f : Chan → Chan) : (s.modChan c f).sent = s.sent := rfl
@[simp] theorem State.modChan_pending (c : Nat) (f : Chan → Chan) : (s.modChan c f).pending = s.pending := rfl

@[simp] theorem State.slotFails_regs (i : Nat) : (s.slotFails i).regs = s.regs := rfl
@[simp] theorem State.slotFails_mem (i : Nat) : (s.slotFails i).mem = s.mem := rfl
@[simp] theorem State.slotFails_far (i : Nat) : (s.slotFails i).far = s.far := rfl
@[simp] theorem State.slotFails_seq (i : Nat) : (s.slotFails i).seq = s.seq := rfl
@[simp] theorem State.slotFails_tiers (i : Nat) : (s.slotFails i).tiers = s.tiers := rfl
@[simp] theorem State.slotFails_links (i : Nat) : (s.slotFails i).links = s.links := rfl
@[simp] theorem State.slotFails_sp (i : Nat) : (s.slotFails i).sp = s.sp := rfl
@[simp] theorem State.slotFails_fj (i : Nat) : (s.slotFails i).fj = s.fj := rfl
@[simp] theorem State.slotFails_keys (i : Nat) : (s.slotFails i).keys = s.keys := rfl
@[simp] theorem State.slotFails_rind (i : Nat) : (s.slotFails i).rind = s.rind := rfl
@[simp] theorem State.slotFails_cle (i : Nat) : (s.slotFails i).cle = s.cle := rfl
@[simp] theorem State.slotFails_kpu (i : Nat) : (s.slotFails i).kpu = s.kpu := rfl
@[simp] theorem State.slotFails_eru (i : Nat) : (s.slotFails i).eru = s.eru := rfl
@[simp] theorem State.slotFails_img (i : Nat) : (s.slotFails i).img = s.img := rfl
@[simp] theorem State.slotFails_bud (i : Nat) : (s.slotFails i).bud = s.bud := rfl
@[simp] theorem State.slotFails_host (i : Nat) : (s.slotFails i).host = s.host := rfl
@[simp] theorem State.slotFails_pause (i : Nat) : (s.slotFails i).pause = s.pause := rfl
@[simp] theorem State.slotFails_fuses (i : Nat) : (s.slotFails i).fuses = s.fuses := rfl
@[simp] theorem State.slotFails_store (i : Nat) : (s.slotFails i).store = s.store := rfl
@[simp] theorem State.slotFails_pins (i : Nat) : (s.slotFails i).pins = s.pins := rfl
@[simp] theorem State.slotFails_mgt (i : Nat) : (s.slotFails i).mgt = s.mgt := rfl
@[simp] theorem State.slotFails_time (i : Nat) : (s.slotFails i).time = s.time := rfl
@[simp] theorem State.slotFails_power (i : Nat) : (s.slotFails i).power = s.power := rfl
@[simp] theorem State.slotFails_now (i : Nat) : (s.slotFails i).now = s.now := rfl
@[simp] theorem State.slotFails_rack (i : Nat) : (s.slotFails i).rack = s.rack := rfl
@[simp] theorem State.slotFails_boundaryNo (i : Nat) : (s.slotFails i).boundaryNo = s.boundaryNo := rfl
@[simp] theorem State.slotFails_freeCtr (i : Nat) : (s.slotFails i).freeCtr = s.freeCtr := rfl
@[simp] theorem State.slotFails_randCtr (i : Nat) : (s.slotFails i).randCtr = s.randCtr := rfl
@[simp] theorem State.slotFails_sent (i : Nat) : (s.slotFails i).sent = s.sent := rfl
@[simp] theorem State.slotFails_pending (i : Nat) : (s.slotFails i).pending = s.pending := rfl

@[simp] theorem State.setSensor_regs (i : Nat) (x : Sensor) : (s.setSensor i x).regs = s.regs := rfl
@[simp] theorem State.setSensor_mem (i : Nat) (x : Sensor) : (s.setSensor i x).mem = s.mem := rfl
@[simp] theorem State.setSensor_far (i : Nat) (x : Sensor) : (s.setSensor i x).far = s.far := rfl
@[simp] theorem State.setSensor_seq (i : Nat) (x : Sensor) : (s.setSensor i x).seq = s.seq := rfl
@[simp] theorem State.setSensor_tiers (i : Nat) (x : Sensor) : (s.setSensor i x).tiers = s.tiers := rfl
@[simp] theorem State.setSensor_links (i : Nat) (x : Sensor) : (s.setSensor i x).links = s.links := rfl
@[simp] theorem State.setSensor_sp (i : Nat) (x : Sensor) : (s.setSensor i x).sp = s.sp := rfl
@[simp] theorem State.setSensor_fj (i : Nat) (x : Sensor) : (s.setSensor i x).fj = s.fj := rfl
@[simp] theorem State.setSensor_keys (i : Nat) (x : Sensor) : (s.setSensor i x).keys = s.keys := rfl
@[simp] theorem State.setSensor_rind (i : Nat) (x : Sensor) : (s.setSensor i x).rind = s.rind := rfl
@[simp] theorem State.setSensor_fw (i : Nat) (x : Sensor) : (s.setSensor i x).fw = s.fw := rfl
@[simp] theorem State.setSensor_cle (i : Nat) (x : Sensor) : (s.setSensor i x).cle = s.cle := rfl
@[simp] theorem State.setSensor_kpu (i : Nat) (x : Sensor) : (s.setSensor i x).kpu = s.kpu := rfl
@[simp] theorem State.setSensor_eru (i : Nat) (x : Sensor) : (s.setSensor i x).eru = s.eru := rfl
@[simp] theorem State.setSensor_img (i : Nat) (x : Sensor) : (s.setSensor i x).img = s.img := rfl
@[simp] theorem State.setSensor_bud (i : Nat) (x : Sensor) : (s.setSensor i x).bud = s.bud := rfl
@[simp] theorem State.setSensor_host (i : Nat) (x : Sensor) : (s.setSensor i x).host = s.host := rfl
@[simp] theorem State.setSensor_pause (i : Nat) (x : Sensor) : (s.setSensor i x).pause = s.pause := rfl
@[simp] theorem State.setSensor_fuses (i : Nat) (x : Sensor) : (s.setSensor i x).fuses = s.fuses := rfl
@[simp] theorem State.setSensor_store (i : Nat) (x : Sensor) : (s.setSensor i x).store = s.store := rfl
@[simp] theorem State.setSensor_pins (i : Nat) (x : Sensor) : (s.setSensor i x).pins = s.pins := rfl
@[simp] theorem State.setSensor_time (i : Nat) (x : Sensor) : (s.setSensor i x).time = s.time := rfl
@[simp] theorem State.setSensor_power (i : Nat) (x : Sensor) : (s.setSensor i x).power = s.power := rfl
@[simp] theorem State.setSensor_now (i : Nat) (x : Sensor) : (s.setSensor i x).now = s.now := rfl
@[simp] theorem State.setSensor_rack (i : Nat) (x : Sensor) : (s.setSensor i x).rack = s.rack := rfl
@[simp] theorem State.setSensor_boundaryNo (i : Nat) (x : Sensor) : (s.setSensor i x).boundaryNo = s.boundaryNo := rfl
@[simp] theorem State.setSensor_freeCtr (i : Nat) (x : Sensor) : (s.setSensor i x).freeCtr = s.freeCtr := rfl
@[simp] theorem State.setSensor_randCtr (i : Nat) (x : Sensor) : (s.setSensor i x).randCtr = s.randCtr := rfl
@[simp] theorem State.setSensor_sent (i : Nat) (x : Sensor) : (s.setSensor i x).sent = s.sent := rfl
@[simp] theorem State.setSensor_pending (i : Nat) (x : Sensor) : (s.setSensor i x).pending = s.pending := rfl

end

end Machine
end Sys2Proof
end

