-- ==== Sys2Proof/Laws/Access.lean ====
section
/-!
SUPPORT. Read after write of the state that lies behind the registers.
-/
namespace Sys2Proof
namespace Machine
set_option Elab.async false

theorem State.ctx_modCtx (s : State) (x y : Nat) (f : CtxSt → CtxSt) : (s.modCtx x f).ctx y = if y = x then f (s.ctx x) else s.ctx y := by
  simp only [State.ctx, State.modCtx, tgetD_tset]

theorem State.spS_modSp (s : State) (p q : Nat) (f : SpSt → SpSt) : (s.modSp p f).spS q = if q = p then f (s.spS p) else s.spS q := by
  simp only [State.spS, State.modSp, tgetD_tset]

theorem State.grp_modGrp (s : State) (g h : Nat) (f : CleGrp → CleGrp) : (s.modGrp g f).grp h = if h = g then f (s.grp g) else s.grp h := by
  simp only [State.grp, State.modGrp, tgetD_tset]

theorem State.link_modLink (s : State) (k j : Nat) (f : LinkSt → LinkSt) : (s.modLink k f).link j = if j = k then f (s.link k) else s.link j := by
  simp only [State.link, State.modLink, tgetD_tset]

theorem State.pair_modPair (s : State) (k j : Nat) (f : Pair → Pair) : (s.modPair k f).pair j = if j = k then f (s.pair k) else s.pair j := by
  simp only [State.pair, State.modPair, tgetD_tset]

@[simp] theorem State.spS_modSp_self (s : State) (p : Nat) (f : SpSt → SpSt) : (s.modSp p f).spS p = f (s.spS p) := by rw [State.spS_modSp, if_pos rfl]
@[simp] theorem State.grp_modGrp_self (s : State) (g : Nat) (f : CleGrp → CleGrp) : (s.modGrp g f).grp g = f (s.grp g) := by rw [State.grp_modGrp, if_pos rfl]
@[simp] theorem State.link_modLink_self (s : State) (k : Nat) (f : LinkSt → LinkSt) : (s.modLink k f).link k = f (s.link k) := by rw [State.link_modLink, if_pos rfl]
@[simp] theorem State.pair_modPair_self (s : State) (k : Nat) (f : Pair → Pair) : (s.modPair k f).pair k = f (s.pair k) := by rw [State.pair_modPair, if_pos rfl]
@[simp] theorem State.ctx_modCtx_self (s : State) (x : Nat) (f : CtxSt → CtxSt) : (s.modCtx x f).ctx x = f (s.ctx x) := by rw [State.ctx_modCtx, if_pos rfl]

end Machine
end Sys2Proof
end

