-- ==== Sys2Proof/Laws/Drain.lean ====
section
/-!
SUPPORT. What event counts and counters leave alone (R371, R510), and what the marker pump of a drain can do (R359, R360).
-/
namespace Sys2Proof
namespace Machine
set_option Elab.async false

/-- An event counted in a unit's block changes no register outside the blocks of the event counters. -/
theorem State.rd_pmcBump (s : State) (u i n k : Nat) (h : u < 104 ∧ i < 8 ∧ (k < 0xD0000 ∨ 0xD6800 ≤ k)) : (s.pmcBump u i n).rd k = s.rd k := by
  have h1 : k ≠ R.PMC_CNT u i := by simp only [R.PMC_CNT]; omega
  have h2 : k ≠ R.PMC_STATUS u := by simp only [R.PMC_STATUS]; omega
  unfold State.pmcBump
  extract_lets v t
  split
  · exact State.rd_fs_ne h1
  · rw [State.rd_fs_ne h2]; exact State.rd_fs_ne h1

theorem State.rd_pmc (s : State) (u ev n : Nat) (a : PmcAttr) (k : Nat) (h : u < 104 ∧ (k < 0xD0000 ∨ 0xD6800 ≤ k)) : (s.pmc u ev n a).rd k = s.rd k := by
  unfold State.pmc
  have hl : ∀ i ∈ List.range 8, i < 8 := fun i hi => List.mem_range.1 hi
  revert hl
  generalize List.range 8 = l
  induction l generalizing s with
  | nil => intro _; rfl
  | cons i l ih =>
    intro hl
    rw [List.foldl_cons, ih _ (fun j hj => hl j (List.mem_cons_of_mem _ hj))]
    split
    · split
      · exact State.rd_pmcBump _ _ _ _ _ ⟨h.1, hl i (List.mem_cons_self ..), h.2⟩
      · rfl
    · rfl

/-- A field of a register that reads the same. -/
theorem State.fg_of_rd {s t : State} {k : Nat} (f : Fld) (h : t.rd k = s.rd k) : t.fg k f = s.fg k f := by simp only [State.fg, h]

/-- R371: a counter moves on by 1, or stays at all ones. -/
theorem State.fg_count (s : State) (k : Nat) : (s.count k).fg k ⟨0, 48⟩ = min (s.fg k ⟨0, 48⟩ + 1) (2 ^ 48 - 1) := by
  have hb : s.fg k ⟨0, 48⟩ < 2 ^ 48 := by simp only [State.fg]; exact bits_lt _ _ _
  simp only [State.count, State.fsat]
  rw [State.fg_fs (by decide)]
  simp only [satAdd]
  omega

theorem State.rd_count (s : State) (k j : Nat) (h : j ≠ k) : (s.count k).rd j = s.rd j := State.rd_fs_ne h

/-- Only the crossbar's queue grew, and markers left. -/
def Grows (s t : State) : Prop := ∃ xs mo, t = { s with fj := { s.fj with xq := s.fj.xq ++ xs, marksOut := mo } }

theorem Grows.trans {s t u : State} (h : Grows s t) (k : Grows t u) : Grows s u := by
  obtain ⟨xs, mo, rfl⟩ := h
  obtain ⟨ys, mp, rfl⟩ := k
  exact ⟨xs ++ ys, mp, by simp [List.append_assoc]⟩

theorem Grows.foldl {α : Type} (l : List α) (f : State → α → State) (hf : ∀ w a, Grows w (f w a)) (s : State) : Grows s (l.foldl f s) := by
  induction l generalizing s with
  | nil => exact ⟨[], s.fj.marksOut, by simp⟩
  | cons a l ih => exact (hf s a).trans (ih _)

/-- The pump adds markers to the crossbar's queue, remembers which have left, and writes FJ_EPOCH; nothing else differs. -/
theorem State.drainPump_spec (s : State) : ∃ xs mo, s.drainPump = { s with regs := s.drainPump.regs, fj := { s.fj with xq := s.fj.xq ++ xs, marksOut := mo } } ∧
    ∀ k, k ≠ R.FJ_EPOCH → s.drainPump.rd k = s.rd k := by
  unfold State.drainPump
  split
  · exact ⟨[], s.fj.marksOut, by simp, fun _ _ => rfl⟩
  · extract_lets t u
    have ht : Grows s t := by
      unfold t
      refine Grows.foldl _ _ (fun w a => Grows.foldl _ _ (fun x b => ?_) w) s
      dsimp only
      split
      · exact ⟨[x.marker a b], _, rfl⟩
      · exact ⟨[], x.fj.marksOut, by simp⟩
    clear_value t
    obtain ⟨xs, mo, rfl⟩ := ht
    refine ⟨xs, mo, ?_, ?_⟩
    · split <;> rfl
    · intro k hk
      split
      · rw [State.rd_fs_ne hk, State.rd_fs_ne hk]
        exact State.rd_fs_ne hk
      · exact State.rd_fs_ne hk

end Machine
end Sys2Proof
end

