-- ==== Sys2Proof/Laws/Evolve.lean ====
section
/-!
SUPPORT. The relation `State.Evolves` over record updates, pairs, options, folds and answers.
-/
namespace Sys2Proof
namespace Machine
set_option Elab.async false

theorem State.Evolves.refl (s : State) : s.Evolves s :=
  ⟨id, rfl, Nat.le_refl _, List.prefix_rfl, Nat.le_refl _, Nat.le_refl _, Nat.le_refl _, rfl, Nat.le_refl _, Nat.le_refl _⟩

theorem State.Evolves.trans {a b c : State} (h : a.Evolves b) (k : b.Evolves c) : a.Evolves c :=
  ⟨k.canon ∘ h.canon, k.queue.trans h.queue, h.time.trans k.time, h.sent.trans k.sent, h.free.trans k.free, h.random.trans k.random, h.logged.trans k.logged,
   k.part.trans h.part, h.rollback.trans k.rollback, h.transfers.trans k.transfers⟩

/-- A record update that touches nothing `State.Evolves` speaks of. -/
theorem State.Evolves.mk_same {a s : State} {x0 : SeqState} {x1 : MemState} {x2 : Tab LinkSt} {x3 : Tab SpSt} {x4 : FjState} {x5 : KeyState} {x6 : RindState} {x7 : FwState} {x8 : Tab CleGrp} {x9 : KpuState} {x10 : EruState} {x11 : ImgState} {x12 : BudState} {x13 : HostState} {x14 : Option Pause} {x15 : Pins} {x16 : MgtState} {x17 : TimeSt} {x18 : Nat} {x19 : Nat} {x20 : Nat} {st : Store} {fu : Fuses}
    (h : a.Evolves s) (l : st.logNext = s.store.logNext) (p : fu.part = s.fuses.part) (b : fu.rollback = s.fuses.rollback) (x : fu.transfers = s.fuses.transfers) :
    a.Evolves ⟨s.regs, s.mem, s.far, x0, x1, x2, x3, x4, x5, x6, x7, x8, x9, x10, x11, x12, x13, x14, fu, st, x15, x16, x17, x18, s.now, x19, x20, s.freeCtr, s.randCtr, s.sent, s.pending⟩ :=
  h.trans ⟨id, rfl, Nat.le_refl _, List.prefix_rfl, Nat.le_refl _, Nat.le_refl _, l ▸ Nat.le_refl _, p, b ▸ Nat.le_refl _, x ▸ Nat.le_refl _⟩

/-- A record update that may touch everything but the queue. -/
theorem State.Evolves.mk_any {a s : State} {x0 : SeqState} {x1 : MemState} {x2 : Tab LinkSt} {x3 : Tab SpSt} {x4 : FjState} {x5 : KeyState} {x6 : RindState} {x7 : FwState} {x8 : Tab CleGrp} {x9 : KpuState} {x10 : EruState} {x11 : ImgState} {x12 : BudState} {x13 : HostState} {x14 : Option Pause} {x15 : Pins} {x16 : MgtState} {x17 : TimeSt} {x18 : Nat} {x19 : Nat} {x20 : Nat} {st : Store} {fu : Fuses}
    {r : Tab Word} {m f : List Host.Cell} {n i j : Nat} {o : List OutMsg}
    (h : a.Evolves s) (hm : Memory.wf s.mem → Memory.wf m) (hf : rising s.far → rising f) (hr : rising s.regs → rising r) (hn : s.now ≤ n) (ho : s.sent <+: o)
    (hi : s.freeCtr ≤ i) (hj : s.randCtr ≤ j)
    (l : s.store.logNext ≤ st.logNext) (p : fu.part = s.fuses.part) (b : s.fuses.rollback ≤ fu.rollback) (x : s.fuses.transfers ≤ fu.transfers) :
    a.Evolves ⟨r, m, f, x0, x1, x2, x3, x4, x5, x6, x7, x8, x9, x10, x11, x12, x13, x14, fu, st, x15, x16, x17, x18, n, x19, x20, i, j, o, s.pending⟩ :=
  h.trans ⟨fun k => ⟨hm k.1, hf k.2.1, hr k.2.2⟩, rfl, hn, ho, hi, hj, l, p, b, x⟩

/-- Every next state an answer gives is a later state. -/
def Later (a : State) (o : Answer) : Prop := ∀ t, o = .next t → a.Evolves t

/-- Every state an option gives is a later state. -/
def LaterO (a : State) (o : Option State) : Prop := ∀ t, o = some t → a.Evolves t

/-- The same for an option of a value and a state. -/
def LaterP {α : Type} (a : State) (o : Option (α × State)) : Prop := ∀ x t, o = some (x, t) → a.Evolves t

theorem Later.next {a t : State} (h : a.Evolves t) : Later a (.next t) := fun _ e => by cases e; exact h
theorem Later.occurs {a s t : State} {c : Bool} (hs : a.Evolves s) (ht : a.Evolves t) : Later a (occurs c s t) := by
  unfold Machine.occurs
  exact .next (by split <;> assumption)
theorem LaterO.some {a t : State} (h : a.Evolves t) : LaterO a (some t) := fun _ e => by cases e; exact h
theorem LaterO.none {a : State} : LaterO a none := fun _ e => nomatch e
theorem LaterP.some {α : Type} {a : State} {p : α × State} (h : a.Evolves p.2) : LaterP a (some p) := fun _ _ e => by cases e; exact h
theorem LaterP.none {α : Type} {a : State} : LaterP (α := α) a none := fun _ _ e => nomatch e

theorem LaterO.getD {a s : State} {o : Option State} (h : LaterO a o) (k : a.Evolves s) : a.Evolves (o.getD s) := by
  cases o with
  | none => exact k
  | some t => exact h t rfl
theorem LaterO.bind {a : State} {o : Option State} {f : State → Option State} (h : LaterO a o) (k : ∀ t, a.Evolves t → LaterO a (f t)) : LaterO a (o.bind f) := by
  cases o with
  | none => exact .none
  | some t => exact k t (h t rfl)
theorem LaterO.map {a : State} {o : Option State} {f : State → State} (h : LaterO a o) (k : ∀ t, a.Evolves t → a.Evolves (f t)) : LaterO a (o.map f) := by
  cases o with
  | none => exact .none
  | some t => exact .some (k t (h t rfl))
theorem LaterO.mem {a : State} {o : Option State} (h : LaterO a o) {t : State} (k : o = Option.some t) : a.Evolves t := h t k

section
variable {α β : Type} {a t : State}

theorem State.Evolves.of_snd {e : α × State} {x : α} (q : e = (x, t)) (h : a.Evolves e.2) : a.Evolves t := by subst q; exact h
theorem State.Evolves.of_fst {e : State × α} {x : α} (q : e = (t, x)) (h : a.Evolves e.1) : a.Evolves t := by subst q; exact h
theorem State.Evolves.of_mid {e : α × State × β} {x : α} {y : β} (q : e = (x, t, y)) (h : a.Evolves e.2.1) : a.Evolves t := by subst q; exact h
theorem State.Evolves.of_last {e : α × β × State} {x : α} {y : β} (q : e = (x, y, t)) (h : a.Evolves e.2.2) : a.Evolves t := by subst q; exact h
theorem State.Evolves.of_some {e : Option State} (q : e = some t) (h : LaterO a e) : a.Evolves t := h t q
theorem State.Evolves.of_pair {e : Option (α × State)} {x : α} (q : e = some (x, t)) (h : LaterP a e) : a.Evolves t := h x t q
theorem State.Evolves.of_next {e : Answer} (q : e = .next t) (h : Later a e) : a.Evolves t := h t q

theorem State.Evolves.ite_snd {c : Prop} [Decidable c] {p q : α × State} (hp : a.Evolves p.2) (hq : a.Evolves q.2) : a.Evolves (if c then p else q).2 := by
  split <;> assumption

theorem State.Evolves.foldl {f : State → α → State} {l : List α} {s : State} (h : a.Evolves s) (k : ∀ t x, a.Evolves t → a.Evolves (f t x)) : a.Evolves (l.foldl f s) := by
  induction l generalizing s with
  | nil => exact h
  | cons x r ih => exact ih (k s x h)

theorem State.Evolves.foldl_fst {f : State × β → α → State × β} {l : List α} {s : State × β} (h : a.Evolves s.1) (k : ∀ t y x, a.Evolves t → a.Evolves (f (t, y) x).1) :
    a.Evolves (l.foldl f s).1 := by
  induction l generalizing s with
  | nil => exact h
  | cons x r ih => exact ih (k s.1 s.2 x h)

theorem State.Evolves.foldl_snd {f : β × State → α → β × State} {l : List α} {s : β × State} (h : a.Evolves s.2) (k : ∀ t y x, a.Evolves t → a.Evolves (f (y, t) x).2) :
    a.Evolves (l.foldl f s).2 := by
  induction l generalizing s with
  | nil => exact h
  | cons x r ih => exact ih (k s.2 s.1 x h)

theorem State.Evolves.forEach {f : State → α → State} {l : List α} {s : State} (h : a.Evolves s) (k : ∀ t x, a.Evolves t → a.Evolves (f t x)) : a.Evolves (forEach l s f) := h.foldl k

end

/-- Everything that a start keeps: the queue, what was sent, and the counters (R532). -/
theorem State.Evolves.start {a s t : State} (h : a.Evolves s) (hm : t.mem = []) (hf : t.far = []) (hr : rising t.regs) (hq : t.pending = s.pending) (hn : t.now = s.now)
    (ho : t.sent = s.sent) (hi : t.freeCtr = s.freeCtr) (hj : t.randCtr = s.randCtr) (l : t.store.logNext = s.store.logNext) (p : t.fuses = s.fuses) : a.Evolves t := by
  refine h.trans ⟨fun _ => ?_, hq, hn ▸ Nat.le_refl _, ho ▸ List.prefix_rfl, hi ▸ Nat.le_refl _, hj ▸ Nat.le_refl _, l ▸ Nat.le_refl _, p ▸ rfl, p ▸ Nat.le_refl _, p ▸ Nat.le_refl _⟩
  simp only [State.Canon, hm, hf]
  exact ⟨⟨List.Pairwise.nil, fun _ h => nomatch h⟩, List.Pairwise.nil, hr⟩

/-! ### The primitive operations -/

section
variable {a s : State} (h : a.Evolves s)
include h

theorem State.wr_ev (k : Nat) (w : Word) : a.Evolves (s.wr k w) := .mk_any h id id (fun e => rising_tset e k w) (Nat.le_refl _) List.prefix_rfl (Nat.le_refl _) (Nat.le_refl _) (Nat.le_refl _) rfl (Nat.le_refl _) (Nat.le_refl _)
theorem State.resetReg_ev (k : Nat) : a.Evolves (s.resetReg k) := .mk_any h id id (fun e => rising_tdel e k) (Nat.le_refl _) List.prefix_rfl (Nat.le_refl _) (Nat.le_refl _) (Nat.le_refl _) rfl (Nat.le_refl _) (Nat.le_refl _)
theorem State.memWr_ev (k : Nat) (b : Byte) : a.Evolves (s.memWr k b) := by
  unfold State.memWr
  split
  · exact .mk_any h id (fun e => rising_tset e _ b) id (Nat.le_refl _) List.prefix_rfl (Nat.le_refl _) (Nat.le_refl _) (Nat.le_refl _) rfl (Nat.le_refl _) (Nat.le_refl _)
  · exact .mk_any h (fun e => Memory.wf_cellPut e k b) id id (Nat.le_refl _) List.prefix_rfl (Nat.le_refl _) (Nat.le_refl _) (Nat.le_refl _) rfl (Nat.le_refl _) (Nat.le_refl _)
theorem State.accTake_ev (core : Nat) : a.Evolves (s.accTake core) := .mk_any h id (fun e => rising_filter e _) id (Nat.le_refl _) List.prefix_rfl (Nat.le_succ _) (Nat.le_refl _) (Nat.le_refl _) rfl (Nat.le_refl _) (Nat.le_refl _)
theorem State.free_ev : a.Evolves s.free.2 := .mk_any h id id id (Nat.le_refl _) List.prefix_rfl (Nat.le_succ _) (Nat.le_refl _) (Nat.le_refl _) rfl (Nat.le_refl _) (Nat.le_refl _)
theorem State.random_ev (n : Nat) : a.Evolves (s.random n).2 := .mk_any h id id id (Nat.le_refl _) List.prefix_rfl (Nat.le_refl _) (Nat.le_add_right _ _) (Nat.le_refl _) rfl (Nat.le_refl _) (Nat.le_refl _)
theorem State.emit_ev (m : OutMsg) : a.Evolves (s.emit m) := .mk_any h id id id (Nat.le_refl _) (List.prefix_append _ _) (Nat.le_refl _) (Nat.le_refl _) (Nat.le_refl _) rfl (Nat.le_refl _) (Nat.le_refl _)

end

end Machine
end Sys2Proof
end

