-- ==== Sys2Proof/Laws/EvolveBase.lean ====
section
/-!
SUPPORT. The operations of registers, tiers, budgets, contexts and streams lead to later states (`State.Evolves`): one lemma for each.
-/
namespace Sys2Proof
namespace Machine
set_option Elab.async false

theorem State.fs_ev {z : State} (s : State) (key : Nat) (f : Fld) (v : Nat) (hs : z.Evolves s) : z.Evolves (State.fs s key f v) := by
  unfold State.fs
  apply State.wr_ev; exact hs

theorem State.fsat_ev {z : State} (s : State) (key : Nat) (f : Fld) (n : Nat) (hs : z.Evolves s) : z.Evolves (State.fsat s key f n) := by
  unfold State.fsat
  apply State.fs_ev; exact hs

theorem State.count_ev {z : State} (s : State) (key : Nat) (hs : z.Evolves s) : z.Evolves (State.count s key) := by
  unfold State.count
  apply State.fsat_ev; exact hs

theorem State.countN_ev {z : State} (s : State) (key n : Nat) (hs : z.Evolves s) : z.Evolves (State.countN s key n) := by
  unfold State.countN
  apply State.fsat_ev; exact hs

theorem State.zeroRegs_ev {z : State} (s : State) (keys : List Nat) (hs : z.Evolves s) : z.Evolves (State.zeroRegs s keys) := by
  unfold State.zeroRegs
  refine State.Evolves.foldl ?_ ?_
  · exact hs
  · intro v0 v1 v2
    apply State.wr_ev; with_reducible assumption

theorem State.pmcBump_ev {z : State} (s : State) (u i n : Nat) (hs : z.Evolves s) : z.Evolves (State.pmcBump s u i n) := by
  unfold State.pmcBump
  extract_lets +onlyGivenNames v_0
  extract_lets +onlyGivenNames t_1
  have ht_1 : z.Evolves t_1 := by
    unfold t_1
    apply State.fs_ev; exact hs
  clear_value t_1
  split
  · exact ht_1
  · apply State.fs_ev; exact ht_1

theorem State.pmc_ev {z : State} (s : State) (u ev n : Nat) (a : PmcAttr) (hs : z.Evolves s) : z.Evolves (State.pmc s u ev n a) := by
  unfold State.pmc
  refine State.Evolves.foldl ?_ ?_
  · exact hs
  · intro v0 v1 v2
    split
    · split
      · apply State.pmcBump_ev; with_reducible assumption
      · with_reducible assumption
    · with_reducible assumption

theorem State.aclkClocks_ev {z : State} (s : State) (n : Nat) (hs : z.Evolves s) : z.Evolves (State.aclkClocks s n) := by
  unfold State.aclkClocks
  refine State.Evolves.foldl ?_ ?_
  · exact hs
  · intro v0 v1 v2
    extract_lets +onlyGivenNames k_3
    extract_lets +onlyGivenNames u_4
    have hu_4 : z.Evolves u_4 := by
      unfold u_4
      apply State.fs_ev; with_reducible assumption
    clear_value u_4
    split
    · split
      · apply State.fs_ev; exact hu_4
      · exact hu_4
    · exact hu_4

theorem State.pmcClocks_ev {z : State} (s : State) (n : Nat) (hs : z.Evolves s) : z.Evolves (State.pmcClocks s n) := by
  unfold State.pmcClocks
  refine State.Evolves.foldl ?_ ?_
  · exact hs
  · intro v0 v1 v2
    extract_lets +onlyGivenNames u_3
    split
    · apply State.pmcBump_ev; with_reducible assumption
    · with_reducible assumption

theorem State.memWrN_ev {z : State} (s : State) (a : Nat) (bs : Bytes) (hs : z.Evolves s) : z.Evolves (State.memWrN s a bs) := by
  unfold State.memWrN
  refine State.Evolves.foldl ?_ ?_
  · exact hs
  · intro v0 v1 v2
    apply State.memWr_ev; with_reducible assumption

theorem State.haunoRaised_ev {z : State} (t s : State) (h : Nat) (ht : z.Evolves t) (hs : z.Evolves s) : z.Evolves (State.haunoRaised t s h) := by
  unfold State.haunoRaised
  split
  · apply State.emit_ev; exact ht
  · exact ht

theorem State.haunoEvent_ev {z : State} (s : State) (h : Nat) (fl : Fld) (v : Nat) (hs : z.Evolves s) : z.Evolves (State.haunoEvent s h fl v) := by
  unfold State.haunoEvent
  apply State.haunoRaised_ev
  · apply State.fs_ev; exact hs
  · exact hs

theorem State.refuseTlp_ev {z : State} (s : State) (port : Nat) (hs : z.Evolves s) : z.Evolves (State.refuseTlp s port) := by
  unfold State.refuseTlp
  extract_lets +onlyGivenNames c_0
  apply State.emit_ev
  refine State.Evolves.mk_same ?_ rfl rfl rfl rfl
  exact hs

theorem State.msixNow_ev {z : State} (s : State) (port v : Nat) (hs : z.Evolves s) : z.Evolves (State.msixNow s port v) := by
  unfold State.msixNow
  split
  · exact hs
  · split
    · apply State.wr_ev; exact hs
    · split
      · apply State.emit_ev; exact hs
      · exact hs

theorem State.msixBoth_ev {z : State} (s : State) (v : Nat) (hs : z.Evolves s) : z.Evolves (State.msixBoth s v) := by
  unfold State.msixBoth
  apply State.msixNow_ev; apply State.msixNow_ev; exact hs

theorem State.log_ev {z : State} (s : State) (code severity source : Nat) (detail : Bytes) (hs : z.Evolves s) : z.Evolves (State.log s code severity source detail) := by
  unfold State.log
  extract_lets +onlyGivenNames d_0
  extract_lets +onlyGivenNames st_1
  extract_lets +onlyGivenNames fresh_2
  extract_lets +onlyGivenNames add_3
  have hadd_3 : z.Evolves add_3 := by
    unfold add_3
    split
    · refine State.Evolves.mk_any ?_ ?_ ?_ ?_ ?_ ?_ ?_ ?_ ?_ ?_ ?_ ?_
      · exact hs
      · exact id
      · exact id
      · exact id
      · exact Nat.le_refl _
      · rfl
      · exact Nat.le_refl _
      · exact Nat.le_refl _
      · exact Nat.le_add_right _ _
      · rfl
      · exact Nat.le_refl _
      · exact Nat.le_refl _
    · apply State.fs_ev
      refine State.Evolves.mk_any ?_ ?_ ?_ ?_ ?_ ?_ ?_ ?_ ?_ ?_ ?_ ?_
      · exact hs
      · exact id
      · exact id
      · exact id
      · exact Nat.le_refl _
      · rfl
      · exact Nat.le_refl _
      · exact Nat.le_refl _
      · exact Nat.le_add_right _ _
      · rfl
      · exact Nat.le_refl _
      · exact Nat.le_refl _
  clear_value add_3
  extract_lets +onlyGivenNames t_4
  have ht_4 : z.Evolves t_4 := by
    unfold t_4
    split
    · split
      · refine State.Evolves.mk_same ?_ rfl rfl rfl rfl
        exact hs
      · exact hadd_3
    · exact hadd_3
  clear_value t_4
  split
  · apply State.msixBoth_ev; exact ht_4
  · exact ht_4

theorem State.platformEvent_ev {z : State} (s : State) (b : Bytes) (hs : z.Evolves s) : z.Evolves (State.platformEvent s b) := by
  unfold State.platformEvent
  split
  · apply State.emit_ev; exact hs
  · exact hs

theorem State.setState_ev {z : State} (s : State) (n : Nat) (hs : z.Evolves s) : z.Evolves (State.setState s n) := by
  unfold State.setState
  split
  · exact hs
  · extract_lets +onlyGivenNames t_0
    have ht_0 : z.Evolves t_0 := by
      unfold t_0
      apply State.fs_ev; apply State.fsat_ev; apply State.fs_ev; exact hs
    clear_value t_0
    apply State.platformEvent_ev; apply State.msixBoth_ev; apply State.log_ev; exact ht_0

theorem State.raise_ev {z : State} (s : State) (key : Nat) (f : Fld) (hs : z.Evolves s) : z.Evolves (State.raise s key f) := by
  unfold State.raise
  apply State.fs_ev; exact hs

theorem State.eccClear_ev {z : State} (s : State) (lo hi : Nat) (hs : z.Evolves s) : z.Evolves (State.eccClear s lo hi) := by
  unfold State.eccClear
  refine State.Evolves.mk_same ?_ rfl rfl rfl rfl
  exact hs

theorem State.eccMark_ev {z : State} (s : State) (w v : Nat) (hs : z.Evolves s) : z.Evolves (State.eccMark s w v) := by
  unfold State.eccMark
  refine State.Evolves.mk_same ?_ rfl rfl rfl rfl
  exact hs

theorem State.retireCandidate_ev {z : State} (s : State) (k ch : Nat) (hs : z.Evolves s) : z.Evolves (State.retireCandidate s k ch) := by
  unfold State.retireCandidate
  extract_lets +onlyGivenNames st_0
  split
  · apply State.log_ev; apply State.fs_ev; apply State.fs_ev; apply State.fs_ev; apply State.fs_ev
    refine State.Evolves.mk_same ?_ rfl rfl rfl rfl
    exact hs
  · split
    · exact hs
    · apply State.log_ev; apply State.raise_ev; exact hs

theorem State.eccCount_ev {z : State} (s : State) (reg v : Nat) (hs : z.Evolves s) : z.Evolves (State.eccCount s reg v) := by
  unfold State.eccCount
  split
  · apply State.fsat_ev; exact hs
  · split
    · apply State.fsat_ev; exact hs
    · apply State.fsat_ev; exact hs

theorem State.eccCountFar_ev {z : State} (s : State) (w v : Nat) (hs : z.Evolves s) : z.Evolves (State.eccCountFar s w v) := by
  unfold State.eccCountFar
  extract_lets +onlyGivenNames chn_0
  extract_lets +onlyGivenNames k_1
  extract_lets +onlyGivenNames ch_2
  extract_lets +onlyGivenNames reg_3
  split
  · extract_lets +onlyGivenNames t_4
    have ht_4 : z.Evolves t_4 := by
      unfold t_4
      apply State.pmc_ev; apply State.fsat_ev; apply State.fsat_ev; exact hs
    clear_value t_4
    extract_lets +onlyGivenNames th_5
    split
    · apply State.retireCandidate_ev; exact ht_4
    · exact ht_4
  · split
    · apply State.retireCandidate_ev; apply State.fsat_ev; exact hs
    · exact hs

theorem State.eccTouch_ev {z : State} (s : State) (p : Nat × Nat) (hs : z.Evolves s) : z.Evolves (State.eccTouch s p) := by
  unfold State.eccTouch
  extract_lets +onlyGivenNames t_0
  have ht_0 : z.Evolves t_0 := by
    unfold t_0
    split
    · apply State.eccClear_ev; exact hs
    · exact hs
  clear_value t_0
  split
  · apply State.eccCountFar_ev; exact ht_0
  · split
    · extract_lets +onlyGivenNames core_1
      apply State.eccCount_ev; exact ht_0
    · split
      · apply State.eccCount_ev; exact ht_0
      · extract_lets +onlyGivenNames core_2
        apply State.eccCount_ev; exact ht_0

theorem State.eccRead_ev {z : State} (s : State) (lo hi : Nat) (hs : z.Evolves s) : z.Evolves (State.eccRead s lo hi).1 := by
  unfold State.eccRead
  extract_lets +onlyGivenNames m_0
  dsimp only
  refine State.Evolves.foldl ?_ ?_
  · exact hs
  · intro v1 v2 v3
    apply State.eccTouch_ev; with_reducible assumption

theorem State.poison_ev {z : State} (s : State) (ws : List Nat) (hs : z.Evolves s) : z.Evolves (State.poison s ws) := by
  unfold State.poison
  refine State.Evolves.foldl ?_ ?_
  · exact hs
  · intro v0 v1 v2
    apply State.eccMark_ev; with_reducible assumption

theorem State.showHot_ev {z : State} (s : State) (d n : Nat) (hs : z.Evolves s) : z.Evolves (State.showHot s d n) := by
  unfold State.showHot
  refine State.Evolves.foldl ?_ ?_
  · exact hs
  · intro v0 v1 v2
    apply State.fs_ev; with_reducible assumption

theorem State.kpuMark_ev {z : State} (s : State) (space unit off n : Nat) (hs : z.Evolves s) : z.Evolves (State.kpuMark s space unit off n) := by
  unfold State.kpuMark
  split
  · exact hs
  · refine State.Evolves.foldl ?_ ?_
    · exact hs
    · intro v0 v1 v2
      extract_lets +onlyGivenNames lo_3
      extract_lets +onlyGivenNames hi_4
      split
      · extract_lets +onlyGivenNames p0_5
        extract_lets +onlyGivenNames p1_6
        extract_lets +onlyGivenNames mark_7
        refine State.Evolves.mk_same ?_ rfl rfl rfl rfl
        with_reducible assumption
      · with_reducible assumption

theorem State.eruDelta_ev {z : State} (s : State) (dom off : Nat) (old new : Bytes) (hs : z.Evolves s) : z.Evolves (State.eruDelta s dom off old new) := by
  unfold State.eruDelta
  refine State.Evolves.foldl ?_ ?_
  · exact hs
  · intro v0 v1 v2
    extract_lets +onlyGivenNames lo_3
    extract_lets +onlyGivenNames hi_4
    extract_lets +onlyGivenNames n_5
    split
    · extract_lets +onlyGivenNames a_6
      extract_lets +onlyGivenNames b_7
      extract_lets +onlyGivenNames d_8
      refine State.Evolves.mk_same ?_ rfl rfl rfl rfl
      with_reducible assumption
    · with_reducible assumption

theorem State.sramRead_ev {z : State} (s : State) (core a n : Nat) (hs : z.Evolves s) : z.Evolves (State.sramRead s core a n).2.1 := by
  unfold State.sramRead
  extract_lets +onlyGivenNames r_0
  have hr_0 : z.Evolves r_0.1 := by
    unfold r_0
    apply State.eccRead_ev; exact hs
  clear_value r_0
  with_reducible assumption

theorem State.sramWrite_ev {z : State} (s : State) (core a : Nat) (bs : Bytes) (hs : z.Evolves s) : z.Evolves (State.sramWrite s core a bs) := by
  unfold State.sramWrite
  extract_lets +onlyGivenNames k_0
  apply State.kpuMark_ev; apply State.eccClear_ev; apply State.memWrN_ev; exact hs

theorem State.sramPoison_ev {z : State} (s : State) (core a n : Nat) (hs : z.Evolves s) : z.Evolves (State.sramPoison s core a n) := by
  unfold State.sramPoison
  extract_lets +onlyGivenNames k_0
  apply State.poison_ev; exact hs

theorem State.bondRead_ev {z : State} (s : State) (core a n : Nat) (hs : z.Evolves s) : z.Evolves (State.bondRead s core a n).2.1 := by
  unfold State.bondRead
  extract_lets +onlyGivenNames k_0
  extract_lets +onlyGivenNames r_1
  have hr_1 : z.Evolves r_1.1 := by
    unfold r_1
    apply State.eccRead_ev; exact hs
  clear_value r_1
  with_reducible assumption

theorem State.bondWrite_ev {z : State} (s : State) (core a : Nat) (bs : Bytes) (hs : z.Evolves s) : z.Evolves (State.bondWrite s core a bs) := by
  unfold State.bondWrite
  extract_lets +onlyGivenNames k_0
  apply State.kpuMark_ev; apply State.eccClear_ev; apply State.memWrN_ev; exact hs

theorem State.bondPoison_ev {z : State} (s : State) (core a n : Nat) (hs : z.Evolves s) : z.Evolves (State.bondPoison s core a n) := by
  unfold State.bondPoison
  extract_lets +onlyGivenNames k_0
  apply State.poison_ev; exact hs

theorem State.granulePmc_ev {z : State} (s : State) (ev : Nat) (ks : List Nat) (hs : z.Evolves s) : z.Evolves (State.granulePmc s ev ks) := by
  unfold State.granulePmc
  split
  · exact hs
  · refine State.Evolves.foldl ?_ ?_
    · exact hs
    · intro v0 v1 v2
      apply State.pmc_ev; with_reducible assumption

theorem State.take_ev {z : State} (s : State) (a res inst n : Nat) (hs : z.Evolves s) : z.Evolves (State.take s a res inst n) := by
  unfold State.take
  extract_lets +onlyGivenNames c_0
  refine State.Evolves.mk_same ?_ rfl rfl rfl rfl
  exact hs

theorem State.copyCharge_ev {z : State} (s : State) (k a b : Nat) (hs : z.Evolves s) : z.Evolves (State.copyCharge s k a b) := by
  unfold State.copyCharge
  refine State.Evolves.foldl ?_ ?_
  · exact hs
  · intro v0 v1 v2
    extract_lets +onlyGivenNames lo_3
    extract_lets +onlyGivenNames hi_4
    split
    · apply State.take_ev; with_reducible assumption
    · with_reducible assumption

theorem State.copyTo_ev {z : State} (s : State) (k n : Nat) (hs : z.Evolves s) : z.Evolves (State.copyTo s k n) := by
  unfold State.copyTo
  extract_lets +onlyGivenNames st_0
  extract_lets +onlyGivenNames ch_1
  extract_lets +onlyGivenNames r0_2
  split
  · exact hs
  · extract_lets +onlyGivenNames lo_3
    extract_lets +onlyGivenNames hi_4
    extract_lets +onlyGivenNames cells_5
    extract_lets +onlyGivenNames tgt_6
    extract_lets +onlyGivenNames marks_7
    extract_lets +onlyGivenNames s1_8
    have hs1_8 : z.Evolves s1_8 := by
      unfold s1_8
      refine State.Evolves.foldl ?_ ?_
      · refine State.Evolves.mk_any ?_ ?_ ?_ ?_ ?_ ?_ ?_ ?_ ?_ ?_ ?_ ?_
        · exact hs
        · exact id
        · exact fun e => rising_farPutN e _ _
        · exact id
        · exact Nat.le_refl _
        · rfl
        · exact Nat.le_refl _
        · exact Nat.le_refl _
        · exact Nat.le_refl _
        · rfl
        · exact Nat.le_refl _
        · exact Nat.le_refl _
      · intro v9 v10 v11
        apply State.eccTouch_ev; with_reducible assumption
    clear_value s1_8
    extract_lets +onlyGivenNames old_12
    extract_lets +onlyGivenNames s2_13
    extract_lets +onlyGivenNames s2_14
    have hs2_14 : z.Evolves s2_14 := by
      unfold s2_14
      refine State.Evolves.mk_same ?_ rfl rfl rfl rfl
      exact hs1_8
    clear_value s2_14
    apply State.fs_ev; apply State.copyCharge_ev; apply State.poison_ev; exact hs2_14

theorem State.copyAdvance_ev {z : State} (s : State) (hs : z.Evolves s) : z.Evolves (State.copyAdvance s) := by
  unfold State.copyAdvance
  refine State.Evolves.foldl ?_ ?_
  · exact hs
  · intro v0 v1 v2
    apply State.copyTo_ev; with_reducible assumption

theorem State.copyRebase_ev {z : State} (s : State) (hs : z.Evolves s) : z.Evolves (State.copyRebase s) := by
  unfold State.copyRebase
  extract_lets +onlyGivenNames t_0
  have ht_0 : z.Evolves t_0 := by
    unfold t_0
    apply State.copyAdvance_ev; exact hs
  clear_value t_0
  refine State.Evolves.mk_same ?_ rfl rfl rfl rfl
  exact ht_0

theorem State.upset_ev {z : State} (s : State) (u : List (Nat × Nat)) (hs : z.Evolves s) : z.Evolves (State.upset s u) := by
  unfold State.upset
  refine hs.foldl fun t p ht => ?_
  split
  · exact ht
  · split
    · split
      · exact State.eccMark_ev _ _ _ ht
      · exact ht
    · have hv : z.Evolves t.copyAdvance := State.copyAdvance_ev _ ht
      generalize rsJudge p.2 = j
      extract_lets w1 w2 v x
      have hx : z.Evolves x := by
        unfold x
        split
        · exact hv
        · exact hv.mk_any id (fun e => rising_farPutN e _ _) id (Nat.le_refl _) List.prefix_rfl (Nat.le_refl _) (Nat.le_refl _) (Nat.le_refl _) rfl (Nat.le_refl _) (Nat.le_refl _)
      split
      · exact hx
      · exact State.eccMark_ev _ _ _ hx

theorem State.farBlock_ev {z : State} (s : State) (i off : Nat) (b : Bytes) (hs : z.Evolves s) : z.Evolves (State.farBlock s i off b) := by
  unfold State.farBlock
  extract_lets w1 w2 w3
  split
  · exact hs.mk_any id (fun e => rising_farPutN (rising_farPutN e _ _) _ _) id (Nat.le_refl _) List.prefix_rfl (Nat.le_refl _) (Nat.le_refl _) (Nat.le_refl _) rfl (Nat.le_refl _)
      (Nat.le_refl _)
  · exact hs

theorem State.farStore_ev {z : State} (s : State) (i off : Nat) (bs : Bytes) (hs : z.Evolves s) : z.Evolves (State.farStore s i off bs) := by
  unfold State.farStore
  extract_lets +onlyGivenNames n_0
  refine State.Evolves.foldl ?_ ?_
  · exact hs
  · intro v1 v2 v3
    extract_lets +onlyGivenNames a_4
    apply State.farBlock_ev; with_reducible assumption

theorem State.farRead_ev {z : State} (s : State) (i off n : Nat) (hs : z.Evolves s) : z.Evolves (State.farRead s i off n).2.1 := by
  unfold State.farRead
  extract_lets +onlyGivenNames ks_0
  extract_lets +onlyGivenNames ws_1
  extract_lets +onlyGivenNames m_2
  dsimp only
  apply State.granulePmc_ev
  refine State.Evolves.foldl ?_ ?_
  · exact hs
  · intro v3 v4 v5
    apply State.eccTouch_ev; with_reducible assumption

theorem State.farWrite_ev {z : State} (s0 : State) (i off : Nat) (bs : Bytes) (hs0 : z.Evolves s0) : z.Evolves (State.farWrite s0 i off bs) := by
  unfold State.farWrite
  extract_lets +onlyGivenNames s_0
  have hs_0 : z.Evolves s_0 := by
    unfold s_0
    apply State.copyAdvance_ev; exact hs0
  clear_value s_0
  extract_lets +onlyGivenNames ks_1
  extract_lets +onlyGivenNames ws_2
  extract_lets +onlyGivenNames full_3
  extract_lets +onlyGivenNames v_4
  have hv_4 : z.Evolves v_4 := by
    unfold v_4
    refine State.Evolves.foldl ?_ ?_
    · apply State.farStore_ev; exact hs_0
    · intro v5 v6 v7
      apply State.eccClear_ev; with_reducible assumption
  clear_value v_4
  apply State.eruDelta_ev; apply State.kpuMark_ev; apply State.granulePmc_ev; exact hv_4

theorem State.farPoison_ev {z : State} (s : State) (i off n : Nat) (hs : z.Evolves s) : z.Evolves (State.farPoison s i off n) := by
  unfold State.farPoison
  apply State.poison_ev; exact hs

theorem State.retireSwitch_ev {z : State} (s : State) (ks : List Nat) (hs : z.Evolves s) : z.Evolves (State.retireSwitch s ks) := by
  unfold State.retireSwitch
  refine State.Evolves.foldl hs fun t k ht => ?_
  have h1 := State.fsat_ev _ R.FMC_STATUS F.FMC_STATUS_retired_count 1 (State.fs_ev _ (R.FMC_STK_STATUS k) F.FMC_STK_STATUS_retire_state 4 ht)
  exact State.log_ev _ _ _ _ _ (h1.mk_same rfl rfl rfl rfl)

theorem State.setRefresh_ev {z : State} (s : State) (core layer rate : Nat) (hs : z.Evolves s) : z.Evolves (State.setRefresh s core layer rate) := by
  unfold State.setRefresh
  extract_lets +onlyGivenNames reg_0
  extract_lets +onlyGivenNames old_1
  extract_lets +onlyGivenNames t_2
  have ht_2 : z.Evolves t_2 := by
    unfold t_2
    apply State.fs_ev; exact hs
  clear_value t_2
  split
  · refine State.Evolves.foldl ?_ ?_
    · exact ht_2
    · intro v3 v4 v5
      extract_lets +onlyGivenNames chn_6
      refine State.Evolves.mk_same ?_ rfl rfl rfl rfl
      with_reducible assumption
  · exact ht_2

theorem execPatrolScrub_ev {z : State} (tier addr : Nat) (_newer : Bool) (s : State) (hs : z.Evolves s) : Later z (execPatrolScrub tier addr _newer s) := by
  unfold execPatrolScrub
  extract_lets +onlyGivenNames w_0
  extract_lets +onlyGivenNames go_1
  split
  · refine Later.occurs ?_ ?_
    · exact hs
    · apply State.eccRead_ev; apply State.take_ev; exact hs
  · refine Later.occurs ?_ ?_
    · exact hs
    · apply State.eccRead_ev; exact hs

theorem State.marginStart_ev {z : State} (s : State) (hs : z.Evolves s) : z.Evolves (State.marginStart s) := by
  unfold State.marginStart
  extract_lets +onlyGivenNames c_0
  split
  · extract_lets +onlyGivenNames w1
    have hw1 : z.Evolves w1 := by
      unfold w1
      apply State.fs_ev; apply State.fs_ev; exact hs
    clear_value w1
    refine State.Evolves.mk_same ?_ rfl rfl rfl rfl
    exact hw1
  · apply State.fs_ev; apply State.fs_ev; apply State.fs_ev; apply State.fs_ev; apply State.fs_ev; exact hs

theorem execMarginStart_ev {z : State} (port : Nat) (s : State) (hs : z.Evolves s) : Later z (execMarginStart port s) := by
  unfold execMarginStart
  refine Later.occurs ?_ ?_
  · exact hs
  · apply State.marginStart_ev; exact hs

theorem execClearRetire_ev {z : State} (port k : Nat) (s : State) (hs : z.Evolves s) : Later z (execClearRetire port k s) := by
  unfold execClearRetire
  refine Later.occurs ?_ ?_
  · exact hs
  · apply State.fs_ev; exact hs

theorem execMemClearCounts_ev {z : State} (port core : Nat) (s : State) (hs : z.Evolves s) : Later z (execMemClearCounts port core s) := by
  unfold execMemClearCounts
  refine Later.occurs ?_ ?_
  · exact hs
  · apply State.zeroRegs_ev; exact hs

theorem execFmcClearCounts_ev {z : State} (port : Nat) (s : State) (hs : z.Evolves s) : Later z (execFmcClearCounts port s) := by
  unfold execFmcClearCounts
  refine Later.occurs ?_ ?_
  · exact hs
  · apply State.zeroRegs_ev; exact hs

theorem State.refill_ev {z : State} (s : State) (hs : z.Evolves s) : z.Evolves (State.refill s) := by
  unfold State.refill
  extract_lets +onlyGivenNames keys_0
  extract_lets +onlyGivenNames ctr_1
  extract_lets +onlyGivenNames pool_2
  refine State.Evolves.mk_same ?_ rfl rfl rfl rfl
  exact hs

theorem State.charge_ev {z : State} (s0 : State) (a res inst n : Nat) (hs0 : z.Evolves s0) : z.Evolves (State.charge s0 a res inst n) := by
  unfold State.charge
  extract_lets +onlyGivenNames s_0
  have hs_0 : z.Evolves s_0 := by
    unfold s_0
    split
    · apply State.pmc_ev; exact hs0
    · exact hs0
  clear_value s_0
  extract_lets +onlyGivenNames k_1
  extract_lets +onlyGivenNames c_2
  split
  · refine State.Evolves.mk_same ?_ rfl rfl rfl rfl
    exact hs_0
  · refine State.Evolves.mk_same ?_ rfl rfl rfl rfl
    exact hs_0

theorem State.chargeAll_ev {z : State} (s : State) (a : Nat) (cs : List (Nat × Nat × Nat)) (hs : z.Evolves s) : z.Evolves (State.chargeAll s a cs) := by
  unfold State.chargeAll
  refine State.Evolves.foldl ?_ ?_
  · exact hs
  · intro v0 v1 v2
    apply State.charge_ev; with_reducible assumption

theorem State.takeAll_ev {z : State} (s : State) (a : Nat) (cs : List (Nat × Nat × Nat)) (hs : z.Evolves s) : z.Evolves (State.takeAll s a cs) := by
  unfold State.takeAll
  refine State.Evolves.foldl ?_ ?_
  · exact hs
  · intro v0 v1 v2
    apply State.take_ev; with_reducible assumption

theorem State.gate_ev {z : State} (s : State) (a res inst : Nat) (hs : z.Evolves s) : z.Evolves (State.gate s a res inst) := by
  unfold State.gate
  extract_lets +onlyGivenNames k_0
  extract_lets +onlyGivenNames c_1
  extract_lets +onlyGivenNames t_2
  extract_lets +onlyGivenNames t_3
  have ht_3 : z.Evolves t_3 := by
    unfold t_3
    refine State.Evolves.mk_same ?_ rfl rfl rfl rfl
    exact hs
  clear_value t_3
  extract_lets +onlyGivenNames u_4
  have hu_4 : z.Evolves u_4 := by
    unfold u_4
    apply State.fs_ev; exact ht_3
  clear_value u_4
  split
  · apply State.fs_ev; exact hu_4
  · exact hu_4

theorem execBudgetExhausted_ev {z : State} (a res inst : Nat) (s : State) (hs : z.Evolves s) : Later z (execBudgetExhausted a res inst s) := by
  unfold execBudgetExhausted
  extract_lets +onlyGivenNames need_0
  refine Later.occurs ?_ ?_
  · exact hs
  · apply State.gate_ev; exact hs

theorem execBudClearCounts_ev {z : State} (port : Nat) (s : State) (hs : z.Evolves s) : Later z (execBudClearCounts port s) := by
  unfold execBudClearCounts
  refine Later.occurs ?_ ?_
  · exact hs
  · apply State.fs_ev
    refine State.Evolves.mk_same ?_ rfl rfl rfl rfl
    exact hs

theorem State.setAct_ev {z : State} (s : State) (a st : Nat) (hs : z.Evolves s) : z.Evolves (State.setAct s a st) := by
  unfold State.setAct
  split
  · exact hs
  · apply State.fs_ev; exact hs

theorem State.setCtx_ev {z : State} (s : State) (x st : Nat) (hs : z.Evolves s) : z.Evolves (State.setCtx s x st) := by
  unfold State.setCtx
  apply State.fs_ev; exact hs

theorem State.modCtx_ev {z : State} (s : State) (x : Nat) (f : CtxSt → CtxSt) (hs : z.Evolves s) : z.Evolves (State.modCtx s x f) := by
  unfold State.modCtx
  refine State.Evolves.mk_same ?_ rfl rfl rfl rfl
  exact hs

theorem State.cmdsEnd_ev {z : State} (s : State) (which : CmdSt → Bool) (code : Nat) (res : List Word) (hs : z.Evolves s) : z.Evolves (State.cmdsEnd s which code res) := by
  unfold State.cmdsEnd
  refine State.Evolves.foldl ?_ ?_
  · exact hs
  · intro v0 v1 v2
    split
    · split
      · refine State.Evolves.mk_same ?_ rfl rfl rfl rfl
        with_reducible assumption
      · with_reducible assumption
    · with_reducible assumption

theorem State.cmdEnds_ev {z : State} (s : State) (op code : Nat) (res : List Word) (hs : z.Evolves s) : z.Evolves (State.cmdEnds s op code res) := by
  unfold State.cmdEnds
  apply State.cmdsEnd_ev; exact hs

theorem State.dieResetEnds_ev {z : State} (s : State) (d code : Nat) (hs : z.Evolves s) : z.Evolves (State.dieResetEnds s d code) := by
  unfold State.dieResetEnds
  apply State.cmdsEnd_ev; exact hs

theorem State.setQueue_ev {z : State} (s : State) (core u : Nat) (q : List QIns) (hs : z.Evolves s) : z.Evolves (State.setQueue s core u q) := by
  unfold State.setQueue
  refine State.Evolves.mk_same ?_ rfl rfl rfl rfl
  exact hs

theorem State.setRunning_ev {z : State} (s : State) (core u : Nat) (q : Option QIns) (hs : z.Evolves s) : z.Evolves (State.setRunning s core u q) := by
  unfold State.setRunning
  refine State.Evolves.mk_same ?_ rfl rfl rfl rfl
  exact hs

theorem State.owe_ev {z : State} (s : State) (core slot res inst n row : Nat) (hs : z.Evolves s) : z.Evolves (State.owe s core slot res inst n row) := by
  unfold State.owe
  split
  · apply State.setRunning_ev; exact hs
  · exact hs

theorem State.endsWith_ev {z : State} (s : State) (core slot code : Nat) (hs : z.Evolves s) : z.Evolves (State.endsWith s core slot code) := by
  unfold State.endsWith
  split
  · apply State.setRunning_ev; exact hs
  · exact hs

theorem State.dropQueued_ev {z : State} (s : State) (x : Nat) (hs : z.Evolves s) : z.Evolves (State.dropQueued s x) := by
  unfold State.dropQueued
  refine State.Evolves.foldl ?_ ?_
  · exact hs
  · intro v0 v1 v2
    apply State.setQueue_ev; with_reducible assumption

theorem State.actSettle_ev {z : State} (s : State) (a : Nat) (hs : z.Evolves s) : z.Evolves (State.actSettle s a) := by
  unfold State.actSettle
  split
  · exact hs
  · extract_lets +onlyGivenNames xs_0
    split
    · apply State.setAct_ev; exact hs
    · split
      · apply State.setAct_ev; exact hs
      · exact hs

theorem State.stopCtx_ev {z : State} (s : State) (x code : Nat) (hs : z.Evolves s) : z.Evolves (State.stopCtx s x code) := by
  unfold State.stopCtx
  extract_lets +onlyGivenNames t_0
  have ht_0 : z.Evolves t_0 := by
    unfold t_0
    apply State.dropQueued_ev; apply State.fs_ev; apply State.setCtx_ev; exact hs
  clear_value t_0
  apply State.actSettle_ev; apply State.log_ev; exact ht_0

theorem State.haltCtx_ev {z : State} (s : State) (x code : Nat) (hs : z.Evolves s) : z.Evolves (State.haltCtx s x code) := by
  unfold State.haltCtx
  split
  · exact hs
  · apply State.dropQueued_ev; apply State.fs_ev; apply State.setCtx_ev; exact hs

theorem State.faultAct_ev {z : State} (s : State) (a : Nat) (hs : z.Evolves s) : z.Evolves (State.faultAct s a) := by
  unfold State.faultAct
  split
  · exact hs
  · apply State.setAct_ev; exact hs

theorem State.faultActs_ev {z : State} (s : State) (p : Nat → Bool) (hs : z.Evolves s) : z.Evolves (State.faultActs s p) := by
  unfold State.faultActs
  refine State.Evolves.foldl ?_ ?_
  · exact hs
  · intro v0 v1 v2
    apply State.faultAct_ev; with_reducible assumption

theorem State.applyRecheck_ev {z : State} (s : State) (hs : z.Evolves s) : z.Evolves (State.applyRecheck s) := by
  unfold State.applyRecheck
  split
  · split
    · refine State.Evolves.mk_same ?_ rfl rfl rfl rfl
      exact hs
    · refine State.Evolves.mk_same ?_ rfl rfl rfl rfl
      exact hs
  · exact hs

theorem State.coreFailed_ev {z : State} (s : State) (core : Nat) (hs : z.Evolves s) : z.Evolves (State.coreFailed s core) := by
  unfold State.coreFailed
  extract_lets +onlyGivenNames t_0
  have ht_0 : z.Evolves t_0 := by
    unfold t_0
    apply State.fs_ev; exact hs
  clear_value t_0
  extract_lets +onlyGivenNames u_1
  have hu_1 : z.Evolves u_1 := by
    unfold u_1
    refine State.Evolves.foldl ?_ ?_
    · exact ht_0
    · intro v2 v3 v4
      split
      · with_reducible assumption
      · apply State.haltCtx_ev; with_reducible assumption
  clear_value u_1
  apply State.applyRecheck_ev; apply State.faultActs_ev; exact hu_1

theorem State.startCtx_ev {z : State} (s : State) (x : Nat) (hs : z.Evolves s) : z.Evolves (State.startCtx s x) := by
  unfold State.startCtx
  split
  · exact hs
  · extract_lets +onlyGivenNames t_0
    have ht_0 : z.Evolves t_0 := by
      unfold t_0
      apply State.fs_ev; apply State.fs_ev; exact hs
    clear_value t_0
    apply State.modCtx_ev; exact ht_0

theorem State.cntAdd_ev {z : State} (s : State) (core j v : Nat) (hs : z.Evolves s) : z.Evolves (State.cntAdd s core j v) := by
  unfold State.cntAdd
  extract_lets +onlyGivenNames n_0
  split
  · apply State.fs_ev; exact hs
  · apply State.raise_ev; apply State.fs_ev; exact hs

theorem State.farRelease_ev {z : State} (s : State) (core j : Nat) (hs : z.Evolves s) : z.Evolves (State.farRelease s core j) := by
  unfold State.farRelease
  extract_lets +onlyGivenNames ports_0
  clear_value ports_0
  split
  · exact hs
  · extract_lets +onlyGivenNames v_1
    extract_lets +onlyGivenNames w2
    have hw2 : z.Evolves w2 := by
      unfold w2
      apply State.fs_ev; exact hs
    clear_value w2
    refine State.Evolves.mk_same ?_ rfl rfl rfl rfl
    exact hw2

theorem State.haunoWatch_ev {z : State} (s : State) (core j old : Nat) (hs : z.Evolves s) : z.Evolves (State.haunoWatch s core j old) := by
  unfold State.haunoWatch
  refine State.Evolves.foldl ?_ ?_
  · exact hs
  · intro v0 v1 v2
    refine State.Evolves.foldl ?_ ?_
    · with_reducible assumption
    · intro v3 v4 v5
      extract_lets +onlyGivenNames r_6
      split
      · apply State.haunoEvent_ev; with_reducible assumption
      · with_reducible assumption

theorem State.cntBump_ev {z : State} (s : State) (core j v : Nat) (hs : z.Evolves s) : z.Evolves (State.cntBump s core j v) := by
  unfold State.cntBump
  extract_lets +onlyGivenNames old_0
  apply State.farRelease_ev; apply State.haunoWatch_ev; apply State.cntAdd_ev; exact hs

theorem State.ringFill_ev {z : State} (s : State) (id : Nat) (hs : z.Evolves s) : z.Evolves (State.ringFill s id) := by
  unfold State.ringFill
  split
  · refine State.Evolves.mk_same ?_ rfl rfl rfl rfl
    exact hs
  · exact hs

theorem State.slotComplete_ev {z : State} (s : State) (id : Nat) (hs : z.Evolves s) : z.Evolves (State.slotComplete s id) := by
  unfold State.slotComplete
  split
  · extract_lets +onlyGivenNames t_0
    extract_lets +onlyGivenNames t_1
    have ht_1 : z.Evolves t_1 := by
      unfold t_1
      refine State.Evolves.mk_same ?_ rfl rfl rfl rfl
      exact hs
    clear_value t_1
    apply State.cntBump_ev; apply State.fs_ev; exact ht_1
  · exact hs

theorem execRingSlotComplete_ev {z : State} (core ring : Nat) (s : State) (hs : z.Evolves s) : Later z (execRingSlotComplete core ring s) := by
  unfold execRingSlotComplete
  refine Later.occurs ?_ ?_
  · exact hs
  · apply State.slotComplete_ev; exact hs

theorem State.setStaging_ev {z : State} (s : State) (n : Nat) (l : List (Word × Bool)) (hs : z.Evolves s) : z.Evolves (State.setStaging s n l) := by
  unfold State.setStaging
  refine State.Evolves.mk_same ?_ rfl rfl rfl rfl
  exact hs

theorem State.setPlain_ev {z : State} (s : State) (n : Nat) (l : List Word) (hs : z.Evolves s) : z.Evolves (State.setPlain s n l) := by
  unfold State.setPlain
  refine State.Evolves.mk_same ?_ rfl rfl rfl rfl
  exact hs

theorem State.streamDrop_ev {z : State} (s : State) (n : Nat) (hs : z.Evolves s) : z.Evolves (State.streamDrop s n) := by
  unfold State.streamDrop
  apply State.fsat_ev; exact hs

theorem State.streamVector_ev {z : State} (s : State) (port v : Nat) (hs : z.Evolves s) : z.Evolves (State.streamVector s port v) := by
  unfold State.streamVector
  extract_lets +onlyGivenNames k_0
  extract_lets +onlyGivenNames w_1
  extract_lets +onlyGivenNames busy_2
  split
  · refine State.Evolves.mk_same ?_ rfl rfl rfl rfl
    exact hs
  · extract_lets +onlyGivenNames t_3
    have ht_3 : z.Evolves t_3 := by
      unfold t_3
      apply State.msixNow_ev; exact hs
    clear_value t_3
    refine State.Evolves.mk_same ?_ rfl rfl rfl rfl
    exact ht_3

theorem State.streamNotify_ev {z : State} (old new : State) (hold : z.Evolves old) (hnew : z.Evolves new) : z.Evolves (State.streamNotify old new) := by
  unfold State.streamNotify
  refine State.Evolves.foldl ?_ ?_
  · exact hnew
  · intro v0 v1 v2
    extract_lets +onlyGivenNames w_3
    split
    · refine State.Evolves.foldl ?_ ?_
      · with_reducible assumption
      · intro v4 v5 v6
        split
        · apply State.streamVector_ev; with_reducible assumption
        · with_reducible assumption
    · with_reducible assumption

theorem State.sealOut_ev {z : State} (s : State) (port chan : Nat) (ws : List Word) (hs : z.Evolves s) : z.Evolves (State.sealOut s port chan ws).2 := by
  unfold State.sealOut
  split
  · extract_lets +onlyGivenNames r_0
    dsimp only
    refine State.Evolves.mk_same ?_ rfl rfl rfl rfl
    exact hs
  · with_reducible assumption

theorem State.fillOut_ev {z : State} (s : State) (n : Nat) (hs : z.Evolves s) : z.Evolves (State.fillOut s n) := by
  unfold State.fillOut
  extract_lets +onlyGivenNames k_0
  split
  · exact hs
  · apply State.setPlain_ev; apply State.setStaging_ev; exact hs

theorem State.putOut_ev {z : State} (s : State) (n chan : Nat) (ws : List Word) (hs : z.Evolves s) : z.Evolves (State.putOut s n chan ws) := by
  unfold State.putOut
  extract_lets +onlyGivenNames r_0
  have hr_0 : z.Evolves r_0.2 := by
    unfold r_0
    apply State.sealOut_ev; exact hs
  clear_value r_0
  apply State.fillOut_ev; apply State.setPlain_ev; exact hr_0

theorem State.descEcc_ev {z : State} (s : State) (core : Nat) (d : Desc) (along : Bool) (hs : z.Evolves s) : z.Evolves (State.descEcc s core d along).1 := by
  unfold State.descEcc
  extract_lets one t
  have h1 : ∀ (acc : State × Bool) a n, z.Evolves acc.1 → z.Evolves (one acc a n).1 := fun acc a n ha => State.eccRead_ev _ _ _ ha
  have ht : z.Evolves t.1 := .foldl_fst (f := fun acc r => one acc (d.base + r * d.stride) (packedRow d.fmt d.cols)) hs fun t y x ht => h1 (t, y) _ _ ht
  split
  · exact .foldl_fst (f := fun acc r => one acc (d.scaleBase + r * d.scaleStride) (d.scaleShape along).2) ht fun t y x ht => h1 (t, y) _ _ ht
  · exact ht

theorem State.writeRow_ev {z : State} (s : State) (core base stride b r : Nat) (xs : List Nat) (hs : z.Evolves s) : z.Evolves (State.writeRow s core base stride b r xs) := by
  unfold State.writeRow
  apply State.sramWrite_ev; exact hs

end Machine
end Sys2Proof
end

