-- ==== Sys2Proof/Laws/EvolveUnits.lean ====
section
/-!
SUPPORT. The operations of the sequencers, their units and the Selvage ports lead to later states (`State.Evolves`): one lemma for each.
-/
namespace Sys2Proof
namespace Machine
set_option Elab.async false

theorem State.waitClocks_ev {z : State} (s : State) (n : Nat) (hs : z.Evolves s) : z.Evolves (State.waitClocks s n) := by
  unfold State.waitClocks
  refine State.Evolves.mk_same ?_ rfl rfl rfl rfl
  exact hs

theorem State.issued_ev {z : State} (s : State) (x : Nat) (hs : z.Evolves s) : z.Evolves (State.issued s x) := by
  unfold State.issued
  extract_lets +onlyGivenNames core_0
  extract_lets +onlyGivenNames u_1
  have hu_1 : z.Evolves u_1 := by
    unfold u_1
    apply State.modCtx_ev; exact hs
  clear_value u_1
  apply State.pmc_ev
  extract_lets +onlyGivenNames w2
  have hw2 : z.Evolves w2 := by
    unfold w2
    apply State.setCtx_ev; exact hu_1
  clear_value w2
  refine State.Evolves.mk_same ?_ rfl rfl rfl rfl
  exact hw2

theorem State.advance_ev {z : State} (s : State) (x : Nat) (hs : z.Evolves s) : z.Evolves (State.advance s x) := by
  unfold State.advance
  extract_lets +onlyGivenNames r_0
  apply State.fs_ev; apply State.modCtx_ev; exact hs

theorem State.branch_ev {z : State} (s : State) (x target : Nat) (hs : z.Evolves s) : z.Evolves (State.branch s x target) := by
  unfold State.branch
  apply State.fs_ev; apply State.modCtx_ev; exact hs

theorem State.block_ev {z : State} (s : State) (x : Nat) (hs : z.Evolves s) : z.Evolves (State.block s x) := by
  unfold State.block
  apply State.setCtx_ev; exact hs

theorem seqIssue_ev {z : State} (core ctx op : Nat) (f : State → Nat → Nat → State) (s : State) (hs : z.Evolves s) (hf : ∀ y0 y1 y2, z.Evolves y0 → z.Evolves (f y0 y1 y2)) : Later z (seqIssue core ctx op f s) := by
  unfold seqIssue
  extract_lets +onlyGivenNames x_0
  refine Later.occurs ?_ ?_
  · exact hs
  · apply hf; apply State.issued_ev; exact hs

theorem State.enqueue_ev {z : State} (s : State) (x : Nat) (hs : z.Evolves s) : z.Evolves (State.enqueue s x) := by
  unfold State.enqueue
  extract_lets +onlyGivenNames core_0
  extract_lets +onlyGivenNames w_1
  split
  · extract_lets +onlyGivenNames q_2
    extract_lets +onlyGivenNames t_3
    have ht_3 : z.Evolves t_3 := by
      unfold t_3
      apply State.setQueue_ev; apply State.issued_ev; exact hs
    clear_value t_3
    apply State.advance_ev
    refine State.Evolves.mk_same ?_ rfl rfl rfl rfl
    exact ht_3
  · apply State.block_ev; exact hs

theorem unitIssue_ev {z : State} (core ctx op : Nat) (s : State) (hs : z.Evolves s) : Later z (unitIssue core ctx op s) := by
  unfold unitIssue
  extract_lets +onlyGivenNames x_0
  extract_lets +onlyGivenNames w_1
  split
  · refine Later.next ?_
    apply State.block_ev; exact hs
  · refine Later.occurs ?_ ?_
    · exact hs
    · apply State.enqueue_ev; exact hs

theorem execNop_ev {z : State} (core ctx : Nat) (s : State) (hs : z.Evolves s) : Later z (execNop core ctx s) := by
  unfold execNop
  apply seqIssue_ev
  · exact hs
  · intro v0 v1 v2 v3
    apply State.advance_ev; with_reducible assumption

theorem execTdset_ev {z : State} (core ctx : Nat) (s : State) (hs : z.Evolves s) : Later z (execTdset core ctx s) := by
  unfold execTdset
  apply seqIssue_ev
  · exact hs
  · intro v0 v1 v2 v3
    apply State.advance_ev; apply State.modCtx_ev; with_reducible assumption

theorem execBld_ev {z : State} (core ctx : Nat) (s : State) (hs : z.Evolves s) : Later z (execBld core ctx s) := by
  unfold execBld
  apply unitIssue_ev; exact hs

theorem execBst_ev {z : State} (core ctx : Nat) (s : State) (hs : z.Evolves s) : Later z (execBst core ctx s) := by
  unfold execBst
  apply unitIssue_ev; exact hs

theorem execXld_ev {z : State} (core ctx : Nat) (s : State) (hs : z.Evolves s) : Later z (execXld core ctx s) := by
  unfold execXld
  apply unitIssue_ev; exact hs

theorem execXst_ev {z : State} (core ctx : Nat) (s : State) (hs : z.Evolves s) : Later z (execXst core ctx s) := by
  unfold execXst
  apply unitIssue_ev; exact hs

theorem execMma_ev {z : State} (core ctx : Nat) (s : State) (hs : z.Evolves s) : Later z (execMma core ctx s) := by
  unfold execMma
  apply unitIssue_ev; exact hs

theorem execVop_ev {z : State} (core ctx : Nat) (s : State) (hs : z.Evolves s) : Later z (execVop core ctx s) := by
  unfold execVop
  apply unitIssue_ev; exact hs

theorem execRsend_ev {z : State} (core ctx : Nat) (s : State) (hs : z.Evolves s) : Later z (execRsend core ctx s) := by
  unfold execRsend
  apply unitIssue_ev; exact hs

theorem execSout_ev {z : State} (core ctx : Nat) (s : State) (hs : z.Evolves s) : Later z (execSout core ctx s) := by
  unfold execSout
  apply unitIssue_ev; exact hs

theorem execJst_ev {z : State} (core ctx : Nat) (s : State) (hs : z.Evolves s) : Later z (execJst core ctx s) := by
  unfold execJst
  apply unitIssue_ev; exact hs

theorem execJld_ev {z : State} (core ctx : Nat) (s : State) (hs : z.Evolves s) : Later z (execJld core ctx s) := by
  unfold execJld
  apply unitIssue_ev; exact hs

theorem execJat_ev {z : State} (core ctx : Nat) (s : State) (hs : z.Evolves s) : Later z (execJat core ctx s) := by
  unfold execJat
  apply unitIssue_ev; exact hs

theorem execFence_ev {z : State} (core ctx : Nat) (s : State) (hs : z.Evolves s) : Later z (execFence core ctx s) := by
  unfold execFence
  apply unitIssue_ev; exact hs

theorem State.rrel_ev {z : State} (s : State) (x id : Nat) (hs : z.Evolves s) : z.Evolves (State.rrel s x id) := by
  unfold State.rrel
  split
  · split
    · apply State.stopCtx_ev; exact hs
    · extract_lets +onlyGivenNames t_0
      have ht_0 : z.Evolves t_0 := by
        unfold t_0
        apply State.fs_ev; exact hs
      clear_value t_0
      apply State.advance_ev
      refine State.Evolves.mk_same ?_ rfl rfl rfl rfl
      exact ht_0
  · apply State.stopCtx_ev; exact hs

theorem execRrel_ev {z : State} (core ctx : Nat) (s : State) (hs : z.Evolves s) : Later z (execRrel core ctx s) := by
  unfold execRrel
  apply seqIssue_ev
  · exact hs
  · intro v0 v1 v2 v3
    apply State.streamNotify_ev
    · with_reducible assumption
    · apply State.rrel_ev; with_reducible assumption

theorem State.wait_ev {z : State} (s : State) (x w : Nat) (hs : z.Evolves s) : z.Evolves (State.wait s x w) := by
  unfold State.wait
  extract_lets +onlyGivenNames c_0
  apply State.advance_ev; apply State.fs_ev; apply State.issued_ev; exact hs

theorem execWait_ev {z : State} (core ctx : Nat) (s : State) (hs : z.Evolves s) : Later z (execWait core ctx s) := by
  unfold execWait
  extract_lets +onlyGivenNames x_0
  split
  · refine Later.next ?_
    apply State.block_ev; exact hs
  · refine Later.occurs ?_ ?_
    · exact hs
    · apply State.wait_ev; exact hs

theorem execSig_ev {z : State} (core ctx : Nat) (s : State) (hs : z.Evolves s) : Later z (execSig core ctx s) := by
  unfold execSig
  apply seqIssue_ev
  · exact hs
  · intro v0 v1 v2 v3
    apply State.advance_ev; apply State.streamNotify_ev
    · with_reducible assumption
    · apply State.cntBump_ev; with_reducible assumption

theorem execBrc_ev {z : State} (core ctx : Nat) (s : State) (hs : z.Evolves s) : Later z (execBrc core ctx s) := by
  unfold execBrc
  apply seqIssue_ev
  · exact hs
  · intro v0 v1 v2 v3
    split
    · apply State.branch_ev; with_reducible assumption
    · apply State.advance_ev; with_reducible assumption

theorem execSnap_ev {z : State} (core ctx : Nat) (s : State) (hs : z.Evolves s) : Later z (execSnap core ctx s) := by
  unfold execSnap
  apply seqIssue_ev
  · exact hs
  · intro v0 v1 v2 v3
    split
    · apply State.setCtx_ev; apply State.advance_ev; with_reducible assumption
    · apply State.advance_ev; with_reducible assumption

theorem execStep_ev {z : State} (core ctx : Nat) (s : State) (hs : z.Evolves s) : Later z (execStep core ctx s) := by
  unfold execStep
  apply seqIssue_ev
  · exact hs
  · intro v0 v1 v2 v3
    apply State.block_ev; apply State.modCtx_ev; apply State.advance_ev; with_reducible assumption

theorem execLoop_ev {z : State} (core ctx : Nat) (s : State) (hs : z.Evolves s) : Later z (execLoop core ctx s) := by
  unfold execLoop
  apply seqIssue_ev
  · exact hs
  · intro v0 v1 v2 v3
    extract_lets +onlyGivenNames pc_4
    apply State.fs_ev; apply State.modCtx_ev; with_reducible assumption

theorem execBr_ev {z : State} (core ctx : Nat) (s : State) (hs : z.Evolves s) : Later z (execBr core ctx s) := by
  unfold execBr
  apply seqIssue_ev
  · exact hs
  · intro v0 v1 v2 v3
    apply State.branch_ev; with_reducible assumption

theorem execHalt_ev {z : State} (core ctx : Nat) (s : State) (hs : z.Evolves s) : Later z (execHalt core ctx s) := by
  unfold execHalt
  apply seqIssue_ev
  · exact hs
  · intro v0 v1 v2 v3
    apply State.actSettle_ev; apply State.setCtx_ev; with_reducible assumption

theorem execColl_ev {z : State} (core ctx : Nat) (s : State) (hs : z.Evolves s) : Later z (execColl core ctx s) := by
  unfold execColl
  apply unitIssue_ev; exact hs

theorem State.testStep_ev {z : State} (s : State) (core : Nat) (hs : z.Evolves s) : z.Evolves (State.testStep s core) := by
  unfold State.testStep
  refine State.Evolves.foldl ?_ ?_
  · exact hs
  · intro v0 v1 v2
    split
    · apply State.modCtx_ev; with_reducible assumption
    · with_reducible assumption

theorem execSeqTestStep_ev {z : State} (port core : Nat) (s : State) (hs : z.Evolves s) : Later z (execSeqTestStep port core s) := by
  unfold execSeqTestStep
  refine Later.occurs ?_ ?_
  · exact hs
  · apply State.testStep_ev; exact hs

theorem execSeqClearStall_ev {z : State} (port core : Nat) (s : State) (hs : z.Evolves s) : Later z (execSeqClearStall port core s) := by
  unfold execSeqClearStall
  refine Later.occurs ?_ ?_
  · exact hs
  · apply State.zeroRegs_ev; exact hs

theorem execArrClearCounts_ev {z : State} (port core : Nat) (s : State) (hs : z.Evolves s) : Later z (execArrClearCounts port core s) := by
  unfold execArrClearCounts
  extract_lets +onlyGivenNames d_0
  extract_lets +onlyGivenNames c_1
  refine Later.occurs ?_ ?_
  · exact hs
  · apply State.zeroRegs_ev; exact hs

theorem execArrCanaryNow_ev {z : State} (port core : Nat) (s : State) (hs : z.Evolves s) : Later z (execArrCanaryNow port core s) := by
  unfold execArrCanaryNow
  refine Later.occurs ?_ ?_
  · exact hs
  · apply State.fs_ev; apply State.fs_ev; exact hs

theorem execArrInjectArm_ev {z : State} (port core bt column : Nat) (s : State) (hs : z.Evolves s) : Later z (execArrInjectArm port core bt column s) := by
  unfold execArrInjectArm
  extract_lets +onlyGivenNames r_0
  refine Later.occurs ?_ ?_
  · exact hs
  · apply State.fs_ev; apply State.fs_ev; apply State.fs_ev; exact hs

theorem State.pass_ev {z : State} (s : State) (n : Nat) (hs : z.Evolves s) : z.Evolves (State.pass s n) := by
  unfold State.pass
  have hq := State.aclkClocks_ev _ n (State.pmcClocks_ev _ n (State.waitClocks_ev s n (State.Evolves.refl s)))
  generalize ((s.waitClocks n).pmcClocks n).aclkClocks n = c at hq ⊢
  have hz : z.Evolves { c with now := s.now + n } :=
    hs.trans ⟨hq.canon, hq.queue, Nat.le_add_right _ _, hq.sent, hq.free, hq.random, hq.logged, hq.part, hq.rollback, hq.transfers⟩
  extract_lets c' w t
  have ht : z.Evolves t := hz.mk_same rfl rfl rfl rfl
  split
  · exact State.countN_ev _ _ _ ht
  · exact ht

theorem State.runTo_ev {z : State} (s : State) (t : Nat) (hs : z.Evolves s) : z.Evolves (State.runTo s t) := by
  unfold State.runTo
  apply State.pass_ev; exact hs

theorem State.runToRack_ev {z : State} (s : State) (r : Nat) (hs : z.Evolves s) : z.Evolves (State.runToRack s r) := by
  unfold State.runToRack
  extract_lets +onlyGivenNames t_0
  have ht_0 : z.Evolves t_0 := by
    unfold t_0
    apply State.pass_ev; exact hs
  clear_value t_0
  extract_lets +onlyGivenNames u_1
  have hu_1 : z.Evolves u_1 := by
    unfold u_1
    apply State.pass_ev; exact ht_0
  clear_value u_1
  extract_lets +onlyGivenNames v_2
  have hv_2 : z.Evolves v_2 := by
    unfold v_2
    apply State.pass_ev; exact hu_1
  clear_value v_2
  apply State.pass_ev; exact hv_2

theorem State.retireCopyDone_ev {z : State} (s : State) (k : Nat) (hs : z.Evolves s) : z.Evolves (State.retireCopyDone s k) := by
  unfold State.retireCopyDone
  extract_lets +onlyGivenNames b_0
  extract_lets +onlyGivenNames t_1
  have ht_1 : z.Evolves t_1 := by
    unfold t_1
    apply State.copyTo_ev; apply State.runTo_ev; exact hs
  clear_value t_1
  extract_lets +onlyGivenNames u_2
  extract_lets +onlyGivenNames u_3
  have hu_3 : z.Evolves u_3 := by
    unfold u_3
    apply State.fs_ev
    refine State.Evolves.mk_same ?_ rfl rfl rfl rfl
    exact ht_1
  clear_value u_3
  apply State.fs_ev; exact hu_3

theorem execRetireCopyDone_ev {z : State} (k : Nat) (s : State) (hs : z.Evolves s) : Later z (execRetireCopyDone k s) := by
  unfold execRetireCopyDone
  refine Later.occurs ?_ ?_
  · exact hs
  · apply State.retireCopyDone_ev; exact hs

theorem execFmcErrorWindow_ev {z : State} (k ch : Nat) (s : State) (hs : z.Evolves s) : Later z (execFmcErrorWindow k ch s) := by
  unfold execFmcErrorWindow
  extract_lets +onlyGivenNames e_0
  extract_lets +onlyGivenNames t_1
  have ht_1 : z.Evolves t_1 := by
    unfold t_1
    apply State.runTo_ev; exact hs
  clear_value t_1
  refine Later.occurs ?_ ?_
  · exact hs
  · apply State.fs_ev
    refine State.Evolves.mk_same ?_ rfl rfl rfl rfl
    exact ht_1

theorem execDramRefresh_ev {z : State} (chn : Nat) (s : State) (hs : z.Evolves s) : Later z (execDramRefresh chn s) := by
  unfold execDramRefresh
  extract_lets +onlyGivenNames due_0
  extract_lets +onlyGivenNames t_1
  have ht_1 : z.Evolves t_1 := by
    unfold t_1
    apply State.runTo_ev; exact hs
  clear_value t_1
  refine Later.occurs ?_ ?_
  · exact hs
  · refine State.Evolves.mk_same ?_ rfl rfl rfl rfl
    exact ht_1

theorem execMarginDone_ev {z : State} (errors firstLine : Nat) (s : State) (hs : z.Evolves s) : Later z (execMarginDone errors firstLine s) := by
  unfold execMarginDone
  split
  · refine Later.next ?_
    exact hs
  · extract_lets +onlyGivenNames g_0
    extract_lets +onlyGivenNames n_1
    extract_lets +onlyGivenNames lo_2
    extract_lets +onlyGivenNames hi_3
    extract_lets +onlyGivenNames t_4
    have ht_4 : z.Evolves t_4 := by
      unfold t_4
      apply State.fs_ev; apply State.fs_ev; apply State.fs_ev; apply State.fs_ev; apply State.fs_ev; apply State.runTo_ev; exact hs
    clear_value t_4
    extract_lets +onlyGivenNames u_5
    have hu_5 : z.Evolves u_5 := by
      unfold u_5
      apply State.eccClear_ev; exact ht_4
    clear_value u_5
    refine Later.next ?_
    refine State.Evolves.mk_any ?_ ?_ ?_ ?_ ?_ ?_ ?_ ?_ ?_ ?_ ?_ ?_
    · exact hu_5
    · exact id
    · exact fun e => rising_filter e _
    · exact id
    · exact Nat.le_refl _
    · rfl
    · exact Nat.le_refl _
    · exact Nat.le_refl _
    · exact Nat.le_refl _
    · rfl
    · exact Nat.le_refl _
    · exact Nat.le_refl _

theorem State.putElem_ev {z : State} (s : State) (core base stride b r c v : Nat) (hs : z.Evolves s) : z.Evolves (State.putElem s core base stride b r c v) := by
  unfold State.putElem
  extract_lets +onlyGivenNames lo_0
  extract_lets +onlyGivenNames off_1
  extract_lets +onlyGivenNames n_2
  apply State.sramWrite_ev; exact hs

theorem State.putFold_ev {z : State} (s : State) (core : Nat) (c : Desc) (b : Nat) (mul add : Nat) (fold : Nat × Nat × List (List Nat)) (hs : z.Evolves s) : z.Evolves (State.putFold s core c b mul add fold) := by
  unfold State.putFold
  refine State.Evolves.foldl ?_ ?_
  · exact hs
  · intro v0 v1 v2
    extract_lets +onlyGivenNames r_3
    split
    · apply State.sramWrite_ev; with_reducible assumption
    · refine State.Evolves.foldl ?_ ?_
      · with_reducible assumption
      · intro v4 v5 v6
        extract_lets +onlyGivenNames col_7
        split
        · apply State.putElem_ev; with_reducible assumption
        · apply State.putElem_ev; with_reducible assumption

theorem State.putTiles_ev {z : State} (s : State) (core : Nat) (c : Desc) (out : Nat) (complex : Bool) (o : MmaOut) (hs : z.Evolves s) : z.Evolves (State.putTiles s core c out complex o) := by
  unfold State.putTiles
  extract_lets +onlyGivenNames b_0
  extract_lets +onlyGivenNames m_1
  extract_lets +onlyGivenNames t_2
  have ht_2 : z.Evolves t_2 := by
    unfold t_2
    refine State.Evolves.foldl ?_ ?_
    · exact hs
    · intro v3 v4 v5
      apply State.putFold_ev; with_reducible assumption
  clear_value t_2
  split
  · refine State.Evolves.foldl ?_ ?_
    · exact ht_2
    · intro v6 v7 v8
      apply State.putFold_ev; with_reducible assumption
  · exact ht_2

theorem State.addCounts_ev {z : State} (s : State) (core : Nat) (n : MmaCnt) (hs : z.Evolves s) : z.Evolves (State.addCounts s core n) := by
  unfold State.addCounts
  extract_lets +onlyGivenNames d_0
  extract_lets +onlyGivenNames c_1
  apply State.countN_ev; apply State.countN_ev; apply State.countN_ev; apply State.countN_ev; apply State.countN_ev; apply State.countN_ev; exact hs

theorem State.arrError_ev {z : State} (s : State) (core cause pc pass row act : Nat) (diff : Int) (hs : z.Evolves s) : z.Evolves (State.arrError s core cause pc pass row act diff) := by
  unfold State.arrError
  extract_lets +onlyGivenNames st_0
  split
  · apply State.fs_ev; exact hs
  · extract_lets +onlyGivenNames info_1
    extract_lets +onlyGivenNames t_2
    have ht_2 : z.Evolves t_2 := by
      unfold t_2
      apply State.fs_ev; apply State.fs_ev; apply State.fs_ev; apply State.fs_ev; apply State.fs_ev; apply State.fs_ev; apply State.fs_ev
      apply State.fs_ev; exact hs
    clear_value t_2
    apply State.wr_ev; apply State.fs_ev; exact ht_2

theorem State.arrFail_ev {z : State} (s : State) (core : Nat) (mine retried : Bool) (hs : z.Evolves s) : z.Evolves (State.arrFail s core mine retried) := by
  unfold State.arrFail
  extract_lets +onlyGivenNames st_0
  extract_lets +onlyGivenNames t_1
  have ht_1 : z.Evolves t_1 := by
    unfold t_1
    split
    · apply State.fs_ev; apply State.fs_ev
      split
      · apply State.fs_ev; exact hs
      · exact hs
    · exact hs
  clear_value t_1
  apply State.log_ev; apply State.coreFailed_ev; exact ht_1

theorem State.mmaPmc_ev {z : State} (s : State) (core act : Nat) (c : MmaCnt) (hold wide : Nat) (hs : z.Evolves s) : z.Evolves (State.mmaPmc s core act c hold wide) := by
  unfold State.mmaPmc
  extract_lets +onlyGivenNames a_0
  apply State.pmc_ev; apply State.pmc_ev; apply State.pmc_ev; apply State.pmc_ev; exact hs

theorem State.mmaRun_ev {z : State} (s : State) (q : QIns) (env : UnitEnv) (hs : z.Evolves s) : z.Evolves (State.mmaRun s q env).1 := by
  unfold State.mmaRun
  split
  · extract_lets +onlyGivenNames core_0
    extract_lets +onlyGivenNames d_1
    extract_lets +onlyGivenNames k_2
    extract_lets +onlyGivenNames cx_3
    extract_lets +onlyGivenNames cfg_4
    extract_lets +onlyGivenNames e1_5
    have he1_5 : z.Evolves e1_5.1 := by
      unfold e1_5
      apply State.descEcc_ev; apply State.upset_ev; exact hs
    clear_value e1_5
    extract_lets +onlyGivenNames e2_6
    have he2_6 : z.Evolves e2_6.1 := by
      unfold e2_6
      apply State.descEcc_ev; exact he1_5
    clear_value e2_6
    split
    · with_reducible assumption
    · extract_lets +onlyGivenNames x_7
      extract_lets +onlyGivenNames y_8
      extract_lets +onlyGivenNames fs_9
      extract_lets +onlyGivenNames sc_10
      extract_lets +onlyGivenNames o1_11
      extract_lets +onlyGivenNames used_12
      have hused_12 : ∀ a0 a1, z.Evolves a0 → z.Evolves (used_12 a0 a1) := by
        unfold used_12
        intro v13 v14 v15
        split
        · apply State.fs_ev; with_reducible assumption
        · with_reducible assumption
      clear_value used_12
      extract_lets +onlyGivenNames after_16
      have hafter_16 : ∀ a0 a1, z.Evolves a0 → z.Evolves (after_16 a0 a1) := by
        unfold after_16
        intro v17 v18 v19
        extract_lets +onlyGivenNames u_20
        have hu_20 : z.Evolves u_20 := by
          unfold u_20
          apply State.putTiles_ev; apply State.addCounts_ev; apply State.accTake_ev; apply hused_12; with_reducible assumption
        clear_value u_20
        extract_lets +onlyGivenNames w_21
        apply State.mmaPmc_ev; apply State.owe_ev; apply State.countN_ev; exact hu_20
      clear_value after_16
      extract_lets +onlyGivenNames t1_22
      have ht1_22 : z.Evolves t1_22 := by
        unfold t1_22
        apply hafter_16; exact he2_6
      clear_value t1_22
      extract_lets +onlyGivenNames code_23
      split
      · with_reducible assumption
      · extract_lets +onlyGivenNames mine_24
        extract_lets +onlyGivenNames t2_25
        have ht2_25 : z.Evolves t2_25 := by
          unfold t2_25
          apply State.arrError_ev; exact ht1_22
        clear_value t2_25
        split
        · extract_lets +onlyGivenNames o2_26
          extract_lets +onlyGivenNames t3_27
          have ht3_27 : z.Evolves t3_27 := by
            unfold t3_27
            apply hafter_16; exact ht2_25
          clear_value t3_27
          split
          · extract_lets +onlyGivenNames t4_28
            have ht4_28 : z.Evolves t4_28 := by
              unfold t4_28
              apply State.log_ev; apply State.count_ev; exact ht3_27
            clear_value t4_28
            dsimp only
            split
            · apply State.fs_ev; exact ht4_28
            · exact ht4_28
          · dsimp only
            apply State.arrFail_ev; exact ht3_27
        · dsimp only
          apply State.arrFail_ev; exact ht2_25
  · with_reducible assumption

theorem State.scanHead_ev {z : State} (s : State) (core : Nat) (hs : z.Evolves s) : z.Evolves (State.scanHead s core) := by
  unfold State.scanHead
  split
  · split
    · extract_lets +onlyGivenNames x_0
      refine State.Evolves.mk_same ?_ rfl rfl rfl rfl
      exact hs
    · exact hs
  · exact hs

theorem execAnchorPrescan_ev {z : State} (core : Nat) (s : State) (hs : z.Evolves s) : Later z (execAnchorPrescan core s) := by
  unfold execAnchorPrescan
  refine Later.occurs ?_ ?_
  · exact hs
  · apply State.scanHead_ev; exact hs

theorem State.fillFree_ev {z : State} (s : State) (y0 : List (Option Nat)) (hs : z.Evolves s) : z.Evolves (State.fillFree s y0).2 := by
  induction y0 generalizing s with
  | nil => exact hs
  | cons o r ih =>
    cases o with
    | some v => exact ih s hs
    | none => exact ih s.free.2 (State.free_ev hs)

theorem State.vopRun_ev {z : State} (s : State) (q : QIns) (env : UnitEnv) (hs : z.Evolves s) : z.Evolves (State.vopRun s q env).1 := by
  unfold State.vopRun
  split
  · extract_lets +onlyGivenNames core_0
    extract_lets +onlyGivenNames func_1
    extract_lets +onlyGivenNames mode_2
    extract_lets +onlyGivenNames e_3
    have he_3 : z.Evolves e_3.1 := by
      unfold e_3
      refine State.Evolves.foldl_fst ?_ ?_
      · dsimp only
        apply State.upset_ev; exact hs
      · intro v4 v5 v6 v7
        extract_lets +onlyGivenNames r_8
        have hr_8 : z.Evolves r_8.1 := by
          unfold r_8
          apply State.descEcc_ev; with_reducible assumption
        clear_value r_8
        with_reducible assumption
    clear_value e_3
    extract_lets +onlyGivenNames n_9
    extract_lets +onlyGivenNames cyc_10
    extract_lets +onlyGivenNames t_11
    have ht_11 : z.Evolves t_11 := by
      unfold t_11
      apply State.pmc_ev; apply State.owe_ev; exact he_3
    clear_value t_11
    split
    · with_reducible assumption
    · split
      · split
        · extract_lets +onlyGivenNames nums_12
          extract_lets +onlyGivenNames r_13
          have hr_13 : z.Evolves r_13.1 := by
            unfold r_13
            refine State.Evolves.foldl_fst ?_ ?_
            · with_reducible assumption
            · intro v14 v15 v16 v17
              extract_lets +onlyGivenNames v_18
              extract_lets +onlyGivenNames f_19
              have hf_19 : z.Evolves f_19.2 := by
                unfold f_19
                apply State.fillFree_ev; with_reducible assumption
              clear_value f_19
              dsimp only
              apply State.putElem_ev; exact hf_19
          clear_value r_13
          with_reducible assumption
        · with_reducible assumption
      · extract_lets +onlyGivenNames raws_20
        extract_lets +onlyGivenNames nums_21
        extract_lets +onlyGivenNames fmts_22
        dsimp only
        refine State.Evolves.foldl ?_ ?_
        · exact ht_11
        · intro v23 v24 v25
          apply State.writeRow_ev; apply State.fillFree_ev; with_reducible assumption
  · with_reducible assumption

theorem State.loadRow_ev {z : State} (s : State) (core dom : Nat) (far : Bool) (src dst n : Nat) (hs : z.Evolves s) : z.Evolves (State.loadRow s core dom far src dst n).1 := by
  unfold State.loadRow
  extract_lets +onlyGivenNames r_0
  have hr_0 : z.Evolves r_0.2.1 := by
    unfold r_0
    split
    · apply State.farRead_ev; exact hs
    · apply State.bondRead_ev; exact hs
  clear_value r_0
  extract_lets +onlyGivenNames t_1
  have ht_1 : z.Evolves t_1 := by
    unfold t_1
    apply State.sramWrite_ev; exact hr_0
  clear_value t_1
  split
  · dsimp only
    apply State.poison_ev; exact ht_1
  · with_reducible assumption

theorem State.storeRow_ev {z : State} (s : State) (core dom : Nat) (far : Bool) (src dst n : Nat) (hs : z.Evolves s) : z.Evolves (State.storeRow s core dom far src dst n).1 := by
  unfold State.storeRow
  extract_lets +onlyGivenNames r_0
  have hr_0 : z.Evolves r_0.2.1 := by
    unfold r_0
    apply State.sramRead_ev; exact hs
  clear_value r_0
  split
  · with_reducible assumption
  · dsimp only
    split
    · apply State.farWrite_ev; exact hr_0
    · apply State.bondWrite_ev; exact hr_0

theorem State.movePmc_ev {z : State} (s : State) (core act ev base stride rows n : Nat) (hs : z.Evolves s) : z.Evolves (State.movePmc s core act ev base stride rows n) := by
  unfold State.movePmc
  split
  · exact hs
  · refine State.Evolves.foldl ?_ ?_
    · exact hs
    · intro v0 v1 v2
      refine State.Evolves.foldl ?_ ?_
      · with_reducible assumption
      · intro v3 v4 v5
        apply State.pmc_ev; with_reducible assumption

theorem State.moveRun_ev {z : State} (s : State) (q : QIns) (env : UnitEnv) (hs : z.Evolves s) : z.Evolves (State.moveRun s q env).1 := by
  unfold State.moveRun
  split
  · extract_lets +onlyGivenNames w_0
    extract_lets +onlyGivenNames far_1
    extract_lets +onlyGivenNames dom_2
    extract_lets +onlyGivenNames o_3
    extract_lets +onlyGivenNames n_4
    extract_lets +onlyGivenNames bad_5
    split
    · with_reducible assumption
    · extract_lets +onlyGivenNames r_6
      have hr_6 : z.Evolves r_6.1 := by
        unfold r_6
        refine State.Evolves.foldl_fst ?_ ?_
        · dsimp only
          apply State.upset_ev; exact hs
        · intro v7 v8 v9 v10
          extract_lets +onlyGivenNames x_11
          have hx_11 : z.Evolves x_11.1 := by
            unfold x_11
            split
            · apply State.loadRow_ev; with_reducible assumption
            · apply State.storeRow_ev; with_reducible assumption
          clear_value x_11
          with_reducible assumption
      clear_value r_6
      dsimp only
      apply State.movePmc_ev; apply State.owe_ev; exact hr_6
  · with_reducible assumption

theorem State.descBytes_ev {z : State} (s : State) (core : Nat) (d : Desc) (hs : z.Evolves s) : z.Evolves (State.descBytes s core d).2.1 := by
  unfold State.descBytes
  generalize List.range d.rows = l
  have : ∀ (acc : Bytes × State × Bool), z.Evolves acc.2.1 → z.Evolves (l.foldl (fun (acc : Bytes × State × Bool) r =>
      let x := acc.2.1.sramRead core (d.base + r * d.stride) (packedRow d.fmt d.cols)
      (acc.1 ++ x.1, x.2.1, acc.2.2 || x.2.2)) acc).2.1 := by
    induction l with
    | nil => exact fun _ h => h
    | cons r l ih => exact fun acc h => ih _ (State.sramRead_ev acc.2.1 core _ _ h)
  exact this ([], s, false) hs

theorem State.rsendRun_ev {z : State} (s : State) (q : QIns) (env : UnitEnv) (hs : z.Evolves s) : z.Evolves (State.rsendRun s q env).1 := by
  unfold State.rsendRun
  split
  · extract_lets +onlyGivenNames m_0
    have hm_0 : z.Evolves m_0.2.1 := by
      unfold m_0
      apply State.descBytes_ev; apply State.upset_ev; exact hs
    clear_value m_0
    split
    · with_reducible assumption
    · dsimp only
      refine State.Evolves.foldl ?_ ?_
      · exact hm_0
      · intro v1 v2 v3
        split
        · apply State.ringFill_ev; apply State.sramWrite_ev; with_reducible assumption
        · with_reducible assumption
  · with_reducible assumption

theorem State.canary_ev {z : State} (s : State) (core main early late again : Nat) (hs : z.Evolves s) : z.Evolves (State.canary s core main early late again) := by
  unfold State.canary
  extract_lets +onlyGivenNames d_0
  extract_lets +onlyGivenNames k_1
  extract_lets +onlyGivenNames latch_2
  have hlatch_2 : ∀ a0 a1 a2 a3, z.Evolves a0 → z.Evolves (latch_2 a0 a1 a2 a3) := by
    unfold latch_2
    intro v3 v4 v5 v6 v7
    apply State.fs_ev; apply State.fs_ev; apply State.fs_ev; with_reducible assumption
  clear_value latch_2
  extract_lets +onlyGivenNames pass_8
  extract_lets +onlyGivenNames am_9
  extract_lets +onlyGivenNames ae_10
  extract_lets +onlyGivenNames al_11
  extract_lets +onlyGivenNames t_12
  have ht_12 : z.Evolves t_12 := by
    unfold t_12
    apply State.fs_ev; apply hlatch_2; exact hs
  clear_value t_12
  extract_lets +onlyGivenNames t_13
  have ht_13 : z.Evolves t_13 := by
    unfold t_13
    apply State.fs_ev; exact ht_12
  clear_value t_13
  split
  · apply State.fs_ev; exact ht_13
  · extract_lets +onlyGivenNames u_14
    have hu_14 : z.Evolves u_14 := by
      unfold u_14
      apply hlatch_2; exact ht_13
    clear_value u_14
    split
    · apply State.log_ev; apply State.fs_ev; exact hu_14
    · extract_lets +onlyGivenNames v_15
      have hv_15 : z.Evolves v_15 := by
        unfold v_15
        apply State.arrError_ev; apply State.fs_ev; exact hu_14
      clear_value v_15
      extract_lets +onlyGivenNames w_16
      have hw_16 : z.Evolves w_16 := by
        unfold w_16
        split
        · exact hv_15
        · apply State.fs_ev; exact hv_15
      clear_value w_16
      apply State.log_ev; apply State.coreFailed_ev; exact hw_16

theorem State.loadRepair_ev {z : State} (s : State) (d : Nat) (hs : z.Evolves s) : z.Evolves (State.loadRepair s d) := by
  unfold State.loadRepair
  refine State.Evolves.foldl ?_ ?_
  · exact hs
  · intro v0 v1 v2
    extract_lets +onlyGivenNames f_3
    extract_lets +onlyGivenNames k_4
    split
    · with_reducible assumption
    · apply State.fs_ev; apply State.fs_ev; apply State.wr_ev; with_reducible assumption

theorem State.settingsCheck_ev {z : State} (s : State) (hs : z.Evolves s) : z.Evolves (State.settingsCheck s) := by
  unfold State.settingsCheck
  extract_lets +onlyGivenNames d_0
  split
  · exact hs
  · apply State.log_ev
    refine State.Evolves.mk_same ?_ rfl rfl rfl rfl
    exact hs

theorem State.firmwareUp_ev {z : State} (s : State) (hs : z.Evolves s) : z.Evolves (State.firmwareUp s) := by
  unfold State.firmwareUp
  split
  · exact hs
  · extract_lets +onlyGivenNames ok_0
    extract_lets +onlyGivenNames t_1
    have ht_1 : z.Evolves t_1 := by
      unfold t_1
      refine State.Evolves.foldl ?_ ?_
      · exact hs
      · intro v2 v3 v4
        apply State.loadRepair_ev; with_reducible assumption
    clear_value t_1
    apply State.settingsCheck_ev; apply State.setState_ev; apply State.fs_ev; apply State.fs_ev; apply State.fs_ev; apply State.fs_ev
    apply State.fs_ev; exact ht_1

theorem execCanaryDone_ev {z : State} (core main early late again : Nat) (s : State) (hs : z.Evolves s) : Later z (execCanaryDone core main early late again s) := by
  unfold execCanaryDone
  refine Later.occurs ?_ ?_
  · exact hs
  · apply State.canary_ev; apply State.take_ev; apply State.firmwareUp_ev; apply State.runTo_ev; exact hs

theorem State.modSp_ev {z : State} (s : State) (p : Nat) (f : SpSt → SpSt) (hs : z.Evolves s) : z.Evolves (State.modSp s p f) := by
  unfold State.modSp
  refine State.Evolves.mk_same ?_ rfl rfl rfl rfl
  exact hs

theorem State.arrive_ev {z : State} (s : State) (p : Nat) (k : Packet) (hs : z.Evolves s) : z.Evolves (State.arrive s p k) := by
  unfold State.arrive
  refine State.Evolves.mk_same ?_ rfl rfl rfl rfl
  exact hs

theorem State.launch_ev {z : State} (s : State) (p : Packet) (o : Origin) (iss : Nat) (hs : z.Evolves s) : LaterO z (State.launch s p o iss) := by
  unfold State.launch
  split
  · refine LaterO.some ?_
    apply State.arrive_ev; exact hs
  · extract_lets +onlyGivenNames lv_0
    extract_lets +onlyGivenNames k_1
    extract_lets +onlyGivenNames h_2
    extract_lets +onlyGivenNames t_3
    extract_lets +onlyGivenNames t_4
    have ht_4 : z.Evolves t_4 := by
      unfold t_4
      refine State.Evolves.mk_same ?_ rfl rfl rfl rfl
      exact hs
    clear_value t_4
    refine LaterO.some ?_
    split
    · apply State.count_ev; exact ht_4
    · exact ht_4
  · exact LaterO.none

theorem State.sendNack_ev {z : State} (s : State) (n : Packet) (hs : z.Evolves s) : z.Evolves (State.sendNack s n) := by
  unfold State.sendNack
  extract_lets +onlyGivenNames t_0
  have ht_0 : z.Evolves t_0 := by
    unfold t_0
    apply State.pmc_ev; apply State.count_ev; exact hs
  clear_value t_0
  refine LaterO.getD ?_ ?_
  · apply State.launch_ev; exact ht_0
  · apply State.count_ev; exact ht_0

theorem State.dispatch_ev {z : State} (s : State) (p : Packet) (o : Origin) (iss : Nat) (hs : z.Evolves s) : z.Evolves (State.dispatch s p o iss) := by
  unfold State.dispatch
  split
  · refine State.Evolves.of_some (by assumption) ?_
    apply State.launch_ev; exact hs
  · extract_lets +onlyGivenNames t_0
    have ht_0 : z.Evolves t_0 := by
      unfold t_0
      apply State.count_ev; exact hs
    clear_value t_0
    split
    · exact ht_0
    · split
      · apply State.arrive_ev; exact ht_0
      · apply State.sendNack_ev; apply State.count_ev; exact ht_0

theorem State.rxCount_ev {z : State} (s : State) (p : Packet) (hs : z.Evolves s) : z.Evolves (State.rxCount s p) := by
  unfold State.rxCount
  apply State.pmc_ev; apply State.count_ev; exact hs

theorem State.issue_ev {z : State} (s : State) (p : Packet) (o : Origin) (iss : Nat) (hs : z.Evolves s) : z.Evolves (State.issue s p o iss) := by
  unfold State.issue
  split
  · exact hs
  · extract_lets +onlyGivenNames n_0
    apply State.dispatch_ev; apply State.pmc_ev; apply State.count_ev
    refine State.Evolves.mk_same ?_ rfl rfl rfl rfl
    exact hs

theorem State.respond_ev {z : State} (s : State) (q : Packet) (o : Origin) (op : Nat) (poison : Bool) (data : Bytes) (hs : z.Evolves s) : z.Evolves (State.respond s q o op poison data) := by
  unfold State.respond
  split
  · exact hs
  · extract_lets +onlyGivenNames k_0
    apply State.dispatch_ev; apply State.pmc_ev; apply State.count_ev; exact hs

theorem State.refuse_ev {z : State} (s : State) (p : Packet) (code : Nat) (hs : z.Evolves s) : z.Evolves (State.refuse s p code) := by
  unfold State.refuse
  extract_lets +onlyGivenNames t_0
  have ht_0 : z.Evolves t_0 := by
    unfold t_0
    split
    · apply State.count_ev; exact hs
    · apply State.count_ev; exact hs
  clear_value t_0
  split
  · exact ht_0
  · apply State.sendNack_ev; exact ht_0

theorem State.dropHeads_ev {z : State} (s : State) (f : XHead → Bool) (hs : z.Evolves s) : z.Evolves (State.dropHeads s f).1 := by
  unfold State.dropHeads
  dsimp only
  refine State.Evolves.mk_same ?_ rfl rfl rfl rfl
  exact hs

theorem State.modPair_ev {z : State} (s : State) (k : Nat) (f : Pair → Pair) (hs : z.Evolves s) : z.Evolves (State.modPair s k f) := by
  unfold State.modPair
  refine State.Evolves.mk_same ?_ rfl rfl rfl rfl
  exact hs

theorem State.issueAcked_ev {z : State} (s : State) (p : Packet) (core iss : Nat) (hs : z.Evolves s) : z.Evolves (State.issueAcked s p core iss) := by
  unfold State.issueAcked
  split
  · exact hs
  · extract_lets +onlyGivenNames x_0
    extract_lets +onlyGivenNames e_1
    extract_lets +onlyGivenNames user_2
    extract_lets +onlyGivenNames t_3
    have ht_3 : z.Evolves t_3 := by
      unfold t_3
      apply State.modPair_ev; exact hs
    clear_value t_3
    apply State.issue_ev
    refine State.Evolves.mk_same ?_ rfl rfl rfl rfl
    exact ht_3

theorem State.noteSent_ev {z : State} (s : State) (p : Packet) (xseq : Nat) (hs : z.Evolves s) : z.Evolves (State.noteSent s p xseq) := by
  unfold State.noteSent
  extract_lets +onlyGivenNames k_0
  refine State.Evolves.mk_same ?_ rfl rfl rfl rfl
  exact hs

theorem State.sendAcked_ev {z : State} (s : State) (p : Packet) (core iss : Nat) (hs : z.Evolves s) : z.Evolves (State.sendAcked s p core iss) := by
  unfold State.sendAcked
  split
  · exact hs
  · extract_lets +onlyGivenNames k_0
    extract_lets +onlyGivenNames n_1
    extract_lets +onlyGivenNames q_2
    apply State.noteSent_ev; apply State.issueAcked_ev; exact hs

theorem State.clearPairs_ev {z : State} (s : State) (f : Nat → Bool) (hs : z.Evolves s) : z.Evolves (State.clearPairs s f) := by
  unfold State.clearPairs
  extract_lets +onlyGivenNames gone_0
  extract_lets +onlyGivenNames streams_1
  refine State.Evolves.mk_same ?_ rfl rfl rfl rfl
  exact hs

theorem State.drainPump_ev {z : State} (s : State) (hs : z.Evolves s) : z.Evolves (State.drainPump s) := by
  unfold State.drainPump
  split
  · exact hs
  · extract_lets +onlyGivenNames t_0
    have ht_0 : z.Evolves t_0 := by
      unfold t_0
      refine State.Evolves.foldl ?_ ?_
      · exact hs
      · intro v1 v2 v3
        refine State.Evolves.foldl ?_ ?_
        · with_reducible assumption
        · intro v4 v5 v6
          split
          · refine State.Evolves.mk_same ?_ rfl rfl rfl rfl
            with_reducible assumption
          · with_reducible assumption
    clear_value t_0
    extract_lets +onlyGivenNames u_7
    have hu_7 : z.Evolves u_7 := by
      unfold u_7
      apply State.fs_ev; exact ht_0
    clear_value u_7
    split
    · apply State.fs_ev; apply State.fs_ev; exact hu_7
    · exact hu_7

theorem State.epochSwitch_ev {z : State} (s : State) (hs : z.Evolves s) : z.Evolves (State.epochSwitch s) := by
  unfold State.epochSwitch
  extract_lets +onlyGivenNames t_0
  have ht_0 : z.Evolves t_0 := by
    unfold t_0
    apply State.fs_ev; apply State.fs_ev; apply State.fs_ev; apply State.fs_ev; exact hs
  clear_value t_0
  apply State.drainPump_ev
  refine State.Evolves.mk_same ?_ rfl rfl rfl rfl
  exact ht_0

theorem State.modLink_ev {z : State} (s : State) (k : Nat) (f : LinkSt → LinkSt) (hs : z.Evolves s) : z.Evolves (State.modLink s k f) := by
  unfold State.modLink
  refine State.Evolves.mk_same ?_ rfl rfl rfl rfl
  exact hs

theorem State.linkSend_ev {z : State} (s : State) (e n : Nat) (hs : z.Evolves s) : z.Evolves (State.linkSend s e n) := by
  unfold State.linkSend
  apply State.pmc_ev; apply State.modLink_ev; exact hs

theorem State.rise_ev {z : State} (s : State) (port n : Nat) (hs : z.Evolves s) : z.Evolves (State.rise s port n) := by
  unfold State.rise
  split
  · apply State.linkSend_ev; exact hs
  · exact hs

theorem State.fall_ev {z : State} (s : State) (port n : Nat) (hs : z.Evolves s) : z.Evolves (State.fall s port n) := by
  unfold State.fall
  split
  · apply State.linkSend_ev; exact hs
  · exact hs

theorem State.switched_ev {z : State} (s : State) (inp out n : Nat) (hs : z.Evolves s) : z.Evolves (State.switched s inp out n) := by
  unfold State.switched
  apply State.fall_ev; apply State.rise_ev; exact hs

theorem State.takeWay_ev {z : State} (s : State) (act n : Nat) (y0 : Way) (hs : z.Evolves s) : z.Evolves (State.takeWay s act n y0) := by
  unfold State.takeWay
  split
  · apply State.switched_ev; apply State.chargeAll_ev; exact hs
  · apply State.linkSend_ev; exact hs
  · apply State.rise_ev; exact hs
  · apply State.fall_ev; exact hs
  · exact hs

theorem State.takeWays_ev {z : State} (s : State) (act : Nat) (y0 : List (Way × Nat)) (hs : z.Evolves s) : LaterO z (State.takeWays s act y0) := by
  induction y0 generalizing s with
  | nil => exact .some hs
  | cons w r ih =>
    unfold State.takeWays
    split
    · exact ih _ (State.takeWay_ev _ _ _ _ hs)
    · exact .none

theorem State.toHub_ev {z : State} (s : State) (key : Nat) (q : Packet) (hs : z.Evolves s) : LaterO z (State.toHub s key q) := by
  unfold State.toHub
  split
  · refine LaterO.some ?_
    apply State.takeWay_ev; exact hs
  · exact LaterO.none

theorem State.unitMoves_ev {z : State} (s : State) (ports : List Nat) (up : Bool) (hs : z.Evolves s) : z.Evolves (State.unitMoves s ports up) := by
  unfold State.unitMoves
  refine State.Evolves.foldl ?_ ?_
  · exact hs
  · intro v0 v1 v2
    split
    · apply State.rise_ev; with_reducible assumption
    · apply State.fall_ev; with_reducible assumption

theorem State.scalar_ev {z : State} (s : State) (hs : z.Evolves s) : z.Evolves (State.scalar s).2 := by
  unfold State.scalar
  extract_lets +onlyGivenNames r_0
  have hr_0 : z.Evolves r_0.2 := by
    unfold r_0
    apply State.random_ev; exact hs
  clear_value r_0
  with_reducible assumption

theorem State.report_ev {z : State} (s : State) (nonce : Bytes) (hs : z.Evolves s) : LaterP z (State.report s nonce) := by
  unfold State.report
  split
  · exact LaterP.none
  · extract_lets +onlyGivenNames k_0
    have hk_0 : z.Evolves k_0.2 := by
      unfold k_0
      apply State.scalar_ev; exact hs
    clear_value k_0
    extract_lets +onlyGivenNames b_1
    refine LaterP.some ?_
    with_reducible assumption

theorem State.setSp_ev {z : State} (s : State) (p st : Nat) (hs : z.Evolves s) : z.Evolves (State.setSp s p st) := by
  unfold State.setSp
  apply State.fs_ev; exact hs

theorem State.switchTx_ev {z : State} (s : State) (p : Nat) (hs : z.Evolves s) : z.Evolves (State.switchTx s p) := by
  unfold State.switchTx
  extract_lets +onlyGivenNames x_0
  split
  · apply State.modSp_ev; exact hs
  · exact hs

theorem State.sendFrame_ev {z : State} (s0 : State) (p : Nat) (flits : List Bytes) (msg : Bytes) (order : Option (Nat × Nat)) (hs0 : z.Evolves s0) : z.Evolves (State.sendFrame s0 p flits msg order) := by
  unfold State.sendFrame
  extract_lets +onlyGivenNames s_0
  have hs_0 : z.Evolves s_0 := by
    unfold s_0
    apply State.switchTx_ev; exact hs0
  clear_value s_0
  extract_lets +onlyGivenNames b_1
  apply State.emit_ev; apply State.modSp_ev; exact hs_0

theorem State.say_ev {z : State} (s : State) (p : Nat) (msg : Bytes) (hs : z.Evolves s) : z.Evolves (State.say s p msg) := by
  unfold State.say
  refine State.Evolves.foldl ?_ ?_
  · exact hs
  · intro v0 v1 v2
    apply State.sendFrame_ev; with_reducible assumption

theorem State.pushFlits_ev {z : State} (s : State) (p vc : Nat) (fl : List Bytes) (hs : z.Evolves s) : z.Evolves (State.pushFlits s p vc fl) := by
  unfold State.pushFlits
  extract_lets +onlyGivenNames t_0
  have ht_0 : z.Evolves t_0 := by
    unfold t_0
    apply State.modSp_ev; exact hs
  clear_value t_0
  refine State.Evolves.foldl ?_ ?_
  · exact ht_0
  · intro v1 v2 v3
    apply State.sendFrame_ev; with_reducible assumption

theorem State.setTail_ev {z : State} (s : State) (p out vc epoch : Nat) (rest : List Bytes) (hs : z.Evolves s) : z.Evolves (State.setTail s p out vc epoch rest) := by
  unfold State.setTail
  apply State.fs_ev; apply State.modSp_ev; exact hs

theorem State.transmit_ev {z : State} (s : State) (p out : Nat) (k : Packet) (free : Bool) (hs : z.Evolves s) : z.Evolves (State.transmit s p out k free) := by
  unfold State.transmit
  extract_lets +onlyGivenNames fl_0
  extract_lets +onlyGivenNames n_1
  apply State.setTail_ev; apply State.pushFlits_ev; exact hs

theorem State.flushTail_ev {z : State} (s : State) (p : Nat) (hs : z.Evolves s) : z.Evolves (State.flushTail s p) := by
  unfold State.flushTail
  split
  · exact hs
  · extract_lets +onlyGivenNames n_0
    split
    · exact hs
    · apply State.setTail_ev; apply State.pushFlits_ev; exact hs

theorem State.setWidth_ev {z : State} (s : State) (p : Nat) (hs : z.Evolves s) : z.Evolves (State.setWidth s p) := by
  unfold State.setWidth
  extract_lets +onlyGivenNames w_0
  extract_lets +onlyGivenNames old_1
  extract_lets +onlyGivenNames t_2
  have ht_2 : z.Evolves t_2 := by
    unfold t_2
    apply State.fs_ev; apply State.fs_ev; exact hs
  clear_value t_2
  split
  · apply State.log_ev; exact ht_2
  · exact ht_2

theorem State.sendAgain_ev {z : State} (s : State) (p : Nat) (f : Bytes) (hs : z.Evolves s) : z.Evolves (State.sendAgain s p f) := by
  unfold State.sendAgain
  apply State.emit_ev; apply State.pmc_ev; apply State.count_ev; exact hs

theorem State.switchWidth_ev {z : State} (s : State) (p : Nat) (hs : z.Evolves s) : z.Evolves (State.switchWidth s p) := by
  unfold State.switchWidth
  extract_lets +onlyGivenNames t_0
  have ht_0 : z.Evolves t_0 := by
    unfold t_0
    apply State.modSp_ev; exact hs
  clear_value t_0
  apply State.setWidth_ev
  refine State.Evolves.foldl ?_ ?_
  · exact ht_0
  · intro v1 v2 v3
    apply State.sendAgain_ev; with_reducible assumption

theorem State.unlock_ev {z : State} (s : State) (p mask : Nat) (hs : z.Evolves s) : z.Evolves (State.unlock s p mask) := by
  unfold State.unlock
  extract_lets +onlyGivenNames k_0
  apply State.fs_ev; exact hs

theorem State.spDown_ev {z : State} (s : State) (p cause : Nat) (hs : z.Evolves s) : z.Evolves (State.spDown s p cause) := by
  unfold State.spDown
  extract_lets +onlyGivenNames d_0
  have hd_0 : z.Evolves d_0.1 := by
    unfold d_0
    apply State.dropHeads_ev; exact hs
  clear_value d_0
  extract_lets +onlyGivenNames st_1
  extract_lets +onlyGivenNames x_2
  extract_lets +onlyGivenNames live_3
  extract_lets +onlyGivenNames t_4
  have ht_4 : z.Evolves t_4 := by
    unfold t_4
    apply State.unlock_ev; apply State.fs_ev; apply State.fs_ev; apply State.fs_ev; apply State.fs_ev; apply State.countN_ev; exact hd_0
  clear_value t_4
  extract_lets +onlyGivenNames t_5
  have ht_5 : z.Evolves t_5 := by
    unfold t_5
    split
    · apply State.fs_ev; apply State.fs_ev; apply State.count_ev; exact ht_4
    · exact ht_4
  clear_value t_5
  extract_lets +onlyGivenNames u_6
  extract_lets +onlyGivenNames u_7
  have hu_7 : z.Evolves u_7 := by
    unfold u_7
    apply State.modSp_ev; exact ht_5
  clear_value u_7
  extract_lets +onlyGivenNames v_8
  have hv_8 : z.Evolves v_8 := by
    unfold v_8
    split
    · apply State.fs_ev; exact hu_7
    · exact hu_7
  clear_value v_8
  extract_lets +onlyGivenNames v_9
  have hv_9 : z.Evolves v_9 := by
    unfold v_9
    apply State.fs_ev; apply State.fs_ev; exact hv_8
  clear_value v_9
  extract_lets +onlyGivenNames w_10
  have hw_10 : z.Evolves w_10 := by
    unfold w_10
    split
    · exact hv_9
    · apply State.log_ev; exact hv_9
  clear_value w_10
  apply State.drainPump_ev; exact hw_10

theorem State.spStep1_ev {z : State} (s : State) (p : Nat) (hs : z.Evolves s) : z.Evolves (State.spStep1 s p) := by
  unfold State.spStep1
  split
  · apply State.setSp_ev; exact hs
  · split
    · apply State.setSp_ev; exact hs
    · split
      · apply State.setSp_ev; exact hs
      · apply State.setSp_ev; exact hs

theorem State.lanesDown_ev {z : State} (s : State) (p : Nat) (hs : z.Evolves s) : z.Evolves (State.lanesDown s p) := by
  unfold State.lanesDown
  apply State.fs_ev; apply State.unlock_ev; apply State.fs_ev; apply State.fs_ev; exact hs

theorem State.spAttemptFails_ev {z : State} (s : State) (p : Nat) (hs : z.Evolves s) : z.Evolves (State.spAttemptFails s p) := by
  unfold State.spAttemptFails
  extract_lets +onlyGivenNames x_0
  extract_lets +onlyGivenNames t_1
  have ht_1 : z.Evolves t_1 := by
    unfold t_1
    split
    · exact hs
    · apply State.log_ev; exact hs
  clear_value t_1
  apply State.setSp_ev; apply State.modSp_ev; apply State.lanesDown_ev; exact ht_1

theorem State.orderWidth_ev {z : State} (s : State) (p : Nat) (hs : z.Evolves s) : z.Evolves (State.orderWidth s p) := by
  unfold State.orderWidth
  extract_lets +onlyGivenNames here_0
  apply State.modSp_ev; apply State.sendFrame_ev; exact hs

theorem State.lanesFail_ev {z : State} (s : State) (p mask : Nat) (dark : Bool) (hs : z.Evolves s) : z.Evolves (State.lanesFail s p mask dark) := by
  unfold State.lanesFail
  extract_lets +onlyGivenNames t_0
  have ht_0 : z.Evolves t_0 := by
    unfold t_0
    apply State.fs_ev; exact hs
  clear_value t_0
  split
  · exact ht_0
  · split
    · apply State.spDown_ev; exact ht_0
    · split
      · apply State.spDown_ev; exact ht_0
      · split
        · exact ht_0
        · split
          · apply State.setWidth_ev; exact ht_0
          · apply State.switchWidth_ev; apply State.orderWidth_ev; exact ht_0

theorem State.attestFail_ev {z : State} (s : State) (p code : Nat) (hs : z.Evolves s) : z.Evolves (State.attestFail s p code) := by
  unfold State.attestFail
  extract_lets +onlyGivenNames n_0
  extract_lets +onlyGivenNames t_1
  have ht_1 : z.Evolves t_1 := by
    unfold t_1
    apply State.setSp_ev; apply State.log_ev; apply State.fs_ev; exact hs
  clear_value t_1
  extract_lets +onlyGivenNames t_2
  have ht_2 : z.Evolves t_2 := by
    unfold t_2
    split
    · apply State.lanesDown_ev; exact ht_1
    · exact ht_1
  clear_value t_2
  apply State.modSp_ev; exact ht_2

theorem State.startAttest_ev {z : State} (s : State) (p : Nat) (hs : z.Evolves s) : z.Evolves (State.startAttest s p) := by
  unfold State.startAttest
  extract_lets +onlyGivenNames k_0
  extract_lets +onlyGivenNames n_1
  have hn_1 : z.Evolves n_1.2 := by
    unfold n_1
    apply State.random_ev; exact hs
  clear_value n_1
  extract_lets +onlyGivenNames hello_2
  apply State.say_ev; apply State.modSp_ev; apply State.setSp_ev; exact hn_1

theorem State.startKeying_ev {z : State} (s : State) (p : Nat) (hs : z.Evolves s) : z.Evolves (State.startKeying s p) := by
  unfold State.startKeying
  extract_lets +onlyGivenNames x_0
  split
  · exact hs
  · split
    · apply State.attestFail_ev; exact hs
    · apply State.say_ev; apply State.modSp_ev; apply State.setSp_ev; exact hs

theorem State.spEnter_ev {z : State} (s : State) (p : Nat) (hs : z.Evolves s) : z.Evolves (State.spEnter s p) := by
  unfold State.spEnter
  extract_lets +onlyGivenNames x_0
  extract_lets +onlyGivenNames lvl_1
  extract_lets +onlyGivenNames t_2
  have ht_2 : z.Evolves t_2 := by
    unfold t_2
    apply State.fs_ev; apply State.fs_ev; apply State.setSp_ev; exact hs
  clear_value t_2
  extract_lets +onlyGivenNames t_3
  have ht_3 : z.Evolves t_3 := by
    unfold t_3
    split
    · apply State.fs_ev; exact ht_2
    · exact ht_2
  clear_value t_3
  extract_lets +onlyGivenNames u_4
  have hu_4 : z.Evolves u_4 := by
    unfold u_4
    apply State.modSp_ev; exact ht_3
  clear_value u_4
  extract_lets +onlyGivenNames v_5
  have hv_5 : z.Evolves v_5 := by
    unfold v_5
    apply State.drainPump_ev
    split
    · apply State.fs_ev; exact hu_4
    · exact hu_4
  clear_value v_5
  refine State.Evolves.mk_same ?_ rfl rfl rfl rfl
  exact hv_5

theorem State.keepIdent_ev {z : State} (s : State) (p : Nat) (m : Bytes) (hs : z.Evolves s) : z.Evolves (State.keepIdent s p m) := by
  unfold State.keepIdent
  extract_lets +onlyGivenNames f_0
  extract_lets +onlyGivenNames t_1
  have ht_1 : z.Evolves t_1 := by
    unfold t_1
    apply State.wr_ev; apply State.fs_ev; apply State.fs_ev; apply State.fs_ev; apply State.fs_ev; apply State.fs_ev; apply State.fs_ev; exact hs
  clear_value t_1
  extract_lets +onlyGivenNames u_2
  have hu_2 : z.Evolves u_2 := by
    unfold u_2
    apply State.wr_ev; exact ht_1
  clear_value u_2
  apply State.modSp_ev
  refine State.Evolves.foldl ?_ ?_
  · exact hu_2
  · intro v3 v4 v5
    apply State.wr_ev; with_reducible assumption

theorem State.tellVerdict_ev {z : State} (s : State) (p verdict reason : Nat) (hs : z.Evolves s) : z.Evolves (State.tellVerdict s p verdict reason) := by
  unfold State.tellVerdict
  split
  · exact hs
  · extract_lets +onlyGivenNames t_0
    have ht_0 : z.Evolves t_0 := by
      unfold t_0
      apply State.modSp_ev; exact hs
    clear_value t_0
    apply State.say_ev; exact ht_0

theorem State.hold_ev {z : State} (s : State) (p code : Nat) (hs : z.Evolves s) : z.Evolves (State.hold s p code) := by
  unfold State.hold
  extract_lets +onlyGivenNames st_0
  extract_lets +onlyGivenNames t_1
  have ht_1 : z.Evolves t_1 := by
    unfold t_1
    apply State.setSp_ev; apply State.tellVerdict_ev; exact hs
  clear_value t_1
  split
  · exact ht_1
  · apply State.log_ev; exact ht_1

theorem State.applyVerdict_ev {z : State} (s : State) (p : Nat) (hs : z.Evolves s) : z.Evolves (State.applyVerdict s p) := by
  unfold State.applyVerdict
  extract_lets +onlyGivenNames m_0
  extract_lets +onlyGivenNames c_1
  split
  · apply State.hold_ev; exact hs
  · split
    · extract_lets +onlyGivenNames r_2
      apply State.hold_ev; apply State.fs_ev; exact hs
    · extract_lets +onlyGivenNames u_3
      have hu_3 : z.Evolves u_3 := by
        unfold u_3
        apply State.tellVerdict_ev; apply State.fs_ev; exact hs
      clear_value u_3
      split
      · apply State.startAttest_ev; exact hu_3
      · split
        · exact hu_3
        · apply State.setSp_ev; exact hu_3

theorem State.spConfigure_ev {z : State} (s : State) (p : Nat) (hs : z.Evolves s) : z.Evolves (State.spConfigure s p) := by
  unfold State.spConfigure
  extract_lets +onlyGivenNames st_0
  split
  · split
    · exact hs
    · apply State.setSp_ev; apply State.spDown_ev; exact hs
  · split
    · apply State.spStep1_ev; exact hs
    · split
      · extract_lets +onlyGivenNames c_1
        split
        · split
          · apply State.applyVerdict_ev; exact hs
          · exact hs
        · split
          · apply State.hold_ev; exact hs
          · extract_lets +onlyGivenNames y_2
            extract_lets +onlyGivenNames g_3
            extract_lets +onlyGivenNames t_4
            have ht_4 : z.Evolves t_4 := by
              unfold t_4
              apply State.fs_ev; apply State.fs_ev; apply State.fs_ev; apply State.spDown_ev; exact hs
            clear_value t_4
            apply State.hold_ev; apply State.modSp_ev; apply State.fs_ev; exact ht_4
      · exact hs

theorem State.switchDue_ev {z : State} (s : State) (p : Nat) (hs : z.Evolves s) : z.Evolves (State.switchDue s p) := by
  unfold State.switchDue
  split
  · split
    · apply State.switchWidth_ev; exact hs
    · exact hs
  · exact hs

theorem State.takeFlit_ev {z : State} (s : State) (p : Nat) (f : Bytes) (hs : z.Evolves s) : z.Evolves (State.takeFlit s p f) := by
  unfold State.takeFlit
  extract_lets +onlyGivenNames x_0
  split
  · exact hs
  · extract_lets +onlyGivenNames part_1
    extract_lets +onlyGivenNames head_2
    extract_lets +onlyGivenNames counts_3
    extract_lets +onlyGivenNames t_4
    have ht_4 : z.Evolves t_4 := by
      unfold t_4
      apply State.pmc_ev; apply State.modSp_ev; exact hs
    clear_value t_4
    split
    · exact ht_4
    · extract_lets +onlyGivenNames k0_5
      extract_lets +onlyGivenNames k_6
      extract_lets +onlyGivenNames n_7
      extract_lets +onlyGivenNames done_8
      have hdone_8 : z.Evolves done_8 := by
        unfold done_8
        apply State.modSp_ev; exact ht_4
      clear_value done_8
      extract_lets +onlyGivenNames free_9
      have hfree_9 : z.Evolves free_9 := by
        unfold free_9
        split
        · exact hdone_8
        · apply State.modSp_ev; exact hdone_8
      clear_value free_9
      split
      · extract_lets +onlyGivenNames win_10
        split
        · apply State.arrive_ev; apply State.modSp_ev; exact hdone_8
        · split
          · apply State.countN_ev; exact hfree_9
          · exact hfree_9
      · split
        · apply State.refuse_ev; apply State.fsat_ev; exact hfree_9
        · apply State.arrive_ev; exact hdone_8

theorem State.rekeyHeard_ev {z : State} (s : State) (p : Nat) (hs : z.Evolves s) : z.Evolves (State.rekeyHeard s p) := by
  unfold State.rekeyHeard
  extract_lets +onlyGivenNames x_0
  extract_lets +onlyGivenNames n_1
  split
  · apply State.modSp_ev; exact hs
  · exact hs

theorem State.switchRx_ev {z : State} (s : State) (p : Nat) (hs : z.Evolves s) : z.Evolves (State.switchRx s p) := by
  unfold State.switchRx
  extract_lets +onlyGivenNames x_0
  split
  · apply State.modSp_ev; exact hs
  · exact hs

theorem State.takeFrame_ev {z : State} (s : State) (p : Nat) (b : Bytes) (hs : z.Evolves s) : z.Evolves (State.takeFrame s p b) := by
  unfold State.takeFrame
  extract_lets +onlyGivenNames msg_0
  extract_lets +onlyGivenNames cr_1
  extract_lets +onlyGivenNames t_2
  have ht_2 : z.Evolves t_2 := by
    unfold t_2
    apply State.modSp_ev; exact hs
  clear_value t_2
  extract_lets +onlyGivenNames u_3
  have hu_3 : z.Evolves u_3 := by
    unfold u_3
    refine State.Evolves.foldl ?_ ?_
    · exact ht_2
    · intro v4 v5 v6
      apply State.takeFlit_ev; with_reducible assumption
  clear_value u_3
  extract_lets +onlyGivenNames v_7
  have hv_7 : z.Evolves v_7 := by
    unfold v_7
    split
    · apply State.spDown_ev; exact hu_3
    · apply State.switchDue_ev; apply State.flushTail_ev; exact hu_3
  clear_value v_7
  apply State.switchRx_ev; apply State.rekeyHeard_ev; apply State.modSp_ev; exact hv_7

theorem State.resend_ev {z : State} (s : State) (p : Nat) (hs : z.Evolves s) : z.Evolves (State.resend s p) := by
  unfold State.resend
  extract_lets +onlyGivenNames keep_0
  split
  · exact hs
  · split
    · apply State.spDown_ev; exact hs
    · refine State.Evolves.foldl ?_ ?_
      · apply State.modSp_ev; exact hs
      · intro v1 v2 v3
        apply State.sendAgain_ev; with_reducible assumption

theorem State.takeAck_ev {z : State} (s : State) (p : Nat) (f : SpFrame) (hs : z.Evolves s) : z.Evolves (State.takeAck s p f) := by
  unfold State.takeAck
  extract_lets +onlyGivenNames a_0
  extract_lets +onlyGivenNames x_1
  extract_lets +onlyGivenNames keep_2
  extract_lets +onlyGivenNames t_3
  have ht_3 : z.Evolves t_3 := by
    unfold t_3
    apply State.modSp_ev; exact hs
  clear_value t_3
  split
  · apply State.resend_ev; exact ht_3
  · exact ht_3

theorem State.frameRx_ev {z : State} (s0 : State) (p : Nat) (f : SpFrame) (hs0 : z.Evolves s0) : z.Evolves (State.frameRx s0 p f) := by
  unfold State.frameRx
  extract_lets +onlyGivenNames s_0
  have hs_0 : z.Evolves s_0 := by
    unfold s_0
    apply State.pmc_ev; apply State.countN_ev; exact hs0
  clear_value s_0
  split
  · extract_lets +onlyGivenNames t_1
    have ht_1 : z.Evolves t_1 := by
      unfold t_1
      apply State.takeAck_ev; exact hs_0
    clear_value t_1
    split
    · apply State.takeFrame_ev; exact ht_1
    · exact ht_1
  · apply State.emit_ev
    split
    · apply State.resend_ev; exact hs_0
    · exact hs_0

theorem execSpFrameRx_ev {z : State} (p : Nat) (frame : SpFrame) (s : State) (hs : z.Evolves s) : Later z (execSpFrameRx p frame s) := by
  unfold execSpFrameRx
  refine Later.occurs ?_ ?_
  · exact hs
  · apply State.frameRx_ev; exact hs

theorem State.takeRx_ev {z : State} (s : State) (p : Nat) (k : Packet) (hs : z.Evolves s) : LaterO z (State.takeRx s p k) := by
  unfold State.takeRx
  split
  · extract_lets +onlyGivenNames t_0
    extract_lets +onlyGivenNames t_1
    have ht_1 : z.Evolves t_1 := by
      unfold t_1
      refine State.Evolves.mk_same ?_ rfl rfl rfl rfl
      exact hs
    clear_value t_1
    refine LaterO.some ?_
    split
    · apply State.modSp_ev; exact ht_1
    · exact ht_1
  · exact LaterO.none

theorem execSpLockDone_ev {z : State} (p locked : Nat) (s : State) (hs : z.Evolves s) : Later z (execSpLockDone p locked s) := by
  unfold execSpLockDone
  refine Later.occurs ?_ ?_
  · exact hs
  · apply State.setSp_ev; apply State.fs_ev; apply State.fs_ev; apply State.fs_ev; exact hs

theorem State.trained_ev {z : State} (s : State) (p rtt failed farFailed : Nat) (hs : z.Evolves s) : z.Evolves (State.trained s p rtt failed farFailed) := by
  unfold State.trained
  extract_lets +onlyGivenNames st_0
  extract_lets +onlyGivenNames long_1
  extract_lets +onlyGivenNames t_2
  have ht_2 : z.Evolves t_2 := by
    unfold t_2
    apply State.fs_ev; apply State.fs_ev; apply State.fs_ev; apply State.fs_ev; apply State.fs_ev; exact hs
  clear_value t_2
  split
  · apply State.spAttemptFails_ev; exact ht_2
  · apply State.setSp_ev; apply State.setWidth_ev; apply State.modSp_ev; exact ht_2

theorem execSpTrainingDone_ev {z : State} (p rtt failed farFailed : Nat) (s : State) (hs : z.Evolves s) : Later z (execSpTrainingDone p rtt failed farFailed s) := by
  unfold execSpTrainingDone
  refine Later.occurs ?_ ?_
  · exact hs
  · apply State.trained_ev; exact hs

theorem execSpFecLockDone_ev {z : State} (p : Nat) (s : State) (hs : z.Evolves s) : Later z (execSpFecLockDone p s) := by
  unfold execSpFecLockDone
  refine Later.occurs ?_ ?_
  · exact hs
  · apply State.setSp_ev; apply State.modSp_ev; exact hs

theorem execSpBringupTimeout_ev {z : State} (p : Nat) (s : State) (hs : z.Evolves s) : Later z (execSpBringupTimeout p s) := by
  unfold execSpBringupTimeout
  refine Later.occurs ?_ ?_
  · exact hs
  · split
    · apply State.spAttemptFails_ev; exact hs
    · apply State.attestFail_ev; exact hs

theorem execSpBackoffExpiry_ev {z : State} (p : Nat) (s : State) (hs : z.Evolves s) : Later z (execSpBackoffExpiry p s) := by
  unfold execSpBackoffExpiry
  refine Later.occurs ?_ ?_
  · exact hs
  · apply State.spStep1_ev; apply State.runTo_ev; exact hs

theorem execReceivedLightAboveLos_ev {z : State} (p : Nat) (s : State) (hs : z.Evolves s) : Later z (execReceivedLightAboveLos p s) := by
  unfold execReceivedLightAboveLos
  extract_lets +onlyGivenNames t_0
  have ht_0 : z.Evolves t_0 := by
    unfold t_0
    apply State.modSp_ev; exact hs
  clear_value t_0
  refine Later.occurs ?_ ?_
  · exact hs
  · split
    · apply State.spStep1_ev; exact ht_0
    · exact ht_0

theorem execIdentSend_ev {z : State} (p : Nat) (s : State) (hs : z.Evolves s) : Later z (execIdentSend p s) := by
  unfold execIdentSend
  extract_lets +onlyGivenNames st_0
  extract_lets +onlyGivenNames t_1
  have ht_1 : z.Evolves t_1 := by
    unfold t_1
    apply State.pass_ev; exact hs
  clear_value t_1
  refine Later.occurs ?_ ?_
  · exact hs
  · apply State.say_ev; exact ht_1

theorem State.takeMsg_ev {z : State} (s : State) (p : Nat) (msg : Bytes) (hs : z.Evolves s) : LaterO z (State.takeMsg s p msg) := by
  unfold State.takeMsg
  split
  · refine LaterO.some ?_
    apply State.modSp_ev; exact hs
  · exact LaterO.none

theorem State.identRx_ev {z : State} (s : State) (p : Nat) (m : Bytes) (hs : z.Evolves s) : z.Evolves (State.identRx s p m) := by
  unfold State.identRx
  split
  · apply State.count_ev; exact hs
  · extract_lets +onlyGivenNames t_0
    have ht_0 : z.Evolves t_0 := by
      unfold t_0
      apply State.keepIdent_ev; exact hs
    clear_value t_0
    extract_lets +onlyGivenNames st_1
    split
    · apply State.applyVerdict_ev; exact ht_0
    · exact ht_0

theorem execIdent_ev {z : State} (p : Nat) (msg : Bytes) (s : State) (hs : z.Evolves s) : Later z (execIdent p msg s) := by
  unfold execIdent
  split
  · refine Later.occurs ?_ ?_
    · exact hs
    · apply State.identRx_ev
      refine State.Evolves.of_some (by assumption) ?_
      apply State.takeMsg_ev; exact hs
  · refine Later.occurs ?_ ?_
    · exact hs
    · exact hs

theorem State.helloRx_ev {z : State} (s : State) (p : Nat) (m : Bytes) (hs : z.Evolves s) : z.Evolves (State.helloRx s p m) := by
  unfold State.helloRx
  extract_lets +onlyGivenNames x_0
  extract_lets +onlyGivenNames t_1
  have ht_1 : z.Evolves t_1 := by
    unfold t_1
    apply State.modSp_ev; exact hs
  clear_value t_1
  split
  · exact ht_1
  · extract_lets +onlyGivenNames lat_2
    apply State.startKeying_ev; apply State.say_ev; apply State.modSp_ev
    refine State.Evolves.of_pair (by assumption) ?_
    apply State.report_ev; exact ht_1

theorem execLhello_ev {z : State} (p : Nat) (msg : Bytes) (s : State) (hs : z.Evolves s) : Later z (execLhello p msg s) := by
  unfold execLhello
  split
  · refine Later.occurs ?_ ?_
    · exact hs
    · apply State.helloRx_ev
      refine State.Evolves.of_some (by assumption) ?_
      apply State.takeMsg_ev; exact hs
  · refine Later.occurs ?_ ?_
    · exact hs
    · exact hs

theorem State.lattestRx_ev {z : State} (s : State) (p : Nat) (m : Bytes) (hs : z.Evolves s) : z.Evolves (State.lattestRx s p m) := by
  unfold State.lattestRx
  extract_lets +onlyGivenNames x_0
  extract_lets +onlyGivenNames rl_1
  extract_lets +onlyGivenNames cl_2
  extract_lets +onlyGivenNames c_3
  split
  · apply State.startKeying_ev; apply State.modSp_ev; exact hs
  · apply State.attestFail_ev; apply State.count_ev; exact hs

theorem execLattest_ev {z : State} (p : Nat) (msg : Bytes) (s : State) (hs : z.Evolves s) : Later z (execLattest p msg s) := by
  unfold execLattest
  split
  · refine Later.occurs ?_ ?_
    · exact hs
    · apply State.lattestRx_ev
      refine State.Evolves.of_some (by assumption) ?_
      apply State.takeMsg_ev; exact hs
  · refine Later.occurs ?_ ?_
    · exact hs
    · exact hs

theorem State.finishRx_ev {z : State} (s : State) (p : Nat) (m : Bytes) (hs : z.Evolves s) : z.Evolves (State.finishRx s p m) := by
  unfold State.finishRx
  split
  · exact hs
  · split
    · apply State.spEnter_ev; exact hs
    · apply State.attestFail_ev; exact hs

theorem execLfinish_ev {z : State} (p : Nat) (msg : Bytes) (s : State) (hs : z.Evolves s) : Later z (execLfinish p msg s) := by
  unfold execLfinish
  split
  · refine Later.occurs ?_ ?_
    · exact hs
    · apply State.finishRx_ev
      refine State.Evolves.of_some (by assumption) ?_
      apply State.takeMsg_ev; exact hs
  · refine Later.occurs ?_ ?_
    · exact hs
    · exact hs

theorem execAttestRetry_ev {z : State} (p : Nat) (s : State) (hs : z.Evolves s) : Later z (execAttestRetry p s) := by
  unfold execAttestRetry
  refine Later.occurs ?_ ?_
  · exact hs
  · apply State.startAttest_ev; apply State.runTo_ev; exact hs

theorem execSpReenable_ev {z : State} (port p : Nat) (s : State) (hs : z.Evolves s) : Later z (execSpReenable port p s) := by
  unfold execSpReenable
  extract_lets +onlyGivenNames t_0
  have ht_0 : z.Evolves t_0 := by
    unfold t_0
    apply State.fs_ev; exact hs
  clear_value t_0
  refine Later.occurs ?_ ?_
  · exact hs
  · split
    · apply State.spStep1_ev; exact ht_0
    · exact ht_0

theorem State.laneLost_ev {z : State} (s : State) (p lanes : Nat) (hs : z.Evolves s) : z.Evolves (State.laneLost s p lanes) := by
  unfold State.laneLost
  extract_lets +onlyGivenNames t_0
  have ht_0 : z.Evolves t_0 := by
    unfold t_0
    apply State.unlock_ev; exact hs
  clear_value t_0
  apply State.lanesFail_ev; exact ht_0

theorem execSpLaneFail_ev {z : State} (p lanes : Nat) (s : State) (hs : z.Evolves s) : Later z (execSpLaneFail p lanes s) := by
  unfold execSpLaneFail
  refine Later.occurs ?_ ?_
  · exact hs
  · apply State.laneLost_ev; exact hs

theorem execSpTestFail_ev {z : State} (port p lane : Nat) (s : State) (hs : z.Evolves s) : Later z (execSpTestFail port p lane s) := by
  unfold execSpTestFail
  refine Later.occurs ?_ ?_
  · exact hs
  · apply State.lanesFail_ev; apply State.fs_ev; exact hs

theorem State.uncWindow_ev {z : State} (s : State) (p : Nat) (counts : List Nat) (hs : z.Evolves s) : z.Evolves (State.uncWindow s p counts) := by
  unfold State.uncWindow
  extract_lets +onlyGivenNames th_0
  extract_lets +onlyGivenNames c_1
  extract_lets +onlyGivenNames t_2
  have ht_2 : z.Evolves t_2 := by
    unfold t_2
    apply State.countN_ev; apply State.pass_ev; exact hs
  clear_value t_2
  extract_lets +onlyGivenNames m_3
  split
  · exact ht_2
  · apply State.lanesFail_ev; exact ht_2

theorem execSpUncWindow_ev {z : State} (p : Nat) (counts : List Nat) (s : State) (hs : z.Evolves s) : Later z (execSpUncWindow p counts s) := by
  unfold execSpUncWindow
  refine Later.occurs ?_ ?_
  · exact hs
  · apply State.uncWindow_ev; exact hs

theorem State.widthOrder_ev {z : State} (s : State) (p farMask switchAt : Nat) (hs : z.Evolves s) : z.Evolves (State.widthOrder s p farMask switchAt) := by
  unfold State.widthOrder
  extract_lets +onlyGivenNames before_0
  extract_lets +onlyGivenNames t_1
  have ht_1 : z.Evolves t_1 := by
    unfold t_1
    apply State.modSp_ev; apply State.fs_ev; exact hs
  clear_value t_1
  extract_lets +onlyGivenNames w_2
  split
  · apply State.spDown_ev; exact ht_1
  · extract_lets +onlyGivenNames u_3
    have hu_3 : z.Evolves u_3 := by
      unfold u_3
      split
      · apply State.orderWidth_ev; exact ht_1
      · exact ht_1
    clear_value u_3
    split
    · exact hu_3
    · apply State.switchDue_ev; apply State.modSp_ev; exact hu_3

theorem execWidthOrder_ev {z : State} (p farMask switchAt : Nat) (s : State) (hs : z.Evolves s) : Later z (execWidthOrder p farMask switchAt s) := by
  unfold execWidthOrder
  refine Later.occurs ?_ ?_
  · exact hs
  · apply State.widthOrder_ev; exact hs

theorem execSpRestore_ev {z : State} (port p : Nat) (s : State) (hs : z.Evolves s) : Later z (execSpRestore port p s) := by
  unfold execSpRestore
  refine Later.occurs ?_ ?_
  · exact hs
  · apply State.fs_ev; exact hs

theorem State.retrained_ev {z : State} (s : State) (p here far : Nat) (own : Bool) (hs : z.Evolves s) : z.Evolves (State.retrained s p here far own) := by
  unfold State.retrained
  extract_lets +onlyGivenNames t_0
  have ht_0 : z.Evolves t_0 := by
    unfold t_0
    split
    · apply State.fs_ev; exact hs
    · exact hs
  clear_value t_0
  extract_lets +onlyGivenNames t_1
  have ht_1 : z.Evolves t_1 := by
    unfold t_1
    apply State.fs_ev; apply State.fs_ev; apply State.fs_ev; exact ht_0
  clear_value t_1
  extract_lets +onlyGivenNames t_2
  have ht_2 : z.Evolves t_2 := by
    unfold t_2
    apply State.modSp_ev; apply State.fs_ev; exact ht_1
  clear_value t_2
  split
  · apply State.spDown_ev; exact ht_2
  · apply State.setWidth_ev; exact ht_2

theorem execSpRetrainDone_ev {z : State} (p : Nat) (out : Retrain) (s : State) (hs : z.Evolves s) : Later z (execSpRetrainDone p out s) := by
  unfold execSpRetrainDone
  refine Later.occurs ?_ ?_
  · exact hs
  · apply State.retrained_ev; exact hs

theorem State.creditWatchdog_ev {z : State} (s : State) (p vc : Nat) (hs : z.Evolves s) : z.Evolves (State.creditWatchdog s p vc) := by
  unfold State.creditWatchdog
  extract_lets +onlyGivenNames since_0
  extract_lets +onlyGivenNames wd_1
  extract_lets +onlyGivenNames t_2
  have ht_2 : z.Evolves t_2 := by
    unfold t_2
    apply State.count_ev; apply State.raise_ev; apply State.runTo_ev; exact hs
  clear_value t_2
  extract_lets +onlyGivenNames u_3
  have hu_3 : z.Evolves u_3 := by
    unfold u_3
    apply State.modSp_ev; exact ht_2
  clear_value u_3
  split
  · split
    · exact hu_3
    · apply State.log_ev; apply State.modSp_ev; exact hu_3
  · apply State.log_ev; apply State.modSp_ev; exact hu_3

theorem execSpCreditWatchdog_ev {z : State} (p vc : Nat) (s : State) (hs : z.Evolves s) : Later z (execSpCreditWatchdog p vc s) := by
  unfold execSpCreditWatchdog
  refine Later.occurs ?_ ?_
  · exact hs
  · apply State.creditWatchdog_ev; exact hs

theorem execSpStallLimit_ev {z : State} (p vc : Nat) (s : State) (hs : z.Evolves s) : Later z (execSpStallLimit p vc s) := by
  unfold execSpStallLimit
  extract_lets +onlyGivenNames lim_0
  refine Later.occurs ?_ ?_
  · exact hs
  · apply State.spDown_ev; apply State.runTo_ev; exact hs

theorem State.rekey_ev {z : State} (s : State) (p : Nat) (hs : z.Evolves s) : z.Evolves (State.rekey s p) := by
  unfold State.rekey
  apply State.modSp_ev; apply State.say_ev; exact hs

theorem execLinkRekey_ev {z : State} (p : Nat) (s : State) (hs : z.Evolves s) : Later z (execLinkRekey p s) := by
  unfold execLinkRekey
  refine Later.occurs ?_ ?_
  · exact hs
  · apply State.rekey_ev; exact hs

theorem execSpClearCounts_ev {z : State} (port p : Nat) (s : State) (hs : z.Evolves s) : Later z (execSpClearCounts port p s) := by
  unfold execSpClearCounts
  refine Later.occurs ?_ ?_
  · exact hs
  · apply State.zeroRegs_ev; exact hs

theorem State.roundStep_ev {z : State} (s : State) (out : Nat) (h : XHead) (hs : z.Evolves s) : z.Evolves (State.roundStep s out h) := by
  unfold State.roundStep
  split
  · exact hs
  · extract_lets +onlyGivenNames last_0
    extract_lets +onlyGivenNames n_1
    refine State.Evolves.mk_same ?_ rfl rfl rfl rfl
    exact hs

theorem State.grant_ev {z : State} (s : State) (out inp : Nat) (h : XHead) (hs : z.Evolves s) : z.Evolves (State.grant s out inp h) := by
  unfold State.grant
  extract_lets +onlyGivenNames n_0
  extract_lets +onlyGivenNames t_1
  extract_lets +onlyGivenNames t_2
  have ht_2 : z.Evolves t_2 := by
    unfold t_2
    apply State.roundStep_ev
    refine State.Evolves.mk_same ?_ rfl rfl rfl rfl
    exact hs
  clear_value t_2
  extract_lets +onlyGivenNames u_3
  have hu_3 : z.Evolves u_3 := by
    unfold u_3
    split
    · exact ht_2
    · apply State.switched_ev; apply State.charge_ev; exact ht_2
  clear_value u_3
  extract_lets +onlyGivenNames v_4
  have hv_4 : z.Evolves v_4 := by
    unfold v_4
    split
    · exact hu_3
    · apply State.charge_ev; exact hu_3
  clear_value v_4
  extract_lets +onlyGivenNames q_5
  extract_lets +onlyGivenNames v_6
  have hv_6 : z.Evolves v_6 := by
    unfold v_6
    split
    · apply State.modSp_ev; exact hv_4
    · exact hv_4
  clear_value v_6
  extract_lets +onlyGivenNames a_7
  apply State.drainPump_ev; apply State.transmit_ev; apply State.pmc_ev; apply State.pmc_ev; apply State.charge_ev; exact hv_6

theorem execXbarGrant_ev {z : State} (out inp : Nat) (s : State) (hs : z.Evolves s) : Later z (execXbarGrant out inp s) := by
  unfold execXbarGrant
  split
  · refine Later.occurs ?_ ?_
    · exact hs
    · apply State.grant_ev; exact hs
  · refine Later.occurs ?_ ?_
    · exact hs
    · exact hs

end Machine
end Sys2Proof
end

