-- ==== Sys2Proof/Laws/EvolveFabric.lean ====
section
/-!
SUPPORT. The operations of collectives, die links, keeping, stream ports, the home agent and set-up lead to later states (`State.Evolves`): one lemma for each.
-/
namespace Sys2Proof
namespace Machine
set_option Elab.async false

theorem State.inspect_ev {z : State} (s : State) (p : Packet) (hs : z.Evolves s) : z.Evolves (State.inspect s p).2.2 := by
  unfold State.inspect
  split
  · with_reducible assumption
  · split
    · with_reducible assumption
    · extract_lets +onlyGivenNames k_0
      extract_lets +onlyGivenNames x_1
      split
      · with_reducible assumption
      · split
        · with_reducible assumption
        · dsimp only
          refine State.Evolves.mk_same ?_ rfl rfl rfl rfl
          exact hs

theorem State.countTag_ev {z : State} (s : State) (code : Nat) (hs : z.Evolves s) : z.Evolves (State.countTag s code) := by
  unfold State.countTag
  split
  · apply State.count_ev; exact hs
  · exact hs

theorem State.dropPkt_ev {z : State} (s : State) (code : Nat) (hs : z.Evolves s) : z.Evolves (State.dropPkt s code) := by
  unfold State.dropPkt
  apply State.count_ev; apply State.countTag_ev; exact hs

theorem State.modGrp_ev {z : State} (s : State) (g : Nat) (f : CleGrp → CleGrp) (hs : z.Evolves s) : z.Evolves (State.modGrp s g f) := by
  unfold State.modGrp
  refine State.Evolves.mk_same ?_ rfl rfl rfl rfl
  exact hs

theorem State.holdGrp_ev {z : State} (s : State) (g : Nat) (hs : z.Evolves s) : z.Evolves (State.holdGrp s g) := by
  unfold State.holdGrp
  apply State.modGrp_ev; apply State.fs_ev; exact hs

theorem State.showActive_ev {z : State} (s : State) (hs : z.Evolves s) : z.Evolves (State.showActive s) := by
  unfold State.showActive
  apply State.fs_ev; exact hs

theorem State.setGrp_ev {z : State} (s : State) (g st step : Nat) (hs : z.Evolves s) : z.Evolves (State.setGrp s g st step) := by
  unfold State.setGrp
  apply State.showActive_ev; apply State.modGrp_ev; apply State.fs_ev; apply State.fs_ev; exact hs

theorem State.collPump_ev {z : State} (y0 : Nat) (y1 : State) (y2 : Nat) (hy1 : z.Evolves y1) : z.Evolves (State.collPump y0 y1 y2) := by
  induction y0 generalizing y1 with
  | zero => exact hy1
  | succ n ih =>
    unfold State.collPump
    split
    · exact hy1
    · split
      · exact ih _ (State.issue_ev _ _ _ _ (State.charge_ev _ _ _ _ _ (State.modGrp_ev _ _ _ hy1)))
      · exact hy1

theorem State.sendColl_ev {z : State} (s : State) (g : Nat) (r : Rec) (d : CallDesc) (rank ph step code first count : Nat) (body : Bytes) (hs : z.Evolves s) : z.Evolves (State.sendColl s g r d rank ph step code first count body) := by
  unfold State.sendColl
  extract_lets +onlyGivenNames data_0
  extract_lets +onlyGivenNames k_1
  extract_lets +onlyGivenNames t_2
  have ht_2 : z.Evolves t_2 := by
    unfold t_2
    apply State.modGrp_ev; exact hs
  clear_value t_2
  apply State.collPump_ev; exact ht_2

theorem State.endColls_ev {z : State} (s : State) (g code : Nat) (hs : z.Evolves s) : z.Evolves (State.endColls s g code) := by
  unfold State.endColls
  split
  · exact hs
  · refine State.Evolves.foldl ?_ ?_
    · exact hs
    · intro v0 v1 v2
      split
      · split
        · apply State.setRunning_ev; with_reducible assumption
        · with_reducible assumption
      · with_reducible assumption

theorem State.cleErr_ev {z : State} (s : State) (g code origin : Nat) (received : Bool) (hs : z.Evolves s) : z.Evolves (State.cleErr s g code origin received) := by
  unfold State.cleErr
  split
  · apply State.fs_ev; exact hs
  · extract_lets +onlyGivenNames ph_0
    apply State.fs_ev; apply State.fs_ev; apply State.fs_ev; apply State.fs_ev; apply State.fs_ev; apply State.fs_ev; apply State.fs_ev
    apply State.fs_ev; exact hs

theorem State.collSettle_ev {z : State} (s : State) (g : Nat) (hs : z.Evolves s) : z.Evolves (State.collSettle s g) := by
  unfold State.collSettle
  split
  · split
    · apply State.fs_ev; apply State.setGrp_ev; exact hs
    · exact hs
  · exact hs

theorem State.cleAbort_ev {z : State} (s : State) (g code origin : Nat) (received : Bool) (hs : z.Evolves s) : z.Evolves (State.cleAbort s g code origin received) := by
  unfold State.cleAbort
  split
  · extract_lets +onlyGivenNames t_0
    have ht_0 : z.Evolves t_0 := by
      unfold t_0
      apply State.cleErr_ev; exact hs
    clear_value t_0
    extract_lets +onlyGivenNames t1_1
    have ht1_1 : z.Evolves t1_1 := by
      unfold t1_1
      split
      · apply State.count_ev; exact ht_0
      · split
        · apply State.count_ev; exact ht_0
        · exact ht_0
    clear_value t1_1
    extract_lets +onlyGivenNames t2_2
    have ht2_2 : z.Evolves t2_2 := by
      unfold t2_2
      split
      · exact ht1_1
      · refine State.Evolves.foldl ?_ ?_
        · exact ht1_1
        · intro v3 v4 v5
          apply State.sendColl_ev; with_reducible assumption
    clear_value t2_2
    extract_lets +onlyGivenNames t3_6
    have ht3_6 : z.Evolves t3_6 := by
      unfold t3_6
      apply State.fs_ev; apply State.setGrp_ev; apply State.endColls_ev; exact ht2_2
    clear_value t3_6
    extract_lets +onlyGivenNames t4_7
    have ht4_7 : z.Evolves t4_7 := by
      unfold t4_7
      apply State.modGrp_ev; exact ht3_6
    clear_value t4_7
    extract_lets +onlyGivenNames t5_8
    have ht5_8 : z.Evolves t5_8 := by
      unfold t5_8
      split
      · exact ht4_7
      · apply State.log_ev; exact ht4_7
    clear_value t5_8
    apply State.collSettle_ev
    split
    · apply State.emit_ev; exact ht5_8
    · exact ht5_8
  · exact hs

theorem State.collOwn_ev {z : State} (s : State) (g : Nat) (r : Rec) (d : CallDesc) (hs : z.Evolves s) : z.Evolves (State.collOwn s g r d) := by
  unfold State.collOwn
  extract_lets +onlyGivenNames x_0
  split
  · extract_lets +onlyGivenNames rg_1
    split
    · exact hs
    · split
      · apply State.modGrp_ev; exact hs
      · extract_lets +onlyGivenNames o_2
        apply State.modGrp_ev; exact hs
  · exact hs

theorem State.adderUsed_ev {z : State} (s : State) (g : Nat) (hs : z.Evolves s) : z.Evolves (State.adderUsed s g) := by
  unfold State.adderUsed
  split
  · apply State.log_ev; apply State.pmc_ev; apply State.count_ev; apply State.fs_ev; exact hs
  · exact hs

theorem State.collCombine_ev {z : State} (s : State) (g : Nat) (r : Rec) (d : CallDesc) (hs : z.Evolves s) : z.Evolves (State.collCombine s g r d) := by
  unfold State.collCombine
  extract_lets +onlyGivenNames v_0
  split
  · apply State.modGrp_ev
    split
    · apply State.adderUsed_ev; exact hs
    · exact hs
  · apply State.cleAbort_ev; apply State.pmc_ev; exact hs

theorem State.collWrite_ev {z : State} (s : State) (g : Nat) (r : Rec) (d : CallDesc) (hs : z.Evolves s) : z.Evolves (State.collWrite s g r d) := by
  unfold State.collWrite
  extract_lets +onlyGivenNames x_0
  split
  · exact hs
  · refine State.Evolves.foldl ?_ ?_
    · exact hs
    · intro v1 v2 v3
      split
      · split
        · extract_lets +onlyGivenNames k_4
          extract_lets +onlyGivenNames part_5
          extract_lets +onlyGivenNames v_6
          refine State.Evolves.foldl ?_ ?_
          · with_reducible assumption
          · intro v7 v8 v9
            apply State.writeRow_ev; with_reducible assumption
        · with_reducible assumption
      · with_reducible assumption

theorem State.collFinish_ev {z : State} (s : State) (g : Nat) (r : Rec) (d : CallDesc) (hs : z.Evolves s) : z.Evolves (State.collFinish s g r d) := by
  unfold State.collFinish
  extract_lets +onlyGivenNames f_0
  have hf_0 : z.Evolves f_0 := by
    unfold f_0
    refine State.Evolves.foldl ?_ ?_
    · exact hs
    · intro v1 v2 v3
      apply State.fall_ev; with_reducible assumption
  clear_value f_0
  extract_lets +onlyGivenNames t_4
  have ht_4 : z.Evolves t_4 := by
    unfold t_4
    apply State.endColls_ev; apply State.collWrite_ev; exact hf_0
  clear_value t_4
  extract_lets +onlyGivenNames u_5
  have hu_5 : z.Evolves u_5 := by
    unfold u_5
    apply State.count_ev; exact ht_4
  clear_value u_5
  extract_lets +onlyGivenNames wide_6
  extract_lets +onlyGivenNames v_7
  have hv_7 : z.Evolves v_7 := by
    unfold v_7
    split
    · apply State.count_ev; exact hu_5
    · exact hu_5
  clear_value v_7
  extract_lets +onlyGivenNames w_8
  have hw_8 : z.Evolves w_8 := by
    unfold w_8
    apply State.fs_ev; apply State.setGrp_ev; exact hv_7
  clear_value w_8
  apply State.modGrp_ev; exact hw_8

theorem State.collDoneSent_ev {z : State} (s : State) (g : Nat) (r : Rec) (d : CallDesc) (hs : z.Evolves s) : z.Evolves (State.collDoneSent s g r d) := by
  unfold State.collDoneSent
  extract_lets +onlyGivenNames t_0
  have ht_0 : z.Evolves t_0 := by
    unfold t_0
    apply State.modGrp_ev; exact hs
  clear_value t_0
  split
  · exact ht_0
  · apply State.sendColl_ev; exact ht_0

theorem State.collCommit_ev {z : State} (s : State) (g : Nat) (r : Rec) (d : CallDesc) (hs : z.Evolves s) : z.Evolves (State.collCommit s g r d) := by
  unfold State.collCommit
  extract_lets +onlyGivenNames got_0
  split
  · exact hs
  · split
    · split
      · exact hs
      · apply State.collFinish_ev; exact hs
    · split
      · apply State.collFinish_ev
        refine State.Evolves.foldl ?_ ?_
        · exact hs
        · intro v1 v2 v3
          apply State.sendColl_ev; with_reducible assumption
      · exact hs

theorem State.nextPhase_ev {z : State} (s : State) (g : Nat) (r : Rec) (d : CallDesc) (ph : Nat) (hs : z.Evolves s) : z.Evolves (State.nextPhase s g r d ph) := by
  unfold State.nextPhase
  extract_lets +onlyGivenNames t_0
  have ht_0 : z.Evolves t_0 := by
    unfold t_0
    split
    · apply State.collCombine_ev; exact hs
    · exact hs
  clear_value t_0
  split
  · exact ht_0
  · split
    · apply State.setGrp_ev; exact ht_0
    · extract_lets +onlyGivenNames u_1
      have hu_1 : z.Evolves u_1 := by
        unfold u_1
        split
        · apply State.collOwn_ev; apply State.setGrp_ev; exact ht_0
        · exact ht_0
      clear_value u_1
      split
      · apply State.setGrp_ev; exact hu_1
      · apply State.collDoneSent_ev; exact hu_1

theorem State.betweenSteps_ev {z : State} (s : State) (g : Nat) (hs : z.Evolves s) : z.Evolves (State.betweenSteps s g) := by
  unfold State.betweenSteps
  split
  · apply State.holdGrp_ev; exact hs
  · exact hs

theorem State.collStep_ev {z : State} (s : State) (g : Nat) (r : Rec) (d : CallDesc) (hs : z.Evolves s) : z.Evolves (State.collStep s g r d).1 := by
  unfold State.collStep
  extract_lets +onlyGivenNames st_0
  extract_lets +onlyGivenNames x_1
  split
  · with_reducible assumption
  · split
    · split
      · dsimp only
        apply State.betweenSteps_ev; apply State.setGrp_ev; exact hs
      · with_reducible assumption
    · split
      · with_reducible assumption
      · extract_lets +onlyGivenNames ph_2
        extract_lets +onlyGivenNames k_3
        extract_lets +onlyGivenNames p_4
        extract_lets +onlyGivenNames t_5
        have ht_5 : z.Evolves t_5 := by
          unfold t_5
          apply State.modGrp_ev; exact hs
        clear_value t_5
        extract_lets +onlyGivenNames t_6
        have ht_6 : z.Evolves t_6 := by
          unfold t_6
          split
          · exact hs
          · split
            · refine State.Evolves.foldl ?_ ?_
              · exact ht_5
              · intro v7 v8 v9
                apply State.sendColl_ev; with_reducible assumption
            · exact ht_5
        clear_value t_6
        extract_lets +onlyGivenNames ms_10
        extract_lets +onlyGivenNames want_11
        split
        · with_reducible assumption
        · extract_lets +onlyGivenNames c_12
          split
          · dsimp only
            apply State.cleAbort_ev; apply State.pmc_ev; exact ht_6
          · extract_lets +onlyGivenNames t0_13
            have ht0_13 : z.Evolves t0_13 := by
              unfold t0_13
              split
              · apply State.adderUsed_ev; exact ht_6
              · exact ht_6
            clear_value t0_13
            extract_lets +onlyGivenNames u_14
            extract_lets +onlyGivenNames u_15
            have hu_15 : z.Evolves u_15 := by
              unfold u_15
              apply State.modGrp_ev; exact ht0_13
            clear_value u_15
            dsimp only
            apply State.betweenSteps_ev
            split
            · apply State.setGrp_ev; exact hu_15
            · apply State.nextPhase_ev; exact hu_15

theorem State.collRun_ev {z : State} (s : State) (g : Nat) (r : Rec) (d : CallDesc) (y0 : Nat) (hs : z.Evolves s) : z.Evolves (State.collRun s g r d y0) := by
  induction y0 generalizing s with
  | zero => exact hs
  | succ n ih =>
    have h1 := State.collStep_ev s g r d hs
    unfold State.collRun
    extract_lets p
    split
    · exact ih _ h1
    · exact h1

theorem State.collAdvance_ev {z : State} (s : State) (g : Nat) (hs : z.Evolves s) : z.Evolves (State.collAdvance s g) := by
  unfold State.collAdvance
  split
  · extract_lets +onlyGivenNames t_0
    have ht_0 : z.Evolves t_0 := by
      unfold t_0
      apply State.collPump_ev; exact hs
    clear_value t_0
    split
    · exact ht_0
    · split
      · apply State.collCommit_ev; apply State.collRun_ev; exact ht_0
      · split
        · apply State.cleAbort_ev; exact ht_0
        · extract_lets +onlyGivenNames u_1
          have hu_1 : z.Evolves u_1 := by
            unfold u_1
            apply State.collCommit_ev; exact ht_0
          clear_value u_1
          split
          · exact hu_1
          · apply State.cleAbort_ev; exact hu_1
  · apply State.collPump_ev; exact hs

theorem State.collRetry_ev {z : State} (s : State) (hs : z.Evolves s) : z.Evolves (State.collRetry s) := by
  unfold State.collRetry
  refine State.Evolves.foldl ?_ ?_
  · exact hs
  · intro v0 v1 v2
    split
    · apply State.collAdvance_ev; with_reducible assumption
    · with_reducible assumption

theorem State.collBegin_ev {z : State} (s : State) (g : Nat) (hs : z.Evolves s) : z.Evolves (State.collBegin s g) := by
  unfold State.collBegin
  split
  · exact hs
  · split
    · exact hs
    · split
      · exact hs
      · extract_lets +onlyGivenNames d_0
        extract_lets +onlyGivenNames raws_1
        extract_lets +onlyGivenNames lfs_2
        extract_lets +onlyGivenNames x_3
        extract_lets +onlyGivenNames n_4
        extract_lets +onlyGivenNames me_5
        extract_lets +onlyGivenNames tot_6
        extract_lets +onlyGivenNames res0_7
        extract_lets +onlyGivenNames res_8
        extract_lets +onlyGivenNames tb_9
        extract_lets +onlyGivenNames s0_10
        have hs0_10 : z.Evolves s0_10 := by
          unfold s0_10
          split
          · exact hs
          · refine State.Evolves.foldl ?_ ?_
            · exact hs
            · intro v11 v12 v13
              apply State.rise_ev; with_reducible assumption
        clear_value s0_10
        extract_lets +onlyGivenNames t_14
        extract_lets +onlyGivenNames t_15
        have ht_15 : z.Evolves t_15 := by
          unfold t_15
          apply State.modGrp_ev; exact hs0_10
        clear_value t_15
        extract_lets +onlyGivenNames u_16
        have hu_16 : z.Evolves u_16 := by
          unfold u_16
          apply State.setGrp_ev; exact ht_15
        clear_value u_16
        extract_lets +onlyGivenNames u_17
        have hu_17 : z.Evolves u_17 := by
          unfold u_17
          split
          · apply State.setGrp_ev; exact ht_15
          · split
            · apply State.collCombine_ev; apply State.setGrp_ev; exact ht_15
            · split
              · apply State.modGrp_ev; apply State.collOwn_ev
                split
                · apply State.collCombine_ev; exact hu_16
                · exact hu_16
              · split
                · apply State.setGrp_ev; exact ht_15
                · apply State.modGrp_ev; apply State.setGrp_ev; exact ht_15
        clear_value u_17
        split
        · exact hu_17
        · split
          · apply State.cleAbort_ev; exact hu_17
          · apply State.collAdvance_ev
            split
            · apply State.collDoneSent_ev; exact hu_17
            · exact hu_17

theorem State.collUndo_ev {z : State} (s : State) (g : Nat) (m : CollIn) (hs : z.Evolves s) : LaterO z (State.collUndo s g m) := by
  unfold State.collUndo
  split
  · split
    · extract_lets +onlyGivenNames t_0
      have ht_0 : z.Evolves t_0 := by
        unfold t_0
        refine State.Evolves.foldl ?_ ?_
        · exact hs
        · intro v1 v2 v3
          apply State.wr_ev; with_reducible assumption
      clear_value t_0
      refine LaterO.some ?_
      apply State.collFinish_ev; apply State.modGrp_ev; exact ht_0
    · exact LaterO.none
  · exact LaterO.none

theorem State.collData_ev {z : State} (s : State) (p : Packet) (hs : z.Evolves s) : z.Evolves (State.collData s p) := by
  unfold State.collData
  extract_lets +onlyGivenNames g_0
  extract_lets +onlyGivenNames m_1
  extract_lets +onlyGivenNames t_2
  have ht_2 : z.Evolves t_2 := by
    unfold t_2
    apply State.charge_ev; apply State.rxCount_ev; exact hs
  clear_value t_2
  split
  · apply State.count_ev; exact ht_2
  · split
    · refine State.Evolves.of_some (by assumption) ?_
      apply State.collUndo_ev; exact ht_2
    · split
      · apply State.count_ev; exact ht_2
      · apply State.collAdvance_ev; apply State.modGrp_ev; exact ht_2

theorem State.collAbortRx_ev {z : State} (s : State) (p : Packet) (hs : z.Evolves s) : z.Evolves (State.collAbortRx s p) := by
  unfold State.collAbortRx
  extract_lets +onlyGivenNames g_0
  extract_lets +onlyGivenNames m_1
  extract_lets +onlyGivenNames code_2
  extract_lets +onlyGivenNames t_3
  have ht_3 : z.Evolves t_3 := by
    unfold t_3
    apply State.count_ev; apply State.charge_ev; apply State.rxCount_ev; exact hs
  clear_value t_3
  split
  · split
    · apply State.count_ev; exact ht_3
    · exact ht_3
  · extract_lets +onlyGivenNames u_4
    have hu_4 : z.Evolves u_4 := by
      unfold u_4
      apply State.collAdvance_ev; apply State.modGrp_ev; exact ht_3
    clear_value u_4
    split
    · apply State.modGrp_ev; exact hu_4
    · exact hu_4

theorem execCollAnchor_ev {z : State} (p : Nat) (pkt : Packet) (s : State) (hs : z.Evolves s) : Later z (execCollAnchor p pkt s) := by
  unfold execCollAnchor
  split
  · extract_lets +onlyGivenNames r_0
    have hr_0 : z.Evolves r_0.2.2 := by
      unfold r_0
      apply State.inspect_ev
      refine State.Evolves.of_some (by assumption) ?_
      refine LaterO.bind ?_ ?_
      · apply State.takeRx_ev; exact hs
      · intro v1 v2
        apply State.toHub_ev; with_reducible assumption
    clear_value r_0
    split
    · refine Later.occurs ?_ ?_
      · exact hs
      · apply State.dropPkt_ev; exact hr_0
    · split
      · refine Later.occurs ?_ ?_
        · exact hs
        · apply State.dropPkt_ev; exact hr_0
      · refine Later.occurs ?_ ?_
        · exact hs
        · apply State.collData_ev; exact hr_0
  · refine Later.occurs ?_ ?_
    · exact hs
    · exact hs

theorem collRow_ev {z : State} (ph : Nat) (f : State → Packet → State) (p : Nat) (pkt : Packet) (s : State) (hs : z.Evolves s) (hf : ∀ y0 y1, z.Evolves y0 → z.Evolves (f y0 y1)) : Later z (collRow ph f p pkt s) := by
  unfold collRow
  split
  · extract_lets +onlyGivenNames r_0
    have hr_0 : z.Evolves r_0.2.2 := by
      unfold r_0
      apply State.inspect_ev
      refine State.Evolves.of_some (by assumption) ?_
      refine LaterO.bind ?_ ?_
      · apply State.takeRx_ev; exact hs
      · intro v1 v2
        apply State.toHub_ev; with_reducible assumption
    clear_value r_0
    refine Later.occurs ?_ ?_
    · exact hs
    · apply hf; exact hr_0
  · refine Later.occurs ?_ ?_
    · exact hs
    · exact hs

theorem execCollReduce_ev {z : State} (p : Nat) (pkt : Packet) (s : State) (hs : z.Evolves s) : Later z (execCollReduce p pkt s) := by
  unfold execCollReduce
  apply collRow_ev
  · exact hs
  · intro v0 v1 v2
    apply State.collData_ev; with_reducible assumption

theorem execCollGather_ev {z : State} (p : Nat) (pkt : Packet) (s : State) (hs : z.Evolves s) : Later z (execCollGather p pkt s) := by
  unfold execCollGather
  apply collRow_ev
  · exact hs
  · intro v0 v1 v2
    apply State.collData_ev; with_reducible assumption

theorem execCollDone_ev {z : State} (p : Nat) (pkt : Packet) (s : State) (hs : z.Evolves s) : Later z (execCollDone p pkt s) := by
  unfold execCollDone
  apply collRow_ev
  · exact hs
  · intro v0 v1 v2
    apply State.collData_ev; with_reducible assumption

theorem execCollCommit_ev {z : State} (p : Nat) (pkt : Packet) (s : State) (hs : z.Evolves s) : Later z (execCollCommit p pkt s) := by
  unfold execCollCommit
  apply collRow_ev
  · exact hs
  · intro v0 v1 v2
    apply State.collData_ev; with_reducible assumption

theorem execCollAbort_ev {z : State} (p : Nat) (pkt : Packet) (s : State) (hs : z.Evolves s) : Later z (execCollAbort p pkt s) := by
  unfold execCollAbort
  apply collRow_ev
  · exact hs
  · intro v0 v1 v2
    apply State.collAbortRx_ev; with_reducible assumption

theorem execStepDeadline_ev {z : State} (group : Nat) (s : State) (hs : z.Evolves s) : Later z (execStepDeadline group s) := by
  unfold execStepDeadline
  split
  · refine Later.occurs ?_ ?_
    · exact hs
    · apply State.cleAbort_ev; apply State.runTo_ev; exact hs
  · refine Later.occurs ?_ ?_
    · exact hs
    · exact hs

theorem State.cleHold_ev {z : State} (s : State) (hs : z.Evolves s) : z.Evolves (State.cleHold s) := by
  unfold State.cleHold
  refine State.Evolves.foldl ?_ ?_
  · apply State.fs_ev; exact hs
  · intro v0 v1 v2
    split
    · apply State.holdGrp_ev; with_reducible assumption
    · with_reducible assumption

theorem State.cleResume_ev {z : State} (s : State) (hs : z.Evolves s) : z.Evolves (State.cleResume s) := by
  unfold State.cleResume
  refine State.Evolves.foldl ?_ ?_
  · apply State.fs_ev; exact hs
  · intro v0 v1 v2
    extract_lets +onlyGivenNames u_3
    have hu_3 : z.Evolves u_3 := by
      unfold u_3
      apply State.fs_ev; with_reducible assumption
    clear_value u_3
    split
    · apply State.collAdvance_ev; apply State.modGrp_ev; exact hu_3
    · exact hu_3

theorem State.abortCalls_ev {z : State} (s : State) (p : Rec → Bool) (code : Nat) (hs : z.Evolves s) : z.Evolves (State.abortCalls s p code) := by
  unfold State.abortCalls
  refine State.Evolves.foldl ?_ ?_
  · exact hs
  · intro v0 v1 v2
    split
    · apply State.cleAbort_ev; with_reducible assumption
    · with_reducible assumption

theorem State.showGroups_ev {z : State} (s : State) (hs : z.Evolves s) : z.Evolves (State.showGroups s) := by
  unfold State.showGroups
  extract_lets +onlyGivenNames t_0
  have ht_0 : z.Evolves t_0 := by
    unfold t_0
    refine State.Evolves.foldl ?_ ?_
    · exact hs
    · intro v1 v2 v3
      split
      · extract_lets +onlyGivenNames v_4
        have hv_4 : z.Evolves v_4 := by
          unfold v_4
          split
          · with_reducible assumption
          · apply State.fs_ev; with_reducible assumption
        clear_value v_4
        apply State.fs_ev; apply State.fs_ev; apply State.fs_ev; exact hv_4
      · split
        · apply State.wr_ev; apply State.modGrp_ev; with_reducible assumption
        · with_reducible assumption
  clear_value t_0
  apply State.fs_ev; exact ht_0

theorem execCleClearCounts_ev {z : State} (port : Nat) (s : State) (hs : z.Evolves s) : Later z (execCleClearCounts port s) := by
  unfold execCleClearCounts
  refine Later.occurs ?_ ?_
  · exact hs
  · apply State.zeroRegs_ev; exact hs

theorem execCleInjectResidue_ev {z : State} (port : Nat) (s : State) (hs : z.Evolves s) : Later z (execCleInjectResidue port s) := by
  unfold execCleInjectResidue
  refine Later.occurs ?_ ?_
  · exact hs
  · apply State.fs_ev; exact hs

theorem State.setLink_ev {z : State} (s : State) (k : Nat) (f : Fld) (v : Nat) (hs : z.Evolves s) : z.Evolves (State.setLink s k f v) := by
  unfold State.setLink
  refine State.Evolves.foldl ?_ ?_
  · exact hs
  · intro v0 v1 v2
    apply State.fs_ev; with_reducible assumption

theorem State.unparkDead_ev {z : State} (s : State) (hs : z.Evolves s) : z.Evolves (State.unparkDead s) := by
  unfold State.unparkDead
  extract_lets +onlyGivenNames dead_0
  extract_lets +onlyGivenNames gone_1
  refine State.Evolves.foldl ?_ ?_
  · refine State.Evolves.mk_same ?_ rfl rfl rfl rfl
    exact hs
  · intro v2 v3 v4
    apply State.refuse_ev; apply State.count_ev; with_reducible assumption

theorem State.dropDie_ev {z : State} (s : State) (d : Nat) (hs : z.Evolves s) : z.Evolves (State.dropDie s d) := by
  unfold State.dropDie
  extract_lets +onlyGivenNames mine_0
  extract_lets +onlyGivenNames sent_1
  extract_lets +onlyGivenNames loads_2
  extract_lets +onlyGivenNames t_3
  have ht_3 : z.Evolves t_3 := by
    unfold t_3
    apply State.dropHeads_ev; exact hs
  clear_value t_3
  extract_lets +onlyGivenNames u_4
  have hu_4 : z.Evolves u_4 := by
    unfold u_4
    apply State.clearPairs_ev; exact ht_3
  clear_value u_4
  extract_lets +onlyGivenNames here_5
  refine State.Evolves.mk_same ?_ rfl rfl rfl rfl
  exact hu_4

theorem State.dropCores_ev {z : State} (s : State) (d : Nat) (hs : z.Evolves s) : z.Evolves (State.dropCores s d) := by
  unfold State.dropCores
  refine State.Evolves.foldl ?_ ?_
  · exact hs
  · intro v0 v1 v2
    extract_lets +onlyGivenNames core_3
    extract_lets +onlyGivenNames u_4
    have hu_4 : z.Evolves u_4 := by
      unfold u_4
      refine State.Evolves.foldl ?_ ?_
      · with_reducible assumption
      · intro v5 v6 v7
        apply State.haltCtx_ev; with_reducible assumption
    clear_value u_4
    refine State.Evolves.foldl ?_ ?_
    · exact hu_4
    · intro v8 v9 v10
      apply State.setQueue_ev; apply State.setRunning_ev; with_reducible assumption

theorem State.restoreDone_ev {z : State} (s : State) (d : Nat) (hs : z.Evolves s) : z.Evolves (State.restoreDone s d) := by
  unfold State.restoreDone
  split
  · exact hs
  · apply State.fs_ev; exact hs

theorem State.retrainOver_ev {z : State} (s : State) (k : Nat) (hs : z.Evolves s) : z.Evolves (State.retrainOver s k) := by
  unfold State.retrainOver
  extract_lets +onlyGivenNames ds_0
  extract_lets +onlyGivenNames t_1
  have ht_1 : z.Evolves t_1 := by
    unfold t_1
    refine State.Evolves.foldl ?_ ?_
    · exact hs
    · intro v2 v3 v4
      apply State.modLink_ev; with_reducible assumption
  clear_value t_1
  refine State.Evolves.foldl ?_ ?_
  · exact ht_1
  · intro v5 v6 v7
    apply State.restoreDone_ev; with_reducible assumption

theorem State.closeLink_ev {z : State} (s : State) (k : Nat) (hs : z.Evolves s) : z.Evolves (State.closeLink s k) := by
  unfold State.closeLink
  apply State.retrainOver_ev; apply State.setLink_ev; apply State.setLink_ev; apply State.setLink_ev; apply State.setLink_ev; exact hs

theorem State.fenceDie_ev {z : State} (s : State) (d cause : Nat) (hs : z.Evolves s) : z.Evolves (State.fenceDie s d cause) := by
  unfold State.fenceDie
  extract_lets +onlyGivenNames t_0
  have ht_0 : z.Evolves t_0 := by
    unfold t_0
    apply State.fs_ev
    refine State.Evolves.foldl ?_ ?_
    · exact hs
    · intro v1 v2 v3
      apply State.fs_ev; with_reducible assumption
  clear_value t_0
  extract_lets +onlyGivenNames dr_4
  have hdr_4 : z.Evolves dr_4.1 := by
    unfold dr_4
    apply State.dropHeads_ev; exact ht_0
  clear_value dr_4
  extract_lets +onlyGivenNames t1_5
  have ht1_5 : z.Evolves t1_5 := by
    unfold t1_5
    apply State.countN_ev; exact hdr_4
  clear_value t1_5
  extract_lets +onlyGivenNames t2_6
  have ht2_6 : z.Evolves t2_6 := by
    unfold t2_6
    refine State.Evolves.foldl ?_ ?_
    · exact ht1_5
    · intro v7 v8 v9
      apply State.closeLink_ev; with_reducible assumption
  clear_value t2_6
  extract_lets +onlyGivenNames t3_10
  have ht3_10 : z.Evolves t3_10 := by
    unfold t3_10
    apply State.fs_ev; apply State.fs_ev; exact ht2_6
  clear_value t3_10
  extract_lets +onlyGivenNames t4_11
  have ht4_11 : z.Evolves t4_11 := by
    unfold t4_11
    apply State.dropDie_ev; apply State.dropCores_ev; exact ht3_10
  clear_value t4_11
  extract_lets +onlyGivenNames t5_12
  have ht5_12 : z.Evolves t5_12 := by
    unfold t5_12
    apply State.faultActs_ev; exact ht4_11
  clear_value t5_12
  extract_lets +onlyGivenNames t6_13
  have ht6_13 : z.Evolves t6_13 := by
    unfold t6_13
    split
    · apply State.spDown_ev; exact ht5_12
    · exact ht5_12
  clear_value t6_13
  extract_lets +onlyGivenNames t7_14
  have ht7_14 : z.Evolves t7_14 := by
    unfold t7_14
    apply State.applyRecheck_ev; apply State.abortCalls_ev; apply State.unparkDead_ev; exact ht6_13
  clear_value t7_14
  extract_lets +onlyGivenNames t8_15
  extract_lets +onlyGivenNames t8_16
  have ht8_16 : z.Evolves t8_16 := by
    unfold t8_16
    refine State.Evolves.mk_same ?_ rfl rfl rfl rfl
    exact ht7_14
  clear_value t8_16
  extract_lets +onlyGivenNames t9_17
  have ht9_17 : z.Evolves t9_17 := by
    unfold t9_17
    split
    · apply State.dieResetEnds_ev; exact ht8_16
    · exact ht8_16
  clear_value t9_17
  split
  · exact ht9_17
  · apply State.emit_ev; apply State.log_ev; apply State.fsat_ev; exact ht9_17

theorem State.dieCause_ev {z : State} (s : State) (d cause : Nat) (hs : z.Evolves s) : z.Evolves (State.dieCause s d cause) := by
  unfold State.dieCause
  split
  · apply State.fenceDie_ev; exact hs
  · apply State.fs_ev; exact hs

theorem execDieClockLoss_ev {z : State} (die : Nat) (s : State) (hs : z.Evolves s) : Later z (execDieClockLoss die s) := by
  unfold execDieClockLoss
  refine Later.occurs ?_ ?_
  · exact hs
  · apply State.dieCause_ev; exact hs

theorem execNeighbourClockLoss_ev {z : State} (die : Nat) (west : Bool) (s : State) (hs : z.Evolves s) : Later z (execNeighbourClockLoss die west s) := by
  unfold execNeighbourClockLoss
  extract_lets +onlyGivenNames lost_0
  extract_lets +onlyGivenNames cause_1
  refine Later.occurs ?_ ?_
  · exact hs
  · apply State.dieCause_ev; exact hs

theorem State.setAclk_ev {z : State} (s : State) (d : Nat) (on : Bool) (hs : z.Evolves s) : z.Evolves (State.setAclk s d on) := by
  unfold State.setAclk
  extract_lets +onlyGivenNames k_0
  extract_lets +onlyGivenNames t_1
  have ht_1 : z.Evolves t_1 := by
    unfold t_1
    apply State.fs_ev; exact hs
  clear_value t_1
  extract_lets +onlyGivenNames runs_2
  extract_lets +onlyGivenNames put_3
  have hput_3 : ∀ a0 a1, z.Evolves a0 → z.Evolves (put_3 a0 a1) := by
    unfold put_3
    intro v4 v5 v6
    refine State.Evolves.mk_same ?_ rfl rfl rfl rfl
    with_reducible assumption
  clear_value put_3
  clear_value runs_2
  split
  · exact ht_1
  · apply hput_3; exact ht_1
  · apply hput_3; apply State.fs_ev; exact ht_1
  · exact ht_1

theorem execAclkLoss_ev {z : State} (die : Nat) (s : State) (hs : z.Evolves s) : Later z (execAclkLoss die s) := by
  unfold execAclkLoss
  refine Later.occurs ?_ ?_
  · exact hs
  · apply State.fenceDie_ev; apply State.setAclk_ev; exact hs

theorem State.countResend_ev {z : State} (s : State) (k : Nat) (hs : z.Evolves s) : z.Evolves (State.countResend s k) := by
  unfold State.countResend
  refine State.Evolves.foldl ?_ ?_
  · exact hs
  · intro v0 v1 v2
    apply State.count_ev; apply State.pmc_ev; with_reducible assumption

theorem State.linkResendFrom_ev {z : State} (s : State) (e n : Nat) (hs : z.Evolves s) : z.Evolves (State.linkResendFrom s e n) := by
  unfold State.linkResendFrom
  refine State.Evolves.foldl ?_ ?_
  · exact hs
  · intro v0 v1 v2
    apply State.emit_ev; apply State.countResend_ev; with_reducible assumption

theorem State.linkResend_ev {z : State} (s : State) (e : Nat) (hs : z.Evolves s) : z.Evolves (State.linkResend s e) := by
  unfold State.linkResend
  apply State.linkResendFrom_ev; exact hs

theorem State.linkFlit_ev {z : State} (s : State) (e : Nat) (f : LinkFlit) (hs : z.Evolves s) : z.Evolves (State.linkFlit s e f) := by
  unfold State.linkFlit
  split
  · extract_lets +onlyGivenNames n_0
    split
    · apply State.linkResendFrom_ev; exact hs
    · apply State.emit_ev; apply State.countResend_ev; exact hs
  · extract_lets +onlyGivenNames t_1
    have ht_1 : z.Evolves t_1 := by
      unfold t_1
      apply State.modLink_ev; exact hs
    clear_value t_1
    split
    · apply State.pmc_ev; apply State.emit_ev; apply State.modLink_ev; exact ht_1
    · exact ht_1

theorem execLinkFlitRx_ev {z : State} (die link : Nat) (flit : LinkFlit) (s : State) (hs : z.Evolves s) : Later z (execLinkFlitRx die link flit s) := by
  unfold execLinkFlitRx
  refine Later.occurs ?_ ?_
  · exact hs
  · apply State.collRetry_ev; apply State.linkFlit_ev; exact hs

theorem State.retrainAfter_ev {z : State} (s : State) (k : Nat) (hs : z.Evolves s) : z.Evolves (State.retrainAfter s k) := by
  unfold State.retrainAfter
  extract_lets +onlyGivenNames soon_0
  split
  · exact hs
  · split
    · refine State.Evolves.foldl ?_ ?_
      · apply State.setLink_ev; exact hs
      · intro v1 v2 v3
        apply State.modLink_ev; with_reducible assumption
    · apply State.setLink_ev; exact hs

theorem State.deadLink_ev {z : State} (s : State) (k : Nat) (hs : z.Evolves s) : z.Evolves (State.deadLink s k) := by
  unfold State.deadLink
  split
  · apply State.dieCause_ev; exact hs
  · exact hs

theorem State.linkRewidth_ev {z : State} (s : State) (k : Nat) (light : Bool) (hs : z.Evolves s) : z.Evolves (State.linkRewidth s k light) := by
  unfold State.linkRewidth
  extract_lets +onlyGivenNames old_0
  extract_lets +onlyGivenNames w_1
  extract_lets +onlyGivenNames d_2
  split
  · exact hs
  · split
    · split
      · apply State.fenceDie_ev; exact hs
      · extract_lets +onlyGivenNames span_3
        apply State.faultActs_ev; apply State.log_ev; apply State.closeLink_ev; exact hs
    · extract_lets +onlyGivenNames running_4
      extract_lets +onlyGivenNames t_5
      have ht_5 : z.Evolves t_5 := by
        unfold t_5
        apply State.setLink_ev; apply State.setLink_ev; apply State.setLink_ev; exact hs
      clear_value t_5
      extract_lets +onlyGivenNames r_6
      have hr_6 : z.Evolves r_6 := by
        unfold r_6
        apply State.linkResend_ev; apply State.emit_ev; exact ht_5
      clear_value r_6
      extract_lets +onlyGivenNames u_7
      have hu_7 : z.Evolves u_7 := by
        unfold u_7
        apply State.log_ev; apply State.linkResend_ev; exact hr_6
      clear_value u_7
      split
      · apply State.setLink_ev; exact hu_7
      · apply State.retrainAfter_ev; exact hu_7

theorem State.firstFailed_ev {z : State} (s : State) (k lane : Nat) (hs : z.Evolves s) : z.Evolves (State.firstFailed s k lane) := by
  unfold State.firstFailed
  split
  · apply State.fs_ev; exact hs
  · exact hs

theorem State.showSpares_ev {z : State} (s : State) (k : Nat) (hs : z.Evolves s) : z.Evolves (State.showSpares s k) := by
  unfold State.showSpares
  apply State.setLink_ev; exact hs

theorem State.linkLaneFail_ev {z : State} (s : State) (k lane : Nat) (hs : z.Evolves s) : z.Evolves (State.linkLaneFail s k lane) := by
  unfold State.linkLaneFail
  extract_lets +onlyGivenNames x_0
  split
  · exact hs
  · split
    · split
      · apply State.deadLink_ev; apply State.modLink_ev; exact hs
      · exact hs
    · split
      · apply State.linkRewidth_ev; apply State.firstFailed_ev; apply State.modLink_ev; exact hs
      · extract_lets +onlyGivenNames t_1
        have ht_1 : z.Evolves t_1 := by
          unfold t_1
          apply State.modLink_ev; exact hs
        clear_value t_1
        split
        · exact ht_1
        · extract_lets +onlyGivenNames u_2
          have hu_2 : z.Evolves u_2 := by
            unfold u_2
            apply State.firstFailed_ev; exact ht_1
          clear_value u_2
          split
          · apply State.setLink_ev; apply State.showSpares_ev; apply State.modLink_ev; exact hu_2
          · apply State.linkRewidth_ev; apply State.showSpares_ev; apply State.modLink_ev; exact hu_2

theorem execLinkLaneFail_ev {z : State} (die link lane : Nat) (s : State) (hs : z.Evolves s) : Later z (execLinkLaneFail die link lane s) := by
  unfold execLinkLaneFail
  refine Later.occurs ?_ ?_
  · exact hs
  · apply State.linkLaneFail_ev; exact hs

theorem State.laneWindow_ev {z : State} (s : State) (die link lane errors : Nat) (hs : z.Evolves s) : z.Evolves (State.laneWindow s die link lane errors) := by
  unfold State.laneWindow
  extract_lets +onlyGivenNames th_0
  extract_lets +onlyGivenNames t_1
  have ht_1 : z.Evolves t_1 := by
    unfold t_1
    apply State.pass_ev; exact hs
  clear_value t_1
  split
  · apply State.linkLaneFail_ev; exact ht_1
  · exact ht_1

theorem execLaneErrorWindow_ev {z : State} (die link lane errors : Nat) (s : State) (hs : z.Evolves s) : Later z (execLaneErrorWindow die link lane errors s) := by
  unfold execLaneErrorWindow
  refine Later.occurs ?_ ?_
  · exact hs
  · apply State.laneWindow_ev; exact hs

theorem State.startRetrains_ev {z : State} (s : State) (hs : z.Evolves s) : z.Evolves (State.startRetrains s) := by
  unfold State.startRetrains
  refine State.Evolves.foldl ?_ ?_
  · exact hs
  · intro v0 v1 v2
    extract_lets +onlyGivenNames pend_3
    extract_lets +onlyGivenNames deg_4
    extract_lets +onlyGivenNames ord_5
    extract_lets +onlyGivenNames u_6
    have hu_6 : z.Evolves u_6 := by
      unfold u_6
      split
      · apply State.setLink_ev; apply State.setLink_ev; with_reducible assumption
      · with_reducible assumption
    clear_value u_6
    extract_lets +onlyGivenNames v_7
    have hv_7 : z.Evolves v_7 := by
      unfold v_7
      split
      · refine State.Evolves.foldl ?_ ?_
        · exact hu_6
        · intro v8 v9 v10
          apply State.modLink_ev; with_reducible assumption
      · exact hu_6
    clear_value v_7
    split
    · apply State.modLink_ev
      refine State.Evolves.foldl ?_ ?_
      · exact hv_7
      · intro v11 v12 v13
        apply State.modLink_ev; with_reducible assumption
    · exact hv_7

theorem State.settleRestores_ev {z : State} (s : State) (hs : z.Evolves s) : z.Evolves (State.settleRestores s) := by
  unfold State.settleRestores
  refine State.Evolves.foldl ?_ ?_
  · exact hs
  · intro v0 v1 v2
    apply State.restoreDone_ev; with_reducible assumption

theorem State.linkRetrained_ev {z : State} (s : State) (k : Nat) (good : List Nat) (hs : z.Evolves s) : z.Evolves (State.linkRetrained s k good) := by
  unfold State.linkRetrained
  extract_lets +onlyGivenNames t_0
  have ht_0 : z.Evolves t_0 := by
    unfold t_0
    apply State.setLink_ev; exact hs
  clear_value t_0
  split
  · apply State.collRetry_ev; exact ht_0
  · extract_lets +onlyGivenNames u_1
    have hu_1 : z.Evolves u_1 := by
      unfold u_1
      refine State.Evolves.foldl ?_ ?_
      · exact ht_0
      · intro v2 v3 v4
        apply State.modLink_ev; with_reducible assumption
    clear_value u_1
    extract_lets +onlyGivenNames v_5
    have hv_5 : z.Evolves v_5 := by
      unfold v_5
      apply State.setLink_ev; exact hu_1
    clear_value v_5
    extract_lets +onlyGivenNames w_6
    extract_lets +onlyGivenNames x_7
    have hx_7 : z.Evolves x_7 := by
      unfold x_7
      apply State.setLink_ev; apply State.setLink_ev; exact hv_5
    clear_value x_7
    extract_lets +onlyGivenNames y_8
    have hy_8 : z.Evolves y_8 := by
      unfold y_8
      split
      · exact hx_7
      · apply State.log_ev; apply State.setLink_ev; exact hx_7
    clear_value y_8
    apply State.collRetry_ev; apply State.retrainOver_ev; exact hy_8

theorem execLinkRetrainDone_ev {z : State} (die link : Nat) (good : List Nat) (s : State) (hs : z.Evolves s) : Later z (execLinkRetrainDone die link good s) := by
  unfold execLinkRetrainDone
  refine Later.occurs ?_ ?_
  · exact hs
  · apply State.linkRetrained_ev; exact hs

theorem State.trainLink_ev {z : State} (s : State) (k : Nat) (hs : z.Evolves s) : z.Evolves (State.trainLink s k) := by
  unfold State.trainLink
  split
  · exact hs
  · extract_lets +onlyGivenNames t_0
    have ht_0 : z.Evolves t_0 := by
      unfold t_0
      refine State.Evolves.foldl ?_ ?_
      · exact hs
      · intro v1 v2 v3
        refine State.Evolves.mk_same ?_ rfl rfl rfl rfl
        with_reducible assumption
    clear_value t_0
    extract_lets +onlyGivenNames w_4
    extract_lets +onlyGivenNames u_5
    have hu_5 : z.Evolves u_5 := by
      unfold u_5
      apply State.setLink_ev; apply State.setLink_ev; apply State.setLink_ev; apply State.setLink_ev; exact ht_0
    clear_value u_5
    extract_lets +onlyGivenNames v_6
    have hv_6 : z.Evolves v_6 := by
      unfold v_6
      split
      · apply State.log_ev; apply State.setLink_ev; exact hu_5
      · exact hu_5
    clear_value v_6
    exact hv_6

theorem State.setLight_ev {z : State} (s : State) (fibre mask : Nat) (hs : z.Evolves s) : z.Evolves (State.setLight s fibre mask) := by
  unfold State.setLight
  refine State.Evolves.foldl ?_ ?_
  · exact hs
  · intro v0 v1 v2
    apply State.fs_ev; apply State.fs_ev; with_reducible assumption

theorem State.setHubLight_ev {z : State} (s : State) (fibre : Nat) (dark : Bool) (hs : z.Evolves s) : z.Evolves (State.setHubLight s fibre dark) := by
  unfold State.setHubLight
  apply State.fs_ev; apply State.fs_ev; exact hs

theorem State.hubRewidth_ev {z : State} (s : State) (d lane : Nat) (hs : z.Evolves s) : z.Evolves (State.hubRewidth s d lane) := by
  unfold State.hubRewidth
  split
  · apply State.linkRewidth_ev; apply State.firstFailed_ev; exact hs
  · apply State.deadLink_ev; exact hs

theorem State.lightLost_ev {z : State} (s : State) (fibre lines : Nat) (hs : z.Evolves s) : z.Evolves (State.lightLost s fibre lines) := by
  unfold State.lightLost
  extract_lets +onlyGivenNames old_0
  extract_lets +onlyGivenNames m_1
  extract_lets +onlyGivenNames t_2
  have ht_2 : z.Evolves t_2 := by
    unfold t_2
    apply State.setLight_ev; exact hs
  clear_value t_2
  extract_lets +onlyGivenNames up_3
  split
  · refine State.Evolves.foldl ?_ ?_
    · exact ht_2
    · intro v4 v5 v6
      split
      · apply State.lanesFail_ev; apply State.unlock_ev; with_reducible assumption
      · with_reducible assumption
  · extract_lets +onlyGivenNames u_7
    have hu_7 : z.Evolves u_7 := by
      unfold u_7
      refine State.Evolves.foldl ?_ ?_
      · exact ht_2
      · intro v8 v9 v10
        split
        · apply State.spDown_ev; apply State.fs_ev; with_reducible assumption
        · with_reducible assumption
    clear_value u_7
    apply State.hubRewidth_ev; apply State.hubRewidth_ev; apply State.setHubLight_ev; exact hu_7

theorem execLightLineLost_ev {z : State} (fibre lines : Nat) (s : State) (hs : z.Evolves s) : Later z (execLightLineLost fibre lines s) := by
  unfold execLightLineLost
  refine Later.occurs ?_ ?_
  · exact hs
  · apply State.lightLost_ev; exact hs

theorem State.lightPresent_ev {z : State} (s : State) (fibre line : Nat) (hs : z.Evolves s) : z.Evolves (State.lightPresent s fibre line) := by
  unfold State.lightPresent
  extract_lets +onlyGivenNames m_0
  extract_lets +onlyGivenNames t_1
  have ht_1 : z.Evolves t_1 := by
    unfold t_1
    apply State.setHubLight_ev; apply State.setLight_ev; exact hs
  clear_value t_1
  split
  · refine State.Evolves.foldl ?_ ?_
    · exact ht_1
    · intro v2 v3 v4
      split
      · apply State.spStep1_ev; with_reducible assumption
      · with_reducible assumption
  · exact ht_1

theorem execLightLinePresent_ev {z : State} (fibre line : Nat) (s : State) (hs : z.Evolves s) : Later z (execLightLinePresent fibre line s) := by
  unfold execLightLinePresent
  refine Later.occurs ?_ ?_
  · exact hs
  · apply State.lightPresent_ev; exact hs

theorem execDlRestore_ev {z : State} (port die : Nat) (s : State) (hs : z.Evolves s) : Later z (execDlRestore port die s) := by
  unfold execDlRestore
  refine Later.occurs ?_ ?_
  · exact hs
  · apply State.fs_ev; exact hs

theorem execDlClearCounts_ev {z : State} (port die : Nat) (s : State) (hs : z.Evolves s) : Later z (execDlClearCounts port die s) := by
  unfold execDlClearCounts
  refine Later.occurs ?_ ?_
  · exact hs
  · apply State.zeroRegs_ev; exact hs

theorem execDlTestFail_ev {z : State} (port die link lane : Nat) (s : State) (hs : z.Evolves s) : Later z (execDlTestFail port die link lane s) := by
  unfold execDlTestFail
  extract_lets +onlyGivenNames t_0
  have ht_0 : z.Evolves t_0 := by
    unfold t_0
    apply State.fs_ev; apply State.fs_ev; exact hs
  clear_value t_0
  refine Later.occurs ?_ ?_
  · exact hs
  · split
    · apply State.linkLaneFail_ev; exact ht_0
    · exact ht_0

theorem execClkClearLow_ev {z : State} (port die : Nat) (s : State) (hs : z.Evolves s) : Later z (execClkClearLow port die s) := by
  unfold execClkClearLow
  refine Later.occurs ?_ ?_
  · exact hs
  · apply State.fs_ev; exact hs

theorem State.payFar_ev {z : State} (y0 : Nat) (y1 : State) (y2 : Nat) (y3 : Nat) (y4 : Nat) (hy1 : z.Evolves y1) : z.Evolves (State.payFar y0 y1 y2 y3 y4).2 := by
  induction y0 generalizing y1 y4 with
  | zero => exact hy1
  | succ n ih =>
    unfold State.payFar
    split
    · exact hy1
    · exact ih _ _ (State.charge_ev _ _ _ _ _ hy1)

theorem State.payDebts_ev {z : State} (s : State) (hs : z.Evolves s) : z.Evolves (State.payDebts s) := by
  unfold State.payDebts
  refine State.Evolves.foldl ?_ ?_
  · refine State.Evolves.mk_same ?_ rfl rfl rfl rfl
    exact hs
  · intro v0 v1 v2
    extract_lets +onlyGivenNames r_3
    have hr_3 : z.Evolves r_3.2 := by
      unfold r_3
      apply State.payFar_ev; with_reducible assumption
    clear_value r_3
    split
    · exact hr_3
    · extract_lets +onlyGivenNames w4
      have hw4 : z.Evolves w4 := by
        unfold w4
        exact hr_3
      clear_value w4
      refine State.Evolves.mk_same ?_ rfl rfl rfl rfl
      exact hw4

theorem State.keepCharge_ev {z : State} (s : State) (gated : Bool) (a d n : Nat) (hs : z.Evolves s) : z.Evolves (State.keepCharge s gated a d n) := by
  unfold State.keepCharge
  split
  · apply State.payDebts_ev
    refine State.Evolves.mk_same ?_ rfl rfl rfl rfl
    exact hs
  · apply State.take_ev; exact hs

theorem State.keepRead_ev {z : State} (s : State) (gated : Bool) (act area off n : Nat) (hs : z.Evolves s) : z.Evolves (State.keepRead s gated act area off n).2.1 := by
  unfold State.keepRead
  split
  · extract_lets +onlyGivenNames o_0
    extract_lets +onlyGivenNames r_1
    have hr_1 : z.Evolves r_1.2.1 := by
      unfold r_1
      apply State.farRead_ev; exact hs
    clear_value r_1
    dsimp only
    apply State.unitMoves_ev; apply State.keepCharge_ev; exact hr_1
  · with_reducible assumption

theorem State.keepWrite_ev {z : State} (s : State) (gated : Bool) (act area off : Nat) (b : Bytes) (poison : Bool) (hs : z.Evolves s) : z.Evolves (State.keepWrite s gated act area off b poison) := by
  unfold State.keepWrite
  split
  · extract_lets +onlyGivenNames o_0
    extract_lets +onlyGivenNames t_1
    have ht_1 : z.Evolves t_1 := by
      unfold t_1
      apply State.unitMoves_ev; apply State.keepCharge_ev; apply State.farWrite_ev; exact hs
    clear_value t_1
    split
    · apply State.farPoison_ev; exact ht_1
    · exact ht_1
  · exact hs

theorem State.unitRead_ev {z : State} (s : State) (gated : Bool) (act space unit off n : Nat) (hs : z.Evolves s) : z.Evolves (State.unitRead s gated act space unit off n).2.1 := by
  unfold State.unitRead
  split
  · extract_lets +onlyGivenNames r_0
    have hr_0 : z.Evolves r_0.2.1 := by
      unfold r_0
      apply State.farRead_ev; exact hs
    clear_value r_0
    dsimp only
    apply State.keepCharge_ev; exact hr_0
  · split
    · apply State.bondRead_ev; exact hs
    · apply State.sramRead_ev; exact hs

theorem State.unitWrite_ev {z : State} (s : State) (space unit off : Nat) (b : Bytes) (poison : Bool) (hs : z.Evolves s) : z.Evolves (State.unitWrite s space unit off b poison) := by
  unfold State.unitWrite
  split
  · extract_lets +onlyGivenNames t_0
    have ht_0 : z.Evolves t_0 := by
      unfold t_0
      apply State.farWrite_ev; exact hs
    clear_value t_0
    split
    · apply State.farPoison_ev; exact ht_0
    · exact ht_0
  · split
    · extract_lets +onlyGivenNames t_1
      have ht_1 : z.Evolves t_1 := by
        unfold t_1
        apply State.bondWrite_ev; exact hs
      clear_value t_1
      split
      · apply State.bondPoison_ev; exact ht_1
      · exact ht_1
    · extract_lets +onlyGivenNames t_2
      have ht_2 : z.Evolves t_2 := by
        unfold t_2
        apply State.sramWrite_ev; exact hs
      clear_value t_2
      split
      · apply State.sramPoison_ev; exact ht_2
      · exact ht_2

theorem State.keepGo_ev {z : State} (s : State) (o : KeepOut) (hs : z.Evolves s) : z.Evolves (State.keepGo s o) := by
  unfold State.keepGo
  split
  · extract_lets +onlyGivenNames r_0
    have hr_0 : z.Evolves r_0.2.1 := by
      unfold r_0
      apply State.unitRead_ev; exact hs
    clear_value r_0
    apply State.sendAcked_ev; apply State.count_ev; apply State.unitMoves_ev; exact hr_0
  · apply State.sendAcked_ev; exact hs

theorem State.keepPump_ev {z : State} (s : State) (hs : z.Evolves s) : z.Evolves (State.keepPump s) := by
  unfold State.keepPump
  extract_lets +onlyGivenNames all_0
  extract_lets +onlyGivenNames r_1
  have hr_1 : z.Evolves r_1.1 := by
    unfold r_1
    refine State.Evolves.foldl_fst ?_ ?_
    · with_reducible assumption
    · intro v2 v3 v4 v5
      split
      · with_reducible assumption
      · dsimp only
        apply State.keepGo_ev; with_reducible assumption
  clear_value r_1
  extract_lets +onlyGivenNames w6
  have hw6 : z.Evolves w6 := by
    unfold w6
    exact hr_1
  clear_value w6
  refine State.Evolves.mk_same ?_ rfl rfl rfl rfl
  exact hw6

theorem State.keepQueue_ev {z : State} (s : State) (os : List KeepOut) (hs : z.Evolves s) : z.Evolves (State.keepQueue s os) := by
  unfold State.keepQueue
  apply State.keepPump_ev
  refine State.Evolves.mk_same ?_ rfl rfl rfl rfl
  exact hs

theorem State.sendKeepAs_ev {z : State} (s : State) (dest kind off chan act : Nat) (flagged poison : Bool) (data : Bytes) (hs : z.Evolves s) : z.Evolves (State.sendKeepAs s dest kind off chan act flagged poison data) := by
  unfold State.sendKeepAs
  apply State.keepQueue_ev; exact hs

theorem State.sendKeep_ev {z : State} (s : State) (dest kind off chan act : Nat) (flagged : Bool) (data : Bytes) (hs : z.Evolves s) : z.Evolves (State.sendKeep s dest kind off chan act flagged data) := by
  unfold State.sendKeep
  apply State.sendKeepAs_ev; exact hs

theorem State.sendPieces_ev {z : State} (s : State) (dest kind off chan act : Nat) (poison : Bool) (b : Bytes) (hs : z.Evolves s) : z.Evolves (State.sendPieces s dest kind off chan act poison b) := by
  unfold State.sendPieces
  apply State.keepQueue_ev; exact hs

theorem State.setPair_ev {z : State} (s : State) (n : Nat) (hs : z.Evolves s) : z.Evolves (State.setPair s n) := by
  unfold State.setPair
  apply State.fs_ev; exact hs

theorem State.showJnl_ev {z : State} (s : State) (hs : z.Evolves s) : z.Evolves (State.showJnl s) := by
  unfold State.showJnl
  extract_lets +onlyGivenNames u_0
  extract_lets +onlyGivenNames f_1
  extract_lets +onlyGivenNames t_2
  have ht_2 : z.Evolves t_2 := by
    unfold t_2
    apply State.fs_ev; apply State.fs_ev; exact hs
  clear_value t_2
  extract_lets +onlyGivenNames v_3
  extract_lets +onlyGivenNames v_4
  have hv_4 : z.Evolves v_4 := by
    unfold v_4
    refine State.Evolves.mk_same ?_ rfl rfl rfl rfl
    exact ht_2
  clear_value v_4
  split
  · apply State.raise_ev; exact hv_4
  · split
    · apply State.streamNotify_ev
      · exact hs
      · exact hv_4
    · exact hv_4

theorem State.journal_ev {z : State} (s : State) (kind port act : Nat) (body : Bytes) (hs : z.Evolves s) : z.Evolves (State.journal s kind port act body) := by
  unfold State.journal
  split
  · exact hs
  · extract_lets +onlyGivenNames e_0
    extract_lets +onlyGivenNames b_1
    extract_lets +onlyGivenNames t_2
    extract_lets +onlyGivenNames t_3
    have ht_3 : z.Evolves t_3 := by
      unfold t_3
      refine State.Evolves.mk_same ?_ rfl rfl rfl rfl
      exact hs
    clear_value t_3
    extract_lets +onlyGivenNames t_4
    have ht_4 : z.Evolves t_4 := by
      unfold t_4
      apply State.pmc_ev; exact ht_3
    clear_value t_4
    extract_lets +onlyGivenNames u_5
    have hu_5 : z.Evolves u_5 := by
      unfold u_5
      split
      · apply State.sendPieces_ev; exact ht_4
      · exact ht_4
    clear_value u_5
    apply State.showJnl_ev; exact hu_5

theorem State.journalTrim_ev {z : State} (s : State) (hs : z.Evolves s) : z.Evolves (State.journalTrim s) := by
  unfold State.journalTrim
  split
  · apply State.showJnl_ev
    refine State.Evolves.mk_same ?_ rfl rfl rfl rfl
    exact hs
  · exact hs

theorem State.sealed_ev {z : State} (s : State) (n : Nat) (here : Bool) (hs : z.Evolves s) : z.Evolves (State.sealed s n here) := by
  unfold State.sealed
  extract_lets +onlyGivenNames t_0
  have ht_0 : z.Evolves t_0 := by
    unfold t_0
    apply State.fs_ev; apply State.fs_ev; apply State.fs_ev; exact hs
  clear_value t_0
  apply State.journalTrim_ev
  refine State.Evolves.mk_same ?_ rfl rfl rfl rfl
  exact ht_0

theorem State.streamSnapshot_ev {z : State} (s : State) (n : Nat) (all : Bool) (hs : z.Evolves s) : z.Evolves (State.streamSnapshot s n all) := by
  unfold State.streamSnapshot
  extract_lets +onlyGivenNames dest_0
  extract_lets +onlyGivenNames since_1
  extract_lets +onlyGivenNames pages_2
  extract_lets +onlyGivenNames b_3
  apply State.keepQueue_ev
  refine State.Evolves.mk_same ?_ rfl rfl rfl rfl
  exact hs

theorem State.clearKeepPairs_ev {z : State} (s : State) (dev : Nat) (hs : z.Evolves s) : z.Evolves (State.clearKeepPairs s dev) := by
  unfold State.clearKeepPairs
  apply State.clearPairs_ev; exact hs

theorem State.partnerLost_ev {z : State} (s : State) (hs : z.Evolves s) : z.Evolves (State.partnerLost s) := by
  unfold State.partnerLost
  extract_lets +onlyGivenNames s0_0
  extract_lets +onlyGivenNames s0_1
  have hs0_1 : z.Evolves s0_1 := by
    unfold s0_1
    refine State.Evolves.mk_same ?_ rfl rfl rfl rfl
    exact hs
  clear_value s0_1
  split
  · exact hs0_1
  · extract_lets +onlyGivenNames t_2
    have ht_2 : z.Evolves t_2 := by
      unfold t_2
      apply State.clearKeepPairs_ev; apply State.setPair_ev; exact hs0_1
    clear_value t_2
    extract_lets +onlyGivenNames u_3
    extract_lets +onlyGivenNames u_4
    have hu_4 : z.Evolves u_4 := by
      unfold u_4
      refine State.Evolves.mk_same ?_ rfl rfl rfl rfl
      exact ht_2
    clear_value u_4
    split
    · apply State.sealed_ev; exact hu_4
    · exact hu_4

theorem State.partnerSilent_ev {z : State} (s : State) (hs : z.Evolves s) : z.Evolves (State.partnerSilent s) := by
  unfold State.partnerSilent
  split
  · exact hs
  · refine State.Evolves.mk_same ?_ rfl rfl rfl rfl
    exact hs

theorem State.partnerWait_ev {z : State} (s : State) (hs : z.Evolves s) : z.Evolves (State.partnerWait s) := by
  unfold State.partnerWait
  split
  · split
    · apply State.partnerLost_ev; exact hs
    · exact hs
  · exact hs

theorem State.ripenFails_ev {z : State} (s : State) (code : Nat) (hs : z.Evolves s) : z.Evolves (State.ripenFails s code) := by
  unfold State.ripenFails
  split
  · split
    · apply State.emit_ev; apply State.log_ev; exact hs
    · exact hs
  · exact hs

theorem State.recoverFails_ev {z : State} (s : State) (code : Nat) (hs : z.Evolves s) : z.Evolves (State.recoverFails s code) := by
  unfold State.recoverFails
  split
  · extract_lets +onlyGivenNames d_0
    apply State.emit_ev; apply State.log_ev
    refine State.Evolves.mk_same ?_ rfl rfl rfl rfl
    exact hs
  · exact hs

theorem State.askUnits_ev {z : State} (s : State) (pos : Nat) (l : List Nat) (hs : z.Evolves s) : z.Evolves (State.askUnits s pos l) := by
  unfold State.askUnits
  apply State.keepQueue_ev; exact hs

theorem State.askAgain_ev {z : State} (s : State) (hs : z.Evolves s) : z.Evolves (State.askAgain s) := by
  unfold State.askAgain
  split
  · split
    · apply State.askUnits_ev; exact hs
    · exact hs
  · exact hs

theorem State.memberLost_ev {z : State} (s : State) (dev : Nat) (hs : z.Evolves s) : z.Evolves (State.memberLost s dev) := by
  unfold State.memberLost
  extract_lets +onlyGivenNames c_0
  split
  · exact hs
  · split
    · exact hs
    · extract_lets +onlyGivenNames t_1
      extract_lets +onlyGivenNames t_2
      have ht_2 : z.Evolves t_2 := by
        unfold t_2
        apply State.fs_ev
        refine State.Evolves.mk_same ?_ rfl rfl rfl rfl
        exact hs
      clear_value t_2
      split
      · extract_lets +onlyGivenNames d_3
        apply State.emit_ev; apply State.log_ev; exact ht_2
      · apply State.askAgain_ev; apply State.clearKeepPairs_ev; exact ht_2

theorem State.keepPeerLost_ev {z : State} (s : State) (dev : Nat) (hs : z.Evolves s) : z.Evolves (State.keepPeerLost s dev) := by
  unfold State.keepPeerLost
  extract_lets +onlyGivenNames t_0
  have ht_0 : z.Evolves t_0 := by
    unfold t_0
    split
    · apply State.recoverFails_ev; apply State.ripenFails_ev; apply State.partnerSilent_ev; exact hs
    · exact hs
  clear_value t_0
  extract_lets +onlyGivenNames u_1
  have hu_1 : z.Evolves u_1 := by
    unfold u_1
    split
    · split
      · apply State.fs_ev; apply State.raise_ev; exact ht_0
      · exact ht_0
    · exact ht_0
  clear_value u_1
  apply State.memberLost_ev; exact hu_1

theorem State.keepNacked_ev {z : State} (s : State) (e : Sent) (code : Nat) (itself : Bool) (hs : z.Evolves s) : z.Evolves (State.keepNacked s e code itself) := by
  unfold State.keepNacked
  extract_lets +onlyGivenNames t_0
  have ht_0 : z.Evolves t_0 := by
    unfold t_0
    split
    · apply State.recoverFails_ev; apply State.ripenFails_ev; exact hs
    · exact hs
  clear_value t_0
  split
  · apply State.keepPeerLost_ev; exact ht_0
  · split
    · apply State.partnerLost_ev; exact ht_0
    · exact ht_0

theorem State.sendPair_ev {z : State} (s : State) (hs : z.Evolves s) : z.Evolves (State.sendPair s) := by
  unfold State.sendPair
  extract_lets +onlyGivenNames c_0
  split
  · exact hs
  · extract_lets +onlyGivenNames d_1
    apply State.sendKeep_ev
    extract_lets +onlyGivenNames w2
    have hw2 : z.Evolves w2 := by
      unfold w2
      apply State.setPair_ev; exact hs
    clear_value w2
    refine State.Evolves.mk_same ?_ rfl rfl rfl rfl
    exact hw2

theorem State.sendResync_ev {z : State} (s : State) (hs : z.Evolves s) : z.Evolves (State.sendResync s) := by
  unfold State.sendResync
  split
  · exact hs
  · apply State.sendKeep_ev; apply State.fs_ev
    refine State.Evolves.mk_same ?_ rfl rfl rfl rfl
    exact hs

theorem State.parityResync_ev {z : State} (s : State) (hs : z.Evolves s) : z.Evolves (State.parityResync s) := by
  unfold State.parityResync
  extract_lets +onlyGivenNames c_0
  extract_lets +onlyGivenNames g_1
  extract_lets +onlyGivenNames pos_2
  extract_lets +onlyGivenNames l_3
  extract_lets +onlyGivenNames t_4
  extract_lets +onlyGivenNames t_5
  have ht_5 : z.Evolves t_5 := by
    unfold t_5
    apply State.fs_ev
    refine State.Evolves.mk_same ?_ rfl rfl rfl rfl
    exact hs
  clear_value t_5
  apply State.askUnits_ev; exact ht_5

theorem State.eruFlush_ev {z : State} (s : State) (writer : Nat) (hs : z.Evolves s) : z.Evolves (State.eruFlush s writer) := by
  unfold State.eruFlush
  extract_lets +onlyGivenNames c_0
  extract_lets +onlyGivenNames g_1
  extract_lets +onlyGivenNames t_2
  extract_lets +onlyGivenNames t_3
  have ht_3 : z.Evolves t_3 := by
    unfold t_3
    refine State.Evolves.mk_same ?_ rfl rfl rfl rfl
    exact hs
  clear_value t_3
  refine State.Evolves.foldl ?_ ?_
  · exact ht_3
  · intro v4 v5 v6
    split
    · with_reducible assumption
    · extract_lets +onlyGivenNames v_7
      have hv_7 : z.Evolves v_7 := by
        unfold v_7
        apply State.unitMoves_ev; apply State.keepCharge_ev; with_reducible assumption
      clear_value v_7
      apply State.keepQueue_ev; exact hv_7

theorem State.streamWrite_ev {z : State} (s : State) (host port offset : Nat) (aligned : Bool) (words : List Word) (hs : z.Evolves s) : z.Evolves (State.streamWrite s host port offset aligned words) := by
  unfold State.streamWrite
  split
  · apply State.pmc_ev; apply State.streamDrop_ev; exact hs
  · split
    · apply State.pmc_ev; apply State.streamDrop_ev; exact hs
    · apply State.pmc_ev; apply State.setStaging_ev; exact hs

theorem execStreamWrite_ev {z : State} (host port offset : Nat) (aligned : Bool) (words : List Word) (s : State) (hs : z.Evolves s) : Later z (execStreamWrite host port offset aligned words s) := by
  unfold execStreamWrite
  refine Later.occurs ?_ ?_
  · exact hs
  · apply State.streamWrite_ev; exact hs

theorem State.journalWord_ev {z : State} (s : State) (n : Nat) (c : StreamCfg) (w : Word) (hs : z.Evolves s) : z.Evolves (State.journalWord s n c w) := by
  unfold State.journalWord
  split
  · exact hs
  · apply State.journal_ev; exact hs

theorem State.wordFall_ev {z : State} (s : State) (n : Nat) (c : StreamCfg) (hs : z.Evolves s) : z.Evolves (State.wordFall s n c) := by
  unfold State.wordFall
  split
  · apply State.fall_ev; exact hs
  · exact hs

theorem State.ringWord_ev {z : State} (s : State) (id : Nat) (w : Word) (hs : z.Evolves s) : z.Evolves (State.ringWord s id w) := by
  unfold State.ringWord
  split
  · exact hs
  · extract_lets +onlyGivenNames x_0
    extract_lets +onlyGivenNames t_1
    have ht_1 : z.Evolves t_1 := by
      unfold t_1
      apply State.sramWrite_ev; exact hs
    clear_value t_1
    split
    · apply State.ringFill_ev; exact ht_1
    · refine State.Evolves.mk_same ?_ rfl rfl rfl rfl
      exact ht_1

theorem State.farWord_ev {z : State} (s : State) (n : Nat) (c : StreamCfg) (w : Word) (hs : z.Evolves s) : z.Evolves (State.farWord s n c w) := by
  unfold State.farWord
  extract_lets +onlyGivenNames x_0
  extract_lets +onlyGivenNames t_1
  have ht_1 : z.Evolves t_1 := by
    unfold t_1
    split
    · apply State.charge_ev; exact hs
    · exact hs
  clear_value t_1
  extract_lets +onlyGivenNames u_2
  have hu_2 : z.Evolves u_2 := by
    unfold u_2
    apply State.eruFlush_ev; apply State.farWrite_ev; exact ht_1
  clear_value u_2
  split
  · apply State.cntBump_ev
    refine State.Evolves.mk_same ?_ rfl rfl rfl rfl
    exact hu_2
  · refine State.Evolves.mk_same ?_ rfl rfl rfl rfl
    exact hu_2

theorem State.deliverWord_ev {z : State} (s : State) (n : Nat) (c : StreamCfg) (w : Word) (hs : z.Evolves s) : z.Evolves (State.deliverWord s n c w) := by
  unfold State.deliverWord
  extract_lets +onlyGivenNames t_0
  have ht_0 : z.Evolves t_0 := by
    unfold t_0
    apply State.wordFall_ev; apply State.journalWord_ev; exact hs
  clear_value t_0
  split
  · apply State.ringWord_ev; exact ht_0
  · split
    · apply State.farWord_ev; exact ht_0
    · split
      · refine State.Evolves.mk_same ?_ rfl rfl rfl rfl
        exact ht_0
      · exact ht_0

theorem State.modChan_ev {z : State} (s : State) (c : Nat) (f : Chan → Chan) (hs : z.Evolves s) : z.Evolves (State.modChan s c f) := by
  unfold State.modChan
  refine State.Evolves.mk_same ?_ rfl rfl rfl rfl
  exact hs

theorem State.judgeRecord_ev {z : State} (s : State) (n : Nat) (c : StreamCfg) (k : Chan) (hs : z.Evolves s) : LaterO z (State.judgeRecord s n c k) := by
  unfold State.judgeRecord
  extract_lets +onlyGivenNames l_0
  split
  · clear_value l_0
    split
    · exact LaterO.none
    · refine LaterO.some ?_
      apply State.count_ev; apply State.modChan_ev; exact hs
    · refine LaterO.some ?_
      apply State.setStaging_ev; exact hs
  · extract_lets +onlyGivenNames head_1
    extract_lets +onlyGivenNames words_2
    extract_lets +onlyGivenNames no_3
    extract_lets +onlyGivenNames bad_4
    have hbad_4 : ∀ a0, z.Evolves (bad_4 a0) := by
      unfold bad_4
      intro v5
      apply State.modChan_ev; apply State.count_ev; apply State.setStaging_ev; exact hs
    clear_value bad_4
    split
    · exact LaterO.none
    · split
      · refine LaterO.some ?_
        apply hbad_4
      · split
        · exact LaterO.none
        · extract_lets +onlyGivenNames rec_6
          split
          · refine LaterO.some ?_
            apply State.count_ev; apply State.setStaging_ev; exact hs
          · split
            · split
              · refine LaterO.some ?_
                apply hbad_4
              · refine LaterO.some ?_
                apply State.modChan_ev; apply State.setPlain_ev; apply State.setStaging_ev; exact hs
            · refine LaterO.some ?_
              apply hbad_4

theorem State.deliverReplay_ev {z : State} (s : State) (n : Nat) (c : StreamCfg) (hs : z.Evolves s) : LaterO z (State.deliverReplay s n c) := by
  unfold State.deliverReplay
  split
  · split
    · split
      · exact LaterO.none
      · extract_lets +onlyGivenNames left_0
        refine LaterO.some ?_
        apply State.deliverWord_ev
        refine State.Evolves.mk_same ?_ rfl rfl rfl rfl
        exact hs
    · exact LaterO.none
  · exact LaterO.none

theorem State.deliver_ev {z : State} (s : State) (n : Nat) (hs : z.Evolves s) : LaterO z (State.deliver s n) := by
  unfold State.deliver
  split
  · exact LaterO.none
  · split
    · exact LaterO.none
    · split
      · apply State.deliverReplay_ev; exact hs
      · extract_lets +onlyGivenNames room_0
        split
        · split
          · refine LaterO.some ?_
            apply State.deliverWord_ev; apply State.setPlain_ev; exact hs
          · exact LaterO.none
        · split
          · split
            · split
              · refine LaterO.some ?_
                apply State.deliverWord_ev; apply State.setStaging_ev; exact hs
              · exact LaterO.none
            · exact LaterO.none
          · split
            · apply State.judgeRecord_ev; exact hs
            · exact LaterO.none

theorem execStreamWordDeliver_ev {z : State} (port : Nat) (s : State) (hs : z.Evolves s) : Later z (execStreamWordDeliver port s) := by
  unfold execStreamWordDeliver
  refine Later.occurs ?_ ?_
  · exact hs
  · apply State.streamNotify_ev
    · exact hs
    · refine LaterO.getD ?_ ?_
      · apply State.deliver_ev; exact hs
      · exact hs

theorem State.streamRead_ev {z : State} (s : State) (host port : Nat) (aligned : Bool) (count : Nat) (hs : z.Evolves s) : z.Evolves (State.streamRead s host port aligned count).2 := by
  unfold State.streamRead
  extract_lets +onlyGivenNames ones_0
  split
  · with_reducible assumption
  · split
    · with_reducible assumption
    · extract_lets +onlyGivenNames l_1
      extract_lets +onlyGivenNames t_2
      have ht_2 : z.Evolves t_2 := by
        unfold t_2
        apply State.pmc_ev; apply State.setStaging_ev; exact hs
      clear_value t_2
      dsimp only
      apply State.streamNotify_ev
      · exact ht_2
      · apply State.fillOut_ev; exact ht_2

theorem execStreamRead_ev {z : State} (host port : Nat) (aligned : Bool) (count : Nat) (s : State) (hs : z.Evolves s) : Later z (execStreamRead host port aligned count s) := by
  unfold execStreamRead
  extract_lets +onlyGivenNames r_0
  have hr_0 : z.Evolves r_0.2 := by
    unfold r_0
    apply State.streamRead_ev; exact hs
  clear_value r_0
  refine Later.occurs ?_ ?_
  · exact hs
  · apply State.emit_ev; exact hr_0

theorem execStreamClearDropped_ev {z : State} (host port : Nat) (s : State) (hs : z.Evolves s) : Later z (execStreamClearDropped host port s) := by
  unfold execStreamClearDropped
  extract_lets +onlyGivenNames ok_0
  refine Later.occurs ?_ ?_
  · exact hs
  · apply State.fs_ev; exact hs

theorem State.modEnd_ev {z : State} (s : State) (host : Nat) (hs : z.Evolves s) : z.Evolves (State.modEnd s host) := by
  unfold State.modEnd
  extract_lets +onlyGivenNames w_0
  extract_lets +onlyGivenNames ks_1
  extract_lets +onlyGivenNames due_2
  split
  · exact hs
  · extract_lets +onlyGivenNames t_3
    have ht_3 : z.Evolves t_3 := by
      unfold t_3
      apply State.runTo_ev; exact hs
    clear_value t_3
    refine State.Evolves.foldl ?_ ?_
    · exact ht_3
    · intro v4 v5 v6
      extract_lets +onlyGivenNames v_7
      have hv_7 : z.Evolves v_7 := by
        unfold v_7
        apply State.msixNow_ev; with_reducible assumption
      clear_value v_7
      refine State.Evolves.mk_same ?_ rfl rfl rfl rfl
      exact hv_7

theorem execMsixModerationEnd_ev {z : State} (host : Nat) (s : State) (hs : z.Evolves s) : Later z (execMsixModerationEnd host s) := by
  unfold execMsixModerationEnd
  refine Later.occurs ?_ ?_
  · exact hs
  · apply State.modEnd_ev; exact hs

theorem State.emptyStreams_ev {z : State} (s : State) (a : Nat) (hs : z.Evolves s) : z.Evolves (State.emptyStreams s a) := by
  unfold State.emptyStreams
  refine State.Evolves.foldl ?_ ?_
  · exact hs
  · intro v0 v1 v2
    split
    · with_reducible assumption
    · split
      · with_reducible assumption
      · extract_lets +onlyGivenNames u_3
        have hu_3 : z.Evolves u_3 := by
          unfold u_3
          apply State.setPlain_ev; apply State.setStaging_ev; with_reducible assumption
        clear_value u_3
        extract_lets +onlyGivenNames u_4
        extract_lets +onlyGivenNames u_5
        have hu_5 : z.Evolves u_5 := by
          unfold u_5
          refine State.Evolves.mk_same ?_ rfl rfl rfl rfl
          exact hu_3
        clear_value u_5
        split
        · exact hu_5
        · split
          · extract_lets +onlyGivenNames x_6
            extract_lets +onlyGivenNames w7
            have hw7 : z.Evolves w7 := by
              unfold w7
              apply State.fs_ev; exact hu_5
            clear_value w7
            refine State.Evolves.mk_same ?_ rfl rfl rfl rfl
            exact hw7
          · split
            · refine State.Evolves.mk_same ?_ rfl rfl rfl rfl
              exact hu_5
            · exact hu_5

theorem State.accept_ev {z : State} (s : State) (key : Nat) (p : Packet) (hs : z.Evolves s) : z.Evolves (State.accept s key p).2.2 := by
  unfold State.accept
  extract_lets +onlyGivenNames r_0
  have hr_0 : z.Evolves r_0.2.2 := by
    unfold r_0
    apply State.inspect_ev; exact hs
  clear_value r_0
  split
  · exact hr_0
  · with_reducible assumption

theorem State.targetRead_ev {z : State} (s : State) (t : Target) (n : Nat) (hs : z.Evolves s) : z.Evolves (State.targetRead s t n).2.1 := by
  unfold State.targetRead
  split
  · apply State.farRead_ev; exact hs
  · apply State.bondRead_ev; exact hs
  · apply State.sramRead_ev; exact hs
  · with_reducible assumption

theorem State.targetWrite_ev {z : State} (s : State) (t : Target) (act : Nat) (poison : Bool) (b : Bytes) (hs : z.Evolves s) : z.Evolves (State.targetWrite s t act poison b) := by
  unfold State.targetWrite
  split
  · extract_lets +onlyGivenNames u_0
    have hu_0 : z.Evolves u_0 := by
      unfold u_0
      apply State.eruFlush_ev; apply State.farWrite_ev; exact hs
    clear_value u_0
    split
    · apply State.farPoison_ev; exact hu_0
    · exact hu_0
  · extract_lets +onlyGivenNames u_1
    have hu_1 : z.Evolves u_1 := by
      unfold u_1
      apply State.bondWrite_ev; exact hs
    clear_value u_1
    extract_lets +onlyGivenNames k_2
    split
    · apply State.poison_ev; exact hu_1
    · exact hu_1
  · split
    · apply State.sramPoison_ev; apply State.sramWrite_ev; exact hs
    · apply State.sramWrite_ev; exact hs
  · exact hs

theorem State.chargeTarget_ev {z : State} (s : State) (t : Target) (act n : Nat) (hs : z.Evolves s) : z.Evolves (State.chargeTarget s t act n) := by
  unfold State.chargeTarget
  apply State.chargeAll_ev; exact hs

theorem State.grantReqs_ev {z : State} (s : State) (act : Nat) (y0 : List (Nat × Nat × Nat)) (hs : z.Evolves s) : z.Evolves (State.grantReqs s act y0).1 := by
  induction y0 generalizing s with
  | nil => exact hs
  | cons c cs ih =>
    unfold State.grantReqs
    split
    · exact ih _ (State.charge_ev _ _ _ _ _ hs)
    · exact hs

theorem State.orderStep_ev {z : State} (s : State) (p : Packet) (hs : z.Evolves s) : z.Evolves (State.orderStep s p) := by
  unfold State.orderStep
  extract_lets +onlyGivenNames c_0
  apply State.rxCount_ev
  refine State.Evolves.mk_same ?_ rfl rfl rfl rfl
  exact hs

theorem State.streamStore_ev {z : State} (s : State) (n : Nat) (p : Packet) (hs : z.Evolves s) : z.Evolves (State.streamStore s n p).1 := by
  unfold State.streamStore
  extract_lets +onlyGivenNames ws_0
  split
  · dsimp only
    apply State.streamDrop_ev; exact hs
  · split
    · with_reducible assumption
    · split
      · with_reducible assumption
      · dsimp only
        apply State.setStaging_ev; exact hs

theorem State.takeReq_ev {z : State} (s : State) (key : Nat) (p : Packet) (hs : z.Evolves s) : z.Evolves (State.takeReq s key p) := by
  unfold State.takeReq
  refine LaterO.getD ?_ ?_
  · apply State.takeWays_ev; exact hs
  · exact hs

theorem State.applyReq_ev {z : State} (s : State) (key : Nat) (p : Packet) (hs : z.Evolves s) : z.Evolves (State.applyReq s key p) := by
  unfold State.applyReq
  extract_lets +onlyGivenNames t_0
  split
  · apply State.refuse_ev; exact hs
  · split
    · extract_lets +onlyGivenNames r_1
      have hr_1 : z.Evolves r_1.2.1 := by
        unfold r_1
        apply State.targetRead_ev; exact hs
      clear_value r_1
      apply State.respond_ev; apply State.orderStep_ev; exact hr_1
    · split
      · extract_lets +onlyGivenNames w_2
        extract_lets +onlyGivenNames r_3
        have hr_3 : z.Evolves r_3.2.1 := by
          unfold r_3
          apply State.targetRead_ev; exact hs
        clear_value r_3
        split
        · apply State.refuse_ev; exact hr_3
        · extract_lets +onlyGivenNames u_4
          have hu_4 : z.Evolves u_4 := by
            unfold u_4
            split
            · apply State.targetWrite_ev; exact hr_3
            · exact hr_3
          clear_value u_4
          extract_lets +onlyGivenNames v_5
          have hv_5 : z.Evolves v_5 := by
            unfold v_5
            apply State.orderStep_ev; exact hu_4
          clear_value v_5
          split
          · apply State.respond_ev; exact hv_5
          · apply State.respond_ev; exact hv_5
      · clear_value t_0
        split
        · extract_lets +onlyGivenNames r_6
          have hr_6 : z.Evolves r_6.1 := by
            unfold r_6
            apply State.streamStore_ev; exact hs
          clear_value r_6
          split
          · apply State.respond_ev; apply State.orderStep_ev; exact hr_6
          · apply State.refuse_ev; exact hr_6
        · apply State.respond_ev; apply State.orderStep_ev; apply State.targetWrite_ev; exact hs

theorem State.payReq_ev {z : State} (s : State) (key : Nat) (p : Packet) (hs : z.Evolves s) : z.Evolves (State.payReq s key p) := by
  unfold State.payReq
  split
  · apply State.applyReq_ev; exact hs
  · apply State.applyReq_ev; apply State.chargeTarget_ev; apply State.takeReq_ev; exact hs

theorem State.unpark_ev {z : State} (y0 : Nat) (y1 : State) (hy1 : z.Evolves y1) : z.Evolves (State.unpark y0 y1) := by
  induction y0 generalizing y1 with
  | zero => exact hy1
  | succ n ih =>
    unfold State.unpark
    split
    · exact hy1
    · extract_lets w t
      have ht : z.Evolves t := hy1.mk_same rfl rfl rfl rfl
      refine ih _ ?_
      split
      · exact State.payReq_ev _ _ _ ht
      · exact ht.mk_same rfl rfl rfl rfl

theorem State.applyAll_ev {z : State} (s : State) (key : Nat) (p : Packet) (hs : z.Evolves s) : z.Evolves (State.applyAll s key p) := by
  unfold State.applyAll
  extract_lets +onlyGivenNames t_0
  have ht_0 : z.Evolves t_0 := by
    unfold t_0
    apply State.applyReq_ev; exact hs
  clear_value t_0
  apply State.unpark_ev; exact ht_0

theorem State.dequeue_ev {z : State} (s : State) (e : Nat × Packet) (hs : z.Evolves s) : z.Evolves (State.dequeue s e) := by
  unfold State.dequeue
  refine State.Evolves.mk_same ?_ rfl rfl rfl rfl
  exact hs

theorem State.retireLine_ev {z : State} (y0 : Nat) (y1 : State) (y2 : Nat) (hy1 : z.Evolves y1) : z.Evolves (State.retireLine y0 y1 y2) := by
  induction y0 generalizing y1 with
  | zero => exact hy1
  | succ n ih =>
    unfold State.retireLine
    split
    · split
      · split
        · exact ih _ (State.respond_ev _ _ _ _ _ _ (State.pmc_ev _ _ _ _ _ (State.count_ev _ _ (State.orderStep_ev _ _ (State.dequeue_ev _ _ hy1)))))
        · exact hy1
      · exact hy1
    · exact hy1

theorem State.applyLine_ev {z : State} (y0 : Nat) (y1 : State) (y2 : Nat) (y3 : Packet) (hy1 : z.Evolves y1) : z.Evolves (State.applyLine y0 y1 y2 y3) := by
  induction y0 generalizing y1 with
  | zero => exact hy1
  | succ n ih =>
    unfold State.applyLine
    split
    · split
      · exact ih _ (State.pmc_ev _ _ _ _ _ (State.count_ev _ _ (State.applyAll_ev _ _ _ (State.dequeue_ev _ _ hy1))))
      · exact hy1
    · exact hy1

theorem State.ingressApply_ev {z : State} (s : State) (line : Nat) (hs : z.Evolves s) : z.Evolves (State.ingressApply s line) := by
  unfold State.ingressApply
  extract_lets +onlyGivenNames u_0
  have hu_0 : z.Evolves u_0 := by
    unfold u_0
    apply State.retireLine_ev; exact hs
  clear_value u_0
  extract_lets +onlyGivenNames t_1
  have ht_1 : z.Evolves t_1 := by
    unfold t_1
    apply State.unpark_ev; exact hu_0
  clear_value t_1
  split
  · exact ht_1
  · split
    · exact ht_1
    · split
      · apply State.applyLine_ev; apply State.applyAll_ev; apply State.dequeue_ev; exact ht_1
      · extract_lets +onlyGivenNames g_2
        extract_lets +onlyGivenNames w_3
        have hw_3 : z.Evolves w_3 := by
          unfold w_3
          split
          · exact ht_1
          · apply State.takeReq_ev; exact ht_1
        clear_value w_3
        extract_lets +onlyGivenNames r_4
        have hr_4 : z.Evolves r_4.1 := by
          unfold r_4
          apply State.grantReqs_ev; exact hw_3
        clear_value r_4
        split
        · extract_lets +onlyGivenNames w5
          have hw5 : z.Evolves w5 := by
            unfold w5
            exact hr_4
          clear_value w5
          refine State.Evolves.mk_same ?_ rfl rfl rfl rfl
          exact hw5
        · apply State.applyLine_ev; apply State.applyAll_ev; apply State.dequeue_ev; exact hr_4

theorem execIngressApply_ev {z : State} (line : Nat) (s : State) (hs : z.Evolves s) : Later z (execIngressApply line s) := by
  unfold execIngressApply
  extract_lets +onlyGivenNames ok_0
  refine Later.occurs ?_ ?_
  · exact hs
  · apply State.streamNotify_ev
    · exact hs
    · apply State.drainPump_ev; apply State.ingressApply_ev; exact hs

theorem State.reqIn_ev {z : State} (s : State) (port : Nat) (p : Packet) (hs : z.Evolves s) : z.Evolves (State.reqIn s port p) := by
  unfold State.reqIn
  split
  · split
    · apply State.pmc_ev; apply State.count_ev
      refine State.Evolves.mk_same ?_ rfl rfl rfl rfl
      exact hs
    · apply State.refuse_ev; exact hs
  · refine State.Evolves.mk_same ?_ rfl rfl rfl rfl
    exact hs

theorem reqRow_ev {z : State} (port : Nat) (pkt : Packet) (mine : Bool) (s : State) (hs : z.Evolves s) : Later z (reqRow port pkt mine s) := by
  unfold reqRow
  split
  · refine Later.occurs ?_ ?_
    · exact hs
    · exact hs
  · extract_lets +onlyGivenNames r_0
    have hr_0 : z.Evolves r_0.2.2 := by
      unfold r_0
      apply State.accept_ev
      refine State.Evolves.of_some (by assumption) ?_
      apply State.takeRx_ev; exact hs
    clear_value r_0
    refine Later.occurs ?_ ?_
    · exact hs
    · apply State.drainPump_ev
      split
      · apply State.refuse_ev; apply State.countTag_ev; exact hr_0
      · apply State.reqIn_ev; exact hr_0

theorem execStore_ev {z : State} (p : Nat) (pkt : Packet) (s : State) (hs : z.Evolves s) : Later z (execStore p pkt s) := by
  unfold execStore
  apply reqRow_ev; exact hs

theorem execLoad_ev {z : State} (p : Nat) (pkt : Packet) (s : State) (hs : z.Evolves s) : Later z (execLoad p pkt s) := by
  unfold execLoad
  apply reqRow_ev; exact hs

theorem execAtomic_ev {z : State} (p : Nat) (pkt : Packet) (s : State) (hs : z.Evolves s) : Later z (execAtomic p pkt s) := by
  unfold execAtomic
  apply reqRow_ev; exact hs

theorem execParkTimeout_ev {z : State} (idx : Nat) (s : State) (hs : z.Evolves s) : Later z (execParkTimeout idx s) := by
  unfold execParkTimeout
  split
  · refine Later.occurs ?_ ?_
    · exact hs
    · exact hs
  · extract_lets +onlyGivenNames t_0
    have ht_0 : z.Evolves t_0 := by
      unfold t_0
      apply State.runTo_ev; exact hs
    clear_value t_0
    refine Later.next ?_
    apply State.count_ev
    refine State.Evolves.mk_same ?_ rfl rfl rfl rfl
    exact ht_0

theorem State.sendLoad_ev {z : State} (s : State) (p : Packet) (core act : Nat) (parts : List (Nat × Nat)) (iss : Nat) (hs : z.Evolves s) : z.Evolves (State.sendLoad s p core act parts iss) := by
  unfold State.sendLoad
  split
  · exact hs
  · extract_lets +onlyGivenNames k_0
    extract_lets +onlyGivenNames x_1
    extract_lets +onlyGivenNames t_2
    extract_lets +onlyGivenNames t_3
    have ht_3 : z.Evolves t_3 := by
      unfold t_3
      refine State.Evolves.mk_same ?_ rfl rfl rfl rfl
      exact hs
    clear_value t_3
    split
    · apply State.sendAcked_ev; exact ht_3
    · apply State.noteSent_ev; apply State.issue_ev; exact ht_3

theorem State.fabCode_ev {z : State} (s : State) (core iss code : Nat) (hs : z.Evolves s) : z.Evolves (State.fabCode s core iss code) := by
  unfold State.fabCode
  split
  · split
    · apply State.setRunning_ev; exact hs
    · exact hs
  · exact hs

theorem State.putParts_ev {z : State} (s : State) (core : Nat) (parts : List (Nat × Nat)) (b : Bytes) (poison : Bool) (hs : z.Evolves s) : z.Evolves (State.putParts s core parts b poison) := by
  unfold State.putParts
  refine State.Evolves.foldl_fst ?_ ?_
  · with_reducible assumption
  · intro v0 v1 v2 v3
    extract_lets +onlyGivenNames d_4
    extract_lets +onlyGivenNames t_5
    have ht_5 : z.Evolves t_5 := by
      unfold t_5
      apply State.sramWrite_ev; with_reducible assumption
    clear_value t_5
    dsimp only
    split
    · apply State.sramPoison_ev; exact ht_5
    · exact ht_5

theorem State.loadFails_ev {z : State} (s : State) (l : Load) (code : Nat) (hs : z.Evolves s) : z.Evolves (State.loadFails s l code) := by
  unfold State.loadFails
  extract_lets +onlyGivenNames t_0
  extract_lets +onlyGivenNames t_1
  have ht_1 : z.Evolves t_1 := by
    unfold t_1
    refine State.Evolves.mk_same ?_ rfl rfl rfl rfl
    exact hs
  clear_value t_1
  extract_lets +onlyGivenNames u_2
  have hu_2 : z.Evolves u_2 := by
    unfold u_2
    apply State.fabCode_ev
    refine State.Evolves.foldl ?_ ?_
    · exact ht_1
    · intro v3 v4 v5
      apply State.sramPoison_ev; with_reducible assumption
  clear_value u_2
  split
  · apply State.emit_ev; exact hu_2
  · exact hu_2

theorem State.acked_ev {z : State} (s : State) (e : Sent) (hs : z.Evolves s) : z.Evolves (State.acked s e) := by
  unfold State.acked
  extract_lets +onlyGivenNames k_0
  extract_lets +onlyGivenNames t_1
  extract_lets +onlyGivenNames t_2
  have ht_2 : z.Evolves t_2 := by
    unfold t_2
    refine State.Evolves.mk_same ?_ rfl rfl rfl rfl
    exact hs
  clear_value t_2
  apply State.modPair_ev; exact ht_2

theorem State.keepAcked_ev {z : State} (s : State) (e : Sent) (hs : z.Evolves s) : z.Evolves (State.keepAcked s e) := by
  unfold State.keepAcked
  extract_lets +onlyGivenNames kind_0
  split
  · exact hs
  · split
    · split
      · split
        · apply State.sealed_ev; exact hs
        · exact hs
      · exact hs
    · split
      · apply State.showJnl_ev
        refine State.Evolves.mk_same ?_ rfl rfl rfl rfl
        exact hs
      · exact hs

theorem State.strayAnswer_ev {z : State} (s : State) (q : Packet) (hs : z.Evolves s) : z.Evolves (State.strayAnswer s q) := by
  unfold State.strayAnswer
  split
  · apply State.dropPkt_ev; exact hs
  · split
    · exact hs
    · apply State.dropPkt_ev; exact hs

theorem State.rspChecked_ev {z : State} (s : State) (q : Packet) (t : State) (hs : z.Evolves s) (ht : z.Evolves t) : z.Evolves (State.rspChecked s q t) := by
  unfold State.rspChecked
  split
  · apply State.dropPkt_ev; exact hs
  · exact ht

theorem State.loadRspRx_ev {z : State} (s : State) (q : Packet) (hs : z.Evolves s) : z.Evolves (State.loadRspRx s q) := by
  unfold State.loadRspRx
  split
  · split
    · apply State.strayAnswer_ev; exact hs
    · split
      · apply State.rxCount_ev; apply State.putParts_ev
        refine State.Evolves.mk_same ?_ rfl rfl rfl rfl
        exact hs
      · apply State.dropPkt_ev; exact hs
  · apply State.strayAnswer_ev; exact hs

theorem State.rspCross_ev {z : State} (s : State) (key : Nat) (q : Packet) (hs : z.Evolves s) : LaterO z (State.rspCross s key q) := by
  unfold State.rspCross
  split
  · refine LaterO.some ?_
    apply State.takeWay_ev; exact hs
  · exact LaterO.none

theorem execLoadRsp_ev {z : State} (p : Nat) (pkt : Packet) (s : State) (hs : z.Evolves s) : Later z (execLoadRsp p pkt s) := by
  unfold execLoadRsp
  split
  · refine Later.occurs ?_ ?_
    · exact hs
    · apply State.drainPump_ev; apply State.rspChecked_ev
      · refine State.Evolves.of_some (by assumption) ?_
        refine LaterO.bind ?_ ?_
        · apply State.takeRx_ev; exact hs
        · intro v0 v1
          apply State.rspCross_ev; with_reducible assumption
      · apply State.loadRspRx_ev
        refine State.Evolves.of_some (by assumption) ?_
        refine LaterO.bind ?_ ?_
        · apply State.takeRx_ev; exact hs
        · intro v2 v3
          apply State.rspCross_ev; with_reducible assumption
  · refine Later.occurs ?_ ?_
    · exact hs
    · exact hs

theorem State.atomicRspRx_ev {z : State} (s : State) (q : Packet) (hs : z.Evolves s) : z.Evolves (State.atomicRspRx s q) := by
  unfold State.atomicRspRx
  split
  · split
    · extract_lets +onlyGivenNames t_0
      have ht_0 : z.Evolves t_0 := by
        unfold t_0
        apply State.acked_ev; exact hs
      clear_value t_0
      apply State.rxCount_ev
      split
      · apply State.putParts_ev
        refine State.Evolves.mk_same ?_ rfl rfl rfl rfl
        exact ht_0
      · exact ht_0
    · apply State.dropPkt_ev; exact hs
  · apply State.strayAnswer_ev; exact hs

theorem execAtomicRsp_ev {z : State} (p : Nat) (pkt : Packet) (s : State) (hs : z.Evolves s) : Later z (execAtomicRsp p pkt s) := by
  unfold execAtomicRsp
  split
  · refine Later.occurs ?_ ?_
    · exact hs
    · apply State.drainPump_ev; apply State.rspChecked_ev
      · refine State.Evolves.of_some (by assumption) ?_
        refine LaterO.bind ?_ ?_
        · apply State.takeRx_ev; exact hs
        · intro v0 v1
          apply State.rspCross_ev; with_reducible assumption
      · apply State.atomicRspRx_ev
        refine State.Evolves.of_some (by assumption) ?_
        refine LaterO.bind ?_ ?_
        · apply State.takeRx_ev; exact hs
        · intro v2 v3
          apply State.rspCross_ev; with_reducible assumption
  · refine Later.occurs ?_ ?_
    · exact hs
    · exact hs

theorem State.ackRx_ev {z : State} (s : State) (q : Packet) (hs : z.Evolves s) : z.Evolves (State.ackRx s q) := by
  unfold State.ackRx
  split
  · split
    · split
      · apply State.keepPump_ev; apply State.rxCount_ev; apply State.keepAcked_ev; apply State.acked_ev; exact hs
      · apply State.rxCount_ev; apply State.acked_ev; exact hs
    · apply State.dropPkt_ev; exact hs
  · apply State.strayAnswer_ev; exact hs

theorem execAck_ev {z : State} (p : Nat) (pkt : Packet) (s : State) (hs : z.Evolves s) : Later z (execAck p pkt s) := by
  unfold execAck
  split
  · refine Later.occurs ?_ ?_
    · exact hs
    · apply State.streamNotify_ev
      · exact hs
      · apply State.drainPump_ev; apply State.rspChecked_ev
        · refine State.Evolves.of_some (by assumption) ?_
          refine LaterO.bind ?_ ?_
          · apply State.takeRx_ev; exact hs
          · intro v0 v1
            apply State.rspCross_ev; with_reducible assumption
        · apply State.ackRx_ev
          refine State.Evolves.of_some (by assumption) ?_
          refine LaterO.bind ?_ ?_
          · apply State.takeRx_ev; exact hs
          · intro v2 v3
            apply State.rspCross_ev; with_reducible assumption
  · refine Later.occurs ?_ ?_
    · exact hs
    · exact hs

theorem State.nackSeen_ev {z : State} (s : State) (q : Packet) (code : Nat) (hs : z.Evolves s) : z.Evolves (State.nackSeen s q code) := by
  unfold State.nackSeen
  extract_lets +onlyGivenNames t_0
  have ht_0 : z.Evolves t_0 := by
    unfold t_0
    apply State.raise_ev; apply State.count_ev; apply State.rxCount_ev; exact hs
  clear_value t_0
  split
  · exact ht_0
  · apply State.fs_ev; apply State.fs_ev; apply State.fs_ev; apply State.fs_ev; apply State.fs_ev; exact ht_0

theorem State.strayNack_ev {z : State} (s : State) (q : Packet) (hs : z.Evolves s) : z.Evolves (State.strayNack s q) := by
  unfold State.strayNack
  split
  · apply State.strayAnswer_ev; exact hs
  · extract_lets +onlyGivenNames xs_0
    split
    · apply State.nackSeen_ev; exact hs
    · apply State.strayAnswer_ev; exact hs

theorem State.nackRx_ev {z : State} (s : State) (q : Packet) (hs : z.Evolves s) : z.Evolves (State.nackRx s q) := by
  unfold State.nackRx
  split
  · split
    · apply State.dropPkt_ev; exact hs
    · extract_lets +onlyGivenNames code_0
      extract_lets +onlyGivenNames t_1
      have ht_1 : z.Evolves t_1 := by
        unfold t_1
        apply State.nackSeen_ev; exact hs
      clear_value t_1
      split
      · split
        · exact ht_1
        · refine State.Evolves.mk_same ?_ rfl rfl rfl rfl
          exact ht_1
      · extract_lets +onlyGivenNames u_2
        have hu_2 : z.Evolves u_2 := by
          unfold u_2
          apply State.modPair_ev; apply State.acked_ev; exact ht_1
        clear_value u_2
        split
        · apply State.keepNacked_ev; exact hu_2
        · split
          · apply State.loadFails_ev; exact hu_2
          · exact hu_2
  · split
    · split
      · apply State.loadFails_ev; apply State.nackSeen_ev; exact hs
      · apply State.dropPkt_ev; exact hs
    · apply State.strayNack_ev; exact hs

theorem execNack_ev {z : State} (p : Nat) (pkt : Packet) (s : State) (hs : z.Evolves s) : Later z (execNack p pkt s) := by
  unfold execNack
  split
  · refine Later.occurs ?_ ?_
    · exact hs
    · apply State.drainPump_ev; apply State.rspChecked_ev
      · refine State.Evolves.of_some (by assumption) ?_
        refine LaterO.bind ?_ ?_
        · apply State.takeRx_ev; exact hs
        · intro v0 v1
          apply State.rspCross_ev; with_reducible assumption
      · apply State.nackRx_ev
        refine State.Evolves.of_some (by assumption) ?_
        refine LaterO.bind ?_ ?_
        · apply State.takeRx_ev; exact hs
        · intro v2 v3
          apply State.rspCross_ev; with_reducible assumption
  · refine Later.occurs ?_ ?_
    · exact hs
    · exact hs

theorem State.ackTimeout_ev {z : State} (s : State) (core dev chan since : Nat) (hs : z.Evolves s) : z.Evolves (State.ackTimeout s core dev chan since) := by
  unfold State.ackTimeout
  extract_lets +onlyGivenNames t_0
  have ht_0 : z.Evolves t_0 := by
    unfold t_0
    apply State.runTo_ev; exact hs
  clear_value t_0
  extract_lets +onlyGivenNames mine_1
  extract_lets +onlyGivenNames free_2
  extract_lets +onlyGivenNames u_3
  extract_lets +onlyGivenNames u_4
  have hu_4 : z.Evolves u_4 := by
    unfold u_4
    refine State.Evolves.mk_same ?_ rfl rfl rfl rfl
    exact ht_0
  clear_value u_4
  extract_lets +onlyGivenNames v_5
  have hv_5 : z.Evolves v_5 := by
    unfold v_5
    apply State.count_ev; apply State.raise_ev; apply State.modPair_ev; exact hu_4
  clear_value v_5
  split
  · apply State.keepPeerLost_ev; exact hv_5
  · exact hv_5

theorem execAckTimeout_ev {z : State} (core dev chan : Nat) (s : State) (hs : z.Evolves s) : Later z (execAckTimeout core dev chan s) := by
  unfold execAckTimeout
  split
  · refine Later.occurs ?_ ?_
    · exact hs
    · apply State.ackTimeout_ev; exact hs
  · refine Later.occurs ?_ ?_
    · exact hs
    · exact hs

theorem execLoadTimeout_ev {z : State} (idx : Nat) (s : State) (hs : z.Evolves s) : Later z (execLoadTimeout idx s) := by
  unfold execLoadTimeout
  split
  · extract_lets +onlyGivenNames t_0
    have ht_0 : z.Evolves t_0 := by
      unfold t_0
      apply State.runTo_ev; exact hs
    clear_value t_0
    refine Later.next ?_
    apply State.count_ev; apply State.loadFails_ev; exact ht_0
  · refine Later.occurs ?_ ?_
    · exact hs
    · exact hs

theorem State.fjRetry_ev {z : State} (s : State) (r : Sent × Nat) (hs : z.Evolves s) : z.Evolves (State.fjRetry s r) := by
  unfold State.fjRetry
  extract_lets +onlyGivenNames t_0
  have ht_0 : z.Evolves t_0 := by
    unfold t_0
    apply State.runTo_ev; exact hs
  clear_value t_0
  extract_lets +onlyGivenNames u_1
  extract_lets +onlyGivenNames u_2
  have hu_2 : z.Evolves u_2 := by
    unfold u_2
    refine State.Evolves.mk_same ?_ rfl rfl rfl rfl
    exact ht_0
  clear_value u_2
  split
  · exact hu_2
  · extract_lets +onlyGivenNames k_3
    extract_lets +onlyGivenNames k_4
    apply State.dispatch_ev; exact hu_2

theorem execFjRetry_ev {z : State} (idx : Nat) (s : State) (hs : z.Evolves s) : Later z (execFjRetry idx s) := by
  unfold execFjRetry
  split
  · refine Later.occurs ?_ ?_
    · exact hs
    · apply State.fjRetry_ev; exact hs
  · refine Later.occurs ?_ ?_
    · exact hs
    · exact hs

theorem State.transit_ev {z : State} (s : State) (p : Nat) (pkt : Packet) (hs : z.Evolves s) : z.Evolves (State.transit s p pkt) := by
  unfold State.transit
  extract_lets +onlyGivenNames k_0
  split
  · apply State.pmc_ev; apply State.count_ev
    refine State.Evolves.of_some (by assumption) ?_
    apply State.launch_ev; exact hs
  · apply State.dispatch_ev; exact hs

theorem execFjTransit_ev {z : State} (p : Nat) (pkt : Packet) (s : State) (hs : z.Evolves s) : Later z (execFjTransit p pkt s) := by
  unfold execFjTransit
  split
  · refine Later.occurs ?_ ?_
    · exact hs
    · apply State.drainPump_ev; apply State.transit_ev
      refine State.Evolves.of_some (by assumption) ?_
      apply State.takeRx_ev; exact hs
  · refine Later.occurs ?_ ?_
    · exact hs
    · exact hs

theorem State.drainRx_ev {z : State} (s : State) (p vc epoch : Nat) (hs : z.Evolves s) : z.Evolves (State.drainRx s p vc epoch) := by
  unfold State.drainRx
  split
  · apply State.drainPump_ev
    refine State.Evolves.mk_same ?_ rfl rfl rfl rfl
    exact hs
  · apply State.count_ev; exact hs

theorem execDrain_ev {z : State} (p vc epoch : Nat) (s : State) (hs : z.Evolves s) : Later z (execDrain p vc epoch s) := by
  unfold execDrain
  split
  · split
    · refine Later.occurs ?_ ?_
      · exact hs
      · split
        · apply State.dropPkt_ev
          refine State.Evolves.of_some (by assumption) ?_
          apply State.takeRx_ev; exact hs
        · apply State.drainRx_ev
          refine State.Evolves.of_some (by assumption) ?_
          apply State.takeRx_ev; exact hs
    · refine Later.occurs ?_ ?_
      · exact hs
      · exact hs
  · refine Later.occurs ?_ ?_
    · exact hs
    · exact hs

theorem execFjClearCounts_ev {z : State} (port : Nat) (s : State) (hs : z.Evolves s) : Later z (execFjClearCounts port s) := by
  unfold execFjClearCounts
  refine Later.occurs ?_ ?_
  · exact hs
  · apply State.zeroRegs_ev; exact hs

theorem State.leaseRx_ev {z : State} (s : State) (q : Packet) (hs : z.Evolves s) : z.Evolves (State.leaseRx s q) := by
  unfold State.leaseRx
  extract_lets +onlyGivenNames d_0
  split
  · extract_lets +onlyGivenNames t_1
    have ht_1 : z.Evolves t_1 := by
      unfold t_1
      apply State.fs_ev; apply State.wr_ev; apply State.wr_ev; exact hs
    clear_value t_1
    apply State.rxCount_ev
    refine State.Evolves.mk_same ?_ rfl rfl rfl rfl
    exact ht_1
  · apply State.count_ev; exact hs

theorem execLease_ev {z : State} (p : Nat) (pkt : Packet) (s : State) (hs : z.Evolves s) : Later z (execLease p pkt s) := by
  unfold execLease
  split
  · extract_lets +onlyGivenNames r_0
    have hr_0 : z.Evolves r_0.2.2 := by
      unfold r_0
      apply State.inspect_ev
      refine State.Evolves.of_some (by assumption) ?_
      refine LaterO.bind ?_ ?_
      · apply State.takeRx_ev; exact hs
      · intro v1 v2
        apply State.toHub_ev; with_reducible assumption
    clear_value r_0
    refine Later.occurs ?_ ?_
    · exact hs
    · apply State.drainPump_ev
      split
      · apply State.leaseRx_ev; exact hr_0
      · apply State.dropPkt_ev; exact hr_0
  · refine Later.occurs ?_ ?_
    · exact hs
    · exact hs

theorem execLeaseExpiry_ev {z : State} (s : State) (hs : z.Evolves s) : Later z (execLeaseExpiry s) := by
  unfold execLeaseExpiry
  refine Later.occurs ?_ ?_
  · exact hs
  · apply State.fs_ev; apply State.runToRack_ev; exact hs

theorem State.wipeDomain_ev {z : State} (s : State) (i : Nat) (hs : z.Evolves s) : z.Evolves (State.wipeDomain s i) := by
  unfold State.wipeDomain
  split
  · exact hs
  · extract_lets +onlyGivenNames ks_0
    extract_lets +onlyGivenNames lo_1
    extract_lets +onlyGivenNames hi_2
    extract_lets +onlyGivenNames gone_3
    refine State.Evolves.mk_any ?_ ?_ ?_ ?_ ?_ ?_ ?_ ?_ ?_ ?_ ?_ ?_
    · exact hs
    · exact id
    · exact fun e => rising_filter e _
    · exact id
    · exact Nat.le_refl _
    · rfl
    · exact Nat.le_refl _
    · exact Nat.le_refl _
    · exact Nat.le_refl _
    · rfl
    · exact Nat.le_refl _
    · exact Nat.le_refl _

theorem State.showDomain_ev {z : State} (s : State) (fenced i : Nat) (r : Rec) (hs : z.Evolves s) : z.Evolves (State.showDomain s fenced i r) := by
  unfold State.showDomain
  extract_lets +onlyGivenNames kind_0
  apply State.wr_ev; apply State.wr_ev; exact hs

theorem State.setupDomain_ev {z : State} (s : State) (old new : List Rec) (named : Bool) (fenced i : Nat) (hs : z.Evolves s) : z.Evolves (State.setupDomain s old new named fenced i) := by
  unfold State.setupDomain
  split
  · exact hs
  · extract_lets +onlyGivenNames keep_0
    extract_lets +onlyGivenNames t_1
    have ht_1 : z.Evolves t_1 := by
      unfold t_1
      apply State.wipeDomain_ev; exact hs
    clear_value t_1
    extract_lets +onlyGivenNames u_2
    have hu_2 : z.Evolves u_2 := by
      unfold u_2
      split
      · apply State.wipeDomain_ev; apply State.showDomain_ev; exact ht_1
      · apply State.resetReg_ev; apply State.resetReg_ev; exact ht_1
    clear_value u_2
    split
    · extract_lets +onlyGivenNames v_3
      have hv_3 : z.Evolves v_3 := by
        unfold v_3
        apply State.sendResync_ev; exact hu_2
      clear_value v_3
      split
      · apply State.parityResync_ev; exact hv_3
      · exact hv_3
    · exact hu_2

theorem State.unbindCtx_ev {z : State} (s : State) (x : Nat) (hs : z.Evolves s) : z.Evolves (State.unbindCtx s x) := by
  unfold State.unbindCtx
  apply State.fs_ev; apply State.setCtx_ev; apply State.modCtx_ev; exact hs

theorem State.setupCtx_ev {z : State} (s : State) (new : List Rec) (core i : Nat) (hs : z.Evolves s) : z.Evolves (State.setupCtx s new core i) := by
  unfold State.setupCtx
  extract_lets +onlyGivenNames x_0
  extract_lets +onlyGivenNames t_1
  have ht_1 : z.Evolves t_1 := by
    unfold t_1
    apply State.dropQueued_ev; exact hs
  clear_value t_1
  split
  · extract_lets +onlyGivenNames b_2
    split
    · extract_lets +onlyGivenNames u_3
      have hu_3 : z.Evolves u_3 := by
        unfold u_3
        apply State.fs_ev; apply State.modCtx_ev; exact ht_1
      clear_value u_3
      extract_lets +onlyGivenNames st_4
      split
      · apply State.fs_ev; exact hu_3
      · split
        · apply State.startCtx_ev; exact hu_3
        · exact hu_3
    · apply State.unbindCtx_ev; exact ht_1
  · apply State.unbindCtx_ev; exact ht_1

theorem State.setupCore_ev {z : State} (s : State) (old new : List Rec) (named : Bool) (core : Nat) (hs : z.Evolves s) : z.Evolves (State.setupCore s old new named core) := by
  unfold State.setupCore
  split
  · exact hs
  · extract_lets +onlyGivenNames w_0
    refine State.Evolves.foldl ?_ ?_
    · refine State.Evolves.mk_same ?_ rfl rfl rfl rfl
      exact hs
    · intro v1 v2 v3
      apply State.setupCtx_ev; with_reducible assumption

theorem State.setupRing_ev {z : State} (s : State) (old new : List Rec) (id : Nat) (hs : z.Evolves s) : z.Evolves (State.setupRing s old new id) := by
  unfold State.setupRing
  split
  · exact hs
  · extract_lets +onlyGivenNames t_0
    extract_lets +onlyGivenNames t_1
    have ht_1 : z.Evolves t_1 := by
      unfold t_1
      refine State.Evolves.mk_same ?_ rfl rfl rfl rfl
      exact hs
    clear_value t_1
    split
    · apply State.wr_ev; exact ht_1
    · apply State.resetReg_ev; exact ht_1

theorem State.setupStream_ev {z : State} (s : State) (old new : List Rec) (n : Nat) (hs : z.Evolves s) : z.Evolves (State.setupStream s old new n) := by
  unfold State.setupStream
  split
  · exact hs
  · refine State.Evolves.mk_same ?_ rfl rfl rfl rfl
    exact hs

theorem State.setupAct_ev {z : State} (s : State) (new : List Rec) (a : Nat) (hs : z.Evolves s) : z.Evolves (State.setupAct s new a) := by
  unfold State.setupAct
  split
  · extract_lets +onlyGivenNames st_0
    extract_lets +onlyGivenNames k_1
    apply State.fs_ev; apply State.fs_ev; apply State.fs_ev; apply State.fs_ev; exact hs
  · apply State.resetReg_ev; exact hs

theorem State.setupSgu_ev {z : State} (s : State) (new : List Rec) (hs : z.Evolves s) : z.Evolves (State.setupSgu s new) := by
  unfold State.setupSgu
  extract_lets +onlyGivenNames t_0
  have ht_0 : z.Evolves t_0 := by
    unfold t_0
    apply State.fs_ev; apply State.fs_ev; exact hs
  clear_value t_0
  refine State.Evolves.foldl ?_ ?_
  · exact ht_0
  · intro v1 v2 v3
    extract_lets +onlyGivenNames k_4
    split
    · apply State.fs_ev; apply State.fs_ev; apply State.fs_ev; apply State.fs_ev; with_reducible assumption
    · apply State.resetReg_ev; with_reducible assumption

theorem State.setupGroup_ev {z : State} (s : State) (old new : List Rec) (hs : z.Evolves s) : z.Evolves (State.setupGroup s old new) := by
  unfold State.setupGroup
  split
  · exact hs
  · extract_lets +onlyGivenNames x_0
    have hx_0 : z.Evolves x_0 := by
      unfold x_0
      apply State.fs_ev; apply State.fs_ev; exact hs
    clear_value x_0
    extract_lets +onlyGivenNames members_1
    extract_lets +onlyGivenNames lost_2
    split
    · exact hx_0
    · apply State.fs_ev
      refine State.Evolves.mk_same ?_ rfl rfl rfl rfl
      exact hx_0

theorem State.recoverNone_ev {z : State} (s : State) (hs : z.Evolves s) : z.Evolves (State.recoverNone s) := by
  unfold State.recoverNone
  extract_lets +onlyGivenNames d_0
  apply State.emit_ev; apply State.log_ev; exact hs

theorem State.askFrame_ev {z : State} (s : State) (f : Nat) (hs : z.Evolves s) : z.Evolves (State.askFrame s f) := by
  unfold State.askFrame
  extract_lets +onlyGivenNames stride_0
  apply State.sendKeep_ev; exact hs

theorem State.recoverBegin_ev {z : State} (s : State) (hs : z.Evolves s) : z.Evolves (State.recoverBegin s) := by
  unfold State.recoverBegin
  extract_lets +onlyGivenNames sealed_0
  extract_lets +onlyGivenNames l_1
  extract_lets +onlyGivenNames f_2
  have hf_2 : z.Evolves f_2.2 := by
    unfold f_2
    apply State.free_ev; exact hs
  clear_value f_2
  split
  · apply State.recoverNone_ev; exact hf_2
  · split
    · extract_lets +onlyGivenNames w3
      have hw3 : z.Evolves w3 := by
        unfold w3
        exact hf_2
      clear_value w3
      refine State.Evolves.mk_same ?_ rfl rfl rfl rfl
      exact hw3
    · split
      · apply State.askFrame_ev
        extract_lets +onlyGivenNames w4
        have hw4 : z.Evolves w4 := by
          unfold w4
          exact hf_2
        clear_value w4
        refine State.Evolves.mk_same ?_ rfl rfl rfl rfl
        exact hw4
      · apply State.recoverNone_ev; exact hf_2

theorem State.setupWard_ev {z : State} (s : State) (old new : List Rec) (hs : z.Evolves s) : z.Evolves (State.setupWard s old new) := by
  unfold State.setupWard
  extract_lets +onlyGivenNames v_0
  extract_lets +onlyGivenNames v_1
  have hv_1 : z.Evolves v_1 := by
    unfold v_1
    split
    · split
      · exact hs
      · apply State.fs_ev
        refine State.Evolves.mk_same ?_ rfl rfl rfl rfl
        exact hs
    · exact hs
  clear_value v_1
  split
  · exact hv_1
  · apply State.sendKeep_ev; exact hv_1

theorem State.setupKeep_ev {z : State} (s : State) (old new : List Rec) (hs : z.Evolves s) : z.Evolves (State.setupKeep s old new) := by
  unfold State.setupKeep
  extract_lets +onlyGivenNames role_0
  extract_lets +onlyGivenNames t_1
  have ht_1 : z.Evolves t_1 := by
    unfold t_1
    apply State.fs_ev; apply State.fs_ev; exact hs
  clear_value t_1
  extract_lets +onlyGivenNames t_2
  extract_lets +onlyGivenNames t_3
  have ht_3 : z.Evolves t_3 := by
    unfold t_3
    split
    · exact ht_1
    · apply State.fs_ev
      refine State.Evolves.mk_same ?_ rfl rfl rfl rfl
      exact ht_1
  clear_value t_3
  extract_lets +onlyGivenNames t_4
  have ht_4 : z.Evolves t_4 := by
    unfold t_4
    split
    · apply State.recoverBegin_ev; exact ht_3
    · exact ht_3
  clear_value t_4
  extract_lets +onlyGivenNames v_5
  have hv_5 : z.Evolves v_5 := by
    unfold v_5
    apply State.setupWard_ev; apply State.setupGroup_ev; exact ht_4
  clear_value v_5
  split
  · exact hv_5
  · extract_lets +onlyGivenNames x_6
    extract_lets +onlyGivenNames x_7
    have hx_7 : z.Evolves x_7 := by
      unfold x_7
      apply State.setPair_ev
      refine State.Evolves.mk_same ?_ rfl rfl rfl rfl
      exact hv_5
    clear_value x_7
    split
    · exact hx_7
    · apply State.sendPair_ev; exact hx_7

theorem State.setupLimits_ev {z : State} (s : State) (old new : List Rec) (hs : z.Evolves s) : z.Evolves (State.setupLimits s old new) := by
  unfold State.setupLimits
  split
  · split
    · apply State.fs_ev; exact hs
    · exact hs
  · exact hs

theorem State.install_ev {z : State} (s : State) (new : List Rec) (named : Nat → Nat → Bool) (fenced : Nat) (hs : z.Evolves s) : z.Evolves (State.install s new named fenced) := by
  unfold State.install
  extract_lets +onlyGivenNames old_0
  extract_lets +onlyGivenNames s0_1
  have hs0_1 : z.Evolves s0_1 := by
    unfold s0_1
    refine State.Evolves.foldl ?_ ?_
    · apply State.abortCalls_ev; exact hs
    · intro v2 v3 v4
      apply State.setupDomain_ev; with_reducible assumption
  clear_value s0_1
  extract_lets +onlyGivenNames s1_5
  extract_lets +onlyGivenNames s1_6
  have hs1_6 : z.Evolves s1_6 := by
    unfold s1_6
    refine State.Evolves.mk_same ?_ rfl rfl rfl rfl
    exact hs0_1
  clear_value s1_6
  extract_lets +onlyGivenNames s2_7
  have hs2_7 : z.Evolves s2_7 := by
    unfold s2_7
    refine State.Evolves.foldl ?_ ?_
    · exact hs1_6
    · intro v8 v9 v10
      apply State.setupAct_ev; with_reducible assumption
  clear_value s2_7
  extract_lets +onlyGivenNames s3_11
  have hs3_11 : z.Evolves s3_11 := by
    unfold s3_11
    refine State.Evolves.foldl ?_ ?_
    · exact hs2_7
    · intro v12 v13 v14
      apply State.setupRing_ev; with_reducible assumption
  clear_value s3_11
  extract_lets +onlyGivenNames ports_15
  extract_lets +onlyGivenNames s4_16
  have hs4_16 : z.Evolves s4_16 := by
    unfold s4_16
    refine State.Evolves.foldl ?_ ?_
    · exact hs3_11
    · intro v17 v18 v19
      apply State.setupStream_ev; with_reducible assumption
  clear_value s4_16
  extract_lets +onlyGivenNames s5_20
  have hs5_20 : z.Evolves s5_20 := by
    unfold s5_20
    refine State.Evolves.foldl ?_ ?_
    · exact hs4_16
    · intro v21 v22 v23
      apply State.setupCore_ev; with_reducible assumption
  clear_value s5_20
  extract_lets +onlyGivenNames s6_24
  have hs6_24 : z.Evolves s6_24 := by
    unfold s6_24
    apply State.setupKeep_ev; apply State.setupSgu_ev; apply State.showGroups_ev; apply State.fs_ev; apply State.fs_ev; exact hs5_20
  clear_value s6_24
  extract_lets +onlyGivenNames s7_25
  have hs7_25 : z.Evolves s7_25 := by
    unfold s7_25
    apply State.setupLimits_ev; exact hs6_24
  clear_value s7_25
  extract_lets +onlyGivenNames s8_26
  have hs8_26 : z.Evolves s8_26 := by
    unfold s8_26
    refine State.Evolves.foldl ?_ ?_
    · exact hs7_25
    · intro v27 v28 v29
      split
      · with_reducible assumption
      · apply State.actSettle_ev; with_reducible assumption
  clear_value s8_26
  apply State.streamNotify_ev
  · exact hs
  · refine State.Evolves.foldl ?_ ?_
    · exact hs8_26
    · intro v30 v31 v32
      split
      · apply State.spConfigure_ev; with_reducible assumption
      · with_reducible assumption

theorem State.reloadDie_ev {z : State} (s : State) (d : Nat) (hs : z.Evolves s) : z.Evolves (State.reloadDie s d) := by
  unfold State.reloadDie
  extract_lets +onlyGivenNames c_0
  extract_lets +onlyGivenNames t_1
  have ht_1 : z.Evolves t_1 := by
    unfold t_1
    refine State.Evolves.foldl ?_ ?_
    · exact hs
    · intro v2 v3 v4
      extract_lets +onlyGivenNames core_5
      extract_lets +onlyGivenNames w_6
      extract_lets +onlyGivenNames v_7
      extract_lets +onlyGivenNames v_8
      have hv_8 : z.Evolves v_8 := by
        unfold v_8
        refine State.Evolves.mk_same ?_ rfl rfl rfl rfl
        with_reducible assumption
      clear_value v_8
      refine State.Evolves.foldl ?_ ?_
      · exact hv_8
      · intro v9 v10 v11
        apply State.setupCtx_ev; apply State.setCtx_ev; apply State.dropQueued_ev; with_reducible assumption
  clear_value t_1
  refine State.Evolves.foldl ?_ ?_
  · exact ht_1
  · intro v12 v13 v14
    apply State.setupRing_ev; with_reducible assumption

theorem State.eachHauno_ev {z : State} (s : State) (f : State → Nat → State) (hs : z.Evolves s) (hf : ∀ y0 y1, z.Evolves y0 → z.Evolves (f y0 y1)) : z.Evolves (State.eachHauno s f) := by
  unfold State.eachHauno
  refine State.Evolves.foldl ?_ ?_
  · exact hs
  · intro v0 v1 v2
    apply hf; with_reducible assumption

theorem State.haunoPause_ev {z : State} (s : State) (on : Bool) (hs : z.Evolves s) : z.Evolves (State.haunoPause s on) := by
  unfold State.haunoPause
  apply State.eachHauno_ev
  · exact hs
  · intro v0 v1 v2
    extract_lets +onlyGivenNames u_3
    have hu_3 : z.Evolves u_3 := by
      unfold u_3
      apply State.fs_ev; with_reducible assumption
    clear_value u_3
    split
    · exact hu_3
    · apply State.haunoEvent_ev; exact hu_3

theorem State.passContexts_ev {z : State} (s : State) (pause : Bool) (hs : z.Evolves s) : z.Evolves (State.passContexts s pause) := by
  unfold State.passContexts
  refine State.Evolves.foldl ?_ ?_
  · exact hs
  · intro v0 v1 v2
    extract_lets +onlyGivenNames atStep_3
    extract_lets +onlyGivenNames u_4
    have hu_4 : z.Evolves u_4 := by
      unfold u_4
      split
      · apply State.modCtx_ev; with_reducible assumption
      · with_reducible assumption
    clear_value u_4
    split
    · split
      · apply State.setCtx_ev; exact hu_4
      · split
        · apply State.setCtx_ev; exact hu_4
        · exact hu_4
    · exact hu_4

theorem State.askPause_ev {z : State} (s : State) (p : Pause) (hs : z.Evolves s) : z.Evolves (State.askPause s p) := by
  unfold State.askPause
  extract_lets +onlyGivenNames t_0
  have ht_0 : z.Evolves t_0 := by
    unfold t_0
    refine State.Evolves.foldl ?_ ?_
    · exact hs
    · intro v1 v2 v3
      split
      · apply State.fs_ev; with_reducible assumption
      · with_reducible assumption
  clear_value t_0
  extract_lets +onlyGivenNames canaries_4
  extract_lets +onlyGivenNames t_5
  have ht_5 : z.Evolves t_5 := by
    unfold t_5
    refine State.Evolves.mk_same ?_ rfl rfl rfl rfl
    exact ht_0
  clear_value t_5
  extract_lets +onlyGivenNames t_6
  have ht_6 : z.Evolves t_6 := by
    unfold t_6
    refine State.Evolves.foldl ?_ ?_
    · exact ht_5
    · intro v7 v8 v9
      split
      · apply State.setCtx_ev; with_reducible assumption
      · with_reducible assumption
  clear_value t_6
  extract_lets +onlyGivenNames t_10
  have ht_10 : z.Evolves t_10 := by
    unfold t_10
    apply State.cleHold_ev; apply State.haunoPause_ev; apply State.passContexts_ev; exact ht_6
  clear_value t_10
  extract_lets +onlyGivenNames t_11
  have ht_11 : z.Evolves t_11 := by
    unfold t_11
    refine State.Evolves.foldl ?_ ?_
    · exact ht_10
    · intro v12 v13 v14
      split
      · apply State.fs_ev; with_reducible assumption
      · with_reducible assumption
  clear_value t_11
  split
  · apply State.setState_ev; exact ht_11
  · exact ht_11

end Machine
end Sys2Proof
end

