-- ==== Sys2Proof/Laws/EvolveHost.lean ====
section
/-!
SUPPORT. The operations of the image loader, the host commands and the pauses lead to later states (`State.Evolves`): one lemma for each.
-/
namespace Sys2Proof
namespace Machine
set_option Elab.async false

theorem State.candidate_ev {z : State} (s : State) (c : List IRec) (hs : z.Evolves s) : z.Evolves (State.candidate s c) := by
  unfold State.candidate
  extract_lets +onlyGivenNames k_0
  extract_lets +onlyGivenNames t_1
  have ht_1 : z.Evolves t_1 := by
    unfold t_1
    refine State.Evolves.foldl ?_ ?_
    · exact hs
    · intro v2 v3 v4
      split
      · split
        · apply State.showDomain_ev; with_reducible assumption
        · apply State.resetReg_ev; apply State.resetReg_ev; with_reducible assumption
      · with_reducible assumption
  clear_value t_1
  refine State.Evolves.mk_same ?_ rfl rfl rfl rfl
  exact ht_1

theorem imgWrite_ev {z : State} (port : Nat) (f : State → State) (s : State) (hs : z.Evolves s) (hf : ∀ y0, z.Evolves y0 → z.Evolves (f y0)) : Later z (imgWrite port f s) := by
  unfold imgWrite
  refine Later.occurs ?_ ?_
  · exact hs
  · split
    · apply hf; exact hs
    · apply State.raise_ev; exact hs

theorem State.imgBegin_ev {z : State} (s : State) (kind : Nat) (hs : z.Evolves s) : z.Evolves (State.imgBegin s kind) := by
  unfold State.imgBegin
  have ht := State.fs_ev s R.IMG_CTL F.IMG_CTL_kind kind hs
  extract_lets t
  split
  · exact ht
  · have hu := State.fs_ev _ R.IMG_CTL F.IMG_CTL_kind kind (State.fs_ev _ R.IMG_STATUS F.IMG_STATUS_words 0 (State.fs_ev _ R.IMG_STATUS F.IMG_STATUS_load_state 1 ht))
    exact hu.mk_same rfl rfl rfl rfl

theorem execImgBegin_ev {z : State} (port kind : Nat) (s : State) (hs : z.Evolves s) : Later z (execImgBegin port kind s) := by
  unfold execImgBegin
  apply imgWrite_ev
  · exact hs
  · intro v0 v1
    apply State.imgBegin_ev; with_reducible assumption

theorem State.imgResult_ev {z : State} (s : State) (code check kind slot rec : Nat) (hs : z.Evolves s) : z.Evolves (State.imgResult s code check kind slot rec) := by
  unfold State.imgResult
  extract_lets +onlyGivenNames t_0
  have ht_0 : z.Evolves t_0 := by
    unfold t_0
    apply State.wr_ev; exact hs
  clear_value t_0
  extract_lets +onlyGivenNames u_1
  have hu_1 : z.Evolves u_1 := by
    unfold u_1
    apply State.fs_ev; exact ht_0
  clear_value u_1
  extract_lets +onlyGivenNames run_2
  extract_lets +onlyGivenNames pend_3
  apply State.msixNow_ev
  refine State.Evolves.mk_same ?_ rfl rfl rfl rfl
  exact hu_1

theorem State.imgAbandon_ev {z : State} (s : State) (hs : z.Evolves s) : z.Evolves (State.imgAbandon s) := by
  unfold State.imgAbandon
  split
  · exact hs
  · apply State.imgResult_ev; exact hs

theorem State.imgData_ev {z : State} (s : State) (size : Nat) (words : List Word) (hs : z.Evolves s) : z.Evolves (State.imgData s size words) := by
  unfold State.imgData
  split
  · apply State.raise_ev; exact hs
  · split
    · apply State.imgResult_ev; exact hs
    · extract_lets +onlyGivenNames n_0
      extract_lets +onlyGivenNames room_1
      extract_lets +onlyGivenNames t_2
      have ht_2 : z.Evolves t_2 := by
        unfold t_2
        apply State.fsat_ev; exact hs
      clear_value t_2
      refine State.Evolves.mk_same ?_ rfl rfl rfl rfl
      exact ht_2

theorem execImgDataWrite_ev {z : State} (port size : Nat) (words : List Word) (s : State) (hs : z.Evolves s) : Later z (execImgDataWrite port size words s) := by
  unfold execImgDataWrite
  apply imgWrite_ev
  · exact hs
  · intro v0 v1
    apply State.imgData_ev; with_reducible assumption

theorem State.imgCommit_ev {z : State} (s : State) (hs : z.Evolves s) : z.Evolves (State.imgCommit s) := by
  unfold State.imgCommit
  split
  · apply State.raise_ev; exact hs
  · split
    · apply State.raise_ev; exact hs
    · extract_lets +onlyGivenNames t_0
      have ht_0 : z.Evolves t_0 := by
        unfold t_0
        apply State.fs_ev; exact hs
      clear_value t_0
      refine State.Evolves.mk_same ?_ rfl rfl rfl rfl
      exact ht_0

theorem execImgCommit_ev {z : State} (port : Nat) (s : State) (hs : z.Evolves s) : Later z (execImgCommit port s) := by
  unfold execImgCommit
  apply imgWrite_ev
  · exact hs
  · intro v0 v1
    apply State.imgCommit_ev; with_reducible assumption

theorem State.imgAbort_ev {z : State} (s : State) (hs : z.Evolves s) : z.Evolves (State.imgAbort s) := by
  unfold State.imgAbort
  split
  · exact hs
  · extract_lets +onlyGivenNames t_0
    have ht_0 : z.Evolves t_0 := by
      unfold t_0
      apply State.fs_ev; exact hs
    clear_value t_0
    refine State.Evolves.mk_same ?_ rfl rfl rfl rfl
    exact ht_0

theorem execImgAbort_ev {z : State} (port : Nat) (s : State) (hs : z.Evolves s) : Later z (execImgAbort port s) := by
  unfold execImgAbort
  apply imgWrite_ev
  · exact hs
  · intro v0 v1
    apply State.imgAbort_ev; with_reducible assumption

theorem State.putDigest_ev {z : State} (s : State) (reg : Nat → Nat) (d : Bytes) (hs : z.Evolves s) : z.Evolves (State.putDigest s reg d) := by
  unfold State.putDigest
  refine State.Evolves.foldl ?_ ?_
  · exact hs
  · intro v0 v1 v2
    apply State.wr_ev; with_reducible assumption

theorem State.showSlots_ev {z : State} (s : State) (hs : z.Evolves s) : z.Evolves (State.showSlots s) := by
  unfold State.showSlots
  refine State.Evolves.foldl ?_ ?_
  · exact hs
  · intro v0 v1 v2
    extract_lets +onlyGivenNames i_3
    split
    · apply State.wr_ev; with_reducible assumption
    · apply State.wr_ev; with_reducible assumption

theorem State.raiseFloor_ev {z : State} (s : State) (e : Bytes) (hs : z.Evolves s) : z.Evolves (State.raiseFloor s e) := by
  unfold State.raiseFloor
  split
  · extract_lets +onlyGivenNames t_0
    have ht_0 : z.Evolves t_0 := by
      unfold t_0
      apply State.wr_ev; exact hs
    clear_value t_0
    refine State.Evolves.mk_same ?_ rfl rfl rfl rfl
    exact ht_0
  · exact hs

theorem State.setBank_ev {z : State} (s : State) (i : Nat) (b : Option Bytes) (hs : z.Evolves s) : z.Evolves (State.setBank s i b) := by
  unfold State.setBank
  refine State.Evolves.mk_same ?_ rfl rfl rfl rfl
  exact hs

theorem State.loadBase_ev {z : State} (s : State) (digest : Bytes) (recs : List Rec) (hs : z.Evolves s) : z.Evolves (State.loadBase s digest recs) := by
  unfold State.loadBase
  extract_lets +onlyGivenNames t_0
  extract_lets +onlyGivenNames t_1
  extract_lets +onlyGivenNames t_2
  have ht_2 : z.Evolves t_2 := by
    unfold t_2
    refine State.Evolves.mk_same ?_ rfl rfl rfl rfl
    exact hs
  clear_value t_2
  extract_lets +onlyGivenNames t_3
  have ht_3 : z.Evolves t_3 := by
    unfold t_3
    apply State.setBank_ev; apply State.setBank_ev; apply State.putDigest_ev; exact ht_2
  clear_value t_3
  extract_lets +onlyGivenNames t_4
  have ht_4 : z.Evolves t_4 := by
    unfold t_4
    apply State.fs_ev; exact ht_3
  clear_value t_4
  extract_lets +onlyGivenNames t_5
  have ht_5 : z.Evolves t_5 := by
    unfold t_5
    refine State.Evolves.mk_same ?_ rfl rfl rfl rfl
    exact ht_4
  clear_value t_5
  extract_lets +onlyGivenNames u_6
  have hu_6 : z.Evolves u_6 := by
    unfold u_6
    apply State.install_ev; exact ht_5
  clear_value u_6
  extract_lets +onlyGivenNames u_7
  have hu_7 : z.Evolves u_7 := by
    unfold u_7
    apply State.putDigest_ev; exact hu_6
  clear_value u_7
  split
  · apply State.setState_ev; exact hu_7
  · exact hu_7

theorem State.loadOverlay_ev {z : State} (s : State) (e : Bytes) (digest : Bytes) (recs : List Rec) (hs : z.Evolves s) : z.Evolves (State.loadOverlay s e digest recs) := by
  unfold State.loadOverlay
  extract_lets +onlyGivenNames o_0
  apply State.showSlots_ev
  refine State.Evolves.mk_same ?_ rfl rfl rfl rfl
  exact hs

theorem State.imgCheckDone_ev {z : State} (s : State) (hs : z.Evolves s) : z.Evolves (State.imgCheckDone s) := by
  unfold State.imgCheckDone
  extract_lets +onlyGivenNames e_0
  extract_lets +onlyGivenNames kind_1
  extract_lets +onlyGivenNames slot_2
  split
  · apply State.imgResult_ev; exact hs
  · extract_lets +onlyGivenNames d_3
    extract_lets +onlyGivenNames t_4
    have ht_4 : z.Evolves t_4 := by
      unfold t_4
      apply State.imgResult_ev; apply State.raiseFloor_ev; exact hs
    clear_value t_4
    split
    · apply State.loadBase_ev; exact ht_4
    · apply State.loadOverlay_ev; exact ht_4

theorem execImgCheckDone_ev {z : State} (s : State) (hs : z.Evolves s) : Later z (execImgCheckDone s) := by
  unfold execImgCheckDone
  refine Later.occurs ?_ ?_
  · exact hs
  · apply State.imgCheckDone_ev; exact hs

theorem State.cancelApply_ev {z : State} (s : State) (code check : Nat) (hs : z.Evolves s) : z.Evolves (State.cancelApply s code check) := by
  unfold State.cancelApply
  extract_lets +onlyGivenNames t_0
  have ht_0 : z.Evolves t_0 := by
    unfold t_0
    apply State.fs_ev; apply State.fs_ev; apply State.fs_ev; apply State.fs_ev; exact hs
  clear_value t_0
  extract_lets +onlyGivenNames run_1
  apply State.showSlots_ev
  refine State.Evolves.mk_same ?_ rfl rfl rfl rfl
  exact ht_0

theorem State.applyActive_ev {z : State} (s : State) (hs : z.Evolves s) : z.Evolves (State.applyActive s) := by
  unfold State.applyActive
  split
  · exact hs
  · split
    · apply State.cancelApply_ev; exact hs
    · extract_lets +onlyGivenNames moved_0
      extract_lets +onlyGivenNames timing_1
      extract_lets +onlyGivenNames t_2
      have ht_2 : z.Evolves t_2 := by
        unfold t_2
        apply State.install_ev; exact hs
      clear_value t_2
      extract_lets +onlyGivenNames u_3
      have hu_3 : z.Evolves u_3 := by
        unfold u_3
        split
        · apply State.epochSwitch_ev; exact ht_2
        · exact ht_2
      clear_value u_3
      extract_lets +onlyGivenNames u_4
      have hu_4 : z.Evolves u_4 := by
        unfold u_4
        split
        · exact hu_3
        · refine State.Evolves.mk_same ?_ rfl rfl rfl rfl
          exact hu_3
      clear_value u_4
      extract_lets +onlyGivenNames v_5
      have hv_5 : z.Evolves v_5 := by
        unfold v_5
        apply State.fs_ev; apply State.fs_ev; apply State.fs_ev; apply State.fs_ev; apply State.fs_ev; exact hu_4
      clear_value v_5
      extract_lets +onlyGivenNames w_6
      extract_lets +onlyGivenNames w_7
      have hw_7 : z.Evolves w_7 := by
        unfold w_7
        apply State.showSlots_ev
        refine State.Evolves.mk_same ?_ rfl rfl rfl rfl
        exact hv_5
      clear_value w_7
      extract_lets +onlyGivenNames d_8
      extract_lets +onlyGivenNames x_9
      have hx_9 : z.Evolves x_9 := by
        unfold x_9
        apply State.journal_ev; apply State.putDigest_ev; exact hw_7
      clear_value x_9
      apply State.msixNow_ev; apply State.log_ev; exact hx_9

theorem State.applyParked_ev {z : State} (s : State) (hs : z.Evolves s) : z.Evolves (State.applyParked s) := by
  unfold State.applyParked
  split
  · refine State.Evolves.mk_same ?_ rfl rfl rfl rfl
    exact hs
  · split
    · apply State.applyActive_ev; exact hs
    · apply State.askPause_ev; exact hs

theorem State.tryBank_ev {z : State} (s : State) (hs : z.Evolves s) : z.Evolves (State.tryBank s) := by
  unfold State.tryBank
  split
  · exact hs
  · split
    · exact hs
    · extract_lets +onlyGivenNames need_0
      extract_lets +onlyGivenNames ready_1
      have hready_1 : ∀ a0, z.Evolves a0 → z.Evolves (ready_1 a0) := by
        unfold ready_1
        intro v2 v3
        extract_lets +onlyGivenNames u_4
        extract_lets +onlyGivenNames u_5
        have hu_5 : z.Evolves u_5 := by
          unfold u_5
          refine State.Evolves.mk_same ?_ rfl rfl rfl rfl
          with_reducible assumption
        clear_value u_5
        split
        · apply State.applyParked_ev; exact hu_5
        · exact hu_5
      clear_value ready_1
      split
      · apply hready_1; exact hs
      · split
        · apply hready_1; apply State.setBank_ev; exact hs
        · split
          · split
            · apply State.cancelApply_ev; exact hs
            · refine State.Evolves.mk_same ?_ rfl rfl rfl rfl
              exact hs
          · refine State.Evolves.mk_same ?_ rfl rfl rfl rfl
            exact hs

theorem State.applyCheckDone_ev {z : State} (s : State) (set : Nat) (hs : z.Evolves s) : z.Evolves (State.applyCheckDone s set) := by
  unfold State.applyCheckDone
  extract_lets +onlyGivenNames t_0
  extract_lets +onlyGivenNames t_1
  have ht_1 : z.Evolves t_1 := by
    unfold t_1
    refine State.Evolves.mk_same ?_ rfl rfl rfl rfl
    exact hs
  clear_value t_1
  split
  · apply State.cmdEnds_ev; apply State.cancelApply_ev; exact ht_1
  · extract_lets +onlyGivenNames u_2
    have hu_2 : z.Evolves u_2 := by
      unfold u_2
      apply State.fs_ev; exact ht_1
    clear_value u_2
    extract_lets +onlyGivenNames u_3
    extract_lets +onlyGivenNames u_4
    have hu_4 : z.Evolves u_4 := by
      unfold u_4
      refine State.Evolves.mk_same ?_ rfl rfl rfl rfl
      exact hu_2
    clear_value u_4
    apply State.tryBank_ev; apply State.cmdEnds_ev; exact hu_4

theorem execApplyCheckDone_ev {z : State} (s : State) (hs : z.Evolves s) : Later z (execApplyCheckDone s) := by
  unfold execApplyCheckDone
  refine Later.occurs ?_ ?_
  · exact hs
  · apply State.applyCheckDone_ev; exact hs

theorem execRoutingBankRetry_ev {z : State} (s : State) (hs : z.Evolves s) : Later z (execRoutingBankRetry s) := by
  unfold execRoutingBankRetry
  split
  · refine Later.occurs ?_ ?_
    · exact hs
    · apply State.tryBank_ev; apply State.runTo_ev; exact hs
  · refine Later.next ?_
    exact hs

theorem execApplyRecheckDone_ev {z : State} (s : State) (hs : z.Evolves s) : Later z (execApplyRecheckDone s) := by
  unfold execApplyRecheckDone
  split
  · extract_lets +onlyGivenNames t_0
    extract_lets +onlyGivenNames t_1
    have ht_1 : z.Evolves t_1 := by
      unfold t_1
      refine State.Evolves.mk_same ?_ rfl rfl rfl rfl
      exact hs
    clear_value t_1
    refine Later.next ?_
    split
    · apply State.cancelApply_ev; exact ht_1
    · extract_lets +onlyGivenNames u_2
      extract_lets +onlyGivenNames u_3
      have hu_3 : z.Evolves u_3 := by
        unfold u_3
        refine State.Evolves.mk_same ?_ rfl rfl rfl rfl
        exact ht_1
      clear_value u_3
      split
      · split
        · apply State.applyParked_ev; exact hu_3
        · exact hu_3
      · split
        · apply State.applyParked_ev; exact hu_3
        · exact hu_3
  · refine Later.next ?_
    exact hs

theorem State.cmdBegin_ev {z : State} (s : State) (port op tag : Nat) (hs : z.Evolves s) : z.Evolves (State.cmdBegin s port op tag) := by
  unfold State.cmdBegin
  extract_lets +onlyGivenNames c_0
  extract_lets +onlyGivenNames k_1
  extract_lets +onlyGivenNames t_2
  have ht_2 : z.Evolves t_2 := by
    unfold t_2
    apply State.fs_ev; apply State.fs_ev; apply State.fs_ev; exact hs
  clear_value t_2
  refine State.Evolves.mk_same ?_ rfl rfl rfl rfl
  exact ht_2

theorem State.cmdReady_ev {z : State} (s : State) (port code : Nat) (res : List Word) (hs : z.Evolves s) : z.Evolves (State.cmdReady s port code res) := by
  unfold State.cmdReady
  split
  · refine State.Evolves.mk_same ?_ rfl rfl rfl rfl
    exact hs
  · exact hs

theorem State.cmdOverrun_ev {z : State} (s : State) (port : Nat) (hs : z.Evolves s) : z.Evolves (State.cmdOverrun s port) := by
  unfold State.cmdOverrun
  apply State.raise_ev; exact hs

theorem State.push_ev {z : State} (s : State) (port op tag : Nat) (code : State → List Word → Nat) (f : State → List Word → State) (hs : z.Evolves s) (hf : ∀ y0 y1, z.Evolves y0 → z.Evolves (f y0 y1)) : z.Evolves (State.push s port op tag code f) := by
  unfold State.push
  split
  · apply State.cmdOverrun_ev; exact hs
  · extract_lets +onlyGivenNames args_0
    extract_lets +onlyGivenNames t_1
    have ht_1 : z.Evolves t_1 := by
      unfold t_1
      apply State.cmdBegin_ev; exact hs
    clear_value t_1
    extract_lets +onlyGivenNames c_2
    split
    · apply hf; exact ht_1
    · apply State.cmdReady_ev; exact ht_1

theorem pushRow_ev {z : State} (port op tag : Nat) (code : State → List Word → Nat) (f : State → List Word → State) (s : State) (hs : z.Evolves s) (hf : ∀ y0 y1, z.Evolves y0 → z.Evolves (f y0 y1)) : Later z (pushRow port op tag code f s) := by
  unfold pushRow
  refine Later.occurs ?_ ?_
  · exact hs
  · apply State.push_ev
    · exact hs
    · intro v0 v1 v2
      apply hf; with_reducible assumption

theorem execCmdNop_ev {z : State} (port tag : Nat) (s : State) (hs : z.Evolves s) : Later z (execCmdNop port tag s) := by
  unfold execCmdNop
  apply pushRow_ev
  · exact hs
  · intro v0 v1 v2
    apply State.cmdReady_ev; with_reducible assumption

theorem execCmdUnknownOpcode_ev {z : State} (port opcode tag : Nat) (s : State) (hs : z.Evolves s) : Later z (execCmdUnknownOpcode port opcode tag s) := by
  unfold execCmdUnknownOpcode
  split
  · apply pushRow_ev
    · exact hs
    · intro v0 v1 v2
      with_reducible assumption
  · refine Later.next ?_
    exact hs

theorem execCmdPushBusy_ev {z : State} (port : Nat) (s : State) (hs : z.Evolves s) : Later z (execCmdPushBusy port s) := by
  unfold execCmdPushBusy
  refine Later.occurs ?_ ?_
  · exact hs
  · apply State.cmdOverrun_ev; exact hs

theorem execStart_ev {z : State} (port tag : Nat) (s : State) (hs : z.Evolves s) : Later z (execStart port tag s) := by
  unfold execStart
  apply pushRow_ev
  · exact hs
  · intro v0 v1 v2
    apply State.cmdReady_ev
    refine State.Evolves.mk_same ?_ rfl rfl rfl rfl
    with_reducible assumption

theorem State.cancelStarts_ev {z : State} (s : State) (m : List Nat) (hs : z.Evolves s) : z.Evolves (State.cancelStarts s m) := by
  unfold State.cancelStarts
  refine State.Evolves.mk_same ?_ rfl rfl rfl rfl
  exact hs

theorem State.cancelWaiting_ev {z : State} (s : State) (hs : z.Evolves s) : z.Evolves (State.cancelWaiting s) := by
  unfold State.cancelWaiting
  split
  · apply State.cancelApply_ev; exact hs
  · exact hs

theorem State.stopAct_ev {z : State} (s : State) (a : Nat) (hs : z.Evolves s) : z.Evolves (State.stopAct s a) := by
  unfold State.stopAct
  split
  · exact hs
  · apply State.setAct_ev
    refine State.Evolves.foldl ?_ ?_
    · exact hs
    · intro v0 v1 v2
      apply State.haltCtx_ev; with_reducible assumption

theorem execStop_ev {z : State} (port tag : Nat) (s : State) (hs : z.Evolves s) : Later z (execStop port tag s) := by
  unfold execStop
  apply pushRow_ev
  · exact hs
  · intro v0 v1 v2
    apply State.cmdReady_ev; apply State.cancelWaiting_ev; apply State.cancelStarts_ev
    refine State.Evolves.foldl ?_ ?_
    · with_reducible assumption
    · intro v3 v4 v5
      apply State.stopAct_ev; with_reducible assumption

theorem State.teardownAct_ev {z : State} (s : State) (a : Nat) (hs : z.Evolves s) : z.Evolves (State.teardownAct s a) := by
  unfold State.teardownAct
  split
  · exact hs
  · extract_lets +onlyGivenNames xs_0
    extract_lets +onlyGivenNames t_1
    have ht_1 : z.Evolves t_1 := by
      unfold t_1
      refine State.Evolves.foldl ?_ ?_
      · apply State.emptyStreams_ev; exact hs
      · intro v2 v3 v4
        apply State.modCtx_ev; apply State.setCtx_ev; apply State.dropQueued_ev; with_reducible assumption
    clear_value t_1
    extract_lets +onlyGivenNames fj_5
    extract_lets +onlyGivenNames fj_6
    extract_lets +onlyGivenNames gone_7
    apply State.setAct_ev; apply State.abortCalls_ev
    extract_lets +onlyGivenNames w8
    have hw8 : z.Evolves w8 := by
      unfold w8
      apply State.countN_ev; exact ht_1
    clear_value w8
    refine State.Evolves.mk_same ?_ rfl rfl rfl rfl
    exact hw8

theorem execTeardown_ev {z : State} (port tag : Nat) (s : State) (hs : z.Evolves s) : Later z (execTeardown port tag s) := by
  unfold execTeardown
  apply pushRow_ev
  · exact hs
  · intro v0 v1 v2
    apply State.cmdReady_ev; apply State.streamNotify_ev
    · with_reducible assumption
    · apply State.cancelWaiting_ev; apply State.cancelStarts_ev
      refine State.Evolves.foldl ?_ ?_
      · with_reducible assumption
      · intro v3 v4 v5
        apply State.teardownAct_ev; with_reducible assumption

theorem State.teardownKey_ev {z : State} (s : State) (key : Nat) (hs : z.Evolves s) : z.Evolves (State.teardownKey s key) := by
  unfold State.teardownKey
  extract_lets +onlyGivenNames m_0
  extract_lets +onlyGivenNames xs_1
  extract_lets +onlyGivenNames t_2
  have ht_2 : z.Evolves t_2 := by
    unfold t_2
    refine State.Evolves.foldl ?_ ?_
    · exact hs
    · intro v3 v4 v5
      apply State.teardownAct_ev; apply State.stopAct_ev; with_reducible assumption
  clear_value t_2
  apply State.streamNotify_ev
  · exact hs
  · apply State.cancelStarts_ev; apply State.clearPairs_ev; exact ht_2

theorem execApply_ev {z : State} (port tag : Nat) (s : State) (hs : z.Evolves s) : Later z (execApply port tag s) := by
  unfold execApply
  apply pushRow_ev
  · exact hs
  · intro v0 v1 v2
    extract_lets +onlyGivenNames set_3
    split
    · apply State.cmdReady_ev; with_reducible assumption
    · extract_lets +onlyGivenNames u_4
      have hu_4 : z.Evolves u_4 := by
        unfold u_4
        apply State.fs_ev; apply State.fs_ev; with_reducible assumption
      clear_value u_4
      apply State.showSlots_ev
      refine State.Evolves.mk_same ?_ rfl rfl rfl rfl
      exact hu_4

theorem execSnapshotNow_ev {z : State} (port tag : Nat) (s : State) (hs : z.Evolves s) : Later z (execSnapshotNow port tag s) := by
  unfold execSnapshotNow
  apply pushRow_ev
  · exact hs
  · intro v0 v1 v2
    refine State.Evolves.mk_same ?_ rfl rfl rfl rfl
    with_reducible assumption

theorem State.dieClear_ev {z : State} (s : State) (d : Nat) (hs : z.Evolves s) : z.Evolves (State.dieClear s d) := by
  unfold State.dieClear
  extract_lets +onlyGivenNames sq_0
  extract_lets +onlyGivenNames t_1
  extract_lets +onlyGivenNames t_2
  have ht_2 : z.Evolves t_2 := by
    unfold t_2
    refine State.Evolves.mk_any ?_ ?_ ?_ ?_ ?_ ?_ ?_ ?_ ?_ ?_ ?_ ?_
    · exact hs
    · exact fun e => ⟨rising_filter e.1 _, fun c hc => e.2 c (List.mem_filter.1 hc).1⟩
    · exact fun e => rising_filter e _
    · exact fun e => rising_filter e _
    · exact Nat.le_refl _
    · rfl
    · exact Nat.le_refl _
    · exact Nat.le_refl _
    · exact Nat.le_refl _
    · rfl
    · exact Nat.le_refl _
    · exact Nat.le_refl _
  clear_value t_2
  extract_lets +onlyGivenNames lo_3
  extract_lets +onlyGivenNames u_4
  have hu_4 : z.Evolves u_4 := by
    unfold u_4
    apply State.eccClear_ev; apply State.eccClear_ev; apply State.eccClear_ev; exact ht_2
  clear_value u_4
  apply State.loadRepair_ev; exact hu_4

theorem State.dieReset_ev {z : State} (s : State) (d : Nat) (hs : z.Evolves s) : z.Evolves (State.dieReset s d) := by
  unfold State.dieReset
  extract_lets +onlyGivenNames t_0
  have ht_0 : z.Evolves t_0 := by
    unfold t_0
    split
    · apply State.fenceDie_ev; exact hs
    · exact hs
  clear_value t_0
  apply State.fs_ev
  extract_lets +onlyGivenNames w1
  have hw1 : z.Evolves w1 := by
    unfold w1
    apply State.dieClear_ev; exact ht_0
  clear_value w1
  refine State.Evolves.mk_same ?_ rfl rfl rfl rfl
  exact hw1

theorem execDieReset_ev {z : State} (port tag : Nat) (s : State) (hs : z.Evolves s) : Later z (execDieReset port tag s) := by
  unfold execDieReset
  apply pushRow_ev
  · exact hs
  · intro v0 v1 v2
    apply State.dieReset_ev; with_reducible assumption

theorem State.dieRun_ev {z : State} (s : State) (d : Nat) (hs : z.Evolves s) : z.Evolves (State.dieRun s d) := by
  unfold State.dieRun
  extract_lets +onlyGivenNames t_0
  have ht_0 : z.Evolves t_0 := by
    unfold t_0
    apply State.fs_ev
    refine State.Evolves.foldl ?_ ?_
    · exact hs
    · intro v1 v2 v3
      apply State.fs_ev; with_reducible assumption
  clear_value t_0
  extract_lets +onlyGivenNames t_4
  have ht_4 : z.Evolves t_4 := by
    unfold t_4
    apply State.fs_ev; apply State.setAclk_ev; exact ht_0
  clear_value t_4
  extract_lets +onlyGivenNames u_5
  have hu_5 : z.Evolves u_5 := by
    unfold u_5
    apply State.restoreDone_ev
    refine State.Evolves.foldl ?_ ?_
    · exact ht_4
    · intro v6 v7 v8
      apply State.trainLink_ev; with_reducible assumption
  clear_value u_5
  extract_lets +onlyGivenNames v_9
  have hv_9 : z.Evolves v_9 := by
    unfold v_9
    apply State.reloadDie_ev; apply State.showHot_ev; apply State.fs_ev; apply State.fs_ev; exact hu_5
  clear_value v_9
  apply State.applyRecheck_ev
  split
  · apply State.spStep1_ev; exact hv_9
  · exact hv_9

theorem State.dieFails_ev {z : State} (s : State) (d cause : Nat) (hs : z.Evolves s) : z.Evolves (State.dieFails s d cause) := by
  unfold State.dieFails
  apply State.dieResetEnds_ev; apply State.log_ev; apply State.fs_ev; exact hs

theorem execDieReloadDone_ev {z : State} (die : Nat) (ok : Bool) (s : State) (hs : z.Evolves s) : Later z (execDieReloadDone die ok s) := by
  unfold execDieReloadDone
  extract_lets +onlyGivenNames ready_0
  refine Later.occurs ?_ ?_
  · exact hs
  · extract_lets +onlyGivenNames t_1
    have ht_1 : z.Evolves t_1 := by
      unfold t_1
      apply State.runTo_ev; exact hs
    clear_value t_1
    split
    · apply State.dieFails_ev; exact ht_1
    · split
      · apply State.dieFails_ev; exact ht_1
      · apply State.dieResetEnds_ev; apply State.dieRun_ev; exact ht_1

theorem execModuleReset_ev {z : State} (port tag : Nat) (s : State) (hs : z.Evolves s) : Later z (execModuleReset port tag s) := by
  unfold execModuleReset
  apply pushRow_ev
  · exact hs
  · intro v0 v1 v2
    apply State.cmdReady_ev; with_reducible assumption

theorem execTestEnter_ev {z : State} (port tag : Nat) (s : State) (hs : z.Evolves s) : Later z (execTestEnter port tag s) := by
  unfold execTestEnter
  apply pushRow_ev
  · exact hs
  · intro v0 v1 v2
    apply State.cmdReady_ev; apply State.setState_ev; with_reducible assumption

theorem execDumpOpen_ev {z : State} (port tag : Nat) (s : State) (hs : z.Evolves s) : Later z (execDumpOpen port tag s) := by
  unfold execDumpOpen
  apply pushRow_ev
  · exact hs
  · intro v0 v1 v2
    apply State.cmdReady_ev
    refine State.Evolves.mk_same ?_ rfl rfl rfl rfl
    with_reducible assumption

theorem execTokenNonce_ev {z : State} (port tag : Nat) (s : State) (hs : z.Evolves s) : Later z (execTokenNonce port tag s) := by
  unfold execTokenNonce
  apply pushRow_ev
  · exact hs
  · intro v0 v1 v2
    extract_lets +onlyGivenNames r_3
    have hr_3 : z.Evolves r_3.2 := by
      unfold r_3
      apply State.random_ev; with_reducible assumption
    clear_value r_3
    apply State.cmdReady_ev
    extract_lets +onlyGivenNames w4
    have hw4 : z.Evolves w4 := by
      unfold w4
      exact hr_3
    clear_value w4
    refine State.Evolves.mk_same ?_ rfl rfl rfl rfl
    exact hw4

theorem State.moveToken_ev {z : State} (s : State) (port : Nat) (hs : z.Evolves s) : z.Evolves (State.moveToken s port) := by
  unfold State.moveToken
  extract_lets +onlyGivenNames t_0
  have ht_0 : z.Evolves t_0 := by
    unfold t_0
    apply State.fs_ev; exact hs
  clear_value t_0
  apply State.imgAbandon_ev; apply State.msixBoth_ev
  refine State.Evolves.mk_same ?_ rfl rfl rfl rfl
  exact ht_0

theorem State.claim_ev {z : State} (s : State) (port : Nat) (hs : z.Evolves s) : z.Evolves (State.claim s port) := by
  unfold State.claim
  extract_lets +onlyGivenNames m_0
  extract_lets +onlyGivenNames c_1
  extract_lets +onlyGivenNames t_2
  extract_lets +onlyGivenNames t_3
  have ht_3 : z.Evolves t_3 := by
    unfold t_3
    refine State.Evolves.mk_same ?_ rfl rfl rfl rfl
    exact hs
  clear_value t_3
  split
  · apply State.cmdReady_ev; apply State.moveToken_ev; exact ht_3
  · apply State.cmdReady_ev; exact ht_3

theorem execTokenClaim_ev {z : State} (port tag : Nat) (s : State) (hs : z.Evolves s) : Later z (execTokenClaim port tag s) := by
  unfold execTokenClaim
  apply pushRow_ev
  · split
    · exact hs
    · split
      · refine State.Evolves.mk_same ?_ rfl rfl rfl rfl
        exact hs
      · exact hs
  · intro v0 v1 v2
    apply State.claim_ev; with_reducible assumption

theorem execNonceExpiry_ev {z : State} (port : Nat) (s : State) (hs : z.Evolves s) : Later z (execNonceExpiry port s) := by
  unfold execNonceExpiry
  split
  · refine Later.next ?_
    extract_lets +onlyGivenNames t_0
    have ht_0 : z.Evolves t_0 := by
      unfold t_0
      apply State.runTo_ev; exact hs
    clear_value t_0
    refine State.Evolves.mk_same ?_ rfl rfl rfl rfl
    exact ht_0
  · refine Later.next ?_
    exact hs

theorem State.cmdComplete_ev {z : State} (s : State) (port : Nat) (c : CmdSt) (hs : z.Evolves s) : z.Evolves (State.cmdComplete s port c) := by
  unfold State.cmdComplete
  extract_lets +onlyGivenNames k_0
  extract_lets +onlyGivenNames t_1
  extract_lets +onlyGivenNames t_2
  have ht_2 : z.Evolves t_2 := by
    unfold t_2
    refine State.Evolves.mk_same ?_ rfl rfl rfl rfl
    exact hs
  clear_value t_2
  extract_lets +onlyGivenNames t_3
  have ht_3 : z.Evolves t_3 := by
    unfold t_3
    refine State.Evolves.foldl ?_ ?_
    · exact ht_2
    · intro v4 v5 v6
      apply State.wr_ev; with_reducible assumption
  clear_value t_3
  extract_lets +onlyGivenNames t_7
  have ht_7 : z.Evolves t_7 := by
    unfold t_7
    split
    · refine State.Evolves.foldl ?_ ?_
      · exact ht_3
      · intro v8 v9 v10
        apply State.wr_ev; with_reducible assumption
    · exact ht_3
  clear_value t_7
  extract_lets +onlyGivenNames t_11
  have ht_11 : z.Evolves t_11 := by
    unfold t_11
    apply State.msixNow_ev; apply State.fs_ev; apply State.fs_ev; exact ht_7
  clear_value t_11
  split
  · refine State.Evolves.mk_same ?_ rfl rfl rfl rfl
    exact ht_11
  · exact ht_11

theorem execCmdComplete_ev {z : State} (port : Nat) (s : State) (hs : z.Evolves s) : Later z (execCmdComplete port s) := by
  unfold execCmdComplete
  split
  · refine Later.occurs ?_ ?_
    · exact hs
    · apply State.cmdComplete_ev; exact hs
  · refine Later.next ?_
    exact hs

theorem State.mapStep_ev {z : State} (s : State) (host : Nat) (hs : z.Evolves s) : z.Evolves (State.mapStep s host) := by
  unfold State.mapStep
  apply State.fs_ev; exact hs

theorem State.mapFail_ev {z : State} (s : State) (host code : Nat) (hs : z.Evolves s) : z.Evolves (State.mapFail s host code) := by
  unfold State.mapFail
  extract_lets +onlyGivenNames k_0
  apply State.fsat_ev; apply State.raise_ev; apply State.fs_ev; exact hs

theorem State.dumpRead_ev {z : State} (s : State) (bonded : Bool) (o n : Nat) (hs : z.Evolves s) : z.Evolves (State.dumpRead s bonded o n).2.1 := by
  unfold State.dumpRead
  split
  · apply State.targetRead_ev; apply State.chargeTarget_ev; exact hs
  · with_reducible assumption

theorem State.hubRead_ev {z : State} (s : State) (off n : Nat) (hs : z.Evolves s) : z.Evolves (State.hubRead s off n).2.1 := by
  unfold State.hubRead
  extract_lets +onlyGivenNames r_0
  have hr_0 : z.Evolves r_0.1 := by
    unfold r_0
    apply State.eccRead_ev; exact hs
  clear_value r_0
  with_reducible assumption

theorem State.hubWrite_ev {z : State} (s : State) (off : Nat) (b : Bytes) (hs : z.Evolves s) : z.Evolves (State.hubWrite s off b) := by
  unfold State.hubWrite
  apply State.eccClear_ev; apply State.memWrN_ev; exact hs

theorem mapWord_ev {z : State} (host : Nat) (r : Bytes × State × Bool) (hr : z.Evolves r.2.1) : z.Evolves (mapWord host r).2 := by
  unfold mapWord
  split
  · dsimp only
    apply State.mapStep_ev; apply State.mapFail_ev; exact hr
  · dsimp only
    apply State.mapStep_ev; exact hr

theorem State.mapRead_ev {z : State} (s : State) (host : Nat) (hs : z.Evolves s) : z.Evolves (State.mapRead s host).2 := by
  unfold State.mapRead
  extract_lets +onlyGivenNames m_0
  split
  · split
    · split
      · apply mapWord_ev; apply State.dumpRead_ev; exact hs
      · dsimp only
        apply State.mapFail_ev; exact hs
    · dsimp only
      apply State.mapFail_ev; exact hs
  · split
    · extract_lets +onlyGivenNames t_1
      split
      · dsimp only
        apply State.mapStep_ev; apply State.mapFail_ev; exact hs
      · apply mapWord_ev
        split
        · apply State.hubRead_ev; exact hs
        · apply State.targetRead_ev; apply State.unitMoves_ev; apply State.chargeTarget_ev; exact hs
    · dsimp only
      apply State.mapFail_ev; exact hs

theorem execMapDataRead_ev {z : State} (host : Nat) (s : State) (hs : z.Evolves s) : Later z (execMapDataRead host s) := by
  unfold execMapDataRead
  extract_lets +onlyGivenNames m_0
  extract_lets +onlyGivenNames r_1
  have hr_1 : z.Evolves r_1.2 := by
    unfold r_1
    apply State.mapRead_ev; exact hs
  clear_value r_1
  refine Later.occurs ?_ ?_
  · exact hs
  · apply State.emit_ev; exact hr_1

theorem State.mapWrite_ev {z : State} (s : State) (host : Nat) (data : Word) (hs : z.Evolves s) : z.Evolves (State.mapWrite s host data) := by
  unfold State.mapWrite
  extract_lets +onlyGivenNames m_0
  split
  · extract_lets +onlyGivenNames t_1
    extract_lets +onlyGivenNames b_2
    split
    · apply State.mapStep_ev; apply State.hubWrite_ev; exact hs
    · split
      · apply State.mapStep_ev; apply State.mapFail_ev; exact hs
      · apply State.mapStep_ev; apply State.targetWrite_ev; apply State.unitMoves_ev; apply State.chargeTarget_ev; exact hs
  · apply State.mapFail_ev; exact hs

theorem execMapDataWrite_ev {z : State} (host : Nat) (data : Word) (s : State) (hs : z.Evolves s) : Later z (execMapDataWrite host data s) := by
  unfold execMapDataWrite
  extract_lets +onlyGivenNames m_0
  refine Later.occurs ?_ ?_
  · exact hs
  · apply State.mapWrite_ev; exact hs

theorem State.resetPort_ev {z : State} (s : State) (h : Nat) (hs : z.Evolves s) : z.Evolves (State.resetPort s h) := by
  unfold State.resetPort
  refine State.Evolves.mk_any ?_ ?_ ?_ ?_ ?_ ?_ ?_ ?_ ?_ ?_ ?_ ?_
  · exact hs
  · exact id
  · exact id
  · exact fun e => rising_filter e _
  · exact Nat.le_refl _
  · rfl
  · exact Nat.le_refl _
  · exact Nat.le_refl _
  · exact Nat.le_refl _
  · rfl
  · exact Nat.le_refl _
  · exact Nat.le_refl _

theorem State.setPclk_ev {z : State} (s : State) (h : Nat) (on : Bool) (hs : z.Evolves s) : z.Evolves (State.setPclk s h on) := by
  unfold State.setPclk
  apply State.fs_ev; exact hs

theorem State.setHostUp_ev {z : State} (s : State) (h : Nat) (up : Bool) (hs : z.Evolves s) : z.Evolves (State.setHostUp s h up) := by
  unfold State.setHostUp
  extract_lets +onlyGivenNames w0
  have hw0 : z.Evolves w0 := by
    unfold w0
    apply State.fs_ev; exact hs
  clear_value w0
  refine State.Evolves.mk_same ?_ rfl rfl rfl rfl
  exact hw0

theorem State.holderReset_ev {z : State} (s : State) (h : Nat) (hs : z.Evolves s) : z.Evolves (State.holderReset s h) := by
  unfold State.holderReset
  split
  · apply State.imgAbandon_ev; exact hs
  · exact hs

theorem execPerstAccepted_ev {z : State} (host : Nat) (s : State) (hs : z.Evolves s) : Later z (execPerstAccepted host s) := by
  unfold execPerstAccepted
  refine Later.occurs ?_ ?_
  · exact hs
  · extract_lets +onlyGivenNames t_0
    have ht_0 : z.Evolves t_0 := by
      unfold t_0
      apply State.setPclk_ev; apply State.setHostUp_ev; apply State.resetPort_ev; apply State.holderReset_ev; exact hs
    clear_value t_0
    refine State.Evolves.mk_same ?_ rfl rfl rfl rfl
    exact ht_0

theorem execPerstRelease_ev {z : State} (host lowNs : Nat) (s : State) (hs : z.Evolves s) : Later z (execPerstRelease host lowNs s) := by
  unfold execPerstRelease
  refine Later.occurs ?_ ?_
  · exact hs
  · split
    · refine State.Evolves.mk_same ?_ rfl rfl rfl rfl
      exact hs
    · split
      · apply State.count_ev; exact hs
      · exact hs

theorem execFunctionLevelReset_ev {z : State} (host : Nat) (s : State) (hs : z.Evolves s) : Later z (execFunctionLevelReset host s) := by
  unfold execFunctionLevelReset
  refine Later.occurs ?_ ?_
  · exact hs
  · apply State.resetPort_ev; apply State.holderReset_ev; exact hs

theorem execD3coldEntry_ev {z : State} (host : Nat) (s : State) (hs : z.Evolves s) : Later z (execD3coldEntry host s) := by
  unfold execD3coldEntry
  refine Later.occurs ?_ ?_
  · exact hs
  · extract_lets +onlyGivenNames t_0
    have ht_0 : z.Evolves t_0 := by
      unfold t_0
      apply State.setPclk_ev; apply State.setHostUp_ev; exact hs
    clear_value t_0
    refine State.Evolves.mk_same ?_ rfl rfl rfl rfl
    exact ht_0

theorem execD3coldExit_ev {z : State} (host : Nat) (s : State) (hs : z.Evolves s) : Later z (execD3coldExit host s) := by
  unfold execD3coldExit
  refine Later.occurs ?_ ?_
  · exact hs
  · extract_lets +onlyGivenNames t_0
    have ht_0 : z.Evolves t_0 := by
      unfold t_0
      apply State.resetPort_ev; apply State.holderReset_ev; exact hs
    clear_value t_0
    refine State.Evolves.mk_same ?_ rfl rfl rfl rfl
    exact ht_0

theorem execHostLinkDown_ev {z : State} (host : Nat) (_lostReads : List (Nat × Nat)) (s : State) (hs : z.Evolves s) : Later z (execHostLinkDown host _lostReads s) := by
  unfold execHostLinkDown
  refine Later.occurs ?_ ?_
  · exact hs
  · apply State.setHostUp_ev; exact hs

theorem execHostLinkUp_ev {z : State} (host : Nat) (s : State) (hs : z.Evolves s) : Later z (execHostLinkUp host s) := by
  unfold execHostLinkUp
  refine Later.occurs ?_ ?_
  · exact hs
  · apply State.setPclk_ev; apply State.setHostUp_ev; exact hs

theorem State.haunoStep_ev {z : State} (s : State) (b : Nat) (hs : z.Evolves s) : z.Evolves (State.haunoStep s b) := by
  unfold State.haunoStep
  apply State.eachHauno_ev
  · exact hs
  · intro v0 v1 v2
    apply State.haunoEvent_ev; apply State.fs_ev; with_reducible assumption

theorem State.restoreRec_ev {z : State} (s : State) (r : SchedRec) (hs : z.Evolves s) : z.Evolves (State.restoreRec s r) := by
  unfold State.restoreRec
  extract_lets w1 w2 w3 w4 t
  have ht : z.Evolves t := hs.mk_any id id (fun e => rising_foldl_tset (rising_filter e _) _) (Nat.le_refl _) List.prefix_rfl (Nat.le_refl _) (Nat.le_refl _) (Nat.le_refl _) rfl
    (Nat.le_refl _) (Nat.le_refl _)
  refine ht.foldl fun u x hu => ?_
  split
  · exact State.setCtx_ev _ _ _ hu
  · exact hu

theorem State.emptyHostRings_ev {z : State} (s : State) (hs : z.Evolves s) : z.Evolves (State.emptyHostRings s) := by
  unfold State.emptyHostRings
  refine State.Evolves.foldl ?_ ?_
  · exact hs
  · intro v0 v1 v2
    split
    · split
      · extract_lets +onlyGivenNames x_3
        extract_lets +onlyGivenNames w4
        have hw4 : z.Evolves w4 := by
          unfold w4
          apply State.fs_ev; with_reducible assumption
        clear_value w4
        refine State.Evolves.mk_same ?_ rfl rfl rfl rfl
        exact hw4
      · with_reducible assumption
    · with_reducible assumption

theorem State.replayStops_ev {z : State} (s : State) (hs : z.Evolves s) : z.Evolves (State.replayStops s) := by
  unfold State.replayStops
  extract_lets +onlyGivenNames t_0
  have ht_0 : z.Evolves t_0 := by
    unfold t_0
    refine State.Evolves.foldl ?_ ?_
    · exact hs
    · intro v1 v2 v3
      split
      · apply State.stopCtx_ev; with_reducible assumption
      · with_reducible assumption
  clear_value t_0
  apply State.log_ev; apply State.fs_ev
  refine State.Evolves.mk_same ?_ rfl rfl rfl rfl
  exact ht_0

theorem State.replayBank_ev {z : State} (s : State) (hs : z.Evolves s) : z.Evolves (State.replayBank s) := by
  unfold State.replayBank
  split
  · split
    · split
      · apply State.setBank_ev; exact hs
      · exact hs
    · exact hs
  · exact hs

theorem State.replayMarks_ev {z : State} (y0 : Nat) (y1 : State) (hy1 : z.Evolves y1) : z.Evolves (State.replayMarks y0 y1) := by
  induction y0 generalizing y1 with
  | zero => exact hy1
  | succ n ih =>
    unfold State.replayMarks
    split
    · split
      · exact ih _ (hy1.mk_same rfl rfl rfl rfl)
      · split
        · extract_lets w1 w2 t u map
          have hu : z.Evolves u := State.applyActive_ev _ (State.replayBank_ev _ (hy1.mk_same rfl rfl rfl rfl))
          split
          · exact ih _ hu
          · exact State.replayStops_ev _ hu
        · exact hy1
    · exact hy1

theorem State.replayFrom_ev {z : State} (s : State) (n : Nat) (r : SchedRec) (j : List JEntry) (hs : z.Evolves s) : z.Evolves (State.replayFrom s n r j) := by
  unfold State.replayFrom
  extract_lets +onlyGivenNames t_0
  have ht_0 : z.Evolves t_0 := by
    unfold t_0
    apply State.emptyHostRings_ev; apply State.restoreRec_ev; exact hs
  clear_value t_0
  extract_lets +onlyGivenNames u_1
  extract_lets +onlyGivenNames u_2
  extract_lets +onlyGivenNames u_3
  have hu_3 : z.Evolves u_3 := by
    unfold u_3
    refine State.Evolves.mk_same ?_ rfl rfl rfl rfl
    exact ht_0
  clear_value u_3
  apply State.replayMarks_ev; apply State.cleResume_ev; apply State.fs_ev; exact hu_3

theorem State.replayBegin_ev {z : State} (s : State) (hs : z.Evolves s) : z.Evolves (State.replayBegin s) := by
  unfold State.replayBegin
  split
  · apply State.replayFrom_ev; apply State.fs_ev; exact hs
  · exact hs

theorem State.unstage_ev {z : State} (s : State) (hs : z.Evolves s) : z.Evolves (State.unstage s) := by
  unfold State.unstage
  refine State.Evolves.foldl ?_ ?_
  · exact hs
  · intro v0 v1 v2
    refine State.Evolves.foldl ?_ ?_
    · with_reducible assumption
    · intro v3 v4 v5
      extract_lets +onlyGivenNames b_6
      have hb_6 : z.Evolves b_6.2.1 := by
        unfold b_6
        apply State.unitRead_ev; with_reducible assumption
      clear_value b_6
      extract_lets +onlyGivenNames v_7
      have hv_7 : z.Evolves v_7 := by
        unfold v_7
        apply State.unitWrite_ev; exact hb_6
      clear_value v_7
      split
      · apply State.take_ev; exact hv_7
      · exact hv_7

theorem State.recoverGo_ev {z : State} (s : State) (x : Recover) (hs : z.Evolves s) : z.Evolves (State.recoverGo s x) := by
  unfold State.recoverGo
  split
  · apply State.recoverNone_ev; exact hs
  · extract_lets +onlyGivenNames t_0
    have ht_0 : z.Evolves t_0 := by
      unfold t_0
      apply State.unstage_ev; exact hs
    clear_value t_0
    extract_lets +onlyGivenNames k_1
    extract_lets +onlyGivenNames k_2
    apply State.replayFrom_ev
    refine State.Evolves.mk_same ?_ rfl rfl rfl rfl
    exact ht_0

theorem State.startAct_ev {z : State} (s : State) (a : Nat) (hs : z.Evolves s) : z.Evolves (State.startAct s a) := by
  unfold State.startAct
  split
  · exact hs
  · refine State.Evolves.foldl ?_ ?_
    · apply State.setAct_ev; exact hs
    · intro v0 v1 v2
      apply State.startCtx_ev; with_reducible assumption

theorem State.takeStarts_ev {z : State} (s : State) (hs : z.Evolves s) : z.Evolves (State.takeStarts s) := by
  unfold State.takeStarts
  extract_lets +onlyGivenNames due_0
  split
  · split
    · exact hs
    · extract_lets +onlyGivenNames t_1
      extract_lets +onlyGivenNames t_2
      have ht_2 : z.Evolves t_2 := by
        unfold t_2
        refine State.Evolves.mk_same ?_ rfl rfl rfl rfl
        exact hs
      clear_value t_2
      extract_lets +onlyGivenNames u_3
      have hu_3 : z.Evolves u_3 := by
        unfold u_3
        split
        · apply State.setState_ev; exact ht_2
        · exact ht_2
      clear_value u_3
      split
      · apply State.replayBegin_ev; exact hu_3
      · split
        · apply State.recoverGo_ev; exact hu_3
        · refine State.Evolves.foldl ?_ ?_
          · exact hu_3
          · intro v4 v5 v6
            apply State.startAct_ev; with_reducible assumption
  · split
    · exact hs
    · extract_lets +onlyGivenNames t_7
      extract_lets +onlyGivenNames t_8
      have ht_8 : z.Evolves t_8 := by
        unfold t_8
        refine State.Evolves.mk_same ?_ rfl rfl rfl rfl
        exact hs
      clear_value t_8
      extract_lets +onlyGivenNames u_9
      have hu_9 : z.Evolves u_9 := by
        unfold u_9
        split
        · apply State.setState_ev; exact ht_8
        · exact ht_8
      clear_value u_9
      split
      · apply State.replayBegin_ev; exact hu_9
      · split
        · apply State.recoverGo_ev; exact hu_9
        · refine State.Evolves.foldl ?_ ?_
          · exact hu_9
          · intro v10 v11 v12
            apply State.startAct_ev; with_reducible assumption

theorem State.leaseCheck_ev {z : State} (s : State) (hs : z.Evolves s) : z.Evolves (State.leaseCheck s) := by
  unfold State.leaseCheck
  split
  · apply State.cleHold_ev; apply State.msixBoth_ev; apply State.log_ev; apply State.setState_ev; exact hs
  · split
    · apply State.cleResume_ev; apply State.msixBoth_ev; apply State.setState_ev; exact hs
    · exact hs

theorem State.stageTensor_ev {z : State} (s : State) (r : Rec) (hs : z.Evolves s) : z.Evolves (State.stageTensor s r) := by
  unfold State.stageTensor
  refine State.Evolves.foldl ?_ ?_
  · exact hs
  · intro v0 v1 v2
    extract_lets +onlyGivenNames b_3
    have hb_3 : z.Evolves b_3.2.1 := by
      unfold b_3
      apply State.unitRead_ev; with_reducible assumption
    clear_value b_3
    extract_lets +onlyGivenNames u_4
    have hu_4 : z.Evolves u_4 := by
      unfold u_4
      apply State.pmc_ev; apply State.unitWrite_ev; exact hb_3
    clear_value u_4
    split
    · apply State.charge_ev; exact hu_4
    · split
      · apply State.charge_ev; exact hu_4
      · exact hu_4

theorem State.takeSnapshot_ev {z : State} (s : State) (n : Nat) (hs : z.Evolves s) : z.Evolves (State.takeSnapshot s n) := by
  unfold State.takeSnapshot
  extract_lets +onlyGivenNames r_0
  extract_lets +onlyGivenNames t_1
  have ht_1 : z.Evolves t_1 := by
    unfold t_1
    apply State.journal_ev
    refine State.Evolves.foldl ?_ ?_
    · exact hs
    · intro v2 v3 v4
      apply State.stageTensor_ev; with_reducible assumption
  clear_value t_1
  extract_lets +onlyGivenNames all_5
  extract_lets +onlyGivenNames u_6
  extract_lets +onlyGivenNames u_7
  extract_lets +onlyGivenNames u_8
  have hu_8 : z.Evolves u_8 := by
    unfold u_8
    refine State.Evolves.mk_same ?_ rfl rfl rfl rfl
    exact ht_1
  clear_value u_8
  extract_lets +onlyGivenNames v_9
  have hv_9 : z.Evolves v_9 := by
    unfold v_9
    apply State.fs_ev; apply State.count_ev; apply State.fs_ev; exact hu_8
  clear_value v_9
  split
  · apply State.streamSnapshot_ev; exact hv_9
  · apply State.sealed_ev; exact hv_9

theorem State.abandonSnapshot_ev {z : State} (s : State) (n : Nat) (hs : z.Evolves s) : z.Evolves (State.abandonSnapshot s n) := by
  unfold State.abandonSnapshot
  apply State.emit_ev; apply State.raise_ev; apply State.count_ev; exact hs

theorem State.resume_ev {z : State} (s : State) (p : Pause) (len : Nat) (hs : z.Evolves s) : z.Evolves (State.resume s p len) := by
  unfold State.resume
  extract_lets +onlyGivenNames t_0
  have ht_0 : z.Evolves t_0 := by
    unfold t_0
    refine State.Evolves.foldl ?_ ?_
    · exact hs
    · intro v1 v2 v3
      apply State.fs_ev; apply State.fs_ev; with_reducible assumption
  clear_value t_0
  extract_lets +onlyGivenNames t_4
  have ht_4 : z.Evolves t_4 := by
    unfold t_4
    refine State.Evolves.foldl ?_ ?_
    · exact ht_0
    · intro v5 v6 v7
      split
      · apply State.setCtx_ev; with_reducible assumption
      · with_reducible assumption
  clear_value t_4
  extract_lets +onlyGivenNames t_8
  have ht_8 : z.Evolves t_8 := by
    unfold t_8
    split
    · apply State.log_ev; exact ht_4
    · exact ht_4
  clear_value t_8
  extract_lets +onlyGivenNames t_9
  have ht_9 : z.Evolves t_9 := by
    unfold t_9
    apply State.fs_ev; exact ht_8
  clear_value t_9
  extract_lets +onlyGivenNames t_10
  have ht_10 : z.Evolves t_10 := by
    unfold t_10
    refine State.Evolves.mk_same ?_ rfl rfl rfl rfl
    exact ht_9
  clear_value t_10
  extract_lets +onlyGivenNames t_11
  have ht_11 : z.Evolves t_11 := by
    unfold t_11
    split
    · apply State.setState_ev; exact ht_10
    · exact ht_10
  clear_value t_11
  extract_lets +onlyGivenNames t_12
  have ht_12 : z.Evolves t_12 := by
    unfold t_12
    apply State.haunoPause_ev
    split
    · apply State.cleResume_ev; exact ht_11
    · exact ht_11
  clear_value t_12
  apply State.keepPump_ev; apply State.streamNotify_ev
  · exact hs
  · exact ht_12

theorem State.pauseEnd_ev {z : State} (s : State) (p : Pause) (hs : z.Evolves s) : z.Evolves (State.pauseEnd s p) := by
  unfold State.pauseEnd
  extract_lets +onlyGivenNames lost_0
  extract_lets +onlyGivenNames t_1
  have ht_1 : z.Evolves t_1 := by
    unfold t_1
    split
    · exact hs
    · split
      · apply State.abandonSnapshot_ev; exact hs
      · apply State.takeSnapshot_ev; exact hs
  clear_value t_1
  extract_lets +onlyGivenNames ready_2
  extract_lets +onlyGivenNames u_3
  have hu_3 : z.Evolves u_3 := by
    unfold u_3
    split
    · apply State.applyActive_ev; exact ht_1
    · exact ht_1
  clear_value u_3
  extract_lets +onlyGivenNames v_4
  extract_lets +onlyGivenNames v_5
  have hv_5 : z.Evolves v_5 := by
    unfold v_5
    split
    · split
      · apply State.cmdEnds_ev
        refine State.Evolves.mk_same ?_ rfl rfl rfl rfl
        exact hu_3
      · exact hu_3
    · exact hu_3
  clear_value v_5
  apply State.resume_ev; exact hv_5

theorem State.maintStart_ev {z : State} (s : State) (p : Pause) (hs : z.Evolves s) : z.Evolves (State.maintStart s p) := by
  unfold State.maintStart
  extract_lets +onlyGivenNames t_0
  have ht_0 : z.Evolves t_0 := by
    unfold t_0
    apply State.retireSwitch_ev; apply State.settleRestores_ev; apply State.startRetrains_ev; exact hs
  clear_value t_0
  extract_lets +onlyGivenNames u_1
  have hu_1 : z.Evolves u_1 := by
    unfold u_1
    refine State.Evolves.foldl ?_ ?_
    · exact ht_0
    · intro v2 v3 v4
      split
      · apply State.fs_ev; with_reducible assumption
      · with_reducible assumption
  clear_value u_1
  refine State.Evolves.mk_same ?_ rfl rfl rfl rfl
  exact hu_1

theorem State.momentA_ev {z : State} (s : State) (p : Pause) (hs : z.Evolves s) : z.Evolves (State.momentA s p) := by
  unfold State.momentA
  extract_lets +onlyGivenNames t_0
  have ht_0 : z.Evolves t_0 := by
    unfold t_0
    refine State.Evolves.foldl ?_ ?_
    · exact hs
    · intro v1 v2 v3
      apply State.fs_ev; with_reducible assumption
  clear_value t_0
  extract_lets +onlyGivenNames q_4
  extract_lets +onlyGivenNames t_5
  have ht_5 : z.Evolves t_5 := by
    unfold t_5
    refine State.Evolves.mk_same ?_ rfl rfl rfl rfl
    exact ht_0
  clear_value t_5
  extract_lets +onlyGivenNames t_6
  have ht_6 : z.Evolves t_6 := by
    unfold t_6
    split
    · apply State.maintStart_ev; exact ht_5
    · exact ht_5
  clear_value t_6
  split
  · apply State.pauseEnd_ev; exact ht_6
  · split
    · apply State.pauseEnd_ev; exact ht_6
    · exact ht_6

theorem execCoreParked_ev {z : State} (core : Nat) (s : State) (hs : z.Evolves s) : Later z (execCoreParked core s) := by
  unfold execCoreParked
  split
  · refine Later.occurs ?_ ?_
    · exact hs
    · split
      · apply State.momentA_ev; exact hs
      · apply State.fs_ev; exact hs
  · refine Later.next ?_
    exact hs

theorem execSnapshotStagingDone_ev {z : State} (s : State) (hs : z.Evolves s) : Later z (execSnapshotStagingDone s) := by
  unfold execSnapshotStagingDone
  split
  · refine Later.occurs ?_ ?_
    · exact hs
    · apply State.pauseEnd_ev; exact hs
  · refine Later.next ?_
    exact hs

theorem State.skipSnapshot_ev {z : State} (s : State) (hs : z.Evolves s) : z.Evolves (State.skipSnapshot s) := by
  unfold State.skipSnapshot
  apply State.count_ev
  split
  · apply State.cmdEnds_ev
    refine State.Evolves.mk_same ?_ rfl rfl rfl rfl
    exact hs
  · exact hs

theorem State.boundary_ev {z : State} (s : State) (b : Nat) (hs : z.Evolves s) : z.Evolves (State.boundary s b) := by
  unfold State.boundary
  extract_lets +onlyGivenNames started_0
  extract_lets +onlyGivenNames t_1
  have ht_1 : z.Evolves t_1 := by
    unfold t_1
    apply State.journal_ev; exact hs
  clear_value t_1
  extract_lets +onlyGivenNames t_2
  have ht_2 : z.Evolves t_2 := by
    unfold t_2
    apply State.haunoStep_ev
    refine State.Evolves.mk_same ?_ rfl rfl rfl rfl
    exact ht_1
  clear_value t_2
  extract_lets +onlyGivenNames t_3
  have ht_3 : z.Evolves t_3 := by
    unfold t_3
    apply State.keepPump_ev; apply State.leaseCheck_ev; apply State.takeStarts_ev; apply State.partnerWait_ev; exact ht_2
  clear_value t_3
  extract_lets +onlyGivenNames due_4
  extract_lets +onlyGivenNames skip_5
  extract_lets +onlyGivenNames t_6
  have ht_6 : z.Evolves t_6 := by
    unfold t_6
    split
    · apply State.skipSnapshot_ev; exact ht_3
    · exact ht_3
  clear_value t_6
  extract_lets +onlyGivenNames maint_7
  extract_lets +onlyGivenNames p_8
  split
  · apply State.askPause_ev; exact ht_6
  · apply State.passContexts_ev; exact ht_6

theorem execStepBoundary_ev {z : State} (s : State) (hs : z.Evolves s) : Later z (execStepBoundary s) := by
  unfold execStepBoundary
  refine Later.occurs ?_ ?_
  · exact hs
  · apply State.boundary_ev; apply State.runToRack_ev; exact hs

theorem State.replayEnd_ev {z : State} (s : State) (hs : z.Evolves s) : z.Evolves (State.replayEnd s) := by
  unfold State.replayEnd
  extract_lets +onlyGivenNames t_0
  have ht_0 : z.Evolves t_0 := by
    unfold t_0
    apply State.fs_ev; exact hs
  clear_value t_0
  extract_lets +onlyGivenNames t_1
  have ht_1 : z.Evolves t_1 := by
    unfold t_1
    split
    · apply State.parityResync_ev; exact ht_0
    · exact ht_0
  clear_value t_1
  refine State.Evolves.mk_same ?_ rfl rfl rfl rfl
  exact ht_1

theorem State.replayBoundary_ev {z : State} (s : State) (hs : z.Evolves s) : z.Evolves (State.replayBoundary s) := by
  unfold State.replayBoundary
  split
  · extract_lets +onlyGivenNames t_0
    extract_lets +onlyGivenNames t_1
    have ht_1 : z.Evolves t_1 := by
      unfold t_1
      refine State.Evolves.mk_same ?_ rfl rfl rfl rfl
      exact hs
    clear_value t_1
    extract_lets +onlyGivenNames u_2
    have hu_2 : z.Evolves u_2 := by
      unfold u_2
      apply State.journal_ev; exact ht_1
    clear_value u_2
    extract_lets +onlyGivenNames u_3
    have hu_3 : z.Evolves u_3 := by
      unfold u_3
      split
      · apply State.skipSnapshot_ev; exact hu_2
      · exact hu_2
    clear_value u_3
    extract_lets +onlyGivenNames u_4
    have hu_4 : z.Evolves u_4 := by
      unfold u_4
      apply State.haunoStep_ev
      refine State.Evolves.mk_same ?_ rfl rfl rfl rfl
      exact hu_3
    clear_value u_4
    extract_lets +onlyGivenNames v_5
    have hv_5 : z.Evolves v_5 := by
      unfold v_5
      apply State.replayMarks_ev; exact hu_4
    clear_value v_5
    extract_lets +onlyGivenNames w_6
    have hw_6 : z.Evolves w_6 := by
      unfold w_6
      apply State.passContexts_ev; exact hv_5
    clear_value w_6
    split
    · apply State.replayEnd_ev; exact hw_6
    · exact hw_6
  · apply State.replayEnd_ev; exact hs

theorem execReplayBoundary_ev {z : State} (s : State) (hs : z.Evolves s) : Later z (execReplayBoundary s) := by
  unfold execReplayBoundary
  split
  · refine Later.occurs ?_ ?_
    · exact hs
    · apply State.replayBoundary_ev; exact hs
  · refine Later.next ?_
    apply State.replayBoundary_ev; exact hs
  · refine Later.next ?_
    exact hs

end Machine
end Sys2Proof
end

