-- ==== Sys2Proof/Laws/EvolveMgmt.lean ====
section
/-!
SUPPORT. The operations of management, firmware, boot, dumps and the keeping of state lead to later states (`State.Evolves`): one lemma for each.
-/
namespace Sys2Proof
namespace Machine
set_option Elab.async false

theorem State.setSensor_ev {z : State} (s : State) (i : Nat) (x : Sensor) (hs : z.Evolves s) : z.Evolves (State.setSensor s i x) := by
  unfold State.setSensor
  refine State.Evolves.mk_same ?_ rfl rfl rfl rfl
  exact hs

theorem State.spanOthers_ev {z : State} (s : State) (i : Nat) (raws : List (Nat × Int)) (hs : z.Evolves s) : z.Evolves (State.spanOthers s i raws) := by
  unfold State.spanOthers
  extract_lets +onlyGivenNames x_0
  extract_lets +onlyGivenNames sp_1
  apply State.setSensor_ev; exact hs

theorem State.fatalError_ev {z : State} (s : State) (cause : Nat) (hs : z.Evolves s) : z.Evolves (State.fatalError s cause) := by
  unfold State.fatalError
  extract_lets +onlyGivenNames seq_0
  extract_lets +onlyGivenNames t_1
  have ht_1 : z.Evolves t_1 := by
    unfold t_1
    apply State.log_ev; exact hs
  clear_value t_1
  split
  · refine State.Evolves.mk_same ?_ rfl rfl rfl rfl
    exact ht_1
  · split
    · exact ht_1
    · extract_lets +onlyGivenNames u_2
      have hu_2 : z.Evolves u_2 := by
        unfold u_2
        apply State.emit_ev; apply State.setState_ev; exact ht_1
      clear_value u_2
      extract_lets +onlyGivenNames u_3
      extract_lets +onlyGivenNames u_4
      extract_lets +onlyGivenNames u_5
      have hu_5 : z.Evolves u_5 := by
        unfold u_5
        refine State.Evolves.mk_same ?_ rfl rfl rfl rfl
        exact hu_2
      clear_value u_5
      extract_lets +onlyGivenNames v_6
      have hv_6 : z.Evolves v_6 := by
        unfold v_6
        refine State.Evolves.foldl ?_ ?_
        · exact hu_5
        · intro v7 v8 v9
          apply State.haltCtx_ev; with_reducible assumption
      clear_value v_6
      refine State.Evolves.foldl ?_ ?_
      · exact hv_6
      · intro v10 v11 v12
        split
        · apply State.spDown_ev; with_reducible assumption
        · with_reducible assumption

theorem State.sensorFails_ev {z : State} (s : State) (i cause : Nat) (hs : z.Evolves s) : z.Evolves (State.sensorFails s i cause) := by
  unfold State.sensorFails
  extract_lets +onlyGivenNames t_0
  extract_lets +onlyGivenNames t_1
  have ht_1 : z.Evolves t_1 := by
    unfold t_1
    apply State.setSensor_ev; exact hs
  clear_value t_1
  extract_lets +onlyGivenNames t_2
  have ht_2 : z.Evolves t_2 := by
    unfold t_2
    apply State.platformEvent_ev; apply State.log_ev; apply State.raise_ev; exact ht_1
  clear_value t_2
  split
  · extract_lets +onlyGivenNames k_3
    extract_lets +onlyGivenNames r_4
    apply State.fs_ev; exact ht_2
  · exact ht_2

theorem State.dieOff_ev {z : State} (s : State) (d : Nat) (hs : z.Evolves s) : z.Evolves (State.dieOff s d) := by
  unfold State.dieOff
  apply State.fs_ev; apply State.setAclk_ev; apply State.fs_ev; exact hs

theorem State.afterFailures_ev {z : State} (s : State) (hs : z.Evolves s) : z.Evolves (State.afterFailures s) := by
  unfold State.afterFailures
  extract_lets +onlyGivenNames dead_0
  extract_lets +onlyGivenNames t_1
  have ht_1 : z.Evolves t_1 := by
    unfold t_1
    refine State.Evolves.foldl ?_ ?_
    · exact hs
    · intro v2 v3 v4
      apply State.dieOff_ev
      split
      · apply State.fenceDie_ev; with_reducible assumption
      · with_reducible assumption
  clear_value t_1
  split
  · apply State.fatalError_ev; exact ht_1
  · exact ht_1

theorem State.hotEvent_ev {z : State} (s : State) (source i level : Nat) (hs : z.Evolves s) : z.Evolves (State.hotEvent s source i level) := by
  unfold State.hotEvent
  apply State.msixBoth_ev; apply State.log_ev; exact hs

theorem State.cooling_ev {z : State} (s : State) (key : Nat) (below : Bool) (hs : z.Evolves s) : z.Evolves (State.cooling s key below) := by
  unfold State.cooling
  refine State.Evolves.mk_same ?_ rfl rfl rfl rfl
  exact hs

theorem State.showScales_ev {z : State} (s : State) (hs : z.Evolves s) : z.Evolves (State.showScales s) := by
  unfold State.showScales
  refine State.Evolves.foldl ?_ ?_
  · exact hs
  · intro v0 v1 v2
    apply State.fs_ev; with_reducible assumption

theorem State.setLevel_ev {z : State} (s : State) (d n : Nat) (hs : z.Evolves s) : z.Evolves (State.setLevel s d n) := by
  unfold State.setLevel
  extract_lets +onlyGivenNames t_0
  extract_lets +onlyGivenNames t_1
  have ht_1 : z.Evolves t_1 := by
    unfold t_1
    refine State.Evolves.mk_same ?_ rfl rfl rfl rfl
    exact hs
  clear_value t_1
  apply State.hotEvent_ev; apply State.showHot_ev; apply State.showScales_ev; exact ht_1

theorem State.dieHot_ev {z : State} (s : State) (d : Nat) (hs : z.Evolves s) : z.Evolves (State.dieHot s d) := by
  unfold State.dieHot
  extract_lets +onlyGivenNames lv_0
  extract_lets +onlyGivenNames w_1
  split
  · apply State.cooling_ev; apply State.setLevel_ev; exact hs
  · split
    · exact hs
    · extract_lets +onlyGivenNames back_2
      apply State.cooling_ev; exact hs

theorem State.layerRefresh_ev {z : State} (s : State) (i : Nat) (hs : z.Evolves s) : z.Evolves (State.layerRefresh s i) := by
  unfold State.layerRefresh
  extract_lets +onlyGivenNames k_0
  extract_lets +onlyGivenNames core_1
  extract_lets +onlyGivenNames r_2
  extract_lets +onlyGivenNames w_3
  split
  · apply State.cooling_ev; apply State.msixBoth_ev; apply State.setRefresh_ev; exact hs
  · split
    · exact hs
    · apply State.cooling_ev; exact hs

theorem State.stackHot_ev {z : State} (s : State) (k : Nat) (hs : z.Evolves s) : z.Evolves (State.stackHot s k) := by
  unfold State.stackHot
  split
  · exact hs
  · extract_lets +onlyGivenNames a_0
    extract_lets +onlyGivenNames reg_1
    extract_lets +onlyGivenNames t_2
    have ht_2 : z.Evolves t_2 := by
      unfold t_2
      split
      · apply State.cooling_ev; exact hs
      · split
        · apply State.msixBoth_ev; apply State.fs_ev; exact hs
        · exact hs
    clear_value t_2
    extract_lets +onlyGivenNames hot_3
    extract_lets +onlyGivenNames lim_4
    split
    · apply State.cooling_ev; exact ht_2
    · split
      · apply State.hotEvent_ev; apply State.fs_ev; apply State.fs_ev; exact ht_2
      · exact ht_2

theorem State.opticHot_ev {z : State} (s : State) (p : Nat) (hs : z.Evolves s) : z.Evolves (State.opticHot s p) := by
  unfold State.opticHot
  extract_lets +onlyGivenNames a_0
  extract_lets +onlyGivenNames lim_1
  split
  · apply State.cooling_ev; exact hs
  · split
    · apply State.lanesFail_ev; apply State.hotEvent_ev; apply State.fs_ev; exact hs
    · exact hs

theorem State.hubBoardHot_ev {z : State} (s : State) (hs : z.Evolves s) : z.Evolves (State.hubBoardHot s) := by
  unfold State.hubBoardHot
  extract_lets +onlyGivenNames lim_0
  extract_lets +onlyGivenNames any_1
  extract_lets +onlyGivenNames hub_2
  extract_lets +onlyGivenNames t_3
  have ht_3 : z.Evolves t_3 := by
    unfold t_3
    split
    · apply State.cooling_ev; exact hs
    · split
      · apply State.hotEvent_ev; apply State.fs_ev; exact hs
      · exact hs
  clear_value t_3
  extract_lets +onlyGivenNames b_4
  split
  · exact ht_3
  · apply State.hotEvent_ev; apply State.fs_ev; exact ht_3

theorem State.hotActions_ev {z : State} (s : State) (hs : z.Evolves s) : z.Evolves (State.hotActions s) := by
  unfold State.hotActions
  extract_lets +onlyGivenNames t_0
  have ht_0 : z.Evolves t_0 := by
    unfold t_0
    refine State.Evolves.foldl ?_ ?_
    · exact hs
    · intro v1 v2 v3
      apply State.dieHot_ev; with_reducible assumption
  clear_value t_0
  extract_lets +onlyGivenNames t_4
  have ht_4 : z.Evolves t_4 := by
    unfold t_4
    refine State.Evolves.foldl ?_ ?_
    · exact ht_0
    · intro v5 v6 v7
      apply State.layerRefresh_ev; with_reducible assumption
  clear_value t_4
  extract_lets +onlyGivenNames t_8
  have ht_8 : z.Evolves t_8 := by
    unfold t_8
    refine State.Evolves.foldl ?_ ?_
    · exact ht_4
    · intro v9 v10 v11
      apply State.stackHot_ev; with_reducible assumption
  clear_value t_8
  extract_lets +onlyGivenNames t_12
  have ht_12 : z.Evolves t_12 := by
    unfold t_12
    refine State.Evolves.foldl ?_ ?_
    · exact ht_8
    · intro v13 v14 v15
      apply State.opticHot_ev; with_reducible assumption
  clear_value t_12
  apply State.hubBoardHot_ev; exact ht_12

theorem State.hotReturn_ev {z : State} (s : State) (loc : Nat) (hs : z.Evolves s) : z.Evolves (State.hotReturn s loc) := by
  unfold State.hotReturn
  extract_lets +onlyGivenNames t_0
  have ht_0 : z.Evolves t_0 := by
    unfold t_0
    apply State.cooling_ev; exact hs
  clear_value t_0
  split
  · apply State.setLevel_ev; exact ht_0
  · split
    · extract_lets +onlyGivenNames k_1
      extract_lets +onlyGivenNames m_2
      apply State.hotEvent_ev; apply State.fs_ev; apply State.fs_ev; exact ht_0
    · split
      · extract_lets +onlyGivenNames p_3
        extract_lets +onlyGivenNames v_4
        apply State.hotEvent_ev
        extract_lets +onlyGivenNames w5
        have hw5 : z.Evolves w5 := by
          unfold w5
          apply State.fs_ev; exact ht_0
        clear_value w5
        refine State.Evolves.mk_same ?_ rfl rfl rfl rfl
        exact hw5
      · apply State.hotEvent_ev; apply State.fs_ev; exact ht_0

theorem execHotStateReturn_ev {z : State} (loc : Nat) (s : State) (hs : z.Evolves s) : Later z (execHotStateReturn loc s) := by
  unfold execHotStateReturn
  split
  · refine Later.occurs ?_ ?_
    · exact hs
    · apply State.hotReturn_ev; apply State.runTo_ev; exact hs
  · refine Later.next ?_
    exact hs

theorem State.refreshDown_ev {z : State} (s : State) (loc : Nat) (hs : z.Evolves s) : z.Evolves (State.refreshDown s loc) := by
  unfold State.refreshDown
  extract_lets +onlyGivenNames t_0
  have ht_0 : z.Evolves t_0 := by
    unfold t_0
    apply State.cooling_ev; exact hs
  clear_value t_0
  split
  · extract_lets +onlyGivenNames k_1
    extract_lets +onlyGivenNames core_2
    extract_lets +onlyGivenNames r_3
    apply State.msixBoth_ev; apply State.setRefresh_ev; exact ht_0
  · apply State.msixBoth_ev; apply State.fs_ev; exact ht_0

theorem execRefreshStepDown_ev {z : State} (loc : Nat) (s : State) (hs : z.Evolves s) : Later z (execRefreshStepDown loc s) := by
  unfold execRefreshStepDown
  split
  · refine Later.occurs ?_ ?_
    · exact hs
    · apply State.refreshDown_ev; apply State.runTo_ev; exact hs
  · refine Later.next ?_
    exact hs

theorem State.railsOff_ev {z : State} (s : State) (power : Nat) (hs : z.Evolves s) : z.Evolves (State.railsOff s power) := by
  exact hs.start rfl rfl List.Pairwise.nil rfl rfl rfl rfl rfl rfl rfl

theorem State.thermalTrip_ev {z : State} (s : State) (ids : List Nat) (hs : z.Evolves s) : z.Evolves (State.thermalTrip s ids) := by
  unfold State.thermalTrip
  split
  · exact hs
  · extract_lets +onlyGivenNames seq_0
    extract_lets +onlyGivenNames b_1
    extract_lets +onlyGivenNames t_2
    have ht_2 : z.Evolves t_2 := by
      unfold t_2
      apply State.emit_ev; apply State.platformEvent_ev; apply State.log_ev; exact hs
    clear_value t_2
    extract_lets +onlyGivenNames trips_3
    extract_lets +onlyGivenNames u_4
    extract_lets +onlyGivenNames u_5
    extract_lets +onlyGivenNames u_6
    have hu_6 : z.Evolves u_6 := by
      unfold u_6
      refine State.Evolves.mk_same ?_ rfl rfl rfl rfl
      exact ht_2
    clear_value u_6
    split
    · exact hu_6
    · extract_lets +onlyGivenNames v_7
      have hv_7 : z.Evolves v_7 := by
        unfold v_7
        apply State.railsOff_ev; exact hu_6
      clear_value v_7
      refine State.Evolves.mk_same ?_ rfl rfl rfl rfl
      exact hv_7

theorem State.setG_ev {z : State} (s : State) (g : Nat) (hs : z.Evolves s) : z.Evolves (State.setG s g) := by
  unfold State.setG
  apply State.fs_ev; apply State.fs_ev; apply State.fs_ev; exact hs

theorem State.govCheck_ev {z : State} (s : State) (mean : Nat) (hs : z.Evolves s) : z.Evolves (State.govCheck s mean) := by
  unfold State.govCheck
  extract_lets +onlyGivenNames e_0
  extract_lets +onlyGivenNames k_1
  extract_lets +onlyGivenNames g_2
  extract_lets +onlyGivenNames dn_3
  extract_lets +onlyGivenNames t_4
  extract_lets +onlyGivenNames t_5
  have ht_5 : z.Evolves t_5 := by
    unfold t_5
    refine State.Evolves.mk_same ?_ rfl rfl rfl rfl
    exact hs
  clear_value t_5
  apply State.setG_ev; apply State.fs_ev; exact ht_5

theorem execGovernorCheck_ev {z : State} (meanW : Nat) (s : State) (hs : z.Evolves s) : Later z (execGovernorCheck meanW s) := by
  unfold execGovernorCheck
  refine Later.occurs ?_ ?_
  · exact hs
  · apply State.govCheck_ev; apply State.runToRack_ev; exact hs

theorem State.windowEnd_ev {z : State} (s : State) (mean : Nat) (hs : z.Evolves s) : z.Evolves (State.windowEnd s mean) := by
  unfold State.windowEnd
  extract_lets +onlyGivenNames g_0
  extract_lets +onlyGivenNames cap_1
  extract_lets +onlyGivenNames t_2
  have ht_2 : z.Evolves t_2 := by
    unfold t_2
    apply State.fs_ev; exact hs
  clear_value t_2
  extract_lets +onlyGivenNames t_3
  have ht_3 : z.Evolves t_3 := by
    unfold t_3
    split
    · apply State.setG_ev; exact ht_2
    · exact ht_2
  clear_value t_3
  extract_lets +onlyGivenNames bad_4
  extract_lets +onlyGivenNames t_5
  have ht_5 : z.Evolves t_5 := by
    unfold t_5
    split
    · apply State.log_ev; apply State.raise_ev; exact ht_3
    · exact ht_3
  clear_value t_5
  extract_lets +onlyGivenNames t_6
  have ht_6 : z.Evolves t_6 := by
    unfold t_6
    apply State.fs_ev; apply State.fs_ev; exact ht_5
  clear_value t_6
  refine State.Evolves.mk_same ?_ rfl rfl rfl rfl
  exact ht_6

theorem execPowerWindowEnd_ev {z : State} (meanW : Nat) (s : State) (hs : z.Evolves s) : Later z (execPowerWindowEnd meanW s) := by
  unfold execPowerWindowEnd
  extract_lets +onlyGivenNames due_0
  refine Later.occurs ?_ ?_
  · exact hs
  · apply State.windowEnd_ev; apply State.runToRack_ev; exact hs

theorem execPwrCapWrite_ev {z : State} (port cap : Nat) (s : State) (hs : z.Evolves s) : Later z (execPwrCapWrite port cap s) := by
  unfold execPwrCapWrite
  refine Later.occurs ?_ ?_
  · exact hs
  · split
    · apply State.fs_ev; exact hs
    · apply State.raise_ev; exact hs

theorem State.latchAlert_ev {z : State} (s : State) (hs : z.Evolves s) : z.Evolves (State.latchAlert s) := by
  unfold State.latchAlert
  apply State.showScales_ev; apply State.raise_ev; exact hs

theorem State.alertOn_ev {z : State} (s : State) (hs : z.Evolves s) : z.Evolves (State.alertOn s) := by
  unfold State.alertOn
  extract_lets +onlyGivenNames l_0
  extract_lets +onlyGivenNames t_1
  extract_lets +onlyGivenNames t_2
  have ht_2 : z.Evolves t_2 := by
    unfold t_2
    refine State.Evolves.mk_same ?_ rfl rfl rfl rfl
    exact hs
  clear_value t_2
  extract_lets +onlyGivenNames t_3
  have ht_3 : z.Evolves t_3 := by
    unfold t_3
    apply State.count_ev; apply State.fs_ev; apply State.fs_ev; exact ht_2
  clear_value t_3
  split
  · apply State.latchAlert_ev; exact ht_3
  · apply State.showScales_ev; exact ht_3

theorem execAlertAsserted_ev {z : State} (s : State) (hs : z.Evolves s) : Later z (execAlertAsserted s) := by
  unfold execAlertAsserted
  refine Later.occurs ?_ ?_
  · exact hs
  · apply State.alertOn_ev; exact hs

theorem execAlertRemoved_ev {z : State} (s : State) (hs : z.Evolves s) : Later z (execAlertRemoved s) := by
  unfold execAlertRemoved
  refine Later.occurs ?_ ?_
  · exact hs
  · apply State.fs_ev; apply State.fs_ev
    refine State.Evolves.mk_same ?_ rfl rfl rfl rfl
    exact hs

theorem execAlertScaleRelease_ev {z : State} (s : State) (hs : z.Evolves s) : Later z (execAlertScaleRelease s) := by
  unfold execAlertScaleRelease
  split
  · refine Later.next ?_
    extract_lets +onlyGivenNames u_0
    have hu_0 : z.Evolves u_0 := by
      unfold u_0
      apply State.runTo_ev; exact hs
    clear_value u_0
    apply State.showScales_ev
    refine State.Evolves.mk_same ?_ rfl rfl rfl rfl
    exact hu_0
  · refine Later.next ?_
    exact hs

theorem execAlertLatched_ev {z : State} (s : State) (hs : z.Evolves s) : Later z (execAlertLatched s) := by
  unfold execAlertLatched
  split
  · refine Later.next ?_
    apply State.latchAlert_ev; apply State.runTo_ev; exact hs
  · refine Later.next ?_
    exact hs

theorem execAlertRearm_ev {z : State} (port : Nat) (s : State) (hs : z.Evolves s) : Later z (execAlertRearm port s) := by
  unfold execAlertRearm
  refine Later.occurs ?_ ?_
  · exact hs
  · apply State.showScales_ev; apply State.fs_ev
    refine State.Evolves.mk_same ?_ rfl rfl rfl rfl
    exact hs

theorem execMgtClearCounts_ev {z : State} (port : Nat) (s : State) (hs : z.Evolves s) : Later z (execMgtClearCounts port s) := by
  unfold execMgtClearCounts
  refine Later.occurs ?_ ?_
  · exact hs
  · apply State.zeroRegs_ev; exact hs

theorem execPinClearCounts_ev {z : State} (port : Nat) (s : State) (hs : z.Evolves s) : Later z (execPinClearCounts port s) := by
  unfold execPinClearCounts
  refine Later.occurs ?_ ?_
  · exact hs
  · apply State.zeroRegs_ev; exact hs

theorem execMgcWatchdog_ev {z : State} (s : State) (hs : z.Evolves s) : Later z (execMgcWatchdog s) := by
  unfold execMgcWatchdog
  refine Later.occurs ?_ ?_
  · exact hs
  · apply State.fatalError_ev; exact hs

theorem execMgcSramUncorrectable_ev {z : State} (addr : Nat) (s : State) (hs : z.Evolves s) : Later z (execMgcSramUncorrectable addr s) := by
  unfold execMgcSramUncorrectable
  extract_lets +onlyGivenNames shares_0
  refine Later.occurs ?_ ?_
  · exact hs
  · apply State.fatalError_ev; apply State.fsat_ev; exact hs

theorem execInternalParityError_ev {z : State} (_hub : Bool) (s : State) (hs : z.Evolves s) : Later z (execInternalParityError _hub s) := by
  unfold execInternalParityError
  refine Later.occurs ?_ ?_
  · exact hs
  · apply State.fatalError_ev; exact hs

theorem State.slotFails_ev {z : State} (s : State) (i : Nat) (hs : z.Evolves s) : z.Evolves (State.slotFails s i) := by
  unfold State.slotFails
  refine State.Evolves.mk_same ?_ rfl rfl rfl rfl
  exact hs

theorem State.fwOpen_ev {z : State} (s : State) (who len : Nat) (hs : z.Evolves s) : z.Evolves (State.fwOpen s who len).2 := by
  unfold State.fwOpen
  split
  · with_reducible assumption
  · extract_lets +onlyGivenNames t_0
    have ht_0 : z.Evolves t_0 := by
      unfold t_0
      apply State.slotFails_ev; exact hs
    clear_value t_0
    dsimp only
    apply State.fs_ev
    refine State.Evolves.mk_same ?_ rfl rfl rfl rfl
    exact ht_0

theorem State.fwPiece_ev {z : State} (s : State) (who off : Nat) (b : Bytes) (hs : z.Evolves s) : z.Evolves (State.fwPiece s who off b).2 := by
  unfold State.fwPiece
  split
  · split
    · with_reducible assumption
    · split
      · with_reducible assumption
      · dsimp only
        refine State.Evolves.mk_same ?_ rfl rfl rfl rfl
        exact hs
  · with_reducible assumption

theorem State.fwClose_ev {z : State} (s : State) (who : Nat) (hs : z.Evolves s) : z.Evolves (State.fwClose s who).2 := by
  unfold State.fwClose
  split
  · split
    · with_reducible assumption
    · extract_lets +onlyGivenNames b_0
      extract_lets +onlyGivenNames c_1
      extract_lets +onlyGivenNames i_2
      split
      · dsimp only
        apply State.fs_ev; apply State.fs_ev
        refine State.Evolves.mk_same ?_ rfl rfl rfl rfl
        exact hs
      · dsimp only
        apply State.fs_ev
        refine State.Evolves.mk_same ?_ rfl rfl rfl rfl
        exact hs
  · with_reducible assumption

theorem State.fwAbandon_ev {z : State} (s : State) (hs : z.Evolves s) : z.Evolves (State.fwAbandon s) := by
  unfold State.fwAbandon
  split
  · apply State.slotFails_ev
    refine State.Evolves.mk_same ?_ rfl rfl rfl rfl
    exact hs
  · exact hs

theorem State.startRegs_ev {z : State} (s : State) (cause boot ports : Nat) (hs : z.Evolves s) : z.Evolves (State.startRegs s cause boot ports) := by
  unfold State.startRegs
  extract_lets +onlyGivenNames t_0
  have ht_0 : z.Evolves t_0 := by
    unfold t_0
    apply State.wr_ev; apply State.wr_ev; apply State.wr_ev; apply State.wr_ev; apply State.wr_ev; exact hs
  clear_value t_0
  extract_lets +onlyGivenNames t_1
  have ht_1 : z.Evolves t_1 := by
    unfold t_1
    apply State.fs_ev; apply State.fs_ev; apply State.fs_ev; apply State.wr_ev; exact ht_0
  clear_value t_1
  extract_lets +onlyGivenNames r_2
  extract_lets +onlyGivenNames t_3
  have ht_3 : z.Evolves t_3 := by
    unfold t_3
    apply State.wr_ev; apply State.wr_ev; apply State.wr_ev; apply State.wr_ev; exact ht_1
  clear_value t_3
  extract_lets +onlyGivenNames t_4
  have ht_4 : z.Evolves t_4 := by
    unfold t_4
    apply State.fs_ev; apply State.fs_ev; exact ht_3
  clear_value t_4
  refine State.Evolves.foldl ?_ ?_
  · exact ht_4
  · intro v5 v6 v7
    split
    · apply State.wr_ev; with_reducible assumption
    · with_reducible assumption

theorem State.startOnce_ev {z : State} (s : State) (cause : Nat) (hs : z.Evolves s) : z.Evolves (State.startOnce s cause) := by
  unfold State.startOnce
  extract_lets boot w0 fw ports low w1 w2 c w3 w4 w5 w6 t t1 t2
  have ht : z.Evolves t := hs.start rfl rfl List.Pairwise.nil rfl rfl rfl rfl rfl rfl rfl
  have ht1 : z.Evolves t1 := by
    unfold t1
    split
    · exact ht
    · exact State.emit_ev ht _
  have ht2 : z.Evolves t2 := by
    unfold t2
    split
    · exact ht1
    · exact State.emit_ev ht1 _
  exact State.log_ev _ _ _ _ _ (State.startRegs_ev _ _ _ _ ht2)

theorem State.startModule_ev {z : State} (s : State) (cause : Nat) (hs : z.Evolves s) : z.Evolves (State.startModule s cause) := by
  unfold State.startModule
  extract_lets +onlyGivenNames t_0
  have ht_0 : z.Evolves t_0 := by
    unfold t_0
    apply State.startOnce_ev; apply State.fwAbandon_ev; exact hs
  clear_value t_0
  extract_lets +onlyGivenNames b_1
  split
  · apply State.startOnce_ev; apply State.slotFails_ev; exact ht_0
  · exact ht_0

theorem State.bringUp_ev {z : State} (s : State) (hs : z.Evolves s) : z.Evolves (State.bringUp s) := by
  unfold State.bringUp
  extract_lets +onlyGivenNames t_0
  have ht_0 : z.Evolves t_0 := by
    unfold t_0
    refine State.Evolves.foldl ?_ ?_
    · exact hs
    · intro v1 v2 v3
      apply State.setAclk_ev; apply State.fs_ev; with_reducible assumption
  clear_value t_0
  extract_lets +onlyGivenNames t_4
  have ht_4 : z.Evolves t_4 := by
    unfold t_4
    refine State.Evolves.foldl ?_ ?_
    · exact ht_0
    · intro v5 v6 v7
      apply State.fs_ev; with_reducible assumption
  clear_value t_4
  extract_lets +onlyGivenNames t_8
  have ht_8 : z.Evolves t_8 := by
    unfold t_8
    apply State.fs_ev; apply State.fs_ev; exact ht_4
  clear_value t_8
  extract_lets +onlyGivenNames t_9
  have ht_9 : z.Evolves t_9 := by
    unfold t_9
    refine State.Evolves.foldl ?_ ?_
    · exact ht_8
    · intro v10 v11 v12
      apply State.trainLink_ev; apply State.trainLink_ev; with_reducible assumption
  clear_value t_9
  extract_lets +onlyGivenNames t_13
  have ht_13 : z.Evolves t_13 := by
    unfold t_13
    refine State.Evolves.foldl ?_ ?_
    · exact ht_9
    · intro v14 v15 v16
      split
      · apply State.fenceDie_ev; with_reducible assumption
      · with_reducible assumption
  clear_value t_13
  apply State.setState_ev; exact ht_13

theorem State.fwConfirm_ev {z : State} (s : State) (hs : z.Evolves s) : z.Evolves (State.fwConfirm s) := by
  unfold State.fwConfirm
  split
  · split
    · exact hs
    · extract_lets +onlyGivenNames b_0
      extract_lets +onlyGivenNames r_1
      apply State.log_ev; apply State.fs_ev
      refine State.Evolves.mk_any ?_ ?_ ?_ ?_ ?_ ?_ ?_ ?_ ?_ ?_ ?_ ?_
      · exact hs
      · exact id
      · exact id
      · exact id
      · exact Nat.le_refl _
      · rfl
      · exact Nat.le_refl _
      · exact Nat.le_refl _
      · exact Nat.le_refl _
      · rfl
      · exact Nat.le_max_left _ _
      · exact Nat.le_refl _
  · split
    · exact hs
    · extract_lets +onlyGivenNames b_2
      extract_lets +onlyGivenNames r_3
      apply State.log_ev; apply State.fs_ev
      refine State.Evolves.mk_any ?_ ?_ ?_ ?_ ?_ ?_ ?_ ?_ ?_ ?_ ?_ ?_
      · exact hs
      · exact id
      · exact id
      · exact id
      · exact Nat.le_refl _
      · rfl
      · exact Nat.le_refl _
      · exact Nat.le_refl _
      · exact Nat.le_refl _
      · rfl
      · exact Nat.le_max_left _ _
      · exact Nat.le_refl _

theorem State.haunoBoot_ev {z : State} (s : State) (hs : z.Evolves s) : z.Evolves (State.haunoBoot s) := by
  unfold State.haunoBoot
  split
  · refine State.Evolves.mk_same ?_ rfl rfl rfl rfl
    exact hs
  · apply State.log_ev; exact hs

theorem State.bootReady_ev {z : State} (s : State) (hs : z.Evolves s) : z.Evolves (State.bootReady s) := by
  unfold State.bootReady
  extract_lets +onlyGivenNames t_0
  have ht_0 : z.Evolves t_0 := by
    unfold t_0
    split
    · apply State.log_ev; apply State.firmwareUp_ev; exact hs
    · apply State.firmwareUp_ev; exact hs
  clear_value t_0
  split
  · extract_lets +onlyGivenNames w1
    have hw1 : z.Evolves w1 := by
      unfold w1
      apply State.emit_ev; exact ht_0
    clear_value w1
    refine State.Evolves.mk_same ?_ rfl rfl rfl rfl
    exact hw1
  · split
    · apply State.setState_ev; exact ht_0
    · apply State.haunoBoot_ev; apply State.fwConfirm_ev; apply State.bringUp_ev; exact ht_0

theorem execBootReady_ev {z : State} (s : State) (hs : z.Evolves s) : Later z (execBootReady s) := by
  unfold execBootReady
  extract_lets +onlyGivenNames early_0
  refine Later.occurs ?_ ?_
  · exact hs
  · apply State.bootReady_ev; exact hs

theorem execUpdateWatchdog_ev {z : State} (s : State) (hs : z.Evolves s) : Later z (execUpdateWatchdog s) := by
  unfold execUpdateWatchdog
  split
  · refine Later.occurs ?_ ?_
    · exact hs
    · extract_lets +onlyGivenNames u_0
      have hu_0 : z.Evolves u_0 := by
        unfold u_0
        apply State.runTo_ev; exact hs
      clear_value u_0
      apply State.startModule_ev
      refine State.Evolves.mk_same ?_ rfl rfl rfl rfl
      exact hu_0
  · refine Later.next ?_
    exact hs

theorem execModuleResetExecute_ev {z : State} (s : State) (hs : z.Evolves s) : Later z (execModuleResetExecute s) := by
  unfold execModuleResetExecute
  split
  · refine Later.occurs ?_ ?_
    · exact hs
    · apply State.startModule_ev; apply State.runTo_ev; exact hs
  · refine Later.next ?_
    exact hs

theorem execInputPowerFail_ev {z : State} (dv : Nat) (s : State) (hs : z.Evolves s) : Later z (execInputPowerFail dv s) := by
  unfold execInputPowerFail
  extract_lets +onlyGivenNames t_0
  extract_lets +onlyGivenNames t_1
  have ht_1 : z.Evolves t_1 := by
    unfold t_1
    refine State.Evolves.mk_same ?_ rfl rfl rfl rfl
    exact hs
  clear_value t_1
  refine Later.occurs ?_ ?_
  · exact hs
  · extract_lets +onlyGivenNames u_2
    have hu_2 : z.Evolves u_2 := by
      unfold u_2
      split
      · apply State.railsOff_ev; exact ht_1
      · exact ht_1
    clear_value u_2
    apply State.fs_ev; apply State.fs_ev; exact hu_2

theorem execInputPowerRestored_ev {z : State} (dv : Nat) (s : State) (hs : z.Evolves s) : Later z (execInputPowerRestored dv s) := by
  unfold execInputPowerRestored
  extract_lets +onlyGivenNames t_0
  extract_lets +onlyGivenNames t_1
  have ht_1 : z.Evolves t_1 := by
    unfold t_1
    refine State.Evolves.mk_same ?_ rfl rfl rfl rfl
    exact hs
  clear_value t_1
  extract_lets +onlyGivenNames shown_2
  have hshown_2 : ∀ a0, z.Evolves a0 → z.Evolves (shown_2 a0) := by
    unfold shown_2
    intro v3 v4
    apply State.fs_ev; apply State.fs_ev; with_reducible assumption
  clear_value shown_2
  refine Later.occurs ?_ ?_
  · exact hs
  · split
    · apply hshown_2; apply State.startModule_ev; apply State.pass_ev; exact ht_1
    · split
      · apply hshown_2
        extract_lets +onlyGivenNames w5
        have hw5 : z.Evolves w5 := by
          unfold w5
          apply State.pass_ev; exact ht_1
        clear_value w5
        refine State.Evolves.mk_same ?_ rfl rfl rfl rfl
        exact hw5
      · split
        · apply hshown_2; exact ht_1
        · exact ht_1

theorem State.auxFail_ev {z : State} (s : State) (hs : z.Evolves s) : z.Evolves (State.auxFail s) := by
  unfold State.auxFail
  extract_lets w1 c w2 w3 t t1
  have ht : z.Evolves t := hs.start rfl rfl List.Pairwise.nil rfl rfl rfl rfl rfl rfl rfl
  have ht1 : z.Evolves t1 := by
    unfold t1
    split
    · exact State.emit_ev ht _
    · exact ht
  apply State.fs_ev
  split
  · exact State.emit_ev ht1 _
  · exact ht1

theorem execAuxPowerFail_ev {z : State} (s : State) (hs : z.Evolves s) : Later z (execAuxPowerFail s) := by
  unfold execAuxPowerFail
  refine Later.occurs ?_ ?_
  · exact hs
  · apply State.auxFail_ev; exact hs

theorem execAuxPowerUp_ev {z : State} (s : State) (hs : z.Evolves s) : Later z (execAuxPowerUp s) := by
  unfold execAuxPowerUp
  refine Later.occurs ?_ ?_
  · exact hs
  · apply State.startModule_ev; exact hs

theorem State.strapChange_ev {z : State} (s : State) (slot rack feed : Nat) (hs : z.Evolves s) : z.Evolves (State.strapChange s slot rack feed) := by
  unfold State.strapChange
  extract_lets +onlyGivenNames t_0
  extract_lets +onlyGivenNames t_1
  have ht_1 : z.Evolves t_1 := by
    unfold t_1
    refine State.Evolves.mk_same ?_ rfl rfl rfl rfl
    exact hs
  clear_value t_1
  split
  · exact ht_1
  · extract_lets +onlyGivenNames u_2
    have hu_2 : z.Evolves u_2 := by
      unfold u_2
      split
      · exact ht_1
      · apply State.log_ev; exact ht_1
    clear_value u_2
    apply State.raise_ev
    refine State.Evolves.mk_same ?_ rfl rfl rfl rfl
    exact hu_2

theorem execStrapChange_ev {z : State} (slot rack feed : Nat) (s : State) (hs : z.Evolves s) : Later z (execStrapChange slot rack feed s) := by
  unfold execStrapChange
  refine Later.occurs ?_ ?_
  · exact hs
  · apply State.strapChange_ev; exact hs

theorem State.heldReset_ev {z : State} (s : State) (hs : z.Evolves s) : z.Evolves (State.heldReset s) := by
  unfold State.heldReset
  extract_lets c w
  have hr : c.Evolves (State.fs ((c.startRegs (s.fg R.RST_STATUS F.RST_STATUS_cause) (s.fg R.RIND_STATUS F.RIND_STATUS_boot_slot) (s.fg R.GLB_STATUS ⟨2, 2⟩)).zeroRegs
      [R.RIND_STATUS, R.RIND_OWNER 0, R.RIND_OWNER 1]) R.RST_STATUS F.RST_STATUS_input_ok 0) :=
    State.fs_ev _ _ _ _ (State.zeroRegs_ev _ _ (State.startRegs_ev _ _ _ _ (.refl c)))
  have hk : State.Canon c := ⟨⟨List.Pairwise.nil, fun _ h => nomatch h⟩, List.Pairwise.nil, List.Pairwise.nil⟩
  exact hs.trans ⟨fun _ => hr.canon hk, rfl, Nat.le_refl _, List.prefix_rfl, Nat.le_refl _, Nat.le_refl _, hr.logged, hr.part, hr.rollback, hr.transfers⟩

theorem execModResetAccepted_ev {z : State} (s : State) (hs : z.Evolves s) : Later z (execModResetAccepted s) := by
  unfold execModResetAccepted
  refine Later.occurs ?_ ?_
  · exact hs
  · apply State.heldReset_ev; exact hs

theorem execModResetRelease_ev {z : State} (lowNs : Nat) (s : State) (hs : z.Evolves s) : Later z (execModResetRelease lowNs s) := by
  unfold execModResetRelease
  split
  · refine Later.next ?_
    apply State.startModule_ev; apply State.pass_ev; exact hs
  · refine Later.occurs ?_ ?_
    · exact hs
    · apply State.count_ev; exact hs

theorem State.takeSamples_ev {z : State} (s : State) (raws : List (Nat × Int)) (hs : z.Evolves s) : z.Evolves (State.takeSamples s raws) := by
  unfold State.takeSamples
  extract_lets +onlyGivenNames live_0
  extract_lets +onlyGivenNames t_1
  have ht_1 : z.Evolves t_1 := by
    unfold t_1
    refine State.Evolves.foldl ?_ ?_
    · exact hs
    · intro v2 v3 v4
      split
      · apply State.sensorFails_ev; with_reducible assumption
      · apply State.setSensor_ev; with_reducible assumption
  clear_value t_1
  extract_lets +onlyGivenNames good_5
  extract_lets +onlyGivenNames t_6
  have ht_6 : z.Evolves t_6 := by
    unfold t_6
    refine State.Evolves.foldl ?_ ?_
    · exact ht_1
    · intro v7 v8 v9
      apply State.spanOthers_ev; with_reducible assumption
  clear_value t_6
  refine State.Evolves.foldl ?_ ?_
  · exact ht_6
  · intro v10 v11 v12
    split
    · apply State.sensorFails_ev; with_reducible assumption
    · split
      · extract_lets +onlyGivenNames x_13
        apply State.setSensor_ev; with_reducible assumption
      · with_reducible assumption

theorem State.tripRelease_ev {z : State} (s : State) (hs : z.Evolves s) : z.Evolves (State.tripRelease s) := by
  exact State.fs_ev _ _ _ _ ((State.emit_ev hs _).mk_same rfl rfl rfl rfl)

theorem State.sampleDone_ev {z : State} (s : State) (hs : z.Evolves s) : z.Evolves (State.sampleDone s) := by
  unfold State.sampleDone
  extract_lets +onlyGivenNames trips_0
  split
  · apply State.thermalTrip_ev; exact hs
  · extract_lets +onlyGivenNames t_1
    have ht_1 : z.Evolves t_1 := by
      unfold t_1
      split
      · apply State.hotActions_ev; exact hs
      · exact hs
    clear_value t_1
    split
    · apply State.tripRelease_ev; exact ht_1
    · exact ht_1

theorem execSensorSample_ev {z : State} (raw : List (Nat × Nat)) (s : State) (hs : z.Evolves s) : Later z (execSensorSample raw s) := by
  unfold execSensorSample
  extract_lets +onlyGivenNames t_0
  have ht_0 : z.Evolves t_0 := by
    unfold t_0
    apply State.runTo_ev; exact hs
  clear_value t_0
  extract_lets +onlyGivenNames raws_1
  refine Later.occurs ?_ ?_
  · exact hs
  · apply State.sampleDone_ev; apply State.afterFailures_ev; apply State.takeSamples_ev; exact ht_0

theorem execConverterSelfTest_ev {z : State} (failed : List Nat) (s : State) (hs : z.Evolves s) : Later z (execConverterSelfTest failed s) := by
  unfold execConverterSelfTest
  extract_lets +onlyGivenNames t_0
  have ht_0 : z.Evolves t_0 := by
    unfold t_0
    apply State.runTo_ev; exact hs
  clear_value t_0
  extract_lets +onlyGivenNames ids_1
  refine Later.occurs ?_ ?_
  · exact hs
  · apply State.afterFailures_ev
    refine State.Evolves.foldl ?_ ?_
    · exact ht_0
    · intro v2 v3 v4
      apply State.sensorFails_ev; with_reducible assumption

theorem execTripRestart_ev {z : State} (s : State) (hs : z.Evolves s) : Later z (execTripRestart s) := by
  unfold execTripRestart
  split
  · refine Later.occurs ?_ ?_
    · exact hs
    · apply State.startModule_ev; apply State.runTo_ev; exact hs
  · refine Later.next ?_
    exact hs

theorem State.tripAck_ev {z : State} (s : State) (seq : Nat) (hs : z.Evolves s) : z.Evolves (State.tripAck s seq) := by
  unfold State.tripAck
  split
  · split
    · split
      · apply State.tripRelease_ev; exact hs
      · apply State.fs_ev; exact hs
    · apply State.raise_ev; exact hs
  · apply State.raise_ev; exact hs

theorem execTripAck_ev {z : State} (port seq : Nat) (s : State) (hs : z.Evolves s) : Later z (execTripAck port seq s) := by
  unfold execTripAck
  refine Later.occurs ?_ ?_
  · exact hs
  · apply State.tripAck_ev; exact hs

theorem State.holdover_ev {z : State} (s : State) (hs : z.Evolves s) : z.Evolves (State.holdover s) := by
  unfold State.holdover
  split
  · exact hs
  · apply State.log_ev; apply State.count_ev; apply State.fs_ev; apply State.fs_ev; exact hs

theorem State.rackclkLost_ev {z : State} (s : State) (hs : z.Evolves s) : z.Evolves (State.rackclkLost s) := by
  unfold State.rackclkLost
  extract_lets +onlyGivenNames t_0
  have ht_0 : z.Evolves t_0 := by
    unfold t_0
    apply State.pass_ev; exact hs
  clear_value t_0
  extract_lets +onlyGivenNames t_1
  extract_lets +onlyGivenNames t_2
  have ht_2 : z.Evolves t_2 := by
    unfold t_2
    refine State.Evolves.mk_same ?_ rfl rfl rfl rfl
    exact ht_0
  clear_value t_2
  apply State.holdover_ev; apply State.fs_ev; apply State.fs_ev; exact ht_2

theorem execRackclkLost_ev {z : State} (s : State) (hs : z.Evolves s) : Later z (execRackclkLost s) := by
  unfold execRackclkLost
  split
  · refine Later.next ?_
    exact hs
  · split
    · refine Later.next ?_
      apply State.rackclkLost_ev; exact hs
    · refine Later.next ?_
      refine State.Evolves.mk_same ?_ rfl rfl rfl rfl
      exact hs

theorem execRackclkRestored_ev {z : State} (s : State) (hs : z.Evolves s) : Later z (execRackclkRestored s) := by
  unfold execRackclkRestored
  extract_lets +onlyGivenNames t_0
  extract_lets +onlyGivenNames t_1
  have ht_1 : z.Evolves t_1 := by
    unfold t_1
    refine State.Evolves.mk_same ?_ rfl rfl rfl rfl
    exact hs
  clear_value t_1
  split
  · refine Later.next ?_
    exact hs
  · split
    · refine Later.next ?_
      apply State.fs_ev; apply State.fs_ev; exact ht_1
    · refine Later.next ?_
      exact ht_1

theorem execTickTimeout_ev {z : State} (s : State) (hs : z.Evolves s) : Later z (execTickTimeout s) := by
  unfold execTickTimeout
  refine Later.occurs ?_ ?_
  · exact hs
  · apply State.holdover_ev; apply State.runTo_ev; exact hs

theorem execSlewComplete_ev {z : State} (s : State) (hs : z.Evolves s) : Later z (execSlewComplete s) := by
  unfold execSlewComplete
  refine Later.occurs ?_ ?_
  · exact hs
  · apply State.fs_ev
    split
    · exact hs
    · apply State.pass_ev; exact hs

theorem execTimeOffsetUpdate_ev {z : State} (j : Nat) (offset : Int) (s : State) (hs : z.Evolves s) : Later z (execTimeOffsetUpdate j offset s) := by
  unfold execTimeOffsetUpdate
  refine Later.occurs ?_ ?_
  · exact hs
  · apply State.fs_ev; apply State.fs_ev; exact hs

theorem State.startSlew_ev {z : State} (s : State) (d : Int) (hs : z.Evolves s) : z.Evolves (State.startSlew s d) := by
  unfold State.startSlew
  apply State.fs_ev
  refine State.Evolves.mk_same ?_ rfl rfl rfl rfl
  exact hs

theorem State.markerAgrees_ev {z : State} (s : State) (n : Nat) (hs : z.Evolves s) : z.Evolves (State.markerAgrees s n) := by
  unfold State.markerAgrees
  extract_lets +onlyGivenNames off_0
  have hoff_0 : ∀ a0, z.Evolves a0 → z.Evolves (off_0 a0) := by
    unfold off_0
    intro v1 v2
    apply State.fs_ev; apply State.fs_ev; with_reducible assumption
  clear_value off_0
  split
  · extract_lets +onlyGivenNames t_3
    have ht_3 : z.Evolves t_3 := by
      unfold t_3
      apply State.fs_ev
      refine State.Evolves.mk_same ?_ rfl rfl rfl rfl
      exact hs
    clear_value t_3
    apply hoff_0
    refine State.Evolves.mk_same ?_ rfl rfl rfl rfl
    exact ht_3
  · split
    · extract_lets +onlyGivenNames d_4
      apply State.log_ev; apply State.fs_ev; apply hoff_0; apply State.startSlew_ev; exact hs
    · exact hs

theorem State.tickFrame_ev {z : State} (s : State) (width : Nat) (hs : z.Evolves s) : z.Evolves (State.tickFrame s width) := by
  unfold State.tickFrame
  extract_lets +onlyGivenNames x_0
  split
  · extract_lets +onlyGivenNames n_1
    extract_lets +onlyGivenNames t_2
    have ht_2 : z.Evolves t_2 := by
      unfold t_2
      split
      · split
        · apply State.markerAgrees_ev; exact hs
        · exact hs
      · exact hs
    clear_value t_2
    refine State.Evolves.mk_same ?_ rfl rfl rfl rfl
    exact ht_2
  · refine State.Evolves.mk_same ?_ rfl rfl rfl rfl
    exact hs
  · apply State.count_ev
    refine State.Evolves.mk_same ?_ rfl rfl rfl rfl
    exact hs

theorem State.tickPhase_ev {z : State} (s : State) (hs : z.Evolves s) : z.Evolves (State.tickPhase s) := by
  unfold State.tickPhase
  split
  · exact hs
  · extract_lets +onlyGivenNames d_0
    extract_lets +onlyGivenNames n_1
    extract_lets +onlyGivenNames t_2
    extract_lets +onlyGivenNames t_3
    have ht_3 : z.Evolves t_3 := by
      unfold t_3
      refine State.Evolves.mk_same ?_ rfl rfl rfl rfl
      exact hs
    clear_value t_3
    split
    · apply State.startSlew_ev; exact ht_3
    · exact ht_3

theorem State.tickEdge_ev {z : State} (s : State) (interval width : Nat) (hs : z.Evolves s) : z.Evolves (State.tickEdge s interval width) := by
  unfold State.tickEdge
  split
  · apply State.tickFrame_ev
    refine State.Evolves.mk_same ?_ rfl rfl rfl rfl
    exact hs
  · extract_lets +onlyGivenNames t_0
    have ht_0 : z.Evolves t_0 := by
      unfold t_0
      apply State.runTo_ev; exact hs
    clear_value t_0
    split
    · apply State.count_ev; exact ht_0
    · split
      · apply State.tickFrame_ev
        refine State.Evolves.mk_same ?_ rfl rfl rfl rfl
        exact ht_0
      · extract_lets +onlyGivenNames u_1
        have hu_1 : z.Evolves u_1 := by
          unfold u_1
          split
          · exact ht_0
          · apply State.count_ev; exact ht_0
        clear_value u_1
        apply State.tickFrame_ev; apply State.tickPhase_ev
        refine State.Evolves.mk_same ?_ rfl rfl rfl rfl
        exact hu_1

theorem execRacktickEdge_ev {z : State} (interval width : Nat) (s : State) (hs : z.Evolves s) : Later z (execRacktickEdge interval width s) := by
  unfold execRacktickEdge
  extract_lets +onlyGivenNames ahead_0
  refine Later.occurs ?_ ?_
  · exact hs
  · apply State.tickEdge_ev; exact hs

theorem State.dumpPut_ev {z : State} (s : State) (bonded : Bool) (b : Bytes) (hs : z.Evolves s) : z.Evolves (State.dumpPut s bonded b) := by
  unfold State.dumpPut
  split
  · refine State.Evolves.foldl ?_ ?_
    · exact hs
    · intro v0 v1 v2
      apply State.memWr_ev; with_reducible assumption
  · split
    · apply State.farWrite_ev; exact hs
    · exact hs

theorem State.dumpWrite_ev {z : State} (s : State) (d : DumpSt) (hs : z.Evolves s) : z.Evolves (State.dumpWrite s d) := by
  unfold State.dumpWrite
  split
  · refine State.Evolves.mk_same ?_ rfl rfl rfl rfl
    exact hs
  · extract_lets +onlyGivenNames k_0
    have hk_0 : z.Evolves k_0.2 := by
      unfold k_0
      apply State.scalar_ev; exact hs
    clear_value k_0
    extract_lets +onlyGivenNames all_1
    extract_lets +onlyGivenNames f_2
    have hf_2 : z.Evolves f_2.2 := by
      unfold f_2
      apply State.free_ev; exact hk_0
    clear_value f_2
    extract_lets +onlyGivenNames segs_3
    extract_lets +onlyGivenNames t_4
    have ht_4 : z.Evolves t_4 := by
      unfold t_4
      split
      · exact hf_2
      · exact hk_0
    clear_value t_4
    extract_lets +onlyGivenNames plain_5
    extract_lets +onlyGivenNames head_6
    extract_lets +onlyGivenNames key_7
    extract_lets +onlyGivenNames sealed_8
    extract_lets +onlyGivenNames tags_9
    extract_lets +onlyGivenNames u_10
    have hu_10 : z.Evolves u_10 := by
      unfold u_10
      apply State.dumpPut_ev; exact ht_4
    clear_value u_10
    refine State.Evolves.mk_same ?_ rfl rfl rfl rfl
    exact hu_10

theorem execDumpComplete_ev {z : State} (s : State) (hs : z.Evolves s) : Later z (execDumpComplete s) := by
  unfold execDumpComplete
  split
  · refine Later.occurs ?_ ?_
    · exact hs
    · apply State.setState_ev; apply State.dumpWrite_ev; exact hs
  · refine Later.next ?_
    exact hs

theorem State.pldmAnswer_ev {z : State} (s : State) (m : PldmMsg) (code : Nat) (data : Bytes) (hs : z.Evolves s) : z.Evolves (State.pldmAnswer s m code data) := by
  unfold State.pldmAnswer
  apply State.emit_ev; exact hs

theorem State.pldm_ev {z : State} (s : State) (m : PldmMsg) (hs : z.Evolves s) : z.Evolves (State.pldm s m) := by
  unfold State.pldm
  extract_lets +onlyGivenNames upd_0
  have hupd_0 : ∀ a0, z.Evolves a0.2 → z.Evolves (upd_0 a0) := by
    unfold upd_0
    intro v1 v2
    apply State.pldmAnswer_ev; with_reducible assumption
  clear_value upd_0
  split
  · split
    · apply State.pldmAnswer_ev
      refine State.Evolves.mk_same ?_ rfl rfl rfl rfl
      exact hs
    · apply State.pldmAnswer_ev; exact hs
    · apply State.pldmAnswer_ev; exact hs
  · split
    · split
      · apply State.pldmAnswer_ev; exact hs
      · apply State.pldmAnswer_ev; exact hs
    · split
      · extract_lets +onlyGivenNames id_3
        split
        · apply State.pldmAnswer_ev
          refine State.Evolves.mk_same ?_ rfl rfl rfl rfl
          exact hs
        · apply State.pldmAnswer_ev; exact hs
        · split
          · apply State.pldmAnswer_ev; exact hs
          · apply State.pldmAnswer_ev; exact hs
        · split
          · apply State.pldmAnswer_ev; exact hs
          · apply State.pldmAnswer_ev; exact hs
        · split
          · apply State.pldmAnswer_ev; exact hs
          · apply State.pldmAnswer_ev; exact hs
        · apply State.pldmAnswer_ev; exact hs
      · split
        · split
          · apply hupd_0; apply State.fwOpen_ev; exact hs
          · apply hupd_0; apply State.fwPiece_ev; exact hs
          · apply hupd_0; apply State.fwClose_ev; exact hs
          · split
            · split
              · apply State.pldmAnswer_ev; apply State.fs_ev; apply State.fwAbandon_ev; exact hs
              · apply State.pldmAnswer_ev; exact hs
            · apply State.pldmAnswer_ev; exact hs
          · apply State.pldmAnswer_ev; exact hs
        · apply State.pldmAnswer_ev; exact hs

theorem execPldmMessage_ev {z : State} (msg : PldmMsg) (s : State) (hs : z.Evolves s) : Later z (execPldmMessage msg s) := by
  unfold execPldmMessage
  refine Later.occurs ?_ ?_
  · exact hs
  · apply State.pldm_ev; exact hs

theorem State.jtagAccess_ev {z : State} (s : State) (instr data : Nat) (hs : z.Evolves s) : z.Evolves (State.jtagAccess s instr data) := by
  unfold State.jtagAccess
  split
  · apply State.emit_ev; exact hs
  · split
    · extract_lets +onlyGivenNames f_0
      have hf_0 : z.Evolves f_0.2 := by
        unfold f_0
        apply State.free_ev; exact hs
      clear_value f_0
      apply State.emit_ev; exact hf_0
    · exact hs

theorem execJtagAccess_ev {z : State} (instr data : Nat) (s : State) (hs : z.Evolves s) : Later z (execJtagAccess instr data s) := by
  unfold execJtagAccess
  refine Later.occurs ?_ ?_
  · exact hs
  · apply State.jtagAccess_ev; exact hs

theorem State.pairRx_ev {z : State} (s : State) (q : Packet) (hs : z.Evolves s) : z.Evolves (State.pairRx s q) := by
  unfold State.pairRx
  extract_lets +onlyGivenNames c_0
  extract_lets +onlyGivenNames muslin_1
  extract_lets +onlyGivenNames rmax_2
  extract_lets +onlyGivenNames ring_3
  extract_lets +onlyGivenNames w_4
  extract_lets +onlyGivenNames t_5
  extract_lets +onlyGivenNames t_6
  have ht_6 : z.Evolves t_6 := by
    unfold t_6
    split
    · apply State.fs_ev
      refine State.Evolves.mk_same ?_ rfl rfl rfl rfl
      exact hs
    · split
      · split
        · apply State.fs_ev; exact hs
        · exact hs
      · exact hs
  clear_value t_6
  apply State.sendKeep_ev; exact ht_6

theorem State.pairReplyRx_ev {z : State} (s : State) (q : Packet) (hs : z.Evolves s) : z.Evolves (State.pairReplyRx s q) := by
  unfold State.pairReplyRx
  extract_lets +onlyGivenNames c_0
  split
  · exact hs
  · split
    · apply State.setPair_ev
      refine State.Evolves.mk_same ?_ rfl rfl rfl rfl
      exact hs
    · extract_lets +onlyGivenNames t_1
      have ht_1 : z.Evolves t_1 := by
        unfold t_1
        apply State.log_ev; apply State.fs_ev; apply State.setPair_ev; exact hs
      clear_value t_1
      refine State.Evolves.mk_same ?_ rfl rfl rfl rfl
      exact ht_1

theorem execPairRetry_ev {z : State} (s : State) (hs : z.Evolves s) : Later z (execPairRetry s) := by
  unfold execPairRetry
  refine Later.occurs ?_ ?_
  · exact hs
  · apply State.sendPair_ev; apply State.runTo_ev; exact hs

theorem State.ripenWay_ev {z : State} (s : State) (space unit off n : Nat) (hs : z.Evolves s) : z.Evolves (State.ripenWay s space unit off n) := by
  unfold State.ripenWay
  apply State.unitMoves_ev
  split
  · apply State.take_ev; exact hs
  · exact hs

theorem State.ripened_ev {z : State} (s : State) (r : Ripen) (part : Nat × Nat) (n : Nat) (hs : z.Evolves s) : z.Evolves (State.ripened s r part n) := by
  unfold State.ripened
  apply State.fsat_ev
  refine State.Evolves.mk_same ?_ rfl rfl rfl rfl
  exact hs

theorem State.restoreBytes_ev {z : State} (s : State) (space unit off : Nat) (b : Bytes) (hs : z.Evolves s) : z.Evolves (State.restoreBytes s space unit off b) := by
  unfold State.restoreBytes
  extract_lets +onlyGivenNames t_0
  have ht_0 : z.Evolves t_0 := by
    unfold t_0
    apply State.unitWrite_ev; exact hs
  clear_value t_0
  refine State.Evolves.mk_same ?_ rfl rfl rfl rfl
  exact ht_0

theorem State.restorePage_ev {z : State} (s : State) (off : Nat) (b : Bytes) (hs : z.Evolves s) : z.Evolves (State.restorePage s off b) := by
  unfold State.restorePage
  split
  · extract_lets +onlyGivenNames o_0
    refine State.Evolves.foldl ?_ ?_
    · exact hs
    · intro v1 v2 v3
      apply State.restoreBytes_ev; apply State.ripenWay_ev; with_reducible assumption
  · exact hs

theorem State.unstagedPage_ev {z : State} (s : State) (x : Recover) (off : Nat) (b : Bytes) (hs : z.Evolves s) : z.Evolves (State.unstagedPage s x off b) := by
  unfold State.unstagedPage
  extract_lets +onlyGivenNames t_0
  have ht_0 : z.Evolves t_0 := by
    unfold t_0
    split
    · extract_lets +onlyGivenNames o_1
      apply State.restoreBytes_ev; apply State.ripenWay_ev; exact hs
    · exact hs
  clear_value t_0
  refine State.Evolves.mk_same ?_ rfl rfl rfl rfl
  exact ht_0

theorem State.recoverEnd_ev {z : State} (s : State) (x : Recover) (q : Packet) (hs : z.Evolves s) : z.Evolves (State.recoverEnd s x q) := by
  unfold State.recoverEnd
  split
  · refine State.Evolves.mk_same ?_ rfl rfl rfl rfl
    exact hs
  · split
    · apply State.recoverFails_ev; exact hs
    · apply State.askFrame_ev
      refine State.Evolves.mk_same ?_ rfl rfl rfl rfl
      exact hs

theorem State.frameOpen_ev {z : State} (s : State) (w : Ward) (hs : z.Evolves s) : z.Evolves (State.frameOpen s w) := by
  unfold State.frameOpen
  refine State.Evolves.mk_same ?_ rfl rfl rfl rfl
  exact hs

theorem State.pageRx_ev {z : State} (s : State) (q : Packet) (hs : z.Evolves s) : z.Evolves (State.pageRx s q).2 := by
  unfold State.pageRx
  extract_lets +onlyGivenNames off_0
  split
  · dsimp only
    split
    · apply State.ripenFails_ev; exact hs
    · apply State.ripened_ev; apply State.restorePage_ev; exact hs
  · dsimp only
    split
    · apply State.recoverFails_ev; exact hs
    · apply State.unstagedPage_ev; exact hs
  · split
    · with_reducible assumption
    · dsimp only
      apply State.keepWrite_ev; apply State.frameOpen_ev; exact hs
  · with_reducible assumption

theorem State.recordRx_ev {z : State} (s : State) (q : Packet) (hs : z.Evolves s) : z.Evolves (State.recordRx s q).2 := by
  unfold State.recordRx
  extract_lets +onlyGivenNames off_0
  split
  · dsimp only
    split
    · apply State.ripenFails_ev; exact hs
    · refine State.Evolves.mk_same ?_ rfl rfl rfl rfl
      exact hs
  · with_reducible assumption
  · split
    · with_reducible assumption
    · dsimp only
      apply State.keepWrite_ev; apply State.frameOpen_ev; exact hs
  · with_reducible assumption

theorem State.frameEnd_ev {z : State} (s : State) (r : Ripen) (q : Packet) (hs : z.Evolves s) : z.Evolves (State.frameEnd s r q) := by
  unfold State.frameEnd
  extract_lets +onlyGivenNames c_0
  split
  · split
    · apply State.ripenFails_ev; exact hs
    · extract_lets +onlyGivenNames rest_1
      extract_lets +onlyGivenNames had_2
      apply State.askFrame_ev
      extract_lets +onlyGivenNames w3
      have hw3 : z.Evolves w3 := by
        unfold w3
        apply State.fs_ev; exact hs
      clear_value w3
      refine State.Evolves.mk_same ?_ rfl rfl rfl rfl
      exact hw3
  · split
    · apply State.ripenFails_ev; exact hs
    · apply State.sendKeep_ev
      refine State.Evolves.mk_same ?_ rfl rfl rfl rfl
      exact hs

theorem State.sealRx_ev {z : State} (s : State) (q : Packet) (hs : z.Evolves s) : z.Evolves (State.sealRx s q).2 := by
  unfold State.sealRx
  split
  · dsimp only
    apply State.frameEnd_ev; exact hs
  · dsimp only
    apply State.recoverEnd_ev; exact hs
  · dsimp only
    refine State.Evolves.mk_same ?_ rfl rfl rfl rfl
    exact hs
  · with_reducible assumption

theorem State.ringPut_ev {z : State} (s : State) (gated : Bool) (act ring pos : Nat) (b : Bytes) (hs : z.Evolves s) : z.Evolves (State.ringPut s gated act ring pos b) := by
  unfold State.ringPut
  extract_lets +onlyGivenNames o_0
  extract_lets +onlyGivenNames a_1
  apply State.keepWrite_ev; apply State.keepWrite_ev; exact hs

theorem State.ringGet_ev {z : State} (s : State) (ring pos n : Nat) (hs : z.Evolves s) : z.Evolves (State.ringGet s ring pos n).2.1 := by
  unfold State.ringGet
  extract_lets +onlyGivenNames o_0
  extract_lets +onlyGivenNames k_1
  extract_lets +onlyGivenNames a_2
  have ha_2 : z.Evolves a_2.2.1 := by
    unfold a_2
    apply State.keepRead_ev; exact hs
  clear_value a_2
  extract_lets +onlyGivenNames b_3
  have hb_3 : z.Evolves b_3.2.1 := by
    unfold b_3
    apply State.keepRead_ev; exact ha_2
  clear_value b_3
  with_reducible assumption

theorem State.journalEnd_ev {z : State} (s : State) (r : Ripen) (hs : z.Evolves s) : z.Evolves (State.journalEnd s r) := by
  unfold State.journalEnd
  extract_lets +onlyGivenNames b_0
  extract_lets +onlyGivenNames last_1
  split
  · exact hs
  · split
    · refine State.Evolves.mk_same ?_ rfl rfl rfl rfl
      exact hs
    · apply State.ripenFails_ev; exact hs

theorem State.journalRx_ev {z : State} (s : State) (q : Packet) (hs : z.Evolves s) : z.Evolves (State.journalRx s q).2 := by
  unfold State.journalRx
  extract_lets +onlyGivenNames pos_0
  split
  · extract_lets +onlyGivenNames r2_1
    dsimp only
    split
    · apply State.ripenFails_ev; exact hs
    · apply State.journalEnd_ev
      refine State.Evolves.mk_same ?_ rfl rfl rfl rfl
      exact hs
  · split
    · with_reducible assumption
    · extract_lets +onlyGivenNames t_2
      have ht_2 : z.Evolves t_2 := by
        unfold t_2
        apply State.ringPut_ev; exact hs
      clear_value t_2
      dsimp only
      refine State.Evolves.mk_same ?_ rfl rfl rfl rfl
      exact ht_2
  · with_reducible assumption

theorem State.resyncRx_ev {z : State} (s : State) (q : Packet) (hs : z.Evolves s) : z.Evolves (State.resyncRx s q).2 := by
  unfold State.resyncRx
  split
  · with_reducible assumption
  · dsimp only
    apply State.sendPair_ev
    refine State.Evolves.mk_same ?_ rfl rfl rfl rfl
    exact hs

theorem State.deltaRx_ev {z : State} (s : State) (q : Packet) (hs : z.Evolves s) : z.Evolves (State.deltaRx s q).2 := by
  unfold State.deltaRx
  extract_lets +onlyGivenNames c_0
  extract_lets +onlyGivenNames g_1
  extract_lets +onlyGivenNames t_2
  extract_lets +onlyGivenNames first_3
  split
  · with_reducible assumption
  · extract_lets +onlyGivenNames mine_4
    extract_lets +onlyGivenNames j_5
    split
    · with_reducible assumption
    · extract_lets +onlyGivenNames isQ_6
      extract_lets +onlyGivenNames off_7
      extract_lets +onlyGivenNames d_8
      extract_lets +onlyGivenNames r_9
      have hr_9 : z.Evolves r_9.2.1 := by
        unfold r_9
        apply State.keepRead_ev; exact hs
      clear_value r_9
      extract_lets +onlyGivenNames u_10
      have hu_10 : z.Evolves u_10 := by
        unfold u_10
        apply State.keepWrite_ev; exact hr_9
      clear_value u_10
      dsimp only
      apply State.pmc_ev; apply State.count_ev
      refine State.Evolves.mk_same ?_ rfl rfl rfl rfl
      exact hu_10

theorem State.stripeUnit_ev {z : State} (s : State) (t : Nat) (hs : z.Evolves s) : z.Evolves (State.stripeUnit s t).2.1 := by
  unfold State.stripeUnit
  extract_lets +onlyGivenNames c_0
  extract_lets +onlyGivenNames g_1
  extract_lets +onlyGivenNames i_2
  split
  · apply State.keepRead_ev; exact hs
  · split
    · extract_lets +onlyGivenNames r_3
      have hr_3 : z.Evolves r_3.2.1 := by
        unfold r_3
        apply State.unitRead_ev; exact hs
      clear_value r_3
      dsimp only
      apply State.unitMoves_ev; exact hr_3
    · with_reducible assumption

theorem State.rollSource_ev {z : State} (s : State) (t m : Nat) (hs : z.Evolves s) : z.Evolves (State.rollSource s t m) := by
  unfold State.rollSource
  extract_lets +onlyGivenNames c_0
  extract_lets +onlyGivenNames mine_1
  extract_lets +onlyGivenNames f_2
  have hf_2 : z.Evolves f_2.2 := by
    unfold f_2
    apply State.free_ev; exact hs
  clear_value f_2
  extract_lets +onlyGivenNames gone_3
  refine State.Evolves.foldl ?_ ?_
  · exact hf_2
  · intro v4 v5 v6
    extract_lets +onlyGivenNames off_7
    extract_lets +onlyGivenNames x_8
    extract_lets +onlyGivenNames r_9
    have hr_9 : z.Evolves r_9.2.1 := by
      unfold r_9
      apply State.keepRead_ev; with_reducible assumption
    clear_value r_9
    extract_lets +onlyGivenNames v_10
    have hv_10 : z.Evolves v_10 := by
      unfold v_10
      apply State.keepWrite_ev; exact hr_9
    clear_value v_10
    apply State.count_ev
    refine State.Evolves.mk_same ?_ rfl rfl rfl rfl
    exact hv_10

theorem State.rollBack_ev {z : State} (s : State) (t : Nat) (lost : List Nat) (hs : z.Evolves s) : z.Evolves (State.rollBack s t lost) := by
  unfold State.rollBack
  extract_lets +onlyGivenNames c_0
  extract_lets +onlyGivenNames data_1
  split
  · exact hs
  · refine State.Evolves.foldl ?_ ?_
    · refine State.Evolves.mk_same ?_ rfl rfl rfl rfl
      exact hs
    · intro v2 v3 v4
      apply State.rollSource_ev; with_reducible assumption

theorem State.chainStep_ev {z : State} (s : State) (t : Nat) (sum : Bytes) (poison : Bool) (hs : z.Evolves s) : z.Evolves (State.chainStep s t sum poison) := by
  unfold State.chainStep
  extract_lets +onlyGivenNames c_0
  extract_lets +onlyGivenNames g_1
  extract_lets +onlyGivenNames r_2
  extract_lets +onlyGivenNames idx_3
  extract_lets +onlyGivenNames co_4
  extract_lets +onlyGivenNames u_5
  extract_lets +onlyGivenNames u_6
  have hu_6 : z.Evolves u_6.2.1 := by
    unfold u_6
    apply State.stripeUnit_ev; apply State.rollBack_ev
    refine State.Evolves.mk_same ?_ rfl rfl rfl rfl
    exact hs
  clear_value u_6
  extract_lets +onlyGivenNames next_7
  apply State.sendKeepAs_ev; exact hu_6

theorem State.chainAsked_ev {z : State} (s : State) (t dev : Nat) (hs : z.Evolves s) : z.Evolves (State.chainAsked s t dev) := by
  unfold State.chainAsked
  extract_lets +onlyGivenNames u_0
  extract_lets +onlyGivenNames u_1
  have hu_1 : z.Evolves u_1 := by
    unfold u_1
    refine State.Evolves.mk_same ?_ rfl rfl rfl rfl
    exact hs
  clear_value u_1
  split
  · apply State.chainStep_ev; exact hu_1
  · exact hu_1

theorem State.rebuildRx_ev {z : State} (s : State) (q : Packet) (hs : z.Evolves s) : z.Evolves (State.rebuildRx s q).2 := by
  unfold State.rebuildRx
  extract_lets +onlyGivenNames c_0
  extract_lets +onlyGivenNames g_1
  extract_lets +onlyGivenNames t_2
  split
  · with_reducible assumption
  · split
    · with_reducible assumption
    · split
      · extract_lets +onlyGivenNames i_3
        split
        · dsimp only
          apply State.ripenFails_ev; exact hs
        · extract_lets +onlyGivenNames u_4
          have hu_4 : z.Evolves u_4 := by
            unfold u_4
            split
            · apply State.restoreBytes_ev; apply State.ripenWay_ev; exact hs
            · exact hs
          clear_value u_4
          dsimp only
          apply State.count_ev; apply State.ripened_ev; exact hu_4
      · split
        · split
          · with_reducible assumption
          · extract_lets +onlyGivenNames i_5
            extract_lets +onlyGivenNames u_6
            have hu_6 : z.Evolves u_6 := by
              unfold u_6
              apply State.keepWrite_ev; exact hs
            clear_value u_6
            extract_lets +onlyGivenNames left_7
            extract_lets +onlyGivenNames v_8
            extract_lets +onlyGivenNames v_9
            have hv_9 : z.Evolves v_9 := by
              unfold v_9
              apply State.count_ev
              refine State.Evolves.mk_same ?_ rfl rfl rfl rfl
              exact hu_6
            clear_value v_9
            dsimp only
            split
            · apply State.fs_ev; exact hv_9
            · exact hv_9
        · dsimp only
          apply State.chainStep_ev; exact hs

theorem State.fetchFrame_ev {z : State} (s : State) (q : Packet) (w : Ward) (off len : Nat) (hs : z.Evolves s) : z.Evolves (State.fetchFrame s q w off len).2 := by
  unfold State.fetchFrame
  split
  · with_reducible assumption
  · extract_lets +onlyGivenNames v_0
    extract_lets +onlyGivenNames base_1
    extract_lets +onlyGivenNames o_2
    extract_lets +onlyGivenNames pages_3
    extract_lets +onlyGivenNames t_4
    have ht_4 : z.Evolves t_4 := by
      unfold t_4
      refine State.Evolves.foldl ?_ ?_
      · exact hs
      · intro v5 v6 v7
        extract_lets +onlyGivenNames r_8
        have hr_8 : z.Evolves r_8.2.1 := by
          unfold r_8
          apply State.keepRead_ev; with_reducible assumption
        clear_value r_8
        apply State.sendKeepAs_ev; exact hr_8
    clear_value t_4
    split
    · extract_lets +onlyGivenNames r_9
      have hr_9 : z.Evolves r_9.2.1 := by
        unfold r_9
        apply State.keepRead_ev; exact ht_4
      clear_value r_9
      dsimp only
      apply State.sendKeep_ev; apply State.sendPieces_ev; exact hr_9
    · with_reducible assumption

theorem State.fetchJournal_ev {z : State} (s : State) (q : Packet) (w : Ward) (off len : Nat) (hs : z.Evolves s) : z.Evolves (State.fetchJournal s q w off len).2 := by
  unfold State.fetchJournal
  split
  · with_reducible assumption
  · extract_lets +onlyGivenNames n_0
    extract_lets +onlyGivenNames r_1
    have hr_1 : z.Evolves r_1.2.1 := by
      unfold r_1
      apply State.ringGet_ev; exact hs
    clear_value r_1
    extract_lets +onlyGivenNames t_2
    have ht_2 : z.Evolves t_2 := by
      unfold t_2
      apply State.sendPieces_ev; exact hr_1
    clear_value t_2
    dsimp only
    split
    · apply State.sendKeep_ev; exact ht_2
    · exact ht_2

theorem State.fetchRx_ev {z : State} (s : State) (q : Packet) (hs : z.Evolves s) : z.Evolves (State.fetchRx s q).2 := by
  unfold State.fetchRx
  extract_lets +onlyGivenNames off_0
  extract_lets +onlyGivenNames len_1
  split
  · split
    · with_reducible assumption
    · apply State.fetchFrame_ev; exact hs
  · split
    · with_reducible assumption
    · apply State.fetchJournal_ev; exact hs
  · split
    · with_reducible assumption
    · split
      · with_reducible assumption
      · dsimp only
        apply State.chainAsked_ev; exact hs
  · with_reducible assumption

theorem State.keepApply_ev {z : State} (s : State) (q : Packet) (hs : z.Evolves s) : z.Evolves (State.keepApply s q).2 := by
  unfold State.keepApply
  refine .ite_snd (State.pairRx_ev _ _ hs) (.ite_snd (State.pairReplyRx_ev _ _ hs) (.ite_snd (State.pageRx_ev _ _ hs) (.ite_snd (State.recordRx_ev _ _ hs)
    (.ite_snd (State.sealRx_ev _ _ hs) (.ite_snd (State.journalRx_ev _ _ hs) (.ite_snd (State.deltaRx_ev _ _ hs) (.ite_snd (State.fetchRx_ev _ _ hs)
    (.ite_snd (State.rebuildRx_ev _ _ hs) (.ite_snd (State.resyncRx_ev _ _ hs) hs)))))))))

theorem State.keepAnswer_ev {z : State} (s : State) (q : Packet) (hs : z.Evolves s) : z.Evolves (State.keepAnswer s q) := by
  unfold State.keepAnswer
  extract_lets +onlyGivenNames r_0
  have hr_0 : z.Evolves r_0.2 := by
    unfold r_0
    apply State.keepApply_ev; exact hs
  clear_value r_0
  split
  · apply State.respond_ev; apply State.orderStep_ev; exact hr_0
  · apply State.refuse_ev; exact hr_0

theorem State.keepUnpark_ev {z : State} (y0 : Nat) (y1 : State) (hy1 : z.Evolves y1) : z.Evolves (State.keepUnpark y0 y1) := by
  induction y0 generalizing y1 with
  | zero => exact hy1
  | succ n ih =>
    unfold State.keepUnpark
    split
    · exact hy1
    · exact ih _ (State.keepAnswer_ev _ _ (hy1.mk_same rfl rfl rfl rfl))

theorem State.keepIn_ev {z : State} (s : State) (port : Nat) (q : Packet) (hs : z.Evolves s) : z.Evolves (State.keepIn s port q) := by
  unfold State.keepIn
  split
  · split
    · apply State.pmc_ev; apply State.count_ev
      refine State.Evolves.mk_same ?_ rfl rfl rfl rfl
      exact hs
    · apply State.refuse_ev; exact hs
  · extract_lets +onlyGivenNames t_0
    have ht_0 : z.Evolves t_0 := by
      unfold t_0
      apply State.keepAnswer_ev; exact hs
    clear_value t_0
    apply State.keepUnpark_ev; exact ht_0

theorem keepRow_ev {z : State} (p : Nat) (pkt : Packet) (mine : Bool) (s : State) (hs : z.Evolves s) : Later z (keepRow p pkt mine s) := by
  unfold keepRow
  split
  · refine Later.occurs ?_ ?_
    · exact hs
    · exact hs
  · extract_lets +onlyGivenNames r_0
    have hr_0 : z.Evolves r_0.2.2 := by
      unfold r_0
      apply State.inspect_ev
      refine State.Evolves.of_some (by assumption) ?_
      refine LaterO.bind ?_ ?_
      · apply State.takeRx_ev; exact hs
      · intro v1 v2
        apply State.toHub_ev; with_reducible assumption
    clear_value r_0
    refine Later.occurs ?_ ?_
    · exact hs
    · apply State.drainPump_ev
      split
      · apply State.refuse_ev; apply State.countTag_ev; exact hr_0
      · apply State.keepIn_ev; exact hr_0

theorem execPair_ev {z : State} (p : Nat) (pkt : Packet) (s : State) (hs : z.Evolves s) : Later z (execPair p pkt s) := by
  unfold execPair
  apply keepRow_ev; exact hs

theorem execPairReply_ev {z : State} (p : Nat) (pkt : Packet) (s : State) (hs : z.Evolves s) : Later z (execPairReply p pkt s) := by
  unfold execPairReply
  apply keepRow_ev; exact hs

theorem execPage_ev {z : State} (p : Nat) (pkt : Packet) (s : State) (hs : z.Evolves s) : Later z (execPage p pkt s) := by
  unfold execPage
  apply keepRow_ev; exact hs

theorem execRecord_ev {z : State} (p : Nat) (pkt : Packet) (s : State) (hs : z.Evolves s) : Later z (execRecord p pkt s) := by
  unfold execRecord
  apply keepRow_ev; exact hs

theorem execSeal_ev {z : State} (p : Nat) (pkt : Packet) (s : State) (hs : z.Evolves s) : Later z (execSeal p pkt s) := by
  unfold execSeal
  apply keepRow_ev; exact hs

theorem execJournal_ev {z : State} (p : Nat) (pkt : Packet) (s : State) (hs : z.Evolves s) : Later z (execJournal p pkt s) := by
  unfold execJournal
  apply keepRow_ev; exact hs

theorem execDelta_ev {z : State} (p : Nat) (pkt : Packet) (s : State) (hs : z.Evolves s) : Later z (execDelta p pkt s) := by
  unfold execDelta
  split
  · refine Later.occurs ?_ ?_
    · exact hs
    · apply State.raise_ev; exact hs
  · apply keepRow_ev; exact hs

theorem execFetch_ev {z : State} (p : Nat) (pkt : Packet) (s : State) (hs : z.Evolves s) : Later z (execFetch p pkt s) := by
  unfold execFetch
  apply keepRow_ev; exact hs

theorem execRebuild_ev {z : State} (p : Nat) (pkt : Packet) (s : State) (hs : z.Evolves s) : Later z (execRebuild p pkt s) := by
  unfold execRebuild
  apply keepRow_ev; exact hs

theorem execResync_ev {z : State} (p : Nat) (pkt : Packet) (s : State) (hs : z.Evolves s) : Later z (execResync p pkt s) := by
  unfold execResync
  apply keepRow_ev; exact hs

theorem State.ripenBegin_ev {z : State} (s : State) (d : Bytes) (hs : z.Evolves s) : z.Evolves (State.ripenBegin s d) := by
  unfold State.ripenBegin
  extract_lets +onlyGivenNames c_0
  extract_lets +onlyGivenNames g_1
  extract_lets +onlyGivenNames pos_2
  extract_lets +onlyGivenNames units_3
  extract_lets +onlyGivenNames r_4
  extract_lets +onlyGivenNames t_5
  extract_lets +onlyGivenNames t_6
  have ht_6 : z.Evolves t_6 := by
    unfold t_6
    apply State.wr_ev; apply State.wr_ev; apply State.fs_ev
    refine State.Evolves.mk_same ?_ rfl rfl rfl rfl
    exact hs
  clear_value t_6
  apply State.askUnits_ev; apply State.askFrame_ev; exact ht_6

theorem State.standIn_ev {z : State} (s : State) (q : Packet) (hs : z.Evolves s) : z.Evolves (State.standIn s q) := by
  unfold State.standIn
  extract_lets +onlyGivenNames c_0
  split
  · apply State.count_ev; exact hs
  · split
    · apply State.log_ev; apply State.count_ev; exact hs
    · apply State.rxCount_ev; apply State.ripenBegin_ev; exact hs

theorem mgmtRow_ev {z : State} (p : Nat) (pkt : Packet) (mine : Bool) (f : State → Packet → State) (s : State) (hs : z.Evolves s) (hf : ∀ y0 y1, z.Evolves y0 → z.Evolves (f y0 y1)) : Later z (mgmtRow p pkt mine f s) := by
  unfold mgmtRow
  split
  · refine Later.occurs ?_ ?_
    · exact hs
    · exact hs
  · extract_lets +onlyGivenNames r_0
    have hr_0 : z.Evolves r_0.2.2 := by
      unfold r_0
      apply State.inspect_ev
      refine State.Evolves.of_some (by assumption) ?_
      refine LaterO.bind ?_ ?_
      · apply State.takeRx_ev; exact hs
      · intro v1 v2
        apply State.toHub_ev; with_reducible assumption
    clear_value r_0
    refine Later.occurs ?_ ?_
    · exact hs
    · apply State.drainPump_ev
      split
      · apply hf; exact hr_0
      · apply State.dropPkt_ev; exact hr_0

theorem execStandInOrder_ev {z : State} (p : Nat) (pkt : Packet) (s : State) (hs : z.Evolves s) : Later z (execStandInOrder p pkt s) := by
  unfold execStandInOrder
  apply mgmtRow_ev
  · exact hs
  · intro v0 v1 v2
    apply State.standIn_ev; with_reducible assumption

theorem execRipeningDone_ev {z : State} (s : State) (hs : z.Evolves s) : Later z (execRipeningDone s) := by
  unfold execRipeningDone
  split
  · refine Later.occurs ?_ ?_
    · exact hs
    · apply State.fs_ev; exact hs
  · refine Later.next ?_
    exact hs

theorem execKpuClearCounts_ev {z : State} (port : Nat) (s : State) (hs : z.Evolves s) : Later z (execKpuClearCounts port s) := by
  unfold execKpuClearCounts
  refine Later.occurs ?_ ?_
  · exact hs
  · apply State.zeroRegs_ev; exact hs

theorem execKpuFullNext_ev {z : State} (port : Nat) (s : State) (hs : z.Evolves s) : Later z (execKpuFullNext port s) := by
  unfold execKpuFullNext
  refine Later.occurs ?_ ?_
  · exact hs
  · apply State.fs_ev; exact hs

theorem execEruClearCounts_ev {z : State} (port : Nat) (s : State) (hs : z.Evolves s) : Later z (execEruClearCounts port s) := by
  unfold execEruClearCounts
  refine Later.occurs ?_ ?_
  · exact hs
  · apply State.zeroRegs_ev; exact hs

end Machine
end Sys2Proof
end

