-- ==== Sys2Proof/Laws/EvolveEdge.lean ====
section
/-!
SUPPORT. The operations of the Rind, the SGU, the register window, the Hauno cores, the remaining units and idling lead to later states (`State.Evolves`): one lemma for each.
-/
namespace Sys2Proof
namespace Machine
set_option Elab.async false

theorem State.setMbox_ev {z : State} (s : State) (port : Nat) (m : Mbox) (hs : z.Evolves s) : z.Evolves (State.setMbox s port m) := by
  unfold State.setMbox
  extract_lets +onlyGivenNames k_0
  apply State.fs_ev; apply State.fs_ev
  refine State.Evolves.mk_same ?_ rfl rfl rfl rfl
  exact hs

theorem State.setMboxState_ev {z : State} (s : State) (port n : Nat) (hs : z.Evolves s) : z.Evolves (State.setMboxState s port n) := by
  unfold State.setMboxState
  apply State.fs_ev; exact hs

theorem State.mboxStray_ev {z : State} (s : State) (port : Nat) (hs : z.Evolves s) : z.Evolves (State.mboxStray s port) := by
  unfold State.mboxStray
  apply State.raise_ev; exact hs

theorem execMboxBegin_ev {z : State} (port : Nat) (s : State) (hs : z.Evolves s) : Later z (execMboxBegin port s) := by
  unfold execMboxBegin
  refine Later.occurs ?_ ?_
  · exact hs
  · apply State.setMboxState_ev; apply State.setMbox_ev; exact hs

theorem State.mboxIn_ev {z : State} (s : State) (port size : Nat) (words : List Word) (hs : z.Evolves s) : z.Evolves (State.mboxIn s port size words) := by
  unfold State.mboxIn
  extract_lets +onlyGivenNames m_0
  extract_lets +onlyGivenNames l_1
  extract_lets +onlyGivenNames t_2
  have ht_2 : z.Evolves t_2 := by
    unfold t_2
    apply State.setMbox_ev; exact hs
  clear_value t_2
  split
  · apply State.mboxStray_ev; exact ht_2
  · exact ht_2

theorem execMboxInWrite_ev {z : State} (port size : Nat) (words : List Word) (s : State) (hs : z.Evolves s) : Later z (execMboxInWrite port size words s) := by
  unfold execMboxInWrite
  refine Later.occurs ?_ ?_
  · exact hs
  · apply State.mboxIn_ev; exact hs

theorem execMboxCommit_ev {z : State} (port : Nat) (s : State) (hs : z.Evolves s) : Later z (execMboxCommit port s) := by
  unfold execMboxCommit
  refine Later.occurs ?_ ?_
  · exact hs
  · split
    · apply State.mboxStray_ev; exact hs
    · apply State.setMboxState_ev
      refine State.Evolves.mk_same ?_ rfl rfl rfl rfl
      exact hs

theorem execMboxAbort_ev {z : State} (port : Nat) (s : State) (hs : z.Evolves s) : Later z (execMboxAbort port s) := by
  unfold execMboxAbort
  refine Later.occurs ?_ ?_
  · exact hs
  · apply State.setMboxState_ev; apply State.setMbox_ev; exact hs

theorem State.mboxOut_ev {z : State} (s : State) (port : Nat) (hs : z.Evolves s) : z.Evolves (State.mboxOut s port) := by
  unfold State.mboxOut
  split
  · apply State.emit_ev; apply State.setMbox_ev; exact hs
  · apply State.emit_ev; exact hs

theorem execMboxOutRead_ev {z : State} (port : Nat) (s : State) (hs : z.Evolves s) : Later z (execMboxOutRead port s) := by
  unfold execMboxOutRead
  refine Later.occurs ?_ ?_
  · exact hs
  · apply State.mboxOut_ev; exact hs

theorem State.mboxAnswer_ev {z : State} (s : State) (port code : Nat) (data : Bytes) (hs : z.Evolves s) : z.Evolves (State.mboxAnswer s port code data) := by
  unfold State.mboxAnswer
  extract_lets +onlyGivenNames m_0
  extract_lets +onlyGivenNames body_1
  extract_lets +onlyGivenNames body_2
  extract_lets +onlyGivenNames r_3
  extract_lets +onlyGivenNames t_4
  have ht_4 : z.Evolves t_4 := by
    unfold t_4
    apply State.fs_ev; apply State.setMboxState_ev; apply State.setMbox_ev; exact hs
  clear_value t_4
  extract_lets +onlyGivenNames t_5
  extract_lets +onlyGivenNames t_6
  have ht_6 : z.Evolves t_6 := by
    unfold t_6
    refine State.Evolves.mk_same ?_ rfl rfl rfl rfl
    exact ht_4
  clear_value t_6
  split
  · exact ht_6
  · apply State.count_ev; exact ht_6

theorem mboxRow_ev {z : State} (port ty : Nat) (f : State → Bytes → Nat × Bytes × State) (s : State) (hs : z.Evolves s) (hf : ∀ y0 y1, z.Evolves y0 → z.Evolves (f y0 y1).2.2) : Later z (mboxRow port ty f s) := by
  unfold mboxRow
  refine Later.occurs ?_ ?_
  · exact hs
  · split
    · apply State.mboxAnswer_ev; exact hs
    · extract_lets +onlyGivenNames r_0
      have hr_0 : z.Evolves r_0.2.2 := by
        unfold r_0
        apply hf; exact hs
      clear_value r_0
      apply State.mboxAnswer_ev; exact hr_0

theorem execMboxBadMessage_ev {z : State} (port : Nat) (s : State) (hs : z.Evolves s) : Later z (execMboxBadMessage port s) := by
  unfold execMboxBadMessage
  refine Later.occurs ?_ ?_
  · exact hs
  · apply State.mboxAnswer_ev; exact hs

theorem State.reportChain_ev {z : State} (s : State) (nonce : Bytes) (hs : z.Evolves s) : LaterP z (State.reportChain s nonce) := by
  unfold State.reportChain
  split
  · refine LaterP.some ?_
    dsimp only
    refine State.Evolves.of_pair (by assumption) ?_
    apply State.report_ev; exact hs
  · exact LaterP.none

theorem execAttest_ev {z : State} (port : Nat) (s : State) (hs : z.Evolves s) : Later z (execAttest port s) := by
  unfold execAttest
  apply mboxRow_ev
  · exact hs
  · intro v0 v1 v2
    split
    · dsimp only
      refine State.Evolves.of_pair (by assumption) ?_
      apply State.reportChain_ev; with_reducible assumption
    · with_reducible assumption

theorem checked_ev {z : State} (l : List (Bool × Nat)) (s t : State) (data : Bytes) (hs : z.Evolves s) (ht : z.Evolves t) : z.Evolves (checked l s t data).2.2 := by
  unfold checked
  split
  · with_reducible assumption
  · with_reducible assumption

theorem ruled_ev {z : State} (l : List (Bool × Nat)) (s t : State) (data : Bytes) (hs : z.Evolves s) (ht : z.Evolves t) : z.Evolves (ruled l s t data).2.2 := by
  unfold ruled
  split
  · with_reducible assumption
  · with_reducible assumption

theorem State.showOwner_ev {z : State} (s : State) (id : Bytes) (hs : z.Evolves s) : z.Evolves (State.showOwner s id) := by
  unfold State.showOwner
  apply State.wr_ev; apply State.wr_ev; exact hs

theorem execOwnerEnrol_ev {z : State} (port : Nat) (s : State) (hs : z.Evolves s) : Later z (execOwnerEnrol port s) := by
  unfold execOwnerEnrol
  apply mboxRow_ev
  · exact hs
  · intro v0 v1 v2
    extract_lets +onlyGivenNames pub_3
    extract_lets +onlyGivenNames id_4
    apply checked_ev
    · with_reducible assumption
    · apply State.showOwner_ev; apply State.fs_ev; apply State.fs_ev
      refine State.Evolves.mk_same ?_ rfl rfl rfl rfl
      with_reducible assumption

theorem State.dropOwner_ev {z : State} (s : State) (hs : z.Evolves s) : z.Evolves (State.dropOwner s) := by
  unfold State.dropOwner
  apply State.showOwner_ev; apply State.fs_ev; apply State.fs_ev; apply State.fs_ev
  refine State.Evolves.mk_same ?_ rfl rfl rfl rfl
  exact hs

theorem execOwnerTransfer_ev {z : State} (port : Nat) (s : State) (hs : z.Evolves s) : Later z (execOwnerTransfer port s) := by
  unfold execOwnerTransfer
  apply mboxRow_ev
  · exact hs
  · intro t b ht
    extract_lets u w1 w2 v
    have hu := State.dropOwner_ev t ht
    have hv : z.Evolves v := hu.mk_any id id id (Nat.le_refl _) List.prefix_rfl (Nat.le_refl _) (Nat.le_refl _) (Nat.le_refl _) rfl (Nat.le_refl _)
      (show t.dropOwner.fuses.transfers ≤ t.fuses.transfers + 1 from Nat.le_succ_of_le (Nat.le_of_eq rfl))
    exact ruled_ev _ _ _ _ ht (State.wr_ev (State.fs_ev _ _ _ _ (State.fs_ev _ _ _ _ hv)) _ _)

theorem execKeyInstall_ev {z : State} (port : Nat) (s : State) (hs : z.Evolves s) : Later z (execKeyInstall port s) := by
  unfold execKeyInstall
  apply mboxRow_ev
  · exact hs
  · intro v0 v1 v2
    extract_lets +onlyGivenNames kind_3
    extract_lets +onlyGivenNames ordered_4
    have hordered_4 : ∀ a0, z.Evolves a0 → z.Evolves (ordered_4 a0) := by
      unfold ordered_4
      intro v5 v6
      refine State.Evolves.mk_same ?_ rfl rfl rfl rfl
      with_reducible assumption
    clear_value ordered_4
    split
    · split
      · dsimp only
        apply hordered_4; apply State.fs_ev
        refine State.Evolves.mk_same ?_ rfl rfl rfl rfl
        with_reducible assumption
      · split
        · dsimp only
          apply hordered_4; apply State.fs_ev
          refine State.Evolves.mk_same ?_ rfl rfl rfl rfl
          with_reducible assumption
        · with_reducible assumption
    · with_reducible assumption

theorem State.chanSet_ev {z : State} (s : State) (ch : Nat) (km : Bytes) (hs : z.Evolves s) : z.Evolves (State.chanSet s ch km) := by
  unfold State.chanSet
  extract_lets +onlyGivenNames ports_0
  extract_lets +onlyGivenNames was_1
  extract_lets +onlyGivenNames t_2
  extract_lets +onlyGivenNames t_3
  have ht_3 : z.Evolves t_3 := by
    unfold t_3
    refine State.Evolves.mk_same ?_ rfl rfl rfl rfl
    exact hs
  clear_value t_3
  extract_lets +onlyGivenNames u_4
  have hu_4 : z.Evolves u_4 := by
    unfold u_4
    split
    · refine State.Evolves.foldl ?_ ?_
      · exact ht_3
      · intro v5 v6 v7
        apply State.setPlain_ev; apply State.setStaging_ev; with_reducible assumption
    · exact ht_3
  clear_value u_4
  apply State.streamNotify_ev
  · exact hs
  · refine State.Evolves.foldl ?_ ?_
    · exact hu_4
    · intro v8 v9 v10
      split
      · split
        · apply State.fillOut_ev; with_reducible assumption
        · with_reducible assumption
      · with_reducible assumption

theorem execChanOpen_ev {z : State} (port : Nat) (s : State) (hs : z.Evolves s) : Later z (execChanOpen port s) := by
  unfold execChanOpen
  apply mboxRow_ev
  · exact hs
  · intro v0 v1 v2
    split
    · extract_lets +onlyGivenNames k_3
      have hk_3 : z.Evolves k_3.2 := by
        unfold k_3
        apply State.scalar_ev; with_reducible assumption
      clear_value k_3
      extract_lets +onlyGivenNames eph_4
      extract_lets +onlyGivenNames nonce_5
      split
      · dsimp only
        apply State.chanSet_ev
        refine State.Evolves.of_pair (by assumption) ?_
        apply State.reportChain_ev; exact hk_3
      · with_reducible assumption
    · with_reducible assumption

theorem execChanClose_ev {z : State} (port : Nat) (s : State) (hs : z.Evolves s) : Later z (execChanClose port s) := by
  unfold execChanClose
  apply mboxRow_ev
  · exact hs
  · intro v0 v1 v2
    split
    · with_reducible assumption
    · split
      · dsimp only
        apply State.streamNotify_ev
        · with_reducible assumption
        · refine State.Evolves.mk_same ?_ rfl rfl rfl rfl
          with_reducible assumption
      · with_reducible assumption

theorem execChanStatus_ev {z : State} (port : Nat) (s : State) (hs : z.Evolves s) : Later z (execChanStatus port s) := by
  unfold execChanStatus
  apply mboxRow_ev
  · exact hs
  · intro v0 v1 v2
    with_reducible assumption

theorem State.debugUnlock_ev {z : State} (s : State) (hs : z.Evolves s) : z.Evolves (State.debugUnlock s) := by
  unfold State.debugUnlock
  extract_lets w1 t w2 w3 w4 u v
  have ht : z.Evolves t := State.fs_ev _ _ _ _ (hs.mk_same rfl rfl rfl rfl)
  have hd := State.dropOwner_ev t ht
  have hu : z.Evolves u := hd.mk_any id (fun e => rising_filter (show rising t.far from e) _) id (Nat.le_refl _) List.prefix_rfl (Nat.le_refl _) (Nat.le_refl _) (Nat.le_refl _) rfl
    (Nat.le_refl _) (Nat.le_refl _)
  have hv : z.Evolves v := hu.foldl fun w p hw => by
    split
    · exact State.spDown_ev _ _ _ hw
    · exact hw
  apply State.fs_ev
  split
  · exact State.setState_ev _ _ hv
  · exact hv

theorem execDebugUnlock_ev {z : State} (port : Nat) (s : State) (hs : z.Evolves s) : Later z (execDebugUnlock port s) := by
  unfold execDebugUnlock
  apply mboxRow_ev
  · exact hs
  · intro v0 v1 v2
    extract_lets +onlyGivenNames d_3
    apply checked_ev
    · with_reducible assumption
    · apply State.debugUnlock_ev; with_reducible assumption

theorem execFwBegin_ev {z : State} (port : Nat) (s : State) (hs : z.Evolves s) : Later z (execFwBegin port s) := by
  unfold execFwBegin
  apply mboxRow_ev
  · exact hs
  · intro v0 v1 v2
    extract_lets +onlyGivenNames r_3
    have hr_3 : z.Evolves r_3.2 := by
      unfold r_3
      apply State.fwOpen_ev; with_reducible assumption
    clear_value r_3
    with_reducible assumption

theorem execFwData_ev {z : State} (port : Nat) (s : State) (hs : z.Evolves s) : Later z (execFwData port s) := by
  unfold execFwData
  apply mboxRow_ev
  · exact hs
  · intro v0 v1 v2
    extract_lets +onlyGivenNames r_3
    have hr_3 : z.Evolves r_3.2 := by
      unfold r_3
      apply State.fwPiece_ev; with_reducible assumption
    clear_value r_3
    with_reducible assumption

theorem execFwEnd_ev {z : State} (port : Nat) (s : State) (hs : z.Evolves s) : Later z (execFwEnd port s) := by
  unfold execFwEnd
  apply mboxRow_ev
  · exact hs
  · intro v0 v1 v2
    extract_lets +onlyGivenNames r_3
    have hr_3 : z.Evolves r_3.2 := by
      unfold r_3
      apply State.fwClose_ev; with_reducible assumption
    clear_value r_3
    with_reducible assumption

theorem execRindClearCounts_ev {z : State} (port : Nat) (s : State) (hs : z.Evolves s) : Later z (execRindClearCounts port s) := by
  unfold execRindClearCounts
  refine Later.occurs ?_ ?_
  · exact hs
  · apply State.zeroRegs_ev; exact hs

theorem execMgmt_ev {z : State} (p : Nat) (pkt : Packet) (s : State) (hs : z.Evolves s) : Later z (execMgmt p pkt s) := by
  unfold execMgmt
  apply mgmtRow_ev
  · exact hs
  · intro v0 v1 v2
    apply State.rxCount_ev; with_reducible assumption

theorem execTeardownPacket_ev {z : State} (p : Nat) (pkt : Packet) (s : State) (hs : z.Evolves s) : Later z (execTeardownPacket p pkt s) := by
  unfold execTeardownPacket
  split
  · refine Later.occurs ?_ ?_
    · exact hs
    · exact hs
  · extract_lets +onlyGivenNames r_0
    have hr_0 : z.Evolves r_0.2.2 := by
      unfold r_0
      apply State.inspect_ev
      refine State.Evolves.of_some (by assumption) ?_
      refine LaterO.bind ?_ ?_
      · apply State.takeRx_ev; exact hs
      · intro v1 v2
        apply State.toHub_ev; with_reducible assumption
    clear_value r_0
    refine Later.occurs ?_ ?_
    · exact hs
    · apply State.drainPump_ev
      split
      · apply State.dropPkt_ev; exact hr_0
      · split
        · apply State.rxCount_ev; apply State.teardownKey_ev; exact hr_0
        · apply State.count_ev; exact hr_0

theorem State.putKey_ev {z : State} (s : State) (id : Nat) (k : Bytes) (hs : z.Evolves s) : z.Evolves (State.putKey s id k) := by
  unfold State.putKey
  split
  · refine State.Evolves.mk_same ?_ rfl rfl rfl rfl
    exact hs
  · refine State.Evolves.mk_same ?_ rfl rfl rfl rfl
    exact hs

theorem State.keyFull_ev {z : State} (s : State) (id : Nat) (hs : z.Evolves s) : z.Evolves (State.keyFull s id) := by
  unfold State.keyFull
  apply State.log_ev; apply State.count_ev; exact hs

theorem State.sendMgmt_ev {z : State} (s : State) (dest kind : Nat) (d : Bytes) (hs : z.Evolves s) : z.Evolves (State.sendMgmt s dest kind d) := by
  unfold State.sendMgmt
  apply State.issue_ev; exact hs

theorem State.keyLead_ev {z : State} (s : State) (q : Packet) (hs : z.Evolves s) : z.Evolves (State.keyLead s q) := by
  unfold State.keyLead
  extract_lets +onlyGivenNames id_0
  extract_lets +onlyGivenNames devs_1
  split
  · apply State.count_ev; exact hs
  · split
    · apply State.keyFull_ev; exact hs
    · extract_lets +onlyGivenNames t_2
      have ht_2 : z.Evolves t_2.2 := by
        unfold t_2
        apply State.random_ev; exact hs
      clear_value t_2
      extract_lets +onlyGivenNames t_3
      have ht_3 : z.Evolves t_3 := by
        unfold t_3
        split
        · exact hs
        · apply State.putKey_ev; exact ht_2
      clear_value t_3
      extract_lets +onlyGivenNames l_4
      apply State.rxCount_ev
      refine State.Evolves.mk_same ?_ rfl rfl rfl rfl
      exact ht_3

theorem execKeyLead_ev {z : State} (p : Nat) (pkt : Packet) (s : State) (hs : z.Evolves s) : Later z (execKeyLead p pkt s) := by
  unfold execKeyLead
  apply mgmtRow_ev
  · exact hs
  · intro v0 v1 v2
    apply State.keyLead_ev; with_reducible assumption

theorem State.sendKreq_ev {z : State} (s : State) (id leader eph : Nat) (hs : z.Evolves s) : z.Evolves (State.sendKreq s id leader eph) := by
  unfold State.sendKreq
  extract_lets +onlyGivenNames pub_0
  split
  · apply State.sendMgmt_ev
    refine State.Evolves.of_pair (by assumption) ?_
    apply State.reportChain_ev; exact hs
  · exact hs

theorem State.keyFetch_ev {z : State} (s : State) (q : Packet) (hs : z.Evolves s) : z.Evolves (State.keyFetch s q) := by
  unfold State.keyFetch
  extract_lets +onlyGivenNames id_0
  extract_lets +onlyGivenNames leader_1
  split
  · apply State.count_ev; exact hs
  · split
    · apply State.keyFull_ev; exact hs
    · extract_lets +onlyGivenNames eph_2
      extract_lets +onlyGivenNames t_3
      have ht_3 : z.Evolves t_3 := by
        unfold t_3
        apply State.scalar_ev; exact hs
      clear_value t_3
      apply State.rxCount_ev; apply State.sendKreq_ev
      refine State.Evolves.mk_same ?_ rfl rfl rfl rfl
      exact ht_3

theorem execKeyFetch_ev {z : State} (p : Nat) (pkt : Packet) (s : State) (hs : z.Evolves s) : Later z (execKeyFetch p pkt s) := by
  unfold execKeyFetch
  apply mgmtRow_ev
  · exact hs
  · intro v0 v1 v2
    apply State.keyFetch_ev; with_reducible assumption

theorem State.kreqRetry_ev {z : State} (s : State) (id : Nat) (f : Nat × Nat × Nat × Nat) (hs : z.Evolves s) : z.Evolves (State.kreqRetry s id f) := by
  unfold State.kreqRetry
  split
  · extract_lets +onlyGivenNames t_0
    have ht_0 : z.Evolves t_0 := by
      unfold t_0
      apply State.runTo_ev; exact hs
    clear_value t_0
    apply State.log_ev
    refine State.Evolves.mk_same ?_ rfl rfl rfl rfl
    exact ht_0
  · extract_lets +onlyGivenNames t_1
    have ht_1 : z.Evolves t_1 := by
      unfold t_1
      apply State.runTo_ev; exact hs
    clear_value t_1
    apply State.sendKreq_ev
    refine State.Evolves.mk_same ?_ rfl rfl rfl rfl
    exact ht_1

theorem execKreqRetry_ev {z : State} (key : Nat) (s : State) (hs : z.Evolves s) : Later z (execKreqRetry key s) := by
  unfold execKreqRetry
  split
  · refine Later.next ?_
    apply State.kreqRetry_ev; exact hs
  · refine Later.next ?_
    exact hs

theorem State.keyDrop_ev {z : State} (s : State) (q : Packet) (hs : z.Evolves s) : z.Evolves (State.keyDrop s q) := by
  unfold State.keyDrop
  extract_lets +onlyGivenNames id_0
  split
  · apply State.count_ev; exact hs
  · split
    · apply State.log_ev; apply State.count_ev; exact hs
    · extract_lets +onlyGivenNames k_1
      apply State.rxCount_ev
      refine State.Evolves.mk_same ?_ rfl rfl rfl rfl
      exact hs

theorem execKeyDrop_ev {z : State} (p : Nat) (pkt : Packet) (s : State) (hs : z.Evolves s) : Later z (execKeyDrop p pkt s) := by
  unfold execKeyDrop
  apply mgmtRow_ev
  · exact hs
  · intro v0 v1 v2
    apply State.keyDrop_ev; with_reducible assumption

theorem State.krespOk_ev {z : State} (s : State) (q : Packet) (boot : Nat) (hs : z.Evolves s) : LaterO z (State.krespOk s q boot) := by
  unfold State.krespOk
  extract_lets +onlyGivenNames d_0
  extract_lets +onlyGivenNames id_1
  extract_lets +onlyGivenNames k_2
  have hk_2 : z.Evolves k_2.2 := by
    unfold k_2
    apply State.scalar_ev; exact hs
  clear_value k_2
  extract_lets +onlyGivenNames eph_3
  extract_lets +onlyGivenNames nonce_4
  split
  · extract_lets +onlyGivenNames n_5
    have hn_5 : z.Evolves n_5.2 := by
      unfold n_5
      apply State.random_ev
      refine State.Evolves.of_pair (by assumption) ?_
      apply State.reportChain_ev; exact hk_2
    clear_value n_5
    extract_lets +onlyGivenNames w_6
    extract_lets +onlyGivenNames l_7
    extract_lets +onlyGivenNames t_8
    have ht_8 : z.Evolves t_8 := by
      unfold t_8
      exact hn_5
    clear_value t_8
    extract_lets +onlyGivenNames t_9
    extract_lets +onlyGivenNames t_10
    have ht_10 : z.Evolves t_10 := by
      unfold t_10
      refine State.Evolves.mk_same ?_ rfl rfl rfl rfl
      exact ht_8
    clear_value t_10
    refine LaterO.some ?_
    apply State.sendMgmt_ev; exact ht_10
  · exact LaterO.none

theorem State.kreqRx_ev {z : State} (s : State) (q : Packet) (hs : z.Evolves s) : z.Evolves (State.kreqRx s q) := by
  unfold State.kreqRx
  extract_lets +onlyGivenNames c_0
  extract_lets +onlyGivenNames no_1
  have hno_1 : ∀ a0, z.Evolves (no_1 a0) := by
    unfold no_1
    intro v2
    apply State.sendMgmt_ev; apply State.count_ev; exact hs
  clear_value no_1
  apply State.rxCount_ev
  split
  · apply hno_1
  · refine LaterO.getD ?_ ?_
    · apply State.krespOk_ev; exact hs
    · apply hno_1

theorem execKreq_ev {z : State} (p : Nat) (pkt : Packet) (s : State) (hs : z.Evolves s) : Later z (execKreq p pkt s) := by
  unfold execKreq
  apply mgmtRow_ev
  · exact hs
  · intro v0 v1 v2
    apply State.kreqRx_ev; with_reducible assumption

theorem State.fetchEnds_ev {z : State} (s : State) (id code : Nat) (hs : z.Evolves s) : z.Evolves (State.fetchEnds s id code) := by
  unfold State.fetchEnds
  extract_lets +onlyGivenNames t_0
  extract_lets +onlyGivenNames t_1
  have ht_1 : z.Evolves t_1 := by
    unfold t_1
    refine State.Evolves.mk_same ?_ rfl rfl rfl rfl
    exact hs
  clear_value t_1
  split
  · exact ht_1
  · apply State.log_ev; exact ht_1

theorem State.krespRx_ev {z : State} (s : State) (q : Packet) (hs : z.Evolves s) : z.Evolves (State.krespRx s q) := by
  unfold State.krespRx
  extract_lets +onlyGivenNames d_0
  extract_lets +onlyGivenNames id_1
  split
  · apply State.count_ev; exact hs
  · split
    · apply State.count_ev; exact hs
    · split
      · apply State.rxCount_ev; apply State.fetchEnds_ev; exact hs
      · extract_lets +onlyGivenNames nonce_2
        extract_lets +onlyGivenNames rc_3
        extract_lets +onlyGivenNames c_4
        extract_lets +onlyGivenNames key_5
        apply State.rxCount_ev
        split
        · split
          · apply State.fetchEnds_ev; apply State.putKey_ev; exact hs
          · apply State.fetchEnds_ev; exact hs
        · apply State.fetchEnds_ev; exact hs
        · apply State.fetchEnds_ev; exact hs

theorem execKresp_ev {z : State} (p : Nat) (pkt : Packet) (s : State) (hs : z.Evolves s) : Later z (execKresp p pkt s) := by
  unfold execKresp
  apply mgmtRow_ev
  · exact hs
  · intro v0 v1 v2
    apply State.krespRx_ev; with_reducible assumption

theorem State.sguTake_ev {z : State} (s : State) (r : Rec) (hs : z.Evolves s) : z.Evolves (State.sguTake s r) := by
  unfold State.sguTake
  extract_lets +onlyGivenNames w_0
  refine State.Evolves.mk_same ?_ rfl rfl rfl rfl
  exact hs

theorem State.sguDone_ev {z : State} (s : State) (c slot : Nat) (gap : Bool) (x : SguSlot) (hs : z.Evolves s) : z.Evolves (State.sguDone s c slot gap x) := by
  unfold State.sguDone
  extract_lets +onlyGivenNames t_0
  have ht_0 : z.Evolves t_0 := by
    unfold t_0
    apply State.pmc_ev; apply State.fsat_ev; exact hs
  clear_value t_0
  extract_lets +onlyGivenNames u_1
  have hu_1 : z.Evolves u_1 := by
    unfold u_1
    split
    · apply State.fsat_ev; exact ht_0
    · exact ht_0
  clear_value u_1
  refine State.Evolves.mk_same ?_ rfl rfl rfl rfl
  exact hu_1

theorem State.sguDrop_ev {z : State} (s : State) (c : Nat) (r : Rec) (hs : z.Evolves s) : z.Evolves (State.sguDrop s c r) := by
  unfold State.sguDrop
  apply State.fsat_ev; apply State.sguTake_ev; exact hs

theorem State.sguAnalyse_ev {z : State} (s : State) (c : Nat) (r tab : Rec) (hs : z.Evolves s) : z.Evolves (State.sguAnalyse s c r tab) := by
  unfold State.sguAnalyse
  extract_lets +onlyGivenNames h_0
  extract_lets +onlyGivenNames k_1
  extract_lets +onlyGivenNames x_2
  extract_lets +onlyGivenNames f_3
  extract_lets +onlyGivenNames id_4
  extract_lets +onlyGivenNames p_5
  extract_lets +onlyGivenNames t_6
  have ht_6 : z.Evolves t_6 := by
    unfold t_6
    apply State.sguDone_ev; apply State.sguTake_ev; apply State.chargeAll_ev; exact hs
  clear_value t_6
  extract_lets +onlyGivenNames t_7
  have ht_7 : z.Evolves t_7 := by
    unfold t_7
    refine State.Evolves.foldl ?_ ?_
    · exact ht_6
    · intro v8 v9 v10
      apply State.linkSend_ev; with_reducible assumption
  clear_value t_7
  split
  · apply State.ringFill_ev; apply State.sramWrite_ev; exact ht_7
  · exact ht_7

theorem State.sguSynth_ev {z : State} (s : State) (c : Nat) (r tab : Rec) (hs : z.Evolves s) : z.Evolves (State.sguSynth s c r tab) := by
  unfold State.sguSynth
  extract_lets +onlyGivenNames h_0
  extract_lets +onlyGivenNames k_1
  extract_lets +onlyGivenNames us_2
  extract_lets +onlyGivenNames b_3
  extract_lets +onlyGivenNames t_4
  have ht_4 : z.Evolves t_4 := by
    unfold t_4
    apply State.sguDone_ev; apply State.sguTake_ev; exact hs
  clear_value t_4
  extract_lets +onlyGivenNames v_5
  have hv_5 : z.Evolves v_5.2 := by
    unfold v_5
    apply State.fillFree_ev; exact ht_4
  clear_value v_5
  extract_lets +onlyGivenNames head_6
  apply State.putOut_ev; exact hv_5

theorem State.sguServed_ev {z : State} (s : State) (c : Nat) (hs : z.Evolves s) : z.Evolves (State.sguServed s c) := by
  unfold State.sguServed
  refine State.Evolves.mk_same ?_ rfl rfl rfl rfl
  exact hs

theorem execSguAnalysisFrame_ev {z : State} (chan : Nat) (s : State) (hs : z.Evolves s) : Later z (execSguAnalysisFrame chan s) := by
  unfold execSguAnalysisFrame
  extract_lets +onlyGivenNames r_0
  refine Later.occurs ?_ ?_
  · exact hs
  · apply State.streamNotify_ev
    · exact hs
    · apply State.sguServed_ev
      split
      · apply State.sguDrop_ev; exact hs
      · apply State.sguAnalyse_ev; exact hs

theorem execSguSynthesisFrame_ev {z : State} (chan : Nat) (s : State) (hs : z.Evolves s) : Later z (execSguSynthesisFrame chan s) := by
  unfold execSguSynthesisFrame
  extract_lets +onlyGivenNames r_0
  refine Later.occurs ?_ ?_
  · exact hs
  · apply State.streamNotify_ev
    · exact hs
    · apply State.sguServed_ev
      split
      · apply State.sguDrop_ev; exact hs
      · apply State.sguSynth_ev; exact hs

theorem State.sguClear_ev {z : State} (s : State) (hs : z.Evolves s) : z.Evolves (State.sguClear s) := by
  unfold State.sguClear
  refine State.Evolves.foldl ?_ ?_
  · exact hs
  · intro v0 v1 v2
    apply State.fs_ev; apply State.fs_ev; apply State.fs_ev; with_reducible assumption

theorem execSguClearCounts_ev {z : State} (port : Nat) (s : State) (hs : z.Evolves s) : Later z (execSguClearCounts port s) := by
  unfold execSguClearCounts
  refine Later.occurs ?_ ?_
  · exact hs
  · apply State.sguClear_ev; exact hs

theorem State.regMerge_ev {z : State} (s : State) (key m d : Nat) (hs : z.Evolves s) : z.Evolves (State.regMerge s key m d) := by
  unfold State.regMerge
  split
  · extract_lets +onlyGivenNames old_0
    extract_lets +onlyGivenNames new_1
    split
    · exact hs
    · apply State.wr_ev; exact hs
  · exact hs

theorem stateAfter_ev {z : State} (a : Answer) (s : State) (hs : z.Evolves s) (ha : Later z a) : z.Evolves (stateAfter a s) := by
  unfold stateAfter
  split
  · exact ha _ rfl
  · exact hs

theorem State.onBit_ev {z : State} (s : State) (m d bitNo : Nat) (f : State → Answer) (hs : z.Evolves s) (hf : ∀ y0, z.Evolves y0 → Later z (f y0)) : z.Evolves (State.onBit s m d bitNo f) := by
  unfold State.onBit
  split
  · apply stateAfter_ev
    · exact hs
    · apply hf; exact hs
  · exact hs

theorem State.pushOp_ev {z : State} (s : State) (port v : Nat) (hs : z.Evolves s) : z.Evolves (State.pushOp s port v) := by
  unfold State.pushOp
  extract_lets +onlyGivenNames op_0
  extract_lets +onlyGivenNames tag_1
  extract_lets +onlyGivenNames f_2
  apply stateAfter_ev
  · exact hs
  · unfold f_2
    clear_value tag_1
    clear_value op_0
    split
    · apply execCmdNop_ev; exact hs
    · apply execStart_ev; exact hs
    · apply execStop_ev; exact hs
    · apply execTeardown_ev; exact hs
    · apply execApply_ev; exact hs
    · apply execSnapshotNow_ev; exact hs
    · apply execDieReset_ev; exact hs
    · apply execModuleReset_ev; exact hs
    · apply execTestEnter_ev; exact hs
    · apply execDumpOpen_ev; exact hs
    · apply execTokenNonce_ev; exact hs
    · apply execTokenClaim_ev; exact hs
    · apply execCmdUnknownOpcode_ev; exact hs

theorem State.hookGlobal_ev {z : State} (s : State) (port off m d : Nat) (hs : z.Evolves s) : z.Evolves (State.hookGlobal s port off m d) := by
  unfold State.hookGlobal
  split
  · apply State.onBit_ev
    · exact hs
    · intro v0 v1
      apply execClkClearLow_ev; with_reducible assumption
  · split
    · apply State.onBit_ev
      · exact hs
      · intro v2 v3
        apply execPinClearCounts_ev; with_reducible assumption
    · split
      · extract_lets +onlyGivenNames t_4
        have ht_4 : z.Evolves t_4 := by
          unfold t_4
          apply State.onBit_ev
          · exact hs
          · intro v5 v6
            apply execMboxBegin_ev; with_reducible assumption
        clear_value t_4
        extract_lets +onlyGivenNames u_7
        have hu_7 : z.Evolves u_7 := by
          unfold u_7
          split
          · exact ht_4
          · apply State.onBit_ev
            · exact ht_4
            · intro v8 v9
              apply execMboxCommit_ev; with_reducible assumption
        clear_value u_7
        apply State.onBit_ev
        · apply State.onBit_ev
          · exact hu_7
          · intro v10 v11
            apply execMboxAbort_ev; with_reducible assumption
        · intro v12 v13
          apply execRindClearCounts_ev; with_reducible assumption
      · split
        · extract_lets +onlyGivenNames t_14
          have ht_14 : z.Evolves t_14 := by
            unfold t_14
            apply State.onBit_ev
            · exact hs
            · intro v15 v16
              apply execImgBegin_ev; with_reducible assumption
          clear_value t_14
          extract_lets +onlyGivenNames u_17
          have hu_17 : z.Evolves u_17 := by
            unfold u_17
            split
            · exact ht_14
            · apply State.onBit_ev
              · exact ht_14
              · intro v18 v19
                apply execImgCommit_ev; with_reducible assumption
          clear_value u_17
          apply State.onBit_ev
          · exact hu_17
          · intro v20 v21
            apply execImgAbort_ev; with_reducible assumption
        · split
          · apply State.onBit_ev
            · exact hs
            · intro v22 v23
              apply execBudClearCounts_ev; with_reducible assumption
          · exact hs

theorem State.unmask_ev {z : State} (s : State) (port v : Nat) (hs : z.Evolves s) : z.Evolves (State.unmask s port v) := by
  unfold State.unmask
  extract_lets +onlyGivenNames k_0
  split
  · apply State.msixNow_ev; apply State.wr_ev; exact hs
  · exact hs

theorem State.hookHost_ev {z : State} (s : State) (port off m d : Nat) (hs : z.Evolves s) : z.Evolves (State.hookHost s port off m d) := by
  unfold State.hookHost
  extract_lets +onlyGivenNames o_0
  split
  · split
    · apply State.pushOp_ev; exact hs
    · exact hs
  · split
    · apply State.unmask_ev; exact hs
    · split
      · apply State.onBit_ev
        · exact hs
        · intro v1 v2
          apply execStreamClearDropped_ev; with_reducible assumption
      · exact hs

theorem State.hookMgmt_ev {z : State} (s : State) (port off m d : Nat) (hs : z.Evolves s) : z.Evolves (State.hookMgmt s port off m d) := by
  unfold State.hookMgmt
  split
  · apply State.onBit_ev
    · apply State.onBit_ev
      · exact hs
      · intro v0 v1
        apply execAlertRearm_ev; with_reducible assumption
    · intro v2 v3
      apply execMgtClearCounts_ev; with_reducible assumption
  · split
    · apply stateAfter_ev
      · exact hs
      · apply execTripAck_ev; exact hs
    · split
      · split
        · exact hs
        · apply State.raise_ev; exact hs
      · exact hs

theorem State.hookFabric_ev {z : State} (s : State) (port off m d : Nat) (hs : z.Evolves s) : z.Evolves (State.hookFabric s port off m d) := by
  unfold State.hookFabric
  split
  · extract_lets +onlyGivenNames p_0
    split
    · apply State.onBit_ev
      · apply State.onBit_ev
        · apply State.onBit_ev
          · apply State.onBit_ev
            · exact hs
            · intro v1 v2
              apply execSpRestore_ev; with_reducible assumption
          · intro v3 v4
            apply execSpReenable_ev; with_reducible assumption
        · intro v5 v6
          apply execSpClearCounts_ev; with_reducible assumption
      · intro v7 v8
        apply execSpTestFail_ev; with_reducible assumption
    · exact hs
  · split
    · apply State.onBit_ev
      · exact hs
      · intro v9 v10
        apply execFjClearCounts_ev; with_reducible assumption
    · split
      · apply State.onBit_ev
        · apply State.onBit_ev
          · exact hs
          · intro v11 v12
            apply execCleClearCounts_ev; with_reducible assumption
        · intro v13 v14
          apply execCleInjectResidue_ev; with_reducible assumption
      · split
        · split
          · apply State.fs_ev; exact hs
          · exact hs
        · split
          · apply State.onBit_ev
            · apply State.onBit_ev
              · exact hs
              · intro v15 v16
                apply execKpuClearCounts_ev; with_reducible assumption
            · intro v17 v18
              apply execKpuFullNext_ev; with_reducible assumption
          · split
            · apply State.onBit_ev
              · exact hs
              · intro v19 v20
                apply execEruClearCounts_ev; with_reducible assumption
            · exact hs

theorem State.holdParks_ev {z : State} (s : State) (core : Nat) (hs : z.Evolves s) : z.Evolves (State.holdParks s core) := by
  unfold State.holdParks
  refine State.Evolves.foldl ?_ ?_
  · exact hs
  · intro v0 v1 v2
    extract_lets +onlyGivenNames x_3
    split
    · apply State.setCtx_ev; with_reducible assumption
    · with_reducible assumption

theorem State.hookDie_ev {z : State} (s : State) (port off m d : Nat) (hs : z.Evolves s) : z.Evolves (State.hookDie s port off m d) := by
  unfold State.hookDie
  extract_lets +onlyGivenNames die_0
  extract_lets +onlyGivenNames o_1
  split
  · extract_lets +onlyGivenNames core_2
    extract_lets +onlyGivenNames x_3
    split
    · apply State.holdParks_ev; apply State.onBit_ev
      · apply State.onBit_ev
        · exact hs
        · intro v4 v5
          apply execSeqTestStep_ev; with_reducible assumption
      · intro v6 v7
        apply execSeqClearStall_ev; with_reducible assumption
    · split
      · apply State.onBit_ev
        · apply State.onBit_ev
          · exact hs
          · intro v8 v9
            apply execArrCanaryNow_ev; with_reducible assumption
        · intro v10 v11
          apply execArrClearCounts_ev; with_reducible assumption
      · split
        · split
          · apply State.fs_ev; apply State.fs_ev; apply State.fs_ev; apply State.fs_ev; exact hs
          · exact hs
        · split
          · apply State.onBit_ev
            · exact hs
            · intro v12 v13
              apply execArrInjectArm_ev; with_reducible assumption
          · exact hs
  · split
    · apply State.onBit_ev
      · exact hs
      · intro v14 v15
        apply execMemClearCounts_ev; with_reducible assumption
    · split
      · apply State.onBit_ev
        · apply State.onBit_ev
          · apply State.onBit_ev
            · exact hs
            · intro v16 v17
              apply execDlRestore_ev; with_reducible assumption
          · intro v18 v19
            apply execDlClearCounts_ev; with_reducible assumption
        · intro v20 v21
          apply execDlTestFail_ev; with_reducible assumption
      · exact hs

theorem State.hookHigh_ev {z : State} (s : State) (port off m d : Nat) (hs : z.Evolves s) : z.Evolves (State.hookHigh s port off m d) := by
  unfold State.hookHigh
  split
  · apply State.onBit_ev
    · exact hs
    · intro v0 v1
      apply execFmcClearCounts_ev; with_reducible assumption
  · split
    · apply State.onBit_ev
      · exact hs
      · intro v2 v3
        apply execClearRetire_ev; with_reducible assumption
    · split
      · apply State.onBit_ev
        · exact hs
        · intro v4 v5
          apply execMarginStart_ev; with_reducible assumption
      · split
        · apply State.onBit_ev
          · exact hs
          · intro v6 v7
            apply execSguClearCounts_ev; with_reducible assumption
        · split
          · split
            · apply State.fs_ev; exact hs
            · exact hs
          · exact hs

theorem State.hooks_ev {z : State} (s : State) (port off m d : Nat) (hs : z.Evolves s) : z.Evolves (State.hooks s port off m d) := by
  unfold State.hooks
  split
  · apply State.hookGlobal_ev; exact hs
  · split
    · apply State.hookHost_ev; exact hs
    · split
      · apply State.hookGlobal_ev; exact hs
      · split
        · apply State.hookMgmt_ev; exact hs
        · split
          · apply State.hookFabric_ev; exact hs
          · split
            · apply State.hookDie_ev; exact hs
            · apply State.hookHigh_ev; exact hs

theorem State.regWrite_ev {z : State} (s : State) (port addr size data : Nat) (hs : z.Evolves s) : z.Evolves (State.regWrite s port addr size data) := by
  unfold State.regWrite
  extract_lets +onlyGivenNames off_0
  extract_lets +onlyGivenNames sh_1
  extract_lets +onlyGivenNames m_2
  extract_lets +onlyGivenNames d_3
  extract_lets +onlyGivenNames words_4
  split
  · apply State.raise_ev; exact hs
  · split
    · split
      · apply State.raise_ev; exact hs
      · exact hs
    · split
      · apply stateAfter_ev
        · exact hs
        · apply execImgDataWrite_ev; exact hs
      · split
        · apply stateAfter_ev
          · exact hs
          · apply execMboxInWrite_ev; exact hs
        · split
          · split
            · apply stateAfter_ev
              · exact hs
              · apply execMapDataWrite_ev; exact hs
            · exact hs
          · split
            · split
              · apply stateAfter_ev
                · exact hs
                · apply execPwrCapWrite_ev; exact hs
              · exact hs
            · extract_lets +onlyGivenNames k_5
              extract_lets +onlyGivenNames t_6
              have ht_6 : z.Evolves t_6 := by
                unfold t_6
                split
                · apply State.copyRebase_ev; exact hs
                · exact hs
              clear_value t_6
              apply State.hooks_ev; apply State.regMerge_ev; exact ht_6

theorem execRegisterWrite_ev {z : State} (port addr size data : Nat) (s : State) (hs : z.Evolves s) : Later z (execRegisterWrite port addr size data s) := by
  unfold execRegisterWrite
  refine Later.occurs ?_ ?_
  · exact hs
  · apply State.regWrite_ev; exact hs

theorem execAbsentUnitAccess_ev {z : State} (port addr : Nat) (write : Bool) (s : State) (hs : z.Evolves s) : Later z (execAbsentUnitAccess port addr write s) := by
  unfold execAbsentUnitAccess
  extract_lets +onlyGivenNames t_0
  have ht_0 : z.Evolves t_0 := by
    unfold t_0
    apply State.raise_ev; exact hs
  clear_value t_0
  refine Later.occurs ?_ ?_
  · exact hs
  · split
    · exact ht_0
    · apply State.emit_ev; exact ht_0

theorem execBar0BadAccess_ev {z : State} (port addr size : Nat) (_write : Bool) (s : State) (hs : z.Evolves s) : Later z (execBar0BadAccess port addr size _write s) := by
  unfold execBar0BadAccess
  refine Later.occurs ?_ ?_
  · exact hs
  · apply State.refuseTlp_ev; exact hs

theorem State.haunoFault_ev {z : State} (s : State) (h : Nat) (hs : z.Evolves s) : z.Evolves (State.haunoFault s h) := by
  unfold State.haunoFault
  apply State.emit_ev; exact hs

theorem State.haunoRead_ev {z : State} (s : State) (h n : Nat) (b : Bytes) (bad : Bool) (hs : z.Evolves s) : z.Evolves (State.haunoRead s h n b bad) := by
  unfold State.haunoRead
  split
  · extract_lets +onlyGivenNames f_0
    have hf_0 : z.Evolves f_0.2 := by
      unfold f_0
      apply State.free_ev; exact hs
    clear_value f_0
    apply State.emit_ev; exact hf_0
  · apply State.emit_ev; exact hs

theorem State.haunoStream_ev {z : State} (s : State) (p : Nat) (b : Bytes) (hs : z.Evolves s) : z.Evolves (State.haunoStream s p b) := by
  unfold State.haunoStream
  split
  · apply State.streamDrop_ev; exact hs
  · apply State.setStaging_ev; exact hs

theorem State.haunoMem_ev {z : State} (s : State) (h : Nat) (r : Rec) (t : Target) (n : Nat) (write : Bool) (data : Nat) (hs : z.Evolves s) : z.Evolves (State.haunoMem s h r t n write data) := by
  unfold State.haunoMem
  split
  · apply State.haunoFault_ev; exact hs
  · split
    · apply State.haunoStream_ev; exact hs
    · extract_lets +onlyGivenNames cs_0
      extract_lets +onlyGivenNames u_1
      have hu_1 : z.Evolves u_1 := by
        unfold u_1
        refine State.Evolves.foldl ?_ ?_
        · apply State.chargeAll_ev; apply State.chargeTarget_ev; exact hs
        · intro v2 v3 v4
          split
          · apply State.fall_ev; with_reducible assumption
          · apply State.rise_ev; with_reducible assumption
      clear_value u_1
      split
      · apply State.targetWrite_ev; exact hu_1
      · extract_lets +onlyGivenNames x_5
        have hx_5 : z.Evolves x_5.2.1 := by
          unfold x_5
          apply State.targetRead_ev; exact hu_1
        clear_value x_5
        apply State.haunoRead_ev; exact hx_5

theorem State.haunoHub_ev {z : State} (s : State) (h addr n : Nat) (write : Bool) (data : Nat) (hs : z.Evolves s) : z.Evolves (State.haunoHub s h addr n write data) := by
  unfold State.haunoHub
  split
  · apply State.haunoFault_ev; exact hs
  · split
    · apply State.hubWrite_ev; exact hs
    · extract_lets +onlyGivenNames x_0
      have hx_0 : z.Evolves x_0.2.1 := by
        unfold x_0
        apply State.hubRead_ev; exact hs
      clear_value x_0
      apply State.haunoRead_ev; exact hx_0

theorem State.haunoCounters_ev {z : State} (s : State) (h level u addr n : Nat) (write : Bool) (hs : z.Evolves s) : z.Evolves (State.haunoCounters s h level u addr n write) := by
  unfold State.haunoCounters
  split
  · apply State.haunoFault_ev; exact hs
  · split
    · apply State.emit_ev; apply State.count_ev; exact hs
    · apply State.emit_ev; exact hs

theorem State.hlcSig_ev {z : State} (s : State) (h data : Nat) (hs : z.Evolves s) : z.Evolves (State.hlcSig s h data) := by
  unfold State.hlcSig
  extract_lets +onlyGivenNames core_0
  split
  · split
    · apply State.streamNotify_ev
      · exact hs
      · apply State.cntBump_ev; exact hs
    · apply State.haunoFault_ev; exact hs
  · apply State.haunoFault_ev; exact hs

theorem execHlcSig_ev {z : State} (core data : Nat) (s : State) (hs : z.Evolves s) : Later z (execHlcSig core data s) := by
  unfold execHlcSig
  refine Later.occurs ?_ ?_
  · exact hs
  · apply State.hlcSig_ev; exact hs

theorem State.hlcWrite_ev {z : State} (s : State) (h addr n data : Nat) (hs : z.Evolves s) : z.Evolves (State.hlcWrite s h addr n data) := by
  unfold State.hlcWrite
  extract_lets +onlyGivenNames off_0
  extract_lets +onlyGivenNames m_1
  extract_lets +onlyGivenNames d_2
  split
  · apply State.hlcSig_ev; exact hs
  · extract_lets +onlyGivenNames t_3
    have ht_3 : z.Evolves t_3 := by
      unfold t_3
      apply State.haunoRaised_ev
      · apply State.regMerge_ev; exact hs
      · exact hs
    clear_value t_3
    split
    · refine State.Evolves.mk_same ?_ rfl rfl rfl rfl
      exact ht_3
    · split
      · apply State.haunoFault_ev; exact ht_3
      · exact ht_3

theorem State.haunoLocal_ev {z : State} (s : State) (h addr n : Nat) (write : Bool) (data : Nat) (hs : z.Evolves s) : z.Evolves (State.haunoLocal s h addr n write data) := by
  unfold State.haunoLocal
  split
  · apply State.haunoFault_ev; exact hs
  · split
    · apply State.hlcWrite_ev; exact hs
    · apply State.emit_ev; exact hs

theorem State.haunoAccess_ev {z : State} (s : State) (h : Nat) (r : Rec) (level space unit addr n : Nat) (write : Bool) (data : Nat) (hs : z.Evolves s) : z.Evolves (State.haunoAccess s h r level space unit addr n write data) := by
  unfold State.haunoAccess
  split
  · apply State.haunoMem_ev; exact hs
  · split
    · apply State.haunoHub_ev; exact hs
    · split
      · apply State.haunoCounters_ev; exact hs
      · split
        · apply State.haunoLocal_ev; exact hs
        · apply State.haunoFault_ev; exact hs

theorem execHaunoAccess_ev {z : State} (core level space unit addr size : Nat) (write : Bool) (data : Nat) (s : State) (hs : z.Evolves s) : Later z (execHaunoAccess core level space unit addr size write data s) := by
  unfold execHaunoAccess
  split
  · extract_lets +onlyGivenNames t_0
    extract_lets +onlyGivenNames waits_1
    refine Later.occurs ?_ ?_
    · exact hs
    · apply State.streamNotify_ev
      · exact hs
      · apply State.haunoAccess_ev; exact hs
  · refine Later.next ?_
    exact hs

theorem execHaunoTimer_ev {z : State} (core : Nat) (s : State) (hs : z.Evolves s) : Later z (execHaunoTimer core s) := by
  unfold execHaunoTimer
  extract_lets +onlyGivenNames v_0
  refine Later.occurs ?_ ?_
  · exact hs
  · extract_lets +onlyGivenNames t_1
    have ht_1 : z.Evolves t_1 := by
      unfold t_1
      apply State.runToRack_ev; exact hs
    clear_value t_1
    apply State.haunoEvent_ev
    refine State.Evolves.mk_same ?_ rfl rfl rfl rfl
    exact ht_1

theorem State.payRequest_ev {z : State} (s : State) (key : Nat) (q : QIns) (hs : z.Evolves s) : LaterO z (State.payRequest s key q) := by
  unfold State.payRequest
  split
  · exact LaterO.none
  · extract_lets +onlyGivenNames cs_0
    extract_lets +onlyGivenNames go_1
    refine LaterO.map ?_ ?_
    · unfold go_1
      split
      · refine LaterO.some ?_
        apply State.takeAll_ev; exact hs
      · split
        · refine LaterO.some ?_
          apply State.chargeAll_ev; exact hs
        · exact LaterO.none
    · intro v2 v3
      extract_lets +onlyGivenNames u_4
      have hu_4 : z.Evolves u_4 := by
        unfold u_4
        split
        · apply State.switched_ev; with_reducible assumption
        · with_reducible assumption
      clear_value u_4
      refine State.Evolves.mk_same ?_ rfl rfl rfl rfl
      exact hu_4

theorem State.payCycles_ev {z : State} (s : State) (key : Nat) (q : QIns) (hs : z.Evolves s) : z.Evolves (State.payCycles s key q) := by
  unfold State.payCycles
  extract_lets +onlyGivenNames c_0
  extract_lets +onlyGivenNames rest_1
  extract_lets +onlyGivenNames own_2
  extract_lets +onlyGivenNames drawn_3
  split
  · exact hs
  · extract_lets +onlyGivenNames k_4
    refine State.Evolves.mk_same ?_ rfl rfl rfl rfl
    exact hs

theorem State.payStep_ev {z : State} (s : State) (key : Nat) (hs : z.Evolves s) : z.Evolves (State.payStep s key) := by
  unfold State.payStep
  split
  · exact hs
  · split
    · exact hs
    · split
      · apply State.payCycles_ev; exact hs
      · refine LaterO.getD ?_ ?_
        · apply State.payRequest_ev; exact hs
        · exact hs

theorem State.payLoop_ev {z : State} (y0 : Nat) (y1 : State) (y2 : Nat) (hy1 : z.Evolves y1) : z.Evolves (State.payLoop y0 y1 y2) := by
  induction y0 generalizing y1 with
  | zero => exact hy1
  | succ n ih =>
    have h := State.payStep_ev y1 y2 hy1
    unfold State.payLoop
    extract_lets t
    split
    · exact hy1
    · exact ih _ h

theorem State.payOne_ev {z : State} (s : State) (key : Nat) (hs : z.Evolves s) : z.Evolves (State.payOne s key) := by
  unfold State.payOne
  apply State.payLoop_ev; exact hs

theorem State.payRounds_ev {z : State} (y0 : Nat) (y1 : State) (y2 : Nat) (hy1 : z.Evolves y1) : z.Evolves (State.payRounds y0 y1 y2) := by
  induction y0 generalizing y1 with
  | zero => exact hy1
  | succ n ih =>
    unfold State.payRounds
    extract_lets t
    have ht : z.Evolves t := hy1.foldl fun u e hu => State.payStep_ev u e.1 hu
    split
    · exact hy1
    · exact ih _ ht

theorem State.payAll_ev {z : State} (s : State) (hs : z.Evolves s) : z.Evolves (State.payAll s) := by
  unfold State.payAll
  refine State.Evolves.foldl ?_ ?_
  · exact hs
  · intro v0 v1 v2
    apply State.payRounds_ev; with_reducible assumption

theorem State.collRefill_ev {z : State} (s : State) (hs : z.Evolves s) : z.Evolves (State.collRefill s) := by
  unfold State.collRefill
  refine State.Evolves.foldl ?_ ?_
  · exact hs
  · intro v0 v1 v2
    split
    · with_reducible assumption
    · apply State.collAdvance_ev; with_reducible assumption

theorem State.periodBoundary_ev {z : State} (s : State) (hs : z.Evolves s) : z.Evolves (State.periodBoundary s) := by
  unfold State.periodBoundary
  extract_lets +onlyGivenNames t_0
  have ht_0 : z.Evolves t_0 := by
    unfold t_0
    apply State.runToRack_ev; exact hs
  clear_value t_0
  extract_lets +onlyGivenNames u_1
  have hu_1 : z.Evolves u_1 := by
    unfold u_1
    apply State.refill_ev; exact ht_0
  clear_value u_1
  extract_lets +onlyGivenNames v_2
  have hv_2 : z.Evolves v_2 := by
    unfold v_2
    refine State.Evolves.foldl ?_ ?_
    · exact hu_1
    · intro v3 v4 v5
      split
      · apply State.fs_ev; with_reducible assumption
      · with_reducible assumption
  clear_value v_2
  apply State.collRefill_ev; apply State.keepPump_ev; apply State.payDebts_ev; apply State.payAll_ev
  refine State.Evolves.foldl ?_ ?_
  · exact hv_2
  · intro v6 v7 v8
    apply State.fs_ev; with_reducible assumption

theorem execBudgetPeriodBoundary_ev {z : State} (s : State) (hs : z.Evolves s) : Later z (execBudgetPeriodBoundary s) := by
  unfold execBudgetPeriodBoundary
  refine Later.occurs ?_ ?_
  · exact hs
  · apply State.periodBoundary_ev; exact hs

theorem State.soutRun_ev {z : State} (s : State) (q : QIns) (env : UnitEnv) (hs : z.Evolves s) : z.Evolves (State.soutRun s q env).1 := by
  unfold State.soutRun
  extract_lets +onlyGivenNames n_0
  extract_lets +onlyGivenNames m_1
  have hm_1 : z.Evolves m_1.2.1 := by
    unfold m_1
    apply State.descBytes_ev; apply State.upset_ev; exact hs
  clear_value m_1
  split
  · with_reducible assumption
  · split
    · extract_lets +onlyGivenNames t_2
      have ht_2 : z.Evolves t_2 := by
        unfold t_2
        apply State.rise_ev; exact hm_1
      clear_value t_2
      split
      · dsimp only
        refine State.Evolves.mk_same ?_ rfl rfl rfl rfl
        exact ht_2
      · dsimp only
        apply State.putOut_ev; exact ht_2
    · with_reducible assumption

theorem State.jstPacket_ev {z : State} (s : State) (core iss : Nat) (p : Packet) (hs : z.Evolves s) : z.Evolves (State.jstPacket s core iss p) := by
  unfold State.jstPacket
  split
  · refine State.Evolves.mk_same ?_ rfl rfl rfl rfl
    exact hs
  · apply State.sendAcked_ev; exact hs

theorem State.jstRun_ev {z : State} (s : State) (q : QIns) (b : Bytes) (hs : z.Evolves s) : z.Evolves (State.jstRun s q b) := by
  unfold State.jstRun
  refine State.Evolves.foldl ?_ ?_
  · exact hs
  · intro v0 v1 v2
    apply State.jstPacket_ev; with_reducible assumption

theorem State.sendTail_ev {z : State} (s : State) (q : QIns) (hs : z.Evolves s) : z.Evolves (State.sendTail s q) := by
  unfold State.sendTail
  split
  · split
    · exact hs
    · apply State.sendAcked_ev
      refine State.Evolves.mk_same ?_ rfl rfl rfl rfl
      exact hs
  · exact hs

theorem State.jldRun_ev {z : State} (s : State) (q : QIns) (hs : z.Evolves s) : z.Evolves (State.jldRun s q) := by
  unfold State.jldRun
  extract_lets +onlyGivenNames d_0
  refine State.Evolves.foldl ?_ ?_
  · exact hs
  · intro v1 v2 v3
    apply State.sendLoad_ev; with_reducible assumption

theorem State.jatRun_ev {z : State} (s : State) (q : QIns) (b : Bytes) (hs : z.Evolves s) : z.Evolves (State.jatRun s q b) := by
  unfold State.jatRun
  extract_lets +onlyGivenNames p_0
  split
  · apply State.sendLoad_ev; exact hs
  · apply State.sendAcked_ev; exact hs

theorem State.fabRun_ev {z : State} (s : State) (q : QIns) (env : UnitEnv) (hs : z.Evolves s) : z.Evolves (State.fabRun s q env).1 := by
  unfold State.fabRun
  extract_lets +onlyGivenNames bad_0
  split
  · with_reducible assumption
  · split
    · dsimp only
      apply State.jldRun_ev; exact hs
    · extract_lets +onlyGivenNames m_1
      have hm_1 : z.Evolves m_1.2.1 := by
        unfold m_1
        apply State.descBytes_ev; apply State.upset_ev; exact hs
      clear_value m_1
      split
      · with_reducible assumption
      · dsimp only
        split
        · apply State.jstRun_ev; exact hm_1
        · apply State.jatRun_ev; exact hm_1

theorem State.fenceRun_ev {z : State} (s : State) (q : QIns) (hs : z.Evolves s) : z.Evolves (State.fenceRun s q) := by
  unfold State.fenceRun
  refine State.Evolves.mk_same ?_ rfl rfl rfl rfl
  exact hs

theorem State.fenceEnd_ev {z : State} (s : State) (f : FenceSt) (hs : z.Evolves s) : z.Evolves (State.fenceEnd s f).1 := by
  unfold State.fenceEnd
  extract_lets +onlyGivenNames bad_0
  extract_lets +onlyGivenNames t_1
  extract_lets +onlyGivenNames t_2
  have ht_2 : z.Evolves t_2 := by
    unfold t_2
    refine State.Evolves.mk_same ?_ rfl rfl rfl rfl
    exact hs
  clear_value t_2
  split
  · with_reducible assumption
  · extract_lets +onlyGivenNames u_3
    have hu_3 : z.Evolves u_3 := by
      unfold u_3
      apply State.clearPairs_ev; exact ht_2
    clear_value u_3
    dsimp only
    refine State.Evolves.mk_same ?_ rfl rfl rfl rfl
    exact hu_3

theorem State.collPop_ev {z : State} (s : State) (core : Nat) (code : Nat) (hs : z.Evolves s) : z.Evolves (State.collPop s core code) := by
  unfold State.collPop
  split
  · apply State.setRunning_ev; apply State.setQueue_ev; exact hs
  · exact hs

theorem State.collSources_ev {z : State} (s : State) (g : Nat) (r : Rec) (hs : z.Evolves s) : z.Evolves (State.collSources s g r).1 := by
  unfold State.collSources
  refine State.Evolves.foldl_fst ?_ ?_
  · with_reducible assumption
  · intro v0 v1 v2 v3
    split
    · split
      · extract_lets +onlyGivenNames e_4
        have he_4 : z.Evolves e_4.1 := by
          unfold e_4
          apply State.descEcc_ev; with_reducible assumption
        clear_value e_4
        with_reducible assumption
      · with_reducible assumption
    · with_reducible assumption

theorem State.collStart_ev {z : State} (s : State) (g : Nat) (env : UnitEnv) (hs : z.Evolves s) : z.Evolves (State.collStart s g env) := by
  unfold State.collStart
  split
  · exact hs
  · extract_lets +onlyGivenNames x_0
    have hx_0 : z.Evolves x_0.1 := by
      unfold x_0
      apply State.collSources_ev; apply State.upset_ev; exact hs
    clear_value x_0
    split
    · apply State.collBegin_ev
      refine State.Evolves.foldl ?_ ?_
      · exact hx_0
      · intro v1 v2 v3
        apply State.collPop_ev; with_reducible assumption
    · refine State.Evolves.foldl ?_ ?_
      · exact hx_0
      · intro v4 v5 v6
        apply State.collPop_ev; with_reducible assumption

theorem State.unitRun_ev {z : State} (s : State) (unit : Nat) (q : QIns) (env : UnitEnv) (hs : z.Evolves s) : z.Evolves (State.unitRun s unit q env).1 := by
  unfold State.unitRun
  split
  · extract_lets +onlyGivenNames r_0
    have hr_0 : z.Evolves r_0.1 := by
      unfold r_0
      apply State.mmaRun_ev; apply State.fs_ev; exact hs
    clear_value r_0
    dsimp only
    refine State.Evolves.mk_same ?_ rfl rfl rfl rfl
    exact hr_0
  · apply State.vopRun_ev; exact hs
  · extract_lets +onlyGivenNames r_1
    have hr_1 : z.Evolves r_1.1 := by
      unfold r_1
      apply State.moveRun_ev; exact hs
    clear_value r_1
    dsimp only
    apply State.eruFlush_ev; exact hr_1
  · split
    · apply State.rsendRun_ev; exact hs
    · apply State.soutRun_ev; exact hs
  · split
    · dsimp only
      apply State.fenceRun_ev; exact hs
    · apply State.fabRun_ev; exact hs

theorem State.unitStart_ev {z : State} (s : State) (core unit : Nat) (env : UnitEnv) (hs : z.Evolves s) : z.Evolves (State.unitStart s core unit env) := by
  unfold State.unitStart
  split
  · exact hs
  · split
    · apply State.collStart_ev; exact hs
    · extract_lets +onlyGivenNames t_0
      have ht_0 : z.Evolves t_0 := by
        unfold t_0
        apply State.setRunning_ev; apply State.setQueue_ev; exact hs
      clear_value t_0
      extract_lets +onlyGivenNames r_1
      have hr_1 : z.Evolves r_1.1 := by
        unfold r_1
        apply State.unitRun_ev; exact ht_0
      clear_value r_1
      apply State.streamNotify_ev
      · exact hs
      · apply State.payOne_ev; apply State.endsWith_ev; exact hr_1

theorem execUnitInstructionStart_ev {z : State} (core unit : Nat) (env : UnitEnv) (s : State) (hs : z.Evolves s) : Later z (execUnitInstructionStart core unit env s) := by
  unfold execUnitInstructionStart
  refine Later.occurs ?_ ?_
  · exact hs
  · apply State.unitStart_ev; exact hs

theorem State.complete_ev {z : State} (s : State) (slot : Nat) (q : QIns) (code : Nat) (hs : z.Evolves s) : z.Evolves (State.complete s slot q code) := by
  unfold State.complete
  extract_lets +onlyGivenNames x_0
  extract_lets +onlyGivenNames t_1
  have ht_1 : z.Evolves t_1 := by
    unfold t_1
    apply State.setRunning_ev; exact hs
  clear_value t_1
  extract_lets +onlyGivenNames a_2
  extract_lets +onlyGivenNames u_3
  have hu_3 : z.Evolves u_3 := by
    unfold u_3
    split
    · apply State.fs_ev; exact ht_1
    · exact ht_1
  clear_value u_3
  split
  · extract_lets +onlyGivenNames v_4
    have hv_4 : z.Evolves v_4 := by
      unfold v_4
      split
      · apply State.raise_ev; exact hu_3
      · exact hu_3
    clear_value v_4
    split
    · apply State.cntBump_ev; exact hv_4
    · exact hv_4
  · split
    · exact hu_3
    · apply State.stopCtx_ev; exact hu_3

theorem State.unitComplete_ev {z : State} (s : State) (slot : Nat) (q : QIns) (hs : z.Evolves s) : z.Evolves (State.unitComplete s slot q) := by
  unfold State.unitComplete
  split
  · split
    · apply State.complete_ev; apply State.fenceEnd_ev; exact hs
    · apply State.complete_ev; exact hs
  · split
    · apply State.collSettle_ev; apply State.complete_ev; exact hs
    · apply State.complete_ev; exact hs

theorem execUnitInstructionComplete_ev {z : State} (core unit : Nat) (s : State) (hs : z.Evolves s) : Later z (execUnitInstructionComplete core unit s) := by
  unfold execUnitInstructionComplete
  extract_lets +onlyGivenNames t_0
  have ht_0 : z.Evolves t_0 := by
    unfold t_0
    apply State.payOne_ev; exact hs
  clear_value t_0
  split
  · refine Later.next ?_
    exact hs
  · extract_lets +onlyGivenNames u_1
    have hu_1 : z.Evolves u_1 := by
      unfold u_1
      split
      · apply State.sendTail_ev; exact ht_0
      · exact ht_0
    clear_value u_1
    refine Later.occurs ?_ ?_
    · exact hs
    · split
      · apply State.streamNotify_ev
        · exact hs
        · apply State.unitComplete_ev; exact hu_1
      · exact hu_1

theorem State.idle_ev {z : State} (s : State) (hs : z.Evolves s) : z.Evolves (State.idle s) := by
  unfold State.idle
  apply State.pass_ev; exact hs

end Machine
end Sys2Proof
end

