-- ==== Sys2Proof/Laws/Touch.lean ====
section
/-!
SUPPORT. Frames: the relation `State.Touches` over composition, record updates, pairs, options, folds and answers.
-/
namespace Sys2Proof
namespace Machine
set_option Elab.async false

theorem Part.Same.refl (p : Part) (s : State) : p.Same s s := by
  cases p <;> simp [Part.Same]

theorem Part.Same.trans {p : Part} {s t u : State} (h : p.Same s t) (k : p.Same t u) : p.Same s u := by
  cases p <;> simp_all [Part.Same]

theorem State.Touches.refl (s : State) (ps : List Part) : s.Touches ps s := fun p _ => Part.Same.refl p s

theorem State.Touches.trans {s t u : State} {ps : List Part} (h : s.Touches ps t) (k : t.Touches ps u) : s.Touches ps u := fun p hp => (h p hp).trans (k p hp)

theorem State.Touches.mono {s t : State} {ps qs : List Part} (h : s.Touches ps t) (e : ps.all qs.contains = true) : s.Touches qs t := by
  refine fun p hp => h p ?_
  cases hc : ps.contains p with
  | false => rfl
  | true =>
    have := List.all_eq_true.1 e p (List.contains_iff_mem.1 hc)
    rw [hp] at this
    exact absurd this (by decide)

/-- One more operation, whose own frame lies within the frame. -/
theorem State.Touches.step {z s t : State} {ps qs : List Part} (h : s.Touches ps t) (k : z.Touches qs s) (e : ps.all qs.contains = true := by decide) : z.Touches qs t :=
  k.trans (h.mono e)

/-- A frame without memory: every byte reads as before. -/
theorem State.Touches.sameMemory {s t : State} {ps : List Part} (h : s.Touches ps t) (m : ps.contains .mem = false) (f : ps.contains .far = false) (k : ps.contains .stamps = false)
    (b : ps.contains .boot = false) : s.SameMemory t := by
  have hm : t.mem = s.mem := h _ m
  have hf : t.far = s.far := h _ f
  have hk : (t.tiers.memKeys, t.tiers.keyEpoch, t.tiers.accStamp) = (s.tiers.memKeys, s.tiers.keyEpoch, s.tiers.accStamp) := h _ k
  simp only [Prod.mk.injEq] at hk
  have hb : t.store.bootCount = s.store.bootCount := h _ b
  exact ⟨fun a => by simp only [State.memRd, hm, hf, hk.2.2, hb], fun a => by simp only [State.farRd, hf, hk.2.1, hb], hk.1⟩

/-- Every next state an answer gives lies within a frame. -/
def Within (z : State) (ps : List Part) (o : Answer) : Prop := ∀ t, o = .next t → z.Touches ps t

/-- The same for an option of a state. -/
def WithinO (z : State) (ps : List Part) (o : Option State) : Prop := ∀ t, o = some t → z.Touches ps t

/-- The same for an option of a value and a state. -/
def WithinP {α : Type} (z : State) (ps : List Part) (o : Option (α × State)) : Prop := ∀ x t, o = some (x, t) → z.Touches ps t

section
variable {α β : Type} {z s t : State} {ps : List Part}

theorem Within.next (h : z.Touches ps t) : Within z ps (.next t) := fun _ e => by cases e; exact h
theorem Within.occurs {c : Bool} (hs : z.Touches ps s) (ht : z.Touches ps t) : Within z ps (occurs c s t) := by
  unfold Machine.occurs
  exact .next (by split <;> assumption)
theorem WithinO.some (h : z.Touches ps t) : WithinO z ps (some t) := fun _ e => by cases e; exact h
theorem WithinO.none : WithinO z ps none := fun _ e => nomatch e
theorem WithinP.some {p : α × State} (h : z.Touches ps p.2) : WithinP z ps (some p) := fun _ _ e => by cases e; exact h
theorem WithinP.none : WithinP (α := α) z ps none := fun _ _ e => nomatch e
theorem WithinO.getD {o : Option State} (h : WithinO z ps o) (k : z.Touches ps s) : z.Touches ps (o.getD s) := by
  cases o with
  | none => exact k
  | some t => exact h t rfl
theorem WithinO.bind {o : Option State} {f : State → Option State} (h : WithinO z ps o) (k : ∀ t, z.Touches ps t → WithinO z ps (f t)) : WithinO z ps (o.bind f) := by
  cases o with
  | none => exact .none
  | some t => exact k t (h t rfl)
theorem WithinO.map {o : Option State} {f : State → State} (h : WithinO z ps o) (k : ∀ t, z.Touches ps t → z.Touches ps (f t)) : WithinO z ps (o.map f) := by
  cases o with
  | none => exact .none
  | some t => exact .some (k t (h t rfl))
theorem Within.mono {qs : List Part} {o : Answer} (h : Within z ps o) (e : ps.all qs.contains = true) : Within z qs o := fun t k => (h t k).mono e
theorem Within.step {qs : List Part} {o : Answer} (h : Within s ps o) (k : z.Touches qs s) (e : ps.all qs.contains = true := by decide) : Within z qs o := fun t q => k.trans ((h t q).mono e)
theorem WithinO.step {qs : List Part} {o : Option State} (h : WithinO s ps o) (k : z.Touches qs s) (e : ps.all qs.contains = true := by decide) : WithinO z qs o :=
  fun t q => k.trans ((h t q).mono e)
theorem WithinP.step {qs : List Part} {o : Option (α × State)} (h : WithinP s ps o) (k : z.Touches qs s) (e : ps.all qs.contains = true := by decide) : WithinP z qs o :=
  fun x t q => k.trans ((h x t q).mono e)

theorem State.Touches.of_snd {e : α × State} {x : α} (q : e = (x, t)) (h : z.Touches ps e.2) : z.Touches ps t := by subst q; exact h
theorem State.Touches.of_fst {e : State × α} {x : α} (q : e = (t, x)) (h : z.Touches ps e.1) : z.Touches ps t := by subst q; exact h
theorem State.Touches.of_mid {e : α × State × β} {x : α} {y : β} (q : e = (x, t, y)) (h : z.Touches ps e.2.1) : z.Touches ps t := by subst q; exact h
theorem State.Touches.of_last {e : α × β × State} {x : α} {y : β} (q : e = (x, y, t)) (h : z.Touches ps e.2.2) : z.Touches ps t := by subst q; exact h
theorem State.Touches.of_some {e : Option State} (q : e = some t) (h : WithinO z ps e) : z.Touches ps t := h t q
theorem State.Touches.of_pair {e : Option (α × State)} {x : α} (q : e = some (x, t)) (h : WithinP z ps e) : z.Touches ps t := h x t q
theorem State.Touches.of_next {e : Answer} (q : e = .next t) (h : Within z ps e) : z.Touches ps t := h t q

theorem State.Touches.ite_snd {c : Prop} [Decidable c] {p q : α × State} (hp : z.Touches ps p.2) (hq : z.Touches ps q.2) : z.Touches ps (if c then p else q).2 := by
  split <;> assumption

theorem State.Touches.foldl {f : State → α → State} {l : List α} {s : State} (h : z.Touches ps s) (k : ∀ t x, z.Touches ps t → z.Touches ps (f t x)) : z.Touches ps (l.foldl f s) := by
  induction l generalizing s with
  | nil => exact h
  | cons x r ih => exact ih (k s x h)

theorem State.Touches.foldl_fst {f : State × β → α → State × β} {l : List α} {s : State × β} (h : z.Touches ps s.1) (k : ∀ t y x, z.Touches ps t → z.Touches ps (f (t, y) x).1) :
    z.Touches ps (l.foldl f s).1 := by
  induction l generalizing s with
  | nil => exact h
  | cons x r ih => exact ih (k s.1 s.2 x h)

theorem State.Touches.foldl_snd {f : β × State → α → β × State} {l : List α} {s : β × State} (h : z.Touches ps s.2) (k : ∀ t y x, z.Touches ps t → z.Touches ps (f (y, t) x).2) :
    z.Touches ps (l.foldl f s).2 := by
  induction l generalizing s with
  | nil => exact h
  | cons x r ih => exact ih (k s.2 s.1 x h)

theorem State.Touches.forEach {f : State → α → State} {l : List α} {s : State} (h : z.Touches ps s) (k : ∀ t x, z.Touches ps t → z.Touches ps (f t x)) :
    z.Touches ps (forEach l s f) := h.foldl k

end

/-- A record update: the parts outside the frame are the same. -/
theorem State.Touches.upd {z t : State} {ps : List Part} (s : State) (h : z.Touches ps s)
    (e : s.Touches ps t := by intro p hp; cases p <;> first | exact absurd hp (by decide) | rfl) : z.Touches ps t := h.trans e

/-- Frames within frames. -/
theorem Part.all_trans {ps qs rs : List Part} (h : qs.all rs.contains = true) (e : ps.all qs.contains = true := by decide) : ps.all rs.contains = true :=
  List.all_eq_true.2 fun p hp => List.all_eq_true.1 h p (List.contains_iff_mem.1 (List.all_eq_true.1 e p hp))

end Machine
end Sys2Proof
end

