-- ==== Sys2Proof/Laws/TouchBase.lean ====
section
/-!
SUPPORT. The operations of registers, tiers, budgets, contexts and streams change at most the listed parts of the state (`State.Touches`): one lemma for each.
-/
namespace Sys2Proof
namespace Machine
set_option Elab.async false

theorem State.wr_to (s : State) (key : Nat) (w : Word) : s.Touches [.regs] (State.wr s key w) := by
  unfold State.wr
  refine State.Touches.upd s ?_
  exact State.Touches.refl _ _

theorem State.fs_to (s : State) (key : Nat) (f : Fld) (v : Nat) : s.Touches [.regs] (State.fs s key f v) := by
  unfold State.fs
  refine State.Touches.step (State.wr_to _ _ _) ?_; exact State.Touches.refl _ _

theorem State.fsat_to (s : State) (key : Nat) (f : Fld) (n : Nat) : s.Touches [.regs] (State.fsat s key f n) := by
  unfold State.fsat
  refine State.Touches.step (State.fs_to _ _ _ _) ?_; exact State.Touches.refl _ _

theorem State.count_to (s : State) (key : Nat) : s.Touches [.regs] (State.count s key) := by
  unfold State.count
  refine State.Touches.step (State.fsat_to _ _ _ _) ?_; exact State.Touches.refl _ _

theorem State.countN_to (s : State) (key n : Nat) : s.Touches [.regs] (State.countN s key n) := by
  unfold State.countN
  refine State.Touches.step (State.fsat_to _ _ _ _) ?_; exact State.Touches.refl _ _

theorem State.resetReg_to (s : State) (key : Nat) : s.Touches [.regs] (State.resetReg s key) := by
  unfold State.resetReg
  refine State.Touches.upd s ?_
  exact State.Touches.refl _ _

theorem State.zeroRegs_to (s : State) (keys : List Nat) : s.Touches [.regs] (State.zeroRegs s keys) := by
  unfold State.zeroRegs
  refine State.Touches.foldl ?_ ?_
  · exact State.Touches.refl _ _
  · intro v0 v1 v2
    refine State.Touches.step (State.wr_to _ _ _) ?_; with_reducible assumption

theorem State.pmcBump_to (s : State) (u i n : Nat) : s.Touches [.regs] (State.pmcBump s u i n) := by
  unfold State.pmcBump
  extract_lets +onlyGivenNames v_0
  extract_lets +onlyGivenNames t_1
  have ht_1 : State.Touches s [.regs] t_1 := by
    unfold t_1
    refine State.Touches.step (State.fs_to _ _ _ _) ?_; exact State.Touches.refl _ _
  clear_value t_1
  split
  · exact ht_1
  · refine State.Touches.step (State.fs_to _ _ _ _) ?_; exact ht_1

theorem State.pmc_to (s : State) (u ev n : Nat) (a : PmcAttr) : s.Touches [.regs] (State.pmc s u ev n a) := by
  unfold State.pmc
  refine State.Touches.foldl ?_ ?_
  · exact State.Touches.refl _ _
  · intro v0 v1 v2
    split
    · split
      · refine State.Touches.step (State.pmcBump_to _ _ _ _) ?_; with_reducible assumption
      · with_reducible assumption
    · with_reducible assumption

theorem State.aclkClocks_to (s : State) (n : Nat) : s.Touches [.regs] (State.aclkClocks s n) := by
  unfold State.aclkClocks
  refine State.Touches.foldl ?_ ?_
  · exact State.Touches.refl _ _
  · intro v0 v1 v2
    extract_lets +onlyGivenNames k_3
    extract_lets +onlyGivenNames u_4
    have hu_4 : State.Touches s [.regs] u_4 := by
      unfold u_4
      refine State.Touches.step (State.fs_to _ _ _ _) ?_; with_reducible assumption
    clear_value u_4
    split
    · split
      · refine State.Touches.step (State.fs_to _ _ _ _) ?_; exact hu_4
      · exact hu_4
    · exact hu_4

theorem State.pmcClocks_to (s : State) (n : Nat) : s.Touches [.regs] (State.pmcClocks s n) := by
  unfold State.pmcClocks
  refine State.Touches.foldl ?_ ?_
  · exact State.Touches.refl _ _
  · intro v0 v1 v2
    extract_lets +onlyGivenNames u_3
    split
    · refine State.Touches.step (State.pmcBump_to _ _ _ _) ?_; with_reducible assumption
    · with_reducible assumption

theorem State.memWr_to (s : State) (a : Nat) (b : Byte) : s.Touches [.mem, .far] (State.memWr s a b) := by
  unfold State.memWr
  split
  · refine State.Touches.upd s ?_
    exact State.Touches.refl _ _
  · refine State.Touches.upd s ?_
    exact State.Touches.refl _ _

theorem State.memWrN_to (s : State) (a : Nat) (bs : Bytes) : s.Touches [.mem, .far] (State.memWrN s a bs) := by
  unfold State.memWrN
  refine State.Touches.foldl ?_ ?_
  · exact State.Touches.refl _ _
  · intro v0 v1 v2
    refine State.Touches.step (State.memWr_to _ _ _) ?_; with_reducible assumption

theorem State.accTake_to (s : State) (core : Nat) : s.Touches [.far, .stamps, .freeCtr] (State.accTake s core) := by
  unfold State.accTake
  refine State.Touches.upd s ?_
  exact State.Touches.refl _ _

theorem State.free_to (s : State) : s.Touches [.freeCtr] (State.free s).2 := by
  unfold State.free
  dsimp only
  refine State.Touches.upd s ?_
  exact State.Touches.refl _ _

theorem State.random_to (s : State) (n : Nat) : s.Touches [.randCtr] (State.random s n).2 := by
  unfold State.random
  dsimp only
  refine State.Touches.upd s ?_
  exact State.Touches.refl _ _

theorem State.emit_to (s : State) (m : OutMsg) : s.Touches [.sent] (State.emit s m) := by
  unfold State.emit
  refine State.Touches.upd s ?_
  exact State.Touches.refl _ _

theorem State.haunoRaised_to {z : State} {G : List Part} {t s : State} {h : Nat} (hG : List.all ([.sent] : List Part) G.contains = true) (ht : z.Touches G t) (hs : z.Touches G s) : z.Touches G (State.haunoRaised t s h) := by
  unfold State.haunoRaised
  split
  · refine State.Touches.step (State.emit_to _ _) ?_ (Part.all_trans hG); exact ht
  · exact ht

theorem State.haunoEvent_to (s : State) (h : Nat) (fl : Fld) (v : Nat) : s.Touches [.regs, .sent] (State.haunoEvent s h fl v) := by
  unfold State.haunoEvent
  apply State.haunoRaised_to (by decide)
  · refine State.Touches.step (State.fs_to _ _ _ _) ?_; exact State.Touches.refl _ _
  · exact State.Touches.refl _ _

theorem State.refuseTlp_to (s : State) (port : Nat) : s.Touches [.host, .sent] (State.refuseTlp s port) := by
  unfold State.refuseTlp
  extract_lets +onlyGivenNames c_0
  refine State.Touches.step (State.emit_to _ _) ?_
  refine State.Touches.upd s ?_
  exact State.Touches.refl _ _

theorem State.msixNow_to (s : State) (port v : Nat) : s.Touches [.regs, .sent] (State.msixNow s port v) := by
  unfold State.msixNow
  split
  · exact State.Touches.refl _ _
  · split
    · refine State.Touches.step (State.wr_to _ _ _) ?_; exact State.Touches.refl _ _
    · split
      · refine State.Touches.step (State.emit_to _ _) ?_; exact State.Touches.refl _ _
      · exact State.Touches.refl _ _

theorem State.msixBoth_to (s : State) (v : Nat) : s.Touches [.regs, .sent] (State.msixBoth s v) := by
  unfold State.msixBoth
  refine State.Touches.step (State.msixNow_to _ _ _) ?_; refine State.Touches.step (State.msixNow_to _ _ _) ?_; exact State.Touches.refl _ _

theorem State.log_to (s : State) (code severity source : Nat) (detail : Bytes) : s.Touches [.regs, .log, .sent] (State.log s code severity source detail) := by
  unfold State.log
  extract_lets +onlyGivenNames d_0
  extract_lets +onlyGivenNames st_1
  extract_lets +onlyGivenNames fresh_2
  extract_lets +onlyGivenNames add_3
  have hadd_3 : State.Touches s [.regs, .log, .sent] add_3 := by
    unfold add_3
    split
    · refine State.Touches.upd s ?_
      exact State.Touches.refl _ _
    · refine State.Touches.step (State.fs_to _ _ _ _) ?_
      refine State.Touches.upd s ?_
      exact State.Touches.refl _ _
  clear_value add_3
  extract_lets +onlyGivenNames t_4
  have ht_4 : State.Touches s [.regs, .log, .sent] t_4 := by
    unfold t_4
    split
    · split
      · refine State.Touches.upd s ?_
        exact State.Touches.refl _ _
      · exact hadd_3
    · exact hadd_3
  clear_value t_4
  split
  · refine State.Touches.step (State.msixBoth_to _ _) ?_; exact ht_4
  · exact ht_4

theorem State.platformEvent_to (s : State) (b : Bytes) : s.Touches [.sent] (State.platformEvent s b) := by
  unfold State.platformEvent
  split
  · refine State.Touches.step (State.emit_to _ _) ?_; exact State.Touches.refl _ _
  · exact State.Touches.refl _ _

theorem State.setState_to (s : State) (n : Nat) : s.Touches [.regs, .log, .sent] (State.setState s n) := by
  unfold State.setState
  split
  · exact State.Touches.refl _ _
  · extract_lets +onlyGivenNames t_0
    have ht_0 : State.Touches s [.regs, .log, .sent] t_0 := by
      unfold t_0
      refine State.Touches.step (State.fs_to _ _ _ _) ?_; refine State.Touches.step (State.fsat_to _ _ _ _) ?_
      refine State.Touches.step (State.fs_to _ _ _ _) ?_; exact State.Touches.refl _ _
    clear_value t_0
    refine State.Touches.step (State.platformEvent_to _ _) ?_; refine State.Touches.step (State.msixBoth_to _ _) ?_
    refine State.Touches.step (State.log_to _ _ _ _ _) ?_; exact ht_0

theorem State.raise_to (s : State) (key : Nat) (f : Fld) : s.Touches [.regs] (State.raise s key f) := by
  unfold State.raise
  refine State.Touches.step (State.fs_to _ _ _ _) ?_; exact State.Touches.refl _ _

theorem State.eccClear_to (s : State) (lo hi : Nat) : s.Touches [.tiers] (State.eccClear s lo hi) := by
  unfold State.eccClear
  refine State.Touches.upd s ?_
  exact State.Touches.refl _ _

theorem State.eccMark_to (s : State) (w v : Nat) : s.Touches [.tiers] (State.eccMark s w v) := by
  unfold State.eccMark
  refine State.Touches.upd s ?_
  exact State.Touches.refl _ _

theorem State.retireCandidate_to (s : State) (k ch : Nat) : s.Touches [.regs, .tiers, .log, .sent] (State.retireCandidate s k ch) := by
  unfold State.retireCandidate
  extract_lets +onlyGivenNames st_0
  split
  · refine State.Touches.step (State.log_to _ _ _ _ _) ?_; refine State.Touches.step (State.fs_to _ _ _ _) ?_
    refine State.Touches.step (State.fs_to _ _ _ _) ?_; refine State.Touches.step (State.fs_to _ _ _ _) ?_
    refine State.Touches.step (State.fs_to _ _ _ _) ?_
    refine State.Touches.upd s ?_
    exact State.Touches.refl _ _
  · split
    · exact State.Touches.refl _ _
    · refine State.Touches.step (State.log_to _ _ _ _ _) ?_; refine State.Touches.step (State.raise_to _ _ _) ?_; exact State.Touches.refl _ _

theorem State.eccCount_to (s : State) (reg v : Nat) : s.Touches [.regs] (State.eccCount s reg v) := by
  unfold State.eccCount
  split
  · refine State.Touches.step (State.fsat_to _ _ _ _) ?_; exact State.Touches.refl _ _
  · split
    · refine State.Touches.step (State.fsat_to _ _ _ _) ?_; exact State.Touches.refl _ _
    · refine State.Touches.step (State.fsat_to _ _ _ _) ?_; exact State.Touches.refl _ _

theorem State.eccCountFar_to (s : State) (w v : Nat) : s.Touches [.regs, .tiers, .log, .sent] (State.eccCountFar s w v) := by
  unfold State.eccCountFar
  extract_lets +onlyGivenNames chn_0
  extract_lets +onlyGivenNames k_1
  extract_lets +onlyGivenNames ch_2
  extract_lets +onlyGivenNames reg_3
  split
  · extract_lets +onlyGivenNames t_4
    have ht_4 : State.Touches s [.regs, .tiers, .log, .sent] t_4 := by
      unfold t_4
      refine State.Touches.step (State.pmc_to _ _ _ _ _) ?_; refine State.Touches.step (State.fsat_to _ _ _ _) ?_
      refine State.Touches.step (State.fsat_to _ _ _ _) ?_; exact State.Touches.refl _ _
    clear_value t_4
    extract_lets +onlyGivenNames th_5
    split
    · refine State.Touches.step (State.retireCandidate_to _ _ _) ?_; exact ht_4
    · exact ht_4
  · split
    · refine State.Touches.step (State.retireCandidate_to _ _ _) ?_; refine State.Touches.step (State.fsat_to _ _ _ _) ?_; exact State.Touches.refl _ _
    · exact State.Touches.refl _ _

theorem State.eccTouch_to (s : State) (p : Nat × Nat) : s.Touches [.regs, .tiers, .log, .sent] (State.eccTouch s p) := by
  unfold State.eccTouch
  extract_lets +onlyGivenNames t_0
  have ht_0 : State.Touches s [.regs, .tiers, .log, .sent] t_0 := by
    unfold t_0
    split
    · refine State.Touches.step (State.eccClear_to _ _ _) ?_; exact State.Touches.refl _ _
    · exact State.Touches.refl _ _
  clear_value t_0
  split
  · refine State.Touches.step (State.eccCountFar_to _ _ _) ?_; exact ht_0
  · split
    · extract_lets +onlyGivenNames core_1
      refine State.Touches.step (State.eccCount_to _ _ _) ?_; exact ht_0
    · split
      · refine State.Touches.step (State.eccCount_to _ _ _) ?_; exact ht_0
      · extract_lets +onlyGivenNames core_2
        refine State.Touches.step (State.eccCount_to _ _ _) ?_; exact ht_0

theorem State.eccRead_to (s : State) (lo hi : Nat) : s.Touches [.regs, .tiers, .log, .sent] (State.eccRead s lo hi).1 := by
  unfold State.eccRead
  extract_lets +onlyGivenNames m_0
  dsimp only
  refine State.Touches.foldl ?_ ?_
  · exact State.Touches.refl _ _
  · intro v1 v2 v3
    refine State.Touches.step (State.eccTouch_to _ _) ?_; with_reducible assumption

theorem State.poison_to (s : State) (ws : List Nat) : s.Touches [.tiers] (State.poison s ws) := by
  unfold State.poison
  refine State.Touches.foldl ?_ ?_
  · exact State.Touches.refl _ _
  · intro v0 v1 v2
    refine State.Touches.step (State.eccMark_to _ _ _) ?_; with_reducible assumption

theorem State.showHot_to (s : State) (d n : Nat) : s.Touches [.regs] (State.showHot s d n) := by
  unfold State.showHot
  refine State.Touches.foldl ?_ ?_
  · exact State.Touches.refl _ _
  · intro v0 v1 v2
    refine State.Touches.step (State.fs_to _ _ _ _) ?_; with_reducible assumption

theorem State.kpuMark_to (s : State) (space unit off n : Nat) : s.Touches [.kpu] (State.kpuMark s space unit off n) := by
  unfold State.kpuMark
  split
  · exact State.Touches.refl _ _
  · refine State.Touches.foldl ?_ ?_
    · exact State.Touches.refl _ _
    · intro v0 v1 v2
      extract_lets +onlyGivenNames lo_3
      extract_lets +onlyGivenNames hi_4
      split
      · extract_lets +onlyGivenNames p0_5
        extract_lets +onlyGivenNames p1_6
        extract_lets +onlyGivenNames mark_7
        refine State.Touches.upd v0 ?_
        with_reducible assumption
      · with_reducible assumption

theorem State.eruDelta_to (s : State) (dom off : Nat) (old new : Bytes) : s.Touches [.eru] (State.eruDelta s dom off old new) := by
  unfold State.eruDelta
  refine State.Touches.foldl ?_ ?_
  · exact State.Touches.refl _ _
  · intro v0 v1 v2
    extract_lets +onlyGivenNames lo_3
    extract_lets +onlyGivenNames hi_4
    extract_lets +onlyGivenNames n_5
    split
    · extract_lets +onlyGivenNames a_6
      extract_lets +onlyGivenNames b_7
      extract_lets +onlyGivenNames d_8
      refine State.Touches.upd v0 ?_
      with_reducible assumption
    · with_reducible assumption

theorem State.sramRead_to (s : State) (core a n : Nat) : s.Touches [.regs, .tiers, .log, .sent] (State.sramRead s core a n).2.1 := by
  unfold State.sramRead
  extract_lets +onlyGivenNames r_0
  have hr_0 : State.Touches s [.regs, .tiers, .log, .sent] r_0.1 := by
    unfold r_0
    refine State.Touches.step (State.eccRead_to _ _ _) ?_; exact State.Touches.refl _ _
  clear_value r_0
  with_reducible assumption

theorem State.sramWrite_to (s : State) (core a : Nat) (bs : Bytes) : s.Touches [.mem, .far, .tiers, .kpu] (State.sramWrite s core a bs) := by
  unfold State.sramWrite
  extract_lets +onlyGivenNames k_0
  refine State.Touches.step (State.kpuMark_to _ _ _ _ _) ?_; refine State.Touches.step (State.eccClear_to _ _ _) ?_
  refine State.Touches.step (State.memWrN_to _ _ _) ?_; exact State.Touches.refl _ _

theorem State.sramPoison_to (s : State) (core a n : Nat) : s.Touches [.tiers] (State.sramPoison s core a n) := by
  unfold State.sramPoison
  extract_lets +onlyGivenNames k_0
  refine State.Touches.step (State.poison_to _ _) ?_; exact State.Touches.refl _ _

theorem State.bondRead_to (s : State) (core a n : Nat) : s.Touches [.regs, .tiers, .log, .sent] (State.bondRead s core a n).2.1 := by
  unfold State.bondRead
  extract_lets +onlyGivenNames k_0
  extract_lets +onlyGivenNames r_1
  have hr_1 : State.Touches s [.regs, .tiers, .log, .sent] r_1.1 := by
    unfold r_1
    refine State.Touches.step (State.eccRead_to _ _ _) ?_; exact State.Touches.refl _ _
  clear_value r_1
  with_reducible assumption

theorem State.bondWrite_to (s : State) (core a : Nat) (bs : Bytes) : s.Touches [.mem, .far, .tiers, .kpu] (State.bondWrite s core a bs) := by
  unfold State.bondWrite
  extract_lets +onlyGivenNames k_0
  refine State.Touches.step (State.kpuMark_to _ _ _ _ _) ?_; refine State.Touches.step (State.eccClear_to _ _ _) ?_
  refine State.Touches.step (State.memWrN_to _ _ _) ?_; exact State.Touches.refl _ _

theorem State.bondPoison_to (s : State) (core a n : Nat) : s.Touches [.tiers] (State.bondPoison s core a n) := by
  unfold State.bondPoison
  extract_lets +onlyGivenNames k_0
  refine State.Touches.step (State.poison_to _ _) ?_; exact State.Touches.refl _ _

theorem State.granulePmc_to (s : State) (ev : Nat) (ks : List Nat) : s.Touches [.regs] (State.granulePmc s ev ks) := by
  unfold State.granulePmc
  split
  · exact State.Touches.refl _ _
  · refine State.Touches.foldl ?_ ?_
    · exact State.Touches.refl _ _
    · intro v0 v1 v2
      refine State.Touches.step (State.pmc_to _ _ _ _ _) ?_; with_reducible assumption

theorem State.take_to (s : State) (a res inst n : Nat) : s.Touches [.bud] (State.take s a res inst n) := by
  unfold State.take
  extract_lets +onlyGivenNames c_0
  refine State.Touches.upd s ?_
  exact State.Touches.refl _ _

theorem State.copyCharge_to (s : State) (k a b : Nat) : s.Touches [.bud] (State.copyCharge s k a b) := by
  unfold State.copyCharge
  refine State.Touches.foldl ?_ ?_
  · exact State.Touches.refl _ _
  · intro v0 v1 v2
    extract_lets +onlyGivenNames lo_3
    extract_lets +onlyGivenNames hi_4
    split
    · refine State.Touches.step (State.take_to _ _ _ _ _) ?_; with_reducible assumption
    · with_reducible assumption

theorem State.copyTo_to (s : State) (k n : Nat) : s.Touches [.regs, .far, .tiers, .bud, .log, .sent] (State.copyTo s k n) := by
  unfold State.copyTo
  extract_lets +onlyGivenNames st_0
  extract_lets +onlyGivenNames ch_1
  extract_lets +onlyGivenNames r0_2
  split
  · exact State.Touches.refl _ _
  · extract_lets +onlyGivenNames lo_3
    extract_lets +onlyGivenNames hi_4
    extract_lets +onlyGivenNames cells_5
    extract_lets +onlyGivenNames tgt_6
    extract_lets +onlyGivenNames marks_7
    extract_lets +onlyGivenNames s1_8
    have hs1_8 : State.Touches s [.regs, .far, .tiers, .bud, .log, .sent] s1_8 := by
      unfold s1_8
      refine State.Touches.foldl ?_ ?_
      · refine State.Touches.upd s ?_
        exact State.Touches.refl _ _
      · intro v9 v10 v11
        refine State.Touches.step (State.eccTouch_to _ _) ?_; with_reducible assumption
    clear_value s1_8
    extract_lets +onlyGivenNames old_12
    extract_lets +onlyGivenNames s2_13
    extract_lets +onlyGivenNames s2_14
    have hs2_14 : State.Touches s [.regs, .far, .tiers, .bud, .log, .sent] s2_14 := by
      unfold s2_14
      refine State.Touches.upd s1_8 ?_
      exact hs1_8
    clear_value s2_14
    refine State.Touches.step (State.fs_to _ _ _ _) ?_; refine State.Touches.step (State.copyCharge_to _ _ _ _) ?_
    refine State.Touches.step (State.poison_to _ _) ?_; exact hs2_14

theorem State.copyAdvance_to (s : State) : s.Touches [.regs, .far, .tiers, .bud, .log, .sent] (State.copyAdvance s) := by
  unfold State.copyAdvance
  refine State.Touches.foldl ?_ ?_
  · exact State.Touches.refl _ _
  · intro v0 v1 v2
    refine State.Touches.step (State.copyTo_to _ _ _) ?_; with_reducible assumption

theorem State.copyRebase_to (s : State) : s.Touches [.regs, .far, .tiers, .bud, .log, .sent] (State.copyRebase s) := by
  unfold State.copyRebase
  extract_lets +onlyGivenNames t_0
  have ht_0 : State.Touches s [.regs, .far, .tiers, .bud, .log, .sent] t_0 := by
    unfold t_0
    refine State.Touches.step (State.copyAdvance_to _) ?_; exact State.Touches.refl _ _
  clear_value t_0
  refine State.Touches.upd t_0 ?_
  exact ht_0

theorem State.upset_to (s : State) (u : List (Nat × Nat)) : s.Touches [.regs, .far, .tiers, .bud, .log, .sent] (State.upset s u) := by
  unfold State.upset
  refine State.Touches.foldl ?_ ?_
  · exact State.Touches.refl _ _
  · intro v0 v1 v2
    split
    · with_reducible assumption
    · split
      · split
        · refine State.Touches.step (State.eccMark_to _ _ _) ?_; with_reducible assumption
        · with_reducible assumption
      · extract_lets +onlyGivenNames j_3
        extract_lets +onlyGivenNames key_4
        extract_lets +onlyGivenNames v_5
        have hv_5 : State.Touches s [.regs, .far, .tiers, .bud, .log, .sent] v_5 := by
          unfold v_5
          refine State.Touches.step (State.copyAdvance_to _) ?_; with_reducible assumption
        clear_value v_5
        extract_lets +onlyGivenNames x_6
        have hx_6 : State.Touches s [.regs, .far, .tiers, .bud, .log, .sent] x_6 := by
          unfold x_6
          split
          · exact hv_5
          · refine State.Touches.upd v_5 ?_
            exact hv_5
        clear_value x_6
        split
        · exact hx_6
        · refine State.Touches.step (State.eccMark_to _ _ _) ?_; exact hx_6

theorem State.farBlock_to (s : State) (i off : Nat) (b : Bytes) : s.Touches [.far] (State.farBlock s i off b) := by
  unfold State.farBlock
  extract_lets +onlyGivenNames p_0
  extract_lets +onlyGivenNames ks_1
  extract_lets +onlyGivenNames sh_2
  split
  · extract_lets +onlyGivenNames c_3
    refine State.Touches.upd s ?_
    exact State.Touches.refl _ _
  · exact State.Touches.refl _ _

theorem State.farStore_to (s : State) (i off : Nat) (bs : Bytes) : s.Touches [.far] (State.farStore s i off bs) := by
  unfold State.farStore
  extract_lets +onlyGivenNames n_0
  refine State.Touches.foldl ?_ ?_
  · exact State.Touches.refl _ _
  · intro v1 v2 v3
    extract_lets +onlyGivenNames a_4
    refine State.Touches.step (State.farBlock_to _ _ _ _) ?_; with_reducible assumption

theorem State.farRead_to (s : State) (i off n : Nat) : s.Touches [.regs, .tiers, .log, .sent] (State.farRead s i off n).2.1 := by
  unfold State.farRead
  extract_lets +onlyGivenNames ks_0
  extract_lets +onlyGivenNames ws_1
  extract_lets +onlyGivenNames m_2
  dsimp only
  refine State.Touches.step (State.granulePmc_to _ _ _) ?_
  refine State.Touches.foldl ?_ ?_
  · exact State.Touches.refl _ _
  · intro v3 v4 v5
    refine State.Touches.step (State.eccTouch_to _ _) ?_; with_reducible assumption

theorem State.farWrite_to (s0 : State) (i off : Nat) (bs : Bytes) : s0.Touches [.regs, .far, .tiers, .kpu, .eru, .bud, .log, .sent] (State.farWrite s0 i off bs) := by
  unfold State.farWrite
  extract_lets +onlyGivenNames s_0
  have hs_0 : State.Touches s0 [.regs, .far, .tiers, .kpu, .eru, .bud, .log, .sent] s_0 := by
    unfold s_0
    refine State.Touches.step (State.copyAdvance_to _) ?_; exact State.Touches.refl _ _
  clear_value s_0
  extract_lets +onlyGivenNames ks_1
  extract_lets +onlyGivenNames ws_2
  extract_lets +onlyGivenNames full_3
  extract_lets +onlyGivenNames v_4
  have hv_4 : State.Touches s0 [.regs, .far, .tiers, .kpu, .eru, .bud, .log, .sent] v_4 := by
    unfold v_4
    refine State.Touches.foldl ?_ ?_
    · refine State.Touches.step (State.farStore_to _ _ _ _) ?_; exact hs_0
    · intro v5 v6 v7
      refine State.Touches.step (State.eccClear_to _ _ _) ?_; with_reducible assumption
  clear_value v_4
  refine State.Touches.step (State.eruDelta_to _ _ _ _ _) ?_; refine State.Touches.step (State.kpuMark_to _ _ _ _ _) ?_
  refine State.Touches.step (State.granulePmc_to _ _ _) ?_; exact hv_4

theorem State.farPoison_to (s : State) (i off n : Nat) : s.Touches [.tiers] (State.farPoison s i off n) := by
  unfold State.farPoison
  refine State.Touches.step (State.poison_to _ _) ?_; exact State.Touches.refl _ _

theorem State.retireSwitch_to (s : State) (ks : List Nat) : s.Touches [.regs, .log, .trips, .sent] (State.retireSwitch s ks) := by
  unfold State.retireSwitch
  refine State.Touches.foldl ?_ ?_
  · exact State.Touches.refl _ _
  · intro v0 v1 v2
    extract_lets +onlyGivenNames ch_3
    refine State.Touches.step (State.log_to _ _ _ _ _) ?_
    extract_lets +onlyGivenNames w4
    have hw4 : State.Touches s [.regs, .log, .trips, .sent] w4 := by
      unfold w4
      refine State.Touches.step (State.fsat_to _ _ _ _) ?_; refine State.Touches.step (State.fs_to _ _ _ _) ?_; with_reducible assumption
    refine State.Touches.upd w4 ?_
    exact hw4

theorem State.setRefresh_to (s : State) (core layer rate : Nat) : s.Touches [.regs, .tiers] (State.setRefresh s core layer rate) := by
  unfold State.setRefresh
  extract_lets +onlyGivenNames reg_0
  extract_lets +onlyGivenNames old_1
  extract_lets +onlyGivenNames t_2
  have ht_2 : State.Touches s [.regs, .tiers] t_2 := by
    unfold t_2
    refine State.Touches.step (State.fs_to _ _ _ _) ?_; exact State.Touches.refl _ _
  clear_value t_2
  split
  · refine State.Touches.foldl ?_ ?_
    · exact ht_2
    · intro v3 v4 v5
      extract_lets +onlyGivenNames chn_6
      refine State.Touches.upd v3 ?_
      with_reducible assumption
  · exact ht_2

theorem execPatrolScrub_to (tier addr : Nat) (_newer : Bool) (s : State) : Within s [.regs, .tiers, .bud, .log, .sent] (execPatrolScrub tier addr _newer s) := by
  unfold execPatrolScrub
  extract_lets +onlyGivenNames w_0
  extract_lets +onlyGivenNames go_1
  split
  · refine Within.occurs ?_ ?_
    · exact State.Touches.refl _ _
    · refine State.Touches.step (State.eccRead_to _ _ _) ?_; refine State.Touches.step (State.take_to _ _ _ _ _) ?_; exact State.Touches.refl _ _
  · refine Within.occurs ?_ ?_
    · exact State.Touches.refl _ _
    · refine State.Touches.step (State.eccRead_to _ _ _) ?_; exact State.Touches.refl _ _

theorem State.marginStart_to (s : State) : s.Touches [.regs, .tiers] (State.marginStart s) := by
  unfold State.marginStart
  extract_lets +onlyGivenNames c_0
  split
  · extract_lets +onlyGivenNames w1
    have hw1 : State.Touches s [.regs, .tiers] w1 := by
      unfold w1
      refine State.Touches.step (State.fs_to _ _ _ _) ?_; refine State.Touches.step (State.fs_to _ _ _ _) ?_; exact State.Touches.refl _ _
    refine State.Touches.upd w1 ?_
    exact hw1
  · refine State.Touches.step (State.fs_to _ _ _ _) ?_; refine State.Touches.step (State.fs_to _ _ _ _) ?_
    refine State.Touches.step (State.fs_to _ _ _ _) ?_; refine State.Touches.step (State.fs_to _ _ _ _) ?_
    refine State.Touches.step (State.fs_to _ _ _ _) ?_; exact State.Touches.refl _ _

theorem execMarginStart_to (port : Nat) (s : State) : Within s [.regs, .tiers] (execMarginStart port s) := by
  unfold execMarginStart
  refine Within.occurs ?_ ?_
  · exact State.Touches.refl _ _
  · refine State.Touches.step (State.marginStart_to _) ?_; exact State.Touches.refl _ _

theorem execClearRetire_to (port k : Nat) (s : State) : Within s [.regs] (execClearRetire port k s) := by
  unfold execClearRetire
  refine Within.occurs ?_ ?_
  · exact State.Touches.refl _ _
  · refine State.Touches.step (State.fs_to _ _ _ _) ?_; exact State.Touches.refl _ _

theorem execMemClearCounts_to (port core : Nat) (s : State) : Within s [.regs] (execMemClearCounts port core s) := by
  unfold execMemClearCounts
  refine Within.occurs ?_ ?_
  · exact State.Touches.refl _ _
  · refine State.Touches.step (State.zeroRegs_to _ _) ?_; exact State.Touches.refl _ _

theorem execFmcClearCounts_to (port : Nat) (s : State) : Within s [.regs] (execFmcClearCounts port s) := by
  unfold execFmcClearCounts
  refine Within.occurs ?_ ?_
  · exact State.Touches.refl _ _
  · refine State.Touches.step (State.zeroRegs_to _ _) ?_; exact State.Touches.refl _ _

theorem State.refill_to (s : State) : s.Touches [.bud] (State.refill s) := by
  unfold State.refill
  extract_lets +onlyGivenNames keys_0
  extract_lets +onlyGivenNames ctr_1
  extract_lets +onlyGivenNames pool_2
  refine State.Touches.upd s ?_
  exact State.Touches.refl _ _

theorem State.charge_to (s0 : State) (a res inst n : Nat) : s0.Touches [.regs, .bud] (State.charge s0 a res inst n) := by
  unfold State.charge
  extract_lets +onlyGivenNames s_0
  have hs_0 : State.Touches s0 [.regs, .bud] s_0 := by
    unfold s_0
    split
    · refine State.Touches.step (State.pmc_to _ _ _ _ _) ?_; exact State.Touches.refl _ _
    · exact State.Touches.refl _ _
  clear_value s_0
  extract_lets +onlyGivenNames k_1
  extract_lets +onlyGivenNames c_2
  split
  · refine State.Touches.upd s_0 ?_
    exact hs_0
  · refine State.Touches.upd s_0 ?_
    exact hs_0

theorem State.chargeAll_to (s : State) (a : Nat) (cs : List (Nat × Nat × Nat)) : s.Touches [.regs, .bud] (State.chargeAll s a cs) := by
  unfold State.chargeAll
  refine State.Touches.foldl ?_ ?_
  · exact State.Touches.refl _ _
  · intro v0 v1 v2
    refine State.Touches.step (State.charge_to _ _ _ _ _) ?_; with_reducible assumption

theorem State.takeAll_to (s : State) (a : Nat) (cs : List (Nat × Nat × Nat)) : s.Touches [.bud] (State.takeAll s a cs) := by
  unfold State.takeAll
  refine State.Touches.foldl ?_ ?_
  · exact State.Touches.refl _ _
  · intro v0 v1 v2
    refine State.Touches.step (State.take_to _ _ _ _ _) ?_; with_reducible assumption

theorem State.gate_to (s : State) (a res inst : Nat) : s.Touches [.regs, .bud] (State.gate s a res inst) := by
  unfold State.gate
  extract_lets +onlyGivenNames k_0
  extract_lets +onlyGivenNames c_1
  extract_lets +onlyGivenNames t_2
  extract_lets +onlyGivenNames t_3
  have ht_3 : State.Touches s [.regs, .bud] t_3 := by
    unfold t_3
    refine State.Touches.upd s ?_
    exact State.Touches.refl _ _
  clear_value t_3
  extract_lets +onlyGivenNames u_4
  have hu_4 : State.Touches s [.regs, .bud] u_4 := by
    unfold u_4
    refine State.Touches.step (State.fs_to _ _ _ _) ?_; exact ht_3
  clear_value u_4
  split
  · refine State.Touches.step (State.fs_to _ _ _ _) ?_; exact hu_4
  · exact hu_4

theorem execBudgetExhausted_to (a res inst : Nat) (s : State) : Within s [.regs, .bud] (execBudgetExhausted a res inst s) := by
  unfold execBudgetExhausted
  extract_lets +onlyGivenNames need_0
  refine Within.occurs ?_ ?_
  · exact State.Touches.refl _ _
  · refine State.Touches.step (State.gate_to _ _ _ _) ?_; exact State.Touches.refl _ _

theorem execBudClearCounts_to (port : Nat) (s : State) : Within s [.regs, .bud] (execBudClearCounts port s) := by
  unfold execBudClearCounts
  refine Within.occurs ?_ ?_
  · exact State.Touches.refl _ _
  · refine State.Touches.step (State.fs_to _ _ _ _) ?_
    refine State.Touches.upd s ?_
    exact State.Touches.refl _ _

theorem State.setAct_to (s : State) (a st : Nat) : s.Touches [.regs] (State.setAct s a st) := by
  unfold State.setAct
  split
  · exact State.Touches.refl _ _
  · refine State.Touches.step (State.fs_to _ _ _ _) ?_; exact State.Touches.refl _ _

theorem State.setCtx_to (s : State) (x st : Nat) : s.Touches [.regs] (State.setCtx s x st) := by
  unfold State.setCtx
  refine State.Touches.step (State.fs_to _ _ _ _) ?_; exact State.Touches.refl _ _

theorem State.modCtx_to (s : State) (x : Nat) (f : CtxSt → CtxSt) : s.Touches [.seq] (State.modCtx s x f) := by
  unfold State.modCtx
  refine State.Touches.upd s ?_
  exact State.Touches.refl _ _

theorem State.cmdsEnd_to (s : State) (which : CmdSt → Bool) (code : Nat) (res : List Word) : s.Touches [.host] (State.cmdsEnd s which code res) := by
  unfold State.cmdsEnd
  refine State.Touches.foldl ?_ ?_
  · exact State.Touches.refl _ _
  · intro v0 v1 v2
    split
    · split
      · refine State.Touches.upd v0 ?_
        with_reducible assumption
      · with_reducible assumption
    · with_reducible assumption

theorem State.cmdEnds_to (s : State) (op code : Nat) (res : List Word) : s.Touches [.host] (State.cmdEnds s op code res) := by
  unfold State.cmdEnds
  refine State.Touches.step (State.cmdsEnd_to _ _ _ _) ?_; exact State.Touches.refl _ _

theorem State.dieResetEnds_to (s : State) (d code : Nat) : s.Touches [.host] (State.dieResetEnds s d code) := by
  unfold State.dieResetEnds
  refine State.Touches.step (State.cmdsEnd_to _ _ _ _) ?_; exact State.Touches.refl _ _

theorem State.setQueue_to (s : State) (core u : Nat) (q : List QIns) : s.Touches [.seq] (State.setQueue s core u q) := by
  unfold State.setQueue
  refine State.Touches.upd s ?_
  exact State.Touches.refl _ _

theorem State.setRunning_to (s : State) (core u : Nat) (q : Option QIns) : s.Touches [.seq] (State.setRunning s core u q) := by
  unfold State.setRunning
  refine State.Touches.upd s ?_
  exact State.Touches.refl _ _

theorem State.owe_to (s : State) (core slot res inst n row : Nat) : s.Touches [.seq] (State.owe s core slot res inst n row) := by
  unfold State.owe
  split
  · refine State.Touches.step (State.setRunning_to _ _ _ _) ?_; exact State.Touches.refl _ _
  · exact State.Touches.refl _ _

theorem State.endsWith_to (s : State) (core slot code : Nat) : s.Touches [.seq] (State.endsWith s core slot code) := by
  unfold State.endsWith
  split
  · refine State.Touches.step (State.setRunning_to _ _ _ _) ?_; exact State.Touches.refl _ _
  · exact State.Touches.refl _ _

theorem State.dropQueued_to (s : State) (x : Nat) : s.Touches [.seq] (State.dropQueued s x) := by
  unfold State.dropQueued
  refine State.Touches.foldl ?_ ?_
  · exact State.Touches.refl _ _
  · intro v0 v1 v2
    refine State.Touches.step (State.setQueue_to _ _ _ _) ?_; with_reducible assumption

theorem State.actSettle_to (s : State) (a : Nat) : s.Touches [.regs] (State.actSettle s a) := by
  unfold State.actSettle
  split
  · exact State.Touches.refl _ _
  · extract_lets +onlyGivenNames xs_0
    split
    · refine State.Touches.step (State.setAct_to _ _ _) ?_; exact State.Touches.refl _ _
    · split
      · refine State.Touches.step (State.setAct_to _ _ _) ?_; exact State.Touches.refl _ _
      · exact State.Touches.refl _ _

theorem State.stopCtx_to (s : State) (x code : Nat) : s.Touches [.regs, .seq, .log, .sent] (State.stopCtx s x code) := by
  unfold State.stopCtx
  extract_lets +onlyGivenNames t_0
  have ht_0 : State.Touches s [.regs, .seq, .log, .sent] t_0 := by
    unfold t_0
    refine State.Touches.step (State.dropQueued_to _ _) ?_; refine State.Touches.step (State.fs_to _ _ _ _) ?_
    refine State.Touches.step (State.setCtx_to _ _ _) ?_; exact State.Touches.refl _ _
  clear_value t_0
  refine State.Touches.step (State.actSettle_to _ _) ?_; refine State.Touches.step (State.log_to _ _ _ _ _) ?_; exact ht_0

theorem State.haltCtx_to (s : State) (x code : Nat) : s.Touches [.regs, .seq] (State.haltCtx s x code) := by
  unfold State.haltCtx
  split
  · exact State.Touches.refl _ _
  · refine State.Touches.step (State.dropQueued_to _ _) ?_; refine State.Touches.step (State.fs_to _ _ _ _) ?_
    refine State.Touches.step (State.setCtx_to _ _ _) ?_; exact State.Touches.refl _ _

theorem State.faultAct_to (s : State) (a : Nat) : s.Touches [.regs] (State.faultAct s a) := by
  unfold State.faultAct
  split
  · exact State.Touches.refl _ _
  · refine State.Touches.step (State.setAct_to _ _ _) ?_; exact State.Touches.refl _ _

theorem State.faultActs_to (s : State) (p : Nat → Bool) : s.Touches [.regs] (State.faultActs s p) := by
  unfold State.faultActs
  refine State.Touches.foldl ?_ ?_
  · exact State.Touches.refl _ _
  · intro v0 v1 v2
    refine State.Touches.step (State.faultAct_to _ _) ?_; with_reducible assumption

theorem State.applyRecheck_to (s : State) : s.Touches [.img] (State.applyRecheck s) := by
  unfold State.applyRecheck
  split
  · split
    · refine State.Touches.upd s ?_
      exact State.Touches.refl _ _
    · refine State.Touches.upd s ?_
      exact State.Touches.refl _ _
  · exact State.Touches.refl _ _

theorem State.coreFailed_to (s : State) (core : Nat) : s.Touches [.regs, .seq, .img] (State.coreFailed s core) := by
  unfold State.coreFailed
  extract_lets +onlyGivenNames t_0
  have ht_0 : State.Touches s [.regs, .seq, .img] t_0 := by
    unfold t_0
    refine State.Touches.step (State.fs_to _ _ _ _) ?_; exact State.Touches.refl _ _
  clear_value t_0
  extract_lets +onlyGivenNames u_1
  have hu_1 : State.Touches s [.regs, .seq, .img] u_1 := by
    unfold u_1
    refine State.Touches.foldl ?_ ?_
    · exact ht_0
    · intro v2 v3 v4
      split
      · with_reducible assumption
      · refine State.Touches.step (State.haltCtx_to _ _ _) ?_; with_reducible assumption
  clear_value u_1
  refine State.Touches.step (State.applyRecheck_to _) ?_; refine State.Touches.step (State.faultActs_to _ _) ?_; exact hu_1

theorem State.startCtx_to (s : State) (x : Nat) : s.Touches [.regs, .seq] (State.startCtx s x) := by
  unfold State.startCtx
  split
  · exact State.Touches.refl _ _
  · extract_lets +onlyGivenNames t_0
    have ht_0 : State.Touches s [.regs, .seq] t_0 := by
      unfold t_0
      refine State.Touches.step (State.fs_to _ _ _ _) ?_; refine State.Touches.step (State.fs_to _ _ _ _) ?_; exact State.Touches.refl _ _
    clear_value t_0
    refine State.Touches.step (State.modCtx_to _ _ _) ?_; exact ht_0

theorem State.cntAdd_to (s : State) (core j v : Nat) : s.Touches [.regs] (State.cntAdd s core j v) := by
  unfold State.cntAdd
  extract_lets +onlyGivenNames n_0
  split
  · refine State.Touches.step (State.fs_to _ _ _ _) ?_; exact State.Touches.refl _ _
  · refine State.Touches.step (State.raise_to _ _ _) ?_; refine State.Touches.step (State.fs_to _ _ _ _) ?_; exact State.Touches.refl _ _

theorem State.farRelease_to (s : State) (core j : Nat) : s.Touches [.regs, .host] (State.farRelease s core j) := by
  unfold State.farRelease
  extract_lets +onlyGivenNames ports_0
  clear_value ports_0
  split
  · exact State.Touches.refl _ _
  · extract_lets +onlyGivenNames v_1
    extract_lets +onlyGivenNames w2
    have hw2 : State.Touches s [.regs, .host] w2 := by
      unfold w2
      refine State.Touches.step (State.fs_to _ _ _ _) ?_; exact State.Touches.refl _ _
    refine State.Touches.upd w2 ?_
    exact hw2

theorem State.haunoWatch_to (s : State) (core j old : Nat) : s.Touches [.regs, .sent] (State.haunoWatch s core j old) := by
  unfold State.haunoWatch
  refine State.Touches.foldl ?_ ?_
  · exact State.Touches.refl _ _
  · intro v0 v1 v2
    refine State.Touches.foldl ?_ ?_
    · with_reducible assumption
    · intro v3 v4 v5
      extract_lets +onlyGivenNames r_6
      split
      · refine State.Touches.step (State.haunoEvent_to _ _ _ _) ?_; with_reducible assumption
      · with_reducible assumption

theorem State.cntBump_to (s : State) (core j v : Nat) : s.Touches [.regs, .host, .sent] (State.cntBump s core j v) := by
  unfold State.cntBump
  extract_lets +onlyGivenNames old_0
  refine State.Touches.step (State.farRelease_to _ _ _) ?_; refine State.Touches.step (State.haunoWatch_to _ _ _ _) ?_
  refine State.Touches.step (State.cntAdd_to _ _ _ _) ?_; exact State.Touches.refl _ _

theorem State.ringFill_to (s : State) (id : Nat) : s.Touches [.seq] (State.ringFill s id) := by
  unfold State.ringFill
  split
  · refine State.Touches.upd s ?_
    exact State.Touches.refl _ _
  · exact State.Touches.refl _ _

theorem State.slotComplete_to (s : State) (id : Nat) : s.Touches [.regs, .seq, .host, .sent] (State.slotComplete s id) := by
  unfold State.slotComplete
  split
  · extract_lets +onlyGivenNames t_0
    extract_lets +onlyGivenNames t_1
    have ht_1 : State.Touches s [.regs, .seq, .host, .sent] t_1 := by
      unfold t_1
      refine State.Touches.upd s ?_
      exact State.Touches.refl _ _
    clear_value t_1
    refine State.Touches.step (State.cntBump_to _ _ _ _) ?_; refine State.Touches.step (State.fs_to _ _ _ _) ?_; exact ht_1
  · exact State.Touches.refl _ _

theorem execRingSlotComplete_to (core ring : Nat) (s : State) : Within s [.regs, .seq, .host, .sent] (execRingSlotComplete core ring s) := by
  unfold execRingSlotComplete
  refine Within.occurs ?_ ?_
  · exact State.Touches.refl _ _
  · refine State.Touches.step (State.slotComplete_to _ _) ?_; exact State.Touches.refl _ _

theorem State.setStaging_to (s : State) (n : Nat) (l : List (Word × Bool)) : s.Touches [.host] (State.setStaging s n l) := by
  unfold State.setStaging
  refine State.Touches.upd s ?_
  exact State.Touches.refl _ _

theorem State.setPlain_to (s : State) (n : Nat) (l : List Word) : s.Touches [.host] (State.setPlain s n l) := by
  unfold State.setPlain
  refine State.Touches.upd s ?_
  exact State.Touches.refl _ _

theorem State.streamDrop_to (s : State) (n : Nat) : s.Touches [.regs] (State.streamDrop s n) := by
  unfold State.streamDrop
  refine State.Touches.step (State.fsat_to _ _ _ _) ?_; exact State.Touches.refl _ _

theorem State.streamVector_to (s : State) (port v : Nat) : s.Touches [.regs, .host, .sent] (State.streamVector s port v) := by
  unfold State.streamVector
  extract_lets +onlyGivenNames k_0
  extract_lets +onlyGivenNames w_1
  extract_lets +onlyGivenNames busy_2
  split
  · refine State.Touches.upd s ?_
    exact State.Touches.refl _ _
  · extract_lets +onlyGivenNames t_3
    have ht_3 : State.Touches s [.regs, .host, .sent] t_3 := by
      unfold t_3
      refine State.Touches.step (State.msixNow_to _ _ _) ?_; exact State.Touches.refl _ _
    clear_value t_3
    refine State.Touches.upd t_3 ?_
    exact ht_3

theorem State.streamNotify_to {z : State} {G : List Part} {old new : State} (hG : List.all ([.regs, .host, .sent] : List Part) G.contains = true) (hold : z.Touches G old) (hnew : z.Touches G new) : z.Touches G (State.streamNotify old new) := by
  unfold State.streamNotify
  refine State.Touches.foldl ?_ ?_
  · exact hnew
  · intro v0 v1 v2
    extract_lets +onlyGivenNames w_3
    split
    · refine State.Touches.foldl ?_ ?_
      · with_reducible assumption
      · intro v4 v5 v6
        split
        · refine State.Touches.step (State.streamVector_to _ _ _) ?_ (Part.all_trans hG); with_reducible assumption
        · with_reducible assumption
    · with_reducible assumption

theorem State.sealOut_to (s : State) (port chan : Nat) (ws : List Word) : s.Touches [.rind] (State.sealOut s port chan ws).2 := by
  unfold State.sealOut
  split
  · extract_lets +onlyGivenNames r_0
    dsimp only
    refine State.Touches.upd s ?_
    exact State.Touches.refl _ _
  · exact State.Touches.refl _ _

theorem State.fillOut_to (s : State) (n : Nat) : s.Touches [.host] (State.fillOut s n) := by
  unfold State.fillOut
  extract_lets +onlyGivenNames k_0
  split
  · exact State.Touches.refl _ _
  · refine State.Touches.step (State.setPlain_to _ _ _) ?_; refine State.Touches.step (State.setStaging_to _ _ _) ?_; exact State.Touches.refl _ _

theorem State.putOut_to (s : State) (n chan : Nat) (ws : List Word) : s.Touches [.rind, .host] (State.putOut s n chan ws) := by
  unfold State.putOut
  extract_lets +onlyGivenNames r_0
  have hr_0 : State.Touches s [.rind, .host] r_0.2 := by
    unfold r_0
    refine State.Touches.step (State.sealOut_to _ _ _ _) ?_; exact State.Touches.refl _ _
  clear_value r_0
  refine State.Touches.step (State.fillOut_to _ _) ?_; refine State.Touches.step (State.setPlain_to _ _ _) ?_; exact hr_0

theorem State.descEcc_to (s : State) (core : Nat) (d : Desc) (along : Bool) : s.Touches [.regs, .tiers, .log, .sent] (State.descEcc s core d along).1 := by
  unfold State.descEcc
  extract_lets +onlyGivenNames one_0
  have hone_0 : ∀ a0 a1 a2, State.Touches s [.regs, .tiers, .log, .sent] a0.1 → State.Touches s [.regs, .tiers, .log, .sent] (one_0 a0 a1 a2).1 := by
    unfold one_0
    intro v1 v2 v3 v4
    extract_lets +onlyGivenNames k_5
    extract_lets +onlyGivenNames r_6
    have hr_6 : State.Touches s [.regs, .tiers, .log, .sent] r_6.1 := by
      unfold r_6
      refine State.Touches.step (State.eccRead_to _ _ _) ?_; with_reducible assumption
    clear_value r_6
    with_reducible assumption
  clear_value one_0
  extract_lets +onlyGivenNames t_7
  have ht_7 : State.Touches s [.regs, .tiers, .log, .sent] t_7.1 := by
    unfold t_7
    refine State.Touches.foldl_fst ?_ ?_
    · exact State.Touches.refl _ _
    · intro v8 v9 v10 v11
      apply hone_0; with_reducible assumption
  clear_value t_7
  split
  · refine State.Touches.foldl_fst ?_ ?_
    · exact ht_7
    · intro v12 v13 v14 v15
      apply hone_0; with_reducible assumption
  · exact ht_7

theorem State.writeRow_to (s : State) (core base stride b r : Nat) (xs : List Nat) : s.Touches [.mem, .far, .tiers, .kpu] (State.writeRow s core base stride b r xs) := by
  unfold State.writeRow
  refine State.Touches.step (State.sramWrite_to _ _ _ _) ?_; exact State.Touches.refl _ _

end Machine
end Sys2Proof
end

