-- ==== Sys2Proof/Laws/TouchUnits.lean ====
section
/-!
SUPPORT. The operations of the sequencers, their units and the Selvage ports change at most the listed parts of the state (`State.Touches`): one lemma for each.
-/
namespace Sys2Proof
namespace Machine
set_option Elab.async false

theorem State.waitClocks_to (s : State) (n : Nat) : s.Touches [.waits] (State.waitClocks s n) := by
  unfold State.waitClocks
  refine State.Touches.upd s ?_
  exact State.Touches.refl _ _

theorem State.issued_to (s : State) (x : Nat) : s.Touches [.regs, .seq, .waits] (State.issued s x) := by
  unfold State.issued
  extract_lets +onlyGivenNames core_0
  extract_lets +onlyGivenNames u_1
  have hu_1 : State.Touches s [.regs, .seq, .waits] u_1 := by
    unfold u_1
    refine State.Touches.step (State.modCtx_to _ _ _) ?_; exact State.Touches.refl _ _
  clear_value u_1
  refine State.Touches.step (State.pmc_to _ _ _ _ _) ?_
  extract_lets +onlyGivenNames w2
  have hw2 : State.Touches s [.regs, .seq, .waits] w2 := by
    unfold w2
    refine State.Touches.step (State.setCtx_to _ _ _) ?_; exact hu_1
  refine State.Touches.upd w2 ?_
  exact hw2

theorem State.advance_to (s : State) (x : Nat) : s.Touches [.regs, .seq] (State.advance s x) := by
  unfold State.advance
  extract_lets +onlyGivenNames r_0
  refine State.Touches.step (State.fs_to _ _ _ _) ?_; refine State.Touches.step (State.modCtx_to _ _ _) ?_; exact State.Touches.refl _ _

theorem State.branch_to (s : State) (x target : Nat) : s.Touches [.regs, .seq] (State.branch s x target) := by
  unfold State.branch
  refine State.Touches.step (State.fs_to _ _ _ _) ?_; refine State.Touches.step (State.modCtx_to _ _ _) ?_; exact State.Touches.refl _ _

theorem State.block_to (s : State) (x : Nat) : s.Touches [.regs] (State.block s x) := by
  unfold State.block
  refine State.Touches.step (State.setCtx_to _ _ _) ?_; exact State.Touches.refl _ _

theorem seqIssue_to {z : State} {G : List Part} {core ctx op : Nat} {f : State → Nat → Nat → State} {s : State} (hG : List.all ([.regs, .seq, .waits] : List Part) G.contains = true) (hs : z.Touches G s) (hf : ∀ y0 y1 y2, z.Touches G y0 → z.Touches G (f y0 y1 y2)) : Within z G (seqIssue core ctx op f s) := by
  unfold seqIssue
  extract_lets +onlyGivenNames x_0
  refine Within.occurs ?_ ?_
  · exact hs
  · apply hf; refine State.Touches.step (State.issued_to _ _) ?_ (Part.all_trans hG); exact hs

theorem State.enqueue_to (s : State) (x : Nat) : s.Touches [.regs, .seq, .waits] (State.enqueue s x) := by
  unfold State.enqueue
  extract_lets +onlyGivenNames core_0
  extract_lets +onlyGivenNames w_1
  split
  · extract_lets +onlyGivenNames q_2
    extract_lets +onlyGivenNames t_3
    have ht_3 : State.Touches s [.regs, .seq, .waits] t_3 := by
      unfold t_3
      refine State.Touches.step (State.setQueue_to _ _ _ _) ?_; refine State.Touches.step (State.issued_to _ _) ?_; exact State.Touches.refl _ _
    clear_value t_3
    refine State.Touches.step (State.advance_to _ _) ?_
    refine State.Touches.upd t_3 ?_
    exact ht_3
  · refine State.Touches.step (State.block_to _ _) ?_; exact State.Touches.refl _ _

theorem unitIssue_to (core ctx op : Nat) (s : State) : Within s [.regs, .seq, .waits] (unitIssue core ctx op s) := by
  unfold unitIssue
  extract_lets +onlyGivenNames x_0
  extract_lets +onlyGivenNames w_1
  split
  · refine Within.next ?_
    refine State.Touches.step (State.block_to _ _) ?_; exact State.Touches.refl _ _
  · refine Within.occurs ?_ ?_
    · exact State.Touches.refl _ _
    · refine State.Touches.step (State.enqueue_to _ _) ?_; exact State.Touches.refl _ _

theorem execNop_to (core ctx : Nat) (s : State) : Within s [.regs, .seq, .waits] (execNop core ctx s) := by
  unfold execNop
  apply seqIssue_to (by decide)
  · exact State.Touches.refl _ _
  · intro v0 v1 v2 v3
    refine State.Touches.step (State.advance_to _ _) ?_; with_reducible assumption

theorem execTdset_to (core ctx : Nat) (s : State) : Within s [.regs, .seq, .waits] (execTdset core ctx s) := by
  unfold execTdset
  apply seqIssue_to (by decide)
  · exact State.Touches.refl _ _
  · intro v0 v1 v2 v3
    refine State.Touches.step (State.advance_to _ _) ?_; refine State.Touches.step (State.modCtx_to _ _ _) ?_; with_reducible assumption

theorem execBld_to (core ctx : Nat) (s : State) : Within s [.regs, .seq, .waits] (execBld core ctx s) := by
  unfold execBld
  refine Within.step (unitIssue_to _ _ _ _) ?_
  exact State.Touches.refl _ _

theorem execBst_to (core ctx : Nat) (s : State) : Within s [.regs, .seq, .waits] (execBst core ctx s) := by
  unfold execBst
  refine Within.step (unitIssue_to _ _ _ _) ?_
  exact State.Touches.refl _ _

theorem execXld_to (core ctx : Nat) (s : State) : Within s [.regs, .seq, .waits] (execXld core ctx s) := by
  unfold execXld
  refine Within.step (unitIssue_to _ _ _ _) ?_
  exact State.Touches.refl _ _

theorem execXst_to (core ctx : Nat) (s : State) : Within s [.regs, .seq, .waits] (execXst core ctx s) := by
  unfold execXst
  refine Within.step (unitIssue_to _ _ _ _) ?_
  exact State.Touches.refl _ _

theorem execMma_to (core ctx : Nat) (s : State) : Within s [.regs, .seq, .waits] (execMma core ctx s) := by
  unfold execMma
  refine Within.step (unitIssue_to _ _ _ _) ?_
  exact State.Touches.refl _ _

theorem execVop_to (core ctx : Nat) (s : State) : Within s [.regs, .seq, .waits] (execVop core ctx s) := by
  unfold execVop
  refine Within.step (unitIssue_to _ _ _ _) ?_
  exact State.Touches.refl _ _

theorem execRsend_to (core ctx : Nat) (s : State) : Within s [.regs, .seq, .waits] (execRsend core ctx s) := by
  unfold execRsend
  refine Within.step (unitIssue_to _ _ _ _) ?_
  exact State.Touches.refl _ _

theorem execSout_to (core ctx : Nat) (s : State) : Within s [.regs, .seq, .waits] (execSout core ctx s) := by
  unfold execSout
  refine Within.step (unitIssue_to _ _ _ _) ?_
  exact State.Touches.refl _ _

theorem execJst_to (core ctx : Nat) (s : State) : Within s [.regs, .seq, .waits] (execJst core ctx s) := by
  unfold execJst
  refine Within.step (unitIssue_to _ _ _ _) ?_
  exact State.Touches.refl _ _

theorem execJld_to (core ctx : Nat) (s : State) : Within s [.regs, .seq, .waits] (execJld core ctx s) := by
  unfold execJld
  refine Within.step (unitIssue_to _ _ _ _) ?_
  exact State.Touches.refl _ _

theorem execJat_to (core ctx : Nat) (s : State) : Within s [.regs, .seq, .waits] (execJat core ctx s) := by
  unfold execJat
  refine Within.step (unitIssue_to _ _ _ _) ?_
  exact State.Touches.refl _ _

theorem execFence_to (core ctx : Nat) (s : State) : Within s [.regs, .seq, .waits] (execFence core ctx s) := by
  unfold execFence
  refine Within.step (unitIssue_to _ _ _ _) ?_
  exact State.Touches.refl _ _

theorem State.rrel_to (s : State) (x id : Nat) : s.Touches [.regs, .seq, .log, .sent] (State.rrel s x id) := by
  unfold State.rrel
  split
  · split
    · refine State.Touches.step (State.stopCtx_to _ _ _) ?_; exact State.Touches.refl _ _
    · extract_lets +onlyGivenNames t_0
      have ht_0 : State.Touches s [.regs, .seq, .log, .sent] t_0 := by
        unfold t_0
        refine State.Touches.step (State.fs_to _ _ _ _) ?_; exact State.Touches.refl _ _
      clear_value t_0
      refine State.Touches.step (State.advance_to _ _) ?_
      refine State.Touches.upd t_0 ?_
      exact ht_0
  · refine State.Touches.step (State.stopCtx_to _ _ _) ?_; exact State.Touches.refl _ _

theorem execRrel_to (core ctx : Nat) (s : State) : Within s [.regs, .seq, .waits, .host, .log, .sent] (execRrel core ctx s) := by
  unfold execRrel
  apply seqIssue_to (by decide)
  · exact State.Touches.refl _ _
  · intro v0 v1 v2 v3
    apply State.streamNotify_to (by decide)
    · with_reducible assumption
    · refine State.Touches.step (State.rrel_to _ _ _) ?_; with_reducible assumption

theorem State.wait_to (s : State) (x w : Nat) : s.Touches [.regs, .seq, .waits] (State.wait s x w) := by
  unfold State.wait
  extract_lets +onlyGivenNames c_0
  refine State.Touches.step (State.advance_to _ _) ?_; refine State.Touches.step (State.fs_to _ _ _ _) ?_
  refine State.Touches.step (State.issued_to _ _) ?_; exact State.Touches.refl _ _

theorem execWait_to (core ctx : Nat) (s : State) : Within s [.regs, .seq, .waits] (execWait core ctx s) := by
  unfold execWait
  extract_lets +onlyGivenNames x_0
  split
  · refine Within.next ?_
    refine State.Touches.step (State.block_to _ _) ?_; exact State.Touches.refl _ _
  · refine Within.occurs ?_ ?_
    · exact State.Touches.refl _ _
    · refine State.Touches.step (State.wait_to _ _ _) ?_; exact State.Touches.refl _ _

theorem execSig_to (core ctx : Nat) (s : State) : Within s [.regs, .seq, .waits, .host, .sent] (execSig core ctx s) := by
  unfold execSig
  apply seqIssue_to (by decide)
  · exact State.Touches.refl _ _
  · intro v0 v1 v2 v3
    refine State.Touches.step (State.advance_to _ _) ?_; apply State.streamNotify_to (by decide)
    · with_reducible assumption
    · refine State.Touches.step (State.cntBump_to _ _ _ _) ?_; with_reducible assumption

theorem execBrc_to (core ctx : Nat) (s : State) : Within s [.regs, .seq, .waits] (execBrc core ctx s) := by
  unfold execBrc
  apply seqIssue_to (by decide)
  · exact State.Touches.refl _ _
  · intro v0 v1 v2 v3
    split
    · refine State.Touches.step (State.branch_to _ _ _) ?_; with_reducible assumption
    · refine State.Touches.step (State.advance_to _ _) ?_; with_reducible assumption

theorem execSnap_to (core ctx : Nat) (s : State) : Within s [.regs, .seq, .waits] (execSnap core ctx s) := by
  unfold execSnap
  apply seqIssue_to (by decide)
  · exact State.Touches.refl _ _
  · intro v0 v1 v2 v3
    split
    · refine State.Touches.step (State.setCtx_to _ _ _) ?_; refine State.Touches.step (State.advance_to _ _) ?_; with_reducible assumption
    · refine State.Touches.step (State.advance_to _ _) ?_; with_reducible assumption

theorem execStep_to (core ctx : Nat) (s : State) : Within s [.regs, .seq, .waits] (execStep core ctx s) := by
  unfold execStep
  apply seqIssue_to (by decide)
  · exact State.Touches.refl _ _
  · intro v0 v1 v2 v3
    refine State.Touches.step (State.block_to _ _) ?_; refine State.Touches.step (State.modCtx_to _ _ _) ?_
    refine State.Touches.step (State.advance_to _ _) ?_; with_reducible assumption

theorem execLoop_to (core ctx : Nat) (s : State) : Within s [.regs, .seq, .waits] (execLoop core ctx s) := by
  unfold execLoop
  apply seqIssue_to (by decide)
  · exact State.Touches.refl _ _
  · intro v0 v1 v2 v3
    extract_lets +onlyGivenNames pc_4
    refine State.Touches.step (State.fs_to _ _ _ _) ?_; refine State.Touches.step (State.modCtx_to _ _ _) ?_; with_reducible assumption

theorem execBr_to (core ctx : Nat) (s : State) : Within s [.regs, .seq, .waits] (execBr core ctx s) := by
  unfold execBr
  apply seqIssue_to (by decide)
  · exact State.Touches.refl _ _
  · intro v0 v1 v2 v3
    refine State.Touches.step (State.branch_to _ _ _) ?_; with_reducible assumption

theorem execHalt_to (core ctx : Nat) (s : State) : Within s [.regs, .seq, .waits] (execHalt core ctx s) := by
  unfold execHalt
  apply seqIssue_to (by decide)
  · exact State.Touches.refl _ _
  · intro v0 v1 v2 v3
    refine State.Touches.step (State.actSettle_to _ _) ?_; refine State.Touches.step (State.setCtx_to _ _ _) ?_; with_reducible assumption

theorem execColl_to (core ctx : Nat) (s : State) : Within s [.regs, .seq, .waits] (execColl core ctx s) := by
  unfold execColl
  refine Within.step (unitIssue_to _ _ _ _) ?_
  exact State.Touches.refl _ _

theorem State.testStep_to (s : State) (core : Nat) : s.Touches [.seq] (State.testStep s core) := by
  unfold State.testStep
  refine State.Touches.foldl ?_ ?_
  · exact State.Touches.refl _ _
  · intro v0 v1 v2
    split
    · refine State.Touches.step (State.modCtx_to _ _ _) ?_; with_reducible assumption
    · with_reducible assumption

theorem execSeqTestStep_to (port core : Nat) (s : State) : Within s [.seq] (execSeqTestStep port core s) := by
  unfold execSeqTestStep
  refine Within.occurs ?_ ?_
  · exact State.Touches.refl _ _
  · refine State.Touches.step (State.testStep_to _ _) ?_; exact State.Touches.refl _ _

theorem execSeqClearStall_to (port core : Nat) (s : State) : Within s [.regs] (execSeqClearStall port core s) := by
  unfold execSeqClearStall
  refine Within.occurs ?_ ?_
  · exact State.Touches.refl _ _
  · refine State.Touches.step (State.zeroRegs_to _ _) ?_; exact State.Touches.refl _ _

theorem execArrClearCounts_to (port core : Nat) (s : State) : Within s [.regs] (execArrClearCounts port core s) := by
  unfold execArrClearCounts
  extract_lets +onlyGivenNames d_0
  extract_lets +onlyGivenNames c_1
  refine Within.occurs ?_ ?_
  · exact State.Touches.refl _ _
  · refine State.Touches.step (State.zeroRegs_to _ _) ?_; exact State.Touches.refl _ _

theorem execArrCanaryNow_to (port core : Nat) (s : State) : Within s [.regs] (execArrCanaryNow port core s) := by
  unfold execArrCanaryNow
  refine Within.occurs ?_ ?_
  · exact State.Touches.refl _ _
  · refine State.Touches.step (State.fs_to _ _ _ _) ?_; refine State.Touches.step (State.fs_to _ _ _ _) ?_; exact State.Touches.refl _ _

theorem execArrInjectArm_to (port core bt column : Nat) (s : State) : Within s [.regs] (execArrInjectArm port core bt column s) := by
  unfold execArrInjectArm
  extract_lets +onlyGivenNames r_0
  refine Within.occurs ?_ ?_
  · exact State.Touches.refl _ _
  · refine State.Touches.step (State.fs_to _ _ _ _) ?_; refine State.Touches.step (State.fs_to _ _ _ _) ?_
    refine State.Touches.step (State.fs_to _ _ _ _) ?_; exact State.Touches.refl _ _

theorem State.pass_to (s : State) (n : Nat) : s.Touches [.regs, .waits, .time, .now, .rack] (State.pass s n) := by
  unfold State.pass
  extract_lets +onlyGivenNames c_0
  have hc_0 : State.Touches s [.regs, .waits, .time, .now, .rack] c_0 := by
    unfold c_0
    refine State.Touches.step (State.aclkClocks_to _ _) ?_; refine State.Touches.step (State.pmcClocks_to _ _) ?_
    refine State.Touches.step (State.waitClocks_to _ _) ?_; exact State.Touches.refl _ _
  clear_value c_0
  extract_lets +onlyGivenNames t_1
  extract_lets +onlyGivenNames t_2
  have ht_2 : State.Touches s [.regs, .waits, .time, .now, .rack] t_2 := by
    unfold t_2
    refine State.Touches.upd c_0 ?_
    exact hc_0
  clear_value t_2
  split
  · refine State.Touches.step (State.countN_to _ _ _) ?_; exact ht_2
  · exact ht_2

theorem State.runTo_to (s : State) (t : Nat) : s.Touches [.regs, .waits, .time, .now, .rack] (State.runTo s t) := by
  unfold State.runTo
  refine State.Touches.step (State.pass_to _ _) ?_; exact State.Touches.refl _ _

theorem State.runToRack_to (s : State) (r : Nat) : s.Touches [.regs, .waits, .time, .now, .rack] (State.runToRack s r) := by
  unfold State.runToRack
  extract_lets +onlyGivenNames t_0
  have ht_0 : State.Touches s [.regs, .waits, .time, .now, .rack] t_0 := by
    unfold t_0
    refine State.Touches.step (State.pass_to _ _) ?_; exact State.Touches.refl _ _
  clear_value t_0
  extract_lets +onlyGivenNames u_1
  have hu_1 : State.Touches s [.regs, .waits, .time, .now, .rack] u_1 := by
    unfold u_1
    refine State.Touches.step (State.pass_to _ _) ?_; exact ht_0
  clear_value u_1
  extract_lets +onlyGivenNames v_2
  have hv_2 : State.Touches s [.regs, .waits, .time, .now, .rack] v_2 := by
    unfold v_2
    refine State.Touches.step (State.pass_to _ _) ?_; exact hu_1
  clear_value v_2
  refine State.Touches.step (State.pass_to _ _) ?_; exact hv_2

theorem State.retireCopyDone_to (s : State) (k : Nat) : s.Touches [.regs, .far, .waits, .tiers, .bud, .log, .time, .now, .rack, .sent] (State.retireCopyDone s k) := by
  unfold State.retireCopyDone
  extract_lets +onlyGivenNames b_0
  extract_lets +onlyGivenNames t_1
  have ht_1 : State.Touches s [.regs, .far, .waits, .tiers, .bud, .log, .time, .now, .rack, .sent] t_1 := by
    unfold t_1
    refine State.Touches.step (State.copyTo_to _ _ _) ?_; refine State.Touches.step (State.runTo_to _ _) ?_; exact State.Touches.refl _ _
  clear_value t_1
  extract_lets +onlyGivenNames u_2
  extract_lets +onlyGivenNames u_3
  have hu_3 : State.Touches s [.regs, .far, .waits, .tiers, .bud, .log, .time, .now, .rack, .sent] u_3 := by
    unfold u_3
    refine State.Touches.step (State.fs_to _ _ _ _) ?_
    refine State.Touches.upd t_1 ?_
    exact ht_1
  clear_value u_3
  refine State.Touches.step (State.fs_to _ _ _ _) ?_; exact hu_3

theorem execRetireCopyDone_to (k : Nat) (s : State) : Within s [.regs, .far, .waits, .tiers, .bud, .log, .time, .now, .rack, .sent] (execRetireCopyDone k s) := by
  unfold execRetireCopyDone
  refine Within.occurs ?_ ?_
  · exact State.Touches.refl _ _
  · refine State.Touches.step (State.retireCopyDone_to _ _) ?_; exact State.Touches.refl _ _

theorem execFmcErrorWindow_to (k ch : Nat) (s : State) : Within s [.regs, .waits, .tiers, .time, .now, .rack] (execFmcErrorWindow k ch s) := by
  unfold execFmcErrorWindow
  extract_lets +onlyGivenNames e_0
  extract_lets +onlyGivenNames t_1
  have ht_1 : State.Touches s [.regs, .waits, .tiers, .time, .now, .rack] t_1 := by
    unfold t_1
    refine State.Touches.step (State.runTo_to _ _) ?_; exact State.Touches.refl _ _
  clear_value t_1
  refine Within.occurs ?_ ?_
  · exact State.Touches.refl _ _
  · refine State.Touches.step (State.fs_to _ _ _ _) ?_
    refine State.Touches.upd t_1 ?_
    exact ht_1

theorem execDramRefresh_to (chn : Nat) (s : State) : Within s [.regs, .waits, .tiers, .time, .now, .rack] (execDramRefresh chn s) := by
  unfold execDramRefresh
  extract_lets +onlyGivenNames due_0
  extract_lets +onlyGivenNames t_1
  have ht_1 : State.Touches s [.regs, .waits, .tiers, .time, .now, .rack] t_1 := by
    unfold t_1
    refine State.Touches.step (State.runTo_to _ _) ?_; exact State.Touches.refl _ _
  clear_value t_1
  refine Within.occurs ?_ ?_
  · exact State.Touches.refl _ _
  · refine State.Touches.upd t_1 ?_
    exact ht_1

theorem execMarginDone_to (errors firstLine : Nat) (s : State) : Within s [.regs, .far, .waits, .tiers, .stamps, .time, .now, .rack] (execMarginDone errors firstLine s) := by
  unfold execMarginDone
  split
  · refine Within.next ?_
    exact State.Touches.refl _ _
  · extract_lets +onlyGivenNames g_0
    extract_lets +onlyGivenNames n_1
    extract_lets +onlyGivenNames lo_2
    extract_lets +onlyGivenNames hi_3
    extract_lets +onlyGivenNames t_4
    have ht_4 : State.Touches s [.regs, .far, .waits, .tiers, .stamps, .time, .now, .rack] t_4 := by
      unfold t_4
      refine State.Touches.step (State.fs_to _ _ _ _) ?_; refine State.Touches.step (State.fs_to _ _ _ _) ?_
      refine State.Touches.step (State.fs_to _ _ _ _) ?_; refine State.Touches.step (State.fs_to _ _ _ _) ?_
      refine State.Touches.step (State.fs_to _ _ _ _) ?_; refine State.Touches.step (State.runTo_to _ _) ?_; exact State.Touches.refl _ _
    clear_value t_4
    extract_lets +onlyGivenNames u_5
    have hu_5 : State.Touches s [.regs, .far, .waits, .tiers, .stamps, .time, .now, .rack] u_5 := by
      unfold u_5
      refine State.Touches.step (State.eccClear_to _ _ _) ?_; exact ht_4
    clear_value u_5
    refine Within.next ?_
    refine State.Touches.upd u_5 ?_
    exact hu_5

theorem State.putElem_to (s : State) (core base stride b r c v : Nat) : s.Touches [.mem, .far, .tiers, .kpu] (State.putElem s core base stride b r c v) := by
  unfold State.putElem
  extract_lets +onlyGivenNames lo_0
  extract_lets +onlyGivenNames off_1
  extract_lets +onlyGivenNames n_2
  refine State.Touches.step (State.sramWrite_to _ _ _ _) ?_; exact State.Touches.refl _ _

theorem State.putFold_to (s : State) (core : Nat) (c : Desc) (b : Nat) (mul add : Nat) (fold : Nat × Nat × List (List Nat)) : s.Touches [.mem, .far, .tiers, .kpu] (State.putFold s core c b mul add fold) := by
  unfold State.putFold
  refine State.Touches.foldl ?_ ?_
  · exact State.Touches.refl _ _
  · intro v0 v1 v2
    extract_lets +onlyGivenNames r_3
    split
    · refine State.Touches.step (State.sramWrite_to _ _ _ _) ?_; with_reducible assumption
    · refine State.Touches.foldl ?_ ?_
      · with_reducible assumption
      · intro v4 v5 v6
        extract_lets +onlyGivenNames col_7
        split
        · refine State.Touches.step (State.putElem_to _ _ _ _ _ _ _ _) ?_; with_reducible assumption
        · refine State.Touches.step (State.putElem_to _ _ _ _ _ _ _ _) ?_; with_reducible assumption

theorem State.putTiles_to (s : State) (core : Nat) (c : Desc) (out : Nat) (complex : Bool) (o : MmaOut) : s.Touches [.mem, .far, .tiers, .kpu] (State.putTiles s core c out complex o) := by
  unfold State.putTiles
  extract_lets +onlyGivenNames b_0
  extract_lets +onlyGivenNames m_1
  extract_lets +onlyGivenNames t_2
  have ht_2 : State.Touches s [.mem, .far, .tiers, .kpu] t_2 := by
    unfold t_2
    refine State.Touches.foldl ?_ ?_
    · exact State.Touches.refl _ _
    · intro v3 v4 v5
      refine State.Touches.step (State.putFold_to _ _ _ _ _ _ _) ?_; with_reducible assumption
  clear_value t_2
  split
  · refine State.Touches.foldl ?_ ?_
    · exact ht_2
    · intro v6 v7 v8
      refine State.Touches.step (State.putFold_to _ _ _ _ _ _ _) ?_; with_reducible assumption
  · exact ht_2

theorem State.addCounts_to (s : State) (core : Nat) (n : MmaCnt) : s.Touches [.regs] (State.addCounts s core n) := by
  unfold State.addCounts
  extract_lets +onlyGivenNames d_0
  extract_lets +onlyGivenNames c_1
  refine State.Touches.step (State.countN_to _ _ _) ?_; refine State.Touches.step (State.countN_to _ _ _) ?_
  refine State.Touches.step (State.countN_to _ _ _) ?_; refine State.Touches.step (State.countN_to _ _ _) ?_
  refine State.Touches.step (State.countN_to _ _ _) ?_; refine State.Touches.step (State.countN_to _ _ _) ?_; exact State.Touches.refl _ _

theorem State.arrError_to (s : State) (core cause pc pass row act : Nat) (diff : Int) : s.Touches [.regs] (State.arrError s core cause pc pass row act diff) := by
  unfold State.arrError
  extract_lets +onlyGivenNames st_0
  split
  · refine State.Touches.step (State.fs_to _ _ _ _) ?_; exact State.Touches.refl _ _
  · extract_lets +onlyGivenNames info_1
    extract_lets +onlyGivenNames t_2
    have ht_2 : State.Touches s [.regs] t_2 := by
      unfold t_2
      refine State.Touches.step (State.fs_to _ _ _ _) ?_; refine State.Touches.step (State.fs_to _ _ _ _) ?_
      refine State.Touches.step (State.fs_to _ _ _ _) ?_; refine State.Touches.step (State.fs_to _ _ _ _) ?_
      refine State.Touches.step (State.fs_to _ _ _ _) ?_; refine State.Touches.step (State.fs_to _ _ _ _) ?_
      refine State.Touches.step (State.fs_to _ _ _ _) ?_; refine State.Touches.step (State.fs_to _ _ _ _) ?_; exact State.Touches.refl _ _
    clear_value t_2
    refine State.Touches.step (State.wr_to _ _ _) ?_; refine State.Touches.step (State.fs_to _ _ _ _) ?_; exact ht_2

theorem State.arrFail_to (s : State) (core : Nat) (mine retried : Bool) : s.Touches [.regs, .seq, .img, .log, .sent] (State.arrFail s core mine retried) := by
  unfold State.arrFail
  extract_lets +onlyGivenNames st_0
  extract_lets +onlyGivenNames t_1
  have ht_1 : State.Touches s [.regs, .seq, .img, .log, .sent] t_1 := by
    unfold t_1
    split
    · refine State.Touches.step (State.fs_to _ _ _ _) ?_; refine State.Touches.step (State.fs_to _ _ _ _) ?_
      split
      · refine State.Touches.step (State.fs_to _ _ _ _) ?_; exact State.Touches.refl _ _
      · exact State.Touches.refl _ _
    · exact State.Touches.refl _ _
  clear_value t_1
  refine State.Touches.step (State.log_to _ _ _ _ _) ?_; refine State.Touches.step (State.coreFailed_to _ _) ?_; exact ht_1

theorem State.mmaPmc_to (s : State) (core act : Nat) (c : MmaCnt) (hold wide : Nat) : s.Touches [.regs] (State.mmaPmc s core act c hold wide) := by
  unfold State.mmaPmc
  extract_lets +onlyGivenNames a_0
  refine State.Touches.step (State.pmc_to _ _ _ _ _) ?_; refine State.Touches.step (State.pmc_to _ _ _ _ _) ?_
  refine State.Touches.step (State.pmc_to _ _ _ _ _) ?_; refine State.Touches.step (State.pmc_to _ _ _ _ _) ?_; exact State.Touches.refl _ _

theorem State.mmaRun_to (s : State) (q : QIns) (env : UnitEnv) : s.Touches [.regs, .mem, .far, .seq, .tiers, .stamps, .kpu, .img, .bud, .log, .freeCtr, .sent] (State.mmaRun s q env).1 := by
  unfold State.mmaRun
  split
  · extract_lets +onlyGivenNames core_0
    extract_lets +onlyGivenNames d_1
    extract_lets +onlyGivenNames k_2
    extract_lets +onlyGivenNames cx_3
    extract_lets +onlyGivenNames cfg_4
    extract_lets +onlyGivenNames e1_5
    have he1_5 : State.Touches s [.regs, .mem, .far, .seq, .tiers, .stamps, .kpu, .img, .bud, .log, .freeCtr, .sent] e1_5.1 := by
      unfold e1_5
      refine State.Touches.step (State.descEcc_to _ _ _ _) ?_; refine State.Touches.step (State.upset_to _ _) ?_; exact State.Touches.refl _ _
    clear_value e1_5
    extract_lets +onlyGivenNames e2_6
    have he2_6 : State.Touches s [.regs, .mem, .far, .seq, .tiers, .stamps, .kpu, .img, .bud, .log, .freeCtr, .sent] e2_6.1 := by
      unfold e2_6
      refine State.Touches.step (State.descEcc_to _ _ _ _) ?_; exact he1_5
    clear_value e2_6
    split
    · with_reducible assumption
    · extract_lets +onlyGivenNames x_7
      extract_lets +onlyGivenNames y_8
      extract_lets +onlyGivenNames fs_9
      extract_lets +onlyGivenNames sc_10
      extract_lets +onlyGivenNames o1_11
      extract_lets +onlyGivenNames used_12
      have hused_12 : ∀ a0 a1, State.Touches s [.regs, .mem, .far, .seq, .tiers, .stamps, .kpu, .img, .bud, .log, .freeCtr, .sent] a0 → State.Touches s [.regs, .mem, .far, .seq, .tiers, .stamps, .kpu, .img, .bud, .log, .freeCtr, .sent] (used_12 a0 a1) := by
        unfold used_12
        intro v13 v14 v15
        split
        · refine State.Touches.step (State.fs_to _ _ _ _) ?_; with_reducible assumption
        · with_reducible assumption
      clear_value used_12
      extract_lets +onlyGivenNames after_16
      have hafter_16 : ∀ a0 a1, State.Touches s [.regs, .mem, .far, .seq, .tiers, .stamps, .kpu, .img, .bud, .log, .freeCtr, .sent] a0 → State.Touches s [.regs, .mem, .far, .seq, .tiers, .stamps, .kpu, .img, .bud, .log, .freeCtr, .sent] (after_16 a0 a1) := by
        unfold after_16
        intro v17 v18 v19
        extract_lets +onlyGivenNames u_20
        have hu_20 : State.Touches s [.regs, .mem, .far, .seq, .tiers, .stamps, .kpu, .img, .bud, .log, .freeCtr, .sent] u_20 := by
          unfold u_20
          refine State.Touches.step (State.putTiles_to _ _ _ _ _ _) ?_; refine State.Touches.step (State.addCounts_to _ _ _) ?_
          refine State.Touches.step (State.accTake_to _ _) ?_; apply hused_12; with_reducible assumption
        clear_value u_20
        extract_lets +onlyGivenNames w_21
        refine State.Touches.step (State.mmaPmc_to _ _ _ _ _ _) ?_; refine State.Touches.step (State.owe_to _ _ _ _ _ _ _) ?_
        refine State.Touches.step (State.countN_to _ _ _) ?_; exact hu_20
      clear_value after_16
      extract_lets +onlyGivenNames t1_22
      have ht1_22 : State.Touches s [.regs, .mem, .far, .seq, .tiers, .stamps, .kpu, .img, .bud, .log, .freeCtr, .sent] t1_22 := by
        unfold t1_22
        apply hafter_16; exact he2_6
      clear_value t1_22
      extract_lets +onlyGivenNames code_23
      split
      · with_reducible assumption
      · extract_lets +onlyGivenNames mine_24
        extract_lets +onlyGivenNames t2_25
        have ht2_25 : State.Touches s [.regs, .mem, .far, .seq, .tiers, .stamps, .kpu, .img, .bud, .log, .freeCtr, .sent] t2_25 := by
          unfold t2_25
          refine State.Touches.step (State.arrError_to _ _ _ _ _ _ _ _) ?_; exact ht1_22
        clear_value t2_25
        split
        · extract_lets +onlyGivenNames o2_26
          extract_lets +onlyGivenNames t3_27
          have ht3_27 : State.Touches s [.regs, .mem, .far, .seq, .tiers, .stamps, .kpu, .img, .bud, .log, .freeCtr, .sent] t3_27 := by
            unfold t3_27
            apply hafter_16; exact ht2_25
          clear_value t3_27
          split
          · extract_lets +onlyGivenNames t4_28
            have ht4_28 : State.Touches s [.regs, .mem, .far, .seq, .tiers, .stamps, .kpu, .img, .bud, .log, .freeCtr, .sent] t4_28 := by
              unfold t4_28
              refine State.Touches.step (State.log_to _ _ _ _ _) ?_; refine State.Touches.step (State.count_to _ _) ?_; exact ht3_27
            clear_value t4_28
            dsimp only
            split
            · refine State.Touches.step (State.fs_to _ _ _ _) ?_; exact ht4_28
            · exact ht4_28
          · dsimp only
            refine State.Touches.step (State.arrFail_to _ _ _ _) ?_; exact ht3_27
        · dsimp only
          refine State.Touches.step (State.arrFail_to _ _ _ _) ?_; exact ht2_25
  · exact State.Touches.refl _ _

theorem State.scanHead_to (s : State) (core : Nat) : s.Touches [.seq] (State.scanHead s core) := by
  unfold State.scanHead
  split
  · split
    · extract_lets +onlyGivenNames x_0
      refine State.Touches.upd s ?_
      exact State.Touches.refl _ _
    · exact State.Touches.refl _ _
  · exact State.Touches.refl _ _

theorem execAnchorPrescan_to (core : Nat) (s : State) : Within s [.seq] (execAnchorPrescan core s) := by
  unfold execAnchorPrescan
  refine Within.occurs ?_ ?_
  · exact State.Touches.refl _ _
  · refine State.Touches.step (State.scanHead_to _ _) ?_; exact State.Touches.refl _ _

theorem State.fillFree_to (s : State) (y0 : List (Option Nat)) : s.Touches [.freeCtr] (State.fillFree s y0).2 := by
  induction y0 generalizing s with
  | nil => exact .refl _ _
  | cons o r ih =>
    cases o with
    | some v => exact ih s
    | none => exact State.Touches.trans (State.free_to s) (ih s.free.2)

theorem State.vopRun_to (s : State) (q : QIns) (env : UnitEnv) : s.Touches [.regs, .mem, .far, .seq, .tiers, .kpu, .bud, .log, .freeCtr, .sent] (State.vopRun s q env).1 := by
  unfold State.vopRun
  split
  · extract_lets +onlyGivenNames core_0
    extract_lets +onlyGivenNames func_1
    extract_lets +onlyGivenNames mode_2
    extract_lets +onlyGivenNames e_3
    have he_3 : State.Touches s [.regs, .mem, .far, .seq, .tiers, .kpu, .bud, .log, .freeCtr, .sent] e_3.1 := by
      unfold e_3
      refine State.Touches.foldl_fst ?_ ?_
      · dsimp only
        refine State.Touches.step (State.upset_to _ _) ?_; exact State.Touches.refl _ _
      · intro v4 v5 v6 v7
        extract_lets +onlyGivenNames r_8
        have hr_8 : State.Touches s [.regs, .mem, .far, .seq, .tiers, .kpu, .bud, .log, .freeCtr, .sent] r_8.1 := by
          unfold r_8
          refine State.Touches.step (State.descEcc_to _ _ _ _) ?_; with_reducible assumption
        clear_value r_8
        with_reducible assumption
    clear_value e_3
    extract_lets +onlyGivenNames n_9
    extract_lets +onlyGivenNames cyc_10
    extract_lets +onlyGivenNames t_11
    have ht_11 : State.Touches s [.regs, .mem, .far, .seq, .tiers, .kpu, .bud, .log, .freeCtr, .sent] t_11 := by
      unfold t_11
      refine State.Touches.step (State.pmc_to _ _ _ _ _) ?_; refine State.Touches.step (State.owe_to _ _ _ _ _ _ _) ?_; exact he_3
    clear_value t_11
    split
    · with_reducible assumption
    · split
      · split
        · extract_lets +onlyGivenNames nums_12
          extract_lets +onlyGivenNames r_13
          have hr_13 : State.Touches s [.regs, .mem, .far, .seq, .tiers, .kpu, .bud, .log, .freeCtr, .sent] r_13.1 := by
            unfold r_13
            refine State.Touches.foldl_fst ?_ ?_
            · with_reducible assumption
            · intro v14 v15 v16 v17
              extract_lets +onlyGivenNames v_18
              extract_lets +onlyGivenNames f_19
              have hf_19 : State.Touches s [.regs, .mem, .far, .seq, .tiers, .kpu, .bud, .log, .freeCtr, .sent] f_19.2 := by
                unfold f_19
                refine State.Touches.step (State.fillFree_to _ _) ?_; with_reducible assumption
              clear_value f_19
              dsimp only
              refine State.Touches.step (State.putElem_to _ _ _ _ _ _ _ _) ?_; exact hf_19
          clear_value r_13
          with_reducible assumption
        · with_reducible assumption
      · extract_lets +onlyGivenNames raws_20
        extract_lets +onlyGivenNames nums_21
        extract_lets +onlyGivenNames fmts_22
        dsimp only
        refine State.Touches.foldl ?_ ?_
        · exact ht_11
        · intro v23 v24 v25
          refine State.Touches.step (State.writeRow_to _ _ _ _ _ _ _) ?_; refine State.Touches.step (State.fillFree_to _ _) ?_
          with_reducible assumption
  · exact State.Touches.refl _ _

theorem State.loadRow_to (s : State) (core dom : Nat) (far : Bool) (src dst n : Nat) : s.Touches [.regs, .mem, .far, .tiers, .kpu, .log, .sent] (State.loadRow s core dom far src dst n).1 := by
  unfold State.loadRow
  extract_lets +onlyGivenNames r_0
  have hr_0 : State.Touches s [.regs, .mem, .far, .tiers, .kpu, .log, .sent] r_0.2.1 := by
    unfold r_0
    split
    · refine State.Touches.step (State.farRead_to _ _ _ _) ?_; exact State.Touches.refl _ _
    · refine State.Touches.step (State.bondRead_to _ _ _ _) ?_; exact State.Touches.refl _ _
  clear_value r_0
  extract_lets +onlyGivenNames t_1
  have ht_1 : State.Touches s [.regs, .mem, .far, .tiers, .kpu, .log, .sent] t_1 := by
    unfold t_1
    refine State.Touches.step (State.sramWrite_to _ _ _ _) ?_; exact hr_0
  clear_value t_1
  split
  · dsimp only
    refine State.Touches.step (State.poison_to _ _) ?_; exact ht_1
  · with_reducible assumption

theorem State.storeRow_to (s : State) (core dom : Nat) (far : Bool) (src dst n : Nat) : s.Touches [.regs, .mem, .far, .tiers, .kpu, .eru, .bud, .log, .sent] (State.storeRow s core dom far src dst n).1 := by
  unfold State.storeRow
  extract_lets +onlyGivenNames r_0
  have hr_0 : State.Touches s [.regs, .mem, .far, .tiers, .kpu, .eru, .bud, .log, .sent] r_0.2.1 := by
    unfold r_0
    refine State.Touches.step (State.sramRead_to _ _ _ _) ?_; exact State.Touches.refl _ _
  clear_value r_0
  split
  · with_reducible assumption
  · dsimp only
    split
    · refine State.Touches.step (State.farWrite_to _ _ _ _) ?_; exact hr_0
    · refine State.Touches.step (State.bondWrite_to _ _ _ _) ?_; exact hr_0

theorem State.movePmc_to (s : State) (core act ev base stride rows n : Nat) : s.Touches [.regs] (State.movePmc s core act ev base stride rows n) := by
  unfold State.movePmc
  split
  · exact State.Touches.refl _ _
  · refine State.Touches.foldl ?_ ?_
    · exact State.Touches.refl _ _
    · intro v0 v1 v2
      refine State.Touches.foldl ?_ ?_
      · with_reducible assumption
      · intro v3 v4 v5
        refine State.Touches.step (State.pmc_to _ _ _ _ _) ?_; with_reducible assumption

theorem State.moveRun_to (s : State) (q : QIns) (env : UnitEnv) : s.Touches [.regs, .mem, .far, .seq, .tiers, .kpu, .eru, .bud, .log, .sent] (State.moveRun s q env).1 := by
  unfold State.moveRun
  split
  · extract_lets +onlyGivenNames w_0
    extract_lets +onlyGivenNames far_1
    extract_lets +onlyGivenNames dom_2
    extract_lets +onlyGivenNames o_3
    extract_lets +onlyGivenNames n_4
    extract_lets +onlyGivenNames bad_5
    split
    · exact State.Touches.refl _ _
    · extract_lets +onlyGivenNames r_6
      have hr_6 : State.Touches s [.regs, .mem, .far, .seq, .tiers, .kpu, .eru, .bud, .log, .sent] r_6.1 := by
        unfold r_6
        refine State.Touches.foldl_fst ?_ ?_
        · dsimp only
          refine State.Touches.step (State.upset_to _ _) ?_; exact State.Touches.refl _ _
        · intro v7 v8 v9 v10
          extract_lets +onlyGivenNames x_11
          have hx_11 : State.Touches s [.regs, .mem, .far, .seq, .tiers, .kpu, .eru, .bud, .log, .sent] x_11.1 := by
            unfold x_11
            split
            · refine State.Touches.step (State.loadRow_to _ _ _ _ _ _ _) ?_; with_reducible assumption
            · refine State.Touches.step (State.storeRow_to _ _ _ _ _ _ _) ?_; with_reducible assumption
          clear_value x_11
          with_reducible assumption
      clear_value r_6
      dsimp only
      refine State.Touches.step (State.movePmc_to _ _ _ _ _ _ _ _) ?_; refine State.Touches.step (State.owe_to _ _ _ _ _ _ _) ?_; exact hr_6
  · exact State.Touches.refl _ _

theorem State.descBytes_to (s : State) (core : Nat) (d : Desc) : s.Touches [.regs, .tiers, .log, .sent] (State.descBytes s core d).2.1 := by
  unfold State.descBytes
  generalize List.range d.rows = l
  have : ∀ (acc : Bytes × State × Bool), s.Touches [.regs, .tiers, .log, .sent] acc.2.1 → s.Touches [.regs, .tiers, .log, .sent] (l.foldl (fun (acc : Bytes × State × Bool) r =>
      let x := acc.2.1.sramRead core (d.base + r * d.stride) (packedRow d.fmt d.cols)
      (acc.1 ++ x.1, x.2.1, acc.2.2 || x.2.2)) acc).2.1 := by
    induction l with
    | nil => exact fun _ h => h
    | cons r l ih => exact fun acc h => ih _ (State.Touches.step (State.sramRead_to acc.2.1 core _ _) h)
  exact this ([], s, false) (.refl _ _)

theorem State.rsendRun_to (s : State) (q : QIns) (env : UnitEnv) : s.Touches [.regs, .mem, .far, .seq, .tiers, .kpu, .bud, .log, .sent] (State.rsendRun s q env).1 := by
  unfold State.rsendRun
  split
  · extract_lets +onlyGivenNames m_0
    have hm_0 : State.Touches s [.regs, .mem, .far, .seq, .tiers, .kpu, .bud, .log, .sent] m_0.2.1 := by
      unfold m_0
      refine State.Touches.step (State.descBytes_to _ _ _) ?_; refine State.Touches.step (State.upset_to _ _) ?_; exact State.Touches.refl _ _
    clear_value m_0
    split
    · with_reducible assumption
    · dsimp only
      refine State.Touches.foldl ?_ ?_
      · exact hm_0
      · intro v1 v2 v3
        split
        · refine State.Touches.step (State.ringFill_to _ _) ?_; refine State.Touches.step (State.sramWrite_to _ _ _ _) ?_; with_reducible assumption
        · with_reducible assumption
  · exact State.Touches.refl _ _

theorem State.canary_to (s : State) (core main early late again : Nat) : s.Touches [.regs, .seq, .img, .log, .sent] (State.canary s core main early late again) := by
  unfold State.canary
  extract_lets +onlyGivenNames d_0
  extract_lets +onlyGivenNames k_1
  extract_lets +onlyGivenNames latch_2
  have hlatch_2 : ∀ a0 a1 a2 a3, State.Touches s [.regs, .seq, .img, .log, .sent] a0 → State.Touches s [.regs, .seq, .img, .log, .sent] (latch_2 a0 a1 a2 a3) := by
    unfold latch_2
    intro v3 v4 v5 v6 v7
    refine State.Touches.step (State.fs_to _ _ _ _) ?_; refine State.Touches.step (State.fs_to _ _ _ _) ?_
    refine State.Touches.step (State.fs_to _ _ _ _) ?_; with_reducible assumption
  clear_value latch_2
  extract_lets +onlyGivenNames pass_8
  extract_lets +onlyGivenNames am_9
  extract_lets +onlyGivenNames ae_10
  extract_lets +onlyGivenNames al_11
  extract_lets +onlyGivenNames t_12
  have ht_12 : State.Touches s [.regs, .seq, .img, .log, .sent] t_12 := by
    unfold t_12
    refine State.Touches.step (State.fs_to _ _ _ _) ?_; apply hlatch_2; exact State.Touches.refl _ _
  clear_value t_12
  extract_lets +onlyGivenNames t_13
  have ht_13 : State.Touches s [.regs, .seq, .img, .log, .sent] t_13 := by
    unfold t_13
    refine State.Touches.step (State.fs_to _ _ _ _) ?_; exact ht_12
  clear_value t_13
  split
  · refine State.Touches.step (State.fs_to _ _ _ _) ?_; exact ht_13
  · extract_lets +onlyGivenNames u_14
    have hu_14 : State.Touches s [.regs, .seq, .img, .log, .sent] u_14 := by
      unfold u_14
      apply hlatch_2; exact ht_13
    clear_value u_14
    split
    · refine State.Touches.step (State.log_to _ _ _ _ _) ?_; refine State.Touches.step (State.fs_to _ _ _ _) ?_; exact hu_14
    · extract_lets +onlyGivenNames v_15
      have hv_15 : State.Touches s [.regs, .seq, .img, .log, .sent] v_15 := by
        unfold v_15
        refine State.Touches.step (State.arrError_to _ _ _ _ _ _ _ _) ?_; refine State.Touches.step (State.fs_to _ _ _ _) ?_; exact hu_14
      clear_value v_15
      extract_lets +onlyGivenNames w_16
      have hw_16 : State.Touches s [.regs, .seq, .img, .log, .sent] w_16 := by
        unfold w_16
        split
        · exact hv_15
        · refine State.Touches.step (State.fs_to _ _ _ _) ?_; exact hv_15
      clear_value w_16
      refine State.Touches.step (State.log_to _ _ _ _ _) ?_; refine State.Touches.step (State.coreFailed_to _ _) ?_; exact hw_16

theorem State.loadRepair_to (s : State) (d : Nat) : s.Touches [.regs] (State.loadRepair s d) := by
  unfold State.loadRepair
  refine State.Touches.foldl ?_ ?_
  · exact State.Touches.refl _ _
  · intro v0 v1 v2
    extract_lets +onlyGivenNames f_3
    extract_lets +onlyGivenNames k_4
    split
    · with_reducible assumption
    · refine State.Touches.step (State.fs_to _ _ _ _) ?_; refine State.Touches.step (State.fs_to _ _ _ _) ?_
      refine State.Touches.step (State.wr_to _ _ _) ?_; with_reducible assumption

theorem State.settingsCheck_to (s : State) : s.Touches [.regs, .fw, .log, .sent] (State.settingsCheck s) := by
  unfold State.settingsCheck
  extract_lets +onlyGivenNames d_0
  split
  · exact State.Touches.refl _ _
  · refine State.Touches.step (State.log_to _ _ _ _ _) ?_
    refine State.Touches.upd s ?_
    exact State.Touches.refl _ _

theorem State.firmwareUp_to (s : State) : s.Touches [.regs, .fw, .log, .sent] (State.firmwareUp s) := by
  unfold State.firmwareUp
  split
  · exact State.Touches.refl _ _
  · extract_lets +onlyGivenNames ok_0
    extract_lets +onlyGivenNames t_1
    have ht_1 : State.Touches s [.regs, .fw, .log, .sent] t_1 := by
      unfold t_1
      refine State.Touches.foldl ?_ ?_
      · exact State.Touches.refl _ _
      · intro v2 v3 v4
        refine State.Touches.step (State.loadRepair_to _ _) ?_; with_reducible assumption
    clear_value t_1
    refine State.Touches.step (State.settingsCheck_to _) ?_; refine State.Touches.step (State.setState_to _ _) ?_
    refine State.Touches.step (State.fs_to _ _ _ _) ?_; refine State.Touches.step (State.fs_to _ _ _ _) ?_
    refine State.Touches.step (State.fs_to _ _ _ _) ?_; refine State.Touches.step (State.fs_to _ _ _ _) ?_
    refine State.Touches.step (State.fs_to _ _ _ _) ?_; exact ht_1

theorem execCanaryDone_to (core main early late again : Nat) (s : State) : Within s [.regs, .seq, .waits, .fw, .img, .bud, .log, .time, .now, .rack, .sent] (execCanaryDone core main early late again s) := by
  unfold execCanaryDone
  refine Within.occurs ?_ ?_
  · exact State.Touches.refl _ _
  · refine State.Touches.step (State.canary_to _ _ _ _ _ _) ?_; refine State.Touches.step (State.take_to _ _ _ _ _) ?_
    refine State.Touches.step (State.firmwareUp_to _) ?_; refine State.Touches.step (State.runTo_to _ _) ?_; exact State.Touches.refl _ _

theorem State.modSp_to (s : State) (p : Nat) (f : SpSt → SpSt) : s.Touches [.sp] (State.modSp s p f) := by
  unfold State.modSp
  refine State.Touches.upd s ?_
  exact State.Touches.refl _ _

theorem State.arrive_to (s : State) (p : Nat) (k : Packet) : s.Touches [.fj] (State.arrive s p k) := by
  unfold State.arrive
  refine State.Touches.upd s ?_
  exact State.Touches.refl _ _

theorem State.launch_to (s : State) (p : Packet) (o : Origin) (iss : Nat) : WithinO s [.regs, .fj] (State.launch s p o iss) := by
  unfold State.launch
  split
  · refine WithinO.some ?_
    refine State.Touches.step (State.arrive_to _ _ _) ?_; exact State.Touches.refl _ _
  · extract_lets +onlyGivenNames lv_0
    extract_lets +onlyGivenNames k_1
    extract_lets +onlyGivenNames h_2
    extract_lets +onlyGivenNames t_3
    extract_lets +onlyGivenNames t_4
    have ht_4 : State.Touches s [.regs, .fj] t_4 := by
      unfold t_4
      refine State.Touches.upd s ?_
      exact State.Touches.refl _ _
    clear_value t_4
    refine WithinO.some ?_
    split
    · refine State.Touches.step (State.count_to _ _) ?_; exact ht_4
    · exact ht_4
  · exact WithinO.none

theorem State.sendNack_to (s : State) (n : Packet) : s.Touches [.regs, .fj] (State.sendNack s n) := by
  unfold State.sendNack
  extract_lets +onlyGivenNames t_0
  have ht_0 : State.Touches s [.regs, .fj] t_0 := by
    unfold t_0
    refine State.Touches.step (State.pmc_to _ _ _ _ _) ?_; refine State.Touches.step (State.count_to _ _) ?_; exact State.Touches.refl _ _
  clear_value t_0
  refine WithinO.getD ?_ ?_
  · refine WithinO.step (State.launch_to _ _ _ _) ?_
    exact ht_0
  · refine State.Touches.step (State.count_to _ _) ?_; exact ht_0

theorem State.dispatch_to (s : State) (p : Packet) (o : Origin) (iss : Nat) : s.Touches [.regs, .fj] (State.dispatch s p o iss) := by
  unfold State.dispatch
  split
  · refine State.Touches.of_some (by assumption) ?_
    refine WithinO.step (State.launch_to _ _ _ _) ?_
    exact State.Touches.refl _ _
  · extract_lets +onlyGivenNames t_0
    have ht_0 : State.Touches s [.regs, .fj] t_0 := by
      unfold t_0
      refine State.Touches.step (State.count_to _ _) ?_; exact State.Touches.refl _ _
    clear_value t_0
    split
    · exact ht_0
    · split
      · refine State.Touches.step (State.arrive_to _ _ _) ?_; exact ht_0
      · refine State.Touches.step (State.sendNack_to _ _) ?_; refine State.Touches.step (State.count_to _ _) ?_; exact ht_0

theorem State.rxCount_to (s : State) (p : Packet) : s.Touches [.regs] (State.rxCount s p) := by
  unfold State.rxCount
  refine State.Touches.step (State.pmc_to _ _ _ _ _) ?_; refine State.Touches.step (State.count_to _ _) ?_; exact State.Touches.refl _ _

theorem State.issue_to (s : State) (p : Packet) (o : Origin) (iss : Nat) : s.Touches [.regs, .fj] (State.issue s p o iss) := by
  unfold State.issue
  split
  · exact State.Touches.refl _ _
  · extract_lets +onlyGivenNames n_0
    refine State.Touches.step (State.dispatch_to _ _ _ _) ?_; refine State.Touches.step (State.pmc_to _ _ _ _ _) ?_
    refine State.Touches.step (State.count_to _ _) ?_
    refine State.Touches.upd s ?_
    exact State.Touches.refl _ _

theorem State.respond_to (s : State) (q : Packet) (o : Origin) (op : Nat) (poison : Bool) (data : Bytes) : s.Touches [.regs, .fj] (State.respond s q o op poison data) := by
  unfold State.respond
  split
  · exact State.Touches.refl _ _
  · extract_lets +onlyGivenNames k_0
    refine State.Touches.step (State.dispatch_to _ _ _ _) ?_; refine State.Touches.step (State.pmc_to _ _ _ _ _) ?_
    refine State.Touches.step (State.count_to _ _) ?_; exact State.Touches.refl _ _

theorem State.refuse_to (s : State) (p : Packet) (code : Nat) : s.Touches [.regs, .fj] (State.refuse s p code) := by
  unfold State.refuse
  extract_lets +onlyGivenNames t_0
  have ht_0 : State.Touches s [.regs, .fj] t_0 := by
    unfold t_0
    split
    · refine State.Touches.step (State.count_to _ _) ?_; exact State.Touches.refl _ _
    · refine State.Touches.step (State.count_to _ _) ?_; exact State.Touches.refl _ _
  clear_value t_0
  split
  · exact ht_0
  · refine State.Touches.step (State.sendNack_to _ _) ?_; exact ht_0

theorem State.dropHeads_to (s : State) (f : XHead → Bool) : s.Touches [.fj] (State.dropHeads s f).1 := by
  unfold State.dropHeads
  dsimp only
  refine State.Touches.upd s ?_
  exact State.Touches.refl _ _

theorem State.modPair_to (s : State) (k : Nat) (f : Pair → Pair) : s.Touches [.fj] (State.modPair s k f) := by
  unfold State.modPair
  refine State.Touches.upd s ?_
  exact State.Touches.refl _ _

theorem State.issueAcked_to (s : State) (p : Packet) (core iss : Nat) : s.Touches [.regs, .fj] (State.issueAcked s p core iss) := by
  unfold State.issueAcked
  split
  · exact State.Touches.refl _ _
  · extract_lets +onlyGivenNames x_0
    extract_lets +onlyGivenNames e_1
    extract_lets +onlyGivenNames user_2
    extract_lets +onlyGivenNames t_3
    have ht_3 : State.Touches s [.regs, .fj] t_3 := by
      unfold t_3
      refine State.Touches.step (State.modPair_to _ _ _) ?_; exact State.Touches.refl _ _
    clear_value t_3
    refine State.Touches.step (State.issue_to _ _ _ _) ?_
    refine State.Touches.upd t_3 ?_
    exact ht_3

theorem State.noteSent_to (s : State) (p : Packet) (xseq : Nat) : s.Touches [.fj] (State.noteSent s p xseq) := by
  unfold State.noteSent
  extract_lets +onlyGivenNames k_0
  refine State.Touches.upd s ?_
  exact State.Touches.refl _ _

theorem State.sendAcked_to (s : State) (p : Packet) (core iss : Nat) : s.Touches [.regs, .fj] (State.sendAcked s p core iss) := by
  unfold State.sendAcked
  split
  · exact State.Touches.refl _ _
  · extract_lets +onlyGivenNames k_0
    extract_lets +onlyGivenNames n_1
    extract_lets +onlyGivenNames q_2
    refine State.Touches.step (State.noteSent_to _ _ _) ?_; refine State.Touches.step (State.issueAcked_to _ _ _ _) ?_; exact State.Touches.refl _ _

theorem State.clearPairs_to (s : State) (f : Nat → Bool) : s.Touches [.fj] (State.clearPairs s f) := by
  unfold State.clearPairs
  extract_lets +onlyGivenNames gone_0
  extract_lets +onlyGivenNames streams_1
  refine State.Touches.upd s ?_
  exact State.Touches.refl _ _

theorem State.drainPump_to (s : State) : s.Touches [.regs, .fj] (State.drainPump s) := by
  unfold State.drainPump
  split
  · exact State.Touches.refl _ _
  · extract_lets +onlyGivenNames t_0
    have ht_0 : State.Touches s [.regs, .fj] t_0 := by
      unfold t_0
      refine State.Touches.foldl ?_ ?_
      · exact State.Touches.refl _ _
      · intro v1 v2 v3
        refine State.Touches.foldl ?_ ?_
        · with_reducible assumption
        · intro v4 v5 v6
          split
          · refine State.Touches.upd v4 ?_
            with_reducible assumption
          · with_reducible assumption
    clear_value t_0
    extract_lets +onlyGivenNames u_7
    have hu_7 : State.Touches s [.regs, .fj] u_7 := by
      unfold u_7
      refine State.Touches.step (State.fs_to _ _ _ _) ?_; exact ht_0
    clear_value u_7
    split
    · refine State.Touches.step (State.fs_to _ _ _ _) ?_; refine State.Touches.step (State.fs_to _ _ _ _) ?_; exact hu_7
    · exact hu_7

theorem State.epochSwitch_to (s : State) : s.Touches [.regs, .fj] (State.epochSwitch s) := by
  unfold State.epochSwitch
  extract_lets +onlyGivenNames t_0
  have ht_0 : State.Touches s [.regs, .fj] t_0 := by
    unfold t_0
    refine State.Touches.step (State.fs_to _ _ _ _) ?_; refine State.Touches.step (State.fs_to _ _ _ _) ?_
    refine State.Touches.step (State.fs_to _ _ _ _) ?_; refine State.Touches.step (State.fs_to _ _ _ _) ?_; exact State.Touches.refl _ _
  clear_value t_0
  refine State.Touches.step (State.drainPump_to _) ?_
  refine State.Touches.upd t_0 ?_
  exact ht_0

theorem State.modLink_to (s : State) (k : Nat) (f : LinkSt → LinkSt) : s.Touches [.links] (State.modLink s k f) := by
  unfold State.modLink
  refine State.Touches.upd s ?_
  exact State.Touches.refl _ _

theorem State.linkSend_to (s : State) (e n : Nat) : s.Touches [.regs, .links] (State.linkSend s e n) := by
  unfold State.linkSend
  refine State.Touches.step (State.pmc_to _ _ _ _ _) ?_; refine State.Touches.step (State.modLink_to _ _ _) ?_; exact State.Touches.refl _ _

theorem State.rise_to (s : State) (port n : Nat) : s.Touches [.regs, .links] (State.rise s port n) := by
  unfold State.rise
  split
  · refine State.Touches.step (State.linkSend_to _ _ _) ?_; exact State.Touches.refl _ _
  · exact State.Touches.refl _ _

theorem State.fall_to (s : State) (port n : Nat) : s.Touches [.regs, .links] (State.fall s port n) := by
  unfold State.fall
  split
  · refine State.Touches.step (State.linkSend_to _ _ _) ?_; exact State.Touches.refl _ _
  · exact State.Touches.refl _ _

theorem State.switched_to (s : State) (inp out n : Nat) : s.Touches [.regs, .links] (State.switched s inp out n) := by
  unfold State.switched
  refine State.Touches.step (State.fall_to _ _ _) ?_; refine State.Touches.step (State.rise_to _ _ _) ?_; exact State.Touches.refl _ _

theorem State.takeWay_to (s : State) (act n : Nat) (y0 : Way) : s.Touches [.regs, .links, .bud] (State.takeWay s act n y0) := by
  unfold State.takeWay
  split
  · refine State.Touches.step (State.switched_to _ _ _ _) ?_; refine State.Touches.step (State.chargeAll_to _ _ _) ?_; exact State.Touches.refl _ _
  · refine State.Touches.step (State.linkSend_to _ _ _) ?_; exact State.Touches.refl _ _
  · refine State.Touches.step (State.rise_to _ _ _) ?_; exact State.Touches.refl _ _
  · refine State.Touches.step (State.fall_to _ _ _) ?_; exact State.Touches.refl _ _
  · exact State.Touches.refl _ _

theorem State.takeWays_to (s : State) (act : Nat) (y0 : List (Way × Nat)) : WithinO s [.regs, .links, .bud] (State.takeWays s act y0) := by
  induction y0 generalizing s with
  | nil => exact .some (.refl _ _)
  | cons w r ih =>
    unfold State.takeWays
    split
    · exact fun t e => State.Touches.trans ((State.takeWay_to _ _ _ _).mono (by decide)) (ih _ t e)
    · exact .none

theorem State.toHub_to (s : State) (key : Nat) (q : Packet) : WithinO s [.regs, .links, .bud] (State.toHub s key q) := by
  unfold State.toHub
  split
  · refine WithinO.some ?_
    refine State.Touches.step (State.takeWay_to _ _ _ _) ?_; exact State.Touches.refl _ _
  · exact WithinO.none

theorem State.unitMoves_to (s : State) (ports : List Nat) (up : Bool) : s.Touches [.regs, .links] (State.unitMoves s ports up) := by
  unfold State.unitMoves
  refine State.Touches.foldl ?_ ?_
  · exact State.Touches.refl _ _
  · intro v0 v1 v2
    split
    · refine State.Touches.step (State.rise_to _ _ _) ?_; with_reducible assumption
    · refine State.Touches.step (State.fall_to _ _ _) ?_; with_reducible assumption

theorem State.scalar_to (s : State) : s.Touches [.randCtr] (State.scalar s).2 := by
  unfold State.scalar
  extract_lets +onlyGivenNames r_0
  have hr_0 : State.Touches s [.randCtr] r_0.2 := by
    unfold r_0
    refine State.Touches.step (State.random_to _ _) ?_; exact State.Touches.refl _ _
  clear_value r_0
  with_reducible assumption

theorem State.report_to (s : State) (nonce : Bytes) : WithinP s [.randCtr] (State.report s nonce) := by
  unfold State.report
  split
  · exact WithinP.none
  · extract_lets +onlyGivenNames k_0
    have hk_0 : State.Touches s [.randCtr] k_0.2 := by
      unfold k_0
      refine State.Touches.step (State.scalar_to _) ?_; exact State.Touches.refl _ _
    clear_value k_0
    extract_lets +onlyGivenNames b_1
    refine WithinP.some ?_
    with_reducible assumption

theorem State.setSp_to (s : State) (p st : Nat) : s.Touches [.regs] (State.setSp s p st) := by
  unfold State.setSp
  refine State.Touches.step (State.fs_to _ _ _ _) ?_; exact State.Touches.refl _ _

theorem State.switchTx_to (s : State) (p : Nat) : s.Touches [.sp] (State.switchTx s p) := by
  unfold State.switchTx
  extract_lets +onlyGivenNames x_0
  split
  · refine State.Touches.step (State.modSp_to _ _ _) ?_; exact State.Touches.refl _ _
  · exact State.Touches.refl _ _

theorem State.sendFrame_to (s0 : State) (p : Nat) (flits : List Bytes) (msg : Bytes) (order : Option (Nat × Nat)) : s0.Touches [.sp, .sent] (State.sendFrame s0 p flits msg order) := by
  unfold State.sendFrame
  extract_lets +onlyGivenNames s_0
  have hs_0 : State.Touches s0 [.sp, .sent] s_0 := by
    unfold s_0
    refine State.Touches.step (State.switchTx_to _ _) ?_; exact State.Touches.refl _ _
  clear_value s_0
  extract_lets +onlyGivenNames b_1
  refine State.Touches.step (State.emit_to _ _) ?_; refine State.Touches.step (State.modSp_to _ _ _) ?_; exact hs_0

theorem State.say_to (s : State) (p : Nat) (msg : Bytes) : s.Touches [.sp, .sent] (State.say s p msg) := by
  unfold State.say
  refine State.Touches.foldl ?_ ?_
  · exact State.Touches.refl _ _
  · intro v0 v1 v2
    refine State.Touches.step (State.sendFrame_to _ _ _ _ _) ?_; with_reducible assumption

theorem State.pushFlits_to (s : State) (p vc : Nat) (fl : List Bytes) : s.Touches [.sp, .sent] (State.pushFlits s p vc fl) := by
  unfold State.pushFlits
  extract_lets +onlyGivenNames t_0
  have ht_0 : State.Touches s [.sp, .sent] t_0 := by
    unfold t_0
    refine State.Touches.step (State.modSp_to _ _ _) ?_; exact State.Touches.refl _ _
  clear_value t_0
  refine State.Touches.foldl ?_ ?_
  · exact ht_0
  · intro v1 v2 v3
    refine State.Touches.step (State.sendFrame_to _ _ _ _ _) ?_; with_reducible assumption

theorem State.setTail_to (s : State) (p out vc epoch : Nat) (rest : List Bytes) : s.Touches [.regs, .sp] (State.setTail s p out vc epoch rest) := by
  unfold State.setTail
  refine State.Touches.step (State.fs_to _ _ _ _) ?_; refine State.Touches.step (State.modSp_to _ _ _) ?_; exact State.Touches.refl _ _

theorem State.transmit_to (s : State) (p out : Nat) (k : Packet) (free : Bool) : s.Touches [.regs, .sp, .sent] (State.transmit s p out k free) := by
  unfold State.transmit
  extract_lets +onlyGivenNames fl_0
  extract_lets +onlyGivenNames n_1
  refine State.Touches.step (State.setTail_to _ _ _ _ _ _) ?_; refine State.Touches.step (State.pushFlits_to _ _ _ _) ?_; exact State.Touches.refl _ _

theorem State.flushTail_to (s : State) (p : Nat) : s.Touches [.regs, .sp, .sent] (State.flushTail s p) := by
  unfold State.flushTail
  split
  · exact State.Touches.refl _ _
  · extract_lets +onlyGivenNames n_0
    split
    · exact State.Touches.refl _ _
    · refine State.Touches.step (State.setTail_to _ _ _ _ _ _) ?_; refine State.Touches.step (State.pushFlits_to _ _ _ _) ?_
      exact State.Touches.refl _ _

theorem State.setWidth_to (s : State) (p : Nat) : s.Touches [.regs, .log, .sent] (State.setWidth s p) := by
  unfold State.setWidth
  extract_lets +onlyGivenNames w_0
  extract_lets +onlyGivenNames old_1
  extract_lets +onlyGivenNames t_2
  have ht_2 : State.Touches s [.regs, .log, .sent] t_2 := by
    unfold t_2
    refine State.Touches.step (State.fs_to _ _ _ _) ?_; refine State.Touches.step (State.fs_to _ _ _ _) ?_; exact State.Touches.refl _ _
  clear_value t_2
  split
  · refine State.Touches.step (State.log_to _ _ _ _ _) ?_; exact ht_2
  · exact ht_2

theorem State.sendAgain_to (s : State) (p : Nat) (f : Bytes) : s.Touches [.regs, .sent] (State.sendAgain s p f) := by
  unfold State.sendAgain
  refine State.Touches.step (State.emit_to _ _) ?_; refine State.Touches.step (State.pmc_to _ _ _ _ _) ?_
  refine State.Touches.step (State.count_to _ _) ?_; exact State.Touches.refl _ _

theorem State.switchWidth_to (s : State) (p : Nat) : s.Touches [.regs, .sp, .log, .sent] (State.switchWidth s p) := by
  unfold State.switchWidth
  extract_lets +onlyGivenNames t_0
  have ht_0 : State.Touches s [.regs, .sp, .log, .sent] t_0 := by
    unfold t_0
    refine State.Touches.step (State.modSp_to _ _ _) ?_; exact State.Touches.refl _ _
  clear_value t_0
  refine State.Touches.step (State.setWidth_to _ _) ?_
  refine State.Touches.foldl ?_ ?_
  · exact ht_0
  · intro v1 v2 v3
    refine State.Touches.step (State.sendAgain_to _ _ _) ?_; with_reducible assumption

theorem State.unlock_to (s : State) (p mask : Nat) : s.Touches [.regs] (State.unlock s p mask) := by
  unfold State.unlock
  extract_lets +onlyGivenNames k_0
  refine State.Touches.step (State.fs_to _ _ _ _) ?_; exact State.Touches.refl _ _

theorem State.spDown_to (s : State) (p cause : Nat) : s.Touches [.regs, .sp, .fj, .log, .sent] (State.spDown s p cause) := by
  unfold State.spDown
  extract_lets +onlyGivenNames d_0
  have hd_0 : State.Touches s [.regs, .sp, .fj, .log, .sent] d_0.1 := by
    unfold d_0
    refine State.Touches.step (State.dropHeads_to _ _) ?_; exact State.Touches.refl _ _
  clear_value d_0
  extract_lets +onlyGivenNames st_1
  extract_lets +onlyGivenNames x_2
  extract_lets +onlyGivenNames live_3
  extract_lets +onlyGivenNames t_4
  have ht_4 : State.Touches s [.regs, .sp, .fj, .log, .sent] t_4 := by
    unfold t_4
    refine State.Touches.step (State.unlock_to _ _ _) ?_; refine State.Touches.step (State.fs_to _ _ _ _) ?_
    refine State.Touches.step (State.fs_to _ _ _ _) ?_; refine State.Touches.step (State.fs_to _ _ _ _) ?_
    refine State.Touches.step (State.fs_to _ _ _ _) ?_; refine State.Touches.step (State.countN_to _ _ _) ?_; exact hd_0
  clear_value t_4
  extract_lets +onlyGivenNames t_5
  have ht_5 : State.Touches s [.regs, .sp, .fj, .log, .sent] t_5 := by
    unfold t_5
    split
    · refine State.Touches.step (State.fs_to _ _ _ _) ?_; refine State.Touches.step (State.fs_to _ _ _ _) ?_
      refine State.Touches.step (State.count_to _ _) ?_; exact ht_4
    · exact ht_4
  clear_value t_5
  extract_lets +onlyGivenNames u_6
  extract_lets +onlyGivenNames u_7
  have hu_7 : State.Touches s [.regs, .sp, .fj, .log, .sent] u_7 := by
    unfold u_7
    refine State.Touches.step (State.modSp_to _ _ _) ?_; exact ht_5
  clear_value u_7
  extract_lets +onlyGivenNames v_8
  have hv_8 : State.Touches s [.regs, .sp, .fj, .log, .sent] v_8 := by
    unfold v_8
    split
    · refine State.Touches.step (State.fs_to _ _ _ _) ?_; exact hu_7
    · exact hu_7
  clear_value v_8
  extract_lets +onlyGivenNames v_9
  have hv_9 : State.Touches s [.regs, .sp, .fj, .log, .sent] v_9 := by
    unfold v_9
    refine State.Touches.step (State.fs_to _ _ _ _) ?_; refine State.Touches.step (State.fs_to _ _ _ _) ?_; exact hv_8
  clear_value v_9
  extract_lets +onlyGivenNames w_10
  have hw_10 : State.Touches s [.regs, .sp, .fj, .log, .sent] w_10 := by
    unfold w_10
    split
    · exact hv_9
    · refine State.Touches.step (State.log_to _ _ _ _ _) ?_; exact hv_9
  clear_value w_10
  refine State.Touches.step (State.drainPump_to _) ?_; exact hw_10

theorem State.spStep1_to (s : State) (p : Nat) : s.Touches [.regs] (State.spStep1 s p) := by
  unfold State.spStep1
  split
  · refine State.Touches.step (State.setSp_to _ _ _) ?_; exact State.Touches.refl _ _
  · split
    · refine State.Touches.step (State.setSp_to _ _ _) ?_; exact State.Touches.refl _ _
    · split
      · refine State.Touches.step (State.setSp_to _ _ _) ?_; exact State.Touches.refl _ _
      · refine State.Touches.step (State.setSp_to _ _ _) ?_; exact State.Touches.refl _ _

theorem State.lanesDown_to (s : State) (p : Nat) : s.Touches [.regs] (State.lanesDown s p) := by
  unfold State.lanesDown
  refine State.Touches.step (State.fs_to _ _ _ _) ?_; refine State.Touches.step (State.unlock_to _ _ _) ?_
  refine State.Touches.step (State.fs_to _ _ _ _) ?_; refine State.Touches.step (State.fs_to _ _ _ _) ?_; exact State.Touches.refl _ _

theorem State.spAttemptFails_to (s : State) (p : Nat) : s.Touches [.regs, .sp, .log, .sent] (State.spAttemptFails s p) := by
  unfold State.spAttemptFails
  extract_lets +onlyGivenNames x_0
  extract_lets +onlyGivenNames t_1
  have ht_1 : State.Touches s [.regs, .sp, .log, .sent] t_1 := by
    unfold t_1
    split
    · exact State.Touches.refl _ _
    · refine State.Touches.step (State.log_to _ _ _ _ _) ?_; exact State.Touches.refl _ _
  clear_value t_1
  refine State.Touches.step (State.setSp_to _ _ _) ?_; refine State.Touches.step (State.modSp_to _ _ _) ?_
  refine State.Touches.step (State.lanesDown_to _ _) ?_; exact ht_1

theorem State.orderWidth_to (s : State) (p : Nat) : s.Touches [.sp, .sent] (State.orderWidth s p) := by
  unfold State.orderWidth
  extract_lets +onlyGivenNames here_0
  refine State.Touches.step (State.modSp_to _ _ _) ?_; refine State.Touches.step (State.sendFrame_to _ _ _ _ _) ?_; exact State.Touches.refl _ _

theorem State.lanesFail_to (s : State) (p mask : Nat) (dark : Bool) : s.Touches [.regs, .sp, .fj, .log, .sent] (State.lanesFail s p mask dark) := by
  unfold State.lanesFail
  extract_lets +onlyGivenNames t_0
  have ht_0 : State.Touches s [.regs, .sp, .fj, .log, .sent] t_0 := by
    unfold t_0
    refine State.Touches.step (State.fs_to _ _ _ _) ?_; exact State.Touches.refl _ _
  clear_value t_0
  split
  · exact ht_0
  · split
    · refine State.Touches.step (State.spDown_to _ _ _) ?_; exact ht_0
    · split
      · refine State.Touches.step (State.spDown_to _ _ _) ?_; exact ht_0
      · split
        · exact ht_0
        · split
          · refine State.Touches.step (State.setWidth_to _ _) ?_; exact ht_0
          · refine State.Touches.step (State.switchWidth_to _ _) ?_; refine State.Touches.step (State.orderWidth_to _ _) ?_; exact ht_0

theorem State.attestFail_to (s : State) (p code : Nat) : s.Touches [.regs, .sp, .log, .sent] (State.attestFail s p code) := by
  unfold State.attestFail
  extract_lets +onlyGivenNames n_0
  extract_lets +onlyGivenNames t_1
  have ht_1 : State.Touches s [.regs, .sp, .log, .sent] t_1 := by
    unfold t_1
    refine State.Touches.step (State.setSp_to _ _ _) ?_; refine State.Touches.step (State.log_to _ _ _ _ _) ?_
    refine State.Touches.step (State.fs_to _ _ _ _) ?_; exact State.Touches.refl _ _
  clear_value t_1
  extract_lets +onlyGivenNames t_2
  have ht_2 : State.Touches s [.regs, .sp, .log, .sent] t_2 := by
    unfold t_2
    split
    · refine State.Touches.step (State.lanesDown_to _ _) ?_; exact ht_1
    · exact ht_1
  clear_value t_2
  refine State.Touches.step (State.modSp_to _ _ _) ?_; exact ht_2

theorem State.startAttest_to (s : State) (p : Nat) : s.Touches [.regs, .sp, .randCtr, .sent] (State.startAttest s p) := by
  unfold State.startAttest
  extract_lets +onlyGivenNames k_0
  extract_lets +onlyGivenNames n_1
  have hn_1 : State.Touches s [.regs, .sp, .randCtr, .sent] n_1.2 := by
    unfold n_1
    refine State.Touches.step (State.random_to _ _) ?_; exact State.Touches.refl _ _
  clear_value n_1
  extract_lets +onlyGivenNames hello_2
  refine State.Touches.step (State.say_to _ _ _) ?_; refine State.Touches.step (State.modSp_to _ _ _) ?_
  refine State.Touches.step (State.setSp_to _ _ _) ?_; exact hn_1

theorem State.startKeying_to (s : State) (p : Nat) : s.Touches [.regs, .sp, .log, .sent] (State.startKeying s p) := by
  unfold State.startKeying
  extract_lets +onlyGivenNames x_0
  split
  · exact State.Touches.refl _ _
  · split
    · refine State.Touches.step (State.attestFail_to _ _ _) ?_; exact State.Touches.refl _ _
    · refine State.Touches.step (State.say_to _ _ _) ?_; refine State.Touches.step (State.modSp_to _ _ _) ?_
      refine State.Touches.step (State.setSp_to _ _ _) ?_; exact State.Touches.refl _ _

theorem State.spEnter_to (s : State) (p : Nat) : s.Touches [.regs, .sp, .fj, .kpu] (State.spEnter s p) := by
  unfold State.spEnter
  extract_lets +onlyGivenNames x_0
  extract_lets +onlyGivenNames lvl_1
  extract_lets +onlyGivenNames t_2
  have ht_2 : State.Touches s [.regs, .sp, .fj, .kpu] t_2 := by
    unfold t_2
    refine State.Touches.step (State.fs_to _ _ _ _) ?_; refine State.Touches.step (State.fs_to _ _ _ _) ?_
    refine State.Touches.step (State.setSp_to _ _ _) ?_; exact State.Touches.refl _ _
  clear_value t_2
  extract_lets +onlyGivenNames t_3
  have ht_3 : State.Touches s [.regs, .sp, .fj, .kpu] t_3 := by
    unfold t_3
    split
    · refine State.Touches.step (State.fs_to _ _ _ _) ?_; exact ht_2
    · exact ht_2
  clear_value t_3
  extract_lets +onlyGivenNames u_4
  have hu_4 : State.Touches s [.regs, .sp, .fj, .kpu] u_4 := by
    unfold u_4
    refine State.Touches.step (State.modSp_to _ _ _) ?_; exact ht_3
  clear_value u_4
  extract_lets +onlyGivenNames v_5
  have hv_5 : State.Touches s [.regs, .sp, .fj, .kpu] v_5 := by
    unfold v_5
    refine State.Touches.step (State.drainPump_to _) ?_
    split
    · refine State.Touches.step (State.fs_to _ _ _ _) ?_; exact hu_4
    · exact hu_4
  clear_value v_5
  refine State.Touches.upd v_5 ?_
  exact hv_5

theorem State.keepIdent_to (s : State) (p : Nat) (m : Bytes) : s.Touches [.regs, .sp] (State.keepIdent s p m) := by
  unfold State.keepIdent
  extract_lets +onlyGivenNames f_0
  extract_lets +onlyGivenNames t_1
  have ht_1 : State.Touches s [.regs, .sp] t_1 := by
    unfold t_1
    refine State.Touches.step (State.wr_to _ _ _) ?_; refine State.Touches.step (State.fs_to _ _ _ _) ?_
    refine State.Touches.step (State.fs_to _ _ _ _) ?_; refine State.Touches.step (State.fs_to _ _ _ _) ?_
    refine State.Touches.step (State.fs_to _ _ _ _) ?_; refine State.Touches.step (State.fs_to _ _ _ _) ?_
    refine State.Touches.step (State.fs_to _ _ _ _) ?_; exact State.Touches.refl _ _
  clear_value t_1
  extract_lets +onlyGivenNames u_2
  have hu_2 : State.Touches s [.regs, .sp] u_2 := by
    unfold u_2
    refine State.Touches.step (State.wr_to _ _ _) ?_; exact ht_1
  clear_value u_2
  refine State.Touches.step (State.modSp_to _ _ _) ?_
  refine State.Touches.foldl ?_ ?_
  · exact hu_2
  · intro v3 v4 v5
    refine State.Touches.step (State.wr_to _ _ _) ?_; with_reducible assumption

theorem State.tellVerdict_to (s : State) (p verdict reason : Nat) : s.Touches [.sp, .sent] (State.tellVerdict s p verdict reason) := by
  unfold State.tellVerdict
  split
  · exact State.Touches.refl _ _
  · extract_lets +onlyGivenNames t_0
    have ht_0 : State.Touches s [.sp, .sent] t_0 := by
      unfold t_0
      refine State.Touches.step (State.modSp_to _ _ _) ?_; exact State.Touches.refl _ _
    clear_value t_0
    refine State.Touches.step (State.say_to _ _ _) ?_; exact ht_0

theorem State.hold_to (s : State) (p code : Nat) : s.Touches [.regs, .sp, .log, .sent] (State.hold s p code) := by
  unfold State.hold
  extract_lets +onlyGivenNames st_0
  extract_lets +onlyGivenNames t_1
  have ht_1 : State.Touches s [.regs, .sp, .log, .sent] t_1 := by
    unfold t_1
    refine State.Touches.step (State.setSp_to _ _ _) ?_; refine State.Touches.step (State.tellVerdict_to _ _ _ _) ?_; exact State.Touches.refl _ _
  clear_value t_1
  split
  · exact ht_1
  · refine State.Touches.step (State.log_to _ _ _ _ _) ?_; exact ht_1

theorem State.applyVerdict_to (s : State) (p : Nat) : s.Touches [.regs, .sp, .log, .randCtr, .sent] (State.applyVerdict s p) := by
  unfold State.applyVerdict
  extract_lets +onlyGivenNames m_0
  extract_lets +onlyGivenNames c_1
  split
  · refine State.Touches.step (State.hold_to _ _ _) ?_; exact State.Touches.refl _ _
  · split
    · extract_lets +onlyGivenNames r_2
      refine State.Touches.step (State.hold_to _ _ _) ?_; refine State.Touches.step (State.fs_to _ _ _ _) ?_; exact State.Touches.refl _ _
    · extract_lets +onlyGivenNames u_3
      have hu_3 : State.Touches s [.regs, .sp, .log, .randCtr, .sent] u_3 := by
        unfold u_3
        refine State.Touches.step (State.tellVerdict_to _ _ _ _) ?_; refine State.Touches.step (State.fs_to _ _ _ _) ?_; exact State.Touches.refl _ _
      clear_value u_3
      split
      · refine State.Touches.step (State.startAttest_to _ _) ?_; exact hu_3
      · split
        · exact hu_3
        · refine State.Touches.step (State.setSp_to _ _ _) ?_; exact hu_3

theorem State.spConfigure_to (s : State) (p : Nat) : s.Touches [.regs, .sp, .fj, .log, .randCtr, .sent] (State.spConfigure s p) := by
  unfold State.spConfigure
  extract_lets +onlyGivenNames st_0
  split
  · split
    · exact State.Touches.refl _ _
    · refine State.Touches.step (State.setSp_to _ _ _) ?_; refine State.Touches.step (State.spDown_to _ _ _) ?_; exact State.Touches.refl _ _
  · split
    · refine State.Touches.step (State.spStep1_to _ _) ?_; exact State.Touches.refl _ _
    · split
      · extract_lets +onlyGivenNames c_1
        split
        · split
          · refine State.Touches.step (State.applyVerdict_to _ _) ?_; exact State.Touches.refl _ _
          · exact State.Touches.refl _ _
        · split
          · refine State.Touches.step (State.hold_to _ _ _) ?_; exact State.Touches.refl _ _
          · extract_lets +onlyGivenNames y_2
            extract_lets +onlyGivenNames g_3
            extract_lets +onlyGivenNames t_4
            have ht_4 : State.Touches s [.regs, .sp, .fj, .log, .randCtr, .sent] t_4 := by
              unfold t_4
              refine State.Touches.step (State.fs_to _ _ _ _) ?_; refine State.Touches.step (State.fs_to _ _ _ _) ?_
              refine State.Touches.step (State.fs_to _ _ _ _) ?_; refine State.Touches.step (State.spDown_to _ _ _) ?_; exact State.Touches.refl _ _
            clear_value t_4
            refine State.Touches.step (State.hold_to _ _ _) ?_; refine State.Touches.step (State.modSp_to _ _ _) ?_
            refine State.Touches.step (State.fs_to _ _ _ _) ?_; exact ht_4
      · exact State.Touches.refl _ _

theorem State.switchDue_to (s : State) (p : Nat) : s.Touches [.regs, .sp, .log, .sent] (State.switchDue s p) := by
  unfold State.switchDue
  split
  · split
    · refine State.Touches.step (State.switchWidth_to _ _) ?_; exact State.Touches.refl _ _
    · exact State.Touches.refl _ _
  · exact State.Touches.refl _ _

theorem State.takeFlit_to (s : State) (p : Nat) (f : Bytes) : s.Touches [.regs, .sp, .fj] (State.takeFlit s p f) := by
  unfold State.takeFlit
  extract_lets +onlyGivenNames x_0
  split
  · exact State.Touches.refl _ _
  · extract_lets +onlyGivenNames part_1
    extract_lets +onlyGivenNames head_2
    extract_lets +onlyGivenNames counts_3
    extract_lets +onlyGivenNames t_4
    have ht_4 : State.Touches s [.regs, .sp, .fj] t_4 := by
      unfold t_4
      refine State.Touches.step (State.pmc_to _ _ _ _ _) ?_; refine State.Touches.step (State.modSp_to _ _ _) ?_; exact State.Touches.refl _ _
    clear_value t_4
    split
    · exact ht_4
    · extract_lets +onlyGivenNames k0_5
      extract_lets +onlyGivenNames k_6
      extract_lets +onlyGivenNames n_7
      extract_lets +onlyGivenNames done_8
      have hdone_8 : State.Touches s [.regs, .sp, .fj] done_8 := by
        unfold done_8
        refine State.Touches.step (State.modSp_to _ _ _) ?_; exact ht_4
      clear_value done_8
      extract_lets +onlyGivenNames free_9
      have hfree_9 : State.Touches s [.regs, .sp, .fj] free_9 := by
        unfold free_9
        split
        · exact hdone_8
        · refine State.Touches.step (State.modSp_to _ _ _) ?_; exact hdone_8
      clear_value free_9
      split
      · extract_lets +onlyGivenNames win_10
        split
        · refine State.Touches.step (State.arrive_to _ _ _) ?_; refine State.Touches.step (State.modSp_to _ _ _) ?_; exact hdone_8
        · split
          · refine State.Touches.step (State.countN_to _ _ _) ?_; exact hfree_9
          · exact hfree_9
      · split
        · refine State.Touches.step (State.refuse_to _ _ _) ?_; refine State.Touches.step (State.fsat_to _ _ _ _) ?_; exact hfree_9
        · refine State.Touches.step (State.arrive_to _ _ _) ?_; exact hdone_8

theorem State.rekeyHeard_to (s : State) (p : Nat) : s.Touches [.sp] (State.rekeyHeard s p) := by
  unfold State.rekeyHeard
  extract_lets +onlyGivenNames x_0
  extract_lets +onlyGivenNames n_1
  split
  · refine State.Touches.step (State.modSp_to _ _ _) ?_; exact State.Touches.refl _ _
  · exact State.Touches.refl _ _

theorem State.switchRx_to (s : State) (p : Nat) : s.Touches [.sp] (State.switchRx s p) := by
  unfold State.switchRx
  extract_lets +onlyGivenNames x_0
  split
  · refine State.Touches.step (State.modSp_to _ _ _) ?_; exact State.Touches.refl _ _
  · exact State.Touches.refl _ _

theorem State.takeFrame_to (s : State) (p : Nat) (b : Bytes) : s.Touches [.regs, .sp, .fj, .log, .sent] (State.takeFrame s p b) := by
  unfold State.takeFrame
  extract_lets +onlyGivenNames msg_0
  extract_lets +onlyGivenNames cr_1
  extract_lets +onlyGivenNames t_2
  have ht_2 : State.Touches s [.regs, .sp, .fj, .log, .sent] t_2 := by
    unfold t_2
    refine State.Touches.step (State.modSp_to _ _ _) ?_; exact State.Touches.refl _ _
  clear_value t_2
  extract_lets +onlyGivenNames u_3
  have hu_3 : State.Touches s [.regs, .sp, .fj, .log, .sent] u_3 := by
    unfold u_3
    refine State.Touches.foldl ?_ ?_
    · exact ht_2
    · intro v4 v5 v6
      refine State.Touches.step (State.takeFlit_to _ _ _) ?_; with_reducible assumption
  clear_value u_3
  extract_lets +onlyGivenNames v_7
  have hv_7 : State.Touches s [.regs, .sp, .fj, .log, .sent] v_7 := by
    unfold v_7
    split
    · refine State.Touches.step (State.spDown_to _ _ _) ?_; exact hu_3
    · refine State.Touches.step (State.switchDue_to _ _) ?_; refine State.Touches.step (State.flushTail_to _ _) ?_; exact hu_3
  clear_value v_7
  refine State.Touches.step (State.switchRx_to _ _) ?_; refine State.Touches.step (State.rekeyHeard_to _ _) ?_
  refine State.Touches.step (State.modSp_to _ _ _) ?_; exact hv_7

theorem State.resend_to (s : State) (p : Nat) : s.Touches [.regs, .sp, .fj, .log, .sent] (State.resend s p) := by
  unfold State.resend
  extract_lets +onlyGivenNames keep_0
  split
  · exact State.Touches.refl _ _
  · split
    · refine State.Touches.step (State.spDown_to _ _ _) ?_; exact State.Touches.refl _ _
    · refine State.Touches.foldl ?_ ?_
      · refine State.Touches.step (State.modSp_to _ _ _) ?_; exact State.Touches.refl _ _
      · intro v1 v2 v3
        refine State.Touches.step (State.sendAgain_to _ _ _) ?_; with_reducible assumption

theorem State.takeAck_to (s : State) (p : Nat) (f : SpFrame) : s.Touches [.regs, .sp, .fj, .log, .sent] (State.takeAck s p f) := by
  unfold State.takeAck
  extract_lets +onlyGivenNames a_0
  extract_lets +onlyGivenNames x_1
  extract_lets +onlyGivenNames keep_2
  extract_lets +onlyGivenNames t_3
  have ht_3 : State.Touches s [.regs, .sp, .fj, .log, .sent] t_3 := by
    unfold t_3
    refine State.Touches.step (State.modSp_to _ _ _) ?_; exact State.Touches.refl _ _
  clear_value t_3
  split
  · refine State.Touches.step (State.resend_to _ _) ?_; exact ht_3
  · exact ht_3

theorem State.frameRx_to (s0 : State) (p : Nat) (f : SpFrame) : s0.Touches [.regs, .sp, .fj, .log, .sent] (State.frameRx s0 p f) := by
  unfold State.frameRx
  extract_lets +onlyGivenNames s_0
  have hs_0 : State.Touches s0 [.regs, .sp, .fj, .log, .sent] s_0 := by
    unfold s_0
    refine State.Touches.step (State.pmc_to _ _ _ _ _) ?_; refine State.Touches.step (State.countN_to _ _ _) ?_; exact State.Touches.refl _ _
  clear_value s_0
  split
  · extract_lets +onlyGivenNames t_1
    have ht_1 : State.Touches s0 [.regs, .sp, .fj, .log, .sent] t_1 := by
      unfold t_1
      refine State.Touches.step (State.takeAck_to _ _ _) ?_; exact hs_0
    clear_value t_1
    split
    · refine State.Touches.step (State.takeFrame_to _ _ _) ?_; exact ht_1
    · exact ht_1
  · refine State.Touches.step (State.emit_to _ _) ?_
    split
    · refine State.Touches.step (State.resend_to _ _) ?_; exact hs_0
    · exact hs_0

theorem execSpFrameRx_to (p : Nat) (frame : SpFrame) (s : State) : Within s [.regs, .sp, .fj, .log, .sent] (execSpFrameRx p frame s) := by
  unfold execSpFrameRx
  refine Within.occurs ?_ ?_
  · exact State.Touches.refl _ _
  · refine State.Touches.step (State.frameRx_to _ _ _) ?_; exact State.Touches.refl _ _

theorem State.takeRx_to (s : State) (p : Nat) (k : Packet) : WithinO s [.sp, .fj] (State.takeRx s p k) := by
  unfold State.takeRx
  split
  · extract_lets +onlyGivenNames t_0
    extract_lets +onlyGivenNames t_1
    have ht_1 : State.Touches s [.sp, .fj] t_1 := by
      unfold t_1
      refine State.Touches.upd s ?_
      exact State.Touches.refl _ _
    clear_value t_1
    refine WithinO.some ?_
    split
    · refine State.Touches.step (State.modSp_to _ _ _) ?_; exact ht_1
    · exact ht_1
  · exact WithinO.none

theorem execSpLockDone_to (p locked : Nat) (s : State) : Within s [.regs] (execSpLockDone p locked s) := by
  unfold execSpLockDone
  refine Within.occurs ?_ ?_
  · exact State.Touches.refl _ _
  · refine State.Touches.step (State.setSp_to _ _ _) ?_; refine State.Touches.step (State.fs_to _ _ _ _) ?_
    refine State.Touches.step (State.fs_to _ _ _ _) ?_; refine State.Touches.step (State.fs_to _ _ _ _) ?_; exact State.Touches.refl _ _

theorem State.trained_to (s : State) (p rtt failed farFailed : Nat) : s.Touches [.regs, .sp, .log, .sent] (State.trained s p rtt failed farFailed) := by
  unfold State.trained
  extract_lets +onlyGivenNames st_0
  extract_lets +onlyGivenNames long_1
  extract_lets +onlyGivenNames t_2
  have ht_2 : State.Touches s [.regs, .sp, .log, .sent] t_2 := by
    unfold t_2
    refine State.Touches.step (State.fs_to _ _ _ _) ?_; refine State.Touches.step (State.fs_to _ _ _ _) ?_
    refine State.Touches.step (State.fs_to _ _ _ _) ?_; refine State.Touches.step (State.fs_to _ _ _ _) ?_
    refine State.Touches.step (State.fs_to _ _ _ _) ?_; exact State.Touches.refl _ _
  clear_value t_2
  split
  · refine State.Touches.step (State.spAttemptFails_to _ _) ?_; exact ht_2
  · refine State.Touches.step (State.setSp_to _ _ _) ?_; refine State.Touches.step (State.setWidth_to _ _) ?_
    refine State.Touches.step (State.modSp_to _ _ _) ?_; exact ht_2

theorem execSpTrainingDone_to (p rtt failed farFailed : Nat) (s : State) : Within s [.regs, .sp, .log, .sent] (execSpTrainingDone p rtt failed farFailed s) := by
  unfold execSpTrainingDone
  refine Within.occurs ?_ ?_
  · exact State.Touches.refl _ _
  · refine State.Touches.step (State.trained_to _ _ _ _ _) ?_; exact State.Touches.refl _ _

theorem execSpFecLockDone_to (p : Nat) (s : State) : Within s [.regs, .sp] (execSpFecLockDone p s) := by
  unfold execSpFecLockDone
  refine Within.occurs ?_ ?_
  · exact State.Touches.refl _ _
  · refine State.Touches.step (State.setSp_to _ _ _) ?_; refine State.Touches.step (State.modSp_to _ _ _) ?_; exact State.Touches.refl _ _

theorem execSpBringupTimeout_to (p : Nat) (s : State) : Within s [.regs, .sp, .log, .sent] (execSpBringupTimeout p s) := by
  unfold execSpBringupTimeout
  refine Within.occurs ?_ ?_
  · exact State.Touches.refl _ _
  · split
    · refine State.Touches.step (State.spAttemptFails_to _ _) ?_; exact State.Touches.refl _ _
    · refine State.Touches.step (State.attestFail_to _ _ _) ?_; exact State.Touches.refl _ _

theorem execSpBackoffExpiry_to (p : Nat) (s : State) : Within s [.regs, .waits, .time, .now, .rack] (execSpBackoffExpiry p s) := by
  unfold execSpBackoffExpiry
  refine Within.occurs ?_ ?_
  · exact State.Touches.refl _ _
  · refine State.Touches.step (State.spStep1_to _ _) ?_; refine State.Touches.step (State.runTo_to _ _) ?_; exact State.Touches.refl _ _

theorem execReceivedLightAboveLos_to (p : Nat) (s : State) : Within s [.regs, .sp] (execReceivedLightAboveLos p s) := by
  unfold execReceivedLightAboveLos
  extract_lets +onlyGivenNames t_0
  have ht_0 : State.Touches s [.regs, .sp] t_0 := by
    unfold t_0
    refine State.Touches.step (State.modSp_to _ _ _) ?_; exact State.Touches.refl _ _
  clear_value t_0
  refine Within.occurs ?_ ?_
  · exact State.Touches.refl _ _
  · split
    · refine State.Touches.step (State.spStep1_to _ _) ?_; exact ht_0
    · exact ht_0

theorem execIdentSend_to (p : Nat) (s : State) : Within s [.regs, .waits, .sp, .time, .now, .rack, .sent] (execIdentSend p s) := by
  unfold execIdentSend
  extract_lets +onlyGivenNames st_0
  extract_lets +onlyGivenNames t_1
  have ht_1 : State.Touches s [.regs, .waits, .sp, .time, .now, .rack, .sent] t_1 := by
    unfold t_1
    refine State.Touches.step (State.pass_to _ _) ?_; exact State.Touches.refl _ _
  clear_value t_1
  refine Within.occurs ?_ ?_
  · exact State.Touches.refl _ _
  · refine State.Touches.step (State.say_to _ _ _) ?_; exact ht_1

theorem State.takeMsg_to (s : State) (p : Nat) (msg : Bytes) : WithinO s [.sp] (State.takeMsg s p msg) := by
  unfold State.takeMsg
  split
  · refine WithinO.some ?_
    refine State.Touches.step (State.modSp_to _ _ _) ?_; exact State.Touches.refl _ _
  · exact WithinO.none

theorem State.identRx_to (s : State) (p : Nat) (m : Bytes) : s.Touches [.regs, .sp, .log, .randCtr, .sent] (State.identRx s p m) := by
  unfold State.identRx
  split
  · refine State.Touches.step (State.count_to _ _) ?_; exact State.Touches.refl _ _
  · extract_lets +onlyGivenNames t_0
    have ht_0 : State.Touches s [.regs, .sp, .log, .randCtr, .sent] t_0 := by
      unfold t_0
      refine State.Touches.step (State.keepIdent_to _ _ _) ?_; exact State.Touches.refl _ _
    clear_value t_0
    extract_lets +onlyGivenNames st_1
    split
    · refine State.Touches.step (State.applyVerdict_to _ _) ?_; exact ht_0
    · exact ht_0

theorem execIdent_to (p : Nat) (msg : Bytes) (s : State) : Within s [.regs, .sp, .log, .randCtr, .sent] (execIdent p msg s) := by
  unfold execIdent
  split
  · refine Within.occurs ?_ ?_
    · exact State.Touches.refl _ _
    · refine State.Touches.step (State.identRx_to _ _ _) ?_
      refine State.Touches.of_some (by assumption) ?_
      refine WithinO.step (State.takeMsg_to _ _ _) ?_
      exact State.Touches.refl _ _
  · refine Within.occurs ?_ ?_
    · exact State.Touches.refl _ _
    · exact State.Touches.refl _ _

theorem State.helloRx_to (s : State) (p : Nat) (m : Bytes) : s.Touches [.regs, .sp, .log, .randCtr, .sent] (State.helloRx s p m) := by
  unfold State.helloRx
  extract_lets +onlyGivenNames x_0
  extract_lets +onlyGivenNames t_1
  have ht_1 : State.Touches s [.regs, .sp, .log, .randCtr, .sent] t_1 := by
    unfold t_1
    refine State.Touches.step (State.modSp_to _ _ _) ?_; exact State.Touches.refl _ _
  clear_value t_1
  split
  · exact ht_1
  · extract_lets +onlyGivenNames lat_2
    refine State.Touches.step (State.startKeying_to _ _) ?_; refine State.Touches.step (State.say_to _ _ _) ?_
    refine State.Touches.step (State.modSp_to _ _ _) ?_
    refine State.Touches.of_pair (by assumption) ?_
    refine WithinP.step (State.report_to _ _) ?_
    exact ht_1

theorem execLhello_to (p : Nat) (msg : Bytes) (s : State) : Within s [.regs, .sp, .log, .randCtr, .sent] (execLhello p msg s) := by
  unfold execLhello
  split
  · refine Within.occurs ?_ ?_
    · exact State.Touches.refl _ _
    · refine State.Touches.step (State.helloRx_to _ _ _) ?_
      refine State.Touches.of_some (by assumption) ?_
      refine WithinO.step (State.takeMsg_to _ _ _) ?_
      exact State.Touches.refl _ _
  · refine Within.occurs ?_ ?_
    · exact State.Touches.refl _ _
    · exact State.Touches.refl _ _

theorem State.lattestRx_to (s : State) (p : Nat) (m : Bytes) : s.Touches [.regs, .sp, .log, .sent] (State.lattestRx s p m) := by
  unfold State.lattestRx
  extract_lets +onlyGivenNames x_0
  extract_lets +onlyGivenNames rl_1
  extract_lets +onlyGivenNames cl_2
  extract_lets +onlyGivenNames c_3
  split
  · refine State.Touches.step (State.startKeying_to _ _) ?_; refine State.Touches.step (State.modSp_to _ _ _) ?_; exact State.Touches.refl _ _
  · refine State.Touches.step (State.attestFail_to _ _ _) ?_; refine State.Touches.step (State.count_to _ _) ?_; exact State.Touches.refl _ _

theorem execLattest_to (p : Nat) (msg : Bytes) (s : State) : Within s [.regs, .sp, .log, .sent] (execLattest p msg s) := by
  unfold execLattest
  split
  · refine Within.occurs ?_ ?_
    · exact State.Touches.refl _ _
    · refine State.Touches.step (State.lattestRx_to _ _ _) ?_
      refine State.Touches.of_some (by assumption) ?_
      refine WithinO.step (State.takeMsg_to _ _ _) ?_
      exact State.Touches.refl _ _
  · refine Within.occurs ?_ ?_
    · exact State.Touches.refl _ _
    · exact State.Touches.refl _ _

theorem State.finishRx_to (s : State) (p : Nat) (m : Bytes) : s.Touches [.regs, .sp, .fj, .kpu, .log, .sent] (State.finishRx s p m) := by
  unfold State.finishRx
  split
  · exact State.Touches.refl _ _
  · split
    · refine State.Touches.step (State.spEnter_to _ _) ?_; exact State.Touches.refl _ _
    · refine State.Touches.step (State.attestFail_to _ _ _) ?_; exact State.Touches.refl _ _

theorem execLfinish_to (p : Nat) (msg : Bytes) (s : State) : Within s [.regs, .sp, .fj, .kpu, .log, .sent] (execLfinish p msg s) := by
  unfold execLfinish
  split
  · refine Within.occurs ?_ ?_
    · exact State.Touches.refl _ _
    · refine State.Touches.step (State.finishRx_to _ _ _) ?_
      refine State.Touches.of_some (by assumption) ?_
      refine WithinO.step (State.takeMsg_to _ _ _) ?_
      exact State.Touches.refl _ _
  · refine Within.occurs ?_ ?_
    · exact State.Touches.refl _ _
    · exact State.Touches.refl _ _

theorem execAttestRetry_to (p : Nat) (s : State) : Within s [.regs, .waits, .sp, .time, .now, .rack, .randCtr, .sent] (execAttestRetry p s) := by
  unfold execAttestRetry
  refine Within.occurs ?_ ?_
  · exact State.Touches.refl _ _
  · refine State.Touches.step (State.startAttest_to _ _) ?_; refine State.Touches.step (State.runTo_to _ _) ?_; exact State.Touches.refl _ _

theorem execSpReenable_to (port p : Nat) (s : State) : Within s [.regs] (execSpReenable port p s) := by
  unfold execSpReenable
  extract_lets +onlyGivenNames t_0
  have ht_0 : State.Touches s [.regs] t_0 := by
    unfold t_0
    refine State.Touches.step (State.fs_to _ _ _ _) ?_; exact State.Touches.refl _ _
  clear_value t_0
  refine Within.occurs ?_ ?_
  · exact State.Touches.refl _ _
  · split
    · refine State.Touches.step (State.spStep1_to _ _) ?_; exact ht_0
    · exact ht_0

theorem State.laneLost_to (s : State) (p lanes : Nat) : s.Touches [.regs, .sp, .fj, .log, .sent] (State.laneLost s p lanes) := by
  unfold State.laneLost
  extract_lets +onlyGivenNames t_0
  have ht_0 : State.Touches s [.regs, .sp, .fj, .log, .sent] t_0 := by
    unfold t_0
    refine State.Touches.step (State.unlock_to _ _ _) ?_; exact State.Touches.refl _ _
  clear_value t_0
  refine State.Touches.step (State.lanesFail_to _ _ _ _) ?_; exact ht_0

theorem execSpLaneFail_to (p lanes : Nat) (s : State) : Within s [.regs, .sp, .fj, .log, .sent] (execSpLaneFail p lanes s) := by
  unfold execSpLaneFail
  refine Within.occurs ?_ ?_
  · exact State.Touches.refl _ _
  · refine State.Touches.step (State.laneLost_to _ _ _) ?_; exact State.Touches.refl _ _

theorem execSpTestFail_to (port p lane : Nat) (s : State) : Within s [.regs, .sp, .fj, .log, .sent] (execSpTestFail port p lane s) := by
  unfold execSpTestFail
  refine Within.occurs ?_ ?_
  · exact State.Touches.refl _ _
  · refine State.Touches.step (State.lanesFail_to _ _ _ _) ?_; refine State.Touches.step (State.fs_to _ _ _ _) ?_; exact State.Touches.refl _ _

theorem State.uncWindow_to (s : State) (p : Nat) (counts : List Nat) : s.Touches [.regs, .waits, .sp, .fj, .log, .time, .now, .rack, .sent] (State.uncWindow s p counts) := by
  unfold State.uncWindow
  extract_lets +onlyGivenNames th_0
  extract_lets +onlyGivenNames c_1
  extract_lets +onlyGivenNames t_2
  have ht_2 : State.Touches s [.regs, .waits, .sp, .fj, .log, .time, .now, .rack, .sent] t_2 := by
    unfold t_2
    refine State.Touches.step (State.countN_to _ _ _) ?_; refine State.Touches.step (State.pass_to _ _) ?_; exact State.Touches.refl _ _
  clear_value t_2
  extract_lets +onlyGivenNames m_3
  split
  · exact ht_2
  · refine State.Touches.step (State.lanesFail_to _ _ _ _) ?_; exact ht_2

theorem execSpUncWindow_to (p : Nat) (counts : List Nat) (s : State) : Within s [.regs, .waits, .sp, .fj, .log, .time, .now, .rack, .sent] (execSpUncWindow p counts s) := by
  unfold execSpUncWindow
  refine Within.occurs ?_ ?_
  · exact State.Touches.refl _ _
  · refine State.Touches.step (State.uncWindow_to _ _ _) ?_; exact State.Touches.refl _ _

theorem State.widthOrder_to (s : State) (p farMask switchAt : Nat) : s.Touches [.regs, .sp, .fj, .log, .sent] (State.widthOrder s p farMask switchAt) := by
  unfold State.widthOrder
  extract_lets +onlyGivenNames before_0
  extract_lets +onlyGivenNames t_1
  have ht_1 : State.Touches s [.regs, .sp, .fj, .log, .sent] t_1 := by
    unfold t_1
    refine State.Touches.step (State.modSp_to _ _ _) ?_; refine State.Touches.step (State.fs_to _ _ _ _) ?_; exact State.Touches.refl _ _
  clear_value t_1
  extract_lets +onlyGivenNames w_2
  split
  · refine State.Touches.step (State.spDown_to _ _ _) ?_; exact ht_1
  · extract_lets +onlyGivenNames u_3
    have hu_3 : State.Touches s [.regs, .sp, .fj, .log, .sent] u_3 := by
      unfold u_3
      split
      · refine State.Touches.step (State.orderWidth_to _ _) ?_; exact ht_1
      · exact ht_1
    clear_value u_3
    split
    · exact hu_3
    · refine State.Touches.step (State.switchDue_to _ _) ?_; refine State.Touches.step (State.modSp_to _ _ _) ?_; exact hu_3

theorem execWidthOrder_to (p farMask switchAt : Nat) (s : State) : Within s [.regs, .sp, .fj, .log, .sent] (execWidthOrder p farMask switchAt s) := by
  unfold execWidthOrder
  refine Within.occurs ?_ ?_
  · exact State.Touches.refl _ _
  · refine State.Touches.step (State.widthOrder_to _ _ _ _) ?_; exact State.Touches.refl _ _

theorem execSpRestore_to (port p : Nat) (s : State) : Within s [.regs] (execSpRestore port p s) := by
  unfold execSpRestore
  refine Within.occurs ?_ ?_
  · exact State.Touches.refl _ _
  · refine State.Touches.step (State.fs_to _ _ _ _) ?_; exact State.Touches.refl _ _

theorem State.retrained_to (s : State) (p here far : Nat) (own : Bool) : s.Touches [.regs, .sp, .fj, .log, .sent] (State.retrained s p here far own) := by
  unfold State.retrained
  extract_lets +onlyGivenNames t_0
  have ht_0 : State.Touches s [.regs, .sp, .fj, .log, .sent] t_0 := by
    unfold t_0
    split
    · refine State.Touches.step (State.fs_to _ _ _ _) ?_; exact State.Touches.refl _ _
    · exact State.Touches.refl _ _
  clear_value t_0
  extract_lets +onlyGivenNames t_1
  have ht_1 : State.Touches s [.regs, .sp, .fj, .log, .sent] t_1 := by
    unfold t_1
    refine State.Touches.step (State.fs_to _ _ _ _) ?_; refine State.Touches.step (State.fs_to _ _ _ _) ?_
    refine State.Touches.step (State.fs_to _ _ _ _) ?_; exact ht_0
  clear_value t_1
  extract_lets +onlyGivenNames t_2
  have ht_2 : State.Touches s [.regs, .sp, .fj, .log, .sent] t_2 := by
    unfold t_2
    refine State.Touches.step (State.modSp_to _ _ _) ?_; refine State.Touches.step (State.fs_to _ _ _ _) ?_; exact ht_1
  clear_value t_2
  split
  · refine State.Touches.step (State.spDown_to _ _ _) ?_; exact ht_2
  · refine State.Touches.step (State.setWidth_to _ _) ?_; exact ht_2

theorem execSpRetrainDone_to (p : Nat) (out : Retrain) (s : State) : Within s [.regs, .sp, .fj, .log, .sent] (execSpRetrainDone p out s) := by
  unfold execSpRetrainDone
  refine Within.occurs ?_ ?_
  · exact State.Touches.refl _ _
  · refine State.Touches.step (State.retrained_to _ _ _ _ _) ?_; exact State.Touches.refl _ _

theorem State.creditWatchdog_to (s : State) (p vc : Nat) : s.Touches [.regs, .waits, .sp, .log, .time, .now, .rack, .sent] (State.creditWatchdog s p vc) := by
  unfold State.creditWatchdog
  extract_lets +onlyGivenNames since_0
  extract_lets +onlyGivenNames wd_1
  extract_lets +onlyGivenNames t_2
  have ht_2 : State.Touches s [.regs, .waits, .sp, .log, .time, .now, .rack, .sent] t_2 := by
    unfold t_2
    refine State.Touches.step (State.count_to _ _) ?_; refine State.Touches.step (State.raise_to _ _ _) ?_
    refine State.Touches.step (State.runTo_to _ _) ?_; exact State.Touches.refl _ _
  clear_value t_2
  extract_lets +onlyGivenNames u_3
  have hu_3 : State.Touches s [.regs, .waits, .sp, .log, .time, .now, .rack, .sent] u_3 := by
    unfold u_3
    refine State.Touches.step (State.modSp_to _ _ _) ?_; exact ht_2
  clear_value u_3
  split
  · split
    · exact hu_3
    · refine State.Touches.step (State.log_to _ _ _ _ _) ?_; refine State.Touches.step (State.modSp_to _ _ _) ?_; exact hu_3
  · refine State.Touches.step (State.log_to _ _ _ _ _) ?_; refine State.Touches.step (State.modSp_to _ _ _) ?_; exact hu_3

theorem execSpCreditWatchdog_to (p vc : Nat) (s : State) : Within s [.regs, .waits, .sp, .log, .time, .now, .rack, .sent] (execSpCreditWatchdog p vc s) := by
  unfold execSpCreditWatchdog
  refine Within.occurs ?_ ?_
  · exact State.Touches.refl _ _
  · refine State.Touches.step (State.creditWatchdog_to _ _ _) ?_; exact State.Touches.refl _ _

theorem execSpStallLimit_to (p vc : Nat) (s : State) : Within s [.regs, .waits, .sp, .fj, .log, .time, .now, .rack, .sent] (execSpStallLimit p vc s) := by
  unfold execSpStallLimit
  extract_lets +onlyGivenNames lim_0
  refine Within.occurs ?_ ?_
  · exact State.Touches.refl _ _
  · refine State.Touches.step (State.spDown_to _ _ _) ?_; refine State.Touches.step (State.runTo_to _ _) ?_; exact State.Touches.refl _ _

theorem State.rekey_to (s : State) (p : Nat) : s.Touches [.sp, .sent] (State.rekey s p) := by
  unfold State.rekey
  refine State.Touches.step (State.modSp_to _ _ _) ?_; refine State.Touches.step (State.say_to _ _ _) ?_; exact State.Touches.refl _ _

theorem execLinkRekey_to (p : Nat) (s : State) : Within s [.sp, .sent] (execLinkRekey p s) := by
  unfold execLinkRekey
  refine Within.occurs ?_ ?_
  · exact State.Touches.refl _ _
  · refine State.Touches.step (State.rekey_to _ _) ?_; exact State.Touches.refl _ _

theorem execSpClearCounts_to (port p : Nat) (s : State) : Within s [.regs] (execSpClearCounts port p s) := by
  unfold execSpClearCounts
  refine Within.occurs ?_ ?_
  · exact State.Touches.refl _ _
  · refine State.Touches.step (State.zeroRegs_to _ _) ?_; exact State.Touches.refl _ _

theorem State.roundStep_to (s : State) (out : Nat) (h : XHead) : s.Touches [.fj] (State.roundStep s out h) := by
  unfold State.roundStep
  split
  · exact State.Touches.refl _ _
  · extract_lets +onlyGivenNames last_0
    extract_lets +onlyGivenNames n_1
    refine State.Touches.upd s ?_
    exact State.Touches.refl _ _

theorem State.grant_to (s : State) (out inp : Nat) (h : XHead) : s.Touches [.regs, .links, .sp, .fj, .bud, .sent] (State.grant s out inp h) := by
  unfold State.grant
  extract_lets +onlyGivenNames n_0
  extract_lets +onlyGivenNames t_1
  extract_lets +onlyGivenNames t_2
  have ht_2 : State.Touches s [.regs, .links, .sp, .fj, .bud, .sent] t_2 := by
    unfold t_2
    refine State.Touches.step (State.roundStep_to _ _ _) ?_
    refine State.Touches.upd s ?_
    exact State.Touches.refl _ _
  clear_value t_2
  extract_lets +onlyGivenNames u_3
  have hu_3 : State.Touches s [.regs, .links, .sp, .fj, .bud, .sent] u_3 := by
    unfold u_3
    split
    · exact ht_2
    · refine State.Touches.step (State.switched_to _ _ _ _) ?_; refine State.Touches.step (State.charge_to _ _ _ _ _) ?_; exact ht_2
  clear_value u_3
  extract_lets +onlyGivenNames v_4
  have hv_4 : State.Touches s [.regs, .links, .sp, .fj, .bud, .sent] v_4 := by
    unfold v_4
    split
    · exact hu_3
    · refine State.Touches.step (State.charge_to _ _ _ _ _) ?_; exact hu_3
  clear_value v_4
  extract_lets +onlyGivenNames q_5
  extract_lets +onlyGivenNames v_6
  have hv_6 : State.Touches s [.regs, .links, .sp, .fj, .bud, .sent] v_6 := by
    unfold v_6
    split
    · refine State.Touches.step (State.modSp_to _ _ _) ?_; exact hv_4
    · exact hv_4
  clear_value v_6
  extract_lets +onlyGivenNames a_7
  refine State.Touches.step (State.drainPump_to _) ?_; refine State.Touches.step (State.transmit_to _ _ _ _ _) ?_
  refine State.Touches.step (State.pmc_to _ _ _ _ _) ?_; refine State.Touches.step (State.pmc_to _ _ _ _ _) ?_
  refine State.Touches.step (State.charge_to _ _ _ _ _) ?_; exact hv_6

theorem execXbarGrant_to (out inp : Nat) (s : State) : Within s [.regs, .links, .sp, .fj, .bud, .sent] (execXbarGrant out inp s) := by
  unfold execXbarGrant
  split
  · refine Within.occurs ?_ ?_
    · exact State.Touches.refl _ _
    · refine State.Touches.step (State.grant_to _ _ _ _) ?_; exact State.Touches.refl _ _
  · refine Within.occurs ?_ ?_
    · exact State.Touches.refl _ _
    · exact State.Touches.refl _ _

end Machine
end Sys2Proof
end

