-- ==== Sys2Proof/Laws/TouchFabric.lean ====
section
/-!
SUPPORT. The operations of collectives, die links, keeping, stream ports, the home agent and set-up change at most the listed parts of the state (`State.Touches`): one lemma for each.
-/
namespace Sys2Proof
namespace Machine
set_option Elab.async false

theorem State.inspect_to (s : State) (p : Packet) : s.Touches [.fj] (State.inspect s p).2.2 := by
  unfold State.inspect
  split
  · exact State.Touches.refl _ _
  · split
    · exact State.Touches.refl _ _
    · extract_lets +onlyGivenNames k_0
      extract_lets +onlyGivenNames x_1
      split
      · exact State.Touches.refl _ _
      · split
        · exact State.Touches.refl _ _
        · dsimp only
          refine State.Touches.upd s ?_
          exact State.Touches.refl _ _

theorem State.countTag_to (s : State) (code : Nat) : s.Touches [.regs] (State.countTag s code) := by
  unfold State.countTag
  split
  · refine State.Touches.step (State.count_to _ _) ?_; exact State.Touches.refl _ _
  · exact State.Touches.refl _ _

theorem State.dropPkt_to (s : State) (code : Nat) : s.Touches [.regs] (State.dropPkt s code) := by
  unfold State.dropPkt
  refine State.Touches.step (State.count_to _ _) ?_; refine State.Touches.step (State.countTag_to _ _) ?_; exact State.Touches.refl _ _

theorem State.modGrp_to (s : State) (g : Nat) (f : CleGrp → CleGrp) : s.Touches [.cle] (State.modGrp s g f) := by
  unfold State.modGrp
  refine State.Touches.upd s ?_
  exact State.Touches.refl _ _

theorem State.holdGrp_to (s : State) (g : Nat) : s.Touches [.regs, .cle] (State.holdGrp s g) := by
  unfold State.holdGrp
  refine State.Touches.step (State.modGrp_to _ _ _) ?_; refine State.Touches.step (State.fs_to _ _ _ _) ?_; exact State.Touches.refl _ _

theorem State.showActive_to (s : State) : s.Touches [.regs] (State.showActive s) := by
  unfold State.showActive
  refine State.Touches.step (State.fs_to _ _ _ _) ?_; exact State.Touches.refl _ _

theorem State.setGrp_to (s : State) (g st step : Nat) : s.Touches [.regs, .cle] (State.setGrp s g st step) := by
  unfold State.setGrp
  refine State.Touches.step (State.showActive_to _) ?_; refine State.Touches.step (State.modGrp_to _ _ _) ?_
  refine State.Touches.step (State.fs_to _ _ _ _) ?_; refine State.Touches.step (State.fs_to _ _ _ _) ?_; exact State.Touches.refl _ _

theorem State.collPump_to (y0 : Nat) (y1 : State) (y2 : Nat) : y1.Touches [.regs, .fj, .cle, .bud] (State.collPump y0 y1 y2) := by
  induction y0 generalizing y1 with
  | zero => exact .refl _ _
  | succ n ih =>
    unfold State.collPump
    split
    · exact .refl _ _
    · split
      · refine State.Touches.trans ?_ (ih _)
        exact State.Touches.step (State.issue_to _ _ _ _) (State.Touches.step (State.charge_to _ _ _ _ _) (State.Touches.step (State.modGrp_to _ _ _) (.refl _ _)))
      · exact .refl _ _

theorem State.sendColl_to (s : State) (g : Nat) (r : Rec) (d : CallDesc) (rank ph step code first count : Nat) (body : Bytes) : s.Touches [.regs, .fj, .cle, .bud] (State.sendColl s g r d rank ph step code first count body) := by
  unfold State.sendColl
  extract_lets +onlyGivenNames data_0
  extract_lets +onlyGivenNames k_1
  extract_lets +onlyGivenNames t_2
  have ht_2 : State.Touches s [.regs, .fj, .cle, .bud] t_2 := by
    unfold t_2
    refine State.Touches.step (State.modGrp_to _ _ _) ?_; exact State.Touches.refl _ _
  clear_value t_2
  refine State.Touches.step (State.collPump_to _ _ _) ?_; exact ht_2

theorem State.endColls_to (s : State) (g code : Nat) : s.Touches [.seq] (State.endColls s g code) := by
  unfold State.endColls
  split
  · exact State.Touches.refl _ _
  · refine State.Touches.foldl ?_ ?_
    · exact State.Touches.refl _ _
    · intro v0 v1 v2
      split
      · split
        · refine State.Touches.step (State.setRunning_to _ _ _ _) ?_; with_reducible assumption
        · with_reducible assumption
      · with_reducible assumption

theorem State.cleErr_to (s : State) (g code origin : Nat) (received : Bool) : s.Touches [.regs] (State.cleErr s g code origin received) := by
  unfold State.cleErr
  split
  · refine State.Touches.step (State.fs_to _ _ _ _) ?_; exact State.Touches.refl _ _
  · extract_lets +onlyGivenNames ph_0
    refine State.Touches.step (State.fs_to _ _ _ _) ?_; refine State.Touches.step (State.fs_to _ _ _ _) ?_
    refine State.Touches.step (State.fs_to _ _ _ _) ?_; refine State.Touches.step (State.fs_to _ _ _ _) ?_
    refine State.Touches.step (State.fs_to _ _ _ _) ?_; refine State.Touches.step (State.fs_to _ _ _ _) ?_
    refine State.Touches.step (State.fs_to _ _ _ _) ?_; refine State.Touches.step (State.fs_to _ _ _ _) ?_; exact State.Touches.refl _ _

theorem State.collSettle_to (s : State) (g : Nat) : s.Touches [.regs, .cle] (State.collSettle s g) := by
  unfold State.collSettle
  split
  · split
    · refine State.Touches.step (State.fs_to _ _ _ _) ?_; refine State.Touches.step (State.setGrp_to _ _ _ _) ?_; exact State.Touches.refl _ _
    · exact State.Touches.refl _ _
  · exact State.Touches.refl _ _

theorem State.cleAbort_to (s : State) (g code origin : Nat) (received : Bool) : s.Touches [.regs, .seq, .fj, .cle, .bud, .log, .sent] (State.cleAbort s g code origin received) := by
  unfold State.cleAbort
  split
  · extract_lets +onlyGivenNames t_0
    have ht_0 : State.Touches s [.regs, .seq, .fj, .cle, .bud, .log, .sent] t_0 := by
      unfold t_0
      refine State.Touches.step (State.cleErr_to _ _ _ _ _) ?_; exact State.Touches.refl _ _
    clear_value t_0
    extract_lets +onlyGivenNames t1_1
    have ht1_1 : State.Touches s [.regs, .seq, .fj, .cle, .bud, .log, .sent] t1_1 := by
      unfold t1_1
      split
      · refine State.Touches.step (State.count_to _ _) ?_; exact ht_0
      · split
        · refine State.Touches.step (State.count_to _ _) ?_; exact ht_0
        · exact ht_0
    clear_value t1_1
    extract_lets +onlyGivenNames t2_2
    have ht2_2 : State.Touches s [.regs, .seq, .fj, .cle, .bud, .log, .sent] t2_2 := by
      unfold t2_2
      split
      · exact ht1_1
      · refine State.Touches.foldl ?_ ?_
        · exact ht1_1
        · intro v3 v4 v5
          refine State.Touches.step (State.sendColl_to _ _ _ _ _ _ _ _ _ _ _) ?_; with_reducible assumption
    clear_value t2_2
    extract_lets +onlyGivenNames t3_6
    have ht3_6 : State.Touches s [.regs, .seq, .fj, .cle, .bud, .log, .sent] t3_6 := by
      unfold t3_6
      refine State.Touches.step (State.fs_to _ _ _ _) ?_; refine State.Touches.step (State.setGrp_to _ _ _ _) ?_
      refine State.Touches.step (State.endColls_to _ _ _) ?_; exact ht2_2
    clear_value t3_6
    extract_lets +onlyGivenNames t4_7
    have ht4_7 : State.Touches s [.regs, .seq, .fj, .cle, .bud, .log, .sent] t4_7 := by
      unfold t4_7
      refine State.Touches.step (State.modGrp_to _ _ _) ?_; exact ht3_6
    clear_value t4_7
    extract_lets +onlyGivenNames t5_8
    have ht5_8 : State.Touches s [.regs, .seq, .fj, .cle, .bud, .log, .sent] t5_8 := by
      unfold t5_8
      split
      · exact ht4_7
      · refine State.Touches.step (State.log_to _ _ _ _ _) ?_; exact ht4_7
    clear_value t5_8
    refine State.Touches.step (State.collSettle_to _ _) ?_
    split
    · refine State.Touches.step (State.emit_to _ _) ?_; exact ht5_8
    · exact ht5_8
  · exact State.Touches.refl _ _

theorem State.collOwn_to (s : State) (g : Nat) (r : Rec) (d : CallDesc) : s.Touches [.cle] (State.collOwn s g r d) := by
  unfold State.collOwn
  extract_lets +onlyGivenNames x_0
  split
  · extract_lets +onlyGivenNames rg_1
    split
    · exact State.Touches.refl _ _
    · split
      · refine State.Touches.step (State.modGrp_to _ _ _) ?_; exact State.Touches.refl _ _
      · extract_lets +onlyGivenNames o_2
        refine State.Touches.step (State.modGrp_to _ _ _) ?_; exact State.Touches.refl _ _
  · exact State.Touches.refl _ _

theorem State.adderUsed_to (s : State) (g : Nat) : s.Touches [.regs, .log, .sent] (State.adderUsed s g) := by
  unfold State.adderUsed
  split
  · refine State.Touches.step (State.log_to _ _ _ _ _) ?_; refine State.Touches.step (State.pmc_to _ _ _ _ _) ?_
    refine State.Touches.step (State.count_to _ _) ?_; refine State.Touches.step (State.fs_to _ _ _ _) ?_; exact State.Touches.refl _ _
  · exact State.Touches.refl _ _

theorem State.collCombine_to (s : State) (g : Nat) (r : Rec) (d : CallDesc) : s.Touches [.regs, .seq, .fj, .cle, .bud, .log, .sent] (State.collCombine s g r d) := by
  unfold State.collCombine
  extract_lets +onlyGivenNames v_0
  split
  · refine State.Touches.step (State.modGrp_to _ _ _) ?_
    split
    · refine State.Touches.step (State.adderUsed_to _ _) ?_; exact State.Touches.refl _ _
    · exact State.Touches.refl _ _
  · refine State.Touches.step (State.cleAbort_to _ _ _ _ _) ?_; refine State.Touches.step (State.pmc_to _ _ _ _ _) ?_; exact State.Touches.refl _ _

theorem State.collWrite_to (s : State) (g : Nat) (r : Rec) (d : CallDesc) : s.Touches [.mem, .far, .tiers, .kpu] (State.collWrite s g r d) := by
  unfold State.collWrite
  extract_lets +onlyGivenNames x_0
  split
  · exact State.Touches.refl _ _
  · refine State.Touches.foldl ?_ ?_
    · exact State.Touches.refl _ _
    · intro v1 v2 v3
      split
      · split
        · extract_lets +onlyGivenNames k_4
          extract_lets +onlyGivenNames part_5
          extract_lets +onlyGivenNames v_6
          refine State.Touches.foldl ?_ ?_
          · with_reducible assumption
          · intro v7 v8 v9
            refine State.Touches.step (State.writeRow_to _ _ _ _ _ _ _) ?_; with_reducible assumption
        · with_reducible assumption
      · with_reducible assumption

theorem State.collFinish_to (s : State) (g : Nat) (r : Rec) (d : CallDesc) : s.Touches [.regs, .mem, .far, .seq, .tiers, .links, .cle, .kpu] (State.collFinish s g r d) := by
  unfold State.collFinish
  extract_lets +onlyGivenNames f_0
  have hf_0 : State.Touches s [.regs, .mem, .far, .seq, .tiers, .links, .cle, .kpu] f_0 := by
    unfold f_0
    refine State.Touches.foldl ?_ ?_
    · exact State.Touches.refl _ _
    · intro v1 v2 v3
      refine State.Touches.step (State.fall_to _ _ _) ?_; with_reducible assumption
  clear_value f_0
  extract_lets +onlyGivenNames t_4
  have ht_4 : State.Touches s [.regs, .mem, .far, .seq, .tiers, .links, .cle, .kpu] t_4 := by
    unfold t_4
    refine State.Touches.step (State.endColls_to _ _ _) ?_; refine State.Touches.step (State.collWrite_to _ _ _ _) ?_; exact hf_0
  clear_value t_4
  extract_lets +onlyGivenNames u_5
  have hu_5 : State.Touches s [.regs, .mem, .far, .seq, .tiers, .links, .cle, .kpu] u_5 := by
    unfold u_5
    refine State.Touches.step (State.count_to _ _) ?_; exact ht_4
  clear_value u_5
  extract_lets +onlyGivenNames wide_6
  extract_lets +onlyGivenNames v_7
  have hv_7 : State.Touches s [.regs, .mem, .far, .seq, .tiers, .links, .cle, .kpu] v_7 := by
    unfold v_7
    split
    · refine State.Touches.step (State.count_to _ _) ?_; exact hu_5
    · exact hu_5
  clear_value v_7
  extract_lets +onlyGivenNames w_8
  have hw_8 : State.Touches s [.regs, .mem, .far, .seq, .tiers, .links, .cle, .kpu] w_8 := by
    unfold w_8
    refine State.Touches.step (State.fs_to _ _ _ _) ?_; refine State.Touches.step (State.setGrp_to _ _ _ _) ?_; exact hv_7
  clear_value w_8
  refine State.Touches.step (State.modGrp_to _ _ _) ?_; exact hw_8

theorem State.collDoneSent_to (s : State) (g : Nat) (r : Rec) (d : CallDesc) : s.Touches [.regs, .fj, .cle, .bud] (State.collDoneSent s g r d) := by
  unfold State.collDoneSent
  extract_lets +onlyGivenNames t_0
  have ht_0 : State.Touches s [.regs, .fj, .cle, .bud] t_0 := by
    unfold t_0
    refine State.Touches.step (State.modGrp_to _ _ _) ?_; exact State.Touches.refl _ _
  clear_value t_0
  split
  · exact ht_0
  · refine State.Touches.step (State.sendColl_to _ _ _ _ _ _ _ _ _ _ _) ?_; exact ht_0

theorem State.collCommit_to (s : State) (g : Nat) (r : Rec) (d : CallDesc) : s.Touches [.regs, .mem, .far, .seq, .tiers, .links, .fj, .cle, .kpu, .bud] (State.collCommit s g r d) := by
  unfold State.collCommit
  extract_lets +onlyGivenNames got_0
  split
  · exact State.Touches.refl _ _
  · split
    · split
      · exact State.Touches.refl _ _
      · refine State.Touches.step (State.collFinish_to _ _ _ _) ?_; exact State.Touches.refl _ _
    · split
      · refine State.Touches.step (State.collFinish_to _ _ _ _) ?_
        refine State.Touches.foldl ?_ ?_
        · exact State.Touches.refl _ _
        · intro v1 v2 v3
          refine State.Touches.step (State.sendColl_to _ _ _ _ _ _ _ _ _ _ _) ?_; with_reducible assumption
      · exact State.Touches.refl _ _

theorem State.nextPhase_to (s : State) (g : Nat) (r : Rec) (d : CallDesc) (ph : Nat) : s.Touches [.regs, .seq, .fj, .cle, .bud, .log, .sent] (State.nextPhase s g r d ph) := by
  unfold State.nextPhase
  extract_lets +onlyGivenNames t_0
  have ht_0 : State.Touches s [.regs, .seq, .fj, .cle, .bud, .log, .sent] t_0 := by
    unfold t_0
    split
    · refine State.Touches.step (State.collCombine_to _ _ _ _) ?_; exact State.Touches.refl _ _
    · exact State.Touches.refl _ _
  clear_value t_0
  split
  · exact ht_0
  · split
    · refine State.Touches.step (State.setGrp_to _ _ _ _) ?_; exact ht_0
    · extract_lets +onlyGivenNames u_1
      have hu_1 : State.Touches s [.regs, .seq, .fj, .cle, .bud, .log, .sent] u_1 := by
        unfold u_1
        split
        · refine State.Touches.step (State.collOwn_to _ _ _ _) ?_; refine State.Touches.step (State.setGrp_to _ _ _ _) ?_; exact ht_0
        · exact ht_0
      clear_value u_1
      split
      · refine State.Touches.step (State.setGrp_to _ _ _ _) ?_; exact hu_1
      · refine State.Touches.step (State.collDoneSent_to _ _ _ _) ?_; exact hu_1

theorem State.betweenSteps_to (s : State) (g : Nat) : s.Touches [.regs, .cle] (State.betweenSteps s g) := by
  unfold State.betweenSteps
  split
  · refine State.Touches.step (State.holdGrp_to _ _) ?_; exact State.Touches.refl _ _
  · exact State.Touches.refl _ _

theorem State.collStep_to (s : State) (g : Nat) (r : Rec) (d : CallDesc) : s.Touches [.regs, .seq, .fj, .cle, .bud, .log, .sent] (State.collStep s g r d).1 := by
  unfold State.collStep
  extract_lets +onlyGivenNames st_0
  extract_lets +onlyGivenNames x_1
  split
  · exact State.Touches.refl _ _
  · split
    · split
      · dsimp only
        refine State.Touches.step (State.betweenSteps_to _ _) ?_; refine State.Touches.step (State.setGrp_to _ _ _ _) ?_; exact State.Touches.refl _ _
      · exact State.Touches.refl _ _
    · split
      · exact State.Touches.refl _ _
      · extract_lets +onlyGivenNames ph_2
        extract_lets +onlyGivenNames k_3
        extract_lets +onlyGivenNames p_4
        extract_lets +onlyGivenNames t_5
        have ht_5 : State.Touches s [.regs, .seq, .fj, .cle, .bud, .log, .sent] t_5 := by
          unfold t_5
          refine State.Touches.step (State.modGrp_to _ _ _) ?_; exact State.Touches.refl _ _
        clear_value t_5
        extract_lets +onlyGivenNames t_6
        have ht_6 : State.Touches s [.regs, .seq, .fj, .cle, .bud, .log, .sent] t_6 := by
          unfold t_6
          split
          · exact State.Touches.refl _ _
          · split
            · refine State.Touches.foldl ?_ ?_
              · exact ht_5
              · intro v7 v8 v9
                refine State.Touches.step (State.sendColl_to _ _ _ _ _ _ _ _ _ _ _) ?_; with_reducible assumption
            · exact ht_5
        clear_value t_6
        extract_lets +onlyGivenNames ms_10
        extract_lets +onlyGivenNames want_11
        split
        · with_reducible assumption
        · extract_lets +onlyGivenNames c_12
          split
          · dsimp only
            refine State.Touches.step (State.cleAbort_to _ _ _ _ _) ?_; refine State.Touches.step (State.pmc_to _ _ _ _ _) ?_; exact ht_6
          · extract_lets +onlyGivenNames t0_13
            have ht0_13 : State.Touches s [.regs, .seq, .fj, .cle, .bud, .log, .sent] t0_13 := by
              unfold t0_13
              split
              · refine State.Touches.step (State.adderUsed_to _ _) ?_; exact ht_6
              · exact ht_6
            clear_value t0_13
            extract_lets +onlyGivenNames u_14
            extract_lets +onlyGivenNames u_15
            have hu_15 : State.Touches s [.regs, .seq, .fj, .cle, .bud, .log, .sent] u_15 := by
              unfold u_15
              refine State.Touches.step (State.modGrp_to _ _ _) ?_; exact ht0_13
            clear_value u_15
            dsimp only
            refine State.Touches.step (State.betweenSteps_to _ _) ?_
            split
            · refine State.Touches.step (State.setGrp_to _ _ _ _) ?_; exact hu_15
            · refine State.Touches.step (State.nextPhase_to _ _ _ _ _) ?_; exact hu_15

theorem State.collRun_to (s : State) (g : Nat) (r : Rec) (d : CallDesc) (y0 : Nat) : s.Touches [.regs, .seq, .fj, .cle, .bud, .log, .sent] (State.collRun s g r d y0) := by
  induction y0 generalizing s with
  | zero => exact .refl _ _
  | succ n ih =>
    have h1 : s.Touches [.regs, .seq, .fj, .cle, .bud, .log, .sent] (s.collStep g r d).1 := (State.collStep_to s g r d).mono (by decide)
    unfold State.collRun
    extract_lets p
    split
    · exact h1.trans (ih _)
    · exact h1

theorem State.collAdvance_to (s : State) (g : Nat) : s.Touches [.regs, .mem, .far, .seq, .tiers, .links, .fj, .cle, .kpu, .bud, .log, .sent] (State.collAdvance s g) := by
  unfold State.collAdvance
  split
  · extract_lets +onlyGivenNames t_0
    have ht_0 : State.Touches s [.regs, .mem, .far, .seq, .tiers, .links, .fj, .cle, .kpu, .bud, .log, .sent] t_0 := by
      unfold t_0
      refine State.Touches.step (State.collPump_to _ _ _) ?_; exact State.Touches.refl _ _
    clear_value t_0
    split
    · exact ht_0
    · split
      · refine State.Touches.step (State.collCommit_to _ _ _ _) ?_; refine State.Touches.step (State.collRun_to _ _ _ _ _) ?_; exact ht_0
      · split
        · refine State.Touches.step (State.cleAbort_to _ _ _ _ _) ?_; exact ht_0
        · extract_lets +onlyGivenNames u_1
          have hu_1 : State.Touches s [.regs, .mem, .far, .seq, .tiers, .links, .fj, .cle, .kpu, .bud, .log, .sent] u_1 := by
            unfold u_1
            refine State.Touches.step (State.collCommit_to _ _ _ _) ?_; exact ht_0
          clear_value u_1
          split
          · exact hu_1
          · refine State.Touches.step (State.cleAbort_to _ _ _ _ _) ?_; exact hu_1
  · refine State.Touches.step (State.collPump_to _ _ _) ?_; exact State.Touches.refl _ _

theorem State.collRetry_to (s : State) : s.Touches [.regs, .mem, .far, .seq, .tiers, .links, .fj, .cle, .kpu, .bud, .log, .sent] (State.collRetry s) := by
  unfold State.collRetry
  refine State.Touches.foldl ?_ ?_
  · exact State.Touches.refl _ _
  · intro v0 v1 v2
    split
    · refine State.Touches.step (State.collAdvance_to _ _) ?_; with_reducible assumption
    · with_reducible assumption

theorem State.collBegin_to (s : State) (g : Nat) : s.Touches [.regs, .mem, .far, .seq, .tiers, .links, .fj, .cle, .kpu, .bud, .log, .sent] (State.collBegin s g) := by
  unfold State.collBegin
  split
  · exact State.Touches.refl _ _
  · split
    · exact State.Touches.refl _ _
    · split
      · exact State.Touches.refl _ _
      · extract_lets +onlyGivenNames d_0
        extract_lets +onlyGivenNames raws_1
        extract_lets +onlyGivenNames lfs_2
        extract_lets +onlyGivenNames x_3
        extract_lets +onlyGivenNames n_4
        extract_lets +onlyGivenNames me_5
        extract_lets +onlyGivenNames tot_6
        extract_lets +onlyGivenNames res0_7
        extract_lets +onlyGivenNames res_8
        extract_lets +onlyGivenNames tb_9
        extract_lets +onlyGivenNames s0_10
        have hs0_10 : State.Touches s [.regs, .mem, .far, .seq, .tiers, .links, .fj, .cle, .kpu, .bud, .log, .sent] s0_10 := by
          unfold s0_10
          split
          · exact State.Touches.refl _ _
          · refine State.Touches.foldl ?_ ?_
            · exact State.Touches.refl _ _
            · intro v11 v12 v13
              refine State.Touches.step (State.rise_to _ _ _) ?_; with_reducible assumption
        clear_value s0_10
        extract_lets +onlyGivenNames t_14
        extract_lets +onlyGivenNames t_15
        have ht_15 : State.Touches s [.regs, .mem, .far, .seq, .tiers, .links, .fj, .cle, .kpu, .bud, .log, .sent] t_15 := by
          unfold t_15
          refine State.Touches.step (State.modGrp_to _ _ _) ?_; exact hs0_10
        clear_value t_15
        extract_lets +onlyGivenNames u_16
        have hu_16 : State.Touches s [.regs, .mem, .far, .seq, .tiers, .links, .fj, .cle, .kpu, .bud, .log, .sent] u_16 := by
          unfold u_16
          refine State.Touches.step (State.setGrp_to _ _ _ _) ?_; exact ht_15
        clear_value u_16
        extract_lets +onlyGivenNames u_17
        have hu_17 : State.Touches s [.regs, .mem, .far, .seq, .tiers, .links, .fj, .cle, .kpu, .bud, .log, .sent] u_17 := by
          unfold u_17
          split
          · refine State.Touches.step (State.setGrp_to _ _ _ _) ?_; exact ht_15
          · split
            · refine State.Touches.step (State.collCombine_to _ _ _ _) ?_; refine State.Touches.step (State.setGrp_to _ _ _ _) ?_; exact ht_15
            · split
              · refine State.Touches.step (State.modGrp_to _ _ _) ?_; refine State.Touches.step (State.collOwn_to _ _ _ _) ?_
                split
                · refine State.Touches.step (State.collCombine_to _ _ _ _) ?_; exact hu_16
                · exact hu_16
              · split
                · refine State.Touches.step (State.setGrp_to _ _ _ _) ?_; exact ht_15
                · refine State.Touches.step (State.modGrp_to _ _ _) ?_; refine State.Touches.step (State.setGrp_to _ _ _ _) ?_; exact ht_15
        clear_value u_17
        split
        · exact hu_17
        · split
          · refine State.Touches.step (State.cleAbort_to _ _ _ _ _) ?_; exact hu_17
          · refine State.Touches.step (State.collAdvance_to _ _) ?_
            split
            · refine State.Touches.step (State.collDoneSent_to _ _ _ _) ?_; exact hu_17
            · exact hu_17

theorem State.collUndo_to (s : State) (g : Nat) (m : CollIn) : WithinO s [.regs, .mem, .far, .seq, .tiers, .links, .cle, .kpu] (State.collUndo s g m) := by
  unfold State.collUndo
  split
  · split
    · extract_lets +onlyGivenNames t_0
      have ht_0 : State.Touches s [.regs, .mem, .far, .seq, .tiers, .links, .cle, .kpu] t_0 := by
        unfold t_0
        refine State.Touches.foldl ?_ ?_
        · exact State.Touches.refl _ _
        · intro v1 v2 v3
          refine State.Touches.step (State.wr_to _ _ _) ?_; with_reducible assumption
      clear_value t_0
      refine WithinO.some ?_
      refine State.Touches.step (State.collFinish_to _ _ _ _) ?_; refine State.Touches.step (State.modGrp_to _ _ _) ?_; exact ht_0
    · exact WithinO.none
  · exact WithinO.none

theorem State.collData_to (s : State) (p : Packet) : s.Touches [.regs, .mem, .far, .seq, .tiers, .links, .fj, .cle, .kpu, .bud, .log, .sent] (State.collData s p) := by
  unfold State.collData
  extract_lets +onlyGivenNames g_0
  extract_lets +onlyGivenNames m_1
  extract_lets +onlyGivenNames t_2
  have ht_2 : State.Touches s [.regs, .mem, .far, .seq, .tiers, .links, .fj, .cle, .kpu, .bud, .log, .sent] t_2 := by
    unfold t_2
    refine State.Touches.step (State.charge_to _ _ _ _ _) ?_; refine State.Touches.step (State.rxCount_to _ _) ?_; exact State.Touches.refl _ _
  clear_value t_2
  split
  · refine State.Touches.step (State.count_to _ _) ?_; exact ht_2
  · split
    · refine State.Touches.of_some (by assumption) ?_
      refine WithinO.step (State.collUndo_to _ _ _) ?_
      exact ht_2
    · split
      · refine State.Touches.step (State.count_to _ _) ?_; exact ht_2
      · refine State.Touches.step (State.collAdvance_to _ _) ?_; refine State.Touches.step (State.modGrp_to _ _ _) ?_; exact ht_2

theorem State.collAbortRx_to (s : State) (p : Packet) : s.Touches [.regs, .mem, .far, .seq, .tiers, .links, .fj, .cle, .kpu, .bud, .log, .sent] (State.collAbortRx s p) := by
  unfold State.collAbortRx
  extract_lets +onlyGivenNames g_0
  extract_lets +onlyGivenNames m_1
  extract_lets +onlyGivenNames code_2
  extract_lets +onlyGivenNames t_3
  have ht_3 : State.Touches s [.regs, .mem, .far, .seq, .tiers, .links, .fj, .cle, .kpu, .bud, .log, .sent] t_3 := by
    unfold t_3
    refine State.Touches.step (State.count_to _ _) ?_; refine State.Touches.step (State.charge_to _ _ _ _ _) ?_
    refine State.Touches.step (State.rxCount_to _ _) ?_; exact State.Touches.refl _ _
  clear_value t_3
  split
  · split
    · refine State.Touches.step (State.count_to _ _) ?_; exact ht_3
    · exact ht_3
  · extract_lets +onlyGivenNames u_4
    have hu_4 : State.Touches s [.regs, .mem, .far, .seq, .tiers, .links, .fj, .cle, .kpu, .bud, .log, .sent] u_4 := by
      unfold u_4
      refine State.Touches.step (State.collAdvance_to _ _) ?_; refine State.Touches.step (State.modGrp_to _ _ _) ?_; exact ht_3
    clear_value u_4
    split
    · refine State.Touches.step (State.modGrp_to _ _ _) ?_; exact hu_4
    · exact hu_4

theorem execCollAnchor_to (p : Nat) (pkt : Packet) (s : State) : Within s [.regs, .mem, .far, .seq, .tiers, .links, .sp, .fj, .cle, .kpu, .bud, .log, .sent] (execCollAnchor p pkt s) := by
  unfold execCollAnchor
  split
  · extract_lets +onlyGivenNames r_0
    have hr_0 : State.Touches s [.regs, .mem, .far, .seq, .tiers, .links, .sp, .fj, .cle, .kpu, .bud, .log, .sent] r_0.2.2 := by
      unfold r_0
      refine State.Touches.step (State.inspect_to _ _) ?_
      refine State.Touches.of_some (by assumption) ?_
      refine WithinO.bind ?_ ?_
      · refine WithinO.step (State.takeRx_to _ _ _) ?_
        exact State.Touches.refl _ _
      · intro v1 v2
        refine WithinO.step (State.toHub_to _ _ _) ?_
        with_reducible assumption
    clear_value r_0
    split
    · refine Within.occurs ?_ ?_
      · exact State.Touches.refl _ _
      · refine State.Touches.step (State.dropPkt_to _ _) ?_; exact hr_0
    · split
      · refine Within.occurs ?_ ?_
        · exact State.Touches.refl _ _
        · refine State.Touches.step (State.dropPkt_to _ _) ?_; exact hr_0
      · refine Within.occurs ?_ ?_
        · exact State.Touches.refl _ _
        · refine State.Touches.step (State.collData_to _ _) ?_; exact hr_0
  · refine Within.occurs ?_ ?_
    · exact State.Touches.refl _ _
    · exact State.Touches.refl _ _

theorem collRow_to {z : State} {G : List Part} {ph : Nat} {f : State → Packet → State} {p : Nat} {pkt : Packet} {s : State} (hG : List.all ([.regs, .links, .sp, .fj, .bud] : List Part) G.contains = true) (hs : z.Touches G s) (hf : ∀ y0 y1, z.Touches G y0 → z.Touches G (f y0 y1)) : Within z G (collRow ph f p pkt s) := by
  unfold collRow
  split
  · extract_lets +onlyGivenNames r_0
    have hr_0 : State.Touches z G r_0.2.2 := by
      unfold r_0
      refine State.Touches.step (State.inspect_to _ _) ?_ (Part.all_trans hG)
      refine State.Touches.of_some (by assumption) ?_
      refine WithinO.bind ?_ ?_
      · refine WithinO.step (State.takeRx_to _ _ _) ?_ (Part.all_trans hG)
        exact hs
      · intro v1 v2
        refine WithinO.step (State.toHub_to _ _ _) ?_ (Part.all_trans hG)
        with_reducible assumption
    clear_value r_0
    refine Within.occurs ?_ ?_
    · exact hs
    · apply hf; exact hr_0
  · refine Within.occurs ?_ ?_
    · exact hs
    · exact hs

theorem execCollReduce_to (p : Nat) (pkt : Packet) (s : State) : Within s [.regs, .mem, .far, .seq, .tiers, .links, .sp, .fj, .cle, .kpu, .bud, .log, .sent] (execCollReduce p pkt s) := by
  unfold execCollReduce
  apply collRow_to (by decide)
  · exact State.Touches.refl _ _
  · intro v0 v1 v2
    refine State.Touches.step (State.collData_to _ _) ?_; with_reducible assumption

theorem execCollGather_to (p : Nat) (pkt : Packet) (s : State) : Within s [.regs, .mem, .far, .seq, .tiers, .links, .sp, .fj, .cle, .kpu, .bud, .log, .sent] (execCollGather p pkt s) := by
  unfold execCollGather
  apply collRow_to (by decide)
  · exact State.Touches.refl _ _
  · intro v0 v1 v2
    refine State.Touches.step (State.collData_to _ _) ?_; with_reducible assumption

theorem execCollDone_to (p : Nat) (pkt : Packet) (s : State) : Within s [.regs, .mem, .far, .seq, .tiers, .links, .sp, .fj, .cle, .kpu, .bud, .log, .sent] (execCollDone p pkt s) := by
  unfold execCollDone
  apply collRow_to (by decide)
  · exact State.Touches.refl _ _
  · intro v0 v1 v2
    refine State.Touches.step (State.collData_to _ _) ?_; with_reducible assumption

theorem execCollCommit_to (p : Nat) (pkt : Packet) (s : State) : Within s [.regs, .mem, .far, .seq, .tiers, .links, .sp, .fj, .cle, .kpu, .bud, .log, .sent] (execCollCommit p pkt s) := by
  unfold execCollCommit
  apply collRow_to (by decide)
  · exact State.Touches.refl _ _
  · intro v0 v1 v2
    refine State.Touches.step (State.collData_to _ _) ?_; with_reducible assumption

theorem execCollAbort_to (p : Nat) (pkt : Packet) (s : State) : Within s [.regs, .mem, .far, .seq, .tiers, .links, .sp, .fj, .cle, .kpu, .bud, .log, .sent] (execCollAbort p pkt s) := by
  unfold execCollAbort
  apply collRow_to (by decide)
  · exact State.Touches.refl _ _
  · intro v0 v1 v2
    refine State.Touches.step (State.collAbortRx_to _ _) ?_; with_reducible assumption

theorem execStepDeadline_to (group : Nat) (s : State) : Within s [.regs, .seq, .waits, .fj, .cle, .bud, .log, .time, .now, .rack, .sent] (execStepDeadline group s) := by
  unfold execStepDeadline
  split
  · refine Within.occurs ?_ ?_
    · exact State.Touches.refl _ _
    · refine State.Touches.step (State.cleAbort_to _ _ _ _ _) ?_; refine State.Touches.step (State.runTo_to _ _) ?_; exact State.Touches.refl _ _
  · refine Within.occurs ?_ ?_
    · exact State.Touches.refl _ _
    · exact State.Touches.refl _ _

theorem State.cleHold_to (s : State) : s.Touches [.regs, .cle] (State.cleHold s) := by
  unfold State.cleHold
  refine State.Touches.foldl ?_ ?_
  · refine State.Touches.step (State.fs_to _ _ _ _) ?_; exact State.Touches.refl _ _
  · intro v0 v1 v2
    split
    · refine State.Touches.step (State.holdGrp_to _ _) ?_; with_reducible assumption
    · with_reducible assumption

theorem State.cleResume_to (s : State) : s.Touches [.regs, .mem, .far, .seq, .tiers, .links, .fj, .cle, .kpu, .bud, .log, .sent] (State.cleResume s) := by
  unfold State.cleResume
  refine State.Touches.foldl ?_ ?_
  · refine State.Touches.step (State.fs_to _ _ _ _) ?_; exact State.Touches.refl _ _
  · intro v0 v1 v2
    extract_lets +onlyGivenNames u_3
    have hu_3 : State.Touches s [.regs, .mem, .far, .seq, .tiers, .links, .fj, .cle, .kpu, .bud, .log, .sent] u_3 := by
      unfold u_3
      refine State.Touches.step (State.fs_to _ _ _ _) ?_; with_reducible assumption
    clear_value u_3
    split
    · refine State.Touches.step (State.collAdvance_to _ _) ?_; refine State.Touches.step (State.modGrp_to _ _ _) ?_; exact hu_3
    · exact hu_3

theorem State.abortCalls_to (s : State) (p : Rec → Bool) (code : Nat) : s.Touches [.regs, .seq, .fj, .cle, .bud, .log, .sent] (State.abortCalls s p code) := by
  unfold State.abortCalls
  refine State.Touches.foldl ?_ ?_
  · exact State.Touches.refl _ _
  · intro v0 v1 v2
    split
    · refine State.Touches.step (State.cleAbort_to _ _ _ _ _) ?_; with_reducible assumption
    · with_reducible assumption

theorem State.showGroups_to (s : State) : s.Touches [.regs, .cle] (State.showGroups s) := by
  unfold State.showGroups
  extract_lets +onlyGivenNames t_0
  have ht_0 : State.Touches s [.regs, .cle] t_0 := by
    unfold t_0
    refine State.Touches.foldl ?_ ?_
    · exact State.Touches.refl _ _
    · intro v1 v2 v3
      split
      · extract_lets +onlyGivenNames v_4
        have hv_4 : State.Touches s [.regs, .cle] v_4 := by
          unfold v_4
          split
          · with_reducible assumption
          · refine State.Touches.step (State.fs_to _ _ _ _) ?_; with_reducible assumption
        clear_value v_4
        refine State.Touches.step (State.fs_to _ _ _ _) ?_; refine State.Touches.step (State.fs_to _ _ _ _) ?_
        refine State.Touches.step (State.fs_to _ _ _ _) ?_; exact hv_4
      · split
        · refine State.Touches.step (State.wr_to _ _ _) ?_; refine State.Touches.step (State.modGrp_to _ _ _) ?_; with_reducible assumption
        · with_reducible assumption
  clear_value t_0
  refine State.Touches.step (State.fs_to _ _ _ _) ?_; exact ht_0

theorem execCleClearCounts_to (port : Nat) (s : State) : Within s [.regs] (execCleClearCounts port s) := by
  unfold execCleClearCounts
  refine Within.occurs ?_ ?_
  · exact State.Touches.refl _ _
  · refine State.Touches.step (State.zeroRegs_to _ _) ?_; exact State.Touches.refl _ _

theorem execCleInjectResidue_to (port : Nat) (s : State) : Within s [.regs] (execCleInjectResidue port s) := by
  unfold execCleInjectResidue
  refine Within.occurs ?_ ?_
  · exact State.Touches.refl _ _
  · refine State.Touches.step (State.fs_to _ _ _ _) ?_; exact State.Touches.refl _ _

theorem State.setLink_to (s : State) (k : Nat) (f : Fld) (v : Nat) : s.Touches [.regs] (State.setLink s k f v) := by
  unfold State.setLink
  refine State.Touches.foldl ?_ ?_
  · exact State.Touches.refl _ _
  · intro v0 v1 v2
    refine State.Touches.step (State.fs_to _ _ _ _) ?_; with_reducible assumption

theorem State.unparkDead_to (s : State) : s.Touches [.regs, .fj] (State.unparkDead s) := by
  unfold State.unparkDead
  extract_lets +onlyGivenNames dead_0
  extract_lets +onlyGivenNames gone_1
  refine State.Touches.foldl ?_ ?_
  · refine State.Touches.upd s ?_
    exact State.Touches.refl _ _
  · intro v2 v3 v4
    refine State.Touches.step (State.refuse_to _ _ _) ?_; refine State.Touches.step (State.count_to _ _) ?_; with_reducible assumption

theorem State.dropDie_to (s : State) (d : Nat) : s.Touches [.fj] (State.dropDie s d) := by
  unfold State.dropDie
  extract_lets +onlyGivenNames mine_0
  extract_lets +onlyGivenNames sent_1
  extract_lets +onlyGivenNames loads_2
  extract_lets +onlyGivenNames t_3
  have ht_3 : State.Touches s [.fj] t_3 := by
    unfold t_3
    refine State.Touches.step (State.dropHeads_to _ _) ?_; exact State.Touches.refl _ _
  clear_value t_3
  extract_lets +onlyGivenNames u_4
  have hu_4 : State.Touches s [.fj] u_4 := by
    unfold u_4
    refine State.Touches.step (State.clearPairs_to _ _) ?_; exact ht_3
  clear_value u_4
  extract_lets +onlyGivenNames here_5
  refine State.Touches.upd u_4 ?_
  exact hu_4

theorem State.dropCores_to (s : State) (d : Nat) : s.Touches [.regs, .seq] (State.dropCores s d) := by
  unfold State.dropCores
  refine State.Touches.foldl ?_ ?_
  · exact State.Touches.refl _ _
  · intro v0 v1 v2
    extract_lets +onlyGivenNames core_3
    extract_lets +onlyGivenNames u_4
    have hu_4 : State.Touches s [.regs, .seq] u_4 := by
      unfold u_4
      refine State.Touches.foldl ?_ ?_
      · with_reducible assumption
      · intro v5 v6 v7
        refine State.Touches.step (State.haltCtx_to _ _ _) ?_; with_reducible assumption
    clear_value u_4
    refine State.Touches.foldl ?_ ?_
    · exact hu_4
    · intro v8 v9 v10
      refine State.Touches.step (State.setQueue_to _ _ _ _) ?_; refine State.Touches.step (State.setRunning_to _ _ _ _) ?_; with_reducible assumption

theorem State.restoreDone_to (s : State) (d : Nat) : s.Touches [.regs] (State.restoreDone s d) := by
  unfold State.restoreDone
  split
  · exact State.Touches.refl _ _
  · refine State.Touches.step (State.fs_to _ _ _ _) ?_; exact State.Touches.refl _ _

theorem State.retrainOver_to (s : State) (k : Nat) : s.Touches [.regs, .links] (State.retrainOver s k) := by
  unfold State.retrainOver
  extract_lets +onlyGivenNames ds_0
  extract_lets +onlyGivenNames t_1
  have ht_1 : State.Touches s [.regs, .links] t_1 := by
    unfold t_1
    refine State.Touches.foldl ?_ ?_
    · exact State.Touches.refl _ _
    · intro v2 v3 v4
      refine State.Touches.step (State.modLink_to _ _ _) ?_; with_reducible assumption
  clear_value t_1
  refine State.Touches.foldl ?_ ?_
  · exact ht_1
  · intro v5 v6 v7
    refine State.Touches.step (State.restoreDone_to _ _) ?_; with_reducible assumption

theorem State.closeLink_to (s : State) (k : Nat) : s.Touches [.regs, .links] (State.closeLink s k) := by
  unfold State.closeLink
  refine State.Touches.step (State.retrainOver_to _ _) ?_; refine State.Touches.step (State.setLink_to _ _ _ _) ?_
  refine State.Touches.step (State.setLink_to _ _ _ _) ?_; refine State.Touches.step (State.setLink_to _ _ _ _) ?_
  refine State.Touches.step (State.setLink_to _ _ _ _) ?_; exact State.Touches.refl _ _

theorem State.fenceDie_to (s : State) (d cause : Nat) : s.Touches [.regs, .seq, .links, .sp, .fj, .cle, .img, .bud, .host, .pause, .log, .mgt, .sent] (State.fenceDie s d cause) := by
  unfold State.fenceDie
  extract_lets +onlyGivenNames t_0
  have ht_0 : State.Touches s [.regs, .seq, .links, .sp, .fj, .cle, .img, .bud, .host, .pause, .log, .mgt, .sent] t_0 := by
    unfold t_0
    refine State.Touches.step (State.fs_to _ _ _ _) ?_
    refine State.Touches.foldl ?_ ?_
    · exact State.Touches.refl _ _
    · intro v1 v2 v3
      refine State.Touches.step (State.fs_to _ _ _ _) ?_; with_reducible assumption
  clear_value t_0
  extract_lets +onlyGivenNames dr_4
  have hdr_4 : State.Touches s [.regs, .seq, .links, .sp, .fj, .cle, .img, .bud, .host, .pause, .log, .mgt, .sent] dr_4.1 := by
    unfold dr_4
    refine State.Touches.step (State.dropHeads_to _ _) ?_; exact ht_0
  clear_value dr_4
  extract_lets +onlyGivenNames t1_5
  have ht1_5 : State.Touches s [.regs, .seq, .links, .sp, .fj, .cle, .img, .bud, .host, .pause, .log, .mgt, .sent] t1_5 := by
    unfold t1_5
    refine State.Touches.step (State.countN_to _ _ _) ?_; exact hdr_4
  clear_value t1_5
  extract_lets +onlyGivenNames t2_6
  have ht2_6 : State.Touches s [.regs, .seq, .links, .sp, .fj, .cle, .img, .bud, .host, .pause, .log, .mgt, .sent] t2_6 := by
    unfold t2_6
    refine State.Touches.foldl ?_ ?_
    · exact ht1_5
    · intro v7 v8 v9
      refine State.Touches.step (State.closeLink_to _ _) ?_; with_reducible assumption
  clear_value t2_6
  extract_lets +onlyGivenNames t3_10
  have ht3_10 : State.Touches s [.regs, .seq, .links, .sp, .fj, .cle, .img, .bud, .host, .pause, .log, .mgt, .sent] t3_10 := by
    unfold t3_10
    refine State.Touches.step (State.fs_to _ _ _ _) ?_; refine State.Touches.step (State.fs_to _ _ _ _) ?_; exact ht2_6
  clear_value t3_10
  extract_lets +onlyGivenNames t4_11
  have ht4_11 : State.Touches s [.regs, .seq, .links, .sp, .fj, .cle, .img, .bud, .host, .pause, .log, .mgt, .sent] t4_11 := by
    unfold t4_11
    refine State.Touches.step (State.dropDie_to _ _) ?_; refine State.Touches.step (State.dropCores_to _ _) ?_; exact ht3_10
  clear_value t4_11
  extract_lets +onlyGivenNames t5_12
  have ht5_12 : State.Touches s [.regs, .seq, .links, .sp, .fj, .cle, .img, .bud, .host, .pause, .log, .mgt, .sent] t5_12 := by
    unfold t5_12
    refine State.Touches.step (State.faultActs_to _ _) ?_; exact ht4_11
  clear_value t5_12
  extract_lets +onlyGivenNames t6_13
  have ht6_13 : State.Touches s [.regs, .seq, .links, .sp, .fj, .cle, .img, .bud, .host, .pause, .log, .mgt, .sent] t6_13 := by
    unfold t6_13
    split
    · refine State.Touches.step (State.spDown_to _ _ _) ?_; exact ht5_12
    · exact ht5_12
  clear_value t6_13
  extract_lets +onlyGivenNames t7_14
  have ht7_14 : State.Touches s [.regs, .seq, .links, .sp, .fj, .cle, .img, .bud, .host, .pause, .log, .mgt, .sent] t7_14 := by
    unfold t7_14
    refine State.Touches.step (State.applyRecheck_to _) ?_; refine State.Touches.step (State.abortCalls_to _ _ _) ?_
    refine State.Touches.step (State.unparkDead_to _) ?_; exact ht6_13
  clear_value t7_14
  extract_lets +onlyGivenNames t8_15
  extract_lets +onlyGivenNames t8_16
  have ht8_16 : State.Touches s [.regs, .seq, .links, .sp, .fj, .cle, .img, .bud, .host, .pause, .log, .mgt, .sent] t8_16 := by
    unfold t8_16
    refine State.Touches.upd t7_14 ?_
    exact ht7_14
  clear_value t8_16
  extract_lets +onlyGivenNames t9_17
  have ht9_17 : State.Touches s [.regs, .seq, .links, .sp, .fj, .cle, .img, .bud, .host, .pause, .log, .mgt, .sent] t9_17 := by
    unfold t9_17
    split
    · refine State.Touches.step (State.dieResetEnds_to _ _ _) ?_; exact ht8_16
    · exact ht8_16
  clear_value t9_17
  split
  · exact ht9_17
  · refine State.Touches.step (State.emit_to _ _) ?_; refine State.Touches.step (State.log_to _ _ _ _ _) ?_
    refine State.Touches.step (State.fsat_to _ _ _ _) ?_; exact ht9_17

theorem State.dieCause_to (s : State) (d cause : Nat) : s.Touches [.regs, .seq, .links, .sp, .fj, .cle, .img, .bud, .host, .pause, .log, .mgt, .sent] (State.dieCause s d cause) := by
  unfold State.dieCause
  split
  · refine State.Touches.step (State.fenceDie_to _ _ _) ?_; exact State.Touches.refl _ _
  · refine State.Touches.step (State.fs_to _ _ _ _) ?_; exact State.Touches.refl _ _

theorem execDieClockLoss_to (die : Nat) (s : State) : Within s [.regs, .seq, .links, .sp, .fj, .cle, .img, .bud, .host, .pause, .log, .mgt, .sent] (execDieClockLoss die s) := by
  unfold execDieClockLoss
  refine Within.occurs ?_ ?_
  · exact State.Touches.refl _ _
  · refine State.Touches.step (State.dieCause_to _ _ _) ?_; exact State.Touches.refl _ _

theorem execNeighbourClockLoss_to (die : Nat) (west : Bool) (s : State) : Within s [.regs, .seq, .links, .sp, .fj, .cle, .img, .bud, .host, .pause, .log, .mgt, .sent] (execNeighbourClockLoss die west s) := by
  unfold execNeighbourClockLoss
  extract_lets +onlyGivenNames lost_0
  extract_lets +onlyGivenNames cause_1
  refine Within.occurs ?_ ?_
  · exact State.Touches.refl _ _
  · refine State.Touches.step (State.dieCause_to _ _ _) ?_; exact State.Touches.refl _ _

theorem State.setAclk_to (s : State) (d : Nat) (on : Bool) : s.Touches [.regs, .mgt] (State.setAclk s d on) := by
  unfold State.setAclk
  extract_lets +onlyGivenNames k_0
  extract_lets +onlyGivenNames t_1
  have ht_1 : State.Touches s [.regs, .mgt] t_1 := by
    unfold t_1
    refine State.Touches.step (State.fs_to _ _ _ _) ?_; exact State.Touches.refl _ _
  clear_value t_1
  extract_lets +onlyGivenNames runs_2
  extract_lets +onlyGivenNames put_3
  have hput_3 : ∀ a0 a1, State.Touches s [.regs, .mgt] a0 → State.Touches s [.regs, .mgt] (put_3 a0 a1) := by
    unfold put_3
    intro v4 v5 v6
    refine State.Touches.upd v4 ?_
    with_reducible assumption
  clear_value put_3
  clear_value runs_2
  split
  · exact ht_1
  · apply hput_3; exact ht_1
  · apply hput_3; refine State.Touches.step (State.fs_to _ _ _ _) ?_; exact ht_1
  · exact ht_1

theorem execAclkLoss_to (die : Nat) (s : State) : Within s [.regs, .seq, .links, .sp, .fj, .cle, .img, .bud, .host, .pause, .log, .mgt, .sent] (execAclkLoss die s) := by
  unfold execAclkLoss
  refine Within.occurs ?_ ?_
  · exact State.Touches.refl _ _
  · refine State.Touches.step (State.fenceDie_to _ _ _) ?_; refine State.Touches.step (State.setAclk_to _ _ _) ?_; exact State.Touches.refl _ _

theorem State.countResend_to (s : State) (k : Nat) : s.Touches [.regs] (State.countResend s k) := by
  unfold State.countResend
  refine State.Touches.foldl ?_ ?_
  · exact State.Touches.refl _ _
  · intro v0 v1 v2
    refine State.Touches.step (State.count_to _ _) ?_; refine State.Touches.step (State.pmc_to _ _ _ _ _) ?_; with_reducible assumption

theorem State.linkResendFrom_to (s : State) (e n : Nat) : s.Touches [.regs, .sent] (State.linkResendFrom s e n) := by
  unfold State.linkResendFrom
  refine State.Touches.foldl ?_ ?_
  · exact State.Touches.refl _ _
  · intro v0 v1 v2
    refine State.Touches.step (State.emit_to _ _) ?_; refine State.Touches.step (State.countResend_to _ _) ?_; with_reducible assumption

theorem State.linkResend_to (s : State) (e : Nat) : s.Touches [.regs, .sent] (State.linkResend s e) := by
  unfold State.linkResend
  refine State.Touches.step (State.linkResendFrom_to _ _ _) ?_; exact State.Touches.refl _ _

theorem State.linkFlit_to (s : State) (e : Nat) (f : LinkFlit) : s.Touches [.regs, .links, .sent] (State.linkFlit s e f) := by
  unfold State.linkFlit
  split
  · extract_lets +onlyGivenNames n_0
    split
    · refine State.Touches.step (State.linkResendFrom_to _ _ _) ?_; exact State.Touches.refl _ _
    · refine State.Touches.step (State.emit_to _ _) ?_; refine State.Touches.step (State.countResend_to _ _) ?_; exact State.Touches.refl _ _
  · extract_lets +onlyGivenNames t_1
    have ht_1 : State.Touches s [.regs, .links, .sent] t_1 := by
      unfold t_1
      refine State.Touches.step (State.modLink_to _ _ _) ?_; exact State.Touches.refl _ _
    clear_value t_1
    split
    · refine State.Touches.step (State.pmc_to _ _ _ _ _) ?_; refine State.Touches.step (State.emit_to _ _) ?_
      refine State.Touches.step (State.modLink_to _ _ _) ?_; exact ht_1
    · exact ht_1

theorem execLinkFlitRx_to (die link : Nat) (flit : LinkFlit) (s : State) : Within s [.regs, .mem, .far, .seq, .tiers, .links, .fj, .cle, .kpu, .bud, .log, .sent] (execLinkFlitRx die link flit s) := by
  unfold execLinkFlitRx
  refine Within.occurs ?_ ?_
  · exact State.Touches.refl _ _
  · refine State.Touches.step (State.collRetry_to _) ?_; refine State.Touches.step (State.linkFlit_to _ _ _) ?_; exact State.Touches.refl _ _

theorem State.retrainAfter_to (s : State) (k : Nat) : s.Touches [.regs, .links] (State.retrainAfter s k) := by
  unfold State.retrainAfter
  extract_lets +onlyGivenNames soon_0
  split
  · exact State.Touches.refl _ _
  · split
    · refine State.Touches.foldl ?_ ?_
      · refine State.Touches.step (State.setLink_to _ _ _ _) ?_; exact State.Touches.refl _ _
      · intro v1 v2 v3
        refine State.Touches.step (State.modLink_to _ _ _) ?_; with_reducible assumption
    · refine State.Touches.step (State.setLink_to _ _ _ _) ?_; exact State.Touches.refl _ _

theorem State.deadLink_to (s : State) (k : Nat) : s.Touches [.regs, .seq, .links, .sp, .fj, .cle, .img, .bud, .host, .pause, .log, .mgt, .sent] (State.deadLink s k) := by
  unfold State.deadLink
  split
  · refine State.Touches.step (State.dieCause_to _ _ _) ?_; exact State.Touches.refl _ _
  · exact State.Touches.refl _ _

theorem State.linkRewidth_to (s : State) (k : Nat) (light : Bool) : s.Touches [.regs, .seq, .links, .sp, .fj, .cle, .img, .bud, .host, .pause, .log, .mgt, .sent] (State.linkRewidth s k light) := by
  unfold State.linkRewidth
  extract_lets +onlyGivenNames old_0
  extract_lets +onlyGivenNames w_1
  extract_lets +onlyGivenNames d_2
  split
  · exact State.Touches.refl _ _
  · split
    · split
      · refine State.Touches.step (State.fenceDie_to _ _ _) ?_; exact State.Touches.refl _ _
      · extract_lets +onlyGivenNames span_3
        refine State.Touches.step (State.faultActs_to _ _) ?_; refine State.Touches.step (State.log_to _ _ _ _ _) ?_
        refine State.Touches.step (State.closeLink_to _ _) ?_; exact State.Touches.refl _ _
    · extract_lets +onlyGivenNames running_4
      extract_lets +onlyGivenNames t_5
      have ht_5 : State.Touches s [.regs, .seq, .links, .sp, .fj, .cle, .img, .bud, .host, .pause, .log, .mgt, .sent] t_5 := by
        unfold t_5
        refine State.Touches.step (State.setLink_to _ _ _ _) ?_; refine State.Touches.step (State.setLink_to _ _ _ _) ?_
        refine State.Touches.step (State.setLink_to _ _ _ _) ?_; exact State.Touches.refl _ _
      clear_value t_5
      extract_lets +onlyGivenNames r_6
      have hr_6 : State.Touches s [.regs, .seq, .links, .sp, .fj, .cle, .img, .bud, .host, .pause, .log, .mgt, .sent] r_6 := by
        unfold r_6
        refine State.Touches.step (State.linkResend_to _ _) ?_; refine State.Touches.step (State.emit_to _ _) ?_; exact ht_5
      clear_value r_6
      extract_lets +onlyGivenNames u_7
      have hu_7 : State.Touches s [.regs, .seq, .links, .sp, .fj, .cle, .img, .bud, .host, .pause, .log, .mgt, .sent] u_7 := by
        unfold u_7
        refine State.Touches.step (State.log_to _ _ _ _ _) ?_; refine State.Touches.step (State.linkResend_to _ _) ?_; exact hr_6
      clear_value u_7
      split
      · refine State.Touches.step (State.setLink_to _ _ _ _) ?_; exact hu_7
      · refine State.Touches.step (State.retrainAfter_to _ _) ?_; exact hu_7

theorem State.firstFailed_to (s : State) (k lane : Nat) : s.Touches [.regs] (State.firstFailed s k lane) := by
  unfold State.firstFailed
  split
  · refine State.Touches.step (State.fs_to _ _ _ _) ?_; exact State.Touches.refl _ _
  · exact State.Touches.refl _ _

theorem State.showSpares_to (s : State) (k : Nat) : s.Touches [.regs] (State.showSpares s k) := by
  unfold State.showSpares
  refine State.Touches.step (State.setLink_to _ _ _ _) ?_; exact State.Touches.refl _ _

theorem State.linkLaneFail_to (s : State) (k lane : Nat) : s.Touches [.regs, .seq, .links, .sp, .fj, .cle, .img, .bud, .host, .pause, .log, .mgt, .sent] (State.linkLaneFail s k lane) := by
  unfold State.linkLaneFail
  extract_lets +onlyGivenNames x_0
  split
  · exact State.Touches.refl _ _
  · split
    · split
      · refine State.Touches.step (State.deadLink_to _ _) ?_; refine State.Touches.step (State.modLink_to _ _ _) ?_; exact State.Touches.refl _ _
      · exact State.Touches.refl _ _
    · split
      · refine State.Touches.step (State.linkRewidth_to _ _ _) ?_; refine State.Touches.step (State.firstFailed_to _ _ _) ?_
        refine State.Touches.step (State.modLink_to _ _ _) ?_; exact State.Touches.refl _ _
      · extract_lets +onlyGivenNames t_1
        have ht_1 : State.Touches s [.regs, .seq, .links, .sp, .fj, .cle, .img, .bud, .host, .pause, .log, .mgt, .sent] t_1 := by
          unfold t_1
          refine State.Touches.step (State.modLink_to _ _ _) ?_; exact State.Touches.refl _ _
        clear_value t_1
        split
        · exact ht_1
        · extract_lets +onlyGivenNames u_2
          have hu_2 : State.Touches s [.regs, .seq, .links, .sp, .fj, .cle, .img, .bud, .host, .pause, .log, .mgt, .sent] u_2 := by
            unfold u_2
            refine State.Touches.step (State.firstFailed_to _ _ _) ?_; exact ht_1
          clear_value u_2
          split
          · refine State.Touches.step (State.setLink_to _ _ _ _) ?_; refine State.Touches.step (State.showSpares_to _ _) ?_
            refine State.Touches.step (State.modLink_to _ _ _) ?_; exact hu_2
          · refine State.Touches.step (State.linkRewidth_to _ _ _) ?_; refine State.Touches.step (State.showSpares_to _ _) ?_
            refine State.Touches.step (State.modLink_to _ _ _) ?_; exact hu_2

theorem execLinkLaneFail_to (die link lane : Nat) (s : State) : Within s [.regs, .seq, .links, .sp, .fj, .cle, .img, .bud, .host, .pause, .log, .mgt, .sent] (execLinkLaneFail die link lane s) := by
  unfold execLinkLaneFail
  refine Within.occurs ?_ ?_
  · exact State.Touches.refl _ _
  · refine State.Touches.step (State.linkLaneFail_to _ _ _) ?_; exact State.Touches.refl _ _

theorem State.laneWindow_to (s : State) (die link lane errors : Nat) : s.Touches [.regs, .seq, .waits, .links, .sp, .fj, .cle, .img, .bud, .host, .pause, .log, .mgt, .time, .now, .rack, .sent] (State.laneWindow s die link lane errors) := by
  unfold State.laneWindow
  extract_lets +onlyGivenNames th_0
  extract_lets +onlyGivenNames t_1
  have ht_1 : State.Touches s [.regs, .seq, .waits, .links, .sp, .fj, .cle, .img, .bud, .host, .pause, .log, .mgt, .time, .now, .rack, .sent] t_1 := by
    unfold t_1
    refine State.Touches.step (State.pass_to _ _) ?_; exact State.Touches.refl _ _
  clear_value t_1
  split
  · refine State.Touches.step (State.linkLaneFail_to _ _ _) ?_; exact ht_1
  · exact ht_1

theorem execLaneErrorWindow_to (die link lane errors : Nat) (s : State) : Within s [.regs, .seq, .waits, .links, .sp, .fj, .cle, .img, .bud, .host, .pause, .log, .mgt, .time, .now, .rack, .sent] (execLaneErrorWindow die link lane errors s) := by
  unfold execLaneErrorWindow
  refine Within.occurs ?_ ?_
  · exact State.Touches.refl _ _
  · refine State.Touches.step (State.laneWindow_to _ _ _ _ _) ?_; exact State.Touches.refl _ _

theorem State.startRetrains_to (s : State) : s.Touches [.regs, .links] (State.startRetrains s) := by
  unfold State.startRetrains
  refine State.Touches.foldl ?_ ?_
  · exact State.Touches.refl _ _
  · intro v0 v1 v2
    extract_lets +onlyGivenNames pend_3
    extract_lets +onlyGivenNames deg_4
    extract_lets +onlyGivenNames ord_5
    extract_lets +onlyGivenNames u_6
    have hu_6 : State.Touches s [.regs, .links] u_6 := by
      unfold u_6
      split
      · refine State.Touches.step (State.setLink_to _ _ _ _) ?_; refine State.Touches.step (State.setLink_to _ _ _ _) ?_; with_reducible assumption
      · with_reducible assumption
    clear_value u_6
    extract_lets +onlyGivenNames v_7
    have hv_7 : State.Touches s [.regs, .links] v_7 := by
      unfold v_7
      split
      · refine State.Touches.foldl ?_ ?_
        · exact hu_6
        · intro v8 v9 v10
          refine State.Touches.step (State.modLink_to _ _ _) ?_; with_reducible assumption
      · exact hu_6
    clear_value v_7
    split
    · refine State.Touches.step (State.modLink_to _ _ _) ?_
      refine State.Touches.foldl ?_ ?_
      · exact hv_7
      · intro v11 v12 v13
        refine State.Touches.step (State.modLink_to _ _ _) ?_; with_reducible assumption
    · exact hv_7

theorem State.settleRestores_to (s : State) : s.Touches [.regs] (State.settleRestores s) := by
  unfold State.settleRestores
  refine State.Touches.foldl ?_ ?_
  · exact State.Touches.refl _ _
  · intro v0 v1 v2
    refine State.Touches.step (State.restoreDone_to _ _) ?_; with_reducible assumption

theorem State.linkRetrained_to (s : State) (k : Nat) (good : List Nat) : s.Touches [.regs, .mem, .far, .seq, .tiers, .links, .fj, .cle, .kpu, .bud, .log, .sent] (State.linkRetrained s k good) := by
  unfold State.linkRetrained
  extract_lets +onlyGivenNames t_0
  have ht_0 : State.Touches s [.regs, .mem, .far, .seq, .tiers, .links, .fj, .cle, .kpu, .bud, .log, .sent] t_0 := by
    unfold t_0
    refine State.Touches.step (State.setLink_to _ _ _ _) ?_; exact State.Touches.refl _ _
  clear_value t_0
  split
  · refine State.Touches.step (State.collRetry_to _) ?_; exact ht_0
  · extract_lets +onlyGivenNames u_1
    have hu_1 : State.Touches s [.regs, .mem, .far, .seq, .tiers, .links, .fj, .cle, .kpu, .bud, .log, .sent] u_1 := by
      unfold u_1
      refine State.Touches.foldl ?_ ?_
      · exact ht_0
      · intro v2 v3 v4
        refine State.Touches.step (State.modLink_to _ _ _) ?_; with_reducible assumption
    clear_value u_1
    extract_lets +onlyGivenNames v_5
    have hv_5 : State.Touches s [.regs, .mem, .far, .seq, .tiers, .links, .fj, .cle, .kpu, .bud, .log, .sent] v_5 := by
      unfold v_5
      refine State.Touches.step (State.setLink_to _ _ _ _) ?_; exact hu_1
    clear_value v_5
    extract_lets +onlyGivenNames w_6
    extract_lets +onlyGivenNames x_7
    have hx_7 : State.Touches s [.regs, .mem, .far, .seq, .tiers, .links, .fj, .cle, .kpu, .bud, .log, .sent] x_7 := by
      unfold x_7
      refine State.Touches.step (State.setLink_to _ _ _ _) ?_; refine State.Touches.step (State.setLink_to _ _ _ _) ?_; exact hv_5
    clear_value x_7
    extract_lets +onlyGivenNames y_8
    have hy_8 : State.Touches s [.regs, .mem, .far, .seq, .tiers, .links, .fj, .cle, .kpu, .bud, .log, .sent] y_8 := by
      unfold y_8
      split
      · exact hx_7
      · refine State.Touches.step (State.log_to _ _ _ _ _) ?_; refine State.Touches.step (State.setLink_to _ _ _ _) ?_; exact hx_7
    clear_value y_8
    refine State.Touches.step (State.collRetry_to _) ?_; refine State.Touches.step (State.retrainOver_to _ _) ?_; exact hy_8

theorem execLinkRetrainDone_to (die link : Nat) (good : List Nat) (s : State) : Within s [.regs, .mem, .far, .seq, .tiers, .links, .fj, .cle, .kpu, .bud, .log, .sent] (execLinkRetrainDone die link good s) := by
  unfold execLinkRetrainDone
  refine Within.occurs ?_ ?_
  · exact State.Touches.refl _ _
  · refine State.Touches.step (State.linkRetrained_to _ _ _) ?_; exact State.Touches.refl _ _

theorem State.trainLink_to (s : State) (k : Nat) : s.Touches [.regs, .links, .log, .sent] (State.trainLink s k) := by
  unfold State.trainLink
  split
  · exact State.Touches.refl _ _
  · extract_lets +onlyGivenNames t_0
    have ht_0 : State.Touches s [.regs, .links, .log, .sent] t_0 := by
      unfold t_0
      refine State.Touches.foldl ?_ ?_
      · exact State.Touches.refl _ _
      · intro v1 v2 v3
        refine State.Touches.upd v1 ?_
        with_reducible assumption
    clear_value t_0
    extract_lets +onlyGivenNames w_4
    extract_lets +onlyGivenNames u_5
    have hu_5 : State.Touches s [.regs, .links, .log, .sent] u_5 := by
      unfold u_5
      refine State.Touches.step (State.setLink_to _ _ _ _) ?_; refine State.Touches.step (State.setLink_to _ _ _ _) ?_
      refine State.Touches.step (State.setLink_to _ _ _ _) ?_; refine State.Touches.step (State.setLink_to _ _ _ _) ?_; exact ht_0
    clear_value u_5
    extract_lets +onlyGivenNames v_6
    have hv_6 : State.Touches s [.regs, .links, .log, .sent] v_6 := by
      unfold v_6
      split
      · refine State.Touches.step (State.log_to _ _ _ _ _) ?_; refine State.Touches.step (State.setLink_to _ _ _ _) ?_; exact hu_5
      · exact hu_5
    clear_value v_6
    exact hv_6

theorem State.setLight_to (s : State) (fibre mask : Nat) : s.Touches [.regs] (State.setLight s fibre mask) := by
  unfold State.setLight
  refine State.Touches.foldl ?_ ?_
  · exact State.Touches.refl _ _
  · intro v0 v1 v2
    refine State.Touches.step (State.fs_to _ _ _ _) ?_; refine State.Touches.step (State.fs_to _ _ _ _) ?_; with_reducible assumption

theorem State.setHubLight_to (s : State) (fibre : Nat) (dark : Bool) : s.Touches [.regs] (State.setHubLight s fibre dark) := by
  unfold State.setHubLight
  refine State.Touches.step (State.fs_to _ _ _ _) ?_; refine State.Touches.step (State.fs_to _ _ _ _) ?_; exact State.Touches.refl _ _

theorem State.hubRewidth_to (s : State) (d lane : Nat) : s.Touches [.regs, .seq, .links, .sp, .fj, .cle, .img, .bud, .host, .pause, .log, .mgt, .sent] (State.hubRewidth s d lane) := by
  unfold State.hubRewidth
  split
  · refine State.Touches.step (State.linkRewidth_to _ _ _) ?_; refine State.Touches.step (State.firstFailed_to _ _ _) ?_; exact State.Touches.refl _ _
  · refine State.Touches.step (State.deadLink_to _ _) ?_; exact State.Touches.refl _ _

theorem State.lightLost_to (s : State) (fibre lines : Nat) : s.Touches [.regs, .seq, .links, .sp, .fj, .cle, .img, .bud, .host, .pause, .log, .mgt, .sent] (State.lightLost s fibre lines) := by
  unfold State.lightLost
  extract_lets +onlyGivenNames old_0
  extract_lets +onlyGivenNames m_1
  extract_lets +onlyGivenNames t_2
  have ht_2 : State.Touches s [.regs, .seq, .links, .sp, .fj, .cle, .img, .bud, .host, .pause, .log, .mgt, .sent] t_2 := by
    unfold t_2
    refine State.Touches.step (State.setLight_to _ _ _) ?_; exact State.Touches.refl _ _
  clear_value t_2
  extract_lets +onlyGivenNames up_3
  split
  · refine State.Touches.foldl ?_ ?_
    · exact ht_2
    · intro v4 v5 v6
      split
      · refine State.Touches.step (State.lanesFail_to _ _ _ _) ?_; refine State.Touches.step (State.unlock_to _ _ _) ?_; with_reducible assumption
      · with_reducible assumption
  · extract_lets +onlyGivenNames u_7
    have hu_7 : State.Touches s [.regs, .seq, .links, .sp, .fj, .cle, .img, .bud, .host, .pause, .log, .mgt, .sent] u_7 := by
      unfold u_7
      refine State.Touches.foldl ?_ ?_
      · exact ht_2
      · intro v8 v9 v10
        split
        · refine State.Touches.step (State.spDown_to _ _ _) ?_; refine State.Touches.step (State.fs_to _ _ _ _) ?_; with_reducible assumption
        · with_reducible assumption
    clear_value u_7
    refine State.Touches.step (State.hubRewidth_to _ _ _) ?_; refine State.Touches.step (State.hubRewidth_to _ _ _) ?_
    refine State.Touches.step (State.setHubLight_to _ _ _) ?_; exact hu_7

theorem execLightLineLost_to (fibre lines : Nat) (s : State) : Within s [.regs, .seq, .links, .sp, .fj, .cle, .img, .bud, .host, .pause, .log, .mgt, .sent] (execLightLineLost fibre lines s) := by
  unfold execLightLineLost
  refine Within.occurs ?_ ?_
  · exact State.Touches.refl _ _
  · refine State.Touches.step (State.lightLost_to _ _ _) ?_; exact State.Touches.refl _ _

theorem State.lightPresent_to (s : State) (fibre line : Nat) : s.Touches [.regs] (State.lightPresent s fibre line) := by
  unfold State.lightPresent
  extract_lets +onlyGivenNames m_0
  extract_lets +onlyGivenNames t_1
  have ht_1 : State.Touches s [.regs] t_1 := by
    unfold t_1
    refine State.Touches.step (State.setHubLight_to _ _ _) ?_; refine State.Touches.step (State.setLight_to _ _ _) ?_; exact State.Touches.refl _ _
  clear_value t_1
  split
  · refine State.Touches.foldl ?_ ?_
    · exact ht_1
    · intro v2 v3 v4
      split
      · refine State.Touches.step (State.spStep1_to _ _) ?_; with_reducible assumption
      · with_reducible assumption
  · exact ht_1

theorem execLightLinePresent_to (fibre line : Nat) (s : State) : Within s [.regs] (execLightLinePresent fibre line s) := by
  unfold execLightLinePresent
  refine Within.occurs ?_ ?_
  · exact State.Touches.refl _ _
  · refine State.Touches.step (State.lightPresent_to _ _ _) ?_; exact State.Touches.refl _ _

theorem execDlRestore_to (port die : Nat) (s : State) : Within s [.regs] (execDlRestore port die s) := by
  unfold execDlRestore
  refine Within.occurs ?_ ?_
  · exact State.Touches.refl _ _
  · refine State.Touches.step (State.fs_to _ _ _ _) ?_; exact State.Touches.refl _ _

theorem execDlClearCounts_to (port die : Nat) (s : State) : Within s [.regs] (execDlClearCounts port die s) := by
  unfold execDlClearCounts
  refine Within.occurs ?_ ?_
  · exact State.Touches.refl _ _
  · refine State.Touches.step (State.zeroRegs_to _ _) ?_; exact State.Touches.refl _ _

theorem execDlTestFail_to (port die link lane : Nat) (s : State) : Within s [.regs, .seq, .links, .sp, .fj, .cle, .img, .bud, .host, .pause, .log, .mgt, .sent] (execDlTestFail port die link lane s) := by
  unfold execDlTestFail
  extract_lets +onlyGivenNames t_0
  have ht_0 : State.Touches s [.regs, .seq, .links, .sp, .fj, .cle, .img, .bud, .host, .pause, .log, .mgt, .sent] t_0 := by
    unfold t_0
    refine State.Touches.step (State.fs_to _ _ _ _) ?_; refine State.Touches.step (State.fs_to _ _ _ _) ?_; exact State.Touches.refl _ _
  clear_value t_0
  refine Within.occurs ?_ ?_
  · exact State.Touches.refl _ _
  · split
    · refine State.Touches.step (State.linkLaneFail_to _ _ _) ?_; exact ht_0
    · exact ht_0

theorem execClkClearLow_to (port die : Nat) (s : State) : Within s [.regs] (execClkClearLow port die s) := by
  unfold execClkClearLow
  refine Within.occurs ?_ ?_
  · exact State.Touches.refl _ _
  · refine State.Touches.step (State.fs_to _ _ _ _) ?_; exact State.Touches.refl _ _

theorem State.payFar_to (y0 : Nat) (y1 : State) (y2 : Nat) (y3 : Nat) (y4 : Nat) : y1.Touches [.regs, .bud] (State.payFar y0 y1 y2 y3 y4).2 := by
  induction y0 generalizing y1 y4 with
  | zero => exact .refl _ _
  | succ n ih =>
    unfold State.payFar
    split
    · exact .refl _ _
    · exact State.Touches.trans ((State.charge_to _ _ _ _ _).mono (by decide)) (ih _ _)

theorem State.payDebts_to (s : State) : s.Touches [.regs, .bud] (State.payDebts s) := by
  unfold State.payDebts
  refine State.Touches.foldl ?_ ?_
  · refine State.Touches.upd s ?_
    exact State.Touches.refl _ _
  · intro v0 v1 v2
    extract_lets +onlyGivenNames r_3
    have hr_3 : State.Touches s [.regs, .bud] r_3.2 := by
      unfold r_3
      refine State.Touches.step (State.payFar_to _ _ _ _ _) ?_; with_reducible assumption
    clear_value r_3
    split
    · exact hr_3
    · extract_lets +onlyGivenNames w4
      have hw4 : State.Touches s [.regs, .bud] w4 := by
        unfold w4
        exact hr_3
      refine State.Touches.upd w4 ?_
      exact hw4

theorem State.keepCharge_to (s : State) (gated : Bool) (a d n : Nat) : s.Touches [.regs, .bud] (State.keepCharge s gated a d n) := by
  unfold State.keepCharge
  split
  · refine State.Touches.step (State.payDebts_to _) ?_
    refine State.Touches.upd s ?_
    exact State.Touches.refl _ _
  · refine State.Touches.step (State.take_to _ _ _ _ _) ?_; exact State.Touches.refl _ _

theorem State.keepRead_to (s : State) (gated : Bool) (act area off n : Nat) : s.Touches [.regs, .tiers, .links, .bud, .log, .sent] (State.keepRead s gated act area off n).2.1 := by
  unfold State.keepRead
  split
  · extract_lets +onlyGivenNames o_0
    extract_lets +onlyGivenNames r_1
    have hr_1 : State.Touches s [.regs, .tiers, .links, .bud, .log, .sent] r_1.2.1 := by
      unfold r_1
      refine State.Touches.step (State.farRead_to _ _ _ _) ?_; exact State.Touches.refl _ _
    clear_value r_1
    dsimp only
    refine State.Touches.step (State.unitMoves_to _ _ _) ?_; refine State.Touches.step (State.keepCharge_to _ _ _ _ _) ?_; exact hr_1
  · exact State.Touches.refl _ _

theorem State.keepWrite_to (s : State) (gated : Bool) (act area off : Nat) (b : Bytes) (poison : Bool) : s.Touches [.regs, .far, .tiers, .links, .kpu, .eru, .bud, .log, .sent] (State.keepWrite s gated act area off b poison) := by
  unfold State.keepWrite
  split
  · extract_lets +onlyGivenNames o_0
    extract_lets +onlyGivenNames t_1
    have ht_1 : State.Touches s [.regs, .far, .tiers, .links, .kpu, .eru, .bud, .log, .sent] t_1 := by
      unfold t_1
      refine State.Touches.step (State.unitMoves_to _ _ _) ?_; refine State.Touches.step (State.keepCharge_to _ _ _ _ _) ?_
      refine State.Touches.step (State.farWrite_to _ _ _ _) ?_; exact State.Touches.refl _ _
    clear_value t_1
    split
    · refine State.Touches.step (State.farPoison_to _ _ _ _) ?_; exact ht_1
    · exact ht_1
  · exact State.Touches.refl _ _

theorem State.unitRead_to (s : State) (gated : Bool) (act space unit off n : Nat) : s.Touches [.regs, .tiers, .bud, .log, .sent] (State.unitRead s gated act space unit off n).2.1 := by
  unfold State.unitRead
  split
  · extract_lets +onlyGivenNames r_0
    have hr_0 : State.Touches s [.regs, .tiers, .bud, .log, .sent] r_0.2.1 := by
      unfold r_0
      refine State.Touches.step (State.farRead_to _ _ _ _) ?_; exact State.Touches.refl _ _
    clear_value r_0
    dsimp only
    refine State.Touches.step (State.keepCharge_to _ _ _ _ _) ?_; exact hr_0
  · split
    · refine State.Touches.step (State.bondRead_to _ _ _ _) ?_; exact State.Touches.refl _ _
    · refine State.Touches.step (State.sramRead_to _ _ _ _) ?_; exact State.Touches.refl _ _

theorem State.unitWrite_to (s : State) (space unit off : Nat) (b : Bytes) (poison : Bool) : s.Touches [.regs, .mem, .far, .tiers, .kpu, .eru, .bud, .log, .sent] (State.unitWrite s space unit off b poison) := by
  unfold State.unitWrite
  split
  · extract_lets +onlyGivenNames t_0
    have ht_0 : State.Touches s [.regs, .mem, .far, .tiers, .kpu, .eru, .bud, .log, .sent] t_0 := by
      unfold t_0
      refine State.Touches.step (State.farWrite_to _ _ _ _) ?_; exact State.Touches.refl _ _
    clear_value t_0
    split
    · refine State.Touches.step (State.farPoison_to _ _ _ _) ?_; exact ht_0
    · exact ht_0
  · split
    · extract_lets +onlyGivenNames t_1
      have ht_1 : State.Touches s [.regs, .mem, .far, .tiers, .kpu, .eru, .bud, .log, .sent] t_1 := by
        unfold t_1
        refine State.Touches.step (State.bondWrite_to _ _ _ _) ?_; exact State.Touches.refl _ _
      clear_value t_1
      split
      · refine State.Touches.step (State.bondPoison_to _ _ _ _) ?_; exact ht_1
      · exact ht_1
    · extract_lets +onlyGivenNames t_2
      have ht_2 : State.Touches s [.regs, .mem, .far, .tiers, .kpu, .eru, .bud, .log, .sent] t_2 := by
        unfold t_2
        refine State.Touches.step (State.sramWrite_to _ _ _ _) ?_; exact State.Touches.refl _ _
      clear_value t_2
      split
      · refine State.Touches.step (State.sramPoison_to _ _ _ _) ?_; exact ht_2
      · exact ht_2

theorem State.keepGo_to (s : State) (o : KeepOut) : s.Touches [.regs, .tiers, .links, .fj, .bud, .log, .sent] (State.keepGo s o) := by
  unfold State.keepGo
  split
  · extract_lets +onlyGivenNames r_0
    have hr_0 : State.Touches s [.regs, .tiers, .links, .fj, .bud, .log, .sent] r_0.2.1 := by
      unfold r_0
      refine State.Touches.step (State.unitRead_to _ _ _ _ _ _ _) ?_; exact State.Touches.refl _ _
    clear_value r_0
    refine State.Touches.step (State.sendAcked_to _ _ _ _) ?_; refine State.Touches.step (State.count_to _ _) ?_
    refine State.Touches.step (State.unitMoves_to _ _ _) ?_; exact hr_0
  · refine State.Touches.step (State.sendAcked_to _ _ _ _) ?_; exact State.Touches.refl _ _

theorem State.keepPump_to (s : State) : s.Touches [.regs, .tiers, .links, .fj, .kpu, .bud, .log, .sent] (State.keepPump s) := by
  unfold State.keepPump
  extract_lets +onlyGivenNames all_0
  extract_lets +onlyGivenNames r_1
  have hr_1 : State.Touches s [.regs, .tiers, .links, .fj, .kpu, .bud, .log, .sent] r_1.1 := by
    unfold r_1
    refine State.Touches.foldl_fst ?_ ?_
    · exact State.Touches.refl _ _
    · intro v2 v3 v4 v5
      split
      · with_reducible assumption
      · dsimp only
        refine State.Touches.step (State.keepGo_to _ _) ?_; with_reducible assumption
  clear_value r_1
  extract_lets +onlyGivenNames w6
  have hw6 : State.Touches s [.regs, .tiers, .links, .fj, .kpu, .bud, .log, .sent] w6 := by
    unfold w6
    exact hr_1
  refine State.Touches.upd w6 ?_
  exact hw6

theorem State.keepQueue_to (s : State) (os : List KeepOut) : s.Touches [.regs, .tiers, .links, .fj, .kpu, .bud, .log, .sent] (State.keepQueue s os) := by
  unfold State.keepQueue
  refine State.Touches.step (State.keepPump_to _) ?_
  refine State.Touches.upd s ?_
  exact State.Touches.refl _ _

theorem State.sendKeepAs_to (s : State) (dest kind off chan act : Nat) (flagged poison : Bool) (data : Bytes) : s.Touches [.regs, .tiers, .links, .fj, .kpu, .bud, .log, .sent] (State.sendKeepAs s dest kind off chan act flagged poison data) := by
  unfold State.sendKeepAs
  refine State.Touches.step (State.keepQueue_to _ _) ?_; exact State.Touches.refl _ _

theorem State.sendKeep_to (s : State) (dest kind off chan act : Nat) (flagged : Bool) (data : Bytes) : s.Touches [.regs, .tiers, .links, .fj, .kpu, .bud, .log, .sent] (State.sendKeep s dest kind off chan act flagged data) := by
  unfold State.sendKeep
  refine State.Touches.step (State.sendKeepAs_to _ _ _ _ _ _ _ _ _) ?_; exact State.Touches.refl _ _

theorem State.sendPieces_to (s : State) (dest kind off chan act : Nat) (poison : Bool) (b : Bytes) : s.Touches [.regs, .tiers, .links, .fj, .kpu, .bud, .log, .sent] (State.sendPieces s dest kind off chan act poison b) := by
  unfold State.sendPieces
  refine State.Touches.step (State.keepQueue_to _ _) ?_; exact State.Touches.refl _ _

theorem State.setPair_to (s : State) (n : Nat) : s.Touches [.regs] (State.setPair s n) := by
  unfold State.setPair
  refine State.Touches.step (State.fs_to _ _ _ _) ?_; exact State.Touches.refl _ _

theorem State.showJnl_to (s : State) : s.Touches [.regs, .kpu, .host, .sent] (State.showJnl s) := by
  unfold State.showJnl
  extract_lets +onlyGivenNames u_0
  extract_lets +onlyGivenNames f_1
  extract_lets +onlyGivenNames t_2
  have ht_2 : State.Touches s [.regs, .kpu, .host, .sent] t_2 := by
    unfold t_2
    refine State.Touches.step (State.fs_to _ _ _ _) ?_; refine State.Touches.step (State.fs_to _ _ _ _) ?_; exact State.Touches.refl _ _
  clear_value t_2
  extract_lets +onlyGivenNames v_3
  extract_lets +onlyGivenNames v_4
  have hv_4 : State.Touches s [.regs, .kpu, .host, .sent] v_4 := by
    unfold v_4
    refine State.Touches.upd t_2 ?_
    exact ht_2
  clear_value v_4
  split
  · refine State.Touches.step (State.raise_to _ _ _) ?_; exact hv_4
  · split
    · apply State.streamNotify_to (by decide)
      · exact State.Touches.refl _ _
      · exact hv_4
    · exact hv_4

theorem State.journal_to (s : State) (kind port act : Nat) (body : Bytes) : s.Touches [.regs, .tiers, .links, .fj, .kpu, .bud, .host, .log, .sent] (State.journal s kind port act body) := by
  unfold State.journal
  split
  · exact State.Touches.refl _ _
  · extract_lets +onlyGivenNames e_0
    extract_lets +onlyGivenNames b_1
    extract_lets +onlyGivenNames t_2
    extract_lets +onlyGivenNames t_3
    have ht_3 : State.Touches s [.regs, .tiers, .links, .fj, .kpu, .bud, .host, .log, .sent] t_3 := by
      unfold t_3
      refine State.Touches.upd s ?_
      exact State.Touches.refl _ _
    clear_value t_3
    extract_lets +onlyGivenNames t_4
    have ht_4 : State.Touches s [.regs, .tiers, .links, .fj, .kpu, .bud, .host, .log, .sent] t_4 := by
      unfold t_4
      refine State.Touches.step (State.pmc_to _ _ _ _ _) ?_; exact ht_3
    clear_value t_4
    extract_lets +onlyGivenNames u_5
    have hu_5 : State.Touches s [.regs, .tiers, .links, .fj, .kpu, .bud, .host, .log, .sent] u_5 := by
      unfold u_5
      split
      · refine State.Touches.step (State.sendPieces_to _ _ _ _ _ _ _ _) ?_; exact ht_4
      · exact ht_4
    clear_value u_5
    refine State.Touches.step (State.showJnl_to _) ?_; exact hu_5

theorem State.journalTrim_to (s : State) : s.Touches [.regs, .kpu, .host, .sent] (State.journalTrim s) := by
  unfold State.journalTrim
  split
  · refine State.Touches.step (State.showJnl_to _) ?_
    refine State.Touches.upd s ?_
    exact State.Touches.refl _ _
  · exact State.Touches.refl _ _

theorem State.sealed_to (s : State) (n : Nat) (here : Bool) : s.Touches [.regs, .kpu, .host, .sent] (State.sealed s n here) := by
  unfold State.sealed
  extract_lets +onlyGivenNames t_0
  have ht_0 : State.Touches s [.regs, .kpu, .host, .sent] t_0 := by
    unfold t_0
    refine State.Touches.step (State.fs_to _ _ _ _) ?_; refine State.Touches.step (State.fs_to _ _ _ _) ?_
    refine State.Touches.step (State.fs_to _ _ _ _) ?_; exact State.Touches.refl _ _
  clear_value t_0
  refine State.Touches.step (State.journalTrim_to _) ?_
  refine State.Touches.upd t_0 ?_
  exact ht_0

theorem State.streamSnapshot_to (s : State) (n : Nat) (all : Bool) : s.Touches [.regs, .tiers, .links, .fj, .kpu, .bud, .log, .sent] (State.streamSnapshot s n all) := by
  unfold State.streamSnapshot
  extract_lets +onlyGivenNames dest_0
  extract_lets +onlyGivenNames since_1
  extract_lets +onlyGivenNames pages_2
  extract_lets +onlyGivenNames b_3
  refine State.Touches.step (State.keepQueue_to _ _) ?_
  refine State.Touches.upd s ?_
  exact State.Touches.refl _ _

theorem State.clearKeepPairs_to (s : State) (dev : Nat) : s.Touches [.fj] (State.clearKeepPairs s dev) := by
  unfold State.clearKeepPairs
  refine State.Touches.step (State.clearPairs_to _ _) ?_; exact State.Touches.refl _ _

theorem State.partnerLost_to (s : State) : s.Touches [.regs, .fj, .kpu, .host, .sent] (State.partnerLost s) := by
  unfold State.partnerLost
  extract_lets +onlyGivenNames s0_0
  extract_lets +onlyGivenNames s0_1
  have hs0_1 : State.Touches s [.regs, .fj, .kpu, .host, .sent] s0_1 := by
    unfold s0_1
    refine State.Touches.upd s ?_
    exact State.Touches.refl _ _
  clear_value s0_1
  split
  · exact hs0_1
  · extract_lets +onlyGivenNames t_2
    have ht_2 : State.Touches s [.regs, .fj, .kpu, .host, .sent] t_2 := by
      unfold t_2
      refine State.Touches.step (State.clearKeepPairs_to _ _) ?_; refine State.Touches.step (State.setPair_to _ _) ?_; exact hs0_1
    clear_value t_2
    extract_lets +onlyGivenNames u_3
    extract_lets +onlyGivenNames u_4
    have hu_4 : State.Touches s [.regs, .fj, .kpu, .host, .sent] u_4 := by
      unfold u_4
      refine State.Touches.upd t_2 ?_
      exact ht_2
    clear_value u_4
    split
    · refine State.Touches.step (State.sealed_to _ _ _) ?_; exact hu_4
    · exact hu_4

theorem State.partnerSilent_to (s : State) : s.Touches [.kpu] (State.partnerSilent s) := by
  unfold State.partnerSilent
  split
  · exact State.Touches.refl _ _
  · refine State.Touches.upd s ?_
    exact State.Touches.refl _ _

theorem State.partnerWait_to (s : State) : s.Touches [.regs, .fj, .kpu, .host, .sent] (State.partnerWait s) := by
  unfold State.partnerWait
  split
  · split
    · refine State.Touches.step (State.partnerLost_to _) ?_; exact State.Touches.refl _ _
    · exact State.Touches.refl _ _
  · exact State.Touches.refl _ _

theorem State.ripenFails_to (s : State) (code : Nat) : s.Touches [.regs, .log, .sent] (State.ripenFails s code) := by
  unfold State.ripenFails
  split
  · split
    · refine State.Touches.step (State.emit_to _ _) ?_; refine State.Touches.step (State.log_to _ _ _ _ _) ?_; exact State.Touches.refl _ _
    · exact State.Touches.refl _ _
  · exact State.Touches.refl _ _

theorem State.recoverFails_to (s : State) (code : Nat) : s.Touches [.regs, .kpu, .log, .sent] (State.recoverFails s code) := by
  unfold State.recoverFails
  split
  · extract_lets +onlyGivenNames d_0
    refine State.Touches.step (State.emit_to _ _) ?_; refine State.Touches.step (State.log_to _ _ _ _ _) ?_
    refine State.Touches.upd s ?_
    exact State.Touches.refl _ _
  · exact State.Touches.refl _ _

theorem State.askUnits_to (s : State) (pos : Nat) (l : List Nat) : s.Touches [.regs, .tiers, .links, .fj, .kpu, .bud, .log, .sent] (State.askUnits s pos l) := by
  unfold State.askUnits
  refine State.Touches.step (State.keepQueue_to _ _) ?_; exact State.Touches.refl _ _

theorem State.askAgain_to (s : State) : s.Touches [.regs, .tiers, .links, .fj, .kpu, .bud, .log, .sent] (State.askAgain s) := by
  unfold State.askAgain
  split
  · split
    · refine State.Touches.step (State.askUnits_to _ _ _) ?_; exact State.Touches.refl _ _
    · exact State.Touches.refl _ _
  · exact State.Touches.refl _ _

theorem State.memberLost_to (s : State) (dev : Nat) : s.Touches [.regs, .tiers, .links, .fj, .kpu, .eru, .bud, .log, .sent] (State.memberLost s dev) := by
  unfold State.memberLost
  extract_lets +onlyGivenNames c_0
  split
  · exact State.Touches.refl _ _
  · split
    · exact State.Touches.refl _ _
    · extract_lets +onlyGivenNames t_1
      extract_lets +onlyGivenNames t_2
      have ht_2 : State.Touches s [.regs, .tiers, .links, .fj, .kpu, .eru, .bud, .log, .sent] t_2 := by
        unfold t_2
        refine State.Touches.step (State.fs_to _ _ _ _) ?_
        refine State.Touches.upd s ?_
        exact State.Touches.refl _ _
      clear_value t_2
      split
      · extract_lets +onlyGivenNames d_3
        refine State.Touches.step (State.emit_to _ _) ?_; refine State.Touches.step (State.log_to _ _ _ _ _) ?_; exact ht_2
      · refine State.Touches.step (State.askAgain_to _) ?_; refine State.Touches.step (State.clearKeepPairs_to _ _) ?_; exact ht_2

theorem State.keepPeerLost_to (s : State) (dev : Nat) : s.Touches [.regs, .tiers, .links, .fj, .kpu, .eru, .bud, .log, .sent] (State.keepPeerLost s dev) := by
  unfold State.keepPeerLost
  extract_lets +onlyGivenNames t_0
  have ht_0 : State.Touches s [.regs, .tiers, .links, .fj, .kpu, .eru, .bud, .log, .sent] t_0 := by
    unfold t_0
    split
    · refine State.Touches.step (State.recoverFails_to _ _) ?_; refine State.Touches.step (State.ripenFails_to _ _) ?_
      refine State.Touches.step (State.partnerSilent_to _) ?_; exact State.Touches.refl _ _
    · exact State.Touches.refl _ _
  clear_value t_0
  extract_lets +onlyGivenNames u_1
  have hu_1 : State.Touches s [.regs, .tiers, .links, .fj, .kpu, .eru, .bud, .log, .sent] u_1 := by
    unfold u_1
    split
    · split
      · refine State.Touches.step (State.fs_to _ _ _ _) ?_; refine State.Touches.step (State.raise_to _ _ _) ?_; exact ht_0
      · exact ht_0
    · exact ht_0
  clear_value u_1
  refine State.Touches.step (State.memberLost_to _ _) ?_; exact hu_1

theorem State.keepNacked_to (s : State) (e : Sent) (code : Nat) (itself : Bool) : s.Touches [.regs, .tiers, .links, .fj, .kpu, .eru, .bud, .host, .log, .sent] (State.keepNacked s e code itself) := by
  unfold State.keepNacked
  extract_lets +onlyGivenNames t_0
  have ht_0 : State.Touches s [.regs, .tiers, .links, .fj, .kpu, .eru, .bud, .host, .log, .sent] t_0 := by
    unfold t_0
    split
    · refine State.Touches.step (State.recoverFails_to _ _) ?_; refine State.Touches.step (State.ripenFails_to _ _) ?_; exact State.Touches.refl _ _
    · exact State.Touches.refl _ _
  clear_value t_0
  split
  · refine State.Touches.step (State.keepPeerLost_to _ _) ?_; exact ht_0
  · split
    · refine State.Touches.step (State.partnerLost_to _) ?_; exact ht_0
    · exact ht_0

theorem State.sendPair_to (s : State) : s.Touches [.regs, .tiers, .links, .fj, .kpu, .bud, .log, .sent] (State.sendPair s) := by
  unfold State.sendPair
  extract_lets +onlyGivenNames c_0
  split
  · exact State.Touches.refl _ _
  · extract_lets +onlyGivenNames d_1
    refine State.Touches.step (State.sendKeep_to _ _ _ _ _ _ _ _) ?_
    extract_lets +onlyGivenNames w2
    have hw2 : State.Touches s [.regs, .tiers, .links, .fj, .kpu, .bud, .log, .sent] w2 := by
      unfold w2
      refine State.Touches.step (State.setPair_to _ _) ?_; exact State.Touches.refl _ _
    refine State.Touches.upd w2 ?_
    exact hw2

theorem State.sendResync_to (s : State) : s.Touches [.regs, .tiers, .links, .fj, .kpu, .bud, .log, .sent] (State.sendResync s) := by
  unfold State.sendResync
  split
  · exact State.Touches.refl _ _
  · refine State.Touches.step (State.sendKeep_to _ _ _ _ _ _ _ _) ?_; refine State.Touches.step (State.fs_to _ _ _ _) ?_
    refine State.Touches.upd s ?_
    exact State.Touches.refl _ _

theorem State.parityResync_to (s : State) : s.Touches [.regs, .tiers, .links, .fj, .kpu, .eru, .bud, .log, .sent] (State.parityResync s) := by
  unfold State.parityResync
  extract_lets +onlyGivenNames c_0
  extract_lets +onlyGivenNames g_1
  extract_lets +onlyGivenNames pos_2
  extract_lets +onlyGivenNames l_3
  extract_lets +onlyGivenNames t_4
  extract_lets +onlyGivenNames t_5
  have ht_5 : State.Touches s [.regs, .tiers, .links, .fj, .kpu, .eru, .bud, .log, .sent] t_5 := by
    unfold t_5
    refine State.Touches.step (State.fs_to _ _ _ _) ?_
    refine State.Touches.upd s ?_
    exact State.Touches.refl _ _
  clear_value t_5
  refine State.Touches.step (State.askUnits_to _ _ _) ?_; exact ht_5

theorem State.eruFlush_to (s : State) (writer : Nat) : s.Touches [.regs, .tiers, .links, .fj, .kpu, .eru, .bud, .log, .sent] (State.eruFlush s writer) := by
  unfold State.eruFlush
  extract_lets +onlyGivenNames c_0
  extract_lets +onlyGivenNames g_1
  extract_lets +onlyGivenNames t_2
  extract_lets +onlyGivenNames t_3
  have ht_3 : State.Touches s [.regs, .tiers, .links, .fj, .kpu, .eru, .bud, .log, .sent] t_3 := by
    unfold t_3
    refine State.Touches.upd s ?_
    exact State.Touches.refl _ _
  clear_value t_3
  refine State.Touches.foldl ?_ ?_
  · exact ht_3
  · intro v4 v5 v6
    split
    · with_reducible assumption
    · extract_lets +onlyGivenNames v_7
      have hv_7 : State.Touches s [.regs, .tiers, .links, .fj, .kpu, .eru, .bud, .log, .sent] v_7 := by
        unfold v_7
        refine State.Touches.step (State.unitMoves_to _ _ _) ?_; refine State.Touches.step (State.keepCharge_to _ _ _ _ _) ?_
        with_reducible assumption
      clear_value v_7
      refine State.Touches.step (State.keepQueue_to _ _) ?_; exact hv_7

theorem State.streamWrite_to (s : State) (host port offset : Nat) (aligned : Bool) (words : List Word) : s.Touches [.regs, .host] (State.streamWrite s host port offset aligned words) := by
  unfold State.streamWrite
  split
  · refine State.Touches.step (State.pmc_to _ _ _ _ _) ?_; refine State.Touches.step (State.streamDrop_to _ _) ?_; exact State.Touches.refl _ _
  · split
    · refine State.Touches.step (State.pmc_to _ _ _ _ _) ?_; refine State.Touches.step (State.streamDrop_to _ _) ?_; exact State.Touches.refl _ _
    · refine State.Touches.step (State.pmc_to _ _ _ _ _) ?_; refine State.Touches.step (State.setStaging_to _ _ _) ?_; exact State.Touches.refl _ _

theorem execStreamWrite_to (host port offset : Nat) (aligned : Bool) (words : List Word) (s : State) : Within s [.regs, .host] (execStreamWrite host port offset aligned words s) := by
  unfold execStreamWrite
  refine Within.occurs ?_ ?_
  · exact State.Touches.refl _ _
  · refine State.Touches.step (State.streamWrite_to _ _ _ _ _ _) ?_; exact State.Touches.refl _ _

theorem State.journalWord_to (s : State) (n : Nat) (c : StreamCfg) (w : Word) : s.Touches [.regs, .tiers, .links, .fj, .kpu, .bud, .host, .log, .sent] (State.journalWord s n c w) := by
  unfold State.journalWord
  split
  · exact State.Touches.refl _ _
  · refine State.Touches.step (State.journal_to _ _ _ _ _) ?_; exact State.Touches.refl _ _

theorem State.wordFall_to (s : State) (n : Nat) (c : StreamCfg) : s.Touches [.regs, .links] (State.wordFall s n c) := by
  unfold State.wordFall
  split
  · refine State.Touches.step (State.fall_to _ _ _) ?_; exact State.Touches.refl _ _
  · exact State.Touches.refl _ _

theorem State.ringWord_to (s : State) (id : Nat) (w : Word) : s.Touches [.mem, .far, .seq, .tiers, .kpu] (State.ringWord s id w) := by
  unfold State.ringWord
  split
  · exact .refl _ _
  · next r _ =>
    extract_lets x t
    have ht : s.Touches [.mem, .far, .seq, .tiers, .kpu] t := State.Touches.step (State.sramWrite_to _ _ _ _) (.refl _ _)
    have hu : ∀ (t : State) (x : RingSt), t.Touches [.seq] { t with seq := { t.seq with ring := tset t.seq.ring id x } } := fun t x => State.Touches.upd t (.refl _ _)
    clear_value t
    split
    · exact State.Touches.step (State.ringFill_to _ _) ht
    · exact ht.trans ((hu _ _).mono (by decide))

theorem State.farWord_to (s : State) (n : Nat) (c : StreamCfg) (w : Word) : s.Touches [.regs, .far, .tiers, .links, .fj, .kpu, .eru, .bud, .host, .log, .sent] (State.farWord s n c w) := by
  unfold State.farWord
  extract_lets x t u
  have ht : s.Touches [.regs, .far, .tiers, .links, .fj, .kpu, .eru, .bud, .host, .log, .sent] t := by
    unfold t
    split
    · exact State.Touches.step (State.charge_to _ _ _ _ _) (.refl _ _)
    · exact .refl _ _
  have hu : s.Touches [.regs, .far, .tiers, .links, .fj, .kpu, .eru, .bud, .host, .log, .sent] u := State.Touches.step (State.eruFlush_to _ _) (State.Touches.step (State.farWrite_to _ _ _ _) ht)
  have h1 : ∀ (t : State) (x : RingSt), t.Touches [.host] { t with host := { t.host with farRing := tset t.host.farRing n x } } := fun t x => State.Touches.upd t (.refl _ _)
  have h2 : ∀ (t : State) (x : RingSt) (k : Nat), t.Touches [.host] { t with host := { t.host with farRing := tset t.host.farRing n x, farFree := tset t.host.farFree n k } } :=
    fun t x k => State.Touches.upd t (.refl _ _)
  clear_value u
  split
  · exact State.Touches.step (State.cntBump_to _ _ _ _) (hu.trans ((h2 _ _ _).mono (by decide)))
  · exact hu.trans ((h1 _ _).mono (by decide))

theorem State.deliverWord_to (s : State) (n : Nat) (c : StreamCfg) (w : Word) : s.Touches [.regs, .mem, .far, .seq, .tiers, .links, .fj, .kpu, .eru, .bud, .host, .log, .sent] (State.deliverWord s n c w) := by
  unfold State.deliverWord
  extract_lets +onlyGivenNames t_0
  have ht_0 : State.Touches s [.regs, .mem, .far, .seq, .tiers, .links, .fj, .kpu, .eru, .bud, .host, .log, .sent] t_0 := by
    unfold t_0
    refine State.Touches.step (State.wordFall_to _ _ _) ?_; refine State.Touches.step (State.journalWord_to _ _ _ _) ?_; exact State.Touches.refl _ _
  clear_value t_0
  split
  · refine State.Touches.step (State.ringWord_to _ _ _) ?_; exact ht_0
  · split
    · refine State.Touches.step (State.farWord_to _ _ _ _) ?_; exact ht_0
    · split
      · refine State.Touches.upd t_0 ?_
        exact ht_0
      · exact ht_0

theorem State.modChan_to (s : State) (c : Nat) (f : Chan → Chan) : s.Touches [.rind] (State.modChan s c f) := by
  unfold State.modChan
  refine State.Touches.upd s ?_
  exact State.Touches.refl _ _

theorem State.judgeRecord_to (s : State) (n : Nat) (c : StreamCfg) (k : Chan) : WithinO s [.regs, .rind, .host] (State.judgeRecord s n c k) := by
  unfold State.judgeRecord
  extract_lets +onlyGivenNames l_0
  split
  · clear_value l_0
    split
    · exact WithinO.none
    · refine WithinO.some ?_
      refine State.Touches.step (State.count_to _ _) ?_; refine State.Touches.step (State.modChan_to _ _ _) ?_; exact State.Touches.refl _ _
    · refine WithinO.some ?_
      refine State.Touches.step (State.setStaging_to _ _ _) ?_; exact State.Touches.refl _ _
  · extract_lets +onlyGivenNames head_1
    extract_lets +onlyGivenNames words_2
    extract_lets +onlyGivenNames no_3
    extract_lets +onlyGivenNames bad_4
    have hbad_4 : ∀ a0, State.Touches s [.regs, .rind, .host] (bad_4 a0) := by
      unfold bad_4
      intro v5
      refine State.Touches.step (State.modChan_to _ _ _) ?_; refine State.Touches.step (State.count_to _ _) ?_
      refine State.Touches.step (State.setStaging_to _ _ _) ?_; exact State.Touches.refl _ _
    clear_value bad_4
    split
    · exact WithinO.none
    · split
      · refine WithinO.some ?_
        apply hbad_4
      · split
        · exact WithinO.none
        · extract_lets +onlyGivenNames rec_6
          split
          · refine WithinO.some ?_
            refine State.Touches.step (State.count_to _ _) ?_; refine State.Touches.step (State.setStaging_to _ _ _) ?_; exact State.Touches.refl _ _
          · split
            · split
              · refine WithinO.some ?_
                apply hbad_4
              · refine WithinO.some ?_
                refine State.Touches.step (State.modChan_to _ _ _) ?_; refine State.Touches.step (State.setPlain_to _ _ _) ?_
                refine State.Touches.step (State.setStaging_to _ _ _) ?_; exact State.Touches.refl _ _
            · refine WithinO.some ?_
              apply hbad_4

theorem State.deliverReplay_to (s : State) (n : Nat) (c : StreamCfg) : WithinO s [.regs, .mem, .far, .seq, .tiers, .links, .fj, .kpu, .eru, .bud, .host, .log, .sent] (State.deliverReplay s n c) := by
  unfold State.deliverReplay
  split
  · split
    · split
      · exact WithinO.none
      · extract_lets +onlyGivenNames left_0
        refine WithinO.some ?_
        refine State.Touches.step (State.deliverWord_to _ _ _ _) ?_
        refine State.Touches.upd s ?_
        exact State.Touches.refl _ _
    · exact WithinO.none
  · exact WithinO.none

theorem State.deliver_to (s : State) (n : Nat) : WithinO s [.regs, .mem, .far, .seq, .tiers, .links, .fj, .rind, .kpu, .eru, .bud, .host, .log, .sent] (State.deliver s n) := by
  unfold State.deliver
  split
  · exact WithinO.none
  · split
    · exact WithinO.none
    · split
      · refine WithinO.step (State.deliverReplay_to _ _ _) ?_
        exact State.Touches.refl _ _
      · extract_lets +onlyGivenNames room_0
        split
        · split
          · refine WithinO.some ?_
            refine State.Touches.step (State.deliverWord_to _ _ _ _) ?_; refine State.Touches.step (State.setPlain_to _ _ _) ?_
            exact State.Touches.refl _ _
          · exact WithinO.none
        · split
          · split
            · split
              · refine WithinO.some ?_
                refine State.Touches.step (State.deliverWord_to _ _ _ _) ?_; refine State.Touches.step (State.setStaging_to _ _ _) ?_
                exact State.Touches.refl _ _
              · exact WithinO.none
            · exact WithinO.none
          · split
            · refine WithinO.step (State.judgeRecord_to _ _ _ _) ?_
              exact State.Touches.refl _ _
            · exact WithinO.none

theorem execStreamWordDeliver_to (port : Nat) (s : State) : Within s [.regs, .mem, .far, .seq, .tiers, .links, .fj, .rind, .kpu, .eru, .bud, .host, .log, .sent] (execStreamWordDeliver port s) := by
  unfold execStreamWordDeliver
  refine Within.occurs ?_ ?_
  · exact State.Touches.refl _ _
  · apply State.streamNotify_to (by decide)
    · exact State.Touches.refl _ _
    · refine WithinO.getD ?_ ?_
      · refine WithinO.step (State.deliver_to _ _) ?_
        exact State.Touches.refl _ _
      · exact State.Touches.refl _ _

theorem State.streamRead_to (s : State) (host port : Nat) (aligned : Bool) (count : Nat) : s.Touches [.regs, .host, .sent] (State.streamRead s host port aligned count).2 := by
  unfold State.streamRead
  extract_lets +onlyGivenNames ones_0
  split
  · exact State.Touches.refl _ _
  · split
    · exact State.Touches.refl _ _
    · extract_lets +onlyGivenNames l_1
      extract_lets +onlyGivenNames t_2
      have ht_2 : State.Touches s [.regs, .host, .sent] t_2 := by
        unfold t_2
        refine State.Touches.step (State.pmc_to _ _ _ _ _) ?_; refine State.Touches.step (State.setStaging_to _ _ _) ?_; exact State.Touches.refl _ _
      clear_value t_2
      dsimp only
      apply State.streamNotify_to (by decide)
      · exact ht_2
      · refine State.Touches.step (State.fillOut_to _ _) ?_; exact ht_2

theorem execStreamRead_to (host port : Nat) (aligned : Bool) (count : Nat) (s : State) : Within s [.regs, .host, .sent] (execStreamRead host port aligned count s) := by
  unfold execStreamRead
  extract_lets +onlyGivenNames r_0
  have hr_0 : State.Touches s [.regs, .host, .sent] r_0.2 := by
    unfold r_0
    refine State.Touches.step (State.streamRead_to _ _ _ _ _) ?_; exact State.Touches.refl _ _
  clear_value r_0
  refine Within.occurs ?_ ?_
  · exact State.Touches.refl _ _
  · refine State.Touches.step (State.emit_to _ _) ?_; exact hr_0

theorem execStreamClearDropped_to (host port : Nat) (s : State) : Within s [.regs] (execStreamClearDropped host port s) := by
  unfold execStreamClearDropped
  extract_lets +onlyGivenNames ok_0
  refine Within.occurs ?_ ?_
  · exact State.Touches.refl _ _
  · refine State.Touches.step (State.fs_to _ _ _ _) ?_; exact State.Touches.refl _ _

theorem State.modEnd_to (s : State) (host : Nat) : s.Touches [.regs, .waits, .host, .time, .now, .rack, .sent] (State.modEnd s host) := by
  unfold State.modEnd
  extract_lets +onlyGivenNames w_0
  extract_lets +onlyGivenNames ks_1
  extract_lets +onlyGivenNames due_2
  split
  · exact State.Touches.refl _ _
  · extract_lets +onlyGivenNames t_3
    have ht_3 : State.Touches s [.regs, .waits, .host, .time, .now, .rack, .sent] t_3 := by
      unfold t_3
      refine State.Touches.step (State.runTo_to _ _) ?_; exact State.Touches.refl _ _
    clear_value t_3
    refine State.Touches.foldl ?_ ?_
    · exact ht_3
    · intro v4 v5 v6
      extract_lets +onlyGivenNames v_7
      have hv_7 : State.Touches s [.regs, .waits, .host, .time, .now, .rack, .sent] v_7 := by
        unfold v_7
        refine State.Touches.step (State.msixNow_to _ _ _) ?_; with_reducible assumption
      clear_value v_7
      refine State.Touches.upd v_7 ?_
      exact hv_7

theorem execMsixModerationEnd_to (host : Nat) (s : State) : Within s [.regs, .waits, .host, .time, .now, .rack, .sent] (execMsixModerationEnd host s) := by
  unfold execMsixModerationEnd
  refine Within.occurs ?_ ?_
  · exact State.Touches.refl _ _
  · refine State.Touches.step (State.modEnd_to _ _) ?_; exact State.Touches.refl _ _

theorem State.emptyStreams_to (s : State) (a : Nat) : s.Touches [.regs, .seq, .host] (State.emptyStreams s a) := by
  unfold State.emptyStreams
  refine State.Touches.foldl ?_ ?_
  · exact State.Touches.refl _ _
  · intro v0 v1 v2
    split
    · with_reducible assumption
    · split
      · with_reducible assumption
      · extract_lets +onlyGivenNames u_3
        have hu_3 : State.Touches s [.regs, .seq, .host] u_3 := by
          unfold u_3
          refine State.Touches.step (State.setPlain_to _ _ _) ?_; refine State.Touches.step (State.setStaging_to _ _ _) ?_; with_reducible assumption
        clear_value u_3
        extract_lets +onlyGivenNames u_4
        extract_lets +onlyGivenNames u_5
        have hu_5 : State.Touches s [.regs, .seq, .host] u_5 := by
          unfold u_5
          refine State.Touches.upd u_3 ?_
          exact hu_3
        clear_value u_5
        split
        · exact hu_5
        · split
          · extract_lets +onlyGivenNames x_6
            extract_lets +onlyGivenNames w7
            have hw7 : State.Touches s [.regs, .seq, .host] w7 := by
              unfold w7
              refine State.Touches.step (State.fs_to _ _ _ _) ?_; exact hu_5
            refine State.Touches.upd w7 ?_
            exact hw7
          · split
            · refine State.Touches.upd u_5 ?_
              exact hu_5
            · exact hu_5

theorem State.accept_to (s : State) (key : Nat) (p : Packet) : s.Touches [.fj] (State.accept s key p).2.2 := by
  unfold State.accept
  extract_lets +onlyGivenNames r_0
  have hr_0 : State.Touches s [.fj] r_0.2.2 := by
    unfold r_0
    refine State.Touches.step (State.inspect_to _ _) ?_; exact State.Touches.refl _ _
  clear_value r_0
  split
  · exact hr_0
  · with_reducible assumption

theorem State.targetRead_to (s : State) (t : Target) (n : Nat) : s.Touches [.regs, .tiers, .log, .sent] (State.targetRead s t n).2.1 := by
  unfold State.targetRead
  split
  · refine State.Touches.step (State.farRead_to _ _ _ _) ?_; exact State.Touches.refl _ _
  · refine State.Touches.step (State.bondRead_to _ _ _ _) ?_; exact State.Touches.refl _ _
  · refine State.Touches.step (State.sramRead_to _ _ _ _) ?_; exact State.Touches.refl _ _
  · exact State.Touches.refl _ _

theorem State.targetWrite_to (s : State) (t : Target) (act : Nat) (poison : Bool) (b : Bytes) : s.Touches [.regs, .mem, .far, .tiers, .links, .fj, .kpu, .eru, .bud, .log, .sent] (State.targetWrite s t act poison b) := by
  unfold State.targetWrite
  split
  · extract_lets +onlyGivenNames u_0
    have hu_0 : State.Touches s [.regs, .mem, .far, .tiers, .links, .fj, .kpu, .eru, .bud, .log, .sent] u_0 := by
      unfold u_0
      refine State.Touches.step (State.eruFlush_to _ _) ?_; refine State.Touches.step (State.farWrite_to _ _ _ _) ?_; exact State.Touches.refl _ _
    clear_value u_0
    split
    · refine State.Touches.step (State.farPoison_to _ _ _ _) ?_; exact hu_0
    · exact hu_0
  · extract_lets +onlyGivenNames u_1
    have hu_1 : State.Touches s [.regs, .mem, .far, .tiers, .links, .fj, .kpu, .eru, .bud, .log, .sent] u_1 := by
      unfold u_1
      refine State.Touches.step (State.bondWrite_to _ _ _ _) ?_; exact State.Touches.refl _ _
    clear_value u_1
    extract_lets +onlyGivenNames k_2
    split
    · refine State.Touches.step (State.poison_to _ _) ?_; exact hu_1
    · exact hu_1
  · split
    · refine State.Touches.step (State.sramPoison_to _ _ _ _) ?_; refine State.Touches.step (State.sramWrite_to _ _ _ _) ?_
      exact State.Touches.refl _ _
    · refine State.Touches.step (State.sramWrite_to _ _ _ _) ?_; exact State.Touches.refl _ _
  · exact State.Touches.refl _ _

theorem State.chargeTarget_to (s : State) (t : Target) (act n : Nat) : s.Touches [.regs, .bud] (State.chargeTarget s t act n) := by
  unfold State.chargeTarget
  refine State.Touches.step (State.chargeAll_to _ _ _) ?_; exact State.Touches.refl _ _

theorem State.grantReqs_to (s : State) (act : Nat) (y0 : List (Nat × Nat × Nat)) : s.Touches [.regs, .bud] (State.grantReqs s act y0).1 := by
  induction y0 generalizing s with
  | nil => exact .refl _ _
  | cons c cs ih =>
    unfold State.grantReqs
    split
    · exact State.Touches.trans ((State.charge_to _ _ _ _ _).mono (by decide)) (ih _)
    · exact .refl _ _

theorem State.orderStep_to (s : State) (p : Packet) : s.Touches [.regs, .fj] (State.orderStep s p) := by
  unfold State.orderStep
  extract_lets +onlyGivenNames c_0
  refine State.Touches.step (State.rxCount_to _ _) ?_
  refine State.Touches.upd s ?_
  exact State.Touches.refl _ _

theorem State.streamStore_to (s : State) (n : Nat) (p : Packet) : s.Touches [.regs, .host] (State.streamStore s n p).1 := by
  unfold State.streamStore
  extract_lets +onlyGivenNames ws_0
  split
  · dsimp only
    refine State.Touches.step (State.streamDrop_to _ _) ?_; exact State.Touches.refl _ _
  · split
    · exact State.Touches.refl _ _
    · split
      · exact State.Touches.refl _ _
      · dsimp only
        refine State.Touches.step (State.setStaging_to _ _ _) ?_; exact State.Touches.refl _ _

theorem State.takeReq_to (s : State) (key : Nat) (p : Packet) : s.Touches [.regs, .links, .bud] (State.takeReq s key p) := by
  unfold State.takeReq
  refine WithinO.getD ?_ ?_
  · refine WithinO.step (State.takeWays_to _ _ _) ?_
    exact State.Touches.refl _ _
  · exact State.Touches.refl _ _

theorem State.applyReq_to (s : State) (key : Nat) (p : Packet) : s.Touches [.regs, .mem, .far, .tiers, .links, .fj, .kpu, .eru, .bud, .host, .log, .sent] (State.applyReq s key p) := by
  unfold State.applyReq
  extract_lets +onlyGivenNames t_0
  split
  · refine State.Touches.step (State.refuse_to _ _ _) ?_; exact State.Touches.refl _ _
  · split
    · extract_lets +onlyGivenNames r_1
      have hr_1 : State.Touches s [.regs, .mem, .far, .tiers, .links, .fj, .kpu, .eru, .bud, .host, .log, .sent] r_1.2.1 := by
        unfold r_1
        refine State.Touches.step (State.targetRead_to _ _ _) ?_; exact State.Touches.refl _ _
      clear_value r_1
      refine State.Touches.step (State.respond_to _ _ _ _ _ _) ?_; refine State.Touches.step (State.orderStep_to _ _) ?_; exact hr_1
    · split
      · extract_lets +onlyGivenNames w_2
        extract_lets +onlyGivenNames r_3
        have hr_3 : State.Touches s [.regs, .mem, .far, .tiers, .links, .fj, .kpu, .eru, .bud, .host, .log, .sent] r_3.2.1 := by
          unfold r_3
          refine State.Touches.step (State.targetRead_to _ _ _) ?_; exact State.Touches.refl _ _
        clear_value r_3
        split
        · refine State.Touches.step (State.refuse_to _ _ _) ?_; exact hr_3
        · extract_lets +onlyGivenNames u_4
          have hu_4 : State.Touches s [.regs, .mem, .far, .tiers, .links, .fj, .kpu, .eru, .bud, .host, .log, .sent] u_4 := by
            unfold u_4
            split
            · refine State.Touches.step (State.targetWrite_to _ _ _ _ _) ?_; exact hr_3
            · exact hr_3
          clear_value u_4
          extract_lets +onlyGivenNames v_5
          have hv_5 : State.Touches s [.regs, .mem, .far, .tiers, .links, .fj, .kpu, .eru, .bud, .host, .log, .sent] v_5 := by
            unfold v_5
            refine State.Touches.step (State.orderStep_to _ _) ?_; exact hu_4
          clear_value v_5
          split
          · refine State.Touches.step (State.respond_to _ _ _ _ _ _) ?_; exact hv_5
          · refine State.Touches.step (State.respond_to _ _ _ _ _ _) ?_; exact hv_5
      · clear_value t_0
        split
        · extract_lets +onlyGivenNames r_6
          have hr_6 : State.Touches s [.regs, .mem, .far, .tiers, .links, .fj, .kpu, .eru, .bud, .host, .log, .sent] r_6.1 := by
            unfold r_6
            refine State.Touches.step (State.streamStore_to _ _ _) ?_; exact State.Touches.refl _ _
          clear_value r_6
          split
          · refine State.Touches.step (State.respond_to _ _ _ _ _ _) ?_; refine State.Touches.step (State.orderStep_to _ _) ?_; exact hr_6
          · refine State.Touches.step (State.refuse_to _ _ _) ?_; exact hr_6
        · refine State.Touches.step (State.respond_to _ _ _ _ _ _) ?_; refine State.Touches.step (State.orderStep_to _ _) ?_
          refine State.Touches.step (State.targetWrite_to _ _ _ _ _) ?_; exact State.Touches.refl _ _

theorem State.payReq_to (s : State) (key : Nat) (p : Packet) : s.Touches [.regs, .mem, .far, .tiers, .links, .fj, .kpu, .eru, .bud, .host, .log, .sent] (State.payReq s key p) := by
  unfold State.payReq
  split
  · refine State.Touches.step (State.applyReq_to _ _ _) ?_; exact State.Touches.refl _ _
  · refine State.Touches.step (State.applyReq_to _ _ _) ?_; refine State.Touches.step (State.chargeTarget_to _ _ _ _) ?_
    refine State.Touches.step (State.takeReq_to _ _ _) ?_; exact State.Touches.refl _ _

theorem State.unpark_to (y0 : Nat) (y1 : State) : y1.Touches [.regs, .mem, .far, .tiers, .links, .fj, .kpu, .eru, .bud, .host, .log, .sent] (State.unpark y0 y1) := by
  induction y0 generalizing y1 with
  | zero => exact .refl _ _
  | succ n ih =>
    unfold State.unpark
    split
    · exact .refl _ _
    · extract_lets w t
      have ht : y1.Touches [.regs, .mem, .far, .tiers, .links, .fj, .kpu, .eru, .bud, .host, .log, .sent] t := State.Touches.upd y1 (.refl _ _)
      refine State.Touches.trans ?_ (ih _)
      split
      · exact State.Touches.step (State.payReq_to _ _ _) ht
      · exact State.Touches.upd _ ht

theorem State.applyAll_to (s : State) (key : Nat) (p : Packet) : s.Touches [.regs, .mem, .far, .tiers, .links, .fj, .kpu, .eru, .bud, .host, .log, .sent] (State.applyAll s key p) := by
  unfold State.applyAll
  extract_lets +onlyGivenNames t_0
  have ht_0 : State.Touches s [.regs, .mem, .far, .tiers, .links, .fj, .kpu, .eru, .bud, .host, .log, .sent] t_0 := by
    unfold t_0
    refine State.Touches.step (State.applyReq_to _ _ _) ?_; exact State.Touches.refl _ _
  clear_value t_0
  refine State.Touches.step (State.unpark_to _ _) ?_; exact ht_0

theorem State.dequeue_to (s : State) (e : Nat × Packet) : s.Touches [.fj] (State.dequeue s e) := by
  unfold State.dequeue
  refine State.Touches.upd s ?_
  exact State.Touches.refl _ _

theorem State.retireLine_to (y0 : Nat) (y1 : State) (y2 : Nat) : y1.Touches [.regs, .fj] (State.retireLine y0 y1 y2) := by
  induction y0 generalizing y1 with
  | zero => exact .refl _ _
  | succ n ih =>
    unfold State.retireLine
    split
    · split
      · split
        · refine State.Touches.trans ?_ (ih _)
          exact State.Touches.step (State.respond_to _ _ _ _ _ _) (State.Touches.step (State.pmc_to _ _ _ _ _) (State.Touches.step (State.count_to _ _) (State.Touches.step (State.orderStep_to _ _)
            (State.Touches.step (State.dequeue_to _ _) (.refl _ _)))))
        · exact .refl _ _
      · exact .refl _ _
    · exact .refl _ _

theorem State.applyLine_to (y0 : Nat) (y1 : State) (y2 : Nat) (y3 : Packet) : y1.Touches [.regs, .mem, .far, .tiers, .links, .fj, .kpu, .eru, .bud, .host, .log, .sent] (State.applyLine y0 y1 y2 y3) := by
  induction y0 generalizing y1 with
  | zero => exact .refl _ _
  | succ n ih =>
    unfold State.applyLine
    split
    · split
      · refine State.Touches.trans ?_ (ih _)
        exact State.Touches.step (State.pmc_to _ _ _ _ _) (State.Touches.step (State.count_to _ _) (State.Touches.step (State.applyAll_to _ _ _) (State.Touches.step (State.dequeue_to _ _) (.refl _ _))))
      · exact .refl _ _
    · exact .refl _ _

theorem State.ingressApply_to (s : State) (line : Nat) : s.Touches [.regs, .mem, .far, .tiers, .links, .fj, .kpu, .eru, .bud, .host, .log, .sent] (State.ingressApply s line) := by
  unfold State.ingressApply
  extract_lets +onlyGivenNames u_0
  have hu_0 : State.Touches s [.regs, .mem, .far, .tiers, .links, .fj, .kpu, .eru, .bud, .host, .log, .sent] u_0 := by
    unfold u_0
    refine State.Touches.step (State.retireLine_to _ _ _) ?_; exact State.Touches.refl _ _
  clear_value u_0
  extract_lets +onlyGivenNames t_1
  have ht_1 : State.Touches s [.regs, .mem, .far, .tiers, .links, .fj, .kpu, .eru, .bud, .host, .log, .sent] t_1 := by
    unfold t_1
    refine State.Touches.step (State.unpark_to _ _) ?_; exact hu_0
  clear_value t_1
  split
  · exact ht_1
  · split
    · exact ht_1
    · split
      · refine State.Touches.step (State.applyLine_to _ _ _ _) ?_; refine State.Touches.step (State.applyAll_to _ _ _) ?_
        refine State.Touches.step (State.dequeue_to _ _) ?_; exact ht_1
      · extract_lets +onlyGivenNames g_2
        extract_lets +onlyGivenNames w_3
        have hw_3 : State.Touches s [.regs, .mem, .far, .tiers, .links, .fj, .kpu, .eru, .bud, .host, .log, .sent] w_3 := by
          unfold w_3
          split
          · exact ht_1
          · refine State.Touches.step (State.takeReq_to _ _ _) ?_; exact ht_1
        clear_value w_3
        extract_lets +onlyGivenNames r_4
        have hr_4 : State.Touches s [.regs, .mem, .far, .tiers, .links, .fj, .kpu, .eru, .bud, .host, .log, .sent] r_4.1 := by
          unfold r_4
          refine State.Touches.step (State.grantReqs_to _ _ _) ?_; exact hw_3
        clear_value r_4
        split
        · extract_lets +onlyGivenNames w5
          have hw5 : State.Touches s [.regs, .mem, .far, .tiers, .links, .fj, .kpu, .eru, .bud, .host, .log, .sent] w5 := by
            unfold w5
            exact hr_4
          refine State.Touches.upd w5 ?_
          exact hw5
        · refine State.Touches.step (State.applyLine_to _ _ _ _) ?_; refine State.Touches.step (State.applyAll_to _ _ _) ?_
          refine State.Touches.step (State.dequeue_to _ _) ?_; exact hr_4

theorem execIngressApply_to (line : Nat) (s : State) : Within s [.regs, .mem, .far, .tiers, .links, .fj, .kpu, .eru, .bud, .host, .log, .sent] (execIngressApply line s) := by
  unfold execIngressApply
  extract_lets +onlyGivenNames ok_0
  refine Within.occurs ?_ ?_
  · exact State.Touches.refl _ _
  · apply State.streamNotify_to (by decide)
    · exact State.Touches.refl _ _
    · refine State.Touches.step (State.drainPump_to _) ?_; refine State.Touches.step (State.ingressApply_to _ _) ?_; exact State.Touches.refl _ _

theorem State.reqIn_to (s : State) (port : Nat) (p : Packet) : s.Touches [.regs, .fj] (State.reqIn s port p) := by
  unfold State.reqIn
  split
  · split
    · refine State.Touches.step (State.pmc_to _ _ _ _ _) ?_; refine State.Touches.step (State.count_to _ _) ?_
      refine State.Touches.upd s ?_
      exact State.Touches.refl _ _
    · refine State.Touches.step (State.refuse_to _ _ _) ?_; exact State.Touches.refl _ _
  · refine State.Touches.upd s ?_
    exact State.Touches.refl _ _

theorem reqRow_to (port : Nat) (pkt : Packet) (mine : Bool) (s : State) : Within s [.regs, .sp, .fj] (reqRow port pkt mine s) := by
  unfold reqRow
  split
  · refine Within.occurs ?_ ?_
    · exact State.Touches.refl _ _
    · exact State.Touches.refl _ _
  · extract_lets +onlyGivenNames r_0
    have hr_0 : State.Touches s [.regs, .sp, .fj] r_0.2.2 := by
      unfold r_0
      refine State.Touches.step (State.accept_to _ _ _) ?_
      refine State.Touches.of_some (by assumption) ?_
      refine WithinO.step (State.takeRx_to _ _ _) ?_
      exact State.Touches.refl _ _
    clear_value r_0
    refine Within.occurs ?_ ?_
    · exact State.Touches.refl _ _
    · refine State.Touches.step (State.drainPump_to _) ?_
      split
      · refine State.Touches.step (State.refuse_to _ _ _) ?_; refine State.Touches.step (State.countTag_to _ _) ?_; exact hr_0
      · refine State.Touches.step (State.reqIn_to _ _ _) ?_; exact hr_0

theorem execStore_to (p : Nat) (pkt : Packet) (s : State) : Within s [.regs, .sp, .fj] (execStore p pkt s) := by
  unfold execStore
  refine Within.step (reqRow_to _ _ _ _) ?_
  exact State.Touches.refl _ _

theorem execLoad_to (p : Nat) (pkt : Packet) (s : State) : Within s [.regs, .sp, .fj] (execLoad p pkt s) := by
  unfold execLoad
  refine Within.step (reqRow_to _ _ _ _) ?_
  exact State.Touches.refl _ _

theorem execAtomic_to (p : Nat) (pkt : Packet) (s : State) : Within s [.regs, .sp, .fj] (execAtomic p pkt s) := by
  unfold execAtomic
  refine Within.step (reqRow_to _ _ _ _) ?_
  exact State.Touches.refl _ _

theorem execParkTimeout_to (idx : Nat) (s : State) : Within s [.regs, .waits, .fj, .time, .now, .rack] (execParkTimeout idx s) := by
  unfold execParkTimeout
  split
  · refine Within.occurs ?_ ?_
    · exact State.Touches.refl _ _
    · exact State.Touches.refl _ _
  · extract_lets +onlyGivenNames t_0
    have ht_0 : State.Touches s [.regs, .waits, .fj, .time, .now, .rack] t_0 := by
      unfold t_0
      refine State.Touches.step (State.runTo_to _ _) ?_; exact State.Touches.refl _ _
    clear_value t_0
    refine Within.next ?_
    refine State.Touches.step (State.count_to _ _) ?_
    refine State.Touches.upd t_0 ?_
    exact ht_0

theorem State.sendLoad_to (s : State) (p : Packet) (core act : Nat) (parts : List (Nat × Nat)) (iss : Nat) : s.Touches [.regs, .fj] (State.sendLoad s p core act parts iss) := by
  unfold State.sendLoad
  split
  · exact State.Touches.refl _ _
  · extract_lets +onlyGivenNames k_0
    extract_lets +onlyGivenNames x_1
    extract_lets +onlyGivenNames t_2
    extract_lets +onlyGivenNames t_3
    have ht_3 : State.Touches s [.regs, .fj] t_3 := by
      unfold t_3
      refine State.Touches.upd s ?_
      exact State.Touches.refl _ _
    clear_value t_3
    split
    · refine State.Touches.step (State.sendAcked_to _ _ _ _) ?_; exact ht_3
    · refine State.Touches.step (State.noteSent_to _ _ _) ?_; refine State.Touches.step (State.issue_to _ _ _ _) ?_; exact ht_3

theorem State.fabCode_to (s : State) (core iss code : Nat) : s.Touches [.seq] (State.fabCode s core iss code) := by
  unfold State.fabCode
  split
  · split
    · refine State.Touches.step (State.setRunning_to _ _ _ _) ?_; exact State.Touches.refl _ _
    · exact State.Touches.refl _ _
  · exact State.Touches.refl _ _

theorem State.putParts_to (s : State) (core : Nat) (parts : List (Nat × Nat)) (b : Bytes) (poison : Bool) : s.Touches [.mem, .far, .tiers, .kpu] (State.putParts s core parts b poison) := by
  unfold State.putParts
  refine State.Touches.foldl_fst ?_ ?_
  · exact State.Touches.refl _ _
  · intro v0 v1 v2 v3
    extract_lets +onlyGivenNames d_4
    extract_lets +onlyGivenNames t_5
    have ht_5 : State.Touches s [.mem, .far, .tiers, .kpu] t_5 := by
      unfold t_5
      refine State.Touches.step (State.sramWrite_to _ _ _ _) ?_; with_reducible assumption
    clear_value t_5
    dsimp only
    split
    · refine State.Touches.step (State.sramPoison_to _ _ _ _) ?_; exact ht_5
    · exact ht_5

theorem State.loadFails_to (s : State) (l : Load) (code : Nat) : s.Touches [.seq, .tiers, .fj, .sent] (State.loadFails s l code) := by
  unfold State.loadFails
  extract_lets +onlyGivenNames t_0
  extract_lets +onlyGivenNames t_1
  have ht_1 : State.Touches s [.seq, .tiers, .fj, .sent] t_1 := by
    unfold t_1
    refine State.Touches.upd s ?_
    exact State.Touches.refl _ _
  clear_value t_1
  extract_lets +onlyGivenNames u_2
  have hu_2 : State.Touches s [.seq, .tiers, .fj, .sent] u_2 := by
    unfold u_2
    refine State.Touches.step (State.fabCode_to _ _ _ _) ?_
    refine State.Touches.foldl ?_ ?_
    · exact ht_1
    · intro v3 v4 v5
      refine State.Touches.step (State.sramPoison_to _ _ _ _) ?_; with_reducible assumption
  clear_value u_2
  split
  · refine State.Touches.step (State.emit_to _ _) ?_; exact hu_2
  · exact hu_2

theorem State.acked_to (s : State) (e : Sent) : s.Touches [.fj] (State.acked s e) := by
  unfold State.acked
  extract_lets +onlyGivenNames k_0
  extract_lets +onlyGivenNames t_1
  extract_lets +onlyGivenNames t_2
  have ht_2 : State.Touches s [.fj] t_2 := by
    unfold t_2
    refine State.Touches.upd s ?_
    exact State.Touches.refl _ _
  clear_value t_2
  refine State.Touches.step (State.modPair_to _ _ _) ?_; exact ht_2

theorem State.keepAcked_to (s : State) (e : Sent) : s.Touches [.regs, .kpu, .host, .sent] (State.keepAcked s e) := by
  unfold State.keepAcked
  extract_lets +onlyGivenNames kind_0
  split
  · exact State.Touches.refl _ _
  · split
    · split
      · split
        · refine State.Touches.step (State.sealed_to _ _ _) ?_; exact State.Touches.refl _ _
        · exact State.Touches.refl _ _
      · exact State.Touches.refl _ _
    · split
      · refine State.Touches.step (State.showJnl_to _) ?_
        refine State.Touches.upd s ?_
        exact State.Touches.refl _ _
      · exact State.Touches.refl _ _

theorem State.strayAnswer_to (s : State) (q : Packet) : s.Touches [.regs] (State.strayAnswer s q) := by
  unfold State.strayAnswer
  split
  · refine State.Touches.step (State.dropPkt_to _ _) ?_; exact State.Touches.refl _ _
  · split
    · exact State.Touches.refl _ _
    · refine State.Touches.step (State.dropPkt_to _ _) ?_; exact State.Touches.refl _ _

theorem State.rspChecked_to {z : State} {G : List Part} {s : State} {q : Packet} {t : State} (hG : List.all ([.regs] : List Part) G.contains = true) (hs : z.Touches G s) (ht : z.Touches G t) : z.Touches G (State.rspChecked s q t) := by
  unfold State.rspChecked
  split
  · refine State.Touches.step (State.dropPkt_to _ _) ?_ (Part.all_trans hG); exact hs
  · exact ht

theorem State.loadRspRx_to (s : State) (q : Packet) : s.Touches [.regs, .mem, .far, .tiers, .fj, .kpu] (State.loadRspRx s q) := by
  unfold State.loadRspRx
  split
  · split
    · refine State.Touches.step (State.strayAnswer_to _ _) ?_; exact State.Touches.refl _ _
    · split
      · refine State.Touches.step (State.rxCount_to _ _) ?_; refine State.Touches.step (State.putParts_to _ _ _ _ _) ?_
        refine State.Touches.upd s ?_
        exact State.Touches.refl _ _
      · refine State.Touches.step (State.dropPkt_to _ _) ?_; exact State.Touches.refl _ _
  · refine State.Touches.step (State.strayAnswer_to _ _) ?_; exact State.Touches.refl _ _

theorem State.rspCross_to (s : State) (key : Nat) (q : Packet) : WithinO s [.regs, .links, .bud] (State.rspCross s key q) := by
  unfold State.rspCross
  split
  · refine WithinO.some ?_
    refine State.Touches.step (State.takeWay_to _ _ _ _) ?_; exact State.Touches.refl _ _
  · exact WithinO.none

theorem execLoadRsp_to (p : Nat) (pkt : Packet) (s : State) : Within s [.regs, .mem, .far, .tiers, .links, .sp, .fj, .kpu, .bud] (execLoadRsp p pkt s) := by
  unfold execLoadRsp
  split
  · refine Within.occurs ?_ ?_
    · exact State.Touches.refl _ _
    · refine State.Touches.step (State.drainPump_to _) ?_; apply State.rspChecked_to (by decide)
      · refine State.Touches.of_some (by assumption) ?_
        refine WithinO.bind ?_ ?_
        · refine WithinO.step (State.takeRx_to _ _ _) ?_
          exact State.Touches.refl _ _
        · intro v0 v1
          refine WithinO.step (State.rspCross_to _ _ _) ?_
          with_reducible assumption
      · refine State.Touches.step (State.loadRspRx_to _ _) ?_
        refine State.Touches.of_some (by assumption) ?_
        refine WithinO.bind ?_ ?_
        · refine WithinO.step (State.takeRx_to _ _ _) ?_
          exact State.Touches.refl _ _
        · intro v2 v3
          refine WithinO.step (State.rspCross_to _ _ _) ?_
          with_reducible assumption
  · refine Within.occurs ?_ ?_
    · exact State.Touches.refl _ _
    · exact State.Touches.refl _ _

theorem State.atomicRspRx_to (s : State) (q : Packet) : s.Touches [.regs, .mem, .far, .tiers, .fj, .kpu] (State.atomicRspRx s q) := by
  unfold State.atomicRspRx
  split
  · split
    · extract_lets +onlyGivenNames t_0
      have ht_0 : State.Touches s [.regs, .mem, .far, .tiers, .fj, .kpu] t_0 := by
        unfold t_0
        refine State.Touches.step (State.acked_to _ _) ?_; exact State.Touches.refl _ _
      clear_value t_0
      refine State.Touches.step (State.rxCount_to _ _) ?_
      split
      · refine State.Touches.step (State.putParts_to _ _ _ _ _) ?_
        refine State.Touches.upd t_0 ?_
        exact ht_0
      · exact ht_0
    · refine State.Touches.step (State.dropPkt_to _ _) ?_; exact State.Touches.refl _ _
  · refine State.Touches.step (State.strayAnswer_to _ _) ?_; exact State.Touches.refl _ _

theorem execAtomicRsp_to (p : Nat) (pkt : Packet) (s : State) : Within s [.regs, .mem, .far, .tiers, .links, .sp, .fj, .kpu, .bud] (execAtomicRsp p pkt s) := by
  unfold execAtomicRsp
  split
  · refine Within.occurs ?_ ?_
    · exact State.Touches.refl _ _
    · refine State.Touches.step (State.drainPump_to _) ?_; apply State.rspChecked_to (by decide)
      · refine State.Touches.of_some (by assumption) ?_
        refine WithinO.bind ?_ ?_
        · refine WithinO.step (State.takeRx_to _ _ _) ?_
          exact State.Touches.refl _ _
        · intro v0 v1
          refine WithinO.step (State.rspCross_to _ _ _) ?_
          with_reducible assumption
      · refine State.Touches.step (State.atomicRspRx_to _ _) ?_
        refine State.Touches.of_some (by assumption) ?_
        refine WithinO.bind ?_ ?_
        · refine WithinO.step (State.takeRx_to _ _ _) ?_
          exact State.Touches.refl _ _
        · intro v2 v3
          refine WithinO.step (State.rspCross_to _ _ _) ?_
          with_reducible assumption
  · refine Within.occurs ?_ ?_
    · exact State.Touches.refl _ _
    · exact State.Touches.refl _ _

theorem State.ackRx_to (s : State) (q : Packet) : s.Touches [.regs, .tiers, .links, .fj, .kpu, .bud, .host, .log, .sent] (State.ackRx s q) := by
  unfold State.ackRx
  split
  · split
    · split
      · refine State.Touches.step (State.keepPump_to _) ?_; refine State.Touches.step (State.rxCount_to _ _) ?_
        refine State.Touches.step (State.keepAcked_to _ _) ?_; refine State.Touches.step (State.acked_to _ _) ?_; exact State.Touches.refl _ _
      · refine State.Touches.step (State.rxCount_to _ _) ?_; refine State.Touches.step (State.acked_to _ _) ?_; exact State.Touches.refl _ _
    · refine State.Touches.step (State.dropPkt_to _ _) ?_; exact State.Touches.refl _ _
  · refine State.Touches.step (State.strayAnswer_to _ _) ?_; exact State.Touches.refl _ _

theorem execAck_to (p : Nat) (pkt : Packet) (s : State) : Within s [.regs, .tiers, .links, .sp, .fj, .kpu, .bud, .host, .log, .sent] (execAck p pkt s) := by
  unfold execAck
  split
  · refine Within.occurs ?_ ?_
    · exact State.Touches.refl _ _
    · apply State.streamNotify_to (by decide)
      · exact State.Touches.refl _ _
      · refine State.Touches.step (State.drainPump_to _) ?_; apply State.rspChecked_to (by decide)
        · refine State.Touches.of_some (by assumption) ?_
          refine WithinO.bind ?_ ?_
          · refine WithinO.step (State.takeRx_to _ _ _) ?_
            exact State.Touches.refl _ _
          · intro v0 v1
            refine WithinO.step (State.rspCross_to _ _ _) ?_
            with_reducible assumption
        · refine State.Touches.step (State.ackRx_to _ _) ?_
          refine State.Touches.of_some (by assumption) ?_
          refine WithinO.bind ?_ ?_
          · refine WithinO.step (State.takeRx_to _ _ _) ?_
            exact State.Touches.refl _ _
          · intro v2 v3
            refine WithinO.step (State.rspCross_to _ _ _) ?_
            with_reducible assumption
  · refine Within.occurs ?_ ?_
    · exact State.Touches.refl _ _
    · exact State.Touches.refl _ _

theorem State.nackSeen_to (s : State) (q : Packet) (code : Nat) : s.Touches [.regs] (State.nackSeen s q code) := by
  unfold State.nackSeen
  extract_lets +onlyGivenNames t_0
  have ht_0 : State.Touches s [.regs] t_0 := by
    unfold t_0
    refine State.Touches.step (State.raise_to _ _ _) ?_; refine State.Touches.step (State.count_to _ _) ?_
    refine State.Touches.step (State.rxCount_to _ _) ?_; exact State.Touches.refl _ _
  clear_value t_0
  split
  · exact ht_0
  · refine State.Touches.step (State.fs_to _ _ _ _) ?_; refine State.Touches.step (State.fs_to _ _ _ _) ?_
    refine State.Touches.step (State.fs_to _ _ _ _) ?_; refine State.Touches.step (State.fs_to _ _ _ _) ?_
    refine State.Touches.step (State.fs_to _ _ _ _) ?_; exact ht_0

theorem State.strayNack_to (s : State) (q : Packet) : s.Touches [.regs] (State.strayNack s q) := by
  unfold State.strayNack
  split
  · refine State.Touches.step (State.strayAnswer_to _ _) ?_; exact State.Touches.refl _ _
  · extract_lets +onlyGivenNames xs_0
    split
    · refine State.Touches.step (State.nackSeen_to _ _ _) ?_; exact State.Touches.refl _ _
    · refine State.Touches.step (State.strayAnswer_to _ _) ?_; exact State.Touches.refl _ _

theorem State.nackRx_to (s : State) (q : Packet) : s.Touches [.regs, .seq, .tiers, .links, .fj, .kpu, .eru, .bud, .host, .log, .sent] (State.nackRx s q) := by
  unfold State.nackRx
  split
  · split
    · refine State.Touches.step (State.dropPkt_to _ _) ?_; exact State.Touches.refl _ _
    · extract_lets +onlyGivenNames code_0
      extract_lets +onlyGivenNames t_1
      have ht_1 : State.Touches s [.regs, .seq, .tiers, .links, .fj, .kpu, .eru, .bud, .host, .log, .sent] t_1 := by
        unfold t_1
        refine State.Touches.step (State.nackSeen_to _ _ _) ?_; exact State.Touches.refl _ _
      clear_value t_1
      split
      · split
        · exact ht_1
        · refine State.Touches.upd t_1 ?_
          exact ht_1
      · extract_lets +onlyGivenNames u_2
        have hu_2 : State.Touches s [.regs, .seq, .tiers, .links, .fj, .kpu, .eru, .bud, .host, .log, .sent] u_2 := by
          unfold u_2
          refine State.Touches.step (State.modPair_to _ _ _) ?_; refine State.Touches.step (State.acked_to _ _) ?_; exact ht_1
        clear_value u_2
        split
        · refine State.Touches.step (State.keepNacked_to _ _ _ _) ?_; exact hu_2
        · split
          · refine State.Touches.step (State.loadFails_to _ _ _) ?_; exact hu_2
          · exact hu_2
  · split
    · split
      · refine State.Touches.step (State.loadFails_to _ _ _) ?_; refine State.Touches.step (State.nackSeen_to _ _ _) ?_; exact State.Touches.refl _ _
      · refine State.Touches.step (State.dropPkt_to _ _) ?_; exact State.Touches.refl _ _
    · refine State.Touches.step (State.strayNack_to _ _) ?_; exact State.Touches.refl _ _

theorem execNack_to (p : Nat) (pkt : Packet) (s : State) : Within s [.regs, .seq, .tiers, .links, .sp, .fj, .kpu, .eru, .bud, .host, .log, .sent] (execNack p pkt s) := by
  unfold execNack
  split
  · refine Within.occurs ?_ ?_
    · exact State.Touches.refl _ _
    · refine State.Touches.step (State.drainPump_to _) ?_; apply State.rspChecked_to (by decide)
      · refine State.Touches.of_some (by assumption) ?_
        refine WithinO.bind ?_ ?_
        · refine WithinO.step (State.takeRx_to _ _ _) ?_
          exact State.Touches.refl _ _
        · intro v0 v1
          refine WithinO.step (State.rspCross_to _ _ _) ?_
          with_reducible assumption
      · refine State.Touches.step (State.nackRx_to _ _) ?_
        refine State.Touches.of_some (by assumption) ?_
        refine WithinO.bind ?_ ?_
        · refine WithinO.step (State.takeRx_to _ _ _) ?_
          exact State.Touches.refl _ _
        · intro v2 v3
          refine WithinO.step (State.rspCross_to _ _ _) ?_
          with_reducible assumption
  · refine Within.occurs ?_ ?_
    · exact State.Touches.refl _ _
    · exact State.Touches.refl _ _

theorem State.ackTimeout_to (s : State) (core dev chan since : Nat) : s.Touches [.regs, .waits, .tiers, .links, .fj, .kpu, .eru, .bud, .log, .time, .now, .rack, .sent] (State.ackTimeout s core dev chan since) := by
  unfold State.ackTimeout
  extract_lets +onlyGivenNames t_0
  have ht_0 : State.Touches s [.regs, .waits, .tiers, .links, .fj, .kpu, .eru, .bud, .log, .time, .now, .rack, .sent] t_0 := by
    unfold t_0
    refine State.Touches.step (State.runTo_to _ _) ?_; exact State.Touches.refl _ _
  clear_value t_0
  extract_lets +onlyGivenNames mine_1
  extract_lets +onlyGivenNames free_2
  extract_lets +onlyGivenNames u_3
  extract_lets +onlyGivenNames u_4
  have hu_4 : State.Touches s [.regs, .waits, .tiers, .links, .fj, .kpu, .eru, .bud, .log, .time, .now, .rack, .sent] u_4 := by
    unfold u_4
    refine State.Touches.upd t_0 ?_
    exact ht_0
  clear_value u_4
  extract_lets +onlyGivenNames v_5
  have hv_5 : State.Touches s [.regs, .waits, .tiers, .links, .fj, .kpu, .eru, .bud, .log, .time, .now, .rack, .sent] v_5 := by
    unfold v_5
    refine State.Touches.step (State.count_to _ _) ?_; refine State.Touches.step (State.raise_to _ _ _) ?_
    refine State.Touches.step (State.modPair_to _ _ _) ?_; exact hu_4
  clear_value v_5
  split
  · refine State.Touches.step (State.keepPeerLost_to _ _) ?_; exact hv_5
  · exact hv_5

theorem execAckTimeout_to (core dev chan : Nat) (s : State) : Within s [.regs, .waits, .tiers, .links, .fj, .kpu, .eru, .bud, .log, .time, .now, .rack, .sent] (execAckTimeout core dev chan s) := by
  unfold execAckTimeout
  split
  · refine Within.occurs ?_ ?_
    · exact State.Touches.refl _ _
    · refine State.Touches.step (State.ackTimeout_to _ _ _ _ _) ?_; exact State.Touches.refl _ _
  · refine Within.occurs ?_ ?_
    · exact State.Touches.refl _ _
    · exact State.Touches.refl _ _

theorem execLoadTimeout_to (idx : Nat) (s : State) : Within s [.regs, .seq, .waits, .tiers, .fj, .time, .now, .rack, .sent] (execLoadTimeout idx s) := by
  unfold execLoadTimeout
  split
  · extract_lets +onlyGivenNames t_0
    have ht_0 : State.Touches s [.regs, .seq, .waits, .tiers, .fj, .time, .now, .rack, .sent] t_0 := by
      unfold t_0
      refine State.Touches.step (State.runTo_to _ _) ?_; exact State.Touches.refl _ _
    clear_value t_0
    refine Within.next ?_
    refine State.Touches.step (State.count_to _ _) ?_; refine State.Touches.step (State.loadFails_to _ _ _) ?_; exact ht_0
  · refine Within.occurs ?_ ?_
    · exact State.Touches.refl _ _
    · exact State.Touches.refl _ _

theorem State.fjRetry_to (s : State) (r : Sent × Nat) : s.Touches [.regs, .waits, .fj, .time, .now, .rack] (State.fjRetry s r) := by
  unfold State.fjRetry
  extract_lets +onlyGivenNames t_0
  have ht_0 : State.Touches s [.regs, .waits, .fj, .time, .now, .rack] t_0 := by
    unfold t_0
    refine State.Touches.step (State.runTo_to _ _) ?_; exact State.Touches.refl _ _
  clear_value t_0
  extract_lets +onlyGivenNames u_1
  extract_lets +onlyGivenNames u_2
  have hu_2 : State.Touches s [.regs, .waits, .fj, .time, .now, .rack] u_2 := by
    unfold u_2
    refine State.Touches.upd t_0 ?_
    exact ht_0
  clear_value u_2
  split
  · exact hu_2
  · extract_lets +onlyGivenNames k_3
    extract_lets +onlyGivenNames k_4
    refine State.Touches.step (State.dispatch_to _ _ _ _) ?_; exact hu_2

theorem execFjRetry_to (idx : Nat) (s : State) : Within s [.regs, .waits, .fj, .time, .now, .rack] (execFjRetry idx s) := by
  unfold execFjRetry
  split
  · refine Within.occurs ?_ ?_
    · exact State.Touches.refl _ _
    · refine State.Touches.step (State.fjRetry_to _ _) ?_; exact State.Touches.refl _ _
  · refine Within.occurs ?_ ?_
    · exact State.Touches.refl _ _
    · exact State.Touches.refl _ _

theorem State.transit_to (s : State) (p : Nat) (pkt : Packet) : s.Touches [.regs, .fj] (State.transit s p pkt) := by
  unfold State.transit
  extract_lets +onlyGivenNames k_0
  split
  · refine State.Touches.step (State.pmc_to _ _ _ _ _) ?_; refine State.Touches.step (State.count_to _ _) ?_
    refine State.Touches.of_some (by assumption) ?_
    refine WithinO.step (State.launch_to _ _ _ _) ?_
    exact State.Touches.refl _ _
  · refine State.Touches.step (State.dispatch_to _ _ _ _) ?_; exact State.Touches.refl _ _

theorem execFjTransit_to (p : Nat) (pkt : Packet) (s : State) : Within s [.regs, .sp, .fj] (execFjTransit p pkt s) := by
  unfold execFjTransit
  split
  · refine Within.occurs ?_ ?_
    · exact State.Touches.refl _ _
    · refine State.Touches.step (State.drainPump_to _) ?_; refine State.Touches.step (State.transit_to _ _ _) ?_
      refine State.Touches.of_some (by assumption) ?_
      refine WithinO.step (State.takeRx_to _ _ _) ?_
      exact State.Touches.refl _ _
  · refine Within.occurs ?_ ?_
    · exact State.Touches.refl _ _
    · exact State.Touches.refl _ _

theorem State.drainRx_to (s : State) (p vc epoch : Nat) : s.Touches [.regs, .fj] (State.drainRx s p vc epoch) := by
  unfold State.drainRx
  split
  · refine State.Touches.step (State.drainPump_to _) ?_
    refine State.Touches.upd s ?_
    exact State.Touches.refl _ _
  · refine State.Touches.step (State.count_to _ _) ?_; exact State.Touches.refl _ _

theorem execDrain_to (p vc epoch : Nat) (s : State) : Within s [.regs, .sp, .fj] (execDrain p vc epoch s) := by
  unfold execDrain
  split
  · split
    · refine Within.occurs ?_ ?_
      · exact State.Touches.refl _ _
      · split
        · refine State.Touches.step (State.dropPkt_to _ _) ?_
          refine State.Touches.of_some (by assumption) ?_
          refine WithinO.step (State.takeRx_to _ _ _) ?_
          exact State.Touches.refl _ _
        · refine State.Touches.step (State.drainRx_to _ _ _ _) ?_
          refine State.Touches.of_some (by assumption) ?_
          refine WithinO.step (State.takeRx_to _ _ _) ?_
          exact State.Touches.refl _ _
    · refine Within.occurs ?_ ?_
      · exact State.Touches.refl _ _
      · exact State.Touches.refl _ _
  · refine Within.occurs ?_ ?_
    · exact State.Touches.refl _ _
    · exact State.Touches.refl _ _

theorem execFjClearCounts_to (port : Nat) (s : State) : Within s [.regs] (execFjClearCounts port s) := by
  unfold execFjClearCounts
  refine Within.occurs ?_ ?_
  · exact State.Touches.refl _ _
  · refine State.Touches.step (State.zeroRegs_to _ _) ?_; exact State.Touches.refl _ _

theorem State.leaseRx_to (s : State) (q : Packet) : s.Touches [.regs, .fj] (State.leaseRx s q) := by
  unfold State.leaseRx
  extract_lets +onlyGivenNames d_0
  split
  · extract_lets +onlyGivenNames t_1
    have ht_1 : State.Touches s [.regs, .fj] t_1 := by
      unfold t_1
      refine State.Touches.step (State.fs_to _ _ _ _) ?_; refine State.Touches.step (State.wr_to _ _ _) ?_
      refine State.Touches.step (State.wr_to _ _ _) ?_; exact State.Touches.refl _ _
    clear_value t_1
    refine State.Touches.step (State.rxCount_to _ _) ?_
    refine State.Touches.upd t_1 ?_
    exact ht_1
  · refine State.Touches.step (State.count_to _ _) ?_; exact State.Touches.refl _ _

theorem execLease_to (p : Nat) (pkt : Packet) (s : State) : Within s [.regs, .links, .sp, .fj, .bud] (execLease p pkt s) := by
  unfold execLease
  split
  · extract_lets +onlyGivenNames r_0
    have hr_0 : State.Touches s [.regs, .links, .sp, .fj, .bud] r_0.2.2 := by
      unfold r_0
      refine State.Touches.step (State.inspect_to _ _) ?_
      refine State.Touches.of_some (by assumption) ?_
      refine WithinO.bind ?_ ?_
      · refine WithinO.step (State.takeRx_to _ _ _) ?_
        exact State.Touches.refl _ _
      · intro v1 v2
        refine WithinO.step (State.toHub_to _ _ _) ?_
        with_reducible assumption
    clear_value r_0
    refine Within.occurs ?_ ?_
    · exact State.Touches.refl _ _
    · refine State.Touches.step (State.drainPump_to _) ?_
      split
      · refine State.Touches.step (State.leaseRx_to _ _) ?_; exact hr_0
      · refine State.Touches.step (State.dropPkt_to _ _) ?_; exact hr_0
  · refine Within.occurs ?_ ?_
    · exact State.Touches.refl _ _
    · exact State.Touches.refl _ _

theorem execLeaseExpiry_to (s : State) : Within s [.regs, .waits, .time, .now, .rack] (execLeaseExpiry s) := by
  unfold execLeaseExpiry
  refine Within.occurs ?_ ?_
  · exact State.Touches.refl _ _
  · refine State.Touches.step (State.fs_to _ _ _ _) ?_; refine State.Touches.step (State.runToRack_to _ _) ?_; exact State.Touches.refl _ _

theorem State.wipeDomain_to (s : State) (i : Nat) : s.Touches [.far, .stamps] (State.wipeDomain s i) := by
  unfold State.wipeDomain
  split
  · exact State.Touches.refl _ _
  · extract_lets +onlyGivenNames ks_0
    extract_lets +onlyGivenNames lo_1
    extract_lets +onlyGivenNames hi_2
    extract_lets +onlyGivenNames gone_3
    refine State.Touches.upd s ?_
    exact State.Touches.refl _ _

theorem State.showDomain_to (s : State) (fenced i : Nat) (r : Rec) : s.Touches [.regs] (State.showDomain s fenced i r) := by
  unfold State.showDomain
  extract_lets +onlyGivenNames kind_0
  refine State.Touches.step (State.wr_to _ _ _) ?_; refine State.Touches.step (State.wr_to _ _ _) ?_; exact State.Touches.refl _ _

theorem State.setupDomain_to (s : State) (old new : List Rec) (named : Bool) (fenced i : Nat) : s.Touches [.regs, .far, .tiers, .stamps, .links, .fj, .kpu, .eru, .bud, .log, .sent] (State.setupDomain s old new named fenced i) := by
  unfold State.setupDomain
  split
  · exact State.Touches.refl _ _
  · extract_lets +onlyGivenNames keep_0
    extract_lets +onlyGivenNames t_1
    have ht_1 : State.Touches s [.regs, .far, .tiers, .stamps, .links, .fj, .kpu, .eru, .bud, .log, .sent] t_1 := by
      unfold t_1
      refine State.Touches.step (State.wipeDomain_to _ _) ?_; exact State.Touches.refl _ _
    clear_value t_1
    extract_lets +onlyGivenNames u_2
    have hu_2 : State.Touches s [.regs, .far, .tiers, .stamps, .links, .fj, .kpu, .eru, .bud, .log, .sent] u_2 := by
      unfold u_2
      split
      · refine State.Touches.step (State.wipeDomain_to _ _) ?_; refine State.Touches.step (State.showDomain_to _ _ _ _) ?_; exact ht_1
      · refine State.Touches.step (State.resetReg_to _ _) ?_; refine State.Touches.step (State.resetReg_to _ _) ?_; exact ht_1
    clear_value u_2
    split
    · extract_lets +onlyGivenNames v_3
      have hv_3 : State.Touches s [.regs, .far, .tiers, .stamps, .links, .fj, .kpu, .eru, .bud, .log, .sent] v_3 := by
        unfold v_3
        refine State.Touches.step (State.sendResync_to _) ?_; exact hu_2
      clear_value v_3
      split
      · refine State.Touches.step (State.parityResync_to _) ?_; exact hv_3
      · exact hv_3
    · exact hu_2

theorem State.unbindCtx_to (s : State) (x : Nat) : s.Touches [.regs, .seq] (State.unbindCtx s x) := by
  unfold State.unbindCtx
  refine State.Touches.step (State.fs_to _ _ _ _) ?_; refine State.Touches.step (State.setCtx_to _ _ _) ?_
  refine State.Touches.step (State.modCtx_to _ _ _) ?_; exact State.Touches.refl _ _

theorem State.setupCtx_to (s : State) (new : List Rec) (core i : Nat) : s.Touches [.regs, .seq] (State.setupCtx s new core i) := by
  unfold State.setupCtx
  extract_lets +onlyGivenNames x_0
  extract_lets +onlyGivenNames t_1
  have ht_1 : State.Touches s [.regs, .seq] t_1 := by
    unfold t_1
    refine State.Touches.step (State.dropQueued_to _ _) ?_; exact State.Touches.refl _ _
  clear_value t_1
  split
  · extract_lets +onlyGivenNames b_2
    split
    · extract_lets +onlyGivenNames u_3
      have hu_3 : State.Touches s [.regs, .seq] u_3 := by
        unfold u_3
        refine State.Touches.step (State.fs_to _ _ _ _) ?_; refine State.Touches.step (State.modCtx_to _ _ _) ?_; exact ht_1
      clear_value u_3
      extract_lets +onlyGivenNames st_4
      split
      · refine State.Touches.step (State.fs_to _ _ _ _) ?_; exact hu_3
      · split
        · refine State.Touches.step (State.startCtx_to _ _) ?_; exact hu_3
        · exact hu_3
    · refine State.Touches.step (State.unbindCtx_to _ _) ?_; exact ht_1
  · refine State.Touches.step (State.unbindCtx_to _ _) ?_; exact ht_1

theorem State.setupCore_to (s : State) (old new : List Rec) (named : Bool) (core : Nat) : s.Touches [.regs, .seq, .imem] (State.setupCore s old new named core) := by
  unfold State.setupCore
  split
  · exact State.Touches.refl _ _
  · extract_lets +onlyGivenNames w_0
    refine State.Touches.foldl ?_ ?_
    · refine State.Touches.upd s ?_
      exact State.Touches.refl _ _
    · intro v1 v2 v3
      refine State.Touches.step (State.setupCtx_to _ _ _ _) ?_; with_reducible assumption

theorem State.setupRing_to (s : State) (old new : List Rec) (id : Nat) : s.Touches [.regs, .seq] (State.setupRing s old new id) := by
  unfold State.setupRing
  split
  · exact State.Touches.refl _ _
  · extract_lets +onlyGivenNames t_0
    extract_lets +onlyGivenNames t_1
    have ht_1 : State.Touches s [.regs, .seq] t_1 := by
      unfold t_1
      refine State.Touches.upd s ?_
      exact State.Touches.refl _ _
    clear_value t_1
    split
    · refine State.Touches.step (State.wr_to _ _ _) ?_; exact ht_1
    · refine State.Touches.step (State.resetReg_to _ _) ?_; exact ht_1

theorem State.setupStream_to (s : State) (old new : List Rec) (n : Nat) : s.Touches [.host] (State.setupStream s old new n) := by
  unfold State.setupStream
  split
  · exact State.Touches.refl _ _
  · refine State.Touches.upd s ?_
    exact State.Touches.refl _ _

theorem State.setupAct_to (s : State) (new : List Rec) (a : Nat) : s.Touches [.regs] (State.setupAct s new a) := by
  unfold State.setupAct
  split
  · extract_lets +onlyGivenNames st_0
    extract_lets +onlyGivenNames k_1
    refine State.Touches.step (State.fs_to _ _ _ _) ?_; refine State.Touches.step (State.fs_to _ _ _ _) ?_
    refine State.Touches.step (State.fs_to _ _ _ _) ?_; refine State.Touches.step (State.fs_to _ _ _ _) ?_; exact State.Touches.refl _ _
  · refine State.Touches.step (State.resetReg_to _ _) ?_; exact State.Touches.refl _ _

theorem State.setupSgu_to (s : State) (new : List Rec) : s.Touches [.regs] (State.setupSgu s new) := by
  unfold State.setupSgu
  extract_lets +onlyGivenNames t_0
  have ht_0 : State.Touches s [.regs] t_0 := by
    unfold t_0
    refine State.Touches.step (State.fs_to _ _ _ _) ?_; refine State.Touches.step (State.fs_to _ _ _ _) ?_; exact State.Touches.refl _ _
  clear_value t_0
  refine State.Touches.foldl ?_ ?_
  · exact ht_0
  · intro v1 v2 v3
    extract_lets +onlyGivenNames k_4
    split
    · refine State.Touches.step (State.fs_to _ _ _ _) ?_; refine State.Touches.step (State.fs_to _ _ _ _) ?_
      refine State.Touches.step (State.fs_to _ _ _ _) ?_; refine State.Touches.step (State.fs_to _ _ _ _) ?_; with_reducible assumption
    · refine State.Touches.step (State.resetReg_to _ _) ?_; with_reducible assumption

theorem State.setupGroup_to (s : State) (old new : List Rec) : s.Touches [.regs, .eru] (State.setupGroup s old new) := by
  unfold State.setupGroup
  split
  · exact State.Touches.refl _ _
  · extract_lets +onlyGivenNames x_0
    have hx_0 : State.Touches s [.regs, .eru] x_0 := by
      unfold x_0
      refine State.Touches.step (State.fs_to _ _ _ _) ?_; refine State.Touches.step (State.fs_to _ _ _ _) ?_; exact State.Touches.refl _ _
    clear_value x_0
    extract_lets +onlyGivenNames members_1
    extract_lets +onlyGivenNames lost_2
    split
    · exact hx_0
    · refine State.Touches.step (State.fs_to _ _ _ _) ?_
      refine State.Touches.upd x_0 ?_
      exact hx_0

theorem State.recoverNone_to (s : State) : s.Touches [.regs, .log, .sent] (State.recoverNone s) := by
  unfold State.recoverNone
  extract_lets +onlyGivenNames d_0
  refine State.Touches.step (State.emit_to _ _) ?_; refine State.Touches.step (State.log_to _ _ _ _ _) ?_; exact State.Touches.refl _ _

theorem State.askFrame_to (s : State) (f : Nat) : s.Touches [.regs, .tiers, .links, .fj, .kpu, .bud, .log, .sent] (State.askFrame s f) := by
  unfold State.askFrame
  extract_lets +onlyGivenNames stride_0
  refine State.Touches.step (State.sendKeep_to _ _ _ _ _ _ _ _) ?_; exact State.Touches.refl _ _

theorem State.recoverBegin_to (s : State) : s.Touches [.regs, .tiers, .links, .fj, .kpu, .bud, .log, .freeCtr, .sent] (State.recoverBegin s) := by
  unfold State.recoverBegin
  extract_lets +onlyGivenNames sealed_0
  extract_lets +onlyGivenNames l_1
  extract_lets +onlyGivenNames f_2
  have hf_2 : State.Touches s [.regs, .tiers, .links, .fj, .kpu, .bud, .log, .freeCtr, .sent] f_2.2 := by
    unfold f_2
    refine State.Touches.step (State.free_to _) ?_; exact State.Touches.refl _ _
  clear_value f_2
  split
  · refine State.Touches.step (State.recoverNone_to _) ?_; exact hf_2
  · split
    · extract_lets +onlyGivenNames w3
      have hw3 : State.Touches s [.regs, .tiers, .links, .fj, .kpu, .bud, .log, .freeCtr, .sent] w3 := by
        unfold w3
        exact hf_2
      refine State.Touches.upd w3 ?_
      exact hw3
    · split
      · refine State.Touches.step (State.askFrame_to _ _) ?_
        extract_lets +onlyGivenNames w4
        have hw4 : State.Touches s [.regs, .tiers, .links, .fj, .kpu, .bud, .log, .freeCtr, .sent] w4 := by
          unfold w4
          exact hf_2
        refine State.Touches.upd w4 ?_
        exact hw4
      · refine State.Touches.step (State.recoverNone_to _) ?_; exact hf_2

theorem State.setupWard_to (s : State) (old new : List Rec) : s.Touches [.regs, .tiers, .links, .fj, .kpu, .bud, .log, .sent] (State.setupWard s old new) := by
  unfold State.setupWard
  extract_lets +onlyGivenNames v_0
  extract_lets +onlyGivenNames v_1
  have hv_1 : State.Touches s [.regs, .tiers, .links, .fj, .kpu, .bud, .log, .sent] v_1 := by
    unfold v_1
    split
    · split
      · exact State.Touches.refl _ _
      · refine State.Touches.step (State.fs_to _ _ _ _) ?_
        refine State.Touches.upd s ?_
        exact State.Touches.refl _ _
    · exact State.Touches.refl _ _
  clear_value v_1
  split
  · exact hv_1
  · refine State.Touches.step (State.sendKeep_to _ _ _ _ _ _ _ _) ?_; exact hv_1

theorem State.setupKeep_to (s : State) (old new : List Rec) : s.Touches [.regs, .tiers, .links, .fj, .kpu, .eru, .bud, .log, .freeCtr, .sent] (State.setupKeep s old new) := by
  unfold State.setupKeep
  extract_lets +onlyGivenNames role_0
  extract_lets +onlyGivenNames t_1
  have ht_1 : State.Touches s [.regs, .tiers, .links, .fj, .kpu, .eru, .bud, .log, .freeCtr, .sent] t_1 := by
    unfold t_1
    refine State.Touches.step (State.fs_to _ _ _ _) ?_; refine State.Touches.step (State.fs_to _ _ _ _) ?_; exact State.Touches.refl _ _
  clear_value t_1
  extract_lets +onlyGivenNames t_2
  extract_lets +onlyGivenNames t_3
  have ht_3 : State.Touches s [.regs, .tiers, .links, .fj, .kpu, .eru, .bud, .log, .freeCtr, .sent] t_3 := by
    unfold t_3
    split
    · exact ht_1
    · refine State.Touches.step (State.fs_to _ _ _ _) ?_
      refine State.Touches.upd t_1 ?_
      exact ht_1
  clear_value t_3
  extract_lets +onlyGivenNames t_4
  have ht_4 : State.Touches s [.regs, .tiers, .links, .fj, .kpu, .eru, .bud, .log, .freeCtr, .sent] t_4 := by
    unfold t_4
    split
    · refine State.Touches.step (State.recoverBegin_to _) ?_; exact ht_3
    · exact ht_3
  clear_value t_4
  extract_lets +onlyGivenNames v_5
  have hv_5 : State.Touches s [.regs, .tiers, .links, .fj, .kpu, .eru, .bud, .log, .freeCtr, .sent] v_5 := by
    unfold v_5
    refine State.Touches.step (State.setupWard_to _ _ _) ?_; refine State.Touches.step (State.setupGroup_to _ _ _) ?_; exact ht_4
  clear_value v_5
  split
  · exact hv_5
  · extract_lets +onlyGivenNames x_6
    extract_lets +onlyGivenNames x_7
    have hx_7 : State.Touches s [.regs, .tiers, .links, .fj, .kpu, .eru, .bud, .log, .freeCtr, .sent] x_7 := by
      unfold x_7
      refine State.Touches.step (State.setPair_to _ _) ?_
      refine State.Touches.upd v_5 ?_
      exact hv_5
    clear_value x_7
    split
    · exact hx_7
    · refine State.Touches.step (State.sendPair_to _) ?_; exact hx_7

theorem State.setupLimits_to (s : State) (old new : List Rec) : s.Touches [.regs] (State.setupLimits s old new) := by
  unfold State.setupLimits
  split
  · split
    · refine State.Touches.step (State.fs_to _ _ _ _) ?_; exact State.Touches.refl _ _
    · exact State.Touches.refl _ _
  · exact State.Touches.refl _ _

theorem State.install_to (s : State) (new : List Rec) (named : Nat → Nat → Bool) (fenced : Nat) : s.Touches [.regs, .far, .seq, .imem, .tiers, .stamps, .links, .sp, .fj, .cle, .kpu, .eru, .cfg, .bud, .host, .log, .freeCtr, .randCtr, .sent] (State.install s new named fenced) := by
  unfold State.install
  extract_lets +onlyGivenNames old_0
  extract_lets +onlyGivenNames s0_1
  have hs0_1 : State.Touches s [.regs, .far, .seq, .imem, .tiers, .stamps, .links, .sp, .fj, .cle, .kpu, .eru, .cfg, .bud, .host, .log, .freeCtr, .randCtr, .sent] s0_1 := by
    unfold s0_1
    refine State.Touches.foldl ?_ ?_
    · refine State.Touches.step (State.abortCalls_to _ _ _) ?_; exact State.Touches.refl _ _
    · intro v2 v3 v4
      refine State.Touches.step (State.setupDomain_to _ _ _ _ _ _) ?_; with_reducible assumption
  clear_value s0_1
  extract_lets +onlyGivenNames s1_5
  extract_lets +onlyGivenNames s1_6
  have hs1_6 : State.Touches s [.regs, .far, .seq, .imem, .tiers, .stamps, .links, .sp, .fj, .cle, .kpu, .eru, .cfg, .bud, .host, .log, .freeCtr, .randCtr, .sent] s1_6 := by
    unfold s1_6
    refine State.Touches.upd s0_1 ?_
    exact hs0_1
  clear_value s1_6
  extract_lets +onlyGivenNames s2_7
  have hs2_7 : State.Touches s [.regs, .far, .seq, .imem, .tiers, .stamps, .links, .sp, .fj, .cle, .kpu, .eru, .cfg, .bud, .host, .log, .freeCtr, .randCtr, .sent] s2_7 := by
    unfold s2_7
    refine State.Touches.foldl ?_ ?_
    · exact hs1_6
    · intro v8 v9 v10
      refine State.Touches.step (State.setupAct_to _ _ _) ?_; with_reducible assumption
  clear_value s2_7
  extract_lets +onlyGivenNames s3_11
  have hs3_11 : State.Touches s [.regs, .far, .seq, .imem, .tiers, .stamps, .links, .sp, .fj, .cle, .kpu, .eru, .cfg, .bud, .host, .log, .freeCtr, .randCtr, .sent] s3_11 := by
    unfold s3_11
    refine State.Touches.foldl ?_ ?_
    · exact hs2_7
    · intro v12 v13 v14
      refine State.Touches.step (State.setupRing_to _ _ _ _) ?_; with_reducible assumption
  clear_value s3_11
  extract_lets +onlyGivenNames ports_15
  extract_lets +onlyGivenNames s4_16
  have hs4_16 : State.Touches s [.regs, .far, .seq, .imem, .tiers, .stamps, .links, .sp, .fj, .cle, .kpu, .eru, .cfg, .bud, .host, .log, .freeCtr, .randCtr, .sent] s4_16 := by
    unfold s4_16
    refine State.Touches.foldl ?_ ?_
    · exact hs3_11
    · intro v17 v18 v19
      refine State.Touches.step (State.setupStream_to _ _ _ _) ?_; with_reducible assumption
  clear_value s4_16
  extract_lets +onlyGivenNames s5_20
  have hs5_20 : State.Touches s [.regs, .far, .seq, .imem, .tiers, .stamps, .links, .sp, .fj, .cle, .kpu, .eru, .cfg, .bud, .host, .log, .freeCtr, .randCtr, .sent] s5_20 := by
    unfold s5_20
    refine State.Touches.foldl ?_ ?_
    · exact hs4_16
    · intro v21 v22 v23
      refine State.Touches.step (State.setupCore_to _ _ _ _ _) ?_; with_reducible assumption
  clear_value s5_20
  extract_lets +onlyGivenNames s6_24
  have hs6_24 : State.Touches s [.regs, .far, .seq, .imem, .tiers, .stamps, .links, .sp, .fj, .cle, .kpu, .eru, .cfg, .bud, .host, .log, .freeCtr, .randCtr, .sent] s6_24 := by
    unfold s6_24
    refine State.Touches.step (State.setupKeep_to _ _ _) ?_; refine State.Touches.step (State.setupSgu_to _ _) ?_
    refine State.Touches.step (State.showGroups_to _) ?_; refine State.Touches.step (State.fs_to _ _ _ _) ?_
    refine State.Touches.step (State.fs_to _ _ _ _) ?_; exact hs5_20
  clear_value s6_24
  extract_lets +onlyGivenNames s7_25
  have hs7_25 : State.Touches s [.regs, .far, .seq, .imem, .tiers, .stamps, .links, .sp, .fj, .cle, .kpu, .eru, .cfg, .bud, .host, .log, .freeCtr, .randCtr, .sent] s7_25 := by
    unfold s7_25
    refine State.Touches.step (State.setupLimits_to _ _ _) ?_; exact hs6_24
  clear_value s7_25
  extract_lets +onlyGivenNames s8_26
  have hs8_26 : State.Touches s [.regs, .far, .seq, .imem, .tiers, .stamps, .links, .sp, .fj, .cle, .kpu, .eru, .cfg, .bud, .host, .log, .freeCtr, .randCtr, .sent] s8_26 := by
    unfold s8_26
    refine State.Touches.foldl ?_ ?_
    · exact hs7_25
    · intro v27 v28 v29
      split
      · with_reducible assumption
      · refine State.Touches.step (State.actSettle_to _ _) ?_; with_reducible assumption
  clear_value s8_26
  apply State.streamNotify_to (by decide)
  · exact State.Touches.refl _ _
  · refine State.Touches.foldl ?_ ?_
    · exact hs8_26
    · intro v30 v31 v32
      split
      · refine State.Touches.step (State.spConfigure_to _ _) ?_; with_reducible assumption
      · with_reducible assumption

theorem State.reloadDie_to (s : State) (d : Nat) : s.Touches [.regs, .seq, .imem] (State.reloadDie s d) := by
  unfold State.reloadDie
  extract_lets +onlyGivenNames c_0
  extract_lets +onlyGivenNames t_1
  have ht_1 : State.Touches s [.regs, .seq, .imem] t_1 := by
    unfold t_1
    refine State.Touches.foldl ?_ ?_
    · exact State.Touches.refl _ _
    · intro v2 v3 v4
      extract_lets +onlyGivenNames core_5
      extract_lets +onlyGivenNames w_6
      extract_lets +onlyGivenNames v_7
      extract_lets +onlyGivenNames v_8
      have hv_8 : State.Touches s [.regs, .seq, .imem] v_8 := by
        unfold v_8
        refine State.Touches.upd v2 ?_
        with_reducible assumption
      clear_value v_8
      refine State.Touches.foldl ?_ ?_
      · exact hv_8
      · intro v9 v10 v11
        refine State.Touches.step (State.setupCtx_to _ _ _ _) ?_; refine State.Touches.step (State.setCtx_to _ _ _) ?_
        refine State.Touches.step (State.dropQueued_to _ _) ?_; with_reducible assumption
  clear_value t_1
  refine State.Touches.foldl ?_ ?_
  · exact ht_1
  · intro v12 v13 v14
    refine State.Touches.step (State.setupRing_to _ _ _ _) ?_; with_reducible assumption

theorem State.eachHauno_to {z : State} {G : List Part} {s : State} {f : State → Nat → State} (hG : List.all ([] : List Part) G.contains = true) (hs : z.Touches G s) (hf : ∀ y0 y1, z.Touches G y0 → z.Touches G (f y0 y1)) : z.Touches G (State.eachHauno s f) := by
  unfold State.eachHauno
  refine State.Touches.foldl ?_ ?_
  · exact hs
  · intro v0 v1 v2
    apply hf; with_reducible assumption

theorem State.haunoPause_to (s : State) (on : Bool) : s.Touches [.regs, .sent] (State.haunoPause s on) := by
  unfold State.haunoPause
  apply State.eachHauno_to (by decide)
  · exact State.Touches.refl _ _
  · intro v0 v1 v2
    extract_lets +onlyGivenNames u_3
    have hu_3 : State.Touches s [.regs, .sent] u_3 := by
      unfold u_3
      refine State.Touches.step (State.fs_to _ _ _ _) ?_; with_reducible assumption
    clear_value u_3
    split
    · exact hu_3
    · refine State.Touches.step (State.haunoEvent_to _ _ _ _) ?_; exact hu_3

theorem State.passContexts_to (s : State) (pause : Bool) : s.Touches [.regs, .seq] (State.passContexts s pause) := by
  unfold State.passContexts
  refine State.Touches.foldl ?_ ?_
  · exact State.Touches.refl _ _
  · intro v0 v1 v2
    extract_lets +onlyGivenNames atStep_3
    extract_lets +onlyGivenNames u_4
    have hu_4 : State.Touches s [.regs, .seq] u_4 := by
      unfold u_4
      split
      · refine State.Touches.step (State.modCtx_to _ _ _) ?_; with_reducible assumption
      · with_reducible assumption
    clear_value u_4
    split
    · split
      · refine State.Touches.step (State.setCtx_to _ _ _) ?_; exact hu_4
      · split
        · refine State.Touches.step (State.setCtx_to _ _ _) ?_; exact hu_4
        · exact hu_4
    · exact hu_4

theorem State.askPause_to (s : State) (p : Pause) : s.Touches [.regs, .seq, .cle, .pause, .log, .sent] (State.askPause s p) := by
  unfold State.askPause
  extract_lets +onlyGivenNames t_0
  have ht_0 : State.Touches s [.regs, .seq, .cle, .pause, .log, .sent] t_0 := by
    unfold t_0
    refine State.Touches.foldl ?_ ?_
    · exact State.Touches.refl _ _
    · intro v1 v2 v3
      split
      · refine State.Touches.step (State.fs_to _ _ _ _) ?_; with_reducible assumption
      · with_reducible assumption
  clear_value t_0
  extract_lets +onlyGivenNames canaries_4
  extract_lets +onlyGivenNames t_5
  have ht_5 : State.Touches s [.regs, .seq, .cle, .pause, .log, .sent] t_5 := by
    unfold t_5
    refine State.Touches.upd t_0 ?_
    exact ht_0
  clear_value t_5
  extract_lets +onlyGivenNames t_6
  have ht_6 : State.Touches s [.regs, .seq, .cle, .pause, .log, .sent] t_6 := by
    unfold t_6
    refine State.Touches.foldl ?_ ?_
    · exact ht_5
    · intro v7 v8 v9
      split
      · refine State.Touches.step (State.setCtx_to _ _ _) ?_; with_reducible assumption
      · with_reducible assumption
  clear_value t_6
  extract_lets +onlyGivenNames t_10
  have ht_10 : State.Touches s [.regs, .seq, .cle, .pause, .log, .sent] t_10 := by
    unfold t_10
    refine State.Touches.step (State.cleHold_to _) ?_; refine State.Touches.step (State.haunoPause_to _ _) ?_
    refine State.Touches.step (State.passContexts_to _ _) ?_; exact ht_6
  clear_value t_10
  extract_lets +onlyGivenNames t_11
  have ht_11 : State.Touches s [.regs, .seq, .cle, .pause, .log, .sent] t_11 := by
    unfold t_11
    refine State.Touches.foldl ?_ ?_
    · exact ht_10
    · intro v12 v13 v14
      split
      · refine State.Touches.step (State.fs_to _ _ _ _) ?_; with_reducible assumption
      · with_reducible assumption
  clear_value t_11
  split
  · refine State.Touches.step (State.setState_to _ _) ?_; exact ht_11
  · exact ht_11

end Machine
end Sys2Proof
end

