-- ==== Sys2Proof/Laws/TouchHost.lean ====
section
/-!
SUPPORT. The operations of the image loader, the host commands and the pauses change at most the listed parts of the state (`State.Touches`): one lemma for each.
-/
namespace Sys2Proof
namespace Machine
set_option Elab.async false

theorem State.candidate_to (s : State) (c : List IRec) : s.Touches [.regs, .cfg] (State.candidate s c) := by
  unfold State.candidate
  extract_lets +onlyGivenNames k_0
  extract_lets +onlyGivenNames t_1
  have ht_1 : State.Touches s [.regs, .cfg] t_1 := by
    unfold t_1
    refine State.Touches.foldl ?_ ?_
    · exact State.Touches.refl _ _
    · intro v2 v3 v4
      split
      · split
        · refine State.Touches.step (State.showDomain_to _ _ _ _) ?_; with_reducible assumption
        · refine State.Touches.step (State.resetReg_to _ _) ?_; refine State.Touches.step (State.resetReg_to _ _) ?_; with_reducible assumption
      · with_reducible assumption
  clear_value t_1
  refine State.Touches.upd t_1 ?_
  exact ht_1

theorem imgWrite_to {z : State} {G : List Part} {port : Nat} {f : State → State} {s : State} (hG : List.all ([.regs] : List Part) G.contains = true) (hs : z.Touches G s) (hf : ∀ y0, z.Touches G y0 → z.Touches G (f y0)) : Within z G (imgWrite port f s) := by
  unfold imgWrite
  refine Within.occurs ?_ ?_
  · exact hs
  · split
    · apply hf; exact hs
    · refine State.Touches.step (State.raise_to _ _ _) ?_ (Part.all_trans hG); exact hs

theorem State.imgBegin_to (s : State) (kind : Nat) : s.Touches [.regs, .img] (State.imgBegin s kind) := by
  unfold State.imgBegin
  have ht : s.Touches [.regs, .img] (s.fs R.IMG_CTL F.IMG_CTL_kind kind) := (State.fs_to _ _ _ _).mono (by decide)
  extract_lets t
  split
  · exact ht
  · exact State.Touches.upd _ (State.Touches.step (State.fs_to _ _ _ _) (State.Touches.step (State.fs_to _ _ _ _) (State.Touches.step (State.fs_to _ _ _ _) ht)))

theorem execImgBegin_to (port kind : Nat) (s : State) : Within s [.regs, .img] (execImgBegin port kind s) := by
  unfold execImgBegin
  apply imgWrite_to (by decide)
  · exact State.Touches.refl _ _
  · intro v0 v1
    refine State.Touches.step (State.imgBegin_to _ _) ?_; with_reducible assumption

theorem State.imgResult_to (s : State) (code check kind slot rec : Nat) : s.Touches [.regs, .img, .sent] (State.imgResult s code check kind slot rec) := by
  unfold State.imgResult
  extract_lets +onlyGivenNames t_0
  have ht_0 : State.Touches s [.regs, .img, .sent] t_0 := by
    unfold t_0
    refine State.Touches.step (State.wr_to _ _ _) ?_; exact State.Touches.refl _ _
  clear_value t_0
  extract_lets +onlyGivenNames u_1
  have hu_1 : State.Touches s [.regs, .img, .sent] u_1 := by
    unfold u_1
    refine State.Touches.step (State.fs_to _ _ _ _) ?_; exact ht_0
  clear_value u_1
  extract_lets +onlyGivenNames run_2
  extract_lets +onlyGivenNames pend_3
  refine State.Touches.step (State.msixNow_to _ _ _) ?_
  refine State.Touches.upd u_1 ?_
  exact hu_1

theorem State.imgAbandon_to (s : State) : s.Touches [.regs, .img, .sent] (State.imgAbandon s) := by
  unfold State.imgAbandon
  split
  · exact State.Touches.refl _ _
  · refine State.Touches.step (State.imgResult_to _ _ _ _ _ _) ?_; exact State.Touches.refl _ _

theorem State.imgData_to (s : State) (size : Nat) (words : List Word) : s.Touches [.regs, .img, .sent] (State.imgData s size words) := by
  unfold State.imgData
  split
  · refine State.Touches.step (State.raise_to _ _ _) ?_; exact State.Touches.refl _ _
  · split
    · refine State.Touches.step (State.imgResult_to _ _ _ _ _ _) ?_; exact State.Touches.refl _ _
    · extract_lets +onlyGivenNames n_0
      extract_lets +onlyGivenNames room_1
      extract_lets +onlyGivenNames t_2
      have ht_2 : State.Touches s [.regs, .img, .sent] t_2 := by
        unfold t_2
        refine State.Touches.step (State.fsat_to _ _ _ _) ?_; exact State.Touches.refl _ _
      clear_value t_2
      refine State.Touches.upd t_2 ?_
      exact ht_2

theorem execImgDataWrite_to (port size : Nat) (words : List Word) (s : State) : Within s [.regs, .img, .sent] (execImgDataWrite port size words s) := by
  unfold execImgDataWrite
  apply imgWrite_to (by decide)
  · exact State.Touches.refl _ _
  · intro v0 v1
    refine State.Touches.step (State.imgData_to _ _ _) ?_; with_reducible assumption

theorem State.imgCommit_to (s : State) : s.Touches [.regs, .img] (State.imgCommit s) := by
  unfold State.imgCommit
  split
  · refine State.Touches.step (State.raise_to _ _ _) ?_; exact State.Touches.refl _ _
  · split
    · refine State.Touches.step (State.raise_to _ _ _) ?_; exact State.Touches.refl _ _
    · extract_lets +onlyGivenNames t_0
      have ht_0 : State.Touches s [.regs, .img] t_0 := by
        unfold t_0
        refine State.Touches.step (State.fs_to _ _ _ _) ?_; exact State.Touches.refl _ _
      clear_value t_0
      refine State.Touches.upd t_0 ?_
      exact ht_0

theorem execImgCommit_to (port : Nat) (s : State) : Within s [.regs, .img] (execImgCommit port s) := by
  unfold execImgCommit
  apply imgWrite_to (by decide)
  · exact State.Touches.refl _ _
  · intro v0 v1
    refine State.Touches.step (State.imgCommit_to _) ?_; with_reducible assumption

theorem State.imgAbort_to (s : State) : s.Touches [.regs, .img] (State.imgAbort s) := by
  unfold State.imgAbort
  split
  · exact State.Touches.refl _ _
  · extract_lets +onlyGivenNames t_0
    have ht_0 : State.Touches s [.regs, .img] t_0 := by
      unfold t_0
      refine State.Touches.step (State.fs_to _ _ _ _) ?_; exact State.Touches.refl _ _
    clear_value t_0
    refine State.Touches.upd t_0 ?_
    exact ht_0

theorem execImgAbort_to (port : Nat) (s : State) : Within s [.regs, .img] (execImgAbort port s) := by
  unfold execImgAbort
  apply imgWrite_to (by decide)
  · exact State.Touches.refl _ _
  · intro v0 v1
    refine State.Touches.step (State.imgAbort_to _) ?_; with_reducible assumption

theorem State.putDigest_to (s : State) (reg : Nat → Nat) (d : Bytes) : s.Touches [.regs] (State.putDigest s reg d) := by
  unfold State.putDigest
  refine State.Touches.foldl ?_ ?_
  · exact State.Touches.refl _ _
  · intro v0 v1 v2
    refine State.Touches.step (State.wr_to _ _ _) ?_; with_reducible assumption

theorem State.showSlots_to (s : State) : s.Touches [.regs] (State.showSlots s) := by
  unfold State.showSlots
  refine State.Touches.foldl ?_ ?_
  · exact State.Touches.refl _ _
  · intro v0 v1 v2
    extract_lets +onlyGivenNames i_3
    split
    · refine State.Touches.step (State.wr_to _ _ _) ?_; with_reducible assumption
    · refine State.Touches.step (State.wr_to _ _ _) ?_; with_reducible assumption

theorem State.raiseFloor_to (s : State) (e : Bytes) : s.Touches [.regs, .owner] (State.raiseFloor s e) := by
  unfold State.raiseFloor
  split
  · extract_lets +onlyGivenNames t_0
    have ht_0 : State.Touches s [.regs, .owner] t_0 := by
      unfold t_0
      refine State.Touches.step (State.wr_to _ _ _) ?_; exact State.Touches.refl _ _
    clear_value t_0
    refine State.Touches.upd t_0 ?_
    exact ht_0
  · exact State.Touches.refl _ _

theorem State.setBank_to (s : State) (i : Nat) (b : Option Bytes) : s.Touches [.fj] (State.setBank s i b) := by
  unfold State.setBank
  refine State.Touches.upd s ?_
  exact State.Touches.refl _ _

theorem State.loadBase_to (s : State) (digest : Bytes) (recs : List Rec) : s.Touches [.regs, .far, .seq, .imem, .tiers, .stamps, .links, .sp, .fj, .cle, .kpu, .eru, .cfg, .bud, .host, .log, .boundaryNo, .freeCtr, .randCtr, .sent] (State.loadBase s digest recs) := by
  unfold State.loadBase
  extract_lets +onlyGivenNames t_0
  extract_lets +onlyGivenNames t_1
  extract_lets +onlyGivenNames t_2
  have ht_2 : State.Touches s [.regs, .far, .seq, .imem, .tiers, .stamps, .links, .sp, .fj, .cle, .kpu, .eru, .cfg, .bud, .host, .log, .boundaryNo, .freeCtr, .randCtr, .sent] t_2 := by
    unfold t_2
    refine State.Touches.upd s ?_
    exact State.Touches.refl _ _
  clear_value t_2
  extract_lets +onlyGivenNames t_3
  have ht_3 : State.Touches s [.regs, .far, .seq, .imem, .tiers, .stamps, .links, .sp, .fj, .cle, .kpu, .eru, .cfg, .bud, .host, .log, .boundaryNo, .freeCtr, .randCtr, .sent] t_3 := by
    unfold t_3
    refine State.Touches.step (State.setBank_to _ _ _) ?_; refine State.Touches.step (State.setBank_to _ _ _) ?_
    refine State.Touches.step (State.putDigest_to _ _ _) ?_; exact ht_2
  clear_value t_3
  extract_lets +onlyGivenNames t_4
  have ht_4 : State.Touches s [.regs, .far, .seq, .imem, .tiers, .stamps, .links, .sp, .fj, .cle, .kpu, .eru, .cfg, .bud, .host, .log, .boundaryNo, .freeCtr, .randCtr, .sent] t_4 := by
    unfold t_4
    refine State.Touches.step (State.fs_to _ _ _ _) ?_; exact ht_3
  clear_value t_4
  extract_lets +onlyGivenNames t_5
  have ht_5 : State.Touches s [.regs, .far, .seq, .imem, .tiers, .stamps, .links, .sp, .fj, .cle, .kpu, .eru, .cfg, .bud, .host, .log, .boundaryNo, .freeCtr, .randCtr, .sent] t_5 := by
    unfold t_5
    refine State.Touches.upd t_4 ?_
    exact ht_4
  clear_value t_5
  extract_lets +onlyGivenNames u_6
  have hu_6 : State.Touches s [.regs, .far, .seq, .imem, .tiers, .stamps, .links, .sp, .fj, .cle, .kpu, .eru, .cfg, .bud, .host, .log, .boundaryNo, .freeCtr, .randCtr, .sent] u_6 := by
    unfold u_6
    refine State.Touches.step (State.install_to _ _ _ _) ?_; exact ht_5
  clear_value u_6
  extract_lets +onlyGivenNames u_7
  have hu_7 : State.Touches s [.regs, .far, .seq, .imem, .tiers, .stamps, .links, .sp, .fj, .cle, .kpu, .eru, .cfg, .bud, .host, .log, .boundaryNo, .freeCtr, .randCtr, .sent] u_7 := by
    unfold u_7
    refine State.Touches.step (State.putDigest_to _ _ _) ?_; exact hu_6
  clear_value u_7
  split
  · refine State.Touches.step (State.setState_to _ _) ?_; exact hu_7
  · exact hu_7

theorem State.loadOverlay_to (s : State) (e : Bytes) (digest : Bytes) (recs : List Rec) : s.Touches [.regs, .cfg] (State.loadOverlay s e digest recs) := by
  unfold State.loadOverlay
  extract_lets +onlyGivenNames o_0
  refine State.Touches.step (State.showSlots_to _) ?_
  refine State.Touches.upd s ?_
  exact State.Touches.refl _ _

theorem State.imgCheckDone_to (s : State) : s.Touches [.regs, .far, .seq, .imem, .tiers, .stamps, .links, .sp, .fj, .cle, .kpu, .eru, .img, .cfg, .bud, .host, .log, .owner, .boundaryNo, .freeCtr, .randCtr, .sent] (State.imgCheckDone s) := by
  unfold State.imgCheckDone
  extract_lets +onlyGivenNames e_0
  extract_lets +onlyGivenNames kind_1
  extract_lets +onlyGivenNames slot_2
  split
  · refine State.Touches.step (State.imgResult_to _ _ _ _ _ _) ?_; exact State.Touches.refl _ _
  · extract_lets +onlyGivenNames d_3
    extract_lets +onlyGivenNames t_4
    have ht_4 : State.Touches s [.regs, .far, .seq, .imem, .tiers, .stamps, .links, .sp, .fj, .cle, .kpu, .eru, .img, .cfg, .bud, .host, .log, .owner, .boundaryNo, .freeCtr, .randCtr, .sent] t_4 := by
      unfold t_4
      refine State.Touches.step (State.imgResult_to _ _ _ _ _ _) ?_; refine State.Touches.step (State.raiseFloor_to _ _) ?_
      exact State.Touches.refl _ _
    clear_value t_4
    split
    · refine State.Touches.step (State.loadBase_to _ _ _) ?_; exact ht_4
    · refine State.Touches.step (State.loadOverlay_to _ _ _ _) ?_; exact ht_4

theorem execImgCheckDone_to (s : State) : Within s [.regs, .far, .seq, .imem, .tiers, .stamps, .links, .sp, .fj, .cle, .kpu, .eru, .img, .cfg, .bud, .host, .log, .owner, .boundaryNo, .freeCtr, .randCtr, .sent] (execImgCheckDone s) := by
  unfold execImgCheckDone
  refine Within.occurs ?_ ?_
  · exact State.Touches.refl _ _
  · refine State.Touches.step (State.imgCheckDone_to _) ?_; exact State.Touches.refl _ _

theorem State.cancelApply_to (s : State) (code check : Nat) : s.Touches [.regs, .img] (State.cancelApply s code check) := by
  unfold State.cancelApply
  extract_lets +onlyGivenNames t_0
  have ht_0 : State.Touches s [.regs, .img] t_0 := by
    unfold t_0
    refine State.Touches.step (State.fs_to _ _ _ _) ?_; refine State.Touches.step (State.fs_to _ _ _ _) ?_
    refine State.Touches.step (State.fs_to _ _ _ _) ?_; refine State.Touches.step (State.fs_to _ _ _ _) ?_; exact State.Touches.refl _ _
  clear_value t_0
  extract_lets +onlyGivenNames run_1
  refine State.Touches.step (State.showSlots_to _) ?_
  refine State.Touches.upd t_0 ?_
  exact ht_0

theorem State.applyActive_to (s : State) : s.Touches [.regs, .far, .seq, .imem, .tiers, .stamps, .links, .sp, .fj, .cle, .kpu, .eru, .img, .cfg, .bud, .host, .log, .boundaryNo, .freeCtr, .randCtr, .sent] (State.applyActive s) := by
  unfold State.applyActive
  split
  · exact State.Touches.refl _ _
  · split
    · refine State.Touches.step (State.cancelApply_to _ _ _) ?_; exact State.Touches.refl _ _
    · extract_lets +onlyGivenNames moved_0
      extract_lets +onlyGivenNames timing_1
      extract_lets +onlyGivenNames t_2
      have ht_2 : State.Touches s [.regs, .far, .seq, .imem, .tiers, .stamps, .links, .sp, .fj, .cle, .kpu, .eru, .img, .cfg, .bud, .host, .log, .boundaryNo, .freeCtr, .randCtr, .sent] t_2 := by
        unfold t_2
        refine State.Touches.step (State.install_to _ _ _ _) ?_; exact State.Touches.refl _ _
      clear_value t_2
      extract_lets +onlyGivenNames u_3
      have hu_3 : State.Touches s [.regs, .far, .seq, .imem, .tiers, .stamps, .links, .sp, .fj, .cle, .kpu, .eru, .img, .cfg, .bud, .host, .log, .boundaryNo, .freeCtr, .randCtr, .sent] u_3 := by
        unfold u_3
        split
        · refine State.Touches.step (State.epochSwitch_to _) ?_; exact ht_2
        · exact ht_2
      clear_value u_3
      extract_lets +onlyGivenNames u_4
      have hu_4 : State.Touches s [.regs, .far, .seq, .imem, .tiers, .stamps, .links, .sp, .fj, .cle, .kpu, .eru, .img, .cfg, .bud, .host, .log, .boundaryNo, .freeCtr, .randCtr, .sent] u_4 := by
        unfold u_4
        split
        · exact hu_3
        · refine State.Touches.upd u_3 ?_
          exact hu_3
      clear_value u_4
      extract_lets +onlyGivenNames v_5
      have hv_5 : State.Touches s [.regs, .far, .seq, .imem, .tiers, .stamps, .links, .sp, .fj, .cle, .kpu, .eru, .img, .cfg, .bud, .host, .log, .boundaryNo, .freeCtr, .randCtr, .sent] v_5 := by
        unfold v_5
        refine State.Touches.step (State.fs_to _ _ _ _) ?_; refine State.Touches.step (State.fs_to _ _ _ _) ?_
        refine State.Touches.step (State.fs_to _ _ _ _) ?_; refine State.Touches.step (State.fs_to _ _ _ _) ?_
        refine State.Touches.step (State.fs_to _ _ _ _) ?_; exact hu_4
      clear_value v_5
      extract_lets +onlyGivenNames w_6
      extract_lets +onlyGivenNames w_7
      have hw_7 : State.Touches s [.regs, .far, .seq, .imem, .tiers, .stamps, .links, .sp, .fj, .cle, .kpu, .eru, .img, .cfg, .bud, .host, .log, .boundaryNo, .freeCtr, .randCtr, .sent] w_7 := by
        unfold w_7
        refine State.Touches.step (State.showSlots_to _) ?_
        refine State.Touches.upd v_5 ?_
        exact hv_5
      clear_value w_7
      extract_lets +onlyGivenNames d_8
      extract_lets +onlyGivenNames x_9
      have hx_9 : State.Touches s [.regs, .far, .seq, .imem, .tiers, .stamps, .links, .sp, .fj, .cle, .kpu, .eru, .img, .cfg, .bud, .host, .log, .boundaryNo, .freeCtr, .randCtr, .sent] x_9 := by
        unfold x_9
        refine State.Touches.step (State.journal_to _ _ _ _ _) ?_; refine State.Touches.step (State.putDigest_to _ _ _) ?_; exact hw_7
      clear_value x_9
      refine State.Touches.step (State.msixNow_to _ _ _) ?_; refine State.Touches.step (State.log_to _ _ _ _ _) ?_; exact hx_9

theorem State.applyParked_to (s : State) : s.Touches [.regs, .far, .seq, .imem, .tiers, .stamps, .links, .sp, .fj, .cle, .kpu, .eru, .img, .cfg, .bud, .host, .pause, .log, .boundaryNo, .freeCtr, .randCtr, .sent] (State.applyParked s) := by
  unfold State.applyParked
  split
  · refine State.Touches.upd s ?_
    exact State.Touches.refl _ _
  · split
    · refine State.Touches.step (State.applyActive_to _) ?_; exact State.Touches.refl _ _
    · refine State.Touches.step (State.askPause_to _ _) ?_; exact State.Touches.refl _ _

theorem State.tryBank_to (s : State) : s.Touches [.regs, .far, .seq, .imem, .tiers, .stamps, .links, .sp, .fj, .cle, .kpu, .eru, .img, .cfg, .bud, .host, .pause, .log, .boundaryNo, .freeCtr, .randCtr, .sent] (State.tryBank s) := by
  unfold State.tryBank
  split
  · exact State.Touches.refl _ _
  · split
    · exact State.Touches.refl _ _
    · extract_lets +onlyGivenNames need_0
      extract_lets +onlyGivenNames ready_1
      have hready_1 : ∀ a0, State.Touches s [.regs, .far, .seq, .imem, .tiers, .stamps, .links, .sp, .fj, .cle, .kpu, .eru, .img, .cfg, .bud, .host, .pause, .log, .boundaryNo, .freeCtr, .randCtr, .sent] a0 → State.Touches s [.regs, .far, .seq, .imem, .tiers, .stamps, .links, .sp, .fj, .cle, .kpu, .eru, .img, .cfg, .bud, .host, .pause, .log, .boundaryNo, .freeCtr, .randCtr, .sent] (ready_1 a0) := by
        unfold ready_1
        intro v2 v3
        extract_lets +onlyGivenNames u_4
        extract_lets +onlyGivenNames u_5
        have hu_5 : State.Touches s [.regs, .far, .seq, .imem, .tiers, .stamps, .links, .sp, .fj, .cle, .kpu, .eru, .img, .cfg, .bud, .host, .pause, .log, .boundaryNo, .freeCtr, .randCtr, .sent] u_5 := by
          unfold u_5
          refine State.Touches.upd v2 ?_
          with_reducible assumption
        clear_value u_5
        split
        · refine State.Touches.step (State.applyParked_to _) ?_; exact hu_5
        · exact hu_5
      clear_value ready_1
      split
      · apply hready_1; exact State.Touches.refl _ _
      · split
        · apply hready_1; refine State.Touches.step (State.setBank_to _ _ _) ?_; exact State.Touches.refl _ _
        · split
          · split
            · refine State.Touches.step (State.cancelApply_to _ _ _) ?_; exact State.Touches.refl _ _
            · refine State.Touches.upd s ?_
              exact State.Touches.refl _ _
          · refine State.Touches.upd s ?_
            exact State.Touches.refl _ _

theorem State.applyCheckDone_to (s : State) (set : Nat) : s.Touches [.regs, .far, .seq, .imem, .tiers, .stamps, .links, .sp, .fj, .cle, .kpu, .eru, .img, .cfg, .bud, .host, .pause, .log, .boundaryNo, .freeCtr, .randCtr, .sent] (State.applyCheckDone s set) := by
  unfold State.applyCheckDone
  extract_lets +onlyGivenNames t_0
  extract_lets +onlyGivenNames t_1
  have ht_1 : State.Touches s [.regs, .far, .seq, .imem, .tiers, .stamps, .links, .sp, .fj, .cle, .kpu, .eru, .img, .cfg, .bud, .host, .pause, .log, .boundaryNo, .freeCtr, .randCtr, .sent] t_1 := by
    unfold t_1
    refine State.Touches.upd s ?_
    exact State.Touches.refl _ _
  clear_value t_1
  split
  · refine State.Touches.step (State.cmdEnds_to _ _ _ _) ?_; refine State.Touches.step (State.cancelApply_to _ _ _) ?_; exact ht_1
  · extract_lets +onlyGivenNames u_2
    have hu_2 : State.Touches s [.regs, .far, .seq, .imem, .tiers, .stamps, .links, .sp, .fj, .cle, .kpu, .eru, .img, .cfg, .bud, .host, .pause, .log, .boundaryNo, .freeCtr, .randCtr, .sent] u_2 := by
      unfold u_2
      refine State.Touches.step (State.fs_to _ _ _ _) ?_; exact ht_1
    clear_value u_2
    extract_lets +onlyGivenNames u_3
    extract_lets +onlyGivenNames u_4
    have hu_4 : State.Touches s [.regs, .far, .seq, .imem, .tiers, .stamps, .links, .sp, .fj, .cle, .kpu, .eru, .img, .cfg, .bud, .host, .pause, .log, .boundaryNo, .freeCtr, .randCtr, .sent] u_4 := by
      unfold u_4
      refine State.Touches.upd u_2 ?_
      exact hu_2
    clear_value u_4
    refine State.Touches.step (State.tryBank_to _) ?_; refine State.Touches.step (State.cmdEnds_to _ _ _ _) ?_; exact hu_4

theorem execApplyCheckDone_to (s : State) : Within s [.regs, .far, .seq, .imem, .tiers, .stamps, .links, .sp, .fj, .cle, .kpu, .eru, .img, .cfg, .bud, .host, .pause, .log, .boundaryNo, .freeCtr, .randCtr, .sent] (execApplyCheckDone s) := by
  unfold execApplyCheckDone
  refine Within.occurs ?_ ?_
  · exact State.Touches.refl _ _
  · refine State.Touches.step (State.applyCheckDone_to _ _) ?_; exact State.Touches.refl _ _

theorem execRoutingBankRetry_to (s : State) : Within s [.regs, .far, .seq, .waits, .imem, .tiers, .stamps, .links, .sp, .fj, .cle, .kpu, .eru, .img, .cfg, .bud, .host, .pause, .log, .time, .now, .rack, .boundaryNo, .freeCtr, .randCtr, .sent] (execRoutingBankRetry s) := by
  unfold execRoutingBankRetry
  split
  · refine Within.occurs ?_ ?_
    · exact State.Touches.refl _ _
    · refine State.Touches.step (State.tryBank_to _) ?_; refine State.Touches.step (State.runTo_to _ _) ?_; exact State.Touches.refl _ _
  · refine Within.next ?_
    exact State.Touches.refl _ _

theorem execApplyRecheckDone_to (s : State) : Within s [.regs, .far, .seq, .imem, .tiers, .stamps, .links, .sp, .fj, .cle, .kpu, .eru, .img, .cfg, .bud, .host, .pause, .log, .boundaryNo, .freeCtr, .randCtr, .sent] (execApplyRecheckDone s) := by
  unfold execApplyRecheckDone
  split
  · extract_lets +onlyGivenNames t_0
    extract_lets +onlyGivenNames t_1
    have ht_1 : State.Touches s [.regs, .far, .seq, .imem, .tiers, .stamps, .links, .sp, .fj, .cle, .kpu, .eru, .img, .cfg, .bud, .host, .pause, .log, .boundaryNo, .freeCtr, .randCtr, .sent] t_1 := by
      unfold t_1
      refine State.Touches.upd s ?_
      exact State.Touches.refl _ _
    clear_value t_1
    refine Within.next ?_
    split
    · refine State.Touches.step (State.cancelApply_to _ _ _) ?_; exact ht_1
    · extract_lets +onlyGivenNames u_2
      extract_lets +onlyGivenNames u_3
      have hu_3 : State.Touches s [.regs, .far, .seq, .imem, .tiers, .stamps, .links, .sp, .fj, .cle, .kpu, .eru, .img, .cfg, .bud, .host, .pause, .log, .boundaryNo, .freeCtr, .randCtr, .sent] u_3 := by
        unfold u_3
        refine State.Touches.upd t_1 ?_
        exact ht_1
      clear_value u_3
      split
      · split
        · refine State.Touches.step (State.applyParked_to _) ?_; exact hu_3
        · exact hu_3
      · split
        · refine State.Touches.step (State.applyParked_to _) ?_; exact hu_3
        · exact hu_3
  · refine Within.next ?_
    exact State.Touches.refl _ _

theorem State.cmdBegin_to (s : State) (port op tag : Nat) : s.Touches [.regs, .host] (State.cmdBegin s port op tag) := by
  unfold State.cmdBegin
  extract_lets +onlyGivenNames c_0
  extract_lets +onlyGivenNames k_1
  extract_lets +onlyGivenNames t_2
  have ht_2 : State.Touches s [.regs, .host] t_2 := by
    unfold t_2
    refine State.Touches.step (State.fs_to _ _ _ _) ?_; refine State.Touches.step (State.fs_to _ _ _ _) ?_
    refine State.Touches.step (State.fs_to _ _ _ _) ?_; exact State.Touches.refl _ _
  clear_value t_2
  refine State.Touches.upd t_2 ?_
  exact ht_2

theorem State.cmdReady_to (s : State) (port code : Nat) (res : List Word) : s.Touches [.host] (State.cmdReady s port code res) := by
  unfold State.cmdReady
  split
  · refine State.Touches.upd s ?_
    exact State.Touches.refl _ _
  · exact State.Touches.refl _ _

theorem State.cmdOverrun_to (s : State) (port : Nat) : s.Touches [.regs] (State.cmdOverrun s port) := by
  unfold State.cmdOverrun
  refine State.Touches.step (State.raise_to _ _ _) ?_; exact State.Touches.refl _ _

theorem State.push_to {z : State} {G : List Part} {s : State} {port op tag : Nat} {code : State → List Word → Nat} {f : State → List Word → State} (hG : List.all ([.regs, .host] : List Part) G.contains = true) (hs : z.Touches G s) (hf : ∀ y0 y1, z.Touches G y0 → z.Touches G (f y0 y1)) : z.Touches G (State.push s port op tag code f) := by
  unfold State.push
  split
  · refine State.Touches.step (State.cmdOverrun_to _ _) ?_ (Part.all_trans hG); exact hs
  · extract_lets +onlyGivenNames args_0
    extract_lets +onlyGivenNames t_1
    have ht_1 : State.Touches z G t_1 := by
      unfold t_1
      refine State.Touches.step (State.cmdBegin_to _ _ _ _) ?_ (Part.all_trans hG); exact hs
    clear_value t_1
    extract_lets +onlyGivenNames c_2
    split
    · apply hf; exact ht_1
    · refine State.Touches.step (State.cmdReady_to _ _ _ _) ?_ (Part.all_trans hG); exact ht_1

theorem pushRow_to {z : State} {G : List Part} {port op tag : Nat} {code : State → List Word → Nat} {f : State → List Word → State} {s : State} (hG : List.all ([.regs, .host] : List Part) G.contains = true) (hs : z.Touches G s) (hf : ∀ y0 y1, z.Touches G y0 → z.Touches G (f y0 y1)) : Within z G (pushRow port op tag code f s) := by
  unfold pushRow
  refine Within.occurs ?_ ?_
  · exact hs
  · apply State.push_to (Part.all_trans hG)
    · exact hs
    · intro v0 v1 v2
      apply hf; with_reducible assumption

theorem execCmdNop_to (port tag : Nat) (s : State) : Within s [.regs, .host] (execCmdNop port tag s) := by
  unfold execCmdNop
  apply pushRow_to (by decide)
  · exact State.Touches.refl _ _
  · intro v0 v1 v2
    refine State.Touches.step (State.cmdReady_to _ _ _ _) ?_; with_reducible assumption

theorem execCmdUnknownOpcode_to (port opcode tag : Nat) (s : State) : Within s [.regs, .host] (execCmdUnknownOpcode port opcode tag s) := by
  unfold execCmdUnknownOpcode
  split
  · apply pushRow_to (by decide)
    · exact State.Touches.refl _ _
    · intro v0 v1 v2
      with_reducible assumption
  · refine Within.next ?_
    exact State.Touches.refl _ _

theorem execCmdPushBusy_to (port : Nat) (s : State) : Within s [.regs] (execCmdPushBusy port s) := by
  unfold execCmdPushBusy
  refine Within.occurs ?_ ?_
  · exact State.Touches.refl _ _
  · refine State.Touches.step (State.cmdOverrun_to _ _) ?_; exact State.Touches.refl _ _

theorem execStart_to (port tag : Nat) (s : State) : Within s [.regs, .host] (execStart port tag s) := by
  unfold execStart
  apply pushRow_to (by decide)
  · exact State.Touches.refl _ _
  · intro v0 v1 v2
    refine State.Touches.step (State.cmdReady_to _ _ _ _) ?_
    refine State.Touches.upd v0 ?_
    with_reducible assumption

theorem State.cancelStarts_to (s : State) (m : List Nat) : s.Touches [.host] (State.cancelStarts s m) := by
  unfold State.cancelStarts
  refine State.Touches.upd s ?_
  exact State.Touches.refl _ _

theorem State.cancelWaiting_to (s : State) : s.Touches [.regs, .img] (State.cancelWaiting s) := by
  unfold State.cancelWaiting
  split
  · refine State.Touches.step (State.cancelApply_to _ _ _) ?_; exact State.Touches.refl _ _
  · exact State.Touches.refl _ _

theorem State.stopAct_to (s : State) (a : Nat) : s.Touches [.regs, .seq] (State.stopAct s a) := by
  unfold State.stopAct
  split
  · exact State.Touches.refl _ _
  · refine State.Touches.step (State.setAct_to _ _ _) ?_
    refine State.Touches.foldl ?_ ?_
    · exact State.Touches.refl _ _
    · intro v0 v1 v2
      refine State.Touches.step (State.haltCtx_to _ _ _) ?_; with_reducible assumption

theorem execStop_to (port tag : Nat) (s : State) : Within s [.regs, .seq, .img, .host] (execStop port tag s) := by
  unfold execStop
  apply pushRow_to (by decide)
  · exact State.Touches.refl _ _
  · intro v0 v1 v2
    refine State.Touches.step (State.cmdReady_to _ _ _ _) ?_; refine State.Touches.step (State.cancelWaiting_to _) ?_
    refine State.Touches.step (State.cancelStarts_to _ _) ?_
    refine State.Touches.foldl ?_ ?_
    · with_reducible assumption
    · intro v3 v4 v5
      refine State.Touches.step (State.stopAct_to _ _) ?_; with_reducible assumption

theorem State.teardownAct_to (s : State) (a : Nat) : s.Touches [.regs, .seq, .fj, .cle, .bud, .host, .log, .sent] (State.teardownAct s a) := by
  unfold State.teardownAct
  split
  · exact State.Touches.refl _ _
  · extract_lets +onlyGivenNames xs_0
    extract_lets +onlyGivenNames t_1
    have ht_1 : State.Touches s [.regs, .seq, .fj, .cle, .bud, .host, .log, .sent] t_1 := by
      unfold t_1
      refine State.Touches.foldl ?_ ?_
      · refine State.Touches.step (State.emptyStreams_to _ _) ?_; exact State.Touches.refl _ _
      · intro v2 v3 v4
        refine State.Touches.step (State.modCtx_to _ _ _) ?_; refine State.Touches.step (State.setCtx_to _ _ _) ?_
        refine State.Touches.step (State.dropQueued_to _ _) ?_; with_reducible assumption
    clear_value t_1
    extract_lets +onlyGivenNames fj_5
    extract_lets +onlyGivenNames fj_6
    extract_lets +onlyGivenNames gone_7
    refine State.Touches.step (State.setAct_to _ _ _) ?_; refine State.Touches.step (State.abortCalls_to _ _ _) ?_
    extract_lets +onlyGivenNames w8
    have hw8 : State.Touches s [.regs, .seq, .fj, .cle, .bud, .host, .log, .sent] w8 := by
      unfold w8
      refine State.Touches.step (State.countN_to _ _ _) ?_; exact ht_1
    refine State.Touches.upd w8 ?_
    exact hw8

theorem execTeardown_to (port tag : Nat) (s : State) : Within s [.regs, .seq, .fj, .cle, .img, .bud, .host, .log, .sent] (execTeardown port tag s) := by
  unfold execTeardown
  apply pushRow_to (by decide)
  · exact State.Touches.refl _ _
  · intro v0 v1 v2
    refine State.Touches.step (State.cmdReady_to _ _ _ _) ?_; apply State.streamNotify_to (by decide)
    · with_reducible assumption
    · refine State.Touches.step (State.cancelWaiting_to _) ?_; refine State.Touches.step (State.cancelStarts_to _ _) ?_
      refine State.Touches.foldl ?_ ?_
      · with_reducible assumption
      · intro v3 v4 v5
        refine State.Touches.step (State.teardownAct_to _ _) ?_; with_reducible assumption

theorem State.teardownKey_to (s : State) (key : Nat) : s.Touches [.regs, .seq, .fj, .cle, .bud, .host, .log, .sent] (State.teardownKey s key) := by
  unfold State.teardownKey
  extract_lets +onlyGivenNames m_0
  extract_lets +onlyGivenNames xs_1
  extract_lets +onlyGivenNames t_2
  have ht_2 : State.Touches s [.regs, .seq, .fj, .cle, .bud, .host, .log, .sent] t_2 := by
    unfold t_2
    refine State.Touches.foldl ?_ ?_
    · exact State.Touches.refl _ _
    · intro v3 v4 v5
      refine State.Touches.step (State.teardownAct_to _ _) ?_; refine State.Touches.step (State.stopAct_to _ _) ?_; with_reducible assumption
  clear_value t_2
  apply State.streamNotify_to (by decide)
  · exact State.Touches.refl _ _
  · refine State.Touches.step (State.cancelStarts_to _ _) ?_; refine State.Touches.step (State.clearPairs_to _ _) ?_; exact ht_2

theorem execApply_to (port tag : Nat) (s : State) : Within s [.regs, .img, .host] (execApply port tag s) := by
  unfold execApply
  apply pushRow_to (by decide)
  · exact State.Touches.refl _ _
  · intro v0 v1 v2
    extract_lets +onlyGivenNames set_3
    split
    · refine State.Touches.step (State.cmdReady_to _ _ _ _) ?_; with_reducible assumption
    · extract_lets +onlyGivenNames u_4
      have hu_4 : State.Touches s [.regs, .img, .host] u_4 := by
        unfold u_4
        refine State.Touches.step (State.fs_to _ _ _ _) ?_; refine State.Touches.step (State.fs_to _ _ _ _) ?_; with_reducible assumption
      clear_value u_4
      refine State.Touches.step (State.showSlots_to _) ?_
      refine State.Touches.upd u_4 ?_
      exact hu_4

theorem execSnapshotNow_to (port tag : Nat) (s : State) : Within s [.regs, .host] (execSnapshotNow port tag s) := by
  unfold execSnapshotNow
  apply pushRow_to (by decide)
  · exact State.Touches.refl _ _
  · intro v0 v1 v2
    refine State.Touches.upd v0 ?_
    with_reducible assumption

theorem State.dieClear_to (s : State) (d : Nat) : s.Touches [.regs, .mem, .far, .seq, .waits, .imem, .tiers, .stamps] (State.dieClear s d) := by
  unfold State.dieClear
  extract_lets +onlyGivenNames sq_0
  extract_lets +onlyGivenNames t_1
  extract_lets +onlyGivenNames t_2
  have ht_2 : State.Touches s [.regs, .mem, .far, .seq, .waits, .imem, .tiers, .stamps] t_2 := by
    unfold t_2
    refine State.Touches.upd s ?_
    exact State.Touches.refl _ _
  clear_value t_2
  extract_lets +onlyGivenNames lo_3
  extract_lets +onlyGivenNames u_4
  have hu_4 : State.Touches s [.regs, .mem, .far, .seq, .waits, .imem, .tiers, .stamps] u_4 := by
    unfold u_4
    refine State.Touches.step (State.eccClear_to _ _ _) ?_; refine State.Touches.step (State.eccClear_to _ _ _) ?_
    refine State.Touches.step (State.eccClear_to _ _ _) ?_; exact ht_2
  clear_value u_4
  refine State.Touches.step (State.loadRepair_to _ _) ?_; exact hu_4

theorem State.dieReset_to (s : State) (d : Nat) : s.Touches [.regs, .mem, .far, .seq, .waits, .imem, .tiers, .stamps, .links, .sp, .fj, .cle, .img, .bud, .host, .pause, .log, .mgt, .sent] (State.dieReset s d) := by
  unfold State.dieReset
  extract_lets +onlyGivenNames t_0
  have ht_0 : State.Touches s [.regs, .mem, .far, .seq, .waits, .imem, .tiers, .stamps, .links, .sp, .fj, .cle, .img, .bud, .host, .pause, .log, .mgt, .sent] t_0 := by
    unfold t_0
    split
    · refine State.Touches.step (State.fenceDie_to _ _ _) ?_; exact State.Touches.refl _ _
    · exact State.Touches.refl _ _
  clear_value t_0
  refine State.Touches.step (State.fs_to _ _ _ _) ?_
  extract_lets +onlyGivenNames w1
  have hw1 : State.Touches s [.regs, .mem, .far, .seq, .waits, .imem, .tiers, .stamps, .links, .sp, .fj, .cle, .img, .bud, .host, .pause, .log, .mgt, .sent] w1 := by
    unfold w1
    refine State.Touches.step (State.dieClear_to _ _) ?_; exact ht_0
  refine State.Touches.upd w1 ?_
  exact hw1

theorem execDieReset_to (port tag : Nat) (s : State) : Within s [.regs, .mem, .far, .seq, .waits, .imem, .tiers, .stamps, .links, .sp, .fj, .cle, .img, .bud, .host, .pause, .log, .mgt, .sent] (execDieReset port tag s) := by
  unfold execDieReset
  apply pushRow_to (by decide)
  · exact State.Touches.refl _ _
  · intro v0 v1 v2
    refine State.Touches.step (State.dieReset_to _ _) ?_; with_reducible assumption

theorem State.dieRun_to (s : State) (d : Nat) : s.Touches [.regs, .seq, .imem, .links, .img, .log, .mgt, .sent] (State.dieRun s d) := by
  unfold State.dieRun
  extract_lets +onlyGivenNames t_0
  have ht_0 : State.Touches s [.regs, .seq, .imem, .links, .img, .log, .mgt, .sent] t_0 := by
    unfold t_0
    refine State.Touches.step (State.fs_to _ _ _ _) ?_
    refine State.Touches.foldl ?_ ?_
    · exact State.Touches.refl _ _
    · intro v1 v2 v3
      refine State.Touches.step (State.fs_to _ _ _ _) ?_; with_reducible assumption
  clear_value t_0
  extract_lets +onlyGivenNames t_4
  have ht_4 : State.Touches s [.regs, .seq, .imem, .links, .img, .log, .mgt, .sent] t_4 := by
    unfold t_4
    refine State.Touches.step (State.fs_to _ _ _ _) ?_; refine State.Touches.step (State.setAclk_to _ _ _) ?_; exact ht_0
  clear_value t_4
  extract_lets +onlyGivenNames u_5
  have hu_5 : State.Touches s [.regs, .seq, .imem, .links, .img, .log, .mgt, .sent] u_5 := by
    unfold u_5
    refine State.Touches.step (State.restoreDone_to _ _) ?_
    refine State.Touches.foldl ?_ ?_
    · exact ht_4
    · intro v6 v7 v8
      refine State.Touches.step (State.trainLink_to _ _) ?_; with_reducible assumption
  clear_value u_5
  extract_lets +onlyGivenNames v_9
  have hv_9 : State.Touches s [.regs, .seq, .imem, .links, .img, .log, .mgt, .sent] v_9 := by
    unfold v_9
    refine State.Touches.step (State.reloadDie_to _ _) ?_; refine State.Touches.step (State.showHot_to _ _ _) ?_
    refine State.Touches.step (State.fs_to _ _ _ _) ?_; refine State.Touches.step (State.fs_to _ _ _ _) ?_; exact hu_5
  clear_value v_9
  refine State.Touches.step (State.applyRecheck_to _) ?_
  split
  · refine State.Touches.step (State.spStep1_to _ _) ?_; exact hv_9
  · exact hv_9

theorem State.dieFails_to (s : State) (d cause : Nat) : s.Touches [.regs, .host, .log, .sent] (State.dieFails s d cause) := by
  unfold State.dieFails
  refine State.Touches.step (State.dieResetEnds_to _ _ _) ?_; refine State.Touches.step (State.log_to _ _ _ _ _) ?_
  refine State.Touches.step (State.fs_to _ _ _ _) ?_; exact State.Touches.refl _ _

theorem execDieReloadDone_to (die : Nat) (ok : Bool) (s : State) : Within s [.regs, .seq, .waits, .imem, .links, .img, .host, .log, .mgt, .time, .now, .rack, .sent] (execDieReloadDone die ok s) := by
  unfold execDieReloadDone
  extract_lets +onlyGivenNames ready_0
  refine Within.occurs ?_ ?_
  · exact State.Touches.refl _ _
  · extract_lets +onlyGivenNames t_1
    have ht_1 : State.Touches s [.regs, .seq, .waits, .imem, .links, .img, .host, .log, .mgt, .time, .now, .rack, .sent] t_1 := by
      unfold t_1
      refine State.Touches.step (State.runTo_to _ _) ?_; exact State.Touches.refl _ _
    clear_value t_1
    split
    · refine State.Touches.step (State.dieFails_to _ _ _) ?_; exact ht_1
    · split
      · refine State.Touches.step (State.dieFails_to _ _ _) ?_; exact ht_1
      · refine State.Touches.step (State.dieResetEnds_to _ _ _) ?_; refine State.Touches.step (State.dieRun_to _ _) ?_; exact ht_1

theorem execModuleReset_to (port tag : Nat) (s : State) : Within s [.regs, .host] (execModuleReset port tag s) := by
  unfold execModuleReset
  apply pushRow_to (by decide)
  · exact State.Touches.refl _ _
  · intro v0 v1 v2
    refine State.Touches.step (State.cmdReady_to _ _ _ _) ?_; with_reducible assumption

theorem execTestEnter_to (port tag : Nat) (s : State) : Within s [.regs, .host, .log, .sent] (execTestEnter port tag s) := by
  unfold execTestEnter
  apply pushRow_to (by decide)
  · exact State.Touches.refl _ _
  · intro v0 v1 v2
    refine State.Touches.step (State.cmdReady_to _ _ _ _) ?_; refine State.Touches.step (State.setState_to _ _) ?_; with_reducible assumption

theorem execDumpOpen_to (port tag : Nat) (s : State) : Within s [.regs, .host] (execDumpOpen port tag s) := by
  unfold execDumpOpen
  apply pushRow_to (by decide)
  · exact State.Touches.refl _ _
  · intro v0 v1 v2
    refine State.Touches.step (State.cmdReady_to _ _ _ _) ?_
    refine State.Touches.upd v0 ?_
    with_reducible assumption

theorem execTokenNonce_to (port tag : Nat) (s : State) : Within s [.regs, .host, .randCtr] (execTokenNonce port tag s) := by
  unfold execTokenNonce
  apply pushRow_to (by decide)
  · exact State.Touches.refl _ _
  · intro v0 v1 v2
    extract_lets +onlyGivenNames r_3
    have hr_3 : State.Touches s [.regs, .host, .randCtr] r_3.2 := by
      unfold r_3
      refine State.Touches.step (State.random_to _ _) ?_; with_reducible assumption
    clear_value r_3
    refine State.Touches.step (State.cmdReady_to _ _ _ _) ?_
    extract_lets +onlyGivenNames w4
    have hw4 : State.Touches s [.regs, .host, .randCtr] w4 := by
      unfold w4
      exact hr_3
    refine State.Touches.upd w4 ?_
    exact hw4

theorem State.moveToken_to (s : State) (port : Nat) : s.Touches [.regs, .img, .owner, .sent] (State.moveToken s port) := by
  unfold State.moveToken
  extract_lets +onlyGivenNames t_0
  have ht_0 : State.Touches s [.regs, .img, .owner, .sent] t_0 := by
    unfold t_0
    refine State.Touches.step (State.fs_to _ _ _ _) ?_; exact State.Touches.refl _ _
  clear_value t_0
  refine State.Touches.step (State.imgAbandon_to _) ?_; refine State.Touches.step (State.msixBoth_to _ _) ?_
  refine State.Touches.upd t_0 ?_
  exact ht_0

theorem State.claim_to (s : State) (port : Nat) : s.Touches [.regs, .img, .host, .owner, .sent] (State.claim s port) := by
  unfold State.claim
  extract_lets +onlyGivenNames m_0
  extract_lets +onlyGivenNames c_1
  extract_lets +onlyGivenNames t_2
  extract_lets +onlyGivenNames t_3
  have ht_3 : State.Touches s [.regs, .img, .host, .owner, .sent] t_3 := by
    unfold t_3
    refine State.Touches.upd s ?_
    exact State.Touches.refl _ _
  clear_value t_3
  split
  · refine State.Touches.step (State.cmdReady_to _ _ _ _) ?_; refine State.Touches.step (State.moveToken_to _ _) ?_; exact ht_3
  · refine State.Touches.step (State.cmdReady_to _ _ _ _) ?_; exact ht_3

theorem execTokenClaim_to (port tag : Nat) (s : State) : Within s [.regs, .img, .host, .owner, .sent] (execTokenClaim port tag s) := by
  unfold execTokenClaim
  apply pushRow_to (by decide)
  · split
    · exact State.Touches.refl _ _
    · split
      · refine State.Touches.upd s ?_
        exact State.Touches.refl _ _
      · exact State.Touches.refl _ _
  · intro v0 v1 v2
    refine State.Touches.step (State.claim_to _ _) ?_; with_reducible assumption

theorem execNonceExpiry_to (port : Nat) (s : State) : Within s [.regs, .waits, .host, .time, .now, .rack] (execNonceExpiry port s) := by
  unfold execNonceExpiry
  split
  · refine Within.next ?_
    extract_lets +onlyGivenNames t_0
    have ht_0 : State.Touches s [.regs, .waits, .host, .time, .now, .rack] t_0 := by
      unfold t_0
      refine State.Touches.step (State.runTo_to _ _) ?_; exact State.Touches.refl _ _
    clear_value t_0
    refine State.Touches.upd t_0 ?_
    exact ht_0
  · refine Within.next ?_
    exact State.Touches.refl _ _

theorem State.cmdComplete_to (s : State) (port : Nat) (c : CmdSt) : s.Touches [.regs, .host, .sent] (State.cmdComplete s port c) := by
  unfold State.cmdComplete
  extract_lets +onlyGivenNames k_0
  extract_lets +onlyGivenNames t_1
  extract_lets +onlyGivenNames t_2
  have ht_2 : State.Touches s [.regs, .host, .sent] t_2 := by
    unfold t_2
    refine State.Touches.upd s ?_
    exact State.Touches.refl _ _
  clear_value t_2
  extract_lets +onlyGivenNames t_3
  have ht_3 : State.Touches s [.regs, .host, .sent] t_3 := by
    unfold t_3
    refine State.Touches.foldl ?_ ?_
    · exact ht_2
    · intro v4 v5 v6
      refine State.Touches.step (State.wr_to _ _ _) ?_; with_reducible assumption
  clear_value t_3
  extract_lets +onlyGivenNames t_7
  have ht_7 : State.Touches s [.regs, .host, .sent] t_7 := by
    unfold t_7
    split
    · refine State.Touches.foldl ?_ ?_
      · exact ht_3
      · intro v8 v9 v10
        refine State.Touches.step (State.wr_to _ _ _) ?_; with_reducible assumption
    · exact ht_3
  clear_value t_7
  extract_lets +onlyGivenNames t_11
  have ht_11 : State.Touches s [.regs, .host, .sent] t_11 := by
    unfold t_11
    refine State.Touches.step (State.msixNow_to _ _ _) ?_; refine State.Touches.step (State.fs_to _ _ _ _) ?_
    refine State.Touches.step (State.fs_to _ _ _ _) ?_; exact ht_7
  clear_value t_11
  split
  · refine State.Touches.upd t_11 ?_
    exact ht_11
  · exact ht_11

theorem execCmdComplete_to (port : Nat) (s : State) : Within s [.regs, .host, .sent] (execCmdComplete port s) := by
  unfold execCmdComplete
  split
  · refine Within.occurs ?_ ?_
    · exact State.Touches.refl _ _
    · refine State.Touches.step (State.cmdComplete_to _ _ _) ?_; exact State.Touches.refl _ _
  · refine Within.next ?_
    exact State.Touches.refl _ _

theorem State.mapStep_to (s : State) (host : Nat) : s.Touches [.regs] (State.mapStep s host) := by
  unfold State.mapStep
  refine State.Touches.step (State.fs_to _ _ _ _) ?_; exact State.Touches.refl _ _

theorem State.mapFail_to (s : State) (host code : Nat) : s.Touches [.regs] (State.mapFail s host code) := by
  unfold State.mapFail
  extract_lets +onlyGivenNames k_0
  refine State.Touches.step (State.fsat_to _ _ _ _) ?_; refine State.Touches.step (State.raise_to _ _ _) ?_
  refine State.Touches.step (State.fs_to _ _ _ _) ?_; exact State.Touches.refl _ _

theorem State.dumpRead_to (s : State) (bonded : Bool) (o n : Nat) : s.Touches [.regs, .tiers, .bud, .log, .sent] (State.dumpRead s bonded o n).2.1 := by
  unfold State.dumpRead
  split
  · refine State.Touches.step (State.targetRead_to _ _ _) ?_; refine State.Touches.step (State.chargeTarget_to _ _ _ _) ?_
    exact State.Touches.refl _ _
  · exact State.Touches.refl _ _

theorem State.hubRead_to (s : State) (off n : Nat) : s.Touches [.regs, .tiers, .log, .sent] (State.hubRead s off n).2.1 := by
  unfold State.hubRead
  extract_lets +onlyGivenNames r_0
  have hr_0 : State.Touches s [.regs, .tiers, .log, .sent] r_0.1 := by
    unfold r_0
    refine State.Touches.step (State.eccRead_to _ _ _) ?_; exact State.Touches.refl _ _
  clear_value r_0
  with_reducible assumption

theorem State.hubWrite_to (s : State) (off : Nat) (b : Bytes) : s.Touches [.mem, .far, .tiers] (State.hubWrite s off b) := by
  unfold State.hubWrite
  refine State.Touches.step (State.eccClear_to _ _ _) ?_; refine State.Touches.step (State.memWrN_to _ _ _) ?_; exact State.Touches.refl _ _

theorem mapWord_to {z : State} {G : List Part} {host : Nat} {r : Bytes × State × Bool} (hG : List.all ([.regs] : List Part) G.contains = true) (hr : z.Touches G r.2.1) : z.Touches G (mapWord host r).2 := by
  unfold mapWord
  split
  · dsimp only
    refine State.Touches.step (State.mapStep_to _ _) ?_ (Part.all_trans hG); refine State.Touches.step (State.mapFail_to _ _ _) ?_ (Part.all_trans hG)
    exact hr
  · dsimp only
    refine State.Touches.step (State.mapStep_to _ _) ?_ (Part.all_trans hG); exact hr

theorem State.mapRead_to (s : State) (host : Nat) : s.Touches [.regs, .tiers, .links, .bud, .log, .sent] (State.mapRead s host).2 := by
  unfold State.mapRead
  extract_lets +onlyGivenNames m_0
  split
  · split
    · split
      · apply mapWord_to (by decide); refine State.Touches.step (State.dumpRead_to _ _ _ _) ?_; exact State.Touches.refl _ _
      · dsimp only
        refine State.Touches.step (State.mapFail_to _ _ _) ?_; exact State.Touches.refl _ _
    · dsimp only
      refine State.Touches.step (State.mapFail_to _ _ _) ?_; exact State.Touches.refl _ _
  · split
    · extract_lets +onlyGivenNames t_1
      split
      · dsimp only
        refine State.Touches.step (State.mapStep_to _ _) ?_; refine State.Touches.step (State.mapFail_to _ _ _) ?_; exact State.Touches.refl _ _
      · apply mapWord_to (by decide)
        split
        · refine State.Touches.step (State.hubRead_to _ _ _) ?_; exact State.Touches.refl _ _
        · refine State.Touches.step (State.targetRead_to _ _ _) ?_; refine State.Touches.step (State.unitMoves_to _ _ _) ?_
          refine State.Touches.step (State.chargeTarget_to _ _ _ _) ?_; exact State.Touches.refl _ _
    · dsimp only
      refine State.Touches.step (State.mapFail_to _ _ _) ?_; exact State.Touches.refl _ _

theorem execMapDataRead_to (host : Nat) (s : State) : Within s [.regs, .tiers, .links, .bud, .log, .sent] (execMapDataRead host s) := by
  unfold execMapDataRead
  extract_lets +onlyGivenNames m_0
  extract_lets +onlyGivenNames r_1
  have hr_1 : State.Touches s [.regs, .tiers, .links, .bud, .log, .sent] r_1.2 := by
    unfold r_1
    refine State.Touches.step (State.mapRead_to _ _) ?_; exact State.Touches.refl _ _
  clear_value r_1
  refine Within.occurs ?_ ?_
  · exact State.Touches.refl _ _
  · refine State.Touches.step (State.emit_to _ _) ?_; exact hr_1

theorem State.mapWrite_to (s : State) (host : Nat) (data : Word) : s.Touches [.regs, .mem, .far, .tiers, .links, .fj, .kpu, .eru, .bud, .log, .sent] (State.mapWrite s host data) := by
  unfold State.mapWrite
  extract_lets +onlyGivenNames m_0
  split
  · extract_lets +onlyGivenNames t_1
    extract_lets +onlyGivenNames b_2
    split
    · refine State.Touches.step (State.mapStep_to _ _) ?_; refine State.Touches.step (State.hubWrite_to _ _ _) ?_; exact State.Touches.refl _ _
    · split
      · refine State.Touches.step (State.mapStep_to _ _) ?_; refine State.Touches.step (State.mapFail_to _ _ _) ?_; exact State.Touches.refl _ _
      · refine State.Touches.step (State.mapStep_to _ _) ?_; refine State.Touches.step (State.targetWrite_to _ _ _ _ _) ?_
        refine State.Touches.step (State.unitMoves_to _ _ _) ?_; refine State.Touches.step (State.chargeTarget_to _ _ _ _) ?_
        exact State.Touches.refl _ _
  · refine State.Touches.step (State.mapFail_to _ _ _) ?_; exact State.Touches.refl _ _

theorem execMapDataWrite_to (host : Nat) (data : Word) (s : State) : Within s [.regs, .mem, .far, .tiers, .links, .fj, .kpu, .eru, .bud, .log, .sent] (execMapDataWrite host data s) := by
  unfold execMapDataWrite
  extract_lets +onlyGivenNames m_0
  refine Within.occurs ?_ ?_
  · exact State.Touches.refl _ _
  · refine State.Touches.step (State.mapWrite_to _ _ _) ?_; exact State.Touches.refl _ _

theorem State.resetPort_to (s : State) (h : Nat) : s.Touches [.regs, .host] (State.resetPort s h) := by
  unfold State.resetPort
  refine State.Touches.upd s ?_
  exact State.Touches.refl _ _

theorem State.setPclk_to (s : State) (h : Nat) (on : Bool) : s.Touches [.regs] (State.setPclk s h on) := by
  unfold State.setPclk
  refine State.Touches.step (State.fs_to _ _ _ _) ?_; exact State.Touches.refl _ _

theorem State.setHostUp_to (s : State) (h : Nat) (up : Bool) : s.Touches [.regs, .host] (State.setHostUp s h up) := by
  unfold State.setHostUp
  extract_lets +onlyGivenNames w0
  have hw0 : State.Touches s [.regs, .host] w0 := by
    unfold w0
    refine State.Touches.step (State.fs_to _ _ _ _) ?_; exact State.Touches.refl _ _
  refine State.Touches.upd w0 ?_
  exact hw0

theorem State.holderReset_to (s : State) (h : Nat) : s.Touches [.regs, .img, .sent] (State.holderReset s h) := by
  unfold State.holderReset
  split
  · refine State.Touches.step (State.imgAbandon_to _) ?_; exact State.Touches.refl _ _
  · exact State.Touches.refl _ _

theorem execPerstAccepted_to (host : Nat) (s : State) : Within s [.regs, .img, .host, .sent] (execPerstAccepted host s) := by
  unfold execPerstAccepted
  refine Within.occurs ?_ ?_
  · exact State.Touches.refl _ _
  · extract_lets +onlyGivenNames t_0
    have ht_0 : State.Touches s [.regs, .img, .host, .sent] t_0 := by
      unfold t_0
      refine State.Touches.step (State.setPclk_to _ _ _) ?_; refine State.Touches.step (State.setHostUp_to _ _ _) ?_
      refine State.Touches.step (State.resetPort_to _ _) ?_; refine State.Touches.step (State.holderReset_to _ _) ?_; exact State.Touches.refl _ _
    clear_value t_0
    refine State.Touches.upd t_0 ?_
    exact ht_0

theorem execPerstRelease_to (host lowNs : Nat) (s : State) : Within s [.regs, .host] (execPerstRelease host lowNs s) := by
  unfold execPerstRelease
  refine Within.occurs ?_ ?_
  · exact State.Touches.refl _ _
  · split
    · refine State.Touches.upd s ?_
      exact State.Touches.refl _ _
    · split
      · refine State.Touches.step (State.count_to _ _) ?_; exact State.Touches.refl _ _
      · exact State.Touches.refl _ _

theorem execFunctionLevelReset_to (host : Nat) (s : State) : Within s [.regs, .img, .host, .sent] (execFunctionLevelReset host s) := by
  unfold execFunctionLevelReset
  refine Within.occurs ?_ ?_
  · exact State.Touches.refl _ _
  · refine State.Touches.step (State.resetPort_to _ _) ?_; refine State.Touches.step (State.holderReset_to _ _) ?_; exact State.Touches.refl _ _

theorem execD3coldEntry_to (host : Nat) (s : State) : Within s [.regs, .host] (execD3coldEntry host s) := by
  unfold execD3coldEntry
  refine Within.occurs ?_ ?_
  · exact State.Touches.refl _ _
  · extract_lets +onlyGivenNames t_0
    have ht_0 : State.Touches s [.regs, .host] t_0 := by
      unfold t_0
      refine State.Touches.step (State.setPclk_to _ _ _) ?_; refine State.Touches.step (State.setHostUp_to _ _ _) ?_; exact State.Touches.refl _ _
    clear_value t_0
    refine State.Touches.upd t_0 ?_
    exact ht_0

theorem execD3coldExit_to (host : Nat) (s : State) : Within s [.regs, .img, .host, .sent] (execD3coldExit host s) := by
  unfold execD3coldExit
  refine Within.occurs ?_ ?_
  · exact State.Touches.refl _ _
  · extract_lets +onlyGivenNames t_0
    have ht_0 : State.Touches s [.regs, .img, .host, .sent] t_0 := by
      unfold t_0
      refine State.Touches.step (State.resetPort_to _ _) ?_; refine State.Touches.step (State.holderReset_to _ _) ?_; exact State.Touches.refl _ _
    clear_value t_0
    refine State.Touches.upd t_0 ?_
    exact ht_0

theorem execHostLinkDown_to (host : Nat) (_lostReads : List (Nat × Nat)) (s : State) : Within s [.regs, .host] (execHostLinkDown host _lostReads s) := by
  unfold execHostLinkDown
  refine Within.occurs ?_ ?_
  · exact State.Touches.refl _ _
  · refine State.Touches.step (State.setHostUp_to _ _ _) ?_; exact State.Touches.refl _ _

theorem execHostLinkUp_to (host : Nat) (s : State) : Within s [.regs, .host] (execHostLinkUp host s) := by
  unfold execHostLinkUp
  refine Within.occurs ?_ ?_
  · exact State.Touches.refl _ _
  · refine State.Touches.step (State.setPclk_to _ _ _) ?_; refine State.Touches.step (State.setHostUp_to _ _ _) ?_; exact State.Touches.refl _ _

theorem State.haunoStep_to (s : State) (b : Nat) : s.Touches [.regs, .sent] (State.haunoStep s b) := by
  unfold State.haunoStep
  apply State.eachHauno_to (by decide)
  · exact State.Touches.refl _ _
  · intro v0 v1 v2
    refine State.Touches.step (State.haunoEvent_to _ _ _ _) ?_; refine State.Touches.step (State.fs_to _ _ _ _) ?_; with_reducible assumption

theorem State.restoreRec_to (s : State) (r : SchedRec) : s.Touches [.regs, .seq, .waits, .fj, .rind, .cle, .bud, .host] (State.restoreRec s r) := by
  unfold State.restoreRec
  extract_lets w1 w2 w3 w4 t
  have ht : s.Touches [.regs, .seq, .waits, .fj, .rind, .cle, .bud, .host] t := by
    intro p hp
    cases p <;> first | exact absurd hp (by decide) | rfl
  refine ht.foldl fun u x hu => ?_
  split
  · exact State.Touches.step (State.setCtx_to _ _ _) hu
  · exact hu

theorem State.emptyHostRings_to (s : State) : s.Touches [.regs, .seq] (State.emptyHostRings s) := by
  unfold State.emptyHostRings
  refine State.Touches.foldl ?_ ?_
  · exact State.Touches.refl _ _
  · intro v0 v1 v2
    split
    · split
      · extract_lets +onlyGivenNames x_3
        extract_lets +onlyGivenNames w4
        have hw4 : State.Touches s [.regs, .seq] w4 := by
          unfold w4
          refine State.Touches.step (State.fs_to _ _ _ _) ?_; with_reducible assumption
        refine State.Touches.upd w4 ?_
        exact hw4
      · with_reducible assumption
    · with_reducible assumption

theorem State.replayStops_to (s : State) : s.Touches [.regs, .seq, .kpu, .log, .sent] (State.replayStops s) := by
  unfold State.replayStops
  extract_lets +onlyGivenNames t_0
  have ht_0 : State.Touches s [.regs, .seq, .kpu, .log, .sent] t_0 := by
    unfold t_0
    refine State.Touches.foldl ?_ ?_
    · exact State.Touches.refl _ _
    · intro v1 v2 v3
      split
      · refine State.Touches.step (State.stopCtx_to _ _ _) ?_; with_reducible assumption
      · with_reducible assumption
  clear_value t_0
  refine State.Touches.step (State.log_to _ _ _ _ _) ?_; refine State.Touches.step (State.fs_to _ _ _ _) ?_
  refine State.Touches.upd t_0 ?_
  exact ht_0

theorem State.replayBank_to (s : State) : s.Touches [.fj] (State.replayBank s) := by
  unfold State.replayBank
  split
  · split
    · split
      · refine State.Touches.step (State.setBank_to _ _ _) ?_; exact State.Touches.refl _ _
      · exact State.Touches.refl _ _
    · exact State.Touches.refl _ _
  · exact State.Touches.refl _ _

theorem State.replayMarks_to (y0 : Nat) (y1 : State) : y1.Touches [.regs, .far, .seq, .imem, .tiers, .stamps, .links, .sp, .fj, .cle, .kpu, .eru, .img, .cfg, .bud, .host, .log, .boundaryNo, .freeCtr, .randCtr, .sent] (State.replayMarks y0 y1) := by
  induction y0 generalizing y1 with
  | zero => exact .refl _ _
  | succ n ih =>
    unfold State.replayMarks
    split
    · split
      · exact State.Touches.trans (State.Touches.upd y1 (.refl _ _)) (ih _)
      · split
        · extract_lets w1 w2 t u map
          have hu : y1.Touches [.regs, .far, .seq, .imem, .tiers, .stamps, .links, .sp, .fj, .cle, .kpu, .eru, .img, .cfg, .bud, .host, .log, .boundaryNo, .freeCtr, .randCtr, .sent] u := by
            unfold u
            refine State.Touches.step (State.applyActive_to _) (State.Touches.step (State.replayBank_to _) ?_)
            unfold t
            exact State.Touches.upd y1 (.refl _ _)
          split
          · exact hu.trans (ih _)
          · exact State.Touches.step (State.replayStops_to _) hu
        · exact .refl _ _
    · exact .refl _ _

theorem State.replayFrom_to (s : State) (n : Nat) (r : SchedRec) (j : List JEntry) : s.Touches [.regs, .mem, .far, .seq, .waits, .imem, .tiers, .stamps, .links, .sp, .fj, .rind, .cle, .kpu, .eru, .img, .cfg, .bud, .host, .log, .boundaryNo, .freeCtr, .randCtr, .sent] (State.replayFrom s n r j) := by
  have h1 : ∀ (t : State) (k : KpuState) (h : HostState) (b : Nat), t.Touches [.kpu, .host, .boundaryNo] { t with
      kpu := k
      host := h
      boundaryNo := b } := fun t _ _ _ => State.Touches.upd t (.refl _ _)
  unfold State.replayFrom
  extract_lets t kk hh u
  have ht : s.Touches [.regs, .mem, .far, .seq, .waits, .imem, .tiers, .stamps, .links, .sp, .fj, .rind, .cle, .kpu, .eru, .img, .cfg, .bud, .host, .log, .boundaryNo, .freeCtr, .randCtr, .sent] t := State.Touches.step (State.emptyHostRings_to _) (State.Touches.step (State.restoreRec_to _ _) (.refl _ _))
  clear_value t
  have hk : t.Touches [.kpu, .host, .boundaryNo] u := h1 t _ _ _
  have hu : s.Touches [.regs, .mem, .far, .seq, .waits, .imem, .tiers, .stamps, .links, .sp, .fj, .rind, .cle, .kpu, .eru, .img, .cfg, .bud, .host, .log, .boundaryNo, .freeCtr, .randCtr, .sent] u := State.Touches.step hk ht
  clear_value u
  exact State.Touches.step (State.replayMarks_to _ _) (State.Touches.step (State.cleResume_to _) (State.Touches.step (State.fs_to _ _ _ _) hu))

theorem State.replayBegin_to (s : State) : s.Touches [.regs, .mem, .far, .seq, .waits, .imem, .tiers, .stamps, .links, .sp, .fj, .rind, .cle, .kpu, .eru, .img, .cfg, .bud, .host, .log, .boundaryNo, .freeCtr, .randCtr, .sent] (State.replayBegin s) := by
  unfold State.replayBegin
  split
  · refine State.Touches.step (State.replayFrom_to _ _ _ _) ?_; refine State.Touches.step (State.fs_to _ _ _ _) ?_; exact State.Touches.refl _ _
  · exact State.Touches.refl _ _

theorem State.unstage_to (s : State) : s.Touches [.regs, .mem, .far, .tiers, .kpu, .eru, .bud, .log, .sent] (State.unstage s) := by
  unfold State.unstage
  refine State.Touches.foldl ?_ ?_
  · exact State.Touches.refl _ _
  · intro v0 v1 v2
    refine State.Touches.foldl ?_ ?_
    · with_reducible assumption
    · intro v3 v4 v5
      extract_lets +onlyGivenNames b_6
      have hb_6 : State.Touches s [.regs, .mem, .far, .tiers, .kpu, .eru, .bud, .log, .sent] b_6.2.1 := by
        unfold b_6
        refine State.Touches.step (State.unitRead_to _ _ _ _ _ _ _) ?_; with_reducible assumption
      clear_value b_6
      extract_lets +onlyGivenNames v_7
      have hv_7 : State.Touches s [.regs, .mem, .far, .tiers, .kpu, .eru, .bud, .log, .sent] v_7 := by
        unfold v_7
        refine State.Touches.step (State.unitWrite_to _ _ _ _ _ _) ?_; exact hb_6
      clear_value v_7
      split
      · refine State.Touches.step (State.take_to _ _ _ _ _) ?_; exact hv_7
      · exact hv_7

theorem State.recoverGo_to (s : State) (x : Recover) : s.Touches [.regs, .mem, .far, .seq, .waits, .imem, .tiers, .stamps, .links, .sp, .fj, .rind, .cle, .kpu, .eru, .img, .cfg, .bud, .host, .log, .boundaryNo, .freeCtr, .randCtr, .sent] (State.recoverGo s x) := by
  unfold State.recoverGo
  split
  · refine State.Touches.step (State.recoverNone_to _) ?_; exact State.Touches.refl _ _
  · extract_lets +onlyGivenNames t_0
    have ht_0 : State.Touches s [.regs, .mem, .far, .seq, .waits, .imem, .tiers, .stamps, .links, .sp, .fj, .rind, .cle, .kpu, .eru, .img, .cfg, .bud, .host, .log, .boundaryNo, .freeCtr, .randCtr, .sent] t_0 := by
      unfold t_0
      refine State.Touches.step (State.unstage_to _) ?_; exact State.Touches.refl _ _
    clear_value t_0
    extract_lets +onlyGivenNames k_1
    extract_lets +onlyGivenNames k_2
    refine State.Touches.step (State.replayFrom_to _ _ _ _) ?_
    refine State.Touches.upd t_0 ?_
    exact ht_0

theorem State.startAct_to (s : State) (a : Nat) : s.Touches [.regs, .seq] (State.startAct s a) := by
  unfold State.startAct
  split
  · exact State.Touches.refl _ _
  · refine State.Touches.foldl ?_ ?_
    · refine State.Touches.step (State.setAct_to _ _ _) ?_; exact State.Touches.refl _ _
    · intro v0 v1 v2
      refine State.Touches.step (State.startCtx_to _ _) ?_; with_reducible assumption

theorem State.takeStarts_to (s : State) : s.Touches [.regs, .mem, .far, .seq, .waits, .imem, .tiers, .stamps, .links, .sp, .fj, .rind, .cle, .kpu, .eru, .img, .cfg, .bud, .host, .log, .boundaryNo, .freeCtr, .randCtr, .sent] (State.takeStarts s) := by
  unfold State.takeStarts
  extract_lets +onlyGivenNames due_0
  split
  · split
    · exact State.Touches.refl _ _
    · extract_lets +onlyGivenNames t_1
      extract_lets +onlyGivenNames t_2
      have ht_2 : State.Touches s [.regs, .mem, .far, .seq, .waits, .imem, .tiers, .stamps, .links, .sp, .fj, .rind, .cle, .kpu, .eru, .img, .cfg, .bud, .host, .log, .boundaryNo, .freeCtr, .randCtr, .sent] t_2 := by
        unfold t_2
        refine State.Touches.upd s ?_
        exact State.Touches.refl _ _
      clear_value t_2
      extract_lets +onlyGivenNames u_3
      have hu_3 : State.Touches s [.regs, .mem, .far, .seq, .waits, .imem, .tiers, .stamps, .links, .sp, .fj, .rind, .cle, .kpu, .eru, .img, .cfg, .bud, .host, .log, .boundaryNo, .freeCtr, .randCtr, .sent] u_3 := by
        unfold u_3
        split
        · refine State.Touches.step (State.setState_to _ _) ?_; exact ht_2
        · exact ht_2
      clear_value u_3
      split
      · refine State.Touches.step (State.replayBegin_to _) ?_; exact hu_3
      · split
        · refine State.Touches.step (State.recoverGo_to _ _) ?_; exact hu_3
        · refine State.Touches.foldl ?_ ?_
          · exact hu_3
          · intro v4 v5 v6
            refine State.Touches.step (State.startAct_to _ _) ?_; with_reducible assumption
  · split
    · exact State.Touches.refl _ _
    · extract_lets +onlyGivenNames t_7
      extract_lets +onlyGivenNames t_8
      have ht_8 : State.Touches s [.regs, .mem, .far, .seq, .waits, .imem, .tiers, .stamps, .links, .sp, .fj, .rind, .cle, .kpu, .eru, .img, .cfg, .bud, .host, .log, .boundaryNo, .freeCtr, .randCtr, .sent] t_8 := by
        unfold t_8
        refine State.Touches.upd s ?_
        exact State.Touches.refl _ _
      clear_value t_8
      extract_lets +onlyGivenNames u_9
      have hu_9 : State.Touches s [.regs, .mem, .far, .seq, .waits, .imem, .tiers, .stamps, .links, .sp, .fj, .rind, .cle, .kpu, .eru, .img, .cfg, .bud, .host, .log, .boundaryNo, .freeCtr, .randCtr, .sent] u_9 := by
        unfold u_9
        split
        · refine State.Touches.step (State.setState_to _ _) ?_; exact ht_8
        · exact ht_8
      clear_value u_9
      split
      · refine State.Touches.step (State.replayBegin_to _) ?_; exact hu_9
      · split
        · refine State.Touches.step (State.recoverGo_to _ _) ?_; exact hu_9
        · refine State.Touches.foldl ?_ ?_
          · exact hu_9
          · intro v10 v11 v12
            refine State.Touches.step (State.startAct_to _ _) ?_; with_reducible assumption

theorem State.leaseCheck_to (s : State) : s.Touches [.regs, .mem, .far, .seq, .tiers, .links, .fj, .cle, .kpu, .bud, .log, .sent] (State.leaseCheck s) := by
  unfold State.leaseCheck
  split
  · refine State.Touches.step (State.cleHold_to _) ?_; refine State.Touches.step (State.msixBoth_to _ _) ?_
    refine State.Touches.step (State.log_to _ _ _ _ _) ?_; refine State.Touches.step (State.setState_to _ _) ?_; exact State.Touches.refl _ _
  · split
    · refine State.Touches.step (State.cleResume_to _) ?_; refine State.Touches.step (State.msixBoth_to _ _) ?_
      refine State.Touches.step (State.setState_to _ _) ?_; exact State.Touches.refl _ _
    · exact State.Touches.refl _ _

theorem State.stageTensor_to (s : State) (r : Rec) : s.Touches [.regs, .mem, .far, .tiers, .kpu, .eru, .bud, .log, .sent] (State.stageTensor s r) := by
  unfold State.stageTensor
  refine State.Touches.foldl ?_ ?_
  · exact State.Touches.refl _ _
  · intro v0 v1 v2
    extract_lets +onlyGivenNames b_3
    have hb_3 : State.Touches s [.regs, .mem, .far, .tiers, .kpu, .eru, .bud, .log, .sent] b_3.2.1 := by
      unfold b_3
      refine State.Touches.step (State.unitRead_to _ _ _ _ _ _ _) ?_; with_reducible assumption
    clear_value b_3
    extract_lets +onlyGivenNames u_4
    have hu_4 : State.Touches s [.regs, .mem, .far, .tiers, .kpu, .eru, .bud, .log, .sent] u_4 := by
      unfold u_4
      refine State.Touches.step (State.pmc_to _ _ _ _ _) ?_; refine State.Touches.step (State.unitWrite_to _ _ _ _ _ _) ?_; exact hb_3
    clear_value u_4
    split
    · refine State.Touches.step (State.charge_to _ _ _ _ _) ?_; exact hu_4
    · split
      · refine State.Touches.step (State.charge_to _ _ _ _ _) ?_; exact hu_4
      · exact hu_4

theorem State.takeSnapshot_to (s : State) (n : Nat) : s.Touches [.regs, .mem, .far, .tiers, .links, .fj, .kpu, .eru, .bud, .host, .log, .sent] (State.takeSnapshot s n) := by
  have h1 : ∀ (t : State) (r : SchedRec), t.Touches [.kpu, .eru] { t with
      kpu := { t.kpu with recs := (r :: t.kpu.recs).take 2, last := some n }
      eru := { t.eru with log := t.eru.log.filterMap (fun d => if d.old then none else some { d with old := true }), rolled := [] } } := fun t _ => State.Touches.upd t (.refl _ _)
  unfold State.takeSnapshot
  extract_lets r t all kk ee u v
  have ht : s.Touches [.regs, .mem, .far, .tiers, .links, .fj, .kpu, .eru, .bud, .host, .log, .sent] t := by
    unfold t
    refine State.Touches.step (State.journal_to _ _ _ _ _) ?_
    exact State.Touches.foldl (.refl _ _) fun _ _ h => State.Touches.step (State.stageTensor_to _ _) h
  clear_value t
  have hu : s.Touches [.regs, .mem, .far, .tiers, .links, .fj, .kpu, .eru, .bud, .host, .log, .sent] u := ht.trans ((h1 t r).mono (by decide))
  clear_value u
  have hv : s.Touches [.regs, .mem, .far, .tiers, .links, .fj, .kpu, .eru, .bud, .host, .log, .sent] v := State.Touches.step (State.fs_to _ _ _ _) (State.Touches.step (State.count_to _ _) (State.Touches.step (State.fs_to _ _ _ _) hu))
  clear_value v
  split
  · exact State.Touches.step (State.streamSnapshot_to _ _ _) hv
  · exact State.Touches.step (State.sealed_to _ _ _) hv

theorem State.abandonSnapshot_to (s : State) (n : Nat) : s.Touches [.regs, .sent] (State.abandonSnapshot s n) := by
  unfold State.abandonSnapshot
  refine State.Touches.step (State.emit_to _ _) ?_; refine State.Touches.step (State.raise_to _ _ _) ?_
  refine State.Touches.step (State.count_to _ _) ?_; exact State.Touches.refl _ _

theorem State.resume_to (s : State) (p : Pause) (len : Nat) : s.Touches [.regs, .mem, .far, .seq, .tiers, .links, .fj, .cle, .kpu, .bud, .host, .pause, .log, .sent] (State.resume s p len) := by
  unfold State.resume
  extract_lets +onlyGivenNames t_0
  have ht_0 : State.Touches s [.regs, .mem, .far, .seq, .tiers, .links, .fj, .cle, .kpu, .bud, .host, .pause, .log, .sent] t_0 := by
    unfold t_0
    refine State.Touches.foldl ?_ ?_
    · exact State.Touches.refl _ _
    · intro v1 v2 v3
      refine State.Touches.step (State.fs_to _ _ _ _) ?_; refine State.Touches.step (State.fs_to _ _ _ _) ?_; with_reducible assumption
  clear_value t_0
  extract_lets +onlyGivenNames t_4
  have ht_4 : State.Touches s [.regs, .mem, .far, .seq, .tiers, .links, .fj, .cle, .kpu, .bud, .host, .pause, .log, .sent] t_4 := by
    unfold t_4
    refine State.Touches.foldl ?_ ?_
    · exact ht_0
    · intro v5 v6 v7
      split
      · refine State.Touches.step (State.setCtx_to _ _ _) ?_; with_reducible assumption
      · with_reducible assumption
  clear_value t_4
  extract_lets +onlyGivenNames t_8
  have ht_8 : State.Touches s [.regs, .mem, .far, .seq, .tiers, .links, .fj, .cle, .kpu, .bud, .host, .pause, .log, .sent] t_8 := by
    unfold t_8
    split
    · refine State.Touches.step (State.log_to _ _ _ _ _) ?_; exact ht_4
    · exact ht_4
  clear_value t_8
  extract_lets +onlyGivenNames t_9
  have ht_9 : State.Touches s [.regs, .mem, .far, .seq, .tiers, .links, .fj, .cle, .kpu, .bud, .host, .pause, .log, .sent] t_9 := by
    unfold t_9
    refine State.Touches.step (State.fs_to _ _ _ _) ?_; exact ht_8
  clear_value t_9
  extract_lets +onlyGivenNames t_10
  have ht_10 : State.Touches s [.regs, .mem, .far, .seq, .tiers, .links, .fj, .cle, .kpu, .bud, .host, .pause, .log, .sent] t_10 := by
    unfold t_10
    refine State.Touches.upd t_9 ?_
    exact ht_9
  clear_value t_10
  extract_lets +onlyGivenNames t_11
  have ht_11 : State.Touches s [.regs, .mem, .far, .seq, .tiers, .links, .fj, .cle, .kpu, .bud, .host, .pause, .log, .sent] t_11 := by
    unfold t_11
    split
    · refine State.Touches.step (State.setState_to _ _) ?_; exact ht_10
    · exact ht_10
  clear_value t_11
  extract_lets +onlyGivenNames t_12
  have ht_12 : State.Touches s [.regs, .mem, .far, .seq, .tiers, .links, .fj, .cle, .kpu, .bud, .host, .pause, .log, .sent] t_12 := by
    unfold t_12
    refine State.Touches.step (State.haunoPause_to _ _) ?_
    split
    · refine State.Touches.step (State.cleResume_to _) ?_; exact ht_11
    · exact ht_11
  clear_value t_12
  refine State.Touches.step (State.keepPump_to _) ?_; apply State.streamNotify_to (by decide)
  · exact State.Touches.refl _ _
  · exact ht_12

theorem State.pauseEnd_to (s : State) (p : Pause) : s.Touches [.regs, .mem, .far, .seq, .imem, .tiers, .stamps, .links, .sp, .fj, .cle, .kpu, .eru, .img, .cfg, .bud, .host, .pause, .log, .boundaryNo, .freeCtr, .randCtr, .sent] (State.pauseEnd s p) := by
  unfold State.pauseEnd
  extract_lets +onlyGivenNames lost_0
  extract_lets +onlyGivenNames t_1
  have ht_1 : State.Touches s [.regs, .mem, .far, .seq, .imem, .tiers, .stamps, .links, .sp, .fj, .cle, .kpu, .eru, .img, .cfg, .bud, .host, .pause, .log, .boundaryNo, .freeCtr, .randCtr, .sent] t_1 := by
    unfold t_1
    split
    · exact State.Touches.refl _ _
    · split
      · refine State.Touches.step (State.abandonSnapshot_to _ _) ?_; exact State.Touches.refl _ _
      · refine State.Touches.step (State.takeSnapshot_to _ _) ?_; exact State.Touches.refl _ _
  clear_value t_1
  extract_lets +onlyGivenNames ready_2
  extract_lets +onlyGivenNames u_3
  have hu_3 : State.Touches s [.regs, .mem, .far, .seq, .imem, .tiers, .stamps, .links, .sp, .fj, .cle, .kpu, .eru, .img, .cfg, .bud, .host, .pause, .log, .boundaryNo, .freeCtr, .randCtr, .sent] u_3 := by
    unfold u_3
    split
    · refine State.Touches.step (State.applyActive_to _) ?_; exact ht_1
    · exact ht_1
  clear_value u_3
  extract_lets +onlyGivenNames v_4
  extract_lets +onlyGivenNames v_5
  have hv_5 : State.Touches s [.regs, .mem, .far, .seq, .imem, .tiers, .stamps, .links, .sp, .fj, .cle, .kpu, .eru, .img, .cfg, .bud, .host, .pause, .log, .boundaryNo, .freeCtr, .randCtr, .sent] v_5 := by
    unfold v_5
    split
    · split
      · refine State.Touches.step (State.cmdEnds_to _ _ _ _) ?_
        refine State.Touches.upd u_3 ?_
        exact hu_3
      · exact hu_3
    · exact hu_3
  clear_value v_5
  refine State.Touches.step (State.resume_to _ _ _) ?_; exact hv_5

theorem State.maintStart_to (s : State) (p : Pause) : s.Touches [.regs, .links, .log, .trips, .mgt, .sent] (State.maintStart s p) := by
  unfold State.maintStart
  extract_lets +onlyGivenNames t_0
  have ht_0 : State.Touches s [.regs, .links, .log, .trips, .mgt, .sent] t_0 := by
    unfold t_0
    refine State.Touches.step (State.retireSwitch_to _ _) ?_; refine State.Touches.step (State.settleRestores_to _) ?_
    refine State.Touches.step (State.startRetrains_to _) ?_; exact State.Touches.refl _ _
  clear_value t_0
  extract_lets +onlyGivenNames u_1
  have hu_1 : State.Touches s [.regs, .links, .log, .trips, .mgt, .sent] u_1 := by
    unfold u_1
    refine State.Touches.foldl ?_ ?_
    · exact ht_0
    · intro v2 v3 v4
      split
      · refine State.Touches.step (State.fs_to _ _ _ _) ?_; with_reducible assumption
      · with_reducible assumption
  clear_value u_1
  refine State.Touches.upd u_1 ?_
  exact hu_1

theorem State.momentA_to (s : State) (p : Pause) : s.Touches [.regs, .mem, .far, .seq, .imem, .tiers, .stamps, .links, .sp, .fj, .cle, .kpu, .eru, .img, .cfg, .bud, .host, .pause, .log, .trips, .mgt, .boundaryNo, .freeCtr, .randCtr, .sent] (State.momentA s p) := by
  unfold State.momentA
  extract_lets +onlyGivenNames t_0
  have ht_0 : State.Touches s [.regs, .mem, .far, .seq, .imem, .tiers, .stamps, .links, .sp, .fj, .cle, .kpu, .eru, .img, .cfg, .bud, .host, .pause, .log, .trips, .mgt, .boundaryNo, .freeCtr, .randCtr, .sent] t_0 := by
    unfold t_0
    refine State.Touches.foldl ?_ ?_
    · exact State.Touches.refl _ _
    · intro v1 v2 v3
      refine State.Touches.step (State.fs_to _ _ _ _) ?_; with_reducible assumption
  clear_value t_0
  extract_lets +onlyGivenNames q_4
  extract_lets +onlyGivenNames t_5
  have ht_5 : State.Touches s [.regs, .mem, .far, .seq, .imem, .tiers, .stamps, .links, .sp, .fj, .cle, .kpu, .eru, .img, .cfg, .bud, .host, .pause, .log, .trips, .mgt, .boundaryNo, .freeCtr, .randCtr, .sent] t_5 := by
    unfold t_5
    refine State.Touches.upd t_0 ?_
    exact ht_0
  clear_value t_5
  extract_lets +onlyGivenNames t_6
  have ht_6 : State.Touches s [.regs, .mem, .far, .seq, .imem, .tiers, .stamps, .links, .sp, .fj, .cle, .kpu, .eru, .img, .cfg, .bud, .host, .pause, .log, .trips, .mgt, .boundaryNo, .freeCtr, .randCtr, .sent] t_6 := by
    unfold t_6
    split
    · refine State.Touches.step (State.maintStart_to _ _) ?_; exact ht_5
    · exact ht_5
  clear_value t_6
  split
  · refine State.Touches.step (State.pauseEnd_to _ _) ?_; exact ht_6
  · split
    · refine State.Touches.step (State.pauseEnd_to _ _) ?_; exact ht_6
    · exact ht_6

theorem execCoreParked_to (core : Nat) (s : State) : Within s [.regs, .mem, .far, .seq, .imem, .tiers, .stamps, .links, .sp, .fj, .cle, .kpu, .eru, .img, .cfg, .bud, .host, .pause, .log, .trips, .mgt, .boundaryNo, .freeCtr, .randCtr, .sent] (execCoreParked core s) := by
  unfold execCoreParked
  split
  · refine Within.occurs ?_ ?_
    · exact State.Touches.refl _ _
    · split
      · refine State.Touches.step (State.momentA_to _ _) ?_; exact State.Touches.refl _ _
      · refine State.Touches.step (State.fs_to _ _ _ _) ?_; exact State.Touches.refl _ _
  · refine Within.next ?_
    exact State.Touches.refl _ _

theorem execSnapshotStagingDone_to (s : State) : Within s [.regs, .mem, .far, .seq, .imem, .tiers, .stamps, .links, .sp, .fj, .cle, .kpu, .eru, .img, .cfg, .bud, .host, .pause, .log, .boundaryNo, .freeCtr, .randCtr, .sent] (execSnapshotStagingDone s) := by
  unfold execSnapshotStagingDone
  split
  · refine Within.occurs ?_ ?_
    · exact State.Touches.refl _ _
    · refine State.Touches.step (State.pauseEnd_to _ _) ?_; exact State.Touches.refl _ _
  · refine Within.next ?_
    exact State.Touches.refl _ _

theorem State.skipSnapshot_to (s : State) : s.Touches [.regs, .host] (State.skipSnapshot s) := by
  unfold State.skipSnapshot
  refine State.Touches.step (State.count_to _ _) ?_
  split
  · refine State.Touches.step (State.cmdEnds_to _ _ _ _) ?_
    refine State.Touches.upd s ?_
    exact State.Touches.refl _ _
  · exact State.Touches.refl _ _

theorem State.boundary_to (s : State) (b : Nat) : s.Touches [.regs, .mem, .far, .seq, .waits, .imem, .tiers, .stamps, .links, .sp, .fj, .rind, .cle, .kpu, .eru, .img, .cfg, .bud, .host, .pause, .log, .boundaryNo, .freeCtr, .randCtr, .sent] (State.boundary s b) := by
  have h1 : ∀ (t : State) (n : Nat), t.Touches [.boundaryNo] { t with boundaryNo := n } := fun t _ => State.Touches.upd t (.refl _ _)
  unfold State.boundary
  extract_lets started t u v due skip w maint p
  have ht : s.Touches [.regs, .mem, .far, .seq, .waits, .imem, .tiers, .stamps, .links, .sp, .fj, .rind, .cle, .kpu, .eru, .img, .cfg, .bud, .host, .pause, .log, .boundaryNo, .freeCtr, .randCtr, .sent] t := State.Touches.step (State.journal_to _ _ _ _ _) (.refl _ _)
  clear_value t
  have hu : s.Touches [.regs, .mem, .far, .seq, .waits, .imem, .tiers, .stamps, .links, .sp, .fj, .rind, .cle, .kpu, .eru, .img, .cfg, .bud, .host, .pause, .log, .boundaryNo, .freeCtr, .randCtr, .sent] u := State.Touches.step (State.haunoStep_to _ _) (ht.trans ((h1 _ _).mono (by decide)))
  clear_value u
  have hv : s.Touches [.regs, .mem, .far, .seq, .waits, .imem, .tiers, .stamps, .links, .sp, .fj, .rind, .cle, .kpu, .eru, .img, .cfg, .bud, .host, .pause, .log, .boundaryNo, .freeCtr, .randCtr, .sent] v := State.Touches.step (State.keepPump_to _) (State.Touches.step (State.leaseCheck_to _) (State.Touches.step (State.takeStarts_to _) (State.Touches.step (State.partnerWait_to _) hu)))
  clear_value v
  have hw : s.Touches [.regs, .mem, .far, .seq, .waits, .imem, .tiers, .stamps, .links, .sp, .fj, .rind, .cle, .kpu, .eru, .img, .cfg, .bud, .host, .pause, .log, .boundaryNo, .freeCtr, .randCtr, .sent] w := by
    unfold w
    split
    · exact State.Touches.step (State.skipSnapshot_to _) hv
    · exact hv
  clear_value w
  split
  · exact State.Touches.step (State.askPause_to _ _) hw
  · exact State.Touches.step (State.passContexts_to _ _) hw

theorem execStepBoundary_to (s : State) : Within s [.regs, .mem, .far, .seq, .waits, .imem, .tiers, .stamps, .links, .sp, .fj, .rind, .cle, .kpu, .eru, .img, .cfg, .bud, .host, .pause, .log, .time, .now, .rack, .boundaryNo, .freeCtr, .randCtr, .sent] (execStepBoundary s) := by
  unfold execStepBoundary
  refine Within.occurs ?_ ?_
  · exact State.Touches.refl _ _
  · refine State.Touches.step (State.boundary_to _ _) ?_; refine State.Touches.step (State.runToRack_to _ _) ?_; exact State.Touches.refl _ _

theorem State.replayEnd_to (s : State) : s.Touches [.regs, .tiers, .links, .fj, .kpu, .eru, .bud, .log, .boundaryNo, .sent] (State.replayEnd s) := by
  unfold State.replayEnd
  extract_lets +onlyGivenNames t_0
  have ht_0 : State.Touches s [.regs, .tiers, .links, .fj, .kpu, .eru, .bud, .log, .boundaryNo, .sent] t_0 := by
    unfold t_0
    refine State.Touches.step (State.fs_to _ _ _ _) ?_; exact State.Touches.refl _ _
  clear_value t_0
  extract_lets +onlyGivenNames t_1
  have ht_1 : State.Touches s [.regs, .tiers, .links, .fj, .kpu, .eru, .bud, .log, .boundaryNo, .sent] t_1 := by
    unfold t_1
    split
    · refine State.Touches.step (State.parityResync_to _) ?_; exact ht_0
    · exact ht_0
  clear_value t_1
  refine State.Touches.upd t_1 ?_
  exact ht_1

theorem State.replayBoundary_to (s : State) : s.Touches [.regs, .far, .seq, .imem, .tiers, .stamps, .links, .sp, .fj, .cle, .kpu, .eru, .img, .cfg, .bud, .host, .log, .boundaryNo, .freeCtr, .randCtr, .sent] (State.replayBoundary s) := by
  have h1 : ∀ (t : State) (n : Nat), t.Touches [.boundaryNo] { t with boundaryNo := n } := fun t _ => State.Touches.upd t (.refl _ _)
  have h2 : ∀ (t : State) (r : Option (List JEntry)), t.Touches [.kpu] { t with kpu := { t.kpu with replay := r } } := fun t _ => State.Touches.upd t (.refl _ _)
  unfold State.replayBoundary
  split
  · rename_i e r _
    extract_lets kk t u u1 u2 v w
    have ht : s.Touches [.regs, .far, .seq, .imem, .tiers, .stamps, .links, .sp, .fj, .cle, .kpu, .eru, .img, .cfg, .bud, .host, .log, .boundaryNo, .freeCtr, .randCtr, .sent] t := (h2 s (some r)).mono (by decide)
    clear_value t
    have hu : s.Touches [.regs, .far, .seq, .imem, .tiers, .stamps, .links, .sp, .fj, .cle, .kpu, .eru, .img, .cfg, .bud, .host, .log, .boundaryNo, .freeCtr, .randCtr, .sent] u := State.Touches.step (State.journal_to _ _ _ _ _) ht
    clear_value u
    have hu1 : s.Touches [.regs, .far, .seq, .imem, .tiers, .stamps, .links, .sp, .fj, .cle, .kpu, .eru, .img, .cfg, .bud, .host, .log, .boundaryNo, .freeCtr, .randCtr, .sent] u1 := by
      unfold u1
      split
      · exact State.Touches.step (State.skipSnapshot_to _) hu
      · exact hu
    clear_value u1
    have hu2 : s.Touches [.regs, .far, .seq, .imem, .tiers, .stamps, .links, .sp, .fj, .cle, .kpu, .eru, .img, .cfg, .bud, .host, .log, .boundaryNo, .freeCtr, .randCtr, .sent] u2 := State.Touches.step (State.haunoStep_to _ _) (hu1.trans ((h1 _ _).mono (by decide)))
    clear_value u2
    have hw : s.Touches [.regs, .far, .seq, .imem, .tiers, .stamps, .links, .sp, .fj, .cle, .kpu, .eru, .img, .cfg, .bud, .host, .log, .boundaryNo, .freeCtr, .randCtr, .sent] w := State.Touches.step (State.passContexts_to _ _) (State.Touches.step (State.replayMarks_to _ _) hu2)
    clear_value w
    split
    · exact State.Touches.step (State.replayEnd_to _) hw
    · exact hw
  · exact State.Touches.step (State.replayEnd_to _) (.refl _ _)

theorem execReplayBoundary_to (s : State) : Within s [.regs, .far, .seq, .imem, .tiers, .stamps, .links, .sp, .fj, .cle, .kpu, .eru, .img, .cfg, .bud, .host, .log, .boundaryNo, .freeCtr, .randCtr, .sent] (execReplayBoundary s) := by
  unfold execReplayBoundary
  split
  · refine Within.occurs ?_ ?_
    · exact State.Touches.refl _ _
    · refine State.Touches.step (State.replayBoundary_to _) ?_; exact State.Touches.refl _ _
  · refine Within.next ?_
    refine State.Touches.step (State.replayBoundary_to _) ?_; exact State.Touches.refl _ _
  · refine Within.next ?_
    exact State.Touches.refl _ _

end Machine
end Sys2Proof
end

