-- ==== Sys2Proof/Laws/TouchMgmt.lean ====
section
/-!
SUPPORT. The operations of management, firmware, boot, dumps and the keeping of state change at most the listed parts of the state (`State.Touches`): one lemma for each.
-/
namespace Sys2Proof
namespace Machine
set_option Elab.async false

theorem State.setSensor_to (s : State) (i : Nat) (x : Sensor) : s.Touches [.mgt] (State.setSensor s i x) := by
  unfold State.setSensor
  refine State.Touches.upd s ?_
  exact State.Touches.refl _ _

theorem State.spanOthers_to (s : State) (i : Nat) (raws : List (Nat × Int)) : s.Touches [.mgt] (State.spanOthers s i raws) := by
  unfold State.spanOthers
  extract_lets +onlyGivenNames x_0
  extract_lets +onlyGivenNames sp_1
  refine State.Touches.step (State.setSensor_to _ _ _) ?_; exact State.Touches.refl _ _

theorem State.fatalError_to (s : State) (cause : Nat) : s.Touches [.regs, .seq, .sp, .fj, .pause, .log, .pins, .mgt, .sent] (State.fatalError s cause) := by
  unfold State.fatalError
  extract_lets +onlyGivenNames seq_0
  extract_lets +onlyGivenNames t_1
  have ht_1 : State.Touches s [.regs, .seq, .sp, .fj, .pause, .log, .pins, .mgt, .sent] t_1 := by
    unfold t_1
    refine State.Touches.step (State.log_to _ _ _ _ _) ?_; exact State.Touches.refl _ _
  clear_value t_1
  split
  · refine State.Touches.upd t_1 ?_
    exact ht_1
  · split
    · exact ht_1
    · extract_lets +onlyGivenNames u_2
      have hu_2 : State.Touches s [.regs, .seq, .sp, .fj, .pause, .log, .pins, .mgt, .sent] u_2 := by
        unfold u_2
        refine State.Touches.step (State.emit_to _ _) ?_; refine State.Touches.step (State.setState_to _ _) ?_; exact ht_1
      clear_value u_2
      extract_lets +onlyGivenNames u_3
      extract_lets +onlyGivenNames u_4
      extract_lets +onlyGivenNames u_5
      have hu_5 : State.Touches s [.regs, .seq, .sp, .fj, .pause, .log, .pins, .mgt, .sent] u_5 := by
        unfold u_5
        refine State.Touches.upd u_2 ?_
        exact hu_2
      clear_value u_5
      extract_lets +onlyGivenNames v_6
      have hv_6 : State.Touches s [.regs, .seq, .sp, .fj, .pause, .log, .pins, .mgt, .sent] v_6 := by
        unfold v_6
        refine State.Touches.foldl ?_ ?_
        · exact hu_5
        · intro v7 v8 v9
          refine State.Touches.step (State.haltCtx_to _ _ _) ?_; with_reducible assumption
      clear_value v_6
      refine State.Touches.foldl ?_ ?_
      · exact hv_6
      · intro v10 v11 v12
        split
        · refine State.Touches.step (State.spDown_to _ _ _) ?_; with_reducible assumption
        · with_reducible assumption

theorem State.sensorFails_to (s : State) (i cause : Nat) : s.Touches [.regs, .log, .mgt, .sent] (State.sensorFails s i cause) := by
  unfold State.sensorFails
  extract_lets +onlyGivenNames t_0
  extract_lets +onlyGivenNames t_1
  have ht_1 : State.Touches s [.regs, .log, .mgt, .sent] t_1 := by
    unfold t_1
    refine State.Touches.step (State.setSensor_to _ _ _) ?_; exact State.Touches.refl _ _
  clear_value t_1
  extract_lets +onlyGivenNames t_2
  have ht_2 : State.Touches s [.regs, .log, .mgt, .sent] t_2 := by
    unfold t_2
    refine State.Touches.step (State.platformEvent_to _ _) ?_; refine State.Touches.step (State.log_to _ _ _ _ _) ?_
    refine State.Touches.step (State.raise_to _ _ _) ?_; exact ht_1
  clear_value t_2
  split
  · extract_lets +onlyGivenNames k_3
    extract_lets +onlyGivenNames r_4
    refine State.Touches.step (State.fs_to _ _ _ _) ?_; exact ht_2
  · exact ht_2

theorem State.dieOff_to (s : State) (d : Nat) : s.Touches [.regs, .mgt] (State.dieOff s d) := by
  unfold State.dieOff
  refine State.Touches.step (State.fs_to _ _ _ _) ?_; refine State.Touches.step (State.setAclk_to _ _ _) ?_
  refine State.Touches.step (State.fs_to _ _ _ _) ?_; exact State.Touches.refl _ _

theorem State.afterFailures_to (s : State) : s.Touches [.regs, .seq, .links, .sp, .fj, .cle, .img, .bud, .host, .pause, .log, .pins, .mgt, .sent] (State.afterFailures s) := by
  unfold State.afterFailures
  extract_lets +onlyGivenNames dead_0
  extract_lets +onlyGivenNames t_1
  have ht_1 : State.Touches s [.regs, .seq, .links, .sp, .fj, .cle, .img, .bud, .host, .pause, .log, .pins, .mgt, .sent] t_1 := by
    unfold t_1
    refine State.Touches.foldl ?_ ?_
    · exact State.Touches.refl _ _
    · intro v2 v3 v4
      refine State.Touches.step (State.dieOff_to _ _) ?_
      split
      · refine State.Touches.step (State.fenceDie_to _ _ _) ?_; with_reducible assumption
      · with_reducible assumption
  clear_value t_1
  split
  · refine State.Touches.step (State.fatalError_to _ _) ?_; exact ht_1
  · exact ht_1

theorem State.hotEvent_to (s : State) (source i level : Nat) : s.Touches [.regs, .log, .sent] (State.hotEvent s source i level) := by
  unfold State.hotEvent
  refine State.Touches.step (State.msixBoth_to _ _) ?_; refine State.Touches.step (State.log_to _ _ _ _ _) ?_; exact State.Touches.refl _ _

theorem State.cooling_to (s : State) (key : Nat) (below : Bool) : s.Touches [.mgt] (State.cooling s key below) := by
  unfold State.cooling
  refine State.Touches.upd s ?_
  exact State.Touches.refl _ _

theorem State.showScales_to (s : State) : s.Touches [.regs] (State.showScales s) := by
  unfold State.showScales
  refine State.Touches.foldl ?_ ?_
  · exact State.Touches.refl _ _
  · intro v0 v1 v2
    refine State.Touches.step (State.fs_to _ _ _ _) ?_; with_reducible assumption

theorem State.setLevel_to (s : State) (d n : Nat) : s.Touches [.regs, .log, .mgt, .sent] (State.setLevel s d n) := by
  unfold State.setLevel
  extract_lets +onlyGivenNames t_0
  extract_lets +onlyGivenNames t_1
  have ht_1 : State.Touches s [.regs, .log, .mgt, .sent] t_1 := by
    unfold t_1
    refine State.Touches.upd s ?_
    exact State.Touches.refl _ _
  clear_value t_1
  refine State.Touches.step (State.hotEvent_to _ _ _ _) ?_; refine State.Touches.step (State.showHot_to _ _ _) ?_
  refine State.Touches.step (State.showScales_to _) ?_; exact ht_1

theorem State.dieHot_to (s : State) (d : Nat) : s.Touches [.regs, .log, .mgt, .sent] (State.dieHot s d) := by
  unfold State.dieHot
  extract_lets +onlyGivenNames lv_0
  extract_lets +onlyGivenNames w_1
  split
  · refine State.Touches.step (State.cooling_to _ _ _) ?_; refine State.Touches.step (State.setLevel_to _ _ _) ?_; exact State.Touches.refl _ _
  · split
    · exact State.Touches.refl _ _
    · extract_lets +onlyGivenNames back_2
      refine State.Touches.step (State.cooling_to _ _ _) ?_; exact State.Touches.refl _ _

theorem State.layerRefresh_to (s : State) (i : Nat) : s.Touches [.regs, .tiers, .mgt, .sent] (State.layerRefresh s i) := by
  unfold State.layerRefresh
  extract_lets +onlyGivenNames k_0
  extract_lets +onlyGivenNames core_1
  extract_lets +onlyGivenNames r_2
  extract_lets +onlyGivenNames w_3
  split
  · refine State.Touches.step (State.cooling_to _ _ _) ?_; refine State.Touches.step (State.msixBoth_to _ _) ?_
    refine State.Touches.step (State.setRefresh_to _ _ _ _) ?_; exact State.Touches.refl _ _
  · split
    · exact State.Touches.refl _ _
    · refine State.Touches.step (State.cooling_to _ _ _) ?_; exact State.Touches.refl _ _

theorem State.stackHot_to (s : State) (k : Nat) : s.Touches [.regs, .log, .mgt, .sent] (State.stackHot s k) := by
  unfold State.stackHot
  split
  · exact State.Touches.refl _ _
  · extract_lets +onlyGivenNames a_0
    extract_lets +onlyGivenNames reg_1
    extract_lets +onlyGivenNames t_2
    have ht_2 : State.Touches s [.regs, .log, .mgt, .sent] t_2 := by
      unfold t_2
      split
      · refine State.Touches.step (State.cooling_to _ _ _) ?_; exact State.Touches.refl _ _
      · split
        · refine State.Touches.step (State.msixBoth_to _ _) ?_; refine State.Touches.step (State.fs_to _ _ _ _) ?_; exact State.Touches.refl _ _
        · exact State.Touches.refl _ _
    clear_value t_2
    extract_lets +onlyGivenNames hot_3
    extract_lets +onlyGivenNames lim_4
    split
    · refine State.Touches.step (State.cooling_to _ _ _) ?_; exact ht_2
    · split
      · refine State.Touches.step (State.hotEvent_to _ _ _ _) ?_; refine State.Touches.step (State.fs_to _ _ _ _) ?_
        refine State.Touches.step (State.fs_to _ _ _ _) ?_; exact ht_2
      · exact ht_2

theorem State.opticHot_to (s : State) (p : Nat) : s.Touches [.regs, .sp, .fj, .log, .mgt, .sent] (State.opticHot s p) := by
  unfold State.opticHot
  extract_lets +onlyGivenNames a_0
  extract_lets +onlyGivenNames lim_1
  split
  · refine State.Touches.step (State.cooling_to _ _ _) ?_; exact State.Touches.refl _ _
  · split
    · refine State.Touches.step (State.lanesFail_to _ _ _ _) ?_; refine State.Touches.step (State.hotEvent_to _ _ _ _) ?_
      refine State.Touches.step (State.fs_to _ _ _ _) ?_; exact State.Touches.refl _ _
    · exact State.Touches.refl _ _

theorem State.hubBoardHot_to (s : State) : s.Touches [.regs, .log, .mgt, .sent] (State.hubBoardHot s) := by
  unfold State.hubBoardHot
  extract_lets +onlyGivenNames lim_0
  extract_lets +onlyGivenNames any_1
  extract_lets +onlyGivenNames hub_2
  extract_lets +onlyGivenNames t_3
  have ht_3 : State.Touches s [.regs, .log, .mgt, .sent] t_3 := by
    unfold t_3
    split
    · refine State.Touches.step (State.cooling_to _ _ _) ?_; exact State.Touches.refl _ _
    · split
      · refine State.Touches.step (State.hotEvent_to _ _ _ _) ?_; refine State.Touches.step (State.fs_to _ _ _ _) ?_; exact State.Touches.refl _ _
      · exact State.Touches.refl _ _
  clear_value t_3
  extract_lets +onlyGivenNames b_4
  split
  · exact ht_3
  · refine State.Touches.step (State.hotEvent_to _ _ _ _) ?_; refine State.Touches.step (State.fs_to _ _ _ _) ?_; exact ht_3

theorem State.hotActions_to (s : State) : s.Touches [.regs, .tiers, .sp, .fj, .log, .mgt, .sent] (State.hotActions s) := by
  unfold State.hotActions
  extract_lets +onlyGivenNames t_0
  have ht_0 : State.Touches s [.regs, .tiers, .sp, .fj, .log, .mgt, .sent] t_0 := by
    unfold t_0
    refine State.Touches.foldl ?_ ?_
    · exact State.Touches.refl _ _
    · intro v1 v2 v3
      refine State.Touches.step (State.dieHot_to _ _) ?_; with_reducible assumption
  clear_value t_0
  extract_lets +onlyGivenNames t_4
  have ht_4 : State.Touches s [.regs, .tiers, .sp, .fj, .log, .mgt, .sent] t_4 := by
    unfold t_4
    refine State.Touches.foldl ?_ ?_
    · exact ht_0
    · intro v5 v6 v7
      refine State.Touches.step (State.layerRefresh_to _ _) ?_; with_reducible assumption
  clear_value t_4
  extract_lets +onlyGivenNames t_8
  have ht_8 : State.Touches s [.regs, .tiers, .sp, .fj, .log, .mgt, .sent] t_8 := by
    unfold t_8
    refine State.Touches.foldl ?_ ?_
    · exact ht_4
    · intro v9 v10 v11
      refine State.Touches.step (State.stackHot_to _ _) ?_; with_reducible assumption
  clear_value t_8
  extract_lets +onlyGivenNames t_12
  have ht_12 : State.Touches s [.regs, .tiers, .sp, .fj, .log, .mgt, .sent] t_12 := by
    unfold t_12
    refine State.Touches.foldl ?_ ?_
    · exact ht_8
    · intro v13 v14 v15
      refine State.Touches.step (State.opticHot_to _ _) ?_; with_reducible assumption
  clear_value t_12
  refine State.Touches.step (State.hubBoardHot_to _) ?_; exact ht_12

theorem State.hotReturn_to (s : State) (loc : Nat) : s.Touches [.regs, .log, .mgt, .sent] (State.hotReturn s loc) := by
  unfold State.hotReturn
  extract_lets +onlyGivenNames t_0
  have ht_0 : State.Touches s [.regs, .log, .mgt, .sent] t_0 := by
    unfold t_0
    refine State.Touches.step (State.cooling_to _ _ _) ?_; exact State.Touches.refl _ _
  clear_value t_0
  split
  · refine State.Touches.step (State.setLevel_to _ _ _) ?_; exact ht_0
  · split
    · extract_lets +onlyGivenNames k_1
      extract_lets +onlyGivenNames m_2
      refine State.Touches.step (State.hotEvent_to _ _ _ _) ?_; refine State.Touches.step (State.fs_to _ _ _ _) ?_
      refine State.Touches.step (State.fs_to _ _ _ _) ?_; exact ht_0
    · split
      · extract_lets +onlyGivenNames p_3
        extract_lets +onlyGivenNames v_4
        refine State.Touches.step (State.hotEvent_to _ _ _ _) ?_
        extract_lets +onlyGivenNames w5
        have hw5 : State.Touches s [.regs, .log, .mgt, .sent] w5 := by
          unfold w5
          refine State.Touches.step (State.fs_to _ _ _ _) ?_; exact ht_0
        refine State.Touches.upd w5 ?_
        exact hw5
      · refine State.Touches.step (State.hotEvent_to _ _ _ _) ?_; refine State.Touches.step (State.fs_to _ _ _ _) ?_; exact ht_0

theorem execHotStateReturn_to (loc : Nat) (s : State) : Within s [.regs, .waits, .log, .mgt, .time, .now, .rack, .sent] (execHotStateReturn loc s) := by
  unfold execHotStateReturn
  split
  · refine Within.occurs ?_ ?_
    · exact State.Touches.refl _ _
    · refine State.Touches.step (State.hotReturn_to _ _) ?_; refine State.Touches.step (State.runTo_to _ _) ?_; exact State.Touches.refl _ _
  · refine Within.next ?_
    exact State.Touches.refl _ _

theorem State.refreshDown_to (s : State) (loc : Nat) : s.Touches [.regs, .tiers, .mgt, .sent] (State.refreshDown s loc) := by
  unfold State.refreshDown
  extract_lets +onlyGivenNames t_0
  have ht_0 : State.Touches s [.regs, .tiers, .mgt, .sent] t_0 := by
    unfold t_0
    refine State.Touches.step (State.cooling_to _ _ _) ?_; exact State.Touches.refl _ _
  clear_value t_0
  split
  · extract_lets +onlyGivenNames k_1
    extract_lets +onlyGivenNames core_2
    extract_lets +onlyGivenNames r_3
    refine State.Touches.step (State.msixBoth_to _ _) ?_; refine State.Touches.step (State.setRefresh_to _ _ _ _) ?_; exact ht_0
  · refine State.Touches.step (State.msixBoth_to _ _) ?_; refine State.Touches.step (State.fs_to _ _ _ _) ?_; exact ht_0

theorem execRefreshStepDown_to (loc : Nat) (s : State) : Within s [.regs, .waits, .tiers, .mgt, .time, .now, .rack, .sent] (execRefreshStepDown loc s) := by
  unfold execRefreshStepDown
  split
  · refine Within.occurs ?_ ?_
    · exact State.Touches.refl _ _
    · refine State.Touches.step (State.refreshDown_to _ _) ?_; refine State.Touches.step (State.runTo_to _ _) ?_; exact State.Touches.refl _ _
  · refine Within.next ?_
    exact State.Touches.refl _ _

theorem State.railsOff_to (s : State) (power : Nat) : s.Touches [.regs, .mem, .far, .seq, .waits, .imem, .tiers, .stamps, .links, .sp, .fj, .keys, .rind, .fw, .cle, .kpu, .eru, .img, .cfg, .bud, .host, .pause, .log, .owner, .trips, .boot, .pins, .mgt, .time, .power, .rack, .boundaryNo, .sent] (State.railsOff s power) := by
  intro p hp; cases p <;> first | exact absurd hp (by decide) | rfl

theorem State.thermalTrip_to (s : State) (ids : List Nat) : s.Touches [.regs, .mem, .far, .seq, .waits, .imem, .tiers, .stamps, .links, .sp, .fj, .keys, .rind, .fw, .cle, .kpu, .eru, .img, .cfg, .bud, .host, .pause, .log, .owner, .trips, .boot, .pins, .mgt, .time, .power, .rack, .boundaryNo, .sent] (State.thermalTrip s ids) := by
  unfold State.thermalTrip
  split
  · exact State.Touches.refl _ _
  · extract_lets +onlyGivenNames seq_0
    extract_lets +onlyGivenNames seq_1
    extract_lets +onlyGivenNames seq_2
    extract_lets +onlyGivenNames seq_3
    extract_lets +onlyGivenNames seq_4
    extract_lets +onlyGivenNames seq_5
    extract_lets +onlyGivenNames seq_6
    extract_lets +onlyGivenNames seq_7
    extract_lets +onlyGivenNames b_8
    extract_lets +onlyGivenNames t_9
    have ht_9 : State.Touches s [.regs, .mem, .far, .seq, .waits, .imem, .tiers, .stamps, .links, .sp, .fj, .keys, .rind, .fw, .cle, .kpu, .eru, .img, .cfg, .bud, .host, .pause, .log, .owner, .trips, .boot, .pins, .mgt, .time, .power, .rack, .boundaryNo, .sent] t_9 := by
      unfold t_9
      refine State.Touches.step (State.emit_to _ _) ?_; refine State.Touches.step (State.platformEvent_to _ _) ?_
      refine State.Touches.step (State.log_to _ _ _ _ _) ?_; exact State.Touches.refl _ _
    clear_value t_9
    extract_lets +onlyGivenNames trips_10
    extract_lets +onlyGivenNames u_11
    extract_lets +onlyGivenNames u_12
    extract_lets +onlyGivenNames u_13
    have hu_13 : State.Touches s [.regs, .mem, .far, .seq, .waits, .imem, .tiers, .stamps, .links, .sp, .fj, .keys, .rind, .fw, .cle, .kpu, .eru, .img, .cfg, .bud, .host, .pause, .log, .owner, .trips, .boot, .pins, .mgt, .time, .power, .rack, .boundaryNo, .sent] u_13 := by
      unfold u_13
      refine State.Touches.upd t_9 ?_
      exact ht_9
    clear_value u_13
    split
    · exact hu_13
    · extract_lets +onlyGivenNames v_14
      have hv_14 : State.Touches s [.regs, .mem, .far, .seq, .waits, .imem, .tiers, .stamps, .links, .sp, .fj, .keys, .rind, .fw, .cle, .kpu, .eru, .img, .cfg, .bud, .host, .pause, .log, .owner, .trips, .boot, .pins, .mgt, .time, .power, .rack, .boundaryNo, .sent] v_14 := by
        unfold v_14
        refine State.Touches.step (State.railsOff_to _ _) ?_; exact hu_13
      clear_value v_14
      refine State.Touches.upd v_14 ?_
      exact hv_14

theorem State.setG_to (s : State) (g : Nat) : s.Touches [.regs] (State.setG s g) := by
  unfold State.setG
  refine State.Touches.step (State.fs_to _ _ _ _) ?_; refine State.Touches.step (State.fs_to _ _ _ _) ?_
  refine State.Touches.step (State.fs_to _ _ _ _) ?_; exact State.Touches.refl _ _

theorem State.govCheck_to (s : State) (mean : Nat) : s.Touches [.regs, .mgt] (State.govCheck s mean) := by
  unfold State.govCheck
  extract_lets +onlyGivenNames e_0
  extract_lets +onlyGivenNames k_1
  extract_lets +onlyGivenNames g_2
  extract_lets +onlyGivenNames dn_3
  extract_lets +onlyGivenNames t_4
  extract_lets +onlyGivenNames t_5
  have ht_5 : State.Touches s [.regs, .mgt] t_5 := by
    unfold t_5
    refine State.Touches.upd s ?_
    exact State.Touches.refl _ _
  clear_value t_5
  refine State.Touches.step (State.setG_to _ _) ?_; refine State.Touches.step (State.fs_to _ _ _ _) ?_; exact ht_5

theorem execGovernorCheck_to (meanW : Nat) (s : State) : Within s [.regs, .waits, .mgt, .time, .now, .rack] (execGovernorCheck meanW s) := by
  unfold execGovernorCheck
  refine Within.occurs ?_ ?_
  · exact State.Touches.refl _ _
  · refine State.Touches.step (State.govCheck_to _ _) ?_; refine State.Touches.step (State.runToRack_to _ _) ?_; exact State.Touches.refl _ _

theorem State.windowEnd_to (s : State) (mean : Nat) : s.Touches [.regs, .log, .mgt, .sent] (State.windowEnd s mean) := by
  unfold State.windowEnd
  extract_lets +onlyGivenNames g_0
  extract_lets +onlyGivenNames cap_1
  extract_lets +onlyGivenNames t_2
  have ht_2 : State.Touches s [.regs, .log, .mgt, .sent] t_2 := by
    unfold t_2
    refine State.Touches.step (State.fs_to _ _ _ _) ?_; exact State.Touches.refl _ _
  clear_value t_2
  extract_lets +onlyGivenNames t_3
  have ht_3 : State.Touches s [.regs, .log, .mgt, .sent] t_3 := by
    unfold t_3
    split
    · refine State.Touches.step (State.setG_to _ _) ?_; exact ht_2
    · exact ht_2
  clear_value t_3
  extract_lets +onlyGivenNames bad_4
  extract_lets +onlyGivenNames t_5
  have ht_5 : State.Touches s [.regs, .log, .mgt, .sent] t_5 := by
    unfold t_5
    split
    · refine State.Touches.step (State.log_to _ _ _ _ _) ?_; refine State.Touches.step (State.raise_to _ _ _) ?_; exact ht_3
    · exact ht_3
  clear_value t_5
  extract_lets +onlyGivenNames t_6
  have ht_6 : State.Touches s [.regs, .log, .mgt, .sent] t_6 := by
    unfold t_6
    refine State.Touches.step (State.fs_to _ _ _ _) ?_; refine State.Touches.step (State.fs_to _ _ _ _) ?_; exact ht_5
  clear_value t_6
  refine State.Touches.upd t_6 ?_
  exact ht_6

theorem execPowerWindowEnd_to (meanW : Nat) (s : State) : Within s [.regs, .waits, .log, .mgt, .time, .now, .rack, .sent] (execPowerWindowEnd meanW s) := by
  unfold execPowerWindowEnd
  extract_lets +onlyGivenNames due_0
  refine Within.occurs ?_ ?_
  · exact State.Touches.refl _ _
  · refine State.Touches.step (State.windowEnd_to _ _) ?_; refine State.Touches.step (State.runToRack_to _ _) ?_; exact State.Touches.refl _ _

theorem execPwrCapWrite_to (port cap : Nat) (s : State) : Within s [.regs] (execPwrCapWrite port cap s) := by
  unfold execPwrCapWrite
  refine Within.occurs ?_ ?_
  · exact State.Touches.refl _ _
  · split
    · refine State.Touches.step (State.fs_to _ _ _ _) ?_; exact State.Touches.refl _ _
    · refine State.Touches.step (State.raise_to _ _ _) ?_; exact State.Touches.refl _ _

theorem State.latchAlert_to (s : State) : s.Touches [.regs] (State.latchAlert s) := by
  unfold State.latchAlert
  refine State.Touches.step (State.showScales_to _) ?_; refine State.Touches.step (State.raise_to _ _ _) ?_; exact State.Touches.refl _ _

theorem State.alertOn_to (s : State) : s.Touches [.regs, .mgt] (State.alertOn s) := by
  unfold State.alertOn
  extract_lets +onlyGivenNames l_0
  extract_lets +onlyGivenNames t_1
  extract_lets +onlyGivenNames t_2
  have ht_2 : State.Touches s [.regs, .mgt] t_2 := by
    unfold t_2
    refine State.Touches.upd s ?_
    exact State.Touches.refl _ _
  clear_value t_2
  extract_lets +onlyGivenNames t_3
  have ht_3 : State.Touches s [.regs, .mgt] t_3 := by
    unfold t_3
    refine State.Touches.step (State.count_to _ _) ?_; refine State.Touches.step (State.fs_to _ _ _ _) ?_
    refine State.Touches.step (State.fs_to _ _ _ _) ?_; exact ht_2
  clear_value t_3
  split
  · refine State.Touches.step (State.latchAlert_to _) ?_; exact ht_3
  · refine State.Touches.step (State.showScales_to _) ?_; exact ht_3

theorem execAlertAsserted_to (s : State) : Within s [.regs, .mgt] (execAlertAsserted s) := by
  unfold execAlertAsserted
  refine Within.occurs ?_ ?_
  · exact State.Touches.refl _ _
  · refine State.Touches.step (State.alertOn_to _) ?_; exact State.Touches.refl _ _

theorem execAlertRemoved_to (s : State) : Within s [.regs, .mgt] (execAlertRemoved s) := by
  unfold execAlertRemoved
  refine Within.occurs ?_ ?_
  · exact State.Touches.refl _ _
  · refine State.Touches.step (State.fs_to _ _ _ _) ?_; refine State.Touches.step (State.fs_to _ _ _ _) ?_
    refine State.Touches.upd s ?_
    exact State.Touches.refl _ _

theorem execAlertScaleRelease_to (s : State) : Within s [.regs, .waits, .mgt, .time, .now, .rack] (execAlertScaleRelease s) := by
  unfold execAlertScaleRelease
  split
  · refine Within.next ?_
    extract_lets +onlyGivenNames u_0
    have hu_0 : State.Touches s [.regs, .waits, .mgt, .time, .now, .rack] u_0 := by
      unfold u_0
      refine State.Touches.step (State.runTo_to _ _) ?_; exact State.Touches.refl _ _
    clear_value u_0
    refine State.Touches.step (State.showScales_to _) ?_
    refine State.Touches.upd u_0 ?_
    exact hu_0
  · refine Within.next ?_
    exact State.Touches.refl _ _

theorem execAlertLatched_to (s : State) : Within s [.regs, .waits, .time, .now, .rack] (execAlertLatched s) := by
  unfold execAlertLatched
  split
  · refine Within.next ?_
    refine State.Touches.step (State.latchAlert_to _) ?_; refine State.Touches.step (State.runTo_to _ _) ?_; exact State.Touches.refl _ _
  · refine Within.next ?_
    exact State.Touches.refl _ _

theorem execAlertRearm_to (port : Nat) (s : State) : Within s [.regs, .mgt] (execAlertRearm port s) := by
  unfold execAlertRearm
  refine Within.occurs ?_ ?_
  · exact State.Touches.refl _ _
  · refine State.Touches.step (State.showScales_to _) ?_; refine State.Touches.step (State.fs_to _ _ _ _) ?_
    refine State.Touches.upd s ?_
    exact State.Touches.refl _ _

theorem execMgtClearCounts_to (port : Nat) (s : State) : Within s [.regs] (execMgtClearCounts port s) := by
  unfold execMgtClearCounts
  refine Within.occurs ?_ ?_
  · exact State.Touches.refl _ _
  · refine State.Touches.step (State.zeroRegs_to _ _) ?_; exact State.Touches.refl _ _

theorem execPinClearCounts_to (port : Nat) (s : State) : Within s [.regs] (execPinClearCounts port s) := by
  unfold execPinClearCounts
  refine Within.occurs ?_ ?_
  · exact State.Touches.refl _ _
  · refine State.Touches.step (State.zeroRegs_to _ _) ?_; exact State.Touches.refl _ _

theorem execMgcWatchdog_to (s : State) : Within s [.regs, .seq, .sp, .fj, .pause, .log, .pins, .mgt, .sent] (execMgcWatchdog s) := by
  unfold execMgcWatchdog
  refine Within.occurs ?_ ?_
  · exact State.Touches.refl _ _
  · refine State.Touches.step (State.fatalError_to _ _) ?_; exact State.Touches.refl _ _

theorem execMgcSramUncorrectable_to (addr : Nat) (s : State) : Within s [.regs, .seq, .sp, .fj, .pause, .log, .pins, .mgt, .sent] (execMgcSramUncorrectable addr s) := by
  unfold execMgcSramUncorrectable
  extract_lets +onlyGivenNames shares_0
  refine Within.occurs ?_ ?_
  · exact State.Touches.refl _ _
  · refine State.Touches.step (State.fatalError_to _ _) ?_; refine State.Touches.step (State.fsat_to _ _ _ _) ?_; exact State.Touches.refl _ _

theorem execInternalParityError_to (_hub : Bool) (s : State) : Within s [.regs, .seq, .sp, .fj, .pause, .log, .pins, .mgt, .sent] (execInternalParityError _hub s) := by
  unfold execInternalParityError
  refine Within.occurs ?_ ?_
  · exact State.Touches.refl _ _
  · refine State.Touches.step (State.fatalError_to _ _) ?_; exact State.Touches.refl _ _

theorem State.slotFails_to (s : State) (i : Nat) : s.Touches [.fw] (State.slotFails s i) := by
  unfold State.slotFails
  refine State.Touches.upd s ?_
  exact State.Touches.refl _ _

theorem State.fwOpen_to (s : State) (who len : Nat) : s.Touches [.regs, .fw] (State.fwOpen s who len).2 := by
  unfold State.fwOpen
  split
  · exact State.Touches.refl _ _
  · extract_lets +onlyGivenNames t_0
    have ht_0 : State.Touches s [.regs, .fw] t_0 := by
      unfold t_0
      refine State.Touches.step (State.slotFails_to _ _) ?_; exact State.Touches.refl _ _
    clear_value t_0
    dsimp only
    refine State.Touches.step (State.fs_to _ _ _ _) ?_
    refine State.Touches.upd t_0 ?_
    exact ht_0

theorem State.fwPiece_to (s : State) (who off : Nat) (b : Bytes) : s.Touches [.fw] (State.fwPiece s who off b).2 := by
  unfold State.fwPiece
  split
  · split
    · exact State.Touches.refl _ _
    · split
      · exact State.Touches.refl _ _
      · dsimp only
        refine State.Touches.upd s ?_
        exact State.Touches.refl _ _
  · exact State.Touches.refl _ _

theorem State.fwClose_to (s : State) (who : Nat) : s.Touches [.regs, .fw] (State.fwClose s who).2 := by
  unfold State.fwClose
  split
  · split
    · exact State.Touches.refl _ _
    · extract_lets +onlyGivenNames b_0
      extract_lets +onlyGivenNames c_1
      extract_lets +onlyGivenNames i_2
      split
      · dsimp only
        refine State.Touches.step (State.fs_to _ _ _ _) ?_; refine State.Touches.step (State.fs_to _ _ _ _) ?_
        refine State.Touches.upd s ?_
        exact State.Touches.refl _ _
      · dsimp only
        refine State.Touches.step (State.fs_to _ _ _ _) ?_
        refine State.Touches.upd s ?_
        exact State.Touches.refl _ _
  · exact State.Touches.refl _ _

theorem State.fwAbandon_to (s : State) : s.Touches [.fw] (State.fwAbandon s) := by
  unfold State.fwAbandon
  split
  · refine State.Touches.step (State.slotFails_to _ _) ?_
    refine State.Touches.upd s ?_
    exact State.Touches.refl _ _
  · exact State.Touches.refl _ _

theorem State.startRegs_to (s : State) (cause boot ports : Nat) : s.Touches [.regs] (State.startRegs s cause boot ports) := by
  unfold State.startRegs
  extract_lets +onlyGivenNames t_0
  have ht_0 : State.Touches s [.regs] t_0 := by
    unfold t_0
    refine State.Touches.step (State.wr_to _ _ _) ?_; refine State.Touches.step (State.wr_to _ _ _) ?_
    refine State.Touches.step (State.wr_to _ _ _) ?_; refine State.Touches.step (State.wr_to _ _ _) ?_
    refine State.Touches.step (State.wr_to _ _ _) ?_; exact State.Touches.refl _ _
  clear_value t_0
  extract_lets +onlyGivenNames t_1
  have ht_1 : State.Touches s [.regs] t_1 := by
    unfold t_1
    refine State.Touches.step (State.fs_to _ _ _ _) ?_; refine State.Touches.step (State.fs_to _ _ _ _) ?_
    refine State.Touches.step (State.fs_to _ _ _ _) ?_; refine State.Touches.step (State.wr_to _ _ _) ?_; exact ht_0
  clear_value t_1
  extract_lets +onlyGivenNames r_2
  extract_lets +onlyGivenNames t_3
  have ht_3 : State.Touches s [.regs] t_3 := by
    unfold t_3
    refine State.Touches.step (State.wr_to _ _ _) ?_; refine State.Touches.step (State.wr_to _ _ _) ?_
    refine State.Touches.step (State.wr_to _ _ _) ?_; refine State.Touches.step (State.wr_to _ _ _) ?_; exact ht_1
  clear_value t_3
  extract_lets +onlyGivenNames t_4
  have ht_4 : State.Touches s [.regs] t_4 := by
    unfold t_4
    refine State.Touches.step (State.fs_to _ _ _ _) ?_; refine State.Touches.step (State.fs_to _ _ _ _) ?_; exact ht_3
  clear_value t_4
  refine State.Touches.foldl ?_ ?_
  · exact ht_4
  · intro v5 v6 v7
    split
    · refine State.Touches.step (State.wr_to _ _ _) ?_; with_reducible assumption
    · with_reducible assumption

theorem State.startOnce_to (s : State) (cause : Nat) : s.Touches [.regs, .mem, .far, .seq, .waits, .imem, .tiers, .stamps, .links, .sp, .fj, .keys, .rind, .fw, .cle, .kpu, .eru, .img, .cfg, .bud, .host, .pause, .log, .owner, .trips, .boot, .pins, .mgt, .time, .power, .rack, .boundaryNo, .sent] (State.startOnce s cause) := by
  unfold State.startOnce
  extract_lets boot w0 fw ports low w1 w2 w7 c w3 w4 w5 w6 v0 v1 v2 v3 v4 v5 t t1 t2
  have ht : s.Touches [.regs, .mem, .far, .seq, .waits, .imem, .tiers, .stamps, .links, .sp, .fj, .keys, .rind, .fw, .cle, .kpu, .eru, .img, .cfg, .bud, .host, .pause, .log, .owner, .trips, .boot, .pins, .mgt, .time, .power, .rack, .boundaryNo, .sent] t := by
    intro p hp; cases p <;> first | exact absurd hp (by decide) | rfl
  have ht1 : s.Touches [.regs, .mem, .far, .seq, .waits, .imem, .tiers, .stamps, .links, .sp, .fj, .keys, .rind, .fw, .cle, .kpu, .eru, .img, .cfg, .bud, .host, .pause, .log, .owner, .trips, .boot, .pins, .mgt, .time, .power, .rack, .boundaryNo, .sent] t1 := by
    unfold t1
    split
    · exact ht
    · exact State.Touches.step (State.emit_to _ _) ht
  have ht2 : s.Touches [.regs, .mem, .far, .seq, .waits, .imem, .tiers, .stamps, .links, .sp, .fj, .keys, .rind, .fw, .cle, .kpu, .eru, .img, .cfg, .bud, .host, .pause, .log, .owner, .trips, .boot, .pins, .mgt, .time, .power, .rack, .boundaryNo, .sent] t2 := by
    unfold t2
    split
    · exact ht1
    · exact State.Touches.step (State.emit_to _ _) ht1
  exact State.Touches.step (State.log_to _ _ _ _ _) (State.Touches.step (State.startRegs_to _ _ _ _) ht2)

theorem State.startModule_to (s : State) (cause : Nat) : s.Touches [.regs, .mem, .far, .seq, .waits, .imem, .tiers, .stamps, .links, .sp, .fj, .keys, .rind, .fw, .cle, .kpu, .eru, .img, .cfg, .bud, .host, .pause, .log, .owner, .trips, .boot, .pins, .mgt, .time, .power, .rack, .boundaryNo, .sent] (State.startModule s cause) := by
  unfold State.startModule
  extract_lets +onlyGivenNames t_0
  extract_lets +onlyGivenNames t_1
  extract_lets +onlyGivenNames t_2
  extract_lets +onlyGivenNames t_3
  extract_lets +onlyGivenNames t_4
  extract_lets +onlyGivenNames t_5
  extract_lets +onlyGivenNames t_6
  extract_lets +onlyGivenNames t_7
  have ht_7 : State.Touches s [.regs, .mem, .far, .seq, .waits, .imem, .tiers, .stamps, .links, .sp, .fj, .keys, .rind, .fw, .cle, .kpu, .eru, .img, .cfg, .bud, .host, .pause, .log, .owner, .trips, .boot, .pins, .mgt, .time, .power, .rack, .boundaryNo, .sent] t_7 := by
    unfold t_7
    refine State.Touches.step (State.startOnce_to _ _) ?_; refine State.Touches.step (State.fwAbandon_to _) ?_; exact State.Touches.refl _ _
  clear_value t_7
  extract_lets +onlyGivenNames b_8
  split
  · refine State.Touches.step (State.startOnce_to _ _) ?_; refine State.Touches.step (State.slotFails_to _ _) ?_; exact ht_7
  · exact ht_7

theorem State.bringUp_to (s : State) : s.Touches [.regs, .seq, .links, .sp, .fj, .cle, .img, .bud, .host, .pause, .log, .mgt, .sent] (State.bringUp s) := by
  unfold State.bringUp
  extract_lets +onlyGivenNames t_0
  have ht_0 : State.Touches s [.regs, .seq, .links, .sp, .fj, .cle, .img, .bud, .host, .pause, .log, .mgt, .sent] t_0 := by
    unfold t_0
    refine State.Touches.foldl ?_ ?_
    · exact State.Touches.refl _ _
    · intro v1 v2 v3
      refine State.Touches.step (State.setAclk_to _ _ _) ?_; refine State.Touches.step (State.fs_to _ _ _ _) ?_; with_reducible assumption
  clear_value t_0
  extract_lets +onlyGivenNames t_4
  have ht_4 : State.Touches s [.regs, .seq, .links, .sp, .fj, .cle, .img, .bud, .host, .pause, .log, .mgt, .sent] t_4 := by
    unfold t_4
    refine State.Touches.foldl ?_ ?_
    · exact ht_0
    · intro v5 v6 v7
      refine State.Touches.step (State.fs_to _ _ _ _) ?_; with_reducible assumption
  clear_value t_4
  extract_lets +onlyGivenNames t_8
  have ht_8 : State.Touches s [.regs, .seq, .links, .sp, .fj, .cle, .img, .bud, .host, .pause, .log, .mgt, .sent] t_8 := by
    unfold t_8
    refine State.Touches.step (State.fs_to _ _ _ _) ?_; refine State.Touches.step (State.fs_to _ _ _ _) ?_; exact ht_4
  clear_value t_8
  extract_lets +onlyGivenNames t_9
  have ht_9 : State.Touches s [.regs, .seq, .links, .sp, .fj, .cle, .img, .bud, .host, .pause, .log, .mgt, .sent] t_9 := by
    unfold t_9
    refine State.Touches.foldl ?_ ?_
    · exact ht_8
    · intro v10 v11 v12
      refine State.Touches.step (State.trainLink_to _ _) ?_; refine State.Touches.step (State.trainLink_to _ _) ?_; with_reducible assumption
  clear_value t_9
  extract_lets +onlyGivenNames t_13
  have ht_13 : State.Touches s [.regs, .seq, .links, .sp, .fj, .cle, .img, .bud, .host, .pause, .log, .mgt, .sent] t_13 := by
    unfold t_13
    refine State.Touches.foldl ?_ ?_
    · exact ht_9
    · intro v14 v15 v16
      split
      · refine State.Touches.step (State.fenceDie_to _ _ _) ?_; with_reducible assumption
      · with_reducible assumption
  clear_value t_13
  refine State.Touches.step (State.setState_to _ _) ?_; exact ht_13

theorem State.fwConfirm_to (s : State) : s.Touches [.regs, .fw, .fuses, .log, .sent] (State.fwConfirm s) := by
  unfold State.fwConfirm
  split
  · split
    · exact State.Touches.refl _ _
    · extract_lets +onlyGivenNames b_0
      extract_lets +onlyGivenNames r_1
      refine State.Touches.step (State.log_to _ _ _ _ _) ?_; refine State.Touches.step (State.fs_to _ _ _ _) ?_
      refine State.Touches.upd s ?_
      exact State.Touches.refl _ _
  · split
    · exact State.Touches.refl _ _
    · extract_lets +onlyGivenNames b_2
      extract_lets +onlyGivenNames r_3
      refine State.Touches.step (State.log_to _ _ _ _ _) ?_; refine State.Touches.step (State.fs_to _ _ _ _) ?_
      refine State.Touches.upd s ?_
      exact State.Touches.refl _ _

theorem State.haunoBoot_to (s : State) : s.Touches [.regs, .log, .mgt, .sent] (State.haunoBoot s) := by
  unfold State.haunoBoot
  split
  · refine State.Touches.upd s ?_
    exact State.Touches.refl _ _
  · refine State.Touches.step (State.log_to _ _ _ _ _) ?_; exact State.Touches.refl _ _

theorem State.bootReady_to (s : State) : s.Touches [.regs, .seq, .links, .sp, .fj, .fw, .cle, .img, .bud, .host, .pause, .fuses, .log, .pins, .mgt, .sent] (State.bootReady s) := by
  unfold State.bootReady
  extract_lets +onlyGivenNames t_0
  have ht_0 : State.Touches s [.regs, .seq, .links, .sp, .fj, .fw, .cle, .img, .bud, .host, .pause, .fuses, .log, .pins, .mgt, .sent] t_0 := by
    unfold t_0
    split
    · refine State.Touches.step (State.log_to _ _ _ _ _) ?_; refine State.Touches.step (State.firmwareUp_to _) ?_; exact State.Touches.refl _ _
    · refine State.Touches.step (State.firmwareUp_to _) ?_; exact State.Touches.refl _ _
  clear_value t_0
  split
  · extract_lets +onlyGivenNames w1
    have hw1 : State.Touches s [.regs, .seq, .links, .sp, .fj, .fw, .cle, .img, .bud, .host, .pause, .fuses, .log, .pins, .mgt, .sent] w1 := by
      unfold w1
      refine State.Touches.step (State.emit_to _ _) ?_; exact ht_0
    refine State.Touches.upd w1 ?_
    exact hw1
  · split
    · refine State.Touches.step (State.setState_to _ _) ?_; exact ht_0
    · refine State.Touches.step (State.haunoBoot_to _) ?_; refine State.Touches.step (State.fwConfirm_to _) ?_
      refine State.Touches.step (State.bringUp_to _) ?_; exact ht_0

theorem execBootReady_to (s : State) : Within s [.regs, .seq, .links, .sp, .fj, .fw, .cle, .img, .bud, .host, .pause, .fuses, .log, .pins, .mgt, .sent] (execBootReady s) := by
  unfold execBootReady
  extract_lets +onlyGivenNames early_0
  refine Within.occurs ?_ ?_
  · exact State.Touches.refl _ _
  · refine State.Touches.step (State.bootReady_to _) ?_; exact State.Touches.refl _ _

theorem execUpdateWatchdog_to (s : State) : Within s [.regs, .mem, .far, .seq, .waits, .imem, .tiers, .stamps, .links, .sp, .fj, .keys, .rind, .fw, .cle, .kpu, .eru, .img, .cfg, .bud, .host, .pause, .log, .owner, .trips, .boot, .pins, .mgt, .time, .power, .now, .rack, .boundaryNo, .sent] (execUpdateWatchdog s) := by
  unfold execUpdateWatchdog
  split
  · refine Within.occurs ?_ ?_
    · exact State.Touches.refl _ _
    · extract_lets +onlyGivenNames u_0
      extract_lets +onlyGivenNames u_1
      extract_lets +onlyGivenNames u_2
      extract_lets +onlyGivenNames u_3
      extract_lets +onlyGivenNames u_4
      extract_lets +onlyGivenNames u_5
      extract_lets +onlyGivenNames u_6
      extract_lets +onlyGivenNames u_7
      have hu_7 : State.Touches s [.regs, .mem, .far, .seq, .waits, .imem, .tiers, .stamps, .links, .sp, .fj, .keys, .rind, .fw, .cle, .kpu, .eru, .img, .cfg, .bud, .host, .pause, .log, .owner, .trips, .boot, .pins, .mgt, .time, .power, .now, .rack, .boundaryNo, .sent] u_7 := by
        unfold u_7
        refine State.Touches.step (State.runTo_to _ _) ?_; exact State.Touches.refl _ _
      clear_value u_7
      refine State.Touches.step (State.startModule_to _ _) ?_
      refine State.Touches.upd u_7 ?_
      exact hu_7
  · refine Within.next ?_
    exact State.Touches.refl _ _

theorem execModuleResetExecute_to (s : State) : Within s [.regs, .mem, .far, .seq, .waits, .imem, .tiers, .stamps, .links, .sp, .fj, .keys, .rind, .fw, .cle, .kpu, .eru, .img, .cfg, .bud, .host, .pause, .log, .owner, .trips, .boot, .pins, .mgt, .time, .power, .now, .rack, .boundaryNo, .sent] (execModuleResetExecute s) := by
  unfold execModuleResetExecute
  split
  · refine Within.occurs ?_ ?_
    · exact State.Touches.refl _ _
    · refine State.Touches.step (State.startModule_to _ _) ?_; refine State.Touches.step (State.runTo_to _ _) ?_; exact State.Touches.refl _ _
  · refine Within.next ?_
    exact State.Touches.refl _ _

theorem execInputPowerFail_to (dv : Nat) (s : State) : Within s [.regs, .mem, .far, .seq, .waits, .imem, .tiers, .stamps, .links, .sp, .fj, .keys, .rind, .fw, .cle, .kpu, .eru, .img, .cfg, .bud, .host, .pause, .log, .owner, .trips, .boot, .pins, .mgt, .time, .power, .rack, .boundaryNo, .sent] (execInputPowerFail dv s) := by
  unfold execInputPowerFail
  extract_lets +onlyGivenNames t_0
  extract_lets +onlyGivenNames t_1
  extract_lets +onlyGivenNames t_2
  extract_lets +onlyGivenNames t_3
  extract_lets +onlyGivenNames t_4
  extract_lets +onlyGivenNames t_5
  extract_lets +onlyGivenNames t_6
  extract_lets +onlyGivenNames t_7
  extract_lets +onlyGivenNames t_8
  have ht_8 : State.Touches s [.regs, .mem, .far, .seq, .waits, .imem, .tiers, .stamps, .links, .sp, .fj, .keys, .rind, .fw, .cle, .kpu, .eru, .img, .cfg, .bud, .host, .pause, .log, .owner, .trips, .boot, .pins, .mgt, .time, .power, .rack, .boundaryNo, .sent] t_8 := by
    unfold t_8
    refine State.Touches.upd s ?_
    exact State.Touches.refl _ _
  clear_value t_8
  refine Within.occurs ?_ ?_
  · exact State.Touches.refl _ _
  · extract_lets +onlyGivenNames u_9
    have hu_9 : State.Touches s [.regs, .mem, .far, .seq, .waits, .imem, .tiers, .stamps, .links, .sp, .fj, .keys, .rind, .fw, .cle, .kpu, .eru, .img, .cfg, .bud, .host, .pause, .log, .owner, .trips, .boot, .pins, .mgt, .time, .power, .rack, .boundaryNo, .sent] u_9 := by
      unfold u_9
      split
      · refine State.Touches.step (State.railsOff_to _ _) ?_; exact ht_8
      · exact ht_8
    clear_value u_9
    refine State.Touches.step (State.fs_to _ _ _ _) ?_; refine State.Touches.step (State.fs_to _ _ _ _) ?_; exact hu_9

theorem execInputPowerRestored_to (dv : Nat) (s : State) : Within s [.regs, .mem, .far, .seq, .waits, .imem, .tiers, .stamps, .links, .sp, .fj, .keys, .rind, .fw, .cle, .kpu, .eru, .img, .cfg, .bud, .host, .pause, .log, .owner, .trips, .boot, .pins, .mgt, .time, .power, .now, .rack, .boundaryNo, .sent] (execInputPowerRestored dv s) := by
  unfold execInputPowerRestored
  extract_lets +onlyGivenNames t_0
  extract_lets +onlyGivenNames t_1
  extract_lets +onlyGivenNames t_2
  extract_lets +onlyGivenNames t_3
  extract_lets +onlyGivenNames t_4
  extract_lets +onlyGivenNames t_5
  extract_lets +onlyGivenNames t_6
  extract_lets +onlyGivenNames t_7
  extract_lets +onlyGivenNames t_8
  have ht_8 : State.Touches s [.regs, .mem, .far, .seq, .waits, .imem, .tiers, .stamps, .links, .sp, .fj, .keys, .rind, .fw, .cle, .kpu, .eru, .img, .cfg, .bud, .host, .pause, .log, .owner, .trips, .boot, .pins, .mgt, .time, .power, .now, .rack, .boundaryNo, .sent] t_8 := by
    unfold t_8
    refine State.Touches.upd s ?_
    exact State.Touches.refl _ _
  clear_value t_8
  extract_lets +onlyGivenNames shown_9
  have hshown_9 : ∀ a0, State.Touches s [.regs, .mem, .far, .seq, .waits, .imem, .tiers, .stamps, .links, .sp, .fj, .keys, .rind, .fw, .cle, .kpu, .eru, .img, .cfg, .bud, .host, .pause, .log, .owner, .trips, .boot, .pins, .mgt, .time, .power, .now, .rack, .boundaryNo, .sent] a0 → State.Touches s [.regs, .mem, .far, .seq, .waits, .imem, .tiers, .stamps, .links, .sp, .fj, .keys, .rind, .fw, .cle, .kpu, .eru, .img, .cfg, .bud, .host, .pause, .log, .owner, .trips, .boot, .pins, .mgt, .time, .power, .now, .rack, .boundaryNo, .sent] (shown_9 a0) := by
    unfold shown_9
    intro v10 v11
    refine State.Touches.step (State.fs_to _ _ _ _) ?_; refine State.Touches.step (State.fs_to _ _ _ _) ?_; with_reducible assumption
  clear_value shown_9
  refine Within.occurs ?_ ?_
  · exact State.Touches.refl _ _
  · split
    · apply hshown_9; refine State.Touches.step (State.startModule_to _ _) ?_; refine State.Touches.step (State.pass_to _ _) ?_; exact ht_8
    · split
      · apply hshown_9
        extract_lets +onlyGivenNames w12
        have hw12 : State.Touches s [.regs, .mem, .far, .seq, .waits, .imem, .tiers, .stamps, .links, .sp, .fj, .keys, .rind, .fw, .cle, .kpu, .eru, .img, .cfg, .bud, .host, .pause, .log, .owner, .trips, .boot, .pins, .mgt, .time, .power, .now, .rack, .boundaryNo, .sent] w12 := by
          unfold w12
          refine State.Touches.step (State.pass_to _ _) ?_; exact ht_8
        refine State.Touches.upd w12 ?_
        exact hw12
      · split
        · apply hshown_9; exact ht_8
        · exact ht_8

theorem State.auxFail_to (s : State) : s.Touches [.regs, .mem, .far, .seq, .waits, .imem, .tiers, .stamps, .links, .sp, .fj, .keys, .rind, .fw, .cle, .kpu, .eru, .img, .cfg, .bud, .host, .pause, .log, .owner, .trips, .boot, .pins, .mgt, .time, .power, .rack, .boundaryNo, .sent] (State.auxFail s) := by
  unfold State.auxFail
  extract_lets w1 w0 c w2 w3 v0 v1 v2 v3 v4 v5 t t1
  have ht : s.Touches [.regs, .mem, .far, .seq, .waits, .imem, .tiers, .stamps, .links, .sp, .fj, .keys, .rind, .fw, .cle, .kpu, .eru, .img, .cfg, .bud, .host, .pause, .log, .owner, .trips, .boot, .pins, .mgt, .time, .power, .rack, .boundaryNo, .sent] t := by
    intro p hp; cases p <;> first | exact absurd hp (by decide) | rfl
  have ht1 : s.Touches [.regs, .mem, .far, .seq, .waits, .imem, .tiers, .stamps, .links, .sp, .fj, .keys, .rind, .fw, .cle, .kpu, .eru, .img, .cfg, .bud, .host, .pause, .log, .owner, .trips, .boot, .pins, .mgt, .time, .power, .rack, .boundaryNo, .sent] t1 := by
    unfold t1
    split
    · exact State.Touches.step (State.emit_to _ _) ht
    · exact ht
  refine State.Touches.step (State.fs_to _ _ _ _) ?_
  split
  · exact State.Touches.step (State.emit_to _ _) ht1
  · exact ht1

theorem execAuxPowerFail_to (s : State) : Within s [.regs, .mem, .far, .seq, .waits, .imem, .tiers, .stamps, .links, .sp, .fj, .keys, .rind, .fw, .cle, .kpu, .eru, .img, .cfg, .bud, .host, .pause, .log, .owner, .trips, .boot, .pins, .mgt, .time, .power, .rack, .boundaryNo, .sent] (execAuxPowerFail s) := by
  unfold execAuxPowerFail
  refine Within.occurs ?_ ?_
  · exact State.Touches.refl _ _
  · refine State.Touches.step (State.auxFail_to _) ?_; exact State.Touches.refl _ _

theorem execAuxPowerUp_to (s : State) : Within s [.regs, .mem, .far, .seq, .waits, .imem, .tiers, .stamps, .links, .sp, .fj, .keys, .rind, .fw, .cle, .kpu, .eru, .img, .cfg, .bud, .host, .pause, .log, .owner, .trips, .boot, .pins, .mgt, .time, .power, .rack, .boundaryNo, .sent] (execAuxPowerUp s) := by
  unfold execAuxPowerUp
  refine Within.occurs ?_ ?_
  · exact State.Touches.refl _ _
  · refine State.Touches.step (State.startModule_to _ _) ?_; exact State.Touches.refl _ _

theorem State.strapChange_to (s : State) (slot rack feed : Nat) : s.Touches [.regs, .log, .pins, .mgt, .sent] (State.strapChange s slot rack feed) := by
  unfold State.strapChange
  extract_lets +onlyGivenNames t_0
  extract_lets +onlyGivenNames t_1
  have ht_1 : State.Touches s [.regs, .log, .pins, .mgt, .sent] t_1 := by
    unfold t_1
    refine State.Touches.upd s ?_
    exact State.Touches.refl _ _
  clear_value t_1
  split
  · exact ht_1
  · extract_lets +onlyGivenNames u_2
    have hu_2 : State.Touches s [.regs, .log, .pins, .mgt, .sent] u_2 := by
      unfold u_2
      split
      · exact ht_1
      · refine State.Touches.step (State.log_to _ _ _ _ _) ?_; exact ht_1
    clear_value u_2
    refine State.Touches.step (State.raise_to _ _ _) ?_
    refine State.Touches.upd u_2 ?_
    exact hu_2

theorem execStrapChange_to (slot rack feed : Nat) (s : State) : Within s [.regs, .log, .pins, .mgt, .sent] (execStrapChange slot rack feed s) := by
  unfold execStrapChange
  refine Within.occurs ?_ ?_
  · exact State.Touches.refl _ _
  · refine State.Touches.step (State.strapChange_to _ _ _ _) ?_; exact State.Touches.refl _ _

theorem State.heldReset_to (s : State) : s.Touches [.regs, .mem, .far, .seq, .waits, .imem, .tiers, .stamps, .links, .sp, .fj, .keys, .rind, .fw, .cle, .kpu, .eru, .img, .cfg, .bud, .host, .pause, .log, .owner, .trips, .boot, .pins, .mgt, .time, .power, .rack, .boundaryNo, .sent] (State.heldReset s) := by
  unfold State.heldReset
  extract_lets w1 w2 w3 w4 w5 w6 w7 c
  have hf : c.Touches [.regs] (State.fs ((c.startRegs (s.fg R.RST_STATUS F.RST_STATUS_cause) (s.fg R.RIND_STATUS F.RIND_STATUS_boot_slot) (s.fg R.GLB_STATUS ⟨2, 2⟩)).zeroRegs
      [R.RIND_STATUS, R.RIND_OWNER 0, R.RIND_OWNER 1]) R.RST_STATUS F.RST_STATUS_input_ok 0) :=
    State.Touches.step (State.fs_to _ _ _ _) (State.Touches.step (State.zeroRegs_to _ _) (State.Touches.step (State.startRegs_to _ _ _ _) (.refl _ _)))
  have hfu := hf .fuses (by decide)
  simp only [Part.Same] at hfu
  intro p hp
  cases p <;> first | exact absurd hp (by decide) | exact hfu | rfl

theorem execModResetAccepted_to (s : State) : Within s [.regs, .mem, .far, .seq, .waits, .imem, .tiers, .stamps, .links, .sp, .fj, .keys, .rind, .fw, .cle, .kpu, .eru, .img, .cfg, .bud, .host, .pause, .log, .owner, .trips, .boot, .pins, .mgt, .time, .power, .rack, .boundaryNo, .sent] (execModResetAccepted s) := by
  unfold execModResetAccepted
  refine Within.occurs ?_ ?_
  · exact State.Touches.refl _ _
  · refine State.Touches.step (State.heldReset_to _) ?_; exact State.Touches.refl _ _

theorem execModResetRelease_to (lowNs : Nat) (s : State) : Within s [.regs, .mem, .far, .seq, .waits, .imem, .tiers, .stamps, .links, .sp, .fj, .keys, .rind, .fw, .cle, .kpu, .eru, .img, .cfg, .bud, .host, .pause, .log, .owner, .trips, .boot, .pins, .mgt, .time, .power, .now, .rack, .boundaryNo, .sent] (execModResetRelease lowNs s) := by
  unfold execModResetRelease
  split
  · refine Within.next ?_
    refine State.Touches.step (State.startModule_to _ _) ?_; refine State.Touches.step (State.pass_to _ _) ?_; exact State.Touches.refl _ _
  · refine Within.occurs ?_ ?_
    · exact State.Touches.refl _ _
    · refine State.Touches.step (State.count_to _ _) ?_; exact State.Touches.refl _ _

theorem State.takeSamples_to (s : State) (raws : List (Nat × Int)) : s.Touches [.regs, .log, .mgt, .sent] (State.takeSamples s raws) := by
  unfold State.takeSamples
  extract_lets +onlyGivenNames live_0
  extract_lets +onlyGivenNames t_1
  have ht_1 : State.Touches s [.regs, .log, .mgt, .sent] t_1 := by
    unfold t_1
    refine State.Touches.foldl ?_ ?_
    · exact State.Touches.refl _ _
    · intro v2 v3 v4
      split
      · refine State.Touches.step (State.sensorFails_to _ _ _) ?_; with_reducible assumption
      · refine State.Touches.step (State.setSensor_to _ _ _) ?_; with_reducible assumption
  clear_value t_1
  extract_lets +onlyGivenNames good_5
  extract_lets +onlyGivenNames t_6
  have ht_6 : State.Touches s [.regs, .log, .mgt, .sent] t_6 := by
    unfold t_6
    refine State.Touches.foldl ?_ ?_
    · exact ht_1
    · intro v7 v8 v9
      refine State.Touches.step (State.spanOthers_to _ _ _) ?_; with_reducible assumption
  clear_value t_6
  refine State.Touches.foldl ?_ ?_
  · exact ht_6
  · intro v10 v11 v12
    split
    · refine State.Touches.step (State.sensorFails_to _ _ _) ?_; with_reducible assumption
    · split
      · extract_lets +onlyGivenNames x_13
        refine State.Touches.step (State.setSensor_to _ _ _) ?_; with_reducible assumption
      · with_reducible assumption

theorem State.tripRelease_to (s : State) : s.Touches [.regs, .trips, .pins, .sent] (State.tripRelease s) := by
  unfold State.tripRelease
  refine State.Touches.step (State.fs_to _ _ _ _) ?_
  extract_lets +onlyGivenNames w0
  have hw0 : State.Touches s [.regs, .trips, .pins, .sent] w0 := by
    unfold w0
    refine State.Touches.step (State.emit_to _ _) ?_; exact State.Touches.refl _ _
  refine State.Touches.upd w0 ?_
  exact hw0

theorem State.sampleDone_to (s : State) : s.Touches [.regs, .mem, .far, .seq, .waits, .imem, .tiers, .stamps, .links, .sp, .fj, .keys, .rind, .fw, .cle, .kpu, .eru, .img, .cfg, .bud, .host, .pause, .log, .owner, .trips, .boot, .pins, .mgt, .time, .power, .rack, .boundaryNo, .sent] (State.sampleDone s) := by
  unfold State.sampleDone
  extract_lets +onlyGivenNames trips_0
  extract_lets +onlyGivenNames trips_1
  extract_lets +onlyGivenNames trips_2
  extract_lets +onlyGivenNames trips_3
  extract_lets +onlyGivenNames trips_4
  extract_lets +onlyGivenNames trips_5
  extract_lets +onlyGivenNames trips_6
  extract_lets +onlyGivenNames trips_7
  split
  · refine State.Touches.step (State.thermalTrip_to _ _) ?_; exact State.Touches.refl _ _
  · extract_lets +onlyGivenNames t_8
    have ht_8 : State.Touches s [.regs, .mem, .far, .seq, .waits, .imem, .tiers, .stamps, .links, .sp, .fj, .keys, .rind, .fw, .cle, .kpu, .eru, .img, .cfg, .bud, .host, .pause, .log, .owner, .trips, .boot, .pins, .mgt, .time, .power, .rack, .boundaryNo, .sent] t_8 := by
      unfold t_8
      split
      · refine State.Touches.step (State.hotActions_to _) ?_; exact State.Touches.refl _ _
      · exact State.Touches.refl _ _
    clear_value t_8
    split
    · refine State.Touches.step (State.tripRelease_to _) ?_; exact ht_8
    · exact ht_8

theorem execSensorSample_to (raw : List (Nat × Nat)) (s : State) : Within s [.regs, .mem, .far, .seq, .waits, .imem, .tiers, .stamps, .links, .sp, .fj, .keys, .rind, .fw, .cle, .kpu, .eru, .img, .cfg, .bud, .host, .pause, .log, .owner, .trips, .boot, .pins, .mgt, .time, .power, .now, .rack, .boundaryNo, .sent] (execSensorSample raw s) := by
  unfold execSensorSample
  extract_lets +onlyGivenNames t_0
  extract_lets +onlyGivenNames t_1
  extract_lets +onlyGivenNames t_2
  extract_lets +onlyGivenNames t_3
  extract_lets +onlyGivenNames t_4
  extract_lets +onlyGivenNames t_5
  extract_lets +onlyGivenNames t_6
  extract_lets +onlyGivenNames t_7
  have ht_7 : State.Touches s [.regs, .mem, .far, .seq, .waits, .imem, .tiers, .stamps, .links, .sp, .fj, .keys, .rind, .fw, .cle, .kpu, .eru, .img, .cfg, .bud, .host, .pause, .log, .owner, .trips, .boot, .pins, .mgt, .time, .power, .now, .rack, .boundaryNo, .sent] t_7 := by
    unfold t_7
    refine State.Touches.step (State.runTo_to _ _) ?_; exact State.Touches.refl _ _
  clear_value t_7
  extract_lets +onlyGivenNames raws_8
  refine Within.occurs ?_ ?_
  · exact State.Touches.refl _ _
  · refine State.Touches.step (State.sampleDone_to _) ?_; refine State.Touches.step (State.afterFailures_to _) ?_
    refine State.Touches.step (State.takeSamples_to _ _) ?_; exact ht_7

theorem execConverterSelfTest_to (failed : List Nat) (s : State) : Within s [.regs, .seq, .waits, .links, .sp, .fj, .cle, .img, .bud, .host, .pause, .log, .pins, .mgt, .time, .now, .rack, .sent] (execConverterSelfTest failed s) := by
  unfold execConverterSelfTest
  extract_lets +onlyGivenNames t_0
  have ht_0 : State.Touches s [.regs, .seq, .waits, .links, .sp, .fj, .cle, .img, .bud, .host, .pause, .log, .pins, .mgt, .time, .now, .rack, .sent] t_0 := by
    unfold t_0
    refine State.Touches.step (State.runTo_to _ _) ?_; exact State.Touches.refl _ _
  clear_value t_0
  extract_lets +onlyGivenNames ids_1
  refine Within.occurs ?_ ?_
  · exact State.Touches.refl _ _
  · refine State.Touches.step (State.afterFailures_to _) ?_
    refine State.Touches.foldl ?_ ?_
    · exact ht_0
    · intro v2 v3 v4
      refine State.Touches.step (State.sensorFails_to _ _ _) ?_; with_reducible assumption

theorem execTripRestart_to (s : State) : Within s [.regs, .mem, .far, .seq, .waits, .imem, .tiers, .stamps, .links, .sp, .fj, .keys, .rind, .fw, .cle, .kpu, .eru, .img, .cfg, .bud, .host, .pause, .log, .owner, .trips, .boot, .pins, .mgt, .time, .power, .now, .rack, .boundaryNo, .sent] (execTripRestart s) := by
  unfold execTripRestart
  split
  · refine Within.occurs ?_ ?_
    · exact State.Touches.refl _ _
    · refine State.Touches.step (State.startModule_to _ _) ?_; refine State.Touches.step (State.runTo_to _ _) ?_; exact State.Touches.refl _ _
  · refine Within.next ?_
    exact State.Touches.refl _ _

theorem State.tripAck_to (s : State) (seq : Nat) : s.Touches [.regs, .trips, .pins, .sent] (State.tripAck s seq) := by
  unfold State.tripAck
  split
  · split
    · split
      · refine State.Touches.step (State.tripRelease_to _) ?_; exact State.Touches.refl _ _
      · refine State.Touches.step (State.fs_to _ _ _ _) ?_; exact State.Touches.refl _ _
    · refine State.Touches.step (State.raise_to _ _ _) ?_; exact State.Touches.refl _ _
  · refine State.Touches.step (State.raise_to _ _ _) ?_; exact State.Touches.refl _ _

theorem execTripAck_to (port seq : Nat) (s : State) : Within s [.regs, .trips, .pins, .sent] (execTripAck port seq s) := by
  unfold execTripAck
  refine Within.occurs ?_ ?_
  · exact State.Touches.refl _ _
  · refine State.Touches.step (State.tripAck_to _ _) ?_; exact State.Touches.refl _ _

theorem State.holdover_to (s : State) : s.Touches [.regs, .log, .sent] (State.holdover s) := by
  unfold State.holdover
  split
  · exact State.Touches.refl _ _
  · refine State.Touches.step (State.log_to _ _ _ _ _) ?_; refine State.Touches.step (State.count_to _ _) ?_
    refine State.Touches.step (State.fs_to _ _ _ _) ?_; refine State.Touches.step (State.fs_to _ _ _ _) ?_; exact State.Touches.refl _ _

theorem State.rackclkLost_to (s : State) : s.Touches [.regs, .waits, .log, .time, .now, .rack, .sent] (State.rackclkLost s) := by
  unfold State.rackclkLost
  extract_lets +onlyGivenNames t_0
  have ht_0 : State.Touches s [.regs, .waits, .log, .time, .now, .rack, .sent] t_0 := by
    unfold t_0
    refine State.Touches.step (State.pass_to _ _) ?_; exact State.Touches.refl _ _
  clear_value t_0
  extract_lets +onlyGivenNames t_1
  extract_lets +onlyGivenNames t_2
  have ht_2 : State.Touches s [.regs, .waits, .log, .time, .now, .rack, .sent] t_2 := by
    unfold t_2
    refine State.Touches.upd t_0 ?_
    exact ht_0
  clear_value t_2
  refine State.Touches.step (State.holdover_to _) ?_; refine State.Touches.step (State.fs_to _ _ _ _) ?_
  refine State.Touches.step (State.fs_to _ _ _ _) ?_; exact ht_2

theorem execRackclkLost_to (s : State) : Within s [.regs, .waits, .log, .time, .now, .rack, .sent] (execRackclkLost s) := by
  unfold execRackclkLost
  split
  · refine Within.next ?_
    exact State.Touches.refl _ _
  · split
    · refine Within.next ?_
      refine State.Touches.step (State.rackclkLost_to _) ?_; exact State.Touches.refl _ _
    · refine Within.next ?_
      refine State.Touches.upd s ?_
      exact State.Touches.refl _ _

theorem execRackclkRestored_to (s : State) : Within s [.regs, .time] (execRackclkRestored s) := by
  unfold execRackclkRestored
  extract_lets +onlyGivenNames t_0
  extract_lets +onlyGivenNames t_1
  have ht_1 : State.Touches s [.regs, .time] t_1 := by
    unfold t_1
    refine State.Touches.upd s ?_
    exact State.Touches.refl _ _
  clear_value t_1
  split
  · refine Within.next ?_
    exact State.Touches.refl _ _
  · split
    · refine Within.next ?_
      refine State.Touches.step (State.fs_to _ _ _ _) ?_; refine State.Touches.step (State.fs_to _ _ _ _) ?_; exact ht_1
    · refine Within.next ?_
      exact ht_1

theorem execTickTimeout_to (s : State) : Within s [.regs, .waits, .log, .time, .now, .rack, .sent] (execTickTimeout s) := by
  unfold execTickTimeout
  refine Within.occurs ?_ ?_
  · exact State.Touches.refl _ _
  · refine State.Touches.step (State.holdover_to _) ?_; refine State.Touches.step (State.runTo_to _ _) ?_; exact State.Touches.refl _ _

theorem execSlewComplete_to (s : State) : Within s [.regs, .waits, .time, .now, .rack] (execSlewComplete s) := by
  unfold execSlewComplete
  refine Within.occurs ?_ ?_
  · exact State.Touches.refl _ _
  · refine State.Touches.step (State.fs_to _ _ _ _) ?_
    split
    · exact State.Touches.refl _ _
    · refine State.Touches.step (State.pass_to _ _) ?_; exact State.Touches.refl _ _

theorem execTimeOffsetUpdate_to (j : Nat) (offset : Int) (s : State) : Within s [.regs] (execTimeOffsetUpdate j offset s) := by
  unfold execTimeOffsetUpdate
  refine Within.occurs ?_ ?_
  · exact State.Touches.refl _ _
  · refine State.Touches.step (State.fs_to _ _ _ _) ?_; refine State.Touches.step (State.fs_to _ _ _ _) ?_; exact State.Touches.refl _ _

theorem State.startSlew_to (s : State) (d : Int) : s.Touches [.regs, .time] (State.startSlew s d) := by
  unfold State.startSlew
  refine State.Touches.step (State.fs_to _ _ _ _) ?_
  refine State.Touches.upd s ?_
  exact State.Touches.refl _ _

theorem State.markerAgrees_to (s : State) (n : Nat) : s.Touches [.regs, .log, .time, .rack, .boundaryNo, .sent] (State.markerAgrees s n) := by
  unfold State.markerAgrees
  extract_lets +onlyGivenNames off_0
  have hoff_0 : ∀ a0, State.Touches s [.regs, .log, .time, .rack, .boundaryNo, .sent] a0 → State.Touches s [.regs, .log, .time, .rack, .boundaryNo, .sent] (off_0 a0) := by
    unfold off_0
    intro v1 v2
    refine State.Touches.step (State.fs_to _ _ _ _) ?_; refine State.Touches.step (State.fs_to _ _ _ _) ?_; with_reducible assumption
  clear_value off_0
  split
  · extract_lets +onlyGivenNames t_3
    have ht_3 : State.Touches s [.regs, .log, .time, .rack, .boundaryNo, .sent] t_3 := by
      unfold t_3
      refine State.Touches.step (State.fs_to _ _ _ _) ?_
      refine State.Touches.upd s ?_
      exact State.Touches.refl _ _
    clear_value t_3
    apply hoff_0
    refine State.Touches.upd t_3 ?_
    exact ht_3
  · split
    · extract_lets +onlyGivenNames d_4
      refine State.Touches.step (State.log_to _ _ _ _ _) ?_; refine State.Touches.step (State.fs_to _ _ _ _) ?_; apply hoff_0
      refine State.Touches.step (State.startSlew_to _ _) ?_; exact State.Touches.refl _ _
    · exact State.Touches.refl _ _

theorem State.tickFrame_to (s : State) (width : Nat) : s.Touches [.regs, .log, .time, .rack, .boundaryNo, .sent] (State.tickFrame s width) := by
  unfold State.tickFrame
  extract_lets +onlyGivenNames x_0
  split
  · extract_lets +onlyGivenNames n_1
    extract_lets +onlyGivenNames t_2
    have ht_2 : State.Touches s [.regs, .log, .time, .rack, .boundaryNo, .sent] t_2 := by
      unfold t_2
      split
      · split
        · refine State.Touches.step (State.markerAgrees_to _ _) ?_; exact State.Touches.refl _ _
        · exact State.Touches.refl _ _
      · exact State.Touches.refl _ _
    clear_value t_2
    refine State.Touches.upd t_2 ?_
    exact ht_2
  · refine State.Touches.upd s ?_
    exact State.Touches.refl _ _
  · refine State.Touches.step (State.count_to _ _) ?_
    refine State.Touches.upd s ?_
    exact State.Touches.refl _ _

theorem State.tickPhase_to (s : State) : s.Touches [.regs, .time] (State.tickPhase s) := by
  unfold State.tickPhase
  split
  · exact State.Touches.refl _ _
  · extract_lets +onlyGivenNames d_0
    extract_lets +onlyGivenNames n_1
    extract_lets +onlyGivenNames t_2
    extract_lets +onlyGivenNames t_3
    have ht_3 : State.Touches s [.regs, .time] t_3 := by
      unfold t_3
      refine State.Touches.upd s ?_
      exact State.Touches.refl _ _
    clear_value t_3
    split
    · refine State.Touches.step (State.startSlew_to _ _) ?_; exact ht_3
    · exact ht_3

theorem State.tickEdge_to (s : State) (interval width : Nat) : s.Touches [.regs, .waits, .log, .time, .now, .rack, .boundaryNo, .sent] (State.tickEdge s interval width) := by
  unfold State.tickEdge
  split
  · refine State.Touches.step (State.tickFrame_to _ _) ?_
    refine State.Touches.upd s ?_
    exact State.Touches.refl _ _
  · extract_lets +onlyGivenNames t_0
    have ht_0 : State.Touches s [.regs, .waits, .log, .time, .now, .rack, .boundaryNo, .sent] t_0 := by
      unfold t_0
      refine State.Touches.step (State.runTo_to _ _) ?_; exact State.Touches.refl _ _
    clear_value t_0
    split
    · refine State.Touches.step (State.count_to _ _) ?_; exact ht_0
    · split
      · refine State.Touches.step (State.tickFrame_to _ _) ?_
        refine State.Touches.upd t_0 ?_
        exact ht_0
      · extract_lets +onlyGivenNames u_1
        have hu_1 : State.Touches s [.regs, .waits, .log, .time, .now, .rack, .boundaryNo, .sent] u_1 := by
          unfold u_1
          split
          · exact ht_0
          · refine State.Touches.step (State.count_to _ _) ?_; exact ht_0
        clear_value u_1
        refine State.Touches.step (State.tickFrame_to _ _) ?_; refine State.Touches.step (State.tickPhase_to _) ?_
        refine State.Touches.upd u_1 ?_
        exact hu_1

theorem execRacktickEdge_to (interval width : Nat) (s : State) : Within s [.regs, .waits, .log, .time, .now, .rack, .boundaryNo, .sent] (execRacktickEdge interval width s) := by
  unfold execRacktickEdge
  extract_lets +onlyGivenNames ahead_0
  refine Within.occurs ?_ ?_
  · exact State.Touches.refl _ _
  · refine State.Touches.step (State.tickEdge_to _ _ _) ?_; exact State.Touches.refl _ _

theorem State.dumpPut_to (s : State) (bonded : Bool) (b : Bytes) : s.Touches [.regs, .mem, .far, .tiers, .kpu, .eru, .bud, .log, .sent] (State.dumpPut s bonded b) := by
  unfold State.dumpPut
  split
  · refine State.Touches.foldl ?_ ?_
    · exact State.Touches.refl _ _
    · intro v0 v1 v2
      refine State.Touches.step (State.memWr_to _ _ _) ?_; with_reducible assumption
  · split
    · refine State.Touches.step (State.farWrite_to _ _ _ _) ?_; exact State.Touches.refl _ _
    · exact State.Touches.refl _ _

theorem State.dumpWrite_to (s : State) (d : DumpSt) : s.Touches [.regs, .mem, .far, .tiers, .kpu, .eru, .bud, .log, .mgt, .freeCtr, .randCtr, .sent] (State.dumpWrite s d) := by
  unfold State.dumpWrite
  split
  · refine State.Touches.upd s ?_
    exact State.Touches.refl _ _
  · extract_lets +onlyGivenNames k_0
    have hk_0 : State.Touches s [.regs, .mem, .far, .tiers, .kpu, .eru, .bud, .log, .mgt, .freeCtr, .randCtr, .sent] k_0.2 := by
      unfold k_0
      refine State.Touches.step (State.scalar_to _) ?_; exact State.Touches.refl _ _
    clear_value k_0
    extract_lets +onlyGivenNames all_1
    extract_lets +onlyGivenNames f_2
    have hf_2 : State.Touches s [.regs, .mem, .far, .tiers, .kpu, .eru, .bud, .log, .mgt, .freeCtr, .randCtr, .sent] f_2.2 := by
      unfold f_2
      refine State.Touches.step (State.free_to _) ?_; exact hk_0
    clear_value f_2
    extract_lets +onlyGivenNames segs_3
    extract_lets +onlyGivenNames t_4
    have ht_4 : State.Touches s [.regs, .mem, .far, .tiers, .kpu, .eru, .bud, .log, .mgt, .freeCtr, .randCtr, .sent] t_4 := by
      unfold t_4
      split
      · exact hf_2
      · exact hk_0
    clear_value t_4
    extract_lets +onlyGivenNames plain_5
    extract_lets +onlyGivenNames head_6
    extract_lets +onlyGivenNames key_7
    extract_lets +onlyGivenNames sealed_8
    extract_lets +onlyGivenNames tags_9
    extract_lets +onlyGivenNames u_10
    have hu_10 : State.Touches s [.regs, .mem, .far, .tiers, .kpu, .eru, .bud, .log, .mgt, .freeCtr, .randCtr, .sent] u_10 := by
      unfold u_10
      refine State.Touches.step (State.dumpPut_to _ _ _) ?_; exact ht_4
    clear_value u_10
    refine State.Touches.upd u_10 ?_
    exact hu_10

theorem execDumpComplete_to (s : State) : Within s [.regs, .mem, .far, .tiers, .kpu, .eru, .bud, .log, .mgt, .freeCtr, .randCtr, .sent] (execDumpComplete s) := by
  unfold execDumpComplete
  split
  · refine Within.occurs ?_ ?_
    · exact State.Touches.refl _ _
    · refine State.Touches.step (State.setState_to _ _) ?_; refine State.Touches.step (State.dumpWrite_to _ _) ?_; exact State.Touches.refl _ _
  · refine Within.next ?_
    exact State.Touches.refl _ _

theorem State.pldmAnswer_to (s : State) (m : PldmMsg) (code : Nat) (data : Bytes) : s.Touches [.sent] (State.pldmAnswer s m code data) := by
  unfold State.pldmAnswer
  refine State.Touches.step (State.emit_to _ _) ?_; exact State.Touches.refl _ _

theorem State.pldm_to (s : State) (m : PldmMsg) : s.Touches [.regs, .fw, .mgt, .sent] (State.pldm s m) := by
  unfold State.pldm
  extract_lets +onlyGivenNames upd_0
  have hupd_0 : ∀ a0, State.Touches s [.regs, .fw, .mgt, .sent] a0.2 → State.Touches s [.regs, .fw, .mgt, .sent] (upd_0 a0) := by
    unfold upd_0
    intro v1 v2
    refine State.Touches.step (State.pldmAnswer_to _ _ _ _) ?_; with_reducible assumption
  clear_value upd_0
  split
  · split
    · refine State.Touches.step (State.pldmAnswer_to _ _ _ _) ?_
      refine State.Touches.upd s ?_
      exact State.Touches.refl _ _
    · refine State.Touches.step (State.pldmAnswer_to _ _ _ _) ?_; exact State.Touches.refl _ _
    · refine State.Touches.step (State.pldmAnswer_to _ _ _ _) ?_; exact State.Touches.refl _ _
  · split
    · split
      · refine State.Touches.step (State.pldmAnswer_to _ _ _ _) ?_; exact State.Touches.refl _ _
      · refine State.Touches.step (State.pldmAnswer_to _ _ _ _) ?_; exact State.Touches.refl _ _
    · split
      · extract_lets +onlyGivenNames id_3
        split
        · refine State.Touches.step (State.pldmAnswer_to _ _ _ _) ?_
          refine State.Touches.upd s ?_
          exact State.Touches.refl _ _
        · refine State.Touches.step (State.pldmAnswer_to _ _ _ _) ?_; exact State.Touches.refl _ _
        · split
          · refine State.Touches.step (State.pldmAnswer_to _ _ _ _) ?_; exact State.Touches.refl _ _
          · refine State.Touches.step (State.pldmAnswer_to _ _ _ _) ?_; exact State.Touches.refl _ _
        · split
          · refine State.Touches.step (State.pldmAnswer_to _ _ _ _) ?_; exact State.Touches.refl _ _
          · refine State.Touches.step (State.pldmAnswer_to _ _ _ _) ?_; exact State.Touches.refl _ _
        · split
          · refine State.Touches.step (State.pldmAnswer_to _ _ _ _) ?_; exact State.Touches.refl _ _
          · refine State.Touches.step (State.pldmAnswer_to _ _ _ _) ?_; exact State.Touches.refl _ _
        · refine State.Touches.step (State.pldmAnswer_to _ _ _ _) ?_; exact State.Touches.refl _ _
      · split
        · split
          · apply hupd_0; refine State.Touches.step (State.fwOpen_to _ _ _) ?_; exact State.Touches.refl _ _
          · apply hupd_0; refine State.Touches.step (State.fwPiece_to _ _ _ _) ?_; exact State.Touches.refl _ _
          · apply hupd_0; refine State.Touches.step (State.fwClose_to _ _) ?_; exact State.Touches.refl _ _
          · split
            · split
              · refine State.Touches.step (State.pldmAnswer_to _ _ _ _) ?_; refine State.Touches.step (State.fs_to _ _ _ _) ?_
                refine State.Touches.step (State.fwAbandon_to _) ?_; exact State.Touches.refl _ _
              · refine State.Touches.step (State.pldmAnswer_to _ _ _ _) ?_; exact State.Touches.refl _ _
            · refine State.Touches.step (State.pldmAnswer_to _ _ _ _) ?_; exact State.Touches.refl _ _
          · refine State.Touches.step (State.pldmAnswer_to _ _ _ _) ?_; exact State.Touches.refl _ _
        · refine State.Touches.step (State.pldmAnswer_to _ _ _ _) ?_; exact State.Touches.refl _ _

theorem execPldmMessage_to (msg : PldmMsg) (s : State) : Within s [.regs, .fw, .mgt, .sent] (execPldmMessage msg s) := by
  unfold execPldmMessage
  refine Within.occurs ?_ ?_
  · exact State.Touches.refl _ _
  · refine State.Touches.step (State.pldm_to _ _) ?_; exact State.Touches.refl _ _

theorem State.jtagAccess_to (s : State) (instr data : Nat) : s.Touches [.freeCtr, .sent] (State.jtagAccess s instr data) := by
  unfold State.jtagAccess
  split
  · refine State.Touches.step (State.emit_to _ _) ?_; exact State.Touches.refl _ _
  · split
    · extract_lets +onlyGivenNames f_0
      have hf_0 : State.Touches s [.freeCtr, .sent] f_0.2 := by
        unfold f_0
        refine State.Touches.step (State.free_to _) ?_; exact State.Touches.refl _ _
      clear_value f_0
      refine State.Touches.step (State.emit_to _ _) ?_; exact hf_0
    · exact State.Touches.refl _ _

theorem execJtagAccess_to (instr data : Nat) (s : State) : Within s [.freeCtr, .sent] (execJtagAccess instr data s) := by
  unfold execJtagAccess
  refine Within.occurs ?_ ?_
  · exact State.Touches.refl _ _
  · refine State.Touches.step (State.jtagAccess_to _ _ _) ?_; exact State.Touches.refl _ _

theorem State.pairRx_to (s : State) (q : Packet) : s.Touches [.regs, .tiers, .links, .fj, .kpu, .bud, .log, .sent] (State.pairRx s q) := by
  unfold State.pairRx
  extract_lets +onlyGivenNames c_0
  extract_lets +onlyGivenNames muslin_1
  extract_lets +onlyGivenNames rmax_2
  extract_lets +onlyGivenNames ring_3
  extract_lets +onlyGivenNames w_4
  extract_lets +onlyGivenNames t_5
  extract_lets +onlyGivenNames t_6
  have ht_6 : State.Touches s [.regs, .tiers, .links, .fj, .kpu, .bud, .log, .sent] t_6 := by
    unfold t_6
    split
    · refine State.Touches.step (State.fs_to _ _ _ _) ?_
      refine State.Touches.upd s ?_
      exact State.Touches.refl _ _
    · split
      · split
        · refine State.Touches.step (State.fs_to _ _ _ _) ?_; exact State.Touches.refl _ _
        · exact State.Touches.refl _ _
      · exact State.Touches.refl _ _
  clear_value t_6
  refine State.Touches.step (State.sendKeep_to _ _ _ _ _ _ _ _) ?_; exact ht_6

theorem State.pairReplyRx_to (s : State) (q : Packet) : s.Touches [.regs, .kpu, .log, .sent] (State.pairReplyRx s q) := by
  unfold State.pairReplyRx
  extract_lets +onlyGivenNames c_0
  split
  · exact State.Touches.refl _ _
  · split
    · refine State.Touches.step (State.setPair_to _ _) ?_
      refine State.Touches.upd s ?_
      exact State.Touches.refl _ _
    · extract_lets +onlyGivenNames t_1
      have ht_1 : State.Touches s [.regs, .kpu, .log, .sent] t_1 := by
        unfold t_1
        refine State.Touches.step (State.log_to _ _ _ _ _) ?_; refine State.Touches.step (State.fs_to _ _ _ _) ?_
        refine State.Touches.step (State.setPair_to _ _) ?_; exact State.Touches.refl _ _
      clear_value t_1
      refine State.Touches.upd t_1 ?_
      exact ht_1

theorem execPairRetry_to (s : State) : Within s [.regs, .waits, .tiers, .links, .fj, .kpu, .bud, .log, .time, .now, .rack, .sent] (execPairRetry s) := by
  unfold execPairRetry
  refine Within.occurs ?_ ?_
  · exact State.Touches.refl _ _
  · refine State.Touches.step (State.sendPair_to _) ?_; refine State.Touches.step (State.runTo_to _ _) ?_; exact State.Touches.refl _ _

theorem State.ripenWay_to (s : State) (space unit off n : Nat) : s.Touches [.regs, .links, .bud] (State.ripenWay s space unit off n) := by
  unfold State.ripenWay
  refine State.Touches.step (State.unitMoves_to _ _ _) ?_
  split
  · refine State.Touches.step (State.take_to _ _ _ _ _) ?_; exact State.Touches.refl _ _
  · exact State.Touches.refl _ _

theorem State.ripened_to (s : State) (r : Ripen) (part : Nat × Nat) (n : Nat) : s.Touches [.regs, .kpu] (State.ripened s r part n) := by
  unfold State.ripened
  refine State.Touches.step (State.fsat_to _ _ _ _) ?_
  refine State.Touches.upd s ?_
  exact State.Touches.refl _ _

theorem State.restoreBytes_to (s : State) (space unit off : Nat) (b : Bytes) : s.Touches [.regs, .mem, .far, .tiers, .kpu, .eru, .bud, .log, .sent] (State.restoreBytes s space unit off b) := by
  unfold State.restoreBytes
  extract_lets +onlyGivenNames t_0
  have ht_0 : State.Touches s [.regs, .mem, .far, .tiers, .kpu, .eru, .bud, .log, .sent] t_0 := by
    unfold t_0
    refine State.Touches.step (State.unitWrite_to _ _ _ _ _ _) ?_; exact State.Touches.refl _ _
  clear_value t_0
  refine State.Touches.upd t_0 ?_
  exact ht_0

theorem State.restorePage_to (s : State) (off : Nat) (b : Bytes) : s.Touches [.regs, .mem, .far, .tiers, .links, .kpu, .eru, .bud, .log, .sent] (State.restorePage s off b) := by
  unfold State.restorePage
  split
  · extract_lets +onlyGivenNames o_0
    refine State.Touches.foldl ?_ ?_
    · exact State.Touches.refl _ _
    · intro v1 v2 v3
      refine State.Touches.step (State.restoreBytes_to _ _ _ _ _) ?_; refine State.Touches.step (State.ripenWay_to _ _ _ _ _) ?_
      with_reducible assumption
  · exact State.Touches.refl _ _

theorem State.unstagedPage_to (s : State) (x : Recover) (off : Nat) (b : Bytes) : s.Touches [.regs, .mem, .far, .tiers, .links, .kpu, .eru, .bud, .log, .sent] (State.unstagedPage s x off b) := by
  unfold State.unstagedPage
  extract_lets +onlyGivenNames t_0
  have ht_0 : State.Touches s [.regs, .mem, .far, .tiers, .links, .kpu, .eru, .bud, .log, .sent] t_0 := by
    unfold t_0
    split
    · extract_lets +onlyGivenNames o_1
      refine State.Touches.step (State.restoreBytes_to _ _ _ _ _) ?_; refine State.Touches.step (State.ripenWay_to _ _ _ _ _) ?_
      exact State.Touches.refl _ _
    · exact State.Touches.refl _ _
  clear_value t_0
  refine State.Touches.upd t_0 ?_
  exact ht_0

theorem State.recoverEnd_to (s : State) (x : Recover) (q : Packet) : s.Touches [.regs, .tiers, .links, .fj, .kpu, .bud, .log, .sent] (State.recoverEnd s x q) := by
  unfold State.recoverEnd
  split
  · refine State.Touches.upd s ?_
    exact State.Touches.refl _ _
  · split
    · refine State.Touches.step (State.recoverFails_to _ _) ?_; exact State.Touches.refl _ _
    · refine State.Touches.step (State.askFrame_to _ _) ?_
      refine State.Touches.upd s ?_
      exact State.Touches.refl _ _

theorem State.frameOpen_to (s : State) (w : Ward) : s.Touches [.kpu] (State.frameOpen s w) := by
  unfold State.frameOpen
  refine State.Touches.upd s ?_
  exact State.Touches.refl _ _

theorem State.pageRx_to (s : State) (q : Packet) : s.Touches [.regs, .mem, .far, .tiers, .links, .kpu, .eru, .bud, .log, .sent] (State.pageRx s q).2 := by
  unfold State.pageRx
  extract_lets +onlyGivenNames off_0
  split
  · dsimp only
    split
    · refine State.Touches.step (State.ripenFails_to _ _) ?_; exact State.Touches.refl _ _
    · refine State.Touches.step (State.ripened_to _ _ _ _) ?_; refine State.Touches.step (State.restorePage_to _ _ _) ?_; exact State.Touches.refl _ _
  · dsimp only
    split
    · refine State.Touches.step (State.recoverFails_to _ _) ?_; exact State.Touches.refl _ _
    · refine State.Touches.step (State.unstagedPage_to _ _ _ _) ?_; exact State.Touches.refl _ _
  · split
    · exact State.Touches.refl _ _
    · dsimp only
      refine State.Touches.step (State.keepWrite_to _ _ _ _ _ _ _) ?_; refine State.Touches.step (State.frameOpen_to _ _) ?_
      exact State.Touches.refl _ _
  · exact State.Touches.refl _ _

theorem State.recordRx_to (s : State) (q : Packet) : s.Touches [.regs, .far, .tiers, .links, .kpu, .eru, .bud, .log, .sent] (State.recordRx s q).2 := by
  unfold State.recordRx
  extract_lets +onlyGivenNames off_0
  split
  · dsimp only
    split
    · refine State.Touches.step (State.ripenFails_to _ _) ?_; exact State.Touches.refl _ _
    · refine State.Touches.upd s ?_
      exact State.Touches.refl _ _
  · exact State.Touches.refl _ _
  · split
    · exact State.Touches.refl _ _
    · dsimp only
      refine State.Touches.step (State.keepWrite_to _ _ _ _ _ _ _) ?_; refine State.Touches.step (State.frameOpen_to _ _) ?_
      exact State.Touches.refl _ _
  · exact State.Touches.refl _ _

theorem State.frameEnd_to (s : State) (r : Ripen) (q : Packet) : s.Touches [.regs, .tiers, .links, .fj, .kpu, .bud, .log, .sent] (State.frameEnd s r q) := by
  unfold State.frameEnd
  extract_lets +onlyGivenNames c_0
  split
  · split
    · refine State.Touches.step (State.ripenFails_to _ _) ?_; exact State.Touches.refl _ _
    · extract_lets +onlyGivenNames rest_1
      extract_lets +onlyGivenNames had_2
      refine State.Touches.step (State.askFrame_to _ _) ?_
      extract_lets +onlyGivenNames w3
      have hw3 : State.Touches s [.regs, .tiers, .links, .fj, .kpu, .bud, .log, .sent] w3 := by
        unfold w3
        refine State.Touches.step (State.fs_to _ _ _ _) ?_; exact State.Touches.refl _ _
      refine State.Touches.upd w3 ?_
      exact hw3
  · split
    · refine State.Touches.step (State.ripenFails_to _ _) ?_; exact State.Touches.refl _ _
    · refine State.Touches.step (State.sendKeep_to _ _ _ _ _ _ _ _) ?_
      refine State.Touches.upd s ?_
      exact State.Touches.refl _ _

theorem State.sealRx_to (s : State) (q : Packet) : s.Touches [.regs, .tiers, .links, .fj, .kpu, .bud, .log, .sent] (State.sealRx s q).2 := by
  unfold State.sealRx
  split
  · dsimp only
    refine State.Touches.step (State.frameEnd_to _ _ _) ?_; exact State.Touches.refl _ _
  · dsimp only
    refine State.Touches.step (State.recoverEnd_to _ _ _) ?_; exact State.Touches.refl _ _
  · dsimp only
    refine State.Touches.upd s ?_
    exact State.Touches.refl _ _
  · exact State.Touches.refl _ _

theorem State.ringPut_to (s : State) (gated : Bool) (act ring pos : Nat) (b : Bytes) : s.Touches [.regs, .far, .tiers, .links, .kpu, .eru, .bud, .log, .sent] (State.ringPut s gated act ring pos b) := by
  unfold State.ringPut
  extract_lets +onlyGivenNames o_0
  extract_lets +onlyGivenNames a_1
  refine State.Touches.step (State.keepWrite_to _ _ _ _ _ _ _) ?_; refine State.Touches.step (State.keepWrite_to _ _ _ _ _ _ _) ?_
  exact State.Touches.refl _ _

theorem State.ringGet_to (s : State) (ring pos n : Nat) : s.Touches [.regs, .tiers, .links, .bud, .log, .sent] (State.ringGet s ring pos n).2.1 := by
  unfold State.ringGet
  extract_lets +onlyGivenNames o_0
  extract_lets +onlyGivenNames k_1
  extract_lets +onlyGivenNames a_2
  have ha_2 : State.Touches s [.regs, .tiers, .links, .bud, .log, .sent] a_2.2.1 := by
    unfold a_2
    refine State.Touches.step (State.keepRead_to _ _ _ _ _ _) ?_; exact State.Touches.refl _ _
  clear_value a_2
  extract_lets +onlyGivenNames b_3
  have hb_3 : State.Touches s [.regs, .tiers, .links, .bud, .log, .sent] b_3.2.1 := by
    unfold b_3
    refine State.Touches.step (State.keepRead_to _ _ _ _ _ _) ?_; exact ha_2
  clear_value b_3
  with_reducible assumption

theorem State.journalEnd_to (s : State) (r : Ripen) : s.Touches [.regs, .kpu, .log, .sent] (State.journalEnd s r) := by
  unfold State.journalEnd
  extract_lets +onlyGivenNames b_0
  extract_lets +onlyGivenNames last_1
  split
  · exact State.Touches.refl _ _
  · split
    · refine State.Touches.upd s ?_
      exact State.Touches.refl _ _
    · refine State.Touches.step (State.ripenFails_to _ _) ?_; exact State.Touches.refl _ _

theorem State.journalRx_to (s : State) (q : Packet) : s.Touches [.regs, .far, .tiers, .links, .kpu, .eru, .bud, .log, .sent] (State.journalRx s q).2 := by
  unfold State.journalRx
  extract_lets +onlyGivenNames pos_0
  split
  · extract_lets +onlyGivenNames r2_1
    dsimp only
    split
    · refine State.Touches.step (State.ripenFails_to _ _) ?_; exact State.Touches.refl _ _
    · refine State.Touches.step (State.journalEnd_to _ _) ?_
      refine State.Touches.upd s ?_
      exact State.Touches.refl _ _
  · split
    · exact State.Touches.refl _ _
    · extract_lets +onlyGivenNames t_2
      have ht_2 : State.Touches s [.regs, .far, .tiers, .links, .kpu, .eru, .bud, .log, .sent] t_2 := by
        unfold t_2
        refine State.Touches.step (State.ringPut_to _ _ _ _ _ _) ?_; exact State.Touches.refl _ _
      clear_value t_2
      dsimp only
      refine State.Touches.upd t_2 ?_
      exact ht_2
  · exact State.Touches.refl _ _

theorem State.resyncRx_to (s : State) (q : Packet) : s.Touches [.regs, .tiers, .links, .fj, .kpu, .bud, .log, .sent] (State.resyncRx s q).2 := by
  unfold State.resyncRx
  split
  · exact State.Touches.refl _ _
  · dsimp only
    refine State.Touches.step (State.sendPair_to _) ?_
    refine State.Touches.upd s ?_
    exact State.Touches.refl _ _

theorem State.deltaRx_to (s : State) (q : Packet) : s.Touches [.regs, .far, .tiers, .links, .kpu, .eru, .bud, .log, .sent] (State.deltaRx s q).2 := by
  unfold State.deltaRx
  extract_lets +onlyGivenNames c_0
  extract_lets +onlyGivenNames g_1
  extract_lets +onlyGivenNames t_2
  extract_lets +onlyGivenNames first_3
  split
  · exact State.Touches.refl _ _
  · extract_lets +onlyGivenNames mine_4
    extract_lets +onlyGivenNames j_5
    split
    · exact State.Touches.refl _ _
    · extract_lets +onlyGivenNames isQ_6
      extract_lets +onlyGivenNames off_7
      extract_lets +onlyGivenNames d_8
      extract_lets +onlyGivenNames r_9
      have hr_9 : State.Touches s [.regs, .far, .tiers, .links, .kpu, .eru, .bud, .log, .sent] r_9.2.1 := by
        unfold r_9
        refine State.Touches.step (State.keepRead_to _ _ _ _ _ _) ?_; exact State.Touches.refl _ _
      clear_value r_9
      extract_lets +onlyGivenNames u_10
      have hu_10 : State.Touches s [.regs, .far, .tiers, .links, .kpu, .eru, .bud, .log, .sent] u_10 := by
        unfold u_10
        refine State.Touches.step (State.keepWrite_to _ _ _ _ _ _ _) ?_; exact hr_9
      clear_value u_10
      dsimp only
      refine State.Touches.step (State.pmc_to _ _ _ _ _) ?_; refine State.Touches.step (State.count_to _ _) ?_
      refine State.Touches.upd u_10 ?_
      exact hu_10

theorem State.stripeUnit_to (s : State) (t : Nat) : s.Touches [.regs, .tiers, .links, .bud, .log, .sent] (State.stripeUnit s t).2.1 := by
  unfold State.stripeUnit
  extract_lets +onlyGivenNames c_0
  extract_lets +onlyGivenNames g_1
  extract_lets +onlyGivenNames i_2
  split
  · refine State.Touches.step (State.keepRead_to _ _ _ _ _ _) ?_; exact State.Touches.refl _ _
  · split
    · extract_lets +onlyGivenNames r_3
      have hr_3 : State.Touches s [.regs, .tiers, .links, .bud, .log, .sent] r_3.2.1 := by
        unfold r_3
        refine State.Touches.step (State.unitRead_to _ _ _ _ _ _ _) ?_; exact State.Touches.refl _ _
      clear_value r_3
      dsimp only
      refine State.Touches.step (State.unitMoves_to _ _ _) ?_; exact hr_3
    · exact State.Touches.refl _ _

theorem State.rollSource_to (s : State) (t m : Nat) : s.Touches [.regs, .far, .tiers, .links, .kpu, .eru, .bud, .log, .freeCtr, .sent] (State.rollSource s t m) := by
  unfold State.rollSource
  extract_lets +onlyGivenNames c_0
  extract_lets +onlyGivenNames mine_1
  extract_lets +onlyGivenNames f_2
  have hf_2 : State.Touches s [.regs, .far, .tiers, .links, .kpu, .eru, .bud, .log, .freeCtr, .sent] f_2.2 := by
    unfold f_2
    refine State.Touches.step (State.free_to _) ?_; exact State.Touches.refl _ _
  clear_value f_2
  extract_lets +onlyGivenNames gone_3
  refine State.Touches.foldl ?_ ?_
  · exact hf_2
  · intro v4 v5 v6
    extract_lets +onlyGivenNames off_7
    extract_lets +onlyGivenNames x_8
    extract_lets +onlyGivenNames r_9
    have hr_9 : State.Touches s [.regs, .far, .tiers, .links, .kpu, .eru, .bud, .log, .freeCtr, .sent] r_9.2.1 := by
      unfold r_9
      refine State.Touches.step (State.keepRead_to _ _ _ _ _ _) ?_; with_reducible assumption
    clear_value r_9
    extract_lets +onlyGivenNames v_10
    have hv_10 : State.Touches s [.regs, .far, .tiers, .links, .kpu, .eru, .bud, .log, .freeCtr, .sent] v_10 := by
      unfold v_10
      refine State.Touches.step (State.keepWrite_to _ _ _ _ _ _ _) ?_; exact hr_9
    clear_value v_10
    refine State.Touches.step (State.count_to _ _) ?_
    refine State.Touches.upd v_10 ?_
    exact hv_10

theorem State.rollBack_to (s : State) (t : Nat) (lost : List Nat) : s.Touches [.regs, .far, .tiers, .links, .kpu, .eru, .bud, .log, .freeCtr, .sent] (State.rollBack s t lost) := by
  unfold State.rollBack
  extract_lets +onlyGivenNames c_0
  extract_lets +onlyGivenNames data_1
  split
  · exact State.Touches.refl _ _
  · refine State.Touches.foldl ?_ ?_
    · refine State.Touches.upd s ?_
      exact State.Touches.refl _ _
    · intro v2 v3 v4
      refine State.Touches.step (State.rollSource_to _ _ _) ?_; with_reducible assumption

theorem State.chainStep_to (s : State) (t : Nat) (sum : Bytes) (poison : Bool) : s.Touches [.regs, .far, .tiers, .links, .fj, .kpu, .eru, .bud, .log, .freeCtr, .sent] (State.chainStep s t sum poison) := by
  unfold State.chainStep
  extract_lets +onlyGivenNames c_0
  extract_lets +onlyGivenNames g_1
  extract_lets +onlyGivenNames r_2
  extract_lets +onlyGivenNames idx_3
  extract_lets +onlyGivenNames co_4
  extract_lets +onlyGivenNames u_5
  extract_lets +onlyGivenNames u_6
  have hu_6 : State.Touches s [.regs, .far, .tiers, .links, .fj, .kpu, .eru, .bud, .log, .freeCtr, .sent] u_6.2.1 := by
    unfold u_6
    refine State.Touches.step (State.stripeUnit_to _ _) ?_; refine State.Touches.step (State.rollBack_to _ _ _) ?_
    refine State.Touches.upd s ?_
    exact State.Touches.refl _ _
  clear_value u_6
  extract_lets +onlyGivenNames next_7
  refine State.Touches.step (State.sendKeepAs_to _ _ _ _ _ _ _ _ _) ?_; exact hu_6

theorem State.chainAsked_to (s : State) (t dev : Nat) : s.Touches [.regs, .far, .tiers, .links, .fj, .kpu, .eru, .bud, .log, .freeCtr, .sent] (State.chainAsked s t dev) := by
  unfold State.chainAsked
  extract_lets +onlyGivenNames u_0
  extract_lets +onlyGivenNames u_1
  have hu_1 : State.Touches s [.regs, .far, .tiers, .links, .fj, .kpu, .eru, .bud, .log, .freeCtr, .sent] u_1 := by
    unfold u_1
    refine State.Touches.upd s ?_
    exact State.Touches.refl _ _
  clear_value u_1
  split
  · refine State.Touches.step (State.chainStep_to _ _ _ _) ?_; exact hu_1
  · exact hu_1

theorem State.rebuildRx_to (s : State) (q : Packet) : s.Touches [.regs, .mem, .far, .tiers, .links, .fj, .kpu, .eru, .bud, .log, .freeCtr, .sent] (State.rebuildRx s q).2 := by
  unfold State.rebuildRx
  extract_lets +onlyGivenNames c_0
  extract_lets +onlyGivenNames g_1
  extract_lets +onlyGivenNames t_2
  split
  · exact State.Touches.refl _ _
  · split
    · exact State.Touches.refl _ _
    · split
      · extract_lets +onlyGivenNames i_3
        split
        · dsimp only
          refine State.Touches.step (State.ripenFails_to _ _) ?_; exact State.Touches.refl _ _
        · extract_lets +onlyGivenNames u_4
          have hu_4 : State.Touches s [.regs, .mem, .far, .tiers, .links, .fj, .kpu, .eru, .bud, .log, .freeCtr, .sent] u_4 := by
            unfold u_4
            split
            · refine State.Touches.step (State.restoreBytes_to _ _ _ _ _) ?_; refine State.Touches.step (State.ripenWay_to _ _ _ _ _) ?_
              exact State.Touches.refl _ _
            · exact State.Touches.refl _ _
          clear_value u_4
          dsimp only
          refine State.Touches.step (State.count_to _ _) ?_; refine State.Touches.step (State.ripened_to _ _ _ _) ?_; exact hu_4
      · split
        · split
          · exact State.Touches.refl _ _
          · extract_lets +onlyGivenNames i_5
            extract_lets +onlyGivenNames u_6
            have hu_6 : State.Touches s [.regs, .mem, .far, .tiers, .links, .fj, .kpu, .eru, .bud, .log, .freeCtr, .sent] u_6 := by
              unfold u_6
              refine State.Touches.step (State.keepWrite_to _ _ _ _ _ _ _) ?_; exact State.Touches.refl _ _
            clear_value u_6
            extract_lets +onlyGivenNames left_7
            extract_lets +onlyGivenNames v_8
            extract_lets +onlyGivenNames v_9
            have hv_9 : State.Touches s [.regs, .mem, .far, .tiers, .links, .fj, .kpu, .eru, .bud, .log, .freeCtr, .sent] v_9 := by
              unfold v_9
              refine State.Touches.step (State.count_to _ _) ?_
              refine State.Touches.upd u_6 ?_
              exact hu_6
            clear_value v_9
            dsimp only
            split
            · refine State.Touches.step (State.fs_to _ _ _ _) ?_; exact hv_9
            · exact hv_9
        · dsimp only
          refine State.Touches.step (State.chainStep_to _ _ _ _) ?_; exact State.Touches.refl _ _

theorem State.fetchFrame_to (s : State) (q : Packet) (w : Ward) (off len : Nat) : s.Touches [.regs, .tiers, .links, .fj, .kpu, .bud, .log, .sent] (State.fetchFrame s q w off len).2 := by
  unfold State.fetchFrame
  split
  · exact State.Touches.refl _ _
  · extract_lets +onlyGivenNames v_0
    extract_lets +onlyGivenNames base_1
    extract_lets +onlyGivenNames o_2
    extract_lets +onlyGivenNames pages_3
    extract_lets +onlyGivenNames t_4
    have ht_4 : State.Touches s [.regs, .tiers, .links, .fj, .kpu, .bud, .log, .sent] t_4 := by
      unfold t_4
      refine State.Touches.foldl ?_ ?_
      · exact State.Touches.refl _ _
      · intro v5 v6 v7
        extract_lets +onlyGivenNames r_8
        have hr_8 : State.Touches s [.regs, .tiers, .links, .fj, .kpu, .bud, .log, .sent] r_8.2.1 := by
          unfold r_8
          refine State.Touches.step (State.keepRead_to _ _ _ _ _ _) ?_; with_reducible assumption
        clear_value r_8
        refine State.Touches.step (State.sendKeepAs_to _ _ _ _ _ _ _ _ _) ?_; exact hr_8
    clear_value t_4
    split
    · extract_lets +onlyGivenNames r_9
      have hr_9 : State.Touches s [.regs, .tiers, .links, .fj, .kpu, .bud, .log, .sent] r_9.2.1 := by
        unfold r_9
        refine State.Touches.step (State.keepRead_to _ _ _ _ _ _) ?_; exact ht_4
      clear_value r_9
      dsimp only
      refine State.Touches.step (State.sendKeep_to _ _ _ _ _ _ _ _) ?_; refine State.Touches.step (State.sendPieces_to _ _ _ _ _ _ _ _) ?_; exact hr_9
    · with_reducible assumption

theorem State.fetchJournal_to (s : State) (q : Packet) (w : Ward) (off len : Nat) : s.Touches [.regs, .tiers, .links, .fj, .kpu, .bud, .log, .sent] (State.fetchJournal s q w off len).2 := by
  unfold State.fetchJournal
  split
  · exact State.Touches.refl _ _
  · extract_lets +onlyGivenNames n_0
    extract_lets +onlyGivenNames r_1
    have hr_1 : State.Touches s [.regs, .tiers, .links, .fj, .kpu, .bud, .log, .sent] r_1.2.1 := by
      unfold r_1
      refine State.Touches.step (State.ringGet_to _ _ _ _) ?_; exact State.Touches.refl _ _
    clear_value r_1
    extract_lets +onlyGivenNames t_2
    have ht_2 : State.Touches s [.regs, .tiers, .links, .fj, .kpu, .bud, .log, .sent] t_2 := by
      unfold t_2
      refine State.Touches.step (State.sendPieces_to _ _ _ _ _ _ _ _) ?_; exact hr_1
    clear_value t_2
    dsimp only
    split
    · refine State.Touches.step (State.sendKeep_to _ _ _ _ _ _ _ _) ?_; exact ht_2
    · exact ht_2

theorem State.fetchRx_to (s : State) (q : Packet) : s.Touches [.regs, .far, .tiers, .links, .fj, .kpu, .eru, .bud, .log, .freeCtr, .sent] (State.fetchRx s q).2 := by
  unfold State.fetchRx
  extract_lets +onlyGivenNames off_0
  extract_lets +onlyGivenNames len_1
  split
  · split
    · exact State.Touches.refl _ _
    · refine State.Touches.step (State.fetchFrame_to _ _ _ _ _) ?_; exact State.Touches.refl _ _
  · split
    · exact State.Touches.refl _ _
    · refine State.Touches.step (State.fetchJournal_to _ _ _ _ _) ?_; exact State.Touches.refl _ _
  · split
    · exact State.Touches.refl _ _
    · split
      · exact State.Touches.refl _ _
      · dsimp only
        refine State.Touches.step (State.chainAsked_to _ _ _) ?_; exact State.Touches.refl _ _
  · exact State.Touches.refl _ _

theorem State.keepApply_to (s : State) (q : Packet) : s.Touches [.regs, .mem, .far, .tiers, .links, .fj, .kpu, .eru, .bud, .log, .freeCtr, .sent] (State.keepApply s q).2 := by
  unfold State.keepApply
  exact .ite_snd ((State.pairRx_to _ _).mono (by decide)) (.ite_snd ((State.pairReplyRx_to _ _).mono (by decide)) (.ite_snd ((State.pageRx_to _ _).mono (by decide))
    (.ite_snd ((State.recordRx_to _ _).mono (by decide)) (.ite_snd ((State.sealRx_to _ _).mono (by decide)) (.ite_snd ((State.journalRx_to _ _).mono (by decide))
    (.ite_snd ((State.deltaRx_to _ _).mono (by decide)) (.ite_snd ((State.fetchRx_to _ _).mono (by decide)) (.ite_snd ((State.rebuildRx_to _ _).mono (by decide))
    (.ite_snd ((State.resyncRx_to _ _).mono (by decide)) (.refl _ _))))))))))

theorem State.keepAnswer_to (s : State) (q : Packet) : s.Touches [.regs, .mem, .far, .tiers, .links, .fj, .kpu, .eru, .bud, .log, .freeCtr, .sent] (State.keepAnswer s q) := by
  unfold State.keepAnswer
  extract_lets +onlyGivenNames r_0
  have hr_0 : State.Touches s [.regs, .mem, .far, .tiers, .links, .fj, .kpu, .eru, .bud, .log, .freeCtr, .sent] r_0.2 := by
    unfold r_0
    refine State.Touches.step (State.keepApply_to _ _) ?_; exact State.Touches.refl _ _
  clear_value r_0
  split
  · refine State.Touches.step (State.respond_to _ _ _ _ _ _) ?_; refine State.Touches.step (State.orderStep_to _ _) ?_; exact hr_0
  · refine State.Touches.step (State.refuse_to _ _ _) ?_; exact hr_0

theorem State.keepUnpark_to (y0 : Nat) (y1 : State) : y1.Touches [.regs, .mem, .far, .tiers, .links, .fj, .kpu, .eru, .bud, .log, .freeCtr, .sent] (State.keepUnpark y0 y1) := by
  induction y0 generalizing y1 with
  | zero => exact .refl _ _
  | succ n ih =>
    unfold State.keepUnpark
    split
    · exact .refl _ _
    · refine State.Touches.trans ?_ (ih _)
      refine State.Touches.step (State.keepAnswer_to _ _) ?_; exact State.Touches.upd y1 (.refl _ _)

theorem State.keepIn_to (s : State) (port : Nat) (q : Packet) : s.Touches [.regs, .mem, .far, .tiers, .links, .fj, .kpu, .eru, .bud, .log, .freeCtr, .sent] (State.keepIn s port q) := by
  unfold State.keepIn
  split
  · split
    · refine State.Touches.step (State.pmc_to _ _ _ _ _) ?_; refine State.Touches.step (State.count_to _ _) ?_
      refine State.Touches.upd s ?_
      exact State.Touches.refl _ _
    · refine State.Touches.step (State.refuse_to _ _ _) ?_; exact State.Touches.refl _ _
  · extract_lets +onlyGivenNames t_0
    have ht_0 : State.Touches s [.regs, .mem, .far, .tiers, .links, .fj, .kpu, .eru, .bud, .log, .freeCtr, .sent] t_0 := by
      unfold t_0
      refine State.Touches.step (State.keepAnswer_to _ _) ?_; exact State.Touches.refl _ _
    clear_value t_0
    refine State.Touches.step (State.keepUnpark_to _ _) ?_; exact ht_0

theorem keepRow_to (p : Nat) (pkt : Packet) (mine : Bool) (s : State) : Within s [.regs, .mem, .far, .tiers, .links, .sp, .fj, .kpu, .eru, .bud, .log, .freeCtr, .sent] (keepRow p pkt mine s) := by
  unfold keepRow
  split
  · refine Within.occurs ?_ ?_
    · exact State.Touches.refl _ _
    · exact State.Touches.refl _ _
  · extract_lets +onlyGivenNames r_0
    have hr_0 : State.Touches s [.regs, .mem, .far, .tiers, .links, .sp, .fj, .kpu, .eru, .bud, .log, .freeCtr, .sent] r_0.2.2 := by
      unfold r_0
      refine State.Touches.step (State.inspect_to _ _) ?_
      refine State.Touches.of_some (by assumption) ?_
      refine WithinO.bind ?_ ?_
      · refine WithinO.step (State.takeRx_to _ _ _) ?_
        exact State.Touches.refl _ _
      · intro v1 v2
        refine WithinO.step (State.toHub_to _ _ _) ?_
        with_reducible assumption
    clear_value r_0
    refine Within.occurs ?_ ?_
    · exact State.Touches.refl _ _
    · refine State.Touches.step (State.drainPump_to _) ?_
      split
      · refine State.Touches.step (State.refuse_to _ _ _) ?_; refine State.Touches.step (State.countTag_to _ _) ?_; exact hr_0
      · refine State.Touches.step (State.keepIn_to _ _ _) ?_; exact hr_0

theorem execPair_to (p : Nat) (pkt : Packet) (s : State) : Within s [.regs, .mem, .far, .tiers, .links, .sp, .fj, .kpu, .eru, .bud, .log, .freeCtr, .sent] (execPair p pkt s) := by
  unfold execPair
  refine Within.step (keepRow_to _ _ _ _) ?_
  exact State.Touches.refl _ _

theorem execPairReply_to (p : Nat) (pkt : Packet) (s : State) : Within s [.regs, .mem, .far, .tiers, .links, .sp, .fj, .kpu, .eru, .bud, .log, .freeCtr, .sent] (execPairReply p pkt s) := by
  unfold execPairReply
  refine Within.step (keepRow_to _ _ _ _) ?_
  exact State.Touches.refl _ _

theorem execPage_to (p : Nat) (pkt : Packet) (s : State) : Within s [.regs, .mem, .far, .tiers, .links, .sp, .fj, .kpu, .eru, .bud, .log, .freeCtr, .sent] (execPage p pkt s) := by
  unfold execPage
  refine Within.step (keepRow_to _ _ _ _) ?_
  exact State.Touches.refl _ _

theorem execRecord_to (p : Nat) (pkt : Packet) (s : State) : Within s [.regs, .mem, .far, .tiers, .links, .sp, .fj, .kpu, .eru, .bud, .log, .freeCtr, .sent] (execRecord p pkt s) := by
  unfold execRecord
  refine Within.step (keepRow_to _ _ _ _) ?_
  exact State.Touches.refl _ _

theorem execSeal_to (p : Nat) (pkt : Packet) (s : State) : Within s [.regs, .mem, .far, .tiers, .links, .sp, .fj, .kpu, .eru, .bud, .log, .freeCtr, .sent] (execSeal p pkt s) := by
  unfold execSeal
  refine Within.step (keepRow_to _ _ _ _) ?_
  exact State.Touches.refl _ _

theorem execJournal_to (p : Nat) (pkt : Packet) (s : State) : Within s [.regs, .mem, .far, .tiers, .links, .sp, .fj, .kpu, .eru, .bud, .log, .freeCtr, .sent] (execJournal p pkt s) := by
  unfold execJournal
  refine Within.step (keepRow_to _ _ _ _) ?_
  exact State.Touches.refl _ _

theorem execDelta_to (p : Nat) (pkt : Packet) (s : State) : Within s [.regs, .mem, .far, .tiers, .links, .sp, .fj, .kpu, .eru, .bud, .log, .freeCtr, .sent] (execDelta p pkt s) := by
  unfold execDelta
  split
  · refine Within.occurs ?_ ?_
    · exact State.Touches.refl _ _
    · refine State.Touches.step (State.raise_to _ _ _) ?_; exact State.Touches.refl _ _
  · refine Within.step (keepRow_to _ _ _ _) ?_
    exact State.Touches.refl _ _

theorem execFetch_to (p : Nat) (pkt : Packet) (s : State) : Within s [.regs, .mem, .far, .tiers, .links, .sp, .fj, .kpu, .eru, .bud, .log, .freeCtr, .sent] (execFetch p pkt s) := by
  unfold execFetch
  refine Within.step (keepRow_to _ _ _ _) ?_
  exact State.Touches.refl _ _

theorem execRebuild_to (p : Nat) (pkt : Packet) (s : State) : Within s [.regs, .mem, .far, .tiers, .links, .sp, .fj, .kpu, .eru, .bud, .log, .freeCtr, .sent] (execRebuild p pkt s) := by
  unfold execRebuild
  refine Within.step (keepRow_to _ _ _ _) ?_
  exact State.Touches.refl _ _

theorem execResync_to (p : Nat) (pkt : Packet) (s : State) : Within s [.regs, .mem, .far, .tiers, .links, .sp, .fj, .kpu, .eru, .bud, .log, .freeCtr, .sent] (execResync p pkt s) := by
  unfold execResync
  refine Within.step (keepRow_to _ _ _ _) ?_
  exact State.Touches.refl _ _

theorem State.ripenBegin_to (s : State) (d : Bytes) : s.Touches [.regs, .tiers, .links, .fj, .kpu, .bud, .log, .sent] (State.ripenBegin s d) := by
  unfold State.ripenBegin
  extract_lets +onlyGivenNames c_0
  extract_lets +onlyGivenNames g_1
  extract_lets +onlyGivenNames pos_2
  extract_lets +onlyGivenNames units_3
  extract_lets +onlyGivenNames r_4
  extract_lets +onlyGivenNames t_5
  extract_lets +onlyGivenNames t_6
  have ht_6 : State.Touches s [.regs, .tiers, .links, .fj, .kpu, .bud, .log, .sent] t_6 := by
    unfold t_6
    refine State.Touches.step (State.wr_to _ _ _) ?_; refine State.Touches.step (State.wr_to _ _ _) ?_
    refine State.Touches.step (State.fs_to _ _ _ _) ?_
    refine State.Touches.upd s ?_
    exact State.Touches.refl _ _
  clear_value t_6
  refine State.Touches.step (State.askUnits_to _ _ _) ?_; refine State.Touches.step (State.askFrame_to _ _) ?_; exact ht_6

theorem State.standIn_to (s : State) (q : Packet) : s.Touches [.regs, .tiers, .links, .fj, .kpu, .bud, .log, .sent] (State.standIn s q) := by
  unfold State.standIn
  extract_lets +onlyGivenNames c_0
  split
  · refine State.Touches.step (State.count_to _ _) ?_; exact State.Touches.refl _ _
  · split
    · refine State.Touches.step (State.log_to _ _ _ _ _) ?_; refine State.Touches.step (State.count_to _ _) ?_; exact State.Touches.refl _ _
    · refine State.Touches.step (State.rxCount_to _ _) ?_; refine State.Touches.step (State.ripenBegin_to _ _) ?_; exact State.Touches.refl _ _

theorem mgmtRow_to {z : State} {G : List Part} {p : Nat} {pkt : Packet} {mine : Bool} {f : State → Packet → State} {s : State} (hG : List.all ([.regs, .links, .sp, .fj, .bud] : List Part) G.contains = true) (hs : z.Touches G s) (hf : ∀ y0 y1, z.Touches G y0 → z.Touches G (f y0 y1)) : Within z G (mgmtRow p pkt mine f s) := by
  unfold mgmtRow
  split
  · refine Within.occurs ?_ ?_
    · exact hs
    · exact hs
  · extract_lets +onlyGivenNames r_0
    have hr_0 : State.Touches z G r_0.2.2 := by
      unfold r_0
      refine State.Touches.step (State.inspect_to _ _) ?_ (Part.all_trans hG)
      refine State.Touches.of_some (by assumption) ?_
      refine WithinO.bind ?_ ?_
      · refine WithinO.step (State.takeRx_to _ _ _) ?_ (Part.all_trans hG)
        exact hs
      · intro v1 v2
        refine WithinO.step (State.toHub_to _ _ _) ?_ (Part.all_trans hG)
        with_reducible assumption
    clear_value r_0
    refine Within.occurs ?_ ?_
    · exact hs
    · refine State.Touches.step (State.drainPump_to _) ?_ (Part.all_trans hG)
      split
      · apply hf; exact hr_0
      · refine State.Touches.step (State.dropPkt_to _ _) ?_ (Part.all_trans hG); exact hr_0

theorem execStandInOrder_to (p : Nat) (pkt : Packet) (s : State) : Within s [.regs, .tiers, .links, .sp, .fj, .kpu, .bud, .log, .sent] (execStandInOrder p pkt s) := by
  unfold execStandInOrder
  apply mgmtRow_to (by decide)
  · exact State.Touches.refl _ _
  · intro v0 v1 v2
    refine State.Touches.step (State.standIn_to _ _) ?_; with_reducible assumption

theorem execRipeningDone_to (s : State) : Within s [.regs] (execRipeningDone s) := by
  unfold execRipeningDone
  split
  · refine Within.occurs ?_ ?_
    · exact State.Touches.refl _ _
    · refine State.Touches.step (State.fs_to _ _ _ _) ?_; exact State.Touches.refl _ _
  · refine Within.next ?_
    exact State.Touches.refl _ _

theorem execKpuClearCounts_to (port : Nat) (s : State) : Within s [.regs] (execKpuClearCounts port s) := by
  unfold execKpuClearCounts
  refine Within.occurs ?_ ?_
  · exact State.Touches.refl _ _
  · refine State.Touches.step (State.zeroRegs_to _ _) ?_; exact State.Touches.refl _ _

theorem execKpuFullNext_to (port : Nat) (s : State) : Within s [.regs] (execKpuFullNext port s) := by
  unfold execKpuFullNext
  refine Within.occurs ?_ ?_
  · exact State.Touches.refl _ _
  · refine State.Touches.step (State.fs_to _ _ _ _) ?_; exact State.Touches.refl _ _

theorem execEruClearCounts_to (port : Nat) (s : State) : Within s [.regs] (execEruClearCounts port s) := by
  unfold execEruClearCounts
  refine Within.occurs ?_ ?_
  · exact State.Touches.refl _ _
  · refine State.Touches.step (State.zeroRegs_to _ _) ?_; exact State.Touches.refl _ _

end Machine
end Sys2Proof
end

