-- ==== Sys2Proof/Laws/TouchEdge.lean ====
section
/-!
SUPPORT. The operations of the Rind, the SGU, the register window, the Hauno cores, the remaining units and idling change at most the listed parts of the state (`State.Touches`): one lemma for each.
-/
namespace Sys2Proof
namespace Machine
set_option Elab.async false

theorem State.setMbox_to (s : State) (port : Nat) (m : Mbox) : s.Touches [.regs, .rind] (State.setMbox s port m) := by
  unfold State.setMbox
  extract_lets +onlyGivenNames k_0
  refine State.Touches.step (State.fs_to _ _ _ _) ?_; refine State.Touches.step (State.fs_to _ _ _ _) ?_
  refine State.Touches.upd s ?_
  exact State.Touches.refl _ _

theorem State.setMboxState_to (s : State) (port n : Nat) : s.Touches [.regs] (State.setMboxState s port n) := by
  unfold State.setMboxState
  refine State.Touches.step (State.fs_to _ _ _ _) ?_; exact State.Touches.refl _ _

theorem State.mboxStray_to (s : State) (port : Nat) : s.Touches [.regs] (State.mboxStray s port) := by
  unfold State.mboxStray
  refine State.Touches.step (State.raise_to _ _ _) ?_; exact State.Touches.refl _ _

theorem execMboxBegin_to (port : Nat) (s : State) : Within s [.regs, .rind] (execMboxBegin port s) := by
  unfold execMboxBegin
  refine Within.occurs ?_ ?_
  · exact State.Touches.refl _ _
  · refine State.Touches.step (State.setMboxState_to _ _ _) ?_; refine State.Touches.step (State.setMbox_to _ _ _) ?_; exact State.Touches.refl _ _

theorem State.mboxIn_to (s : State) (port size : Nat) (words : List Word) : s.Touches [.regs, .rind] (State.mboxIn s port size words) := by
  unfold State.mboxIn
  extract_lets +onlyGivenNames m_0
  extract_lets +onlyGivenNames l_1
  extract_lets +onlyGivenNames t_2
  have ht_2 : State.Touches s [.regs, .rind] t_2 := by
    unfold t_2
    refine State.Touches.step (State.setMbox_to _ _ _) ?_; exact State.Touches.refl _ _
  clear_value t_2
  split
  · refine State.Touches.step (State.mboxStray_to _ _) ?_; exact ht_2
  · exact ht_2

theorem execMboxInWrite_to (port size : Nat) (words : List Word) (s : State) : Within s [.regs, .rind] (execMboxInWrite port size words s) := by
  unfold execMboxInWrite
  refine Within.occurs ?_ ?_
  · exact State.Touches.refl _ _
  · refine State.Touches.step (State.mboxIn_to _ _ _ _) ?_; exact State.Touches.refl _ _

theorem execMboxCommit_to (port : Nat) (s : State) : Within s [.regs, .rind] (execMboxCommit port s) := by
  unfold execMboxCommit
  refine Within.occurs ?_ ?_
  · exact State.Touches.refl _ _
  · split
    · refine State.Touches.step (State.mboxStray_to _ _) ?_; exact State.Touches.refl _ _
    · refine State.Touches.step (State.setMboxState_to _ _ _) ?_
      refine State.Touches.upd s ?_
      exact State.Touches.refl _ _

theorem execMboxAbort_to (port : Nat) (s : State) : Within s [.regs, .rind] (execMboxAbort port s) := by
  unfold execMboxAbort
  refine Within.occurs ?_ ?_
  · exact State.Touches.refl _ _
  · refine State.Touches.step (State.setMboxState_to _ _ _) ?_; refine State.Touches.step (State.setMbox_to _ _ _) ?_; exact State.Touches.refl _ _

theorem State.mboxOut_to (s : State) (port : Nat) : s.Touches [.regs, .rind, .sent] (State.mboxOut s port) := by
  unfold State.mboxOut
  split
  · refine State.Touches.step (State.emit_to _ _) ?_; refine State.Touches.step (State.setMbox_to _ _ _) ?_; exact State.Touches.refl _ _
  · refine State.Touches.step (State.emit_to _ _) ?_; exact State.Touches.refl _ _

theorem execMboxOutRead_to (port : Nat) (s : State) : Within s [.regs, .rind, .sent] (execMboxOutRead port s) := by
  unfold execMboxOutRead
  refine Within.occurs ?_ ?_
  · exact State.Touches.refl _ _
  · refine State.Touches.step (State.mboxOut_to _ _) ?_; exact State.Touches.refl _ _

theorem State.mboxAnswer_to (s : State) (port code : Nat) (data : Bytes) : s.Touches [.regs, .rind] (State.mboxAnswer s port code data) := by
  unfold State.mboxAnswer
  extract_lets +onlyGivenNames m_0
  extract_lets +onlyGivenNames body_1
  extract_lets +onlyGivenNames body_2
  extract_lets +onlyGivenNames r_3
  extract_lets +onlyGivenNames t_4
  have ht_4 : State.Touches s [.regs, .rind] t_4 := by
    unfold t_4
    refine State.Touches.step (State.fs_to _ _ _ _) ?_; refine State.Touches.step (State.setMboxState_to _ _ _) ?_
    refine State.Touches.step (State.setMbox_to _ _ _) ?_; exact State.Touches.refl _ _
  clear_value t_4
  extract_lets +onlyGivenNames t_5
  extract_lets +onlyGivenNames t_6
  have ht_6 : State.Touches s [.regs, .rind] t_6 := by
    unfold t_6
    refine State.Touches.upd t_4 ?_
    exact ht_4
  clear_value t_6
  split
  · exact ht_6
  · refine State.Touches.step (State.count_to _ _) ?_; exact ht_6

theorem mboxRow_to {z : State} {G : List Part} {port ty : Nat} {f : State → Bytes → Nat × Bytes × State} {s : State} (hG : List.all ([.regs, .rind] : List Part) G.contains = true) (hs : z.Touches G s) (hf : ∀ y0 y1, z.Touches G y0 → z.Touches G (f y0 y1).2.2) : Within z G (mboxRow port ty f s) := by
  unfold mboxRow
  refine Within.occurs ?_ ?_
  · exact hs
  · split
    · refine State.Touches.step (State.mboxAnswer_to _ _ _ _) ?_ (Part.all_trans hG); exact hs
    · extract_lets +onlyGivenNames r_0
      have hr_0 : State.Touches z G r_0.2.2 := by
        unfold r_0
        apply hf; exact hs
      clear_value r_0
      refine State.Touches.step (State.mboxAnswer_to _ _ _ _) ?_ (Part.all_trans hG); exact hr_0

theorem execMboxBadMessage_to (port : Nat) (s : State) : Within s [.regs, .rind] (execMboxBadMessage port s) := by
  unfold execMboxBadMessage
  refine Within.occurs ?_ ?_
  · exact State.Touches.refl _ _
  · refine State.Touches.step (State.mboxAnswer_to _ _ _ _) ?_; exact State.Touches.refl _ _

theorem State.reportChain_to (s : State) (nonce : Bytes) : WithinP s [.randCtr] (State.reportChain s nonce) := by
  unfold State.reportChain
  split
  · refine WithinP.some ?_
    dsimp only
    refine State.Touches.of_pair (by assumption) ?_
    refine WithinP.step (State.report_to _ _) ?_
    exact State.Touches.refl _ _
  · exact WithinP.none

theorem execAttest_to (port : Nat) (s : State) : Within s [.regs, .rind, .randCtr] (execAttest port s) := by
  unfold execAttest
  apply mboxRow_to (by decide)
  · exact State.Touches.refl _ _
  · intro v0 v1 v2
    split
    · dsimp only
      refine State.Touches.of_pair (by assumption) ?_
      refine WithinP.step (State.reportChain_to _ _) ?_
      with_reducible assumption
    · with_reducible assumption

theorem checked_to {z : State} {G : List Part} {l : List (Bool × Nat)} {s t : State} {data : Bytes} (hG : List.all ([] : List Part) G.contains = true) (hs : z.Touches G s) (ht : z.Touches G t) : z.Touches G (checked l s t data).2.2 := by
  unfold checked
  split
  · with_reducible assumption
  · with_reducible assumption

theorem ruled_to {z : State} {G : List Part} {l : List (Bool × Nat)} {s t : State} {data : Bytes} (hG : List.all ([] : List Part) G.contains = true) (hs : z.Touches G s) (ht : z.Touches G t) : z.Touches G (ruled l s t data).2.2 := by
  unfold ruled
  split
  · with_reducible assumption
  · with_reducible assumption

theorem State.showOwner_to (s : State) (id : Bytes) : s.Touches [.regs] (State.showOwner s id) := by
  unfold State.showOwner
  refine State.Touches.step (State.wr_to _ _ _) ?_; refine State.Touches.step (State.wr_to _ _ _) ?_; exact State.Touches.refl _ _

theorem execOwnerEnrol_to (port : Nat) (s : State) : Within s [.regs, .rind, .owner] (execOwnerEnrol port s) := by
  unfold execOwnerEnrol
  apply mboxRow_to (by decide)
  · exact State.Touches.refl _ _
  · intro v0 v1 v2
    extract_lets +onlyGivenNames pub_3
    extract_lets +onlyGivenNames id_4
    apply checked_to (by decide)
    · with_reducible assumption
    · refine State.Touches.step (State.showOwner_to _ _) ?_; refine State.Touches.step (State.fs_to _ _ _ _) ?_
      refine State.Touches.step (State.fs_to _ _ _ _) ?_
      refine State.Touches.upd v0 ?_
      with_reducible assumption

theorem State.dropOwner_to (s : State) : s.Touches [.regs, .owner] (State.dropOwner s) := by
  unfold State.dropOwner
  refine State.Touches.step (State.showOwner_to _ _) ?_; refine State.Touches.step (State.fs_to _ _ _ _) ?_
  refine State.Touches.step (State.fs_to _ _ _ _) ?_; refine State.Touches.step (State.fs_to _ _ _ _) ?_
  refine State.Touches.upd s ?_
  exact State.Touches.refl _ _

theorem execOwnerTransfer_to (port : Nat) (s : State) : Within s [.regs, .rind, .fuses, .owner] (execOwnerTransfer port s) := by
  unfold execOwnerTransfer
  apply mboxRow_to (by decide)
  · exact State.Touches.refl _ _
  · intro v0 v1 v2
    extract_lets +onlyGivenNames u_3
    have hu_3 : State.Touches s [.regs, .rind, .fuses, .owner] u_3 := by
      unfold u_3
      refine State.Touches.step (State.dropOwner_to _) ?_; with_reducible assumption
    clear_value u_3
    extract_lets +onlyGivenNames v_4
    extract_lets +onlyGivenNames v_5
    extract_lets +onlyGivenNames v_6
    have hv_6 : State.Touches s [.regs, .rind, .fuses, .owner] v_6 := by
      unfold v_6
      refine State.Touches.upd u_3 ?_
      exact hu_3
    clear_value v_6
    apply ruled_to (by decide)
    · with_reducible assumption
    · refine State.Touches.step (State.wr_to _ _ _) ?_; refine State.Touches.step (State.fs_to _ _ _ _) ?_
      refine State.Touches.step (State.fs_to _ _ _ _) ?_; exact hv_6

theorem execKeyInstall_to (port : Nat) (s : State) : Within s [.regs, .rind, .owner] (execKeyInstall port s) := by
  unfold execKeyInstall
  apply mboxRow_to (by decide)
  · exact State.Touches.refl _ _
  · intro v0 v1 v2
    extract_lets +onlyGivenNames kind_3
    extract_lets +onlyGivenNames ordered_4
    have hordered_4 : ∀ a0, State.Touches s [.regs, .rind, .owner] a0 → State.Touches s [.regs, .rind, .owner] (ordered_4 a0) := by
      unfold ordered_4
      intro v5 v6
      refine State.Touches.upd v5 ?_
      with_reducible assumption
    clear_value ordered_4
    split
    · split
      · dsimp only
        apply hordered_4; refine State.Touches.step (State.fs_to _ _ _ _) ?_
        refine State.Touches.upd v0 ?_
        with_reducible assumption
      · split
        · dsimp only
          apply hordered_4; refine State.Touches.step (State.fs_to _ _ _ _) ?_
          refine State.Touches.upd v0 ?_
          with_reducible assumption
        · with_reducible assumption
    · with_reducible assumption

theorem State.chanSet_to (s : State) (ch : Nat) (km : Bytes) : s.Touches [.regs, .rind, .host, .sent] (State.chanSet s ch km) := by
  unfold State.chanSet
  extract_lets +onlyGivenNames ports_0
  extract_lets +onlyGivenNames was_1
  extract_lets +onlyGivenNames t_2
  extract_lets +onlyGivenNames t_3
  have ht_3 : State.Touches s [.regs, .rind, .host, .sent] t_3 := by
    unfold t_3
    refine State.Touches.upd s ?_
    exact State.Touches.refl _ _
  clear_value t_3
  extract_lets +onlyGivenNames u_4
  have hu_4 : State.Touches s [.regs, .rind, .host, .sent] u_4 := by
    unfold u_4
    split
    · refine State.Touches.foldl ?_ ?_
      · exact ht_3
      · intro v5 v6 v7
        refine State.Touches.step (State.setPlain_to _ _ _) ?_; refine State.Touches.step (State.setStaging_to _ _ _) ?_; with_reducible assumption
    · exact ht_3
  clear_value u_4
  apply State.streamNotify_to (by decide)
  · exact State.Touches.refl _ _
  · refine State.Touches.foldl ?_ ?_
    · exact hu_4
    · intro v8 v9 v10
      split
      · split
        · refine State.Touches.step (State.fillOut_to _ _) ?_; with_reducible assumption
        · with_reducible assumption
      · with_reducible assumption

theorem execChanOpen_to (port : Nat) (s : State) : Within s [.regs, .rind, .host, .randCtr, .sent] (execChanOpen port s) := by
  unfold execChanOpen
  apply mboxRow_to (by decide)
  · exact State.Touches.refl _ _
  · intro v0 v1 v2
    split
    · extract_lets +onlyGivenNames k_3
      have hk_3 : State.Touches s [.regs, .rind, .host, .randCtr, .sent] k_3.2 := by
        unfold k_3
        refine State.Touches.step (State.scalar_to _) ?_; with_reducible assumption
      clear_value k_3
      extract_lets +onlyGivenNames eph_4
      extract_lets +onlyGivenNames nonce_5
      split
      · dsimp only
        refine State.Touches.step (State.chanSet_to _ _ _) ?_
        refine State.Touches.of_pair (by assumption) ?_
        refine WithinP.step (State.reportChain_to _ _) ?_
        exact hk_3
      · with_reducible assumption
    · with_reducible assumption

theorem execChanClose_to (port : Nat) (s : State) : Within s [.regs, .rind, .host, .sent] (execChanClose port s) := by
  unfold execChanClose
  apply mboxRow_to (by decide)
  · exact State.Touches.refl _ _
  · intro v0 v1 v2
    split
    · with_reducible assumption
    · split
      · dsimp only
        apply State.streamNotify_to (by decide)
        · with_reducible assumption
        · refine State.Touches.upd v0 ?_
          with_reducible assumption
      · with_reducible assumption

theorem execChanStatus_to (port : Nat) (s : State) : Within s [.regs, .rind] (execChanStatus port s) := by
  unfold execChanStatus
  apply mboxRow_to (by decide)
  · exact State.Touches.refl _ _
  · intro v0 v1 v2
    with_reducible assumption

theorem State.debugUnlock_to (s : State) : s.Touches [.regs, .far, .stamps, .sp, .fj, .keys, .rind, .fuses, .log, .owner, .sent] (State.debugUnlock s) := by
  unfold State.debugUnlock
  extract_lets w1 t w2 w3 w4 u v
  have ht : s.Touches [.regs, .far, .stamps, .sp, .fj, .keys, .rind, .fuses, .log, .owner, .sent] t := State.Touches.step (State.fs_to _ _ _ _) (State.Touches.upd s (.refl _ _))
  have hu : s.Touches [.regs, .far, .stamps, .sp, .fj, .keys, .rind, .fuses, .log, .owner, .sent] u := by
    refine ht.trans ?_
    intro p hp
    cases p <;> first | exact absurd hp (by decide) | rfl
  have hv : s.Touches [.regs, .far, .stamps, .sp, .fj, .keys, .rind, .fuses, .log, .owner, .sent] v := hu.foldl fun w p hw => by
    split
    · exact State.Touches.step (State.spDown_to _ _ _) hw
    · exact hw
  refine State.Touches.step (State.fs_to _ _ _ _) ?_
  split
  · exact State.Touches.step (State.setState_to _ _) hv
  · exact hv

theorem execDebugUnlock_to (port : Nat) (s : State) : Within s [.regs, .far, .stamps, .sp, .fj, .keys, .rind, .fuses, .log, .owner, .sent] (execDebugUnlock port s) := by
  unfold execDebugUnlock
  apply mboxRow_to (by decide)
  · exact State.Touches.refl _ _
  · intro v0 v1 v2
    extract_lets +onlyGivenNames d_3
    apply checked_to (by decide)
    · with_reducible assumption
    · refine State.Touches.step (State.debugUnlock_to _) ?_; with_reducible assumption

theorem execFwBegin_to (port : Nat) (s : State) : Within s [.regs, .rind, .fw] (execFwBegin port s) := by
  unfold execFwBegin
  apply mboxRow_to (by decide)
  · exact State.Touches.refl _ _
  · intro v0 v1 v2
    extract_lets +onlyGivenNames r_3
    have hr_3 : State.Touches s [.regs, .rind, .fw] r_3.2 := by
      unfold r_3
      refine State.Touches.step (State.fwOpen_to _ _ _) ?_; with_reducible assumption
    clear_value r_3
    with_reducible assumption

theorem execFwData_to (port : Nat) (s : State) : Within s [.regs, .rind, .fw] (execFwData port s) := by
  unfold execFwData
  apply mboxRow_to (by decide)
  · exact State.Touches.refl _ _
  · intro v0 v1 v2
    extract_lets +onlyGivenNames r_3
    have hr_3 : State.Touches s [.regs, .rind, .fw] r_3.2 := by
      unfold r_3
      refine State.Touches.step (State.fwPiece_to _ _ _ _) ?_; with_reducible assumption
    clear_value r_3
    with_reducible assumption

theorem execFwEnd_to (port : Nat) (s : State) : Within s [.regs, .rind, .fw] (execFwEnd port s) := by
  unfold execFwEnd
  apply mboxRow_to (by decide)
  · exact State.Touches.refl _ _
  · intro v0 v1 v2
    extract_lets +onlyGivenNames r_3
    have hr_3 : State.Touches s [.regs, .rind, .fw] r_3.2 := by
      unfold r_3
      refine State.Touches.step (State.fwClose_to _ _) ?_; with_reducible assumption
    clear_value r_3
    with_reducible assumption

theorem execRindClearCounts_to (port : Nat) (s : State) : Within s [.regs] (execRindClearCounts port s) := by
  unfold execRindClearCounts
  refine Within.occurs ?_ ?_
  · exact State.Touches.refl _ _
  · refine State.Touches.step (State.zeroRegs_to _ _) ?_; exact State.Touches.refl _ _

theorem execMgmt_to (p : Nat) (pkt : Packet) (s : State) : Within s [.regs, .links, .sp, .fj, .bud] (execMgmt p pkt s) := by
  unfold execMgmt
  apply mgmtRow_to (by decide)
  · exact State.Touches.refl _ _
  · intro v0 v1 v2
    refine State.Touches.step (State.rxCount_to _ _) ?_; with_reducible assumption

theorem execTeardownPacket_to (p : Nat) (pkt : Packet) (s : State) : Within s [.regs, .seq, .links, .sp, .fj, .cle, .bud, .host, .log, .sent] (execTeardownPacket p pkt s) := by
  unfold execTeardownPacket
  split
  · refine Within.occurs ?_ ?_
    · exact State.Touches.refl _ _
    · exact State.Touches.refl _ _
  · extract_lets +onlyGivenNames r_0
    have hr_0 : State.Touches s [.regs, .seq, .links, .sp, .fj, .cle, .bud, .host, .log, .sent] r_0.2.2 := by
      unfold r_0
      refine State.Touches.step (State.inspect_to _ _) ?_
      refine State.Touches.of_some (by assumption) ?_
      refine WithinO.bind ?_ ?_
      · refine WithinO.step (State.takeRx_to _ _ _) ?_
        exact State.Touches.refl _ _
      · intro v1 v2
        refine WithinO.step (State.toHub_to _ _ _) ?_
        with_reducible assumption
    clear_value r_0
    refine Within.occurs ?_ ?_
    · exact State.Touches.refl _ _
    · refine State.Touches.step (State.drainPump_to _) ?_
      split
      · refine State.Touches.step (State.dropPkt_to _ _) ?_; exact hr_0
      · split
        · refine State.Touches.step (State.rxCount_to _ _) ?_; refine State.Touches.step (State.teardownKey_to _ _) ?_; exact hr_0
        · refine State.Touches.step (State.count_to _ _) ?_; exact hr_0

theorem State.putKey_to (s : State) (id : Nat) (k : Bytes) : s.Touches [.keys] (State.putKey s id k) := by
  unfold State.putKey
  split
  · refine State.Touches.upd s ?_
    exact State.Touches.refl _ _
  · refine State.Touches.upd s ?_
    exact State.Touches.refl _ _

theorem State.keyFull_to (s : State) (id : Nat) : s.Touches [.regs, .log, .sent] (State.keyFull s id) := by
  unfold State.keyFull
  refine State.Touches.step (State.log_to _ _ _ _ _) ?_; refine State.Touches.step (State.count_to _ _) ?_; exact State.Touches.refl _ _

theorem State.sendMgmt_to (s : State) (dest kind : Nat) (d : Bytes) : s.Touches [.regs, .fj] (State.sendMgmt s dest kind d) := by
  unfold State.sendMgmt
  refine State.Touches.step (State.issue_to _ _ _ _) ?_; exact State.Touches.refl _ _

theorem State.keyLead_to (s : State) (q : Packet) : s.Touches [.regs, .keys, .log, .randCtr, .sent] (State.keyLead s q) := by
  unfold State.keyLead
  extract_lets +onlyGivenNames id_0
  extract_lets +onlyGivenNames devs_1
  split
  · refine State.Touches.step (State.count_to _ _) ?_; exact State.Touches.refl _ _
  · split
    · refine State.Touches.step (State.keyFull_to _ _) ?_; exact State.Touches.refl _ _
    · extract_lets +onlyGivenNames t_2
      have ht_2 : State.Touches s [.regs, .keys, .log, .randCtr, .sent] t_2.2 := by
        unfold t_2
        refine State.Touches.step (State.random_to _ _) ?_; exact State.Touches.refl _ _
      clear_value t_2
      extract_lets +onlyGivenNames t_3
      have ht_3 : State.Touches s [.regs, .keys, .log, .randCtr, .sent] t_3 := by
        unfold t_3
        split
        · exact State.Touches.refl _ _
        · refine State.Touches.step (State.putKey_to _ _ _) ?_; exact ht_2
      clear_value t_3
      extract_lets +onlyGivenNames l_4
      refine State.Touches.step (State.rxCount_to _ _) ?_
      refine State.Touches.upd t_3 ?_
      exact ht_3

theorem execKeyLead_to (p : Nat) (pkt : Packet) (s : State) : Within s [.regs, .links, .sp, .fj, .keys, .bud, .log, .randCtr, .sent] (execKeyLead p pkt s) := by
  unfold execKeyLead
  apply mgmtRow_to (by decide)
  · exact State.Touches.refl _ _
  · intro v0 v1 v2
    refine State.Touches.step (State.keyLead_to _ _) ?_; with_reducible assumption

theorem State.sendKreq_to (s : State) (id leader eph : Nat) : s.Touches [.regs, .fj, .randCtr] (State.sendKreq s id leader eph) := by
  unfold State.sendKreq
  extract_lets +onlyGivenNames pub_0
  split
  · refine State.Touches.step (State.sendMgmt_to _ _ _ _) ?_
    refine State.Touches.of_pair (by assumption) ?_
    refine WithinP.step (State.reportChain_to _ _) ?_
    exact State.Touches.refl _ _
  · exact State.Touches.refl _ _

theorem State.keyFetch_to (s : State) (q : Packet) : s.Touches [.regs, .fj, .keys, .log, .randCtr, .sent] (State.keyFetch s q) := by
  unfold State.keyFetch
  extract_lets +onlyGivenNames id_0
  extract_lets +onlyGivenNames leader_1
  split
  · refine State.Touches.step (State.count_to _ _) ?_; exact State.Touches.refl _ _
  · split
    · refine State.Touches.step (State.keyFull_to _ _) ?_; exact State.Touches.refl _ _
    · extract_lets +onlyGivenNames eph_2
      extract_lets +onlyGivenNames t_3
      have ht_3 : State.Touches s [.regs, .fj, .keys, .log, .randCtr, .sent] t_3 := by
        unfold t_3
        refine State.Touches.step (State.scalar_to _) ?_; exact State.Touches.refl _ _
      clear_value t_3
      refine State.Touches.step (State.rxCount_to _ _) ?_; refine State.Touches.step (State.sendKreq_to _ _ _ _) ?_
      refine State.Touches.upd t_3 ?_
      exact ht_3

theorem execKeyFetch_to (p : Nat) (pkt : Packet) (s : State) : Within s [.regs, .links, .sp, .fj, .keys, .bud, .log, .randCtr, .sent] (execKeyFetch p pkt s) := by
  unfold execKeyFetch
  apply mgmtRow_to (by decide)
  · exact State.Touches.refl _ _
  · intro v0 v1 v2
    refine State.Touches.step (State.keyFetch_to _ _) ?_; with_reducible assumption

theorem State.kreqRetry_to (s : State) (id : Nat) (f : Nat × Nat × Nat × Nat) : s.Touches [.regs, .waits, .fj, .keys, .log, .time, .now, .rack, .randCtr, .sent] (State.kreqRetry s id f) := by
  unfold State.kreqRetry
  split
  · extract_lets +onlyGivenNames t_0
    have ht_0 : State.Touches s [.regs, .waits, .fj, .keys, .log, .time, .now, .rack, .randCtr, .sent] t_0 := by
      unfold t_0
      refine State.Touches.step (State.runTo_to _ _) ?_; exact State.Touches.refl _ _
    clear_value t_0
    refine State.Touches.step (State.log_to _ _ _ _ _) ?_
    refine State.Touches.upd t_0 ?_
    exact ht_0
  · extract_lets +onlyGivenNames t_1
    have ht_1 : State.Touches s [.regs, .waits, .fj, .keys, .log, .time, .now, .rack, .randCtr, .sent] t_1 := by
      unfold t_1
      refine State.Touches.step (State.runTo_to _ _) ?_; exact State.Touches.refl _ _
    clear_value t_1
    refine State.Touches.step (State.sendKreq_to _ _ _ _) ?_
    refine State.Touches.upd t_1 ?_
    exact ht_1

theorem execKreqRetry_to (key : Nat) (s : State) : Within s [.regs, .waits, .fj, .keys, .log, .time, .now, .rack, .randCtr, .sent] (execKreqRetry key s) := by
  unfold execKreqRetry
  split
  · refine Within.next ?_
    refine State.Touches.step (State.kreqRetry_to _ _ _) ?_; exact State.Touches.refl _ _
  · refine Within.next ?_
    exact State.Touches.refl _ _

theorem State.keyDrop_to (s : State) (q : Packet) : s.Touches [.regs, .keys, .log, .sent] (State.keyDrop s q) := by
  unfold State.keyDrop
  extract_lets +onlyGivenNames id_0
  split
  · refine State.Touches.step (State.count_to _ _) ?_; exact State.Touches.refl _ _
  · split
    · refine State.Touches.step (State.log_to _ _ _ _ _) ?_; refine State.Touches.step (State.count_to _ _) ?_; exact State.Touches.refl _ _
    · extract_lets +onlyGivenNames k_1
      refine State.Touches.step (State.rxCount_to _ _) ?_
      refine State.Touches.upd s ?_
      exact State.Touches.refl _ _

theorem execKeyDrop_to (p : Nat) (pkt : Packet) (s : State) : Within s [.regs, .links, .sp, .fj, .keys, .bud, .log, .sent] (execKeyDrop p pkt s) := by
  unfold execKeyDrop
  apply mgmtRow_to (by decide)
  · exact State.Touches.refl _ _
  · intro v0 v1 v2
    refine State.Touches.step (State.keyDrop_to _ _) ?_; with_reducible assumption

theorem State.krespOk_to (s : State) (q : Packet) (boot : Nat) : WithinO s [.regs, .fj, .keys, .randCtr] (State.krespOk s q boot) := by
  unfold State.krespOk
  extract_lets +onlyGivenNames d_0
  extract_lets +onlyGivenNames id_1
  extract_lets +onlyGivenNames k_2
  have hk_2 : State.Touches s [.regs, .fj, .keys, .randCtr] k_2.2 := by
    unfold k_2
    refine State.Touches.step (State.scalar_to _) ?_; exact State.Touches.refl _ _
  clear_value k_2
  extract_lets +onlyGivenNames eph_3
  extract_lets +onlyGivenNames nonce_4
  split
  · extract_lets +onlyGivenNames n_5
    have hn_5 : State.Touches s [.regs, .fj, .keys, .randCtr] n_5.2 := by
      unfold n_5
      refine State.Touches.step (State.random_to _ _) ?_
      refine State.Touches.of_pair (by assumption) ?_
      refine WithinP.step (State.reportChain_to _ _) ?_
      exact hk_2
    clear_value n_5
    extract_lets +onlyGivenNames w_6
    extract_lets +onlyGivenNames l_7
    extract_lets +onlyGivenNames t_8
    have ht_8 : State.Touches s [.regs, .fj, .keys, .randCtr] t_8 := by
      unfold t_8
      exact hn_5
    clear_value t_8
    extract_lets +onlyGivenNames t_9
    extract_lets +onlyGivenNames t_10
    have ht_10 : State.Touches s [.regs, .fj, .keys, .randCtr] t_10 := by
      unfold t_10
      refine State.Touches.upd t_8 ?_
      exact ht_8
    clear_value t_10
    refine WithinO.some ?_
    refine State.Touches.step (State.sendMgmt_to _ _ _ _) ?_; exact ht_10
  · exact WithinO.none

theorem State.kreqRx_to (s : State) (q : Packet) : s.Touches [.regs, .fj, .keys, .randCtr] (State.kreqRx s q) := by
  unfold State.kreqRx
  extract_lets +onlyGivenNames c_0
  extract_lets +onlyGivenNames no_1
  have hno_1 : ∀ a0, State.Touches s [.regs, .fj, .keys, .randCtr] (no_1 a0) := by
    unfold no_1
    intro v2
    refine State.Touches.step (State.sendMgmt_to _ _ _ _) ?_; refine State.Touches.step (State.count_to _ _) ?_; exact State.Touches.refl _ _
  clear_value no_1
  refine State.Touches.step (State.rxCount_to _ _) ?_
  split
  · apply hno_1
  · refine WithinO.getD ?_ ?_
    · refine WithinO.step (State.krespOk_to _ _ _) ?_
      exact State.Touches.refl _ _
    · apply hno_1

theorem execKreq_to (p : Nat) (pkt : Packet) (s : State) : Within s [.regs, .links, .sp, .fj, .keys, .bud, .randCtr] (execKreq p pkt s) := by
  unfold execKreq
  apply mgmtRow_to (by decide)
  · exact State.Touches.refl _ _
  · intro v0 v1 v2
    refine State.Touches.step (State.kreqRx_to _ _) ?_; with_reducible assumption

theorem State.fetchEnds_to (s : State) (id code : Nat) : s.Touches [.regs, .keys, .log, .sent] (State.fetchEnds s id code) := by
  unfold State.fetchEnds
  extract_lets +onlyGivenNames t_0
  extract_lets +onlyGivenNames t_1
  have ht_1 : State.Touches s [.regs, .keys, .log, .sent] t_1 := by
    unfold t_1
    refine State.Touches.upd s ?_
    exact State.Touches.refl _ _
  clear_value t_1
  split
  · exact ht_1
  · refine State.Touches.step (State.log_to _ _ _ _ _) ?_; exact ht_1

theorem State.krespRx_to (s : State) (q : Packet) : s.Touches [.regs, .keys, .log, .sent] (State.krespRx s q) := by
  unfold State.krespRx
  extract_lets +onlyGivenNames d_0
  extract_lets +onlyGivenNames id_1
  split
  · refine State.Touches.step (State.count_to _ _) ?_; exact State.Touches.refl _ _
  · split
    · refine State.Touches.step (State.count_to _ _) ?_; exact State.Touches.refl _ _
    · split
      · refine State.Touches.step (State.rxCount_to _ _) ?_; refine State.Touches.step (State.fetchEnds_to _ _ _) ?_; exact State.Touches.refl _ _
      · extract_lets +onlyGivenNames nonce_2
        extract_lets +onlyGivenNames rc_3
        extract_lets +onlyGivenNames c_4
        extract_lets +onlyGivenNames key_5
        refine State.Touches.step (State.rxCount_to _ _) ?_
        split
        · split
          · refine State.Touches.step (State.fetchEnds_to _ _ _) ?_; refine State.Touches.step (State.putKey_to _ _ _) ?_; exact State.Touches.refl _ _
          · refine State.Touches.step (State.fetchEnds_to _ _ _) ?_; exact State.Touches.refl _ _
        · refine State.Touches.step (State.fetchEnds_to _ _ _) ?_; exact State.Touches.refl _ _
        · refine State.Touches.step (State.fetchEnds_to _ _ _) ?_; exact State.Touches.refl _ _

theorem execKresp_to (p : Nat) (pkt : Packet) (s : State) : Within s [.regs, .links, .sp, .fj, .keys, .bud, .log, .sent] (execKresp p pkt s) := by
  unfold execKresp
  apply mgmtRow_to (by decide)
  · exact State.Touches.refl _ _
  · intro v0 v1 v2
    refine State.Touches.step (State.krespRx_to _ _) ?_; with_reducible assumption

theorem State.sguTake_to (s : State) (r : Rec) : s.Touches [.host] (State.sguTake s r) := by
  unfold State.sguTake
  extract_lets +onlyGivenNames w_0
  refine State.Touches.upd s ?_
  exact State.Touches.refl _ _

theorem State.sguDone_to (s : State) (c slot : Nat) (gap : Bool) (x : SguSlot) : s.Touches [.regs, .host] (State.sguDone s c slot gap x) := by
  unfold State.sguDone
  extract_lets +onlyGivenNames t_0
  have ht_0 : State.Touches s [.regs, .host] t_0 := by
    unfold t_0
    refine State.Touches.step (State.pmc_to _ _ _ _ _) ?_; refine State.Touches.step (State.fsat_to _ _ _ _) ?_; exact State.Touches.refl _ _
  clear_value t_0
  extract_lets +onlyGivenNames u_1
  have hu_1 : State.Touches s [.regs, .host] u_1 := by
    unfold u_1
    split
    · refine State.Touches.step (State.fsat_to _ _ _ _) ?_; exact ht_0
    · exact ht_0
  clear_value u_1
  refine State.Touches.upd u_1 ?_
  exact hu_1

theorem State.sguDrop_to (s : State) (c : Nat) (r : Rec) : s.Touches [.regs, .host] (State.sguDrop s c r) := by
  unfold State.sguDrop
  refine State.Touches.step (State.fsat_to _ _ _ _) ?_; refine State.Touches.step (State.sguTake_to _ _) ?_; exact State.Touches.refl _ _

theorem State.sguAnalyse_to (s : State) (c : Nat) (r tab : Rec) : s.Touches [.regs, .mem, .far, .seq, .tiers, .links, .kpu, .bud, .host] (State.sguAnalyse s c r tab) := by
  unfold State.sguAnalyse
  extract_lets +onlyGivenNames h_0
  extract_lets +onlyGivenNames k_1
  extract_lets +onlyGivenNames x_2
  extract_lets +onlyGivenNames f_3
  extract_lets +onlyGivenNames id_4
  extract_lets +onlyGivenNames p_5
  extract_lets +onlyGivenNames t_6
  have ht_6 : State.Touches s [.regs, .mem, .far, .seq, .tiers, .links, .kpu, .bud, .host] t_6 := by
    unfold t_6
    refine State.Touches.step (State.sguDone_to _ _ _ _ _) ?_; refine State.Touches.step (State.sguTake_to _ _) ?_
    refine State.Touches.step (State.chargeAll_to _ _ _) ?_; exact State.Touches.refl _ _
  clear_value t_6
  extract_lets +onlyGivenNames t_7
  have ht_7 : State.Touches s [.regs, .mem, .far, .seq, .tiers, .links, .kpu, .bud, .host] t_7 := by
    unfold t_7
    refine State.Touches.foldl ?_ ?_
    · exact ht_6
    · intro v8 v9 v10
      refine State.Touches.step (State.linkSend_to _ _ _) ?_; with_reducible assumption
  clear_value t_7
  split
  · refine State.Touches.step (State.ringFill_to _ _) ?_; refine State.Touches.step (State.sramWrite_to _ _ _ _) ?_; exact ht_7
  · exact ht_7

theorem State.sguSynth_to (s : State) (c : Nat) (r tab : Rec) : s.Touches [.regs, .rind, .host, .freeCtr] (State.sguSynth s c r tab) := by
  unfold State.sguSynth
  extract_lets +onlyGivenNames h_0
  extract_lets +onlyGivenNames k_1
  extract_lets +onlyGivenNames us_2
  extract_lets +onlyGivenNames b_3
  extract_lets +onlyGivenNames t_4
  have ht_4 : State.Touches s [.regs, .rind, .host, .freeCtr] t_4 := by
    unfold t_4
    refine State.Touches.step (State.sguDone_to _ _ _ _ _) ?_; refine State.Touches.step (State.sguTake_to _ _) ?_; exact State.Touches.refl _ _
  clear_value t_4
  extract_lets +onlyGivenNames v_5
  have hv_5 : State.Touches s [.regs, .rind, .host, .freeCtr] v_5.2 := by
    unfold v_5
    refine State.Touches.step (State.fillFree_to _ _) ?_; exact ht_4
  clear_value v_5
  extract_lets +onlyGivenNames head_6
  refine State.Touches.step (State.putOut_to _ _ _ _) ?_; exact hv_5

theorem State.sguServed_to (s : State) (c : Nat) : s.Touches [.host] (State.sguServed s c) := by
  unfold State.sguServed
  refine State.Touches.upd s ?_
  exact State.Touches.refl _ _

theorem execSguAnalysisFrame_to (chan : Nat) (s : State) : Within s [.regs, .mem, .far, .seq, .tiers, .links, .kpu, .bud, .host, .sent] (execSguAnalysisFrame chan s) := by
  unfold execSguAnalysisFrame
  extract_lets +onlyGivenNames r_0
  refine Within.occurs ?_ ?_
  · exact State.Touches.refl _ _
  · apply State.streamNotify_to (by decide)
    · exact State.Touches.refl _ _
    · refine State.Touches.step (State.sguServed_to _ _) ?_
      split
      · refine State.Touches.step (State.sguDrop_to _ _ _) ?_; exact State.Touches.refl _ _
      · refine State.Touches.step (State.sguAnalyse_to _ _ _ _) ?_; exact State.Touches.refl _ _

theorem execSguSynthesisFrame_to (chan : Nat) (s : State) : Within s [.regs, .rind, .host, .freeCtr, .sent] (execSguSynthesisFrame chan s) := by
  unfold execSguSynthesisFrame
  extract_lets +onlyGivenNames r_0
  refine Within.occurs ?_ ?_
  · exact State.Touches.refl _ _
  · apply State.streamNotify_to (by decide)
    · exact State.Touches.refl _ _
    · refine State.Touches.step (State.sguServed_to _ _) ?_
      split
      · refine State.Touches.step (State.sguDrop_to _ _ _) ?_; exact State.Touches.refl _ _
      · refine State.Touches.step (State.sguSynth_to _ _ _ _) ?_; exact State.Touches.refl _ _

theorem State.sguClear_to (s : State) : s.Touches [.regs] (State.sguClear s) := by
  unfold State.sguClear
  refine State.Touches.foldl ?_ ?_
  · exact State.Touches.refl _ _
  · intro v0 v1 v2
    refine State.Touches.step (State.fs_to _ _ _ _) ?_; refine State.Touches.step (State.fs_to _ _ _ _) ?_
    refine State.Touches.step (State.fs_to _ _ _ _) ?_; with_reducible assumption

theorem execSguClearCounts_to (port : Nat) (s : State) : Within s [.regs] (execSguClearCounts port s) := by
  unfold execSguClearCounts
  refine Within.occurs ?_ ?_
  · exact State.Touches.refl _ _
  · refine State.Touches.step (State.sguClear_to _) ?_; exact State.Touches.refl _ _

theorem State.regMerge_to (s : State) (key m d : Nat) : s.Touches [.regs] (State.regMerge s key m d) := by
  unfold State.regMerge
  split
  · extract_lets +onlyGivenNames old_0
    extract_lets +onlyGivenNames new_1
    split
    · exact State.Touches.refl _ _
    · refine State.Touches.step (State.wr_to _ _ _) ?_; exact State.Touches.refl _ _
  · exact State.Touches.refl _ _

theorem stateAfter_to {z : State} {G : List Part} {a : Answer} {s : State} (hG : List.all ([] : List Part) G.contains = true) (hs : z.Touches G s) (ha : Within z G a) : z.Touches G (stateAfter a s) := by
  unfold stateAfter
  split
  · exact ha _ rfl
  · exact hs

theorem State.onBit_to {z : State} {G : List Part} {s : State} {m d bitNo : Nat} {f : State → Answer} (hG : List.all ([] : List Part) G.contains = true) (hs : z.Touches G s) (hf : ∀ y0, z.Touches G y0 → Within z G (f y0)) : z.Touches G (State.onBit s m d bitNo f) := by
  unfold State.onBit
  split
  · apply stateAfter_to (Part.all_trans hG)
    · exact hs
    · apply hf; exact hs
  · exact hs

theorem State.pushOp_to (s : State) (port v : Nat) : s.Touches [.regs, .mem, .far, .seq, .waits, .imem, .tiers, .stamps, .links, .sp, .fj, .cle, .img, .bud, .host, .pause, .log, .owner, .mgt, .randCtr, .sent] (State.pushOp s port v) := by
  unfold State.pushOp
  extract_lets +onlyGivenNames op_0
  extract_lets +onlyGivenNames tag_1
  extract_lets +onlyGivenNames f_2
  apply stateAfter_to (by decide)
  · exact State.Touches.refl _ _
  · unfold f_2
    clear_value tag_1
    clear_value op_0
    split
    · refine Within.step (execCmdNop_to _ _ _) ?_
      exact State.Touches.refl _ _
    · refine Within.step (execStart_to _ _ _) ?_
      exact State.Touches.refl _ _
    · refine Within.step (execStop_to _ _ _) ?_
      exact State.Touches.refl _ _
    · refine Within.step (execTeardown_to _ _ _) ?_
      exact State.Touches.refl _ _
    · refine Within.step (execApply_to _ _ _) ?_
      exact State.Touches.refl _ _
    · refine Within.step (execSnapshotNow_to _ _ _) ?_
      exact State.Touches.refl _ _
    · refine Within.step (execDieReset_to _ _ _) ?_
      exact State.Touches.refl _ _
    · refine Within.step (execModuleReset_to _ _ _) ?_
      exact State.Touches.refl _ _
    · refine Within.step (execTestEnter_to _ _ _) ?_
      exact State.Touches.refl _ _
    · refine Within.step (execDumpOpen_to _ _ _) ?_
      exact State.Touches.refl _ _
    · refine Within.step (execTokenNonce_to _ _ _) ?_
      exact State.Touches.refl _ _
    · refine Within.step (execTokenClaim_to _ _ _) ?_
      exact State.Touches.refl _ _
    · refine Within.step (execCmdUnknownOpcode_to _ _ _ _) ?_
      exact State.Touches.refl _ _

theorem State.hookGlobal_to (s : State) (port off m d : Nat) : s.Touches [.regs, .rind, .img, .bud] (State.hookGlobal s port off m d) := by
  unfold State.hookGlobal
  split
  · apply State.onBit_to (by decide)
    · exact State.Touches.refl _ _
    · intro v0 v1
      refine Within.step (execClkClearLow_to _ _ _) ?_
      with_reducible assumption
  · split
    · apply State.onBit_to (by decide)
      · exact State.Touches.refl _ _
      · intro v2 v3
        refine Within.step (execPinClearCounts_to _ _) ?_
        with_reducible assumption
    · split
      · extract_lets +onlyGivenNames t_4
        have ht_4 : State.Touches s [.regs, .rind, .img, .bud] t_4 := by
          unfold t_4
          apply State.onBit_to (by decide)
          · exact State.Touches.refl _ _
          · intro v5 v6
            refine Within.step (execMboxBegin_to _ _) ?_
            with_reducible assumption
        clear_value t_4
        extract_lets +onlyGivenNames u_7
        have hu_7 : State.Touches s [.regs, .rind, .img, .bud] u_7 := by
          unfold u_7
          split
          · exact ht_4
          · apply State.onBit_to (by decide)
            · exact ht_4
            · intro v8 v9
              refine Within.step (execMboxCommit_to _ _) ?_
              with_reducible assumption
        clear_value u_7
        apply State.onBit_to (by decide)
        · apply State.onBit_to (by decide)
          · exact hu_7
          · intro v10 v11
            refine Within.step (execMboxAbort_to _ _) ?_
            with_reducible assumption
        · intro v12 v13
          refine Within.step (execRindClearCounts_to _ _) ?_
          with_reducible assumption
      · split
        · extract_lets +onlyGivenNames t_14
          have ht_14 : State.Touches s [.regs, .rind, .img, .bud] t_14 := by
            unfold t_14
            apply State.onBit_to (by decide)
            · exact State.Touches.refl _ _
            · intro v15 v16
              refine Within.step (execImgBegin_to _ _ _) ?_
              with_reducible assumption
          clear_value t_14
          extract_lets +onlyGivenNames u_17
          have hu_17 : State.Touches s [.regs, .rind, .img, .bud] u_17 := by
            unfold u_17
            split
            · exact ht_14
            · apply State.onBit_to (by decide)
              · exact ht_14
              · intro v18 v19
                refine Within.step (execImgCommit_to _ _) ?_
                with_reducible assumption
          clear_value u_17
          apply State.onBit_to (by decide)
          · exact hu_17
          · intro v20 v21
            refine Within.step (execImgAbort_to _ _) ?_
            with_reducible assumption
        · split
          · apply State.onBit_to (by decide)
            · exact State.Touches.refl _ _
            · intro v22 v23
              refine Within.step (execBudClearCounts_to _ _) ?_
              with_reducible assumption
          · exact State.Touches.refl _ _

theorem State.unmask_to (s : State) (port v : Nat) : s.Touches [.regs, .sent] (State.unmask s port v) := by
  unfold State.unmask
  extract_lets +onlyGivenNames k_0
  split
  · refine State.Touches.step (State.msixNow_to _ _ _) ?_; refine State.Touches.step (State.wr_to _ _ _) ?_; exact State.Touches.refl _ _
  · exact State.Touches.refl _ _

theorem State.hookHost_to (s : State) (port off m d : Nat) : s.Touches [.regs, .mem, .far, .seq, .waits, .imem, .tiers, .stamps, .links, .sp, .fj, .cle, .img, .bud, .host, .pause, .log, .owner, .mgt, .randCtr, .sent] (State.hookHost s port off m d) := by
  unfold State.hookHost
  extract_lets +onlyGivenNames o_0
  split
  · split
    · refine State.Touches.step (State.pushOp_to _ _ _) ?_; exact State.Touches.refl _ _
    · exact State.Touches.refl _ _
  · split
    · refine State.Touches.step (State.unmask_to _ _ _) ?_; exact State.Touches.refl _ _
    · split
      · apply State.onBit_to (by decide)
        · exact State.Touches.refl _ _
        · intro v1 v2
          refine Within.step (execStreamClearDropped_to _ _ _) ?_
          with_reducible assumption
      · exact State.Touches.refl _ _

theorem State.hookMgmt_to (s : State) (port off m d : Nat) : s.Touches [.regs, .trips, .pins, .mgt, .sent] (State.hookMgmt s port off m d) := by
  unfold State.hookMgmt
  split
  · apply State.onBit_to (by decide)
    · apply State.onBit_to (by decide)
      · exact State.Touches.refl _ _
      · intro v0 v1
        refine Within.step (execAlertRearm_to _ _) ?_
        with_reducible assumption
    · intro v2 v3
      refine Within.step (execMgtClearCounts_to _ _) ?_
      with_reducible assumption
  · split
    · apply stateAfter_to (by decide)
      · exact State.Touches.refl _ _
      · refine Within.step (execTripAck_to _ _ _) ?_
        exact State.Touches.refl _ _
    · split
      · split
        · exact State.Touches.refl _ _
        · refine State.Touches.step (State.raise_to _ _ _) ?_; exact State.Touches.refl _ _
      · exact State.Touches.refl _ _

theorem State.hookFabric_to (s : State) (port off m d : Nat) : s.Touches [.regs, .sp, .fj, .log, .sent] (State.hookFabric s port off m d) := by
  unfold State.hookFabric
  split
  · extract_lets +onlyGivenNames p_0
    split
    · apply State.onBit_to (by decide)
      · apply State.onBit_to (by decide)
        · apply State.onBit_to (by decide)
          · apply State.onBit_to (by decide)
            · exact State.Touches.refl _ _
            · intro v1 v2
              refine Within.step (execSpRestore_to _ _ _) ?_
              with_reducible assumption
          · intro v3 v4
            refine Within.step (execSpReenable_to _ _ _) ?_
            with_reducible assumption
        · intro v5 v6
          refine Within.step (execSpClearCounts_to _ _ _) ?_
          with_reducible assumption
      · intro v7 v8
        refine Within.step (execSpTestFail_to _ _ _ _) ?_
        with_reducible assumption
    · exact State.Touches.refl _ _
  · split
    · apply State.onBit_to (by decide)
      · exact State.Touches.refl _ _
      · intro v9 v10
        refine Within.step (execFjClearCounts_to _ _) ?_
        with_reducible assumption
    · split
      · apply State.onBit_to (by decide)
        · apply State.onBit_to (by decide)
          · exact State.Touches.refl _ _
          · intro v11 v12
            refine Within.step (execCleClearCounts_to _ _) ?_
            with_reducible assumption
        · intro v13 v14
          refine Within.step (execCleInjectResidue_to _ _) ?_
          with_reducible assumption
      · split
        · split
          · refine State.Touches.step (State.fs_to _ _ _ _) ?_; exact State.Touches.refl _ _
          · exact State.Touches.refl _ _
        · split
          · apply State.onBit_to (by decide)
            · apply State.onBit_to (by decide)
              · exact State.Touches.refl _ _
              · intro v15 v16
                refine Within.step (execKpuClearCounts_to _ _) ?_
                with_reducible assumption
            · intro v17 v18
              refine Within.step (execKpuFullNext_to _ _) ?_
              with_reducible assumption
          · split
            · apply State.onBit_to (by decide)
              · exact State.Touches.refl _ _
              · intro v19 v20
                refine Within.step (execEruClearCounts_to _ _) ?_
                with_reducible assumption
            · exact State.Touches.refl _ _

theorem State.holdParks_to (s : State) (core : Nat) : s.Touches [.regs] (State.holdParks s core) := by
  unfold State.holdParks
  refine State.Touches.foldl ?_ ?_
  · exact State.Touches.refl _ _
  · intro v0 v1 v2
    extract_lets +onlyGivenNames x_3
    split
    · refine State.Touches.step (State.setCtx_to _ _ _) ?_; with_reducible assumption
    · with_reducible assumption

theorem State.hookDie_to (s : State) (port off m d : Nat) : s.Touches [.regs, .seq, .links, .sp, .fj, .cle, .img, .bud, .host, .pause, .log, .mgt, .sent] (State.hookDie s port off m d) := by
  unfold State.hookDie
  extract_lets +onlyGivenNames die_0
  extract_lets +onlyGivenNames o_1
  split
  · extract_lets +onlyGivenNames core_2
    extract_lets +onlyGivenNames x_3
    split
    · refine State.Touches.step (State.holdParks_to _ _) ?_; apply State.onBit_to (by decide)
      · apply State.onBit_to (by decide)
        · exact State.Touches.refl _ _
        · intro v4 v5
          refine Within.step (execSeqTestStep_to _ _ _) ?_
          with_reducible assumption
      · intro v6 v7
        refine Within.step (execSeqClearStall_to _ _ _) ?_
        with_reducible assumption
    · split
      · apply State.onBit_to (by decide)
        · apply State.onBit_to (by decide)
          · exact State.Touches.refl _ _
          · intro v8 v9
            refine Within.step (execArrCanaryNow_to _ _ _) ?_
            with_reducible assumption
        · intro v10 v11
          refine Within.step (execArrClearCounts_to _ _ _) ?_
          with_reducible assumption
      · split
        · split
          · refine State.Touches.step (State.fs_to _ _ _ _) ?_; refine State.Touches.step (State.fs_to _ _ _ _) ?_
            refine State.Touches.step (State.fs_to _ _ _ _) ?_; refine State.Touches.step (State.fs_to _ _ _ _) ?_; exact State.Touches.refl _ _
          · exact State.Touches.refl _ _
        · split
          · apply State.onBit_to (by decide)
            · exact State.Touches.refl _ _
            · intro v12 v13
              refine Within.step (execArrInjectArm_to _ _ _ _ _) ?_
              with_reducible assumption
          · exact State.Touches.refl _ _
  · split
    · apply State.onBit_to (by decide)
      · exact State.Touches.refl _ _
      · intro v14 v15
        refine Within.step (execMemClearCounts_to _ _ _) ?_
        with_reducible assumption
    · split
      · apply State.onBit_to (by decide)
        · apply State.onBit_to (by decide)
          · apply State.onBit_to (by decide)
            · exact State.Touches.refl _ _
            · intro v16 v17
              refine Within.step (execDlRestore_to _ _ _) ?_
              with_reducible assumption
          · intro v18 v19
            refine Within.step (execDlClearCounts_to _ _ _) ?_
            with_reducible assumption
        · intro v20 v21
          refine Within.step (execDlTestFail_to _ _ _ _ _) ?_
          with_reducible assumption
      · exact State.Touches.refl _ _

theorem State.hookHigh_to (s : State) (port off m d : Nat) : s.Touches [.regs, .tiers] (State.hookHigh s port off m d) := by
  unfold State.hookHigh
  split
  · apply State.onBit_to (by decide)
    · exact State.Touches.refl _ _
    · intro v0 v1
      refine Within.step (execFmcClearCounts_to _ _) ?_
      with_reducible assumption
  · split
    · apply State.onBit_to (by decide)
      · exact State.Touches.refl _ _
      · intro v2 v3
        refine Within.step (execClearRetire_to _ _ _) ?_
        with_reducible assumption
    · split
      · apply State.onBit_to (by decide)
        · exact State.Touches.refl _ _
        · intro v4 v5
          refine Within.step (execMarginStart_to _ _) ?_
          with_reducible assumption
      · split
        · apply State.onBit_to (by decide)
          · exact State.Touches.refl _ _
          · intro v6 v7
            refine Within.step (execSguClearCounts_to _ _) ?_
            with_reducible assumption
        · split
          · split
            · refine State.Touches.step (State.fs_to _ _ _ _) ?_; exact State.Touches.refl _ _
            · exact State.Touches.refl _ _
          · exact State.Touches.refl _ _

theorem State.hooks_to (s : State) (port off m d : Nat) : s.Touches [.regs, .mem, .far, .seq, .waits, .imem, .tiers, .stamps, .links, .sp, .fj, .rind, .cle, .img, .bud, .host, .pause, .log, .owner, .trips, .pins, .mgt, .randCtr, .sent] (State.hooks s port off m d) := by
  unfold State.hooks
  split
  · refine State.Touches.step (State.hookGlobal_to _ _ _ _ _) ?_; exact State.Touches.refl _ _
  · split
    · refine State.Touches.step (State.hookHost_to _ _ _ _ _) ?_; exact State.Touches.refl _ _
    · split
      · refine State.Touches.step (State.hookGlobal_to _ _ _ _ _) ?_; exact State.Touches.refl _ _
      · split
        · refine State.Touches.step (State.hookMgmt_to _ _ _ _ _) ?_; exact State.Touches.refl _ _
        · split
          · refine State.Touches.step (State.hookFabric_to _ _ _ _ _) ?_; exact State.Touches.refl _ _
          · split
            · refine State.Touches.step (State.hookDie_to _ _ _ _ _) ?_; exact State.Touches.refl _ _
            · refine State.Touches.step (State.hookHigh_to _ _ _ _ _) ?_; exact State.Touches.refl _ _

theorem State.regWrite_to (s : State) (port addr size data : Nat) : s.Touches [.regs, .mem, .far, .seq, .waits, .imem, .tiers, .stamps, .links, .sp, .fj, .rind, .cle, .kpu, .eru, .img, .bud, .host, .pause, .log, .owner, .trips, .pins, .mgt, .randCtr, .sent] (State.regWrite s port addr size data) := by
  unfold State.regWrite
  extract_lets +onlyGivenNames off_0
  extract_lets +onlyGivenNames sh_1
  extract_lets +onlyGivenNames m_2
  extract_lets +onlyGivenNames d_3
  extract_lets +onlyGivenNames words_4
  split
  · refine State.Touches.step (State.raise_to _ _ _) ?_; exact State.Touches.refl _ _
  · split
    · split
      · refine State.Touches.step (State.raise_to _ _ _) ?_; exact State.Touches.refl _ _
      · exact State.Touches.refl _ _
    · split
      · apply stateAfter_to (by decide)
        · exact State.Touches.refl _ _
        · refine Within.step (execImgDataWrite_to _ _ _ _) ?_
          exact State.Touches.refl _ _
      · split
        · apply stateAfter_to (by decide)
          · exact State.Touches.refl _ _
          · refine Within.step (execMboxInWrite_to _ _ _ _) ?_
            exact State.Touches.refl _ _
        · split
          · split
            · apply stateAfter_to (by decide)
              · exact State.Touches.refl _ _
              · refine Within.step (execMapDataWrite_to _ _ _) ?_
                exact State.Touches.refl _ _
            · exact State.Touches.refl _ _
          · split
            · split
              · apply stateAfter_to (by decide)
                · exact State.Touches.refl _ _
                · refine Within.step (execPwrCapWrite_to _ _ _) ?_
                  exact State.Touches.refl _ _
              · exact State.Touches.refl _ _
            · extract_lets +onlyGivenNames k_5
              extract_lets +onlyGivenNames t_6
              have ht_6 : State.Touches s [.regs, .mem, .far, .seq, .waits, .imem, .tiers, .stamps, .links, .sp, .fj, .rind, .cle, .kpu, .eru, .img, .bud, .host, .pause, .log, .owner, .trips, .pins, .mgt, .randCtr, .sent] t_6 := by
                unfold t_6
                split
                · refine State.Touches.step (State.copyRebase_to _) ?_; exact State.Touches.refl _ _
                · exact State.Touches.refl _ _
              clear_value t_6
              refine State.Touches.step (State.hooks_to _ _ _ _ _) ?_; refine State.Touches.step (State.regMerge_to _ _ _ _) ?_; exact ht_6

theorem execRegisterWrite_to (port addr size data : Nat) (s : State) : Within s [.regs, .mem, .far, .seq, .waits, .imem, .tiers, .stamps, .links, .sp, .fj, .rind, .cle, .kpu, .eru, .img, .bud, .host, .pause, .log, .owner, .trips, .pins, .mgt, .randCtr, .sent] (execRegisterWrite port addr size data s) := by
  unfold execRegisterWrite
  refine Within.occurs ?_ ?_
  · exact State.Touches.refl _ _
  · refine State.Touches.step (State.regWrite_to _ _ _ _ _) ?_; exact State.Touches.refl _ _

theorem execAbsentUnitAccess_to (port addr : Nat) (write : Bool) (s : State) : Within s [.regs, .sent] (execAbsentUnitAccess port addr write s) := by
  unfold execAbsentUnitAccess
  extract_lets +onlyGivenNames t_0
  have ht_0 : State.Touches s [.regs, .sent] t_0 := by
    unfold t_0
    refine State.Touches.step (State.raise_to _ _ _) ?_; exact State.Touches.refl _ _
  clear_value t_0
  refine Within.occurs ?_ ?_
  · exact State.Touches.refl _ _
  · split
    · exact ht_0
    · refine State.Touches.step (State.emit_to _ _) ?_; exact ht_0

theorem execBar0BadAccess_to (port addr size : Nat) (_write : Bool) (s : State) : Within s [.host, .sent] (execBar0BadAccess port addr size _write s) := by
  unfold execBar0BadAccess
  refine Within.occurs ?_ ?_
  · exact State.Touches.refl _ _
  · refine State.Touches.step (State.refuseTlp_to _ _) ?_; exact State.Touches.refl _ _

theorem State.haunoFault_to (s : State) (h : Nat) : s.Touches [.sent] (State.haunoFault s h) := by
  unfold State.haunoFault
  refine State.Touches.step (State.emit_to _ _) ?_; exact State.Touches.refl _ _

theorem State.haunoRead_to (s : State) (h n : Nat) (b : Bytes) (bad : Bool) : s.Touches [.freeCtr, .sent] (State.haunoRead s h n b bad) := by
  unfold State.haunoRead
  split
  · extract_lets +onlyGivenNames f_0
    have hf_0 : State.Touches s [.freeCtr, .sent] f_0.2 := by
      unfold f_0
      refine State.Touches.step (State.free_to _) ?_; exact State.Touches.refl _ _
    clear_value f_0
    refine State.Touches.step (State.emit_to _ _) ?_; exact hf_0
  · refine State.Touches.step (State.emit_to _ _) ?_; exact State.Touches.refl _ _

theorem State.haunoStream_to (s : State) (p : Nat) (b : Bytes) : s.Touches [.regs, .host] (State.haunoStream s p b) := by
  unfold State.haunoStream
  split
  · refine State.Touches.step (State.streamDrop_to _ _) ?_; exact State.Touches.refl _ _
  · refine State.Touches.step (State.setStaging_to _ _ _) ?_; exact State.Touches.refl _ _

theorem State.haunoMem_to (s : State) (h : Nat) (r : Rec) (t : Target) (n : Nat) (write : Bool) (data : Nat) : s.Touches [.regs, .mem, .far, .tiers, .links, .fj, .kpu, .eru, .bud, .host, .log, .freeCtr, .sent] (State.haunoMem s h r t n write data) := by
  unfold State.haunoMem
  split
  · refine State.Touches.step (State.haunoFault_to _ _) ?_; exact State.Touches.refl _ _
  · split
    · refine State.Touches.step (State.haunoStream_to _ _ _) ?_; exact State.Touches.refl _ _
    · extract_lets +onlyGivenNames cs_0
      extract_lets +onlyGivenNames u_1
      have hu_1 : State.Touches s [.regs, .mem, .far, .tiers, .links, .fj, .kpu, .eru, .bud, .host, .log, .freeCtr, .sent] u_1 := by
        unfold u_1
        refine State.Touches.foldl ?_ ?_
        · refine State.Touches.step (State.chargeAll_to _ _ _) ?_; refine State.Touches.step (State.chargeTarget_to _ _ _ _) ?_
          exact State.Touches.refl _ _
        · intro v2 v3 v4
          split
          · refine State.Touches.step (State.fall_to _ _ _) ?_; with_reducible assumption
          · refine State.Touches.step (State.rise_to _ _ _) ?_; with_reducible assumption
      clear_value u_1
      split
      · refine State.Touches.step (State.targetWrite_to _ _ _ _ _) ?_; exact hu_1
      · extract_lets +onlyGivenNames x_5
        have hx_5 : State.Touches s [.regs, .mem, .far, .tiers, .links, .fj, .kpu, .eru, .bud, .host, .log, .freeCtr, .sent] x_5.2.1 := by
          unfold x_5
          refine State.Touches.step (State.targetRead_to _ _ _) ?_; exact hu_1
        clear_value x_5
        refine State.Touches.step (State.haunoRead_to _ _ _ _ _) ?_; exact hx_5

theorem State.haunoHub_to (s : State) (h addr n : Nat) (write : Bool) (data : Nat) : s.Touches [.regs, .mem, .far, .tiers, .log, .freeCtr, .sent] (State.haunoHub s h addr n write data) := by
  unfold State.haunoHub
  split
  · refine State.Touches.step (State.haunoFault_to _ _) ?_; exact State.Touches.refl _ _
  · split
    · refine State.Touches.step (State.hubWrite_to _ _ _) ?_; exact State.Touches.refl _ _
    · extract_lets +onlyGivenNames x_0
      have hx_0 : State.Touches s [.regs, .mem, .far, .tiers, .log, .freeCtr, .sent] x_0.2.1 := by
        unfold x_0
        refine State.Touches.step (State.hubRead_to _ _ _) ?_; exact State.Touches.refl _ _
      clear_value x_0
      refine State.Touches.step (State.haunoRead_to _ _ _ _ _) ?_; exact hx_0

theorem State.haunoCounters_to (s : State) (h level u addr n : Nat) (write : Bool) : s.Touches [.regs, .sent] (State.haunoCounters s h level u addr n write) := by
  unfold State.haunoCounters
  split
  · refine State.Touches.step (State.haunoFault_to _ _) ?_; exact State.Touches.refl _ _
  · split
    · refine State.Touches.step (State.emit_to _ _) ?_; refine State.Touches.step (State.count_to _ _) ?_; exact State.Touches.refl _ _
    · refine State.Touches.step (State.emit_to _ _) ?_; exact State.Touches.refl _ _

theorem State.hlcSig_to (s : State) (h data : Nat) : s.Touches [.regs, .host, .sent] (State.hlcSig s h data) := by
  unfold State.hlcSig
  extract_lets +onlyGivenNames core_0
  split
  · split
    · apply State.streamNotify_to (by decide)
      · exact State.Touches.refl _ _
      · refine State.Touches.step (State.cntBump_to _ _ _ _) ?_; exact State.Touches.refl _ _
    · refine State.Touches.step (State.haunoFault_to _ _) ?_; exact State.Touches.refl _ _
  · refine State.Touches.step (State.haunoFault_to _ _) ?_; exact State.Touches.refl _ _

theorem execHlcSig_to (core data : Nat) (s : State) : Within s [.regs, .host, .sent] (execHlcSig core data s) := by
  unfold execHlcSig
  refine Within.occurs ?_ ?_
  · exact State.Touches.refl _ _
  · refine State.Touches.step (State.hlcSig_to _ _ _) ?_; exact State.Touches.refl _ _

theorem State.hlcWrite_to (s : State) (h addr n data : Nat) : s.Touches [.regs, .host, .time, .sent] (State.hlcWrite s h addr n data) := by
  unfold State.hlcWrite
  extract_lets +onlyGivenNames off_0
  extract_lets +onlyGivenNames m_1
  extract_lets +onlyGivenNames d_2
  split
  · refine State.Touches.step (State.hlcSig_to _ _ _) ?_; exact State.Touches.refl _ _
  · extract_lets +onlyGivenNames t_3
    have ht_3 : State.Touches s [.regs, .host, .time, .sent] t_3 := by
      unfold t_3
      apply State.haunoRaised_to (by decide)
      · refine State.Touches.step (State.regMerge_to _ _ _ _) ?_; exact State.Touches.refl _ _
      · exact State.Touches.refl _ _
    clear_value t_3
    split
    · refine State.Touches.upd t_3 ?_
      exact ht_3
    · split
      · refine State.Touches.step (State.haunoFault_to _ _) ?_; exact ht_3
      · exact ht_3

theorem State.haunoLocal_to (s : State) (h addr n : Nat) (write : Bool) (data : Nat) : s.Touches [.regs, .host, .time, .sent] (State.haunoLocal s h addr n write data) := by
  unfold State.haunoLocal
  split
  · refine State.Touches.step (State.haunoFault_to _ _) ?_; exact State.Touches.refl _ _
  · split
    · refine State.Touches.step (State.hlcWrite_to _ _ _ _ _) ?_; exact State.Touches.refl _ _
    · refine State.Touches.step (State.emit_to _ _) ?_; exact State.Touches.refl _ _

theorem State.haunoAccess_to (s : State) (h : Nat) (r : Rec) (level space unit addr n : Nat) (write : Bool) (data : Nat) : s.Touches [.regs, .mem, .far, .tiers, .links, .fj, .kpu, .eru, .bud, .host, .log, .time, .freeCtr, .sent] (State.haunoAccess s h r level space unit addr n write data) := by
  unfold State.haunoAccess
  split
  · refine State.Touches.step (State.haunoMem_to _ _ _ _ _ _ _) ?_; exact State.Touches.refl _ _
  · split
    · refine State.Touches.step (State.haunoHub_to _ _ _ _ _ _) ?_; exact State.Touches.refl _ _
    · split
      · refine State.Touches.step (State.haunoCounters_to _ _ _ _ _ _ _) ?_; exact State.Touches.refl _ _
      · split
        · refine State.Touches.step (State.haunoLocal_to _ _ _ _ _ _) ?_; exact State.Touches.refl _ _
        · refine State.Touches.step (State.haunoFault_to _ _) ?_; exact State.Touches.refl _ _

theorem execHaunoAccess_to (core level space unit addr size : Nat) (write : Bool) (data : Nat) (s : State) : Within s [.regs, .mem, .far, .tiers, .links, .fj, .kpu, .eru, .bud, .host, .log, .time, .freeCtr, .sent] (execHaunoAccess core level space unit addr size write data s) := by
  unfold execHaunoAccess
  split
  · extract_lets +onlyGivenNames t_0
    extract_lets +onlyGivenNames waits_1
    refine Within.occurs ?_ ?_
    · exact State.Touches.refl _ _
    · apply State.streamNotify_to (by decide)
      · exact State.Touches.refl _ _
      · refine State.Touches.step (State.haunoAccess_to _ _ _ _ _ _ _ _ _ _) ?_; exact State.Touches.refl _ _
  · refine Within.next ?_
    exact State.Touches.refl _ _

theorem execHaunoTimer_to (core : Nat) (s : State) : Within s [.regs, .waits, .time, .now, .rack, .sent] (execHaunoTimer core s) := by
  unfold execHaunoTimer
  extract_lets +onlyGivenNames v_0
  refine Within.occurs ?_ ?_
  · exact State.Touches.refl _ _
  · extract_lets +onlyGivenNames t_1
    have ht_1 : State.Touches s [.regs, .waits, .time, .now, .rack, .sent] t_1 := by
      unfold t_1
      refine State.Touches.step (State.runToRack_to _ _) ?_; exact State.Touches.refl _ _
    clear_value t_1
    refine State.Touches.step (State.haunoEvent_to _ _ _ _) ?_
    refine State.Touches.upd t_1 ?_
    exact ht_1

theorem State.payRequest_to (s : State) (key : Nat) (q : QIns) : WithinO s [.regs, .seq, .links, .bud] (State.payRequest s key q) := by
  unfold State.payRequest
  split
  · exact WithinO.none
  · extract_lets +onlyGivenNames cs_0
    extract_lets +onlyGivenNames go_1
    refine WithinO.map ?_ ?_
    · unfold go_1
      split
      · refine WithinO.some ?_
        refine State.Touches.step (State.takeAll_to _ _ _) ?_; exact State.Touches.refl _ _
      · split
        · refine WithinO.some ?_
          refine State.Touches.step (State.chargeAll_to _ _ _) ?_; exact State.Touches.refl _ _
        · exact WithinO.none
    · intro v2 v3
      extract_lets +onlyGivenNames u_4
      have hu_4 : State.Touches s [.regs, .seq, .links, .bud] u_4 := by
        unfold u_4
        split
        · refine State.Touches.step (State.switched_to _ _ _ _) ?_; with_reducible assumption
        · with_reducible assumption
      clear_value u_4
      refine State.Touches.upd u_4 ?_
      exact hu_4

theorem State.payCycles_to (s : State) (key : Nat) (q : QIns) : s.Touches [.seq, .bud] (State.payCycles s key q) := by
  unfold State.payCycles
  extract_lets +onlyGivenNames c_0
  extract_lets +onlyGivenNames rest_1
  extract_lets +onlyGivenNames own_2
  extract_lets +onlyGivenNames drawn_3
  split
  · exact State.Touches.refl _ _
  · extract_lets +onlyGivenNames k_4
    refine State.Touches.upd s ?_
    exact State.Touches.refl _ _

theorem State.payStep_to (s : State) (key : Nat) : s.Touches [.regs, .seq, .links, .bud] (State.payStep s key) := by
  unfold State.payStep
  split
  · exact State.Touches.refl _ _
  · split
    · exact State.Touches.refl _ _
    · split
      · refine State.Touches.step (State.payCycles_to _ _ _) ?_; exact State.Touches.refl _ _
      · refine WithinO.getD ?_ ?_
        · refine WithinO.step (State.payRequest_to _ _ _) ?_
          exact State.Touches.refl _ _
        · exact State.Touches.refl _ _

theorem State.payLoop_to (y0 : Nat) (y1 : State) (y2 : Nat) : y1.Touches [.regs, .seq, .links, .bud] (State.payLoop y0 y1 y2) := by
  induction y0 generalizing y1 with
  | zero => exact .refl _ _
  | succ n ih =>
    have h := (State.payStep_to y1 y2).mono (qs := [.regs, .seq, .links, .bud]) (by decide)
    unfold State.payLoop
    extract_lets t
    split
    · exact .refl _ _
    · exact h.trans (ih _)

theorem State.payOne_to (s : State) (key : Nat) : s.Touches [.regs, .seq, .links, .bud] (State.payOne s key) := by
  unfold State.payOne
  refine State.Touches.step (State.payLoop_to _ _ _) ?_; exact State.Touches.refl _ _

theorem State.payRounds_to (y0 : Nat) (y1 : State) (y2 : Nat) : y1.Touches [.regs, .seq, .links, .bud] (State.payRounds y0 y1 y2) := by
  induction y0 generalizing y1 with
  | zero => exact .refl _ _
  | succ n ih =>
    unfold State.payRounds
    extract_lets t
    have ht : y1.Touches [.regs, .seq, .links, .bud] t := State.Touches.foldl (.refl _ _) fun u e hu => State.Touches.step (State.payStep_to u e.1) hu
    split
    · exact .refl _ _
    · exact ht.trans (ih _)

theorem State.payAll_to (s : State) : s.Touches [.regs, .seq, .links, .bud] (State.payAll s) := by
  unfold State.payAll
  refine State.Touches.foldl ?_ ?_
  · exact State.Touches.refl _ _
  · intro v0 v1 v2
    refine State.Touches.step (State.payRounds_to _ _ _) ?_; with_reducible assumption

theorem State.collRefill_to (s : State) : s.Touches [.regs, .mem, .far, .seq, .tiers, .links, .fj, .cle, .kpu, .bud, .log, .sent] (State.collRefill s) := by
  unfold State.collRefill
  refine State.Touches.foldl ?_ ?_
  · exact State.Touches.refl _ _
  · intro v0 v1 v2
    split
    · with_reducible assumption
    · refine State.Touches.step (State.collAdvance_to _ _) ?_; with_reducible assumption

theorem State.periodBoundary_to (s : State) : s.Touches [.regs, .mem, .far, .seq, .waits, .tiers, .links, .fj, .cle, .kpu, .bud, .log, .time, .now, .rack, .sent] (State.periodBoundary s) := by
  unfold State.periodBoundary
  extract_lets +onlyGivenNames t_0
  have ht_0 : State.Touches s [.regs, .mem, .far, .seq, .waits, .tiers, .links, .fj, .cle, .kpu, .bud, .log, .time, .now, .rack, .sent] t_0 := by
    unfold t_0
    refine State.Touches.step (State.runToRack_to _ _) ?_; exact State.Touches.refl _ _
  clear_value t_0
  extract_lets +onlyGivenNames u_1
  have hu_1 : State.Touches s [.regs, .mem, .far, .seq, .waits, .tiers, .links, .fj, .cle, .kpu, .bud, .log, .time, .now, .rack, .sent] u_1 := by
    unfold u_1
    refine State.Touches.step (State.refill_to _) ?_; exact ht_0
  clear_value u_1
  extract_lets +onlyGivenNames v_2
  have hv_2 : State.Touches s [.regs, .mem, .far, .seq, .waits, .tiers, .links, .fj, .cle, .kpu, .bud, .log, .time, .now, .rack, .sent] v_2 := by
    unfold v_2
    refine State.Touches.foldl ?_ ?_
    · exact hu_1
    · intro v3 v4 v5
      split
      · refine State.Touches.step (State.fs_to _ _ _ _) ?_; with_reducible assumption
      · with_reducible assumption
  clear_value v_2
  refine State.Touches.step (State.collRefill_to _) ?_; refine State.Touches.step (State.keepPump_to _) ?_
  refine State.Touches.step (State.payDebts_to _) ?_; refine State.Touches.step (State.payAll_to _) ?_
  refine State.Touches.foldl ?_ ?_
  · exact hv_2
  · intro v6 v7 v8
    refine State.Touches.step (State.fs_to _ _ _ _) ?_; with_reducible assumption

theorem execBudgetPeriodBoundary_to (s : State) : Within s [.regs, .mem, .far, .seq, .waits, .tiers, .links, .fj, .cle, .kpu, .bud, .log, .time, .now, .rack, .sent] (execBudgetPeriodBoundary s) := by
  unfold execBudgetPeriodBoundary
  refine Within.occurs ?_ ?_
  · exact State.Touches.refl _ _
  · refine State.Touches.step (State.periodBoundary_to _) ?_; exact State.Touches.refl _ _

theorem State.soutRun_to (s : State) (q : QIns) (env : UnitEnv) : s.Touches [.regs, .far, .tiers, .links, .rind, .bud, .host, .log, .sent] (State.soutRun s q env).1 := by
  unfold State.soutRun
  extract_lets +onlyGivenNames n_0
  extract_lets +onlyGivenNames m_1
  have hm_1 : State.Touches s [.regs, .far, .tiers, .links, .rind, .bud, .host, .log, .sent] m_1.2.1 := by
    unfold m_1
    refine State.Touches.step (State.descBytes_to _ _ _) ?_; refine State.Touches.step (State.upset_to _ _) ?_; exact State.Touches.refl _ _
  clear_value m_1
  split
  · with_reducible assumption
  · split
    · extract_lets +onlyGivenNames t_2
      have ht_2 : State.Touches s [.regs, .far, .tiers, .links, .rind, .bud, .host, .log, .sent] t_2 := by
        unfold t_2
        refine State.Touches.step (State.rise_to _ _ _) ?_; exact hm_1
      clear_value t_2
      split
      · dsimp only
        refine State.Touches.upd t_2 ?_
        exact ht_2
      · dsimp only
        refine State.Touches.step (State.putOut_to _ _ _ _) ?_; exact ht_2
    · with_reducible assumption

theorem State.jstPacket_to (s : State) (core iss : Nat) (p : Packet) : s.Touches [.regs, .fj] (State.jstPacket s core iss p) := by
  unfold State.jstPacket
  split
  · refine State.Touches.upd s ?_
    exact State.Touches.refl _ _
  · refine State.Touches.step (State.sendAcked_to _ _ _ _) ?_; exact State.Touches.refl _ _

theorem State.jstRun_to (s : State) (q : QIns) (b : Bytes) : s.Touches [.regs, .fj] (State.jstRun s q b) := by
  unfold State.jstRun
  refine State.Touches.foldl ?_ ?_
  · exact State.Touches.refl _ _
  · intro v0 v1 v2
    refine State.Touches.step (State.jstPacket_to _ _ _ _) ?_; with_reducible assumption

theorem State.sendTail_to (s : State) (q : QIns) : s.Touches [.regs, .fj] (State.sendTail s q) := by
  unfold State.sendTail
  split
  · split
    · exact State.Touches.refl _ _
    · refine State.Touches.step (State.sendAcked_to _ _ _ _) ?_
      refine State.Touches.upd s ?_
      exact State.Touches.refl _ _
  · exact State.Touches.refl _ _

theorem State.jldRun_to (s : State) (q : QIns) : s.Touches [.regs, .fj] (State.jldRun s q) := by
  unfold State.jldRun
  extract_lets +onlyGivenNames d_0
  refine State.Touches.foldl ?_ ?_
  · exact State.Touches.refl _ _
  · intro v1 v2 v3
    refine State.Touches.step (State.sendLoad_to _ _ _ _ _ _) ?_; with_reducible assumption

theorem State.jatRun_to (s : State) (q : QIns) (b : Bytes) : s.Touches [.regs, .fj] (State.jatRun s q b) := by
  unfold State.jatRun
  extract_lets +onlyGivenNames p_0
  split
  · refine State.Touches.step (State.sendLoad_to _ _ _ _ _ _) ?_; exact State.Touches.refl _ _
  · refine State.Touches.step (State.sendAcked_to _ _ _ _) ?_; exact State.Touches.refl _ _

theorem State.fabRun_to (s : State) (q : QIns) (env : UnitEnv) : s.Touches [.regs, .far, .tiers, .fj, .bud, .log, .sent] (State.fabRun s q env).1 := by
  unfold State.fabRun
  extract_lets +onlyGivenNames bad_0
  split
  · exact State.Touches.refl _ _
  · split
    · dsimp only
      refine State.Touches.step (State.jldRun_to _ _) ?_; exact State.Touches.refl _ _
    · extract_lets +onlyGivenNames m_1
      have hm_1 : State.Touches s [.regs, .far, .tiers, .fj, .bud, .log, .sent] m_1.2.1 := by
        unfold m_1
        refine State.Touches.step (State.descBytes_to _ _ _) ?_; refine State.Touches.step (State.upset_to _ _) ?_; exact State.Touches.refl _ _
      clear_value m_1
      split
      · with_reducible assumption
      · dsimp only
        split
        · refine State.Touches.step (State.jstRun_to _ _ _) ?_; exact hm_1
        · refine State.Touches.step (State.jatRun_to _ _ _) ?_; exact hm_1

theorem State.fenceRun_to (s : State) (q : QIns) : s.Touches [.fj] (State.fenceRun s q) := by
  unfold State.fenceRun
  refine State.Touches.upd s ?_
  exact State.Touches.refl _ _

theorem State.fenceEnd_to (s : State) (f : FenceSt) : s.Touches [.fj] (State.fenceEnd s f).1 := by
  unfold State.fenceEnd
  extract_lets +onlyGivenNames bad_0
  extract_lets +onlyGivenNames t_1
  extract_lets +onlyGivenNames t_2
  have ht_2 : State.Touches s [.fj] t_2 := by
    unfold t_2
    refine State.Touches.upd s ?_
    exact State.Touches.refl _ _
  clear_value t_2
  split
  · with_reducible assumption
  · extract_lets +onlyGivenNames u_3
    have hu_3 : State.Touches s [.fj] u_3 := by
      unfold u_3
      refine State.Touches.step (State.clearPairs_to _ _) ?_; exact ht_2
    clear_value u_3
    dsimp only
    refine State.Touches.upd u_3 ?_
    exact hu_3

theorem State.collPop_to (s : State) (core : Nat) (code : Nat) : s.Touches [.seq] (State.collPop s core code) := by
  unfold State.collPop
  split
  · refine State.Touches.step (State.setRunning_to _ _ _ _) ?_; refine State.Touches.step (State.setQueue_to _ _ _ _) ?_; exact State.Touches.refl _ _
  · exact State.Touches.refl _ _

theorem State.collSources_to (s : State) (g : Nat) (r : Rec) : s.Touches [.regs, .tiers, .log, .sent] (State.collSources s g r).1 := by
  unfold State.collSources
  refine State.Touches.foldl_fst ?_ ?_
  · exact State.Touches.refl _ _
  · intro v0 v1 v2 v3
    split
    · split
      · extract_lets +onlyGivenNames e_4
        have he_4 : State.Touches s [.regs, .tiers, .log, .sent] e_4.1 := by
          unfold e_4
          refine State.Touches.step (State.descEcc_to _ _ _ _) ?_; with_reducible assumption
        clear_value e_4
        with_reducible assumption
      · with_reducible assumption
    · with_reducible assumption

theorem State.collStart_to (s : State) (g : Nat) (env : UnitEnv) : s.Touches [.regs, .mem, .far, .seq, .tiers, .links, .fj, .cle, .kpu, .bud, .log, .sent] (State.collStart s g env) := by
  unfold State.collStart
  split
  · exact State.Touches.refl _ _
  · extract_lets +onlyGivenNames x_0
    have hx_0 : State.Touches s [.regs, .mem, .far, .seq, .tiers, .links, .fj, .cle, .kpu, .bud, .log, .sent] x_0.1 := by
      unfold x_0
      refine State.Touches.step (State.collSources_to _ _ _) ?_; refine State.Touches.step (State.upset_to _ _) ?_; exact State.Touches.refl _ _
    clear_value x_0
    split
    · refine State.Touches.step (State.collBegin_to _ _) ?_
      refine State.Touches.foldl ?_ ?_
      · exact hx_0
      · intro v1 v2 v3
        refine State.Touches.step (State.collPop_to _ _ _) ?_; with_reducible assumption
    · refine State.Touches.foldl ?_ ?_
      · exact hx_0
      · intro v4 v5 v6
        refine State.Touches.step (State.collPop_to _ _ _) ?_; with_reducible assumption

theorem State.unitRun_to (s : State) (unit : Nat) (q : QIns) (env : UnitEnv) : s.Touches [.regs, .mem, .far, .seq, .tiers, .stamps, .links, .fj, .rind, .kpu, .eru, .img, .bud, .host, .log, .freeCtr, .sent] (State.unitRun s unit q env).1 := by
  unfold State.unitRun
  split
  · refine State.Touches.upd _ (State.Touches.step (State.mmaRun_to _ _ _) (State.Touches.step (State.fs_to _ _ _ _) (.refl _ _)))
  · exact (State.vopRun_to _ _ _).mono (by decide)
  · exact State.Touches.step (State.eruFlush_to _ _) ((State.moveRun_to _ _ _).mono (by decide))
  · split
    · exact (State.rsendRun_to _ _ _).mono (by decide)
    · exact (State.soutRun_to _ _ _).mono (by decide)
  · split
    · exact (State.fenceRun_to _ _).mono (by decide)
    · exact (State.fabRun_to _ _ _).mono (by decide)

theorem State.unitStart_to (s : State) (core unit : Nat) (env : UnitEnv) : s.Touches [.regs, .mem, .far, .seq, .tiers, .stamps, .links, .fj, .rind, .cle, .kpu, .eru, .img, .bud, .host, .log, .freeCtr, .sent] (State.unitStart s core unit env) := by
  unfold State.unitStart
  split
  · exact State.Touches.refl _ _
  · split
    · refine State.Touches.step (State.collStart_to _ _ _) ?_; exact State.Touches.refl _ _
    · extract_lets +onlyGivenNames t_0
      have ht_0 : State.Touches s [.regs, .mem, .far, .seq, .tiers, .stamps, .links, .fj, .rind, .cle, .kpu, .eru, .img, .bud, .host, .log, .freeCtr, .sent] t_0 := by
        unfold t_0
        refine State.Touches.step (State.setRunning_to _ _ _ _) ?_; refine State.Touches.step (State.setQueue_to _ _ _ _) ?_
        exact State.Touches.refl _ _
      clear_value t_0
      extract_lets +onlyGivenNames r_1
      have hr_1 : State.Touches s [.regs, .mem, .far, .seq, .tiers, .stamps, .links, .fj, .rind, .cle, .kpu, .eru, .img, .bud, .host, .log, .freeCtr, .sent] r_1.1 := by
        unfold r_1
        refine State.Touches.step (State.unitRun_to _ _ _ _) ?_; exact ht_0
      clear_value r_1
      apply State.streamNotify_to (by decide)
      · exact State.Touches.refl _ _
      · refine State.Touches.step (State.payOne_to _ _) ?_; refine State.Touches.step (State.endsWith_to _ _ _ _) ?_; exact hr_1

theorem execUnitInstructionStart_to (core unit : Nat) (env : UnitEnv) (s : State) : Within s [.regs, .mem, .far, .seq, .tiers, .stamps, .links, .fj, .rind, .cle, .kpu, .eru, .img, .bud, .host, .log, .freeCtr, .sent] (execUnitInstructionStart core unit env s) := by
  unfold execUnitInstructionStart
  refine Within.occurs ?_ ?_
  · exact State.Touches.refl _ _
  · refine State.Touches.step (State.unitStart_to _ _ _ _) ?_; exact State.Touches.refl _ _

theorem State.complete_to (s : State) (slot : Nat) (q : QIns) (code : Nat) : s.Touches [.regs, .seq, .host, .log, .sent] (State.complete s slot q code) := by
  unfold State.complete
  extract_lets +onlyGivenNames x_0
  extract_lets +onlyGivenNames t_1
  have ht_1 : State.Touches s [.regs, .seq, .host, .log, .sent] t_1 := by
    unfold t_1
    refine State.Touches.step (State.setRunning_to _ _ _ _) ?_; exact State.Touches.refl _ _
  clear_value t_1
  extract_lets +onlyGivenNames a_2
  extract_lets +onlyGivenNames u_3
  have hu_3 : State.Touches s [.regs, .seq, .host, .log, .sent] u_3 := by
    unfold u_3
    split
    · refine State.Touches.step (State.fs_to _ _ _ _) ?_; exact ht_1
    · exact ht_1
  clear_value u_3
  split
  · extract_lets +onlyGivenNames v_4
    have hv_4 : State.Touches s [.regs, .seq, .host, .log, .sent] v_4 := by
      unfold v_4
      split
      · refine State.Touches.step (State.raise_to _ _ _) ?_; exact hu_3
      · exact hu_3
    clear_value v_4
    split
    · refine State.Touches.step (State.cntBump_to _ _ _ _) ?_; exact hv_4
    · exact hv_4
  · split
    · exact hu_3
    · refine State.Touches.step (State.stopCtx_to _ _ _) ?_; exact hu_3

theorem State.unitComplete_to (s : State) (slot : Nat) (q : QIns) : s.Touches [.regs, .seq, .fj, .cle, .host, .log, .sent] (State.unitComplete s slot q) := by
  unfold State.unitComplete
  split
  · split
    · refine State.Touches.step (State.complete_to _ _ _ _) ?_; refine State.Touches.step (State.fenceEnd_to _ _) ?_; exact State.Touches.refl _ _
    · refine State.Touches.step (State.complete_to _ _ _ _) ?_; exact State.Touches.refl _ _
  · split
    · refine State.Touches.step (State.collSettle_to _ _) ?_; refine State.Touches.step (State.complete_to _ _ _ _) ?_; exact State.Touches.refl _ _
    · refine State.Touches.step (State.complete_to _ _ _ _) ?_; exact State.Touches.refl _ _

theorem execUnitInstructionComplete_to (core unit : Nat) (s : State) : Within s [.regs, .seq, .links, .fj, .cle, .bud, .host, .log, .sent] (execUnitInstructionComplete core unit s) := by
  unfold execUnitInstructionComplete
  extract_lets +onlyGivenNames t_0
  have ht_0 : State.Touches s [.regs, .seq, .links, .fj, .cle, .bud, .host, .log, .sent] t_0 := by
    unfold t_0
    refine State.Touches.step (State.payOne_to _ _) ?_; exact State.Touches.refl _ _
  clear_value t_0
  split
  · refine Within.next ?_
    exact State.Touches.refl _ _
  · extract_lets +onlyGivenNames u_1
    have hu_1 : State.Touches s [.regs, .seq, .links, .fj, .cle, .bud, .host, .log, .sent] u_1 := by
      unfold u_1
      split
      · refine State.Touches.step (State.sendTail_to _ _) ?_; exact ht_0
      · exact ht_0
    clear_value u_1
    refine Within.occurs ?_ ?_
    · exact State.Touches.refl _ _
    · split
      · apply State.streamNotify_to (by decide)
        · exact State.Touches.refl _ _
        · refine State.Touches.step (State.unitComplete_to _ _ _) ?_; exact hu_1
      · exact hu_1

theorem State.idle_to (s : State) : s.Touches [.regs, .waits, .time, .now, .rack] (State.idle s) := by
  unfold State.idle
  refine State.Touches.step (State.pass_to _ _) ?_; exact State.Touches.refl _ _

end Machine
end Sys2Proof
end

