-- ==== Sys2Proof/Laws/Window.lean ====
section
/-!
SUPPORT. Host writes by the access codes: the register's new word, and that no other register changes.
-/
namespace Sys2Proof
namespace Machine
set_option Elab.async false

theorem merge_lt {x y e n : Nat} (hx : x < 2 ^ n) (hy : y < 2 ^ n) : x - (x &&& e) + (y &&& e) < 2 ^ n := by
  refine Nat.lt_pow_two_of_testBit _ fun i hi => ?_
  rw [testBit_merge, Nat.testBit_lt_two_pow (Nat.lt_of_lt_of_le hx (Nat.pow_le_pow_right (by decide) hi)),
    Nat.testBit_lt_two_pow (Nat.lt_of_lt_of_le hy (Nat.pow_le_pow_right (by decide) hi))]
  split <;> rfl

theorem mergeField_lt (fixed : Bool) {m d old n : Nat} (f : FldRow) (ho : old < 2 ^ n) (hd : d < 2 ^ n) : mergeField fixed m d old f < 2 ^ n := by
  unfold mergeField
  extract_lets e put
  have hp : put < 2 ^ n := merge_lt ho hd
  split
  · exact hp
  · split
    · exact ho
    · exact hp
  · omega
  · exact ho

theorem mergeFields_lt (fixed : Bool) {fs : List FldRow} {m d old n : Nat} (ho : old < 2 ^ n) (hd : d < 2 ^ n) : mergeFields fixed fs m d old < 2 ^ n := by
  unfold mergeFields
  induction fs generalizing old with
  | nil => exact ho
  | cons f r ih => exact ih (mergeField_lt fixed f ho hd)

/-- A listed register after a write: its word merged field by field. -/
theorem State.rd_regMerge {s : State} {key m d : Nat} {r : RegRow} (h : rowAt key = some r) (hd : d < 2 ^ 64) :
    ((s.regMerge key m d).rd key).toNat = mergeFields s.img.recs.isSome r.fields m d (s.rd key).toNat := by
  have hl := mergeFields_lt s.img.recs.isSome (fs := r.fields) (m := m) (s.rd key).isLt hd
  unfold State.regMerge
  rw [h]
  dsimp only
  split
  · next e => exact e.symm
  · rw [State.rd_wr_self, BitVec.toNat_ofNat, Nat.mod_eq_of_lt hl]

theorem State.regsOnly_regMerge (s : State) (key m d : Nat) : s.RegsOnly (s.regMerge key m d) [key] := by
  unfold State.regMerge
  split
  · extract_lets old new
    split
    · exact State.RegsOnly.refl _ _
    · exact State.regsOnly_wr _ _ (List.mem_singleton.2 rfl)
  · exact State.RegsOnly.refl _ _

end Machine
end Sys2Proof
end

