-- ==== Sys2Proof/WellFormed.lean ====
section
/-!
DEFINITION. Well-formed commands: every operand that names a part of the module names one of those the spec gives it, and every field of a packet fits
its bits.
-/
namespace Sys2Proof

/-- R334: the fields of a header fit their bits, and the data is no longer than `len` says. -/
def Packet.wf (p : Packet) : Bool :=
  decide (p.dest < 4096) && decide (p.src < 4096) && decide (p.cls < 8) && decide (p.vc < 16) && decide (p.epoch < 2) && decide (p.mode < 2) && decide (p.chan < 256)
  && decide (p.seq < 2 ^ 24) && decide (p.op < 256) && decide (p.act < 256) && decide (p.key < 2 ^ 16) && decide (p.len < 4096) && decide (p.follow < 2 ^ 24)
  && decide (p.hop < 64) && decide (p.addr < 2 ^ 64) && decide (p.data.length ≤ p.len + 1) && decide (p.tag.length = 12)

/-- R281: the sizes of an access to BAR0 that the module serves. -/
def sizeOk (n : Nat) : Bool := n = 4 || n = 8

/-- R186: a lane of a die link: 128 of a hub link (link 0), 1,024 and 32 spares of a neighbour link. -/
def laneOk (die link lane : Nat) : Bool := decide (die < 8) && decide (link < 3) && decide (lane < (if link = 0 then 128 else 1056))

/-- A command is well formed. -/
def Instr.wf : Instr → Bool
  | .registerWrite port addr size _ => decide (port < 2) && decide (addr < 2 ^ 26) && sizeOk size
  | .absentUnitAccess port addr _ => decide (port < 2) && decide (addr < 2 ^ 26)
  | .bar0BadAccess port addr _ _ => decide (port < 2) && decide (addr < 2 ^ 26)
  | .nop core ctx => decide (core < 32) && decide (ctx < 4)
  | .tdset core ctx => decide (core < 32) && decide (ctx < 4)
  | .bld core ctx => decide (core < 32) && decide (ctx < 4)
  | .bst core ctx => decide (core < 32) && decide (ctx < 4)
  | .xld core ctx => decide (core < 32) && decide (ctx < 4)
  | .xst core ctx => decide (core < 32) && decide (ctx < 4)
  | .mma core ctx => decide (core < 32) && decide (ctx < 4)
  | .vop core ctx => decide (core < 32) && decide (ctx < 4)
  | .rsend core ctx => decide (core < 32) && decide (ctx < 4)
  | .rrel core ctx => decide (core < 32) && decide (ctx < 4)
  | .sout core ctx => decide (core < 32) && decide (ctx < 4)
  | .jst core ctx => decide (core < 32) && decide (ctx < 4)
  | .jld core ctx => decide (core < 32) && decide (ctx < 4)
  | .jat core ctx => decide (core < 32) && decide (ctx < 4)
  | .fence core ctx => decide (core < 32) && decide (ctx < 4)
  | .coll core ctx => decide (core < 32) && decide (ctx < 4)
  | .wait core ctx => decide (core < 32) && decide (ctx < 4)
  | .sig core ctx => decide (core < 32) && decide (ctx < 4)
  | .brc core ctx => decide (core < 32) && decide (ctx < 4)
  | .snap core ctx => decide (core < 32) && decide (ctx < 4)
  | .step core ctx => decide (core < 32) && decide (ctx < 4)
  | .loop core ctx => decide (core < 32) && decide (ctx < 4)
  | .br core ctx => decide (core < 32) && decide (ctx < 4)
  | .halt core ctx => decide (core < 32) && decide (ctx < 4)
  | .unitInstructionStart core unit _ => decide (core < 32) && decide (unit < 7)
  | .unitInstructionComplete core unit => decide (core < 32) && decide (unit < 7)
  | .anchorPrescan core => decide (core < 32)
  | .ringSlotComplete core ring => decide (core < 32) && decide (ring < 16)
  | .canaryDone core main early late again => decide (core < 32) && decide (main < 2 ^ 64) && decide (early < 2 ^ 64) && decide (late < 2 ^ 64) && decide (again < 2 ^ 96)
  | .stepBoundary => true
  | .coreParked core => decide (core < 32)
  | .snapshotStagingDone => true
  | .budgetPeriodBoundary => true
  | .budgetExhausted act res inst => decide (act < 256) && decide (res < 7) && decide (inst < 80)
  | .imgBegin port kind => decide (port < 2) && decide (kind < 2)
  | .imgDataWrite port size _ => decide (port < 2) && sizeOk size
  | .imgCommit port => decide (port < 2)
  | .imgAbort port => decide (port < 2)
  | .imgCheckDone => true
  | .cmdNop port tag => decide (port < 2) && decide (tag < 2 ^ 16)
  | .start port tag => decide (port < 2) && decide (tag < 2 ^ 16)
  | .stop port tag => decide (port < 2) && decide (tag < 2 ^ 16)
  | .teardown port tag => decide (port < 2) && decide (tag < 2 ^ 16)
  | .apply port tag => decide (port < 2) && decide (tag < 2 ^ 16)
  | .snapshotNow port tag => decide (port < 2) && decide (tag < 2 ^ 16)
  | .dieReset port tag => decide (port < 2) && decide (tag < 2 ^ 16)
  | .moduleReset port tag => decide (port < 2) && decide (tag < 2 ^ 16)
  | .moduleResetExecute => true
  | .testEnter port tag => decide (port < 2) && decide (tag < 2 ^ 16)
  | .dumpOpen port tag => decide (port < 2) && decide (tag < 2 ^ 16)
  | .tokenNonce port tag => decide (port < 2) && decide (tag < 2 ^ 16)
  | .tokenClaim port tag => decide (port < 2) && decide (tag < 2 ^ 16)
  | .cmdUnknownOpcode port opcode tag => decide (port < 2) && decide (opcode < 256) && decide (tag < 2 ^ 16)
  | .cmdPushBusy port => decide (port < 2)
  | .cmdComplete port => decide (port < 2)
  | .nonceExpiry port => decide (port < 2)
  | .applyCheckDone => true
  | .routingBankRetry => true
  | .applyRecheckDone => true
  | .dieReloadDone die _ => decide (die < 8)
  | .streamWrite host port offset _ _ => decide (host < 2) && decide (port < 4096) && decide (offset < 2 ^ 16)
  | .streamWordDeliver port => decide (port < 4096)
  | .streamRead host port _ _ => decide (host < 2) && decide (port < 4096)
  | .streamClearDropped host port => decide (host < 2) && decide (port < 4096)
  | .msixModerationEnd host => decide (host < 2)
  | .mapDataRead host => decide (host < 2)
  | .mapDataWrite host _ => decide (host < 2)
  | .perstAccepted host => decide (host < 2)
  | .perstRelease host _ => decide (host < 2)
  | .functionLevelReset host => decide (host < 2)
  | .d3coldEntry host => decide (host < 2)
  | .d3coldExit host => decide (host < 2)
  | .hostLinkDown host _ => decide (host < 2)
  | .dieClockLoss die => decide (die < 8)
  | .neighbourClockLoss die _ => decide (die < 8)
  | .aclkLoss die => decide (die < 8)
  | .linkFlitRx die link _ => decide (die < 8) && decide (link < 4)
  | .laneErrorWindow die link lane errors => laneOk die link lane && decide (errors < 2 ^ 32)
  | .linkLaneFail die link lane => laneOk die link lane
  | .linkRetrainDone die link _ => decide (die < 8) && decide (link < 3)
  | .xbarGrant out inp => decide (out < 40) && decide (inp < 42)
  | .lightLineLost fibre lines => decide (fibre < 8) && decide (lines < 2 ^ 16)
  | .lightLinePresent fibre line => decide (fibre < 8) && decide (line < 16)
  | .spLockDone p locked => decide (p < 16) && decide (locked < 2 ^ 16)
  | .spTrainingDone p _ failed farFailed => decide (p < 16) && decide (failed < 2 ^ 16) && decide (farFailed < 2 ^ 16)
  | .spFecLockDone p => decide (p < 16)
  | .spBringupTimeout p => decide (p < 16)
  | .spBackoffExpiry p => decide (p < 16)
  | .identSend p => decide (p < 16)
  | .ident p _ => decide (p < 16)
  | .lhello p _ => decide (p < 16)
  | .lattest p _ => decide (p < 16)
  | .lfinish p _ => decide (p < 16)
  | .attestRetry p => decide (p < 16)
  | .spFrameRx p frame => decide (p < 16) && decide (frame.bytes.length = 2304)
  | .widthOrder p farMask switchAt => decide (p < 16) && decide (farMask < 2 ^ 16) && decide (switchAt < 2 ^ 20)
  | .spLaneFail p lanes => decide (p < 16) && decide (lanes < 2 ^ 16)
  | .spUncWindow p counts => decide (p < 16) && decide (counts.length = 16)
  | .spCreditWatchdog p vc => decide (p < 16) && decide (vc < 10)
  | .spStallLimit p vc => decide (p < 16) && decide (vc < 10)
  | .spRetrainDone p out => decide (p < 16) && decide (out.here < 2 ^ 16) && decide (out.far < 2 ^ 16)
  | .linkRekey p => decide (p < 16)
  | .store p pkt => decide (p < 33) && pkt.wf
  | .load p pkt => decide (p < 33) && pkt.wf
  | .atomic p pkt => decide (p < 33) && pkt.wf
  | .loadRsp p pkt => decide (p < 33) && pkt.wf
  | .atomicRsp p pkt => decide (p < 33) && pkt.wf
  | .ack p pkt => decide (p < 33) && pkt.wf
  | .nack p pkt => decide (p < 33) && pkt.wf
  | .drain p vc epoch => decide (p < 16) && decide (vc < 10) && decide (epoch < 2)
  | .lease p pkt => decide (p < 33) && pkt.wf
  | .leaseExpiry => true
  | .teardownPacket p pkt => decide (p < 33) && pkt.wf
  | .mgmt p pkt => decide (p < 33) && pkt.wf
  | .standInOrder p pkt => decide (p < 33) && pkt.wf
  | .keyLead p pkt => decide (p < 33) && pkt.wf
  | .keyFetch p pkt => decide (p < 33) && pkt.wf
  | .keyDrop p pkt => decide (p < 33) && pkt.wf
  | .kreq p pkt => decide (p < 33) && pkt.wf
  | .kresp p pkt => decide (p < 33) && pkt.wf
  | .kreqRetry key => decide (key < 2 ^ 16)
  | .fjTransit p pkt => decide (p < 33) && pkt.wf
  | .ingressApply _ => true
  | .parkTimeout _ => true
  | .ackTimeout core dev chan => decide (core < 33) && decide (dev < 4096) && decide (chan < 256)
  | .loadTimeout _ => true
  | .fjRetry _ => true
  | .collAnchor p pkt => decide (p < 33) && pkt.wf
  | .collReduce p pkt => decide (p < 33) && pkt.wf
  | .collGather p pkt => decide (p < 33) && pkt.wf
  | .collDone p pkt => decide (p < 33) && pkt.wf
  | .collCommit p pkt => decide (p < 33) && pkt.wf
  | .collAbort p pkt => decide (p < 33) && pkt.wf
  | .stepDeadline group => decide (group < 64)
  | .pair p pkt => decide (p < 33) && pkt.wf
  | .pairReply p pkt => decide (p < 33) && pkt.wf
  | .pairRetry => true
  | .page p pkt => decide (p < 33) && pkt.wf
  | .record p pkt => decide (p < 33) && pkt.wf
  | .seal p pkt => decide (p < 33) && pkt.wf
  | .journal p pkt => decide (p < 33) && pkt.wf
  | .delta p pkt => decide (p < 33) && pkt.wf
  | .fetch p pkt => decide (p < 33) && pkt.wf
  | .rebuild p pkt => decide (p < 33) && pkt.wf
  | .resync p pkt => decide (p < 33) && pkt.wf
  | .ripeningDone => true
  | .replayBoundary => true
  | .sensorSample raw => raw.all (fun x => decide (x.1 < 420) && decide (x.2 < 2 ^ 16))
  | .refreshStepDown loc => decide (loc < 420)
  | .dramRefresh channel => decide (channel < 1024)
  | .hotStateReturn loc => decide (loc < 420)
  | .converterSelfTest failed => failed.all (fun i => decide (i < 420))
  | .tripRestart => true
  | .tripAck port seq => decide (port < 2) && decide (seq < 2 ^ 64)
  | .alertAsserted => true
  | .alertRemoved => true
  | .alertScaleRelease => true
  | .alertLatched => true
  | .governorCheck mean => decide (mean < 2 ^ 13)
  | .powerWindowEnd mean => decide (mean < 2 ^ 13)
  | .pwrCapWrite port cap => decide (port < 2) && decide (cap < 4096)
  | .inputPowerFail dv => decide (dv < 2 ^ 12)
  | .inputPowerRestored dv => decide (dv < 2 ^ 12)
  | .auxPowerFail => true
  | .auxPowerUp => true
  | .strapChange slot rack feed => decide (slot < 64) && decide (rack < 64) && decide (feed < 16)
  | .bootReady => true
  | .updateWatchdog => true
  | .modResetAccepted => true
  | .modResetRelease _ => true
  | .mgcWatchdog => true
  | .dumpComplete => true
  | .racktickEdge _ _ => true
  | .rackclkLost => true
  | .tickTimeout => true
  | .slewComplete => true
  | .timeOffsetUpdate j o => decide (j < 4) && decide (-2147483648 ≤ o) && decide (o ≤ 2147483647)
  | .fmcErrorWindow stack channel => decide (stack < 24) && decide (channel < 32)
  | .retireCopyDone stack => decide (stack < 24)
  | .patrolScrub tier addr _ => decide (addr < (match tier with | 0 => 2 ^ 32 | 1 => 2 ^ 39 | 2 => 768 * 2 ^ 35 | 3 => 2 ^ 28 | _ => 0))
  | .marginStart port => decide (port < 2)
  | .marginDone errors firstLine => decide (errors < 2 ^ 32) && decide (firstLine < 2 ^ 32)
  | .clearRetire port stack => decide (port < 2) && decide (stack < 24)
  | .sguAnalysisFrame chan => decide (chan < 64)
  | .sguSynthesisFrame chan => decide (chan < 64)
  | .haunoAccess core level space _ addr size _ data => decide (core < 16) && decide (level < 3) && decide (space < 16) && decide (addr < 2 ^ 48) && decide (0 < size) && decide (size ≤ 64) && decide (data < 256 ^ size)
  | .hlcSig core data => decide (core < 16) && decide (data < 2 ^ 64)
  | .haunoTimer core => decide (core < 16)
  | .mboxBegin port => decide (port < 2)
  | .mboxInWrite port size _ => decide (port < 2) && sizeOk size
  | .mboxCommit port => decide (port < 2)
  | .mboxAbort port => decide (port < 2)
  | .mboxOutRead port => decide (port < 2)
  | .mboxBadMessage port => decide (port < 2)
  | .attest port => decide (port < 2)
  | .ownerEnrol port => decide (port < 2)
  | .ownerTransfer port => decide (port < 2)
  | .keyInstall port => decide (port < 2)
  | .chanOpen port => decide (port < 2)
  | .chanClose port => decide (port < 2)
  | .chanStatus port => decide (port < 2)
  | .debugUnlock port => decide (port < 2)
  | .fwBegin port => decide (port < 2)
  | .fwData port => decide (port < 2)
  | .fwEnd port => decide (port < 2)
  | .pldmMessage _ => true
  | .arrCanaryNow port core => decide (port < 2) && decide (core < 32)
  | .arrClearCounts port core => decide (port < 2) && decide (core < 32)
  | .arrInjectArm port core b col => decide (port < 2) && decide (core < 32) && decide (b < 64) && decide (col < 256)
  | .seqTestStep port core => decide (port < 2) && decide (core < 32)
  | .seqClearStall port core => decide (port < 2) && decide (core < 32)
  | .memClearCounts port core => decide (port < 2) && decide (core < 32)
  | .fmcClearCounts port => decide (port < 2)
  | .dlRestore port die => decide (port < 2) && decide (die < 8)
  | .dlClearCounts port die => decide (port < 2) && decide (die < 8)
  | .dlTestFail port die link lane => decide (port < 2) && laneOk die link lane
  | .clkClearLow port die => decide (port < 2) && decide (die < 8)
  | .sguClearCounts port => decide (port < 2)
  | .budClearCounts port => decide (port < 2)
  | .spRestore port p => decide (port < 2) && decide (p < 16)
  | .spReenable port p => decide (port < 2) && decide (p < 16)
  | .spClearCounts port p => decide (port < 2) && decide (p < 16)
  | .spTestFail port p lane => decide (port < 2) && decide (p < 16) && decide (lane < 16)
  | .fjClearCounts port => decide (port < 2)
  | .cleClearCounts port => decide (port < 2)
  | .cleInjectResidue port => decide (port < 2)
  | .kpuClearCounts port => decide (port < 2)
  | .kpuFullNext port => decide (port < 2)
  | .eruClearCounts port => decide (port < 2)
  | .rindClearCounts port => decide (port < 2)
  | .alertRearm port => decide (port < 2)
  | .mgtClearCounts port => decide (port < 2)
  | .pinClearCounts port => decide (port < 2)
  | .receivedLightAboveLos p => decide (p < 16)
  | .rackclkRestored => true
  | .hostLinkUp host => decide (host < 2)
  | .jtagAccess _ _ => true
  | .mgcSramUncorrectable addr => decide (addr < 2 ^ 28)
  | .internalParityError _ => true

end Sys2Proof
end

