-- ==== Sys2Proof/Tests/Slice0.lean ====
section
/-!
SUPPORT. Tests: ill-formed commands that WellFormed refuses, values worked out from the spec's tables and examples, and, for every obligation with premises, a concrete state and operands that meet
them (`witness_<obligation>`), one part for each of its clauses.
-/
namespace Sys2Proof
namespace Tests
open Machine
set_option maxRecDepth 8000
set_option Elab.async false

/-! ### Small states -/

/-- The state with fields of registers set. -/
def put (s : State) (l : List (Nat × Fld × Nat)) : State := l.foldl (fun t e => t.fs e.1 e.2.1 e.2.2) s

/-- A record with little-endian values at offsets. -/
def recOf (type id len : Nat) (l : List (Nat × Nat)) : Rec := ⟨type, id, leBytes len ((l.map fun e => e.2 * 256 ^ e.1).sum)⟩

/-- The state with a configuration in force. -/
def conf (s : State) (c : List Rec) : State := { s with img := { s.img with recs := some c, cfg := c } }

/-- Every die runs at full link width, both hosts are up, and the module is in a state. -/
def inState (m : Nat) : State := { State.reset with
  regs := [(0x0, 0x12480), (0x8, 0x000110FF07FFFFFF), (R.GLB_STATUS, 0xC), (R.GLB_STATE, BitVec.ofNat 64 m), (0x6010, 0x8), (0x10000, 0x400000)] ++
    (List.range 8).flatMap (fun d => [(R.DIE_STATUS d, 0), (R.DL_LINK_STATUS d 0, 0x7FF000), (R.DL_LINK_STATUS d 1, 0x7FF000), (R.DL_LINK_STATUS d 2, 0x7FF000)]) ++
    (List.range 24).map (fun k => (R.FMC_STK_STATUS k, 1)) }

/-- The same, SERVING. -/
def live : State := inState MState.serving

/-- A context RUNNING before a word. -/
def before (s : State) (core ctx w : Nat) : State :=
  let t := put s [(ctxReg (4 * core + ctx), F.SEQ_CTX_STATUS_state, 1)]
  { t with seq := { t.seq with imem := [(core, [w])] } }

/-- Activity 0 is covered on core 31 (resources 0 to 3) and on fabric port 0 and group 0. -/
def funded (s : State) : State := { s with bud := { s.bud with ctr := [(31, { BudCtr.zero with left := 9 }), (256 + 31, { BudCtr.zero with left := 9 }), (512 + 31, { BudCtr.zero with left := 9 }), (768, { BudCtr.zero with left := 9 })] } }

/-- An issued instruction. -/
def ins (core ctx w : Nat) (ds : List Desc) : QIns := ⟨core, ctx, 0, w, 0, 1, ds, 0, 0, 0, 0, 0, 0, 0⟩

/-- A dense row-major descriptor. -/
def dense (base rows cols stride fmt : Nat) : Desc := ⟨base, rows, cols, stride, fmt, false, false, 0, 0, 0⟩

/-- An instruction at the head of a unit's queue. -/
def queued (s : State) (unit : Nat) (q : QIns) : State := { s with seq := { s.seq with queue := [(8 * q.core + unit, [q])] } }

/-- A packet with nothing in it. -/
def blank : Packet := ⟨0, 0, 1, 2, 0, 0, false, false, false, 0, 0, 0, 0, 0, 0, 0, 0, 0, [], []⟩

/-! ### Ill-formed commands, one for each check -/

theorem test_wellFormed_refuses : ([.registerWrite 2 0 8 0, .registerWrite 0 (2 ^ 26) 8 0, .registerWrite 0 0 2 0, .nop 32 0, .halt 0 4, .unitInstructionStart 0 7 ⟨[], []⟩, .anchorPrescan 32,
    .ringSlotComplete 0 16, .canaryDone 0 (2 ^ 64) 0 0 0, .budgetExhausted 256 0 0, .budgetExhausted 0 7 0, .imgBegin 0 2, .cmdNop 0 (2 ^ 16), .cmdUnknownOpcode 0 256 0, .dieReloadDone 8 true, .streamWrite 2 0 0 true [],
    .streamWrite 0 4096 0 true [], .streamWrite 0 0 (2 ^ 16) true [], .linkFlitRx 0 4 ⟨0, true, 0⟩, .linkLaneFail 0 0 128, .linkLaneFail 0 1 1056, .xbarGrant 40 0, .xbarGrant 0 42, .lightLineLost 8 0, .lightLineLost 0 (2 ^ 16),
    .spLockDone 16 0, .spLockDone 0 (2 ^ 16), .spLaneFail 0 (2 ^ 16), .spFrameRx 0 ⟨[], 0, true, false⟩, .spUncWindow 0 [], .spStallLimit 0 10, .store 33 { blank with tag := zeros 12 }, .store 0 blank, .drain 0 0 2, .kreqRetry (2 ^ 16), .ackTimeout 33 0 0,
    .ackTimeout 0 4096 0, .ackTimeout 0 0 256, .stepDeadline 64, .sensorSample [(420, 0)], .sensorSample [(0, 2 ^ 16)], .refreshStepDown 420, .dramRefresh 1024, .converterSelfTest [420], .pwrCapWrite 0 4096, .governorCheck (2 ^ 13),
    .inputPowerFail 4096, .strapChange 64 0 0, .strapChange 0 0 16, .timeOffsetUpdate 4 0, .timeOffsetUpdate 0 2147483648, .fmcErrorWindow 24 0, .fmcErrorWindow 0 32, .patrolScrub 4 0 false, .patrolScrub 0 (2 ^ 32) false,
    .sguAnalysisFrame 64, .haunoAccess 16 0 0 0 0 1 false 0, .haunoAccess 0 3 0 0 0 1 false 0, .haunoAccess 0 0 16 0 0 1 false 0, .haunoAccess 0 0 0 0 0 0 false 0, .hlcSig 0 (2 ^ 64), .arrInjectArm 0 0 64 0, .arrInjectArm 0 0 0 256,
    .mgcSramUncorrectable (2 ^ 28)] : List Instr).all (fun i => !i.wf) = true := by decide +kernel

theorem test_wellFormed_accepts : ([.registerWrite 1 (2 ^ 26 - 8) 8 0, .halt 31 3, .linkLaneFail 7 0 127, .linkLaneFail 7 2 1055, .store 16 { blank with tag := zeros 12 }, .streamWordDeliver 4095, .haunoAccess 15 2 15 0 0 64 true 0] : List Instr).all
    Instr.wf = true := by decide +kernel

/-! ### Values of the spec's tables and worked examples -/

/-- The worked example of R170 to R174: domain 0 of CD2 with row base 16,384 and row count 4,194,304, row_key 0x5A3C71, hi_rot 1. -/
def example5 : State := put live [(R.FMC_DOM_CFG 0, F.FMC_DOM_CFG_valid, 1), (R.FMC_DOM_CFG 0, F.FMC_DOM_CFG_die, 2), (R.FMC_DOM_CFG 0, F.FMC_DOM_CFG_row_base, 16384), (R.FMC_DOM_CFG 0, F.FMC_DOM_CFG_rows, 4194304),
  (R.FMC_DOM_KEY 0, F.FMC_DOM_KEY_row_key, 0x5A3C71), (R.FMC_DOM_KEY 0, F.FMC_DOM_KEY_hi_rot, 1)]

theorem test_domain_example : example5.domMap 0 0x123456780 = (8, 19, 215225) ∧ example5.domSize 0 = 96 * 2 ^ 30 ∧
    (put example5 [(R.FMC_STK_STATUS 8, F.FMC_STK_STATUS_retire_state, 4), (R.FMC_STK_STATUS 8, F.FMC_STK_STATUS_retired_ch, 19)]).farServe 8 19 215225 = (24, 10165022) := by decide +kernel

theorem test_management_budget_example : budWritten [recOf RT.schedule 0 24 [(8, 10)]] 1 0 0 0 = (220, 0) := by decide +kernel

theorem test_batched_hold_example : arrayHold (List.replicate 256 ⟨0, 416, 0, 0⟩) = 107277 := by decide +kernel

theorem test_unbatched_hold_example : arrayHold (List.replicate 256 ⟨0, 16, 0, 0⟩) = 66077 := by decide +kernel

/-- The worked example of R88 to R97: an FP32 dot product of length 2, whose exact value is 2^-46. -/
def example3 (out : Nat) : List (Nat × Nat × List (List Nat)) :=
  let x (w : Nat) : Machine.Num := decodeRaw fp32 w
  let a := [[x 0x3F800001, x 0xBF800000]]
  let b := [[x 0x3F800001], [x 0x3F800002]]
  (runTile ⟨1, 1, 2, 9, 9, out, 0, false, false⟩ (preScan 0 a b) [] 0 a b (MmaRun.start none)).folds

theorem test_fp32_dot_example : example3 2 = [(0, 0, [[0x28800000]])] ∧ example3 0 = [(0, 0, [[0x0001000000FFBA00]])] := by decide +kernel


theorem witness_CommandBitsActOnTheirFieldsOnly : State.reset.hostOn 1 = true ∧ State.reset.hostOn 0 = true ∧ 0 = State.reset.tokenPort ∧ State.reset.eruPresent = true ∧
    State.reset.sguPresent = true ∧ (inState MState.test).hostOn 0 = true ∧ (inState MState.test).mstate = MState.test ∧ 0 = (inState MState.test).tokenPort ∧ State.reset.stackPresent 23 = true ∧
    (put (inState MState.test) [(R.SEQ_CTL 7 3, F.SEQ_CTL_test_hold, 8)]).testHeld (4 * 31 + 3) = true := by decide +kernel
theorem witness_RegisterWriteFollowsTheAccessCodes : State.reset.hostOn 1 = true ∧ 2 ^ 64 - 1 < 2 ^ 64 ∧ 2 ^ 32 - 1 < 2 ^ 32 ∧ (conf State.reset []).hostOn 1 = true := by decide +kernel
theorem witness_SequencerInstructionsMoveTheirContext : ∀ w ∈ [0x00, 0x01, 0x70, 0x71, 0x72, 0x78, 0x79, 0x7C, 0x7D, 0x7E], (before live 31 3 w).arbiter 31 = some 3 ∧ wOp ((before live 31 3 w).nextWord 127) = w := by decide +kernel

/-- Core 31 holds a ring of four 64-byte slots; ring descriptors resolve once a slot is complete. -/
def ringed (full : Nat) : State :=
  let s := put (conf live [recOf RT.ring (16 * 31 + 15) 16 [(0, 0x10000), (4, 64), (8, 4), (10, 31)]]) [(ringReg 511, F.RING_STATUS_used, full)]
  { s with seq := { s.seq with ctx := [(127, { CtxSt.empty with tds := [(0, 1 + 2 ^ 21 + 15 * 2 ^ 22)] })] } }

theorem witness_BlockedInstructionsWaitOrPark :
    (before live 31 3 (0x70 + 2 ^ 32)).canLook 127 = true ∧ (before live 31 3 (0x70 + 2 ^ 32)).cnt 31 0 < bits (0x70 + 2 ^ 32) 32 32 ∧
    (∀ w ∈ [0x20, 0x30, 0x08, 0x0A], (before (ringed 0) 31 3 w).canLook 127 = true ∧ (before (ringed 0) 31 3 w).wDescs 127 w = none ∧ wOp ((before (ringed 0) 31 3 w).nextWord 127) = w) ∧
    (∀ w ∈ [0x50, 0x51, 0x52, 0x60], (before (inState MState.held) 31 3 w).canLook 127 = true ∧ (before (inState MState.held) 31 3 w).heldNow = true) := by decide +kernel

theorem witness_UnitInstructionsIssueAndRrelFrees :
    (∀ w ∈ [0x08, 0x09, 0x0A, 0x0B, 0x20, 0x30, 0x40, 0x42, 0x50, 0x51, 0x52, 0x58, 0x60], (before live 31 3 w).arbiter 31 = some 3 ∧ wOp ((before live 31 3 w).nextWord 127) = w) ∧
    (∀ n ∈ [0, 1, 4], (before (ringed n) 31 3 0xF0041).arbiter 31 = some 3 ∧ wOp ((before (ringed n) 31 3 0xF0041).nextWord 127) = 0x41 ∧
      (ringCfg (ringed n).img.cfg (16 * 31 + 15)).isSome = true ∧ (ringed n).ringUsed (16 * 31 + 15) = n) := by decide +kernel

theorem witness_StartedCopiesMoveTheirRows :
    let d := dense 0 2 16 64 3
    ∀ w ∈ [0x08, 0x09 + 64 * 2 ^ 56], let s := queued (funded live) 2 (ins 31 3 w [d])
      s.Canon ∧ s.queue 31 2 = [ins 31 3 w [d]] ∧ s.canStart 31 2 = true ∧ s.tiers.ecc = [] ∧ d.base + (d.rows - 1) * d.stride + packedRow d.fmt d.cols ≤ 2 ^ 27 ∧
        packedRow d.fmt d.cols ≤ d.stride ∧ (wOp w = 0x09 → packedRow d.fmt d.cols ≤ (moveOff w).2) := by decide +kernel
theorem witness_StartedCopiesMoveTheirRows_far :
    let d := dense 0 2 16 64 3
    let q := ins 31 3 (0x0A + 0 * 2 ^ 21) [d]
    let s := queued (put (funded live) [(R.FMC_DOM_CFG 0, F.FMC_DOM_CFG_valid, 1), (R.FMC_DOM_CFG 0, F.FMC_DOM_CFG_die, 7), (R.FMC_DOM_CFG 0, F.FMC_DOM_CFG_rows, 4096)]) 2 q
    s.Canon ∧ s.queue 31 2 = [q] ∧ s.canStart 31 2 = true ∧ s.farApart 31 0 = false ∧ s.farRefusal 0 (moveOff q.word).1 ((d.rows - 1) * (moveOff q.word).2 + packedRow d.fmt d.cols) = Code.ok := by decide +kernel

theorem witness_StartedVopsAndMmasWriteTheirOutput :
    (let d := dense 0 2 16 64 0
     let e := dense 4096 2 16 64 0
     let q := ins 31 3 (0x30 + 0x00 * 2 ^ 36) [d, e]
     let s := queued (funded live) 1 q
     s.Canon ∧ s.queue 31 1 = [q] ∧ s.canStart 31 1 = true ∧ s.tiers.ecc = [] ∧ bits q.word 36 8 ≠ 0x12 ∧ e.scaled = false ∧ fmtBits d.fmt % 8 = 0 ∧ packedRow d.fmt d.cols ≤ d.stride) ∧
    (let a := dense 0 16 16 64 3
     let c := dense 4096 16 16 64 3
     let q := ins 31 3 (0x20 + 16 * 2 ^ 31 + 16 * 2 ^ 44 + 16 * 2 ^ 57) [a, a, c]
     let s := queued (funded live) 0 q
     let t := { s with seq := { s.seq with prescanned := [(31, ⟨q.no, [], none, [], []⟩)] } }
     t.Canon ∧ t.queue 31 0 = [q] ∧ t.canStart 31 0 = true ∧ (t.mmaCfg 31 q).m = c.rows ∧ (t.mmaCfg 31 q).n * (if bit q.word 75 then 2 else 1) = c.cols) := by decide +kernel
theorem witness_StartedVopsAndMmasWriteTheirOutput_sum :
    let d := dense 0 2 1 64 0
    let x := dense 4096 2 16 64 0
    let q := ins 31 3 (0x30 + 0x12 * 2 ^ 36) [d, x]
    let s := queued (funded live) 1 q
    s.Canon ∧ s.queue 31 1 = [q] ∧ s.canStart 31 1 = true ∧ s.tiers.ecc = [] ∧ bits q.word 36 8 = 0x12 ∧ packedRow d.fmt 1 ≤ d.stride := by decide +kernel

theorem witness_RouteFenceScanAndRingEvents :
    (let q := ins 31 3 0x40 [dense 0 1 64 64 3]
     let s := queued (conf (funded live) [recOf RT.ring 511 16 [(0, 0x10000), (4, 64), (8, 4), (10, 31)], recOf RT.route (16 * 31) 8 [(0, 1), (2, 511)]]) 4 q
     s.queue 31 4 = [q] ∧ s.canStart 31 4 = true ∧ s.tiers.ecc = [] ∧ s.rsendDests 31 q.word = [511] ∧ ringCfg s.img.cfg 511 = some ⟨0x10000, 64, 4, 31, 0, 0⟩ ∧ (s.descBytes 31 (dense 0 1 64 64 3)).1.length = 64) ∧
    (let q := ins 31 3 0x58 []
     let s := queued (funded live) 5 q
     s.queue 31 5 = [q] ∧ s.canStart 31 5 = true) ∧
    (let q := ins 31 3 0x20 [dense 0 16 16 64 3, dense 0 16 16 64 3, dense 4096 16 16 64 3]
     let s := queued (funded live) 0 q
     s.canPrescan 31 = true ∧ s.coreDead 31 = false ∧ s.scanned 31 = false) ∧
    (let s := { ringed 3 with seq := { (ringed 3).seq with slotFull := [(511, 1)] } }
     (ringCfg s.img.cfg (16 * 31 + 15)).isSome = true ∧ 0 < s.slotFull 511) := by decide +kernel

theorem witness_CompletedInstructionsCountOrStop :
    ∀ u ∈ [0, 1, 2, 3, 4, 5], ∀ code ∈ [Code.ok, Code.inexact, Code.memUncorrectable], let w := match u with | 0 => 0x20 | 1 => 0x30 | 2 => 0x08 | 3 => 0x0A | 4 => 0x40 | _ => 0x50
      let q := { ins 31 3 w [] with code := code }
      let s := { live with seq := { live.seq with running := [(8 * 31 + u, q)] } }
      (s.payOne (8 * 31 + u)).running 31 u = some q ∧ (s.payOne (8 * 31 + u)).unitDone u q = true ∧ (u = 5 → wOp q.word ≠ 0x58 ∧ (s.payOne (8 * 31 + u)).jstTail q = none) := by decide +kernel

/-- SCHEDULE with a step of 1 ms and a snapshot every step, in force. -/
def stepping (s : State) : State := conf s [recOf RT.schedule 0 24 [(0, 1000), (8, 10), (12, 1)]]

/-- A snapshot pause of boundary 7. -/
def paused (s : State) (a : Option Nat) (snap voided : Bool) : State := { s with pause := some ⟨snap, false, false, 7, a, voided, MState.serving, [], 0, []⟩ }

theorem witness_StepBoundariesPassOrBeginAPause :
    (let s := stepping live
     s.img.recs.isSome = true ∧ stepPeriod s.img.cfg ≠ 0 ∧ s.fb R.KPU_STATUS F.KPU_STATUS_replaying = false ∧ s.host.starts = [] ∧ s.time.offset = 0 ∧ s.pause = none ∧
      s.snapDue s.boundaryNo s.host.started = false ∧ s.img.pending = none ∧ snapSteps s.img.cfg ≠ 0 ∧ s.mstate ≠ MState.held ∧ s.kpu.lostAt = none ∧ hasKeep [recOf RT.keeping 0 64 []] = true) ∧
    (let s := put (stepping live) [(R.FJ_STATUS, F.FJ_STATUS_lease, 1), (R.FJ_LEASE, ⟨0, 64⟩, 1)]
     let t := { s with host := { s.host with started := true } }
     t.snapDue t.boundaryNo t.host.started = true ∧ t.mstate = MState.serving ∧ t.fg R.FJ_STATUS F.FJ_STATUS_lease = 1 ∧
      max t.rack (stepPhase t.img.cfg + t.boundaryNo * stepPeriod t.img.cfg) < (t.rd R.FJ_LEASE).toNat ∧ t.fb R.KPU_CTL F.KPU_CTL_suspend = false ∧ t.kpu.streaming = none) := by decide +kernel

theorem witness_PausesParkAndResume :
    (∀ snap : Bool, let s := paused live none snap false
      s.corePark 31 = true ∧ (List.range 32).all s.corePark = true ∧ s.tooDirty = false) ∧
    (let s := put (paused live none true false) [(ctxReg 0, F.SEQ_CTX_STATUS_state, 1)]
     s.corePark 31 = true ∧ (List.range 32).all s.corePark = false) ∧
    (∀ v : Bool, (paused live (some 0) true v).pauseBusy = false) ∧
    (let e : JEntry := ⟨0, 2, 0, 8, [], 0⟩
     ∀ r ∈ [[], [e]], let s := { live with kpu := { live.kpu with replay := some (e :: r) } }
      s.kpu.replay = some (e :: r) ∧ e.kind = 2 ∧ s.replayParked = true ∧ ∀ n ∈ r.head?, n.kind ≠ 3 ∧ n.kind ≠ 4) := by decide +kernel

theorem witness_CanariesJudgeTheArray :
    let s := { put live [(R.ARR_STATUS 7 3, F.ARR_STATUS_canary_pending, 1), (R.SEQ_STATUS 7 3, F.SEQ_STATUS_parked, 1)] with pause := some ⟨true, false, false, 7, some 0, false, MState.serving, [31], 0, []⟩ }
    (s.running 31 0).isNone = true ∧ s.canaryTime 31 = true ∧ State.reset.canaryTime 31 = true ∧ s.fb (R.ARR_ERR_STATUS 7 3) F.ARR_ERR_STATUS_valid = false := by decide +kernel

theorem witness_BudgetsRefillAndGate :
    let s := stepping live
    budgetPeriod s.img.cfg ≠ 0 ∧ s.seq.running = [] ∧ s.bud.debt = [] ∧ s.kpu.out = [] ∧ s.cle = [] ∧ s.time.offset = 0 ∧ 0 ∈ actList s.img.cfg ∧ 31 < resInstances 0 ∧
      (budWritten s.img.cfg (s.domStacks 31).length 0 0 31).1 ≠ 0 ∧ (put s [(R.BUD_STATUS, F.BUD_STATUS_gov_scale, 15)]).fg R.BUD_STATUS F.BUD_STATUS_gov_scale < 16 ∧
      actExists s.img.cfg 0 = true ∧ s.img.recs.isSome = true ∧ s.covers 0 0 31 (s.nextCharge 0 0 31) = false ∧ s.suspended 31 = false := by decide +kernel

/-- The image port in a load state. -/
def loading (n : Nat) : State := put State.reset [(R.IMG_STATUS, F.IMG_STATUS_load_state, n)]

/-- The state with a check running or a change waiting. -/
def checking (s : State) (r : CheckRun) (p : Option PendingSet) : State := { s with img := { s.img with run := r, pending := p } }

theorem witness_ImagePortFollowsItsLoadState :
    State.reset.hostOn 1 = true ∧ 1 ≠ State.reset.tokenPort ∧ 0 = State.reset.tokenPort ∧ (loading 0).loadState = 0 ∧ (loading 1).loadState = 1 ∧ (loading 2).loadState = 2 ∧
      (loading 1).img.run = .none ∧ (checking (loading 1) (.apply 2 0) none).img.run ≠ .none ∧ (loading 1).img.words.length + 4 ≤ imgRoom := by decide +kernel

theorem witness_CheckRunsDecideImages :
    (checking (loading 2) (.commit 0) none).img.run = .commit 0 ∧ (checking (loading 2) (.commit 0) none).img.kind = 0 ∧ live.mstate ≠ MState.ready ∧ live.inTest = false ∧ (conf live []).img.recs.isSome = true := by decide +kernel

theorem witness_ActiveSetChangesWaitOrEnd :
    (let c : CmdSt := ⟨4, 9, [], [], 0, [], false⟩
     let s := checking live (.apply 2 0) none
     let t := { s with host := { s.host with cmd := [(1, c)] } }
     t.img.run = .apply 2 0 ∧ tget t.host.cmd 1 = some c ∧ applySet (t.img.recs.getD []) t.img.overlays 0 = some []) ∧
    (let base := [recOf RT.routing 0 16 [(0, 1)]]
     ∀ first ∈ [none, some 0, some 9000000], let p : PendingSet := ⟨0, 0, false, first, 9000000, false, 0⟩
     let s := { live with img := { live.img with recs := some base, pending := some p } }
     s.img.pending = some p ∧ p.bankWritten = false ∧ applySet (s.img.recs.getD []) s.img.overlays p.set = some base ∧ typeChanged s.img.cfg base RT.routing = true ∧ s.effState ≠ MState.configured) ∧
    (let s := checking (inState MState.configured) (.recheck 2 0) (some ⟨2, 0, true, none, 0, false, 0⟩)
     s.img.run = .recheck 2 0 ∧ s.effState = MState.configured ∧ s.pause = none ∧ (List.range 32).all s.corePark = true ∧ (s.img.pending.map fun p => p.bankWritten) = some true) := by decide +kernel

/-- A host port with a command. -/
def commanded (s : State) (port : Nat) (c : CmdSt) : State := { s with host := { s.host with cmd := [(port, c)] } }

theorem witness_ActivityCommandsActAnswerOrOverrun :
    let busy := put live [(R.HP_CMD_STATUS 1, F.HP_CMD_STATUS_state, 1)]
    let s := put (conf live [recOf RT.activity 1 16 [], recOf RT.schedule 0 24 [(0, 1000), (12, 1)]]) [(R.ACT_STATE 1, F.ACT_STATE_state, 2), (R.TIME_STATUS, F.TIME_STATUS_acquired, 1), (R.HP_CMD_ARG 0 0, ⟨0, 64⟩, 2)]
    let args := (List.range 8).map (fun i => s.rd (R.HP_CMD_ARG 0 i))
    busy.hostOn 1 = true ∧ busy.cmdBusy 1 = true ∧ live.hostOn 1 = true ∧ live.cmdBusy 1 = false ∧ s.hostOn 0 = true ∧ s.cmdBusy 0 = false ∧ s.startCode 0 args = Code.ok ∧
      s.holderCheck 0 stopStates = Code.ok ∧ maskActs args = [1] ∧ s.actState 1 = 2 ∧ s.holderCheck 0 [MState.serving] = Code.ok ∧ snapSteps s.img.cfg ≠ 0 ∧ s.applyCode 0 args ≠ Code.ok ∧
      (put s [(ctxReg 0, F.SEQ_CTX_STATUS_activity, 1)]).hostOn 0 = true := by decide +kernel

theorem witness_DieResetClearsAndReloads :
    (let args := (List.range 8).map (fun i => (put (conf live []) [(R.HP_CMD_ARG 0 0, ⟨0, 64⟩, 7)]).rd (R.HP_CMD_ARG 0 i))
     (conf live []).Canon ∧ (conf live []).hostOn 0 = true ∧ (conf live []).cmdBusy 0 = false ∧ (put (conf live []) [(R.HP_CMD_ARG 0 0, ⟨0, 64⟩, 7)]).dieResetCode 0 args = Code.ok) ∧
    (let s := commanded (put live ((R.DIE_STATUS 7, F.DIE_STATUS_state, 3) :: (List.range 4).map fun c => (R.ARR_STATUS 7 c, F.ARR_STATUS_canary_passed, 1))) 1 ⟨6, 9, [7], [], 0, [], false⟩
     s.Canon ∧ s.dieState 7 = 3 ∧ (∀ c, c < 4 → s.canaryRan (4 * 7 + c) = true) ∧ tget s.host.cmd 1 = some ⟨6, 9, [7], [], 0, [], false⟩ ∧ s.hubDark 7 = false) := by decide +kernel

theorem witness_ModuleCommandsAndTheToken :
    let c : CmdSt := ⟨7, 9, [], [], 0, [], true⟩
    live.hostOn 1 = true ∧ live.cmdBusy 1 = false ∧ MState.firmware ≤ live.mstate ∧ live.mstate < 12 ∧ 1 ≠ live.tokenPort ∧ 0 = live.tokenPort ∧ (inState MState.ready).mstate = MState.ready ∧
      (inState MState.dumped).mstate = MState.dumped ∧ tget (commanded live 1 c).host.cmd 1 = some c ∧ (commanded live 1 c).hostUp 1 = true ∧ (live.pci 1).msix = true ∧ (live.pci 1).masked = false ∧
      tget ({ live with host := { live.host with nonce := [(1, ([], 0))] } } : State).host.nonce 1 = some ([], 0) ∧
      (put live [(R.HP_MSIX_TABLE 1 1, ⟨32, 1⟩, 0)]).msixMasked 1 0 = false := by decide +kernel

theorem witness_MappedAndRefusedAccesses :
    (let s := conf live [recOf RT.map 0 24 [(0, 2), (1, 3), (2, 2 ^ MState.serving), (4, 31), (16, 2 ^ 27)]]
     let t := { put s [(R.MAP_SEL 0, F.MAP_SEL_space, 2), (R.MAP_SEL 0, F.MAP_SEL_unit, 31), (R.MAP_ADDR 0, F.MAP_ADDR_offset, 2 ^ 21 - 1)] with
       bud := { live.bud with ctr := [(budKey 0 1 31, { BudCtr.zero with left := 9999 }), (budKey 0 0 31, { BudCtr.zero with left := 9999 }), (budKey 0 4 7, { BudCtr.zero with left := 9999 }), (budKey 0 5 7, { BudCtr.zero with left := 9999 })] } }
     let m := t.mapSel 0
     t.Canon ∧ t.hostOn 0 = true ∧ t.mapWaits 0 m.1 m.2.1 m.2.2 0 = false ∧ t.mapWaits 0 m.1 m.2.1 m.2.2 1 = false ∧ m.1 = 2 ∧ t.targetDead (mapTarget 2 m.2.1 m.2.2) = false ∧ t.tiers.ecc = [] ∧
      t.mapAllows 2 m.2.1 m.2.2 0 = true ∧ t.mapAllows 2 m.2.1 m.2.2 1 = true ∧ 0 = t.tokenPort ∧ 1 ≠ t.tokenPort) ∧
    (let t := put live [(R.MAP_SEL 1, F.MAP_SEL_space, 4)]
     let m := t.mapSel 1
     m.1 < 5 ∧ m.1 ≠ 3 ∧ t.mapAllows m.1 m.2.1 m.2.2 0 = false) ∧
    ({ live with fuses := { live.fuses with capability := 0 } } : State).absentAt 0x608000 = true ∧ 0x608000 < barEnd ∧ ¬((8 = 4 ∨ 8 = 8) ∧ 4 % 8 = 0) := by decide +kernel

/-- STREAM 4095 in to ring 15 of core 31, and STREAM 0 out. -/
def streaming (words : List (Word × Bool)) : State :=
  let s := conf live [recOf RT.ring 511 16 [(0, 0x10000), (4, 64), (8, 4), (10, 31)], recOf RT.stream 4095 28 [(2, 3), (4, 511)], recOf RT.stream 0 28 [(0, 1), (2, 3)]]
  { s with host := { s.host with staging := [(4095, words)] } }

theorem witness_StreamPortsTakeAndGiveWords :
    (let s := streaming [(5, true)]
     s.Canon ∧ s.hostUp 0 = true ∧ (streamCfg s.img.cfg 4095).isSome = true ∧ (streamCfg s.img.cfg 1).isSome = false ∧ 1 ≤ ((streamCfg s.img.cfg 4095).map fun c => s.streamCredit 4095 c).getD 0 ∧
      ((streamCfg s.img.cfg 0).map fun c => (c.output, bit c.hosts 0, s.chanOpen c.channel)) = some (true, true, true) ∧ s.plain 0 = [] ∧
      ((streamCfg s.img.cfg 4095).map fun c => (c.output, c.kind, c.channel, c.dest, bit c.hosts 1)) = some (false, 0, 0, 511, true) ∧ (ringCfg s.img.cfg 511).isSome = true ∧ s.inSnapshot = false ∧ (streamCfg s.img.cfg 4095).map (s.wordFalls 4095) = some true ∧
      s.fb R.KPU_STATUS F.KPU_STATUS_replaying = false ∧ s.kpu.full = false ∧ s.plain 4095 = [] ∧ s.staging 4095 = [(5, true)] ∧ s.ringFree 511 = true) ∧
    (let s := put live [(R.HP_MSIX_TABLE 1 127, ⟨32, 1⟩, 0)]
     let t := { s with host := { s.host with vecPending := [(127, 1)], modStart := [(127, 0)] } }
     t.host.vecPending = [(64 * 1 + 63, 1)] ∧ tget t.host.modStart (64 * 1 + 63) = some 0 ∧ (t.pci 1).msix = true ∧ (t.pci 1).masked = false ∧ t.msixMasked 1 63 = false ∧ t.hostUp 1 = true) := by decide +kernel

theorem witness_PortEventsResetTheirPort :
    let s : State := { live with host := { live.host with d3cold := [(1, true)] } }
    live.Canon ∧ tget s.host.d3cold 1 = some true ∧ live.power = 0 ∧ tgetD live.host.perstLow 1 false = false ∧ tgetD live.host.d3cold 1 false = false := by decide +kernel

theorem witness_LostDiesAreFenced :
    live.dieState 7 = 0 ∧ (put live [(R.DIE_STATUS 7, F.DIE_STATUS_state, 3)]).dieState 7 = 3 ∧ live.dieUp ((7 + 1) % 8) = true ∧ live.fg (R.DL_LINK_STATUS ((7 + 1) % 8) 2) F.DL_LINK_STATUS_width ≠ 3 ∧
      live.dieUp ((7 + 7) % 8) = true ∧ live.fg (R.DL_LINK_STATUS ((7 + 7) % 8) 1) F.DL_LINK_STATUS_width ≠ 3 := by decide +kernel

theorem witness_DieLinksKeepTheirLanes :
    live.dieUp 7 = true ∧ (∀ l ∈ [0, 1, 2, 3], live.fg (linkReg (regEnd (flitEnd 7 l))) F.DL_LINK_STATUS_width ≠ 3) ∧ (∀ g, g < 64 → live.grpState g ≠ 5) ∧ (∀ l ∈ [0, 1, 2], live.fg (R.DL_LINK_STATUS 7 l) F.DL_LINK_STATUS_width ≠ 3) ∧ 127 ∉ (live.link (endKey 7 0)).failed ∧ (inState MState.test).inTest = true ∧
      (inState MState.test).hostOn 1 = true ∧ 1023 ∉ (live.link (endKey 7 2)).failed ∧ (live.link (endKey 7 2)).logical 1023 = some 1023 ∧
      (let s := put live [(R.DL_LINK_STATUS 7 2, F.DL_LINK_STATUS_retraining, 1)]
       s.fb (R.DL_LINK_STATUS 7 2) F.DL_LINK_STATUS_retraining = true ∧ (s.link (endKey 7 2)).restoring = false ∧
        ({ s with links := [(endKey 7 2, { LinkSt.empty with restoring := true })] } : State).link (endKey 7 2) = { LinkSt.empty with restoring := true }) := by decide +kernel

theorem witness_LightLinesShowAndLock :
    bit ((put live [(R.SP_LIGHT 14, F.SP_LIGHT_line_ok, 0x8000)]).fg (R.SP_LIGHT (2 * 7)) F.SP_LIGHT_line_ok) 15 = true ∧ bit (live.fg (R.SP_LIGHT (2 * 7)) F.SP_LIGHT_line_ok) 15 = false := by decide +kernel

/-- Port 15 in a state. -/
def portIn (s : State) (n : Nat) : State := put s [(R.SP_STATUS 15, F.SP_STATUS_state, n)]

/-- Port 15 with its private state. -/
def portHas (s : State) (x : SpSt) : State := { s with sp := [(15, x)] }

theorem witness_PortsComeUpByTheirSteps :
    (∀ n, 2 ≤ n → n < 14 → (portIn live n).spState 15 = n) ∧ (8 ≤ 15) ∧ live.mstate < MState.faulted ∧ (portIn live 12).hostOn 0 = true ∧ 0 = (portIn live 12).tokenPort ∧
      (put (portIn live 12) [(R.SP_STATUS 15, F.SP_STATUS_attest_fails, 4)]).fg (R.SP_STATUS 15) F.SP_STATUS_attest_fails = 4 ∧
      (put live [(R.SP_STATUS 7, F.SP_STATUS_state, 13)]).dieUp 7 = true := by decide +kernel

theorem witness_PortsIdentifyAndAttest :
    let lattest := leBytes 16 (0x5441544C + 2 ^ 32)
    (∀ n, 4 ≤ n → n < 12 → (portIn live n).spState 15 = n) ∧ ([1] : Bytes) ≠ [] ∧ (({ SpSt.empty with msgIn := [1, 2] } : SpSt).msgIn.take 1 = [1]) ∧
      (let hello := leBytes 160 (0x4F4C4548 + 2 ^ 32)
       fieldAt hello 0 4 = 0x4F4C4548 ∧ fieldAt hello 4 2 = 1 ∧ hello.length = 160 ∧ (SpSt.empty).latIn = [] ∧ (portHas (portIn live 6) { SpSt.empty with msgIn := hello }).spS 15 = { SpSt.empty with msgIn := hello }) ∧
      (fieldAt lattest 0 4 = 0x5441544C ∧ fieldAt lattest 4 2 = 1 ∧ lattest.length = 16 + fieldAt lattest 8 4 + fieldAt lattest 12 4 ∧ ({ SpSt.empty with helloIn := [1] } : SpSt).helloIn ≠ []) ∧
      (let fin := leBytes 24 0x4E49464C
       fieldAt fin 0 4 = 0x4E49464C ∧ fin.length = 24 ∧ (portIn live 7).spState 15 = 7) := by decide +kernel

/-- A sealed 64-byte frame of zeros around, as a receiver without keys takes it. -/
def rawFrame (head body : Bytes) : Bytes := head ++ zeros 12 ++ leBytes 4 (crc32c (head ++ zeros 12 ++ body)) ++ body

theorem witness_SelvageLanesSetTheWidth :
    (∀ n, 3 ≤ n → n < 12 → (portIn live n).spState 15 = n) ∧ (portIn (inState MState.test) 8).inTest = true ∧ (portIn (inState MState.test) 8).hostOn 0 = true ∧ 0 = (portIn (inState MState.test) 8).tokenPort ∧
      ((portHas (portIn live 8) { SpSt.empty with order := some (0xFFFF, 5) }).spS 15).order = some (0xFFFF, 5) ∧
      (let s := paused (put (portIn live 8) [(R.SP_CTL 15, F.SP_CTL_restore, 1)]) (some 0) true false
       s.spUp 15 = true ∧ s.atPause = true ∧ s.fb (R.SP_CTL 15) F.SP_CTL_restore = true) ∧ (List.replicate 16 3).length = 16 ∧
      (portIn live 8).frameGood 15 ⟨rawFrame (zeros 48) (zeros 2240), 0, true, false⟩ = true ∧ (portIn live 8).frameGood 15 ⟨[], 0, true, false⟩ = false ∧ (SpFrame.again ⟨[], 0, true, false⟩) = false ∧
      ((portIn live 8).spS 15).rxSeq = fieldAt (rawFrame (zeros 48) (zeros 2240)) 0 3 % 2 ^ 20 := by decide +kernel

theorem witness_SelvageWatchdogsKeysAndGrants :
    (let h : XHead := ⟨40, 39, 15, 0, { blank with vc := 9, cls := 4 }, 0⟩
     let s := { portIn live 8 with fj := { live.fj with xq := [h] } }
     s.starving 15 9 = true ∧ (put s [(R.SP_CTL 15, F.SP_CTL_stall_limit, 1)]).fg (R.SP_CTL 15) F.SP_CTL_stall_limit ≠ 0) ∧
    ((portHas (portIn live 8) { SpSt.empty with keys := some ⟨[], [], [], [], 2 ^ 32, 0⟩ }).spS 15).keys = some ⟨[], [], [], [], 2 ^ 32, 0⟩ ∧ SpSt.empty.rekeyTx = none ∧
    (let x := (portHas (portIn live 8) { SpSt.empty with keys := some ⟨[], [], [], [], 2 ^ 32, 0⟩, rekeyTx := some 0 }).spS 15
     x.rekeyTx = some (x.txSeq % 2 ^ 20)) ∧
    (let h : XHead := ⟨40, 39, 15, 0, blank, 0⟩
     let b : BudState := { live.bud with ctr := [(budKey 0 4 78, { BudCtr.zero with left := 9999 }), (budKey 0 5 15, { BudCtr.zero with left := 9999 })] }
     let s : State := { portHas (portIn live 8) { SpSt.empty with credits := List.replicate 10 99 } with fj := { live.fj with xq := [h] }, bud := b }
     s.inHead 39 40 = some h ∧ s.xbarPick 39 = some 40 ∧ s.fb R.FJ_EPOCH F.FJ_EPOCH_draining = false) := by decide +kernel

/-- A key of 32 bytes. -/
def key1 : Bytes := List.replicate 32 5

/-- Activity 1 runs under job key 7; the lease key and the KEEP key are there; the keeping record names partner 0x41. -/
def fab : State :=
  let s := conf live [recOf RT.activity 1 16 [(2, 7)], recOf RT.keeping 0 64 [(0, 0x41), (5, 3)], recOf RT.group 63 32 [(4, 2 ^ 31)]]
  { s with store := { s.store with leaseKey := some key1 }, keys := { s.keys with job := [(7, key1)], keep := some key1 } }

/-- A packet from device 0x41 to this module. -/
def pkt (cls op chan act key addr : Nat) (data : Bytes) : Packet := ⟨fab.device, 0x41, cls, 2 * cls, 0, 0, false, false, false, chan, 1, op, act, key, data.length, 0, 0, addr, data, []⟩

/-- The packet as it travels under `key1`: encrypted data of the same length, and its tag. -/
def arriving (q : Packet) (data tag : Nat) : Packet := { q with data := leBytes q.len data, tag := leBytes 12 tag }

/-- The packet waits at port 15. -/
def arrived (s : State) (q : Packet) : State := { s with fj := { s.fj with rx := [(15, [q])] } }

/-- The packet that waits at port 15 reaches the hub. -/
def toHub15 (s : State) (q : Packet) : Option State := (s.takeRx 15 q).bind (fun t => t.toHub 15 q)

theorem witness_HomeIngressQueuesParksOrRefuses :
    ∀ op ∈ [FOp.store, FOp.load, 0x10, 0x1D], let q := pkt 1 op 3 1 7 (2 * 2 ^ 48 + 0x1000) (zeros 8)
      ((arrived fab q).takeRx 15 q).isSome = true ∧ q.dest = (arrived fab q).device ∧ (arrived fab q).ingressRoom q = true ∧ (arrived fab q).fb R.FJ_EPOCH F.FJ_EPOCH_draining = false ∧
        (op = FOp.store → op ≠ FOp.load ∧ isAtomic op = false) ∧ (op ≠ FOp.store → op = FOp.load ∨ isAtomic op = true) := by decide +kernel

/-- Activity 1 is covered on the crossbar's way from ports 14 and 15 to CD7. -/
def paid1 : BudState := { live.bud with ctr := [62, 77, 79].map fun i => (budKey 1 4 i, { BudCtr.zero with left := 9999 }) }

theorem witness_AppliedPacketsActOnTheirLine :
    let q := pkt 1 FOp.store 3 1 7 (2 * 2 ^ 48 + 31 * 2 ^ 27) (zeros 64)
    let a := pkt 1 0x10 3 1 7 (2 * 2 ^ 48 + 31 * 2 ^ 27) (zeros 8)
    (let s : State := { fab with bud := paid1, fj := { fab.fj with ingress := [(15, q)] } }
     s.Canon ∧ targetOf q.addr = .sram 31 0 ∧ s.fj.parked = [] ∧ s.tiers.ecc = [] ∧ s.lineHead (lineOf q) = some (15, q) ∧
      s.fj.ingress.filter (fun f => lineOf f.2 = lineOf q) = [(15, q)] ∧ s.targetDead (targetOf q.addr) = false ∧ s.accHeld (targetOf q.addr) (reqBytes q) = false ∧
      s.fb R.FJ_EPOCH F.FJ_EPOCH_draining = false ∧ s.waysOpen 15 q = true) ∧
    (let s : State := { fab with bud := paid1, fj := { fab.fj with ingress := [(15, q), (14, q)] } }
     s.waysOpen 14 q = true ∧ fullLine q = true ∧ q.flagged = false) ∧
    (let s : State := { fab with bud := paid1, fj := { fab.fj with ingress := [(15, a), (14, a)] } }
     s.waysOpen 15 a = true ∧ s.waysOpen 14 a = true ∧ combines a a = true) := by decide +kernel

/-- What core 31 sent and waits for. -/
def waiting (op : Nat) : Sent := ⟨31, 1, 0, { pkt 1 op 3 1 7 0 [] with dest := 0x41, src := fab.device }, 1⟩

/-- The load that waits for its data. -/
def loadOut (op : Nat) : Load := ⟨31, 1, 1, [(64, 8)], 0x41, 3, 1, op, 0⟩

theorem witness_AnswersCompleteTheirPackets :
    (let q := (arriving (pkt 2 FOp.nack 3 1 7 0 (zeros 8)) 0xb554b627b0506e24 0x8025c1b82896762f12d107cb)
     let s := arrived { fab with bud := paid1, fj := { fab.fj with sent := [waiting FOp.store] } } q
     s.Canon ∧ ((s.takeRx 15 q).bind (fun u => u.rspCross 15 q)).isSome = true ∧ q.cls = 2 ∧ q.dest = s.device ∧ s.fb R.FJ_EPOCH F.FJ_EPOCH_draining = false ∧ s.nackedSent q = some (waiting FOp.store) ∧ s.fj.loads = [] ∧
      (s.openRsp q (waiting FOp.store).xseq).isSome = true ∧ s.rspBad q = none) ∧
    (let q := { pkt 2 FOp.ack 3 1 7 0 [] with tag := zeros 12 }
     let s := arrived { fab with fj := { fab.fj with sent := [waiting FOp.store] } } q
     s.sentOf q = some (waiting FOp.store) ∧ s.openRsp q 1 = none ∧ (arrived fab q).sentOf q = none) ∧
    (let q := (arriving (pkt 2 FOp.atomicRsp 3 1 7 0 (zeros 8)) 0x9b869d428f8e6d9e 0x30dd88358d100ba63f1c6123)
     let s := arrived { fab with bud := paid1, fj := { fab.fj with sent := [waiting 0x18], loads := [loadOut 0x18] } } q
     s.sentOf q = some (waiting 0x18) ∧ (s.openRsp q 1).map (fun o => o.data.length) = some 8 ∧ s.rspBad q = none ∧ ((s.takeRx 15 q).bind (fun u => u.rspCross 15 q)).isSome = true ∧ s.loadOf q = some (loadOut 0x18)) ∧
    (let q := (arriving (pkt 2 FOp.loadRsp 3 1 7 0 (zeros 8)) 0xb77baebf9a725f5f 0xf1a7c227c3d418a371f71601)
     let s := arrived { fab with bud := paid1, fj := { fab.fj with loads := [loadOut FOp.load], xseq := [(numKey 1 0x41 3, 1)] } } q
     s.loadOf q = some (loadOut FOp.load) ∧ (s.openRsp q (s.loadXseq (loadOut FOp.load))).map (fun o => o.data.length) = some 8 ∧ s.rspBad q = none ∧ ((s.takeRx 15 q).bind (fun u => u.rspCross 15 q)).isSome = true) := by decide +kernel

theorem witness_FabricTimersExpire :
    (let s : State := { fab with fj := { fab.fj with parked := [(15, blank, 5)], sent := [waiting FOp.store], loads := [loadOut FOp.load], retry := [(waiting FOp.store, 9)] } }
     s.fj.parked[0]? = some (15, blank, 5) ∧ s.oldest 31 0x41 3 = some 0 ∧ (s.pair (pairKey 31 0x41 3)).lost = false ∧ s.fj.loads[0]? = some (loadOut FOp.load) ∧
      s.fj.retry[0]? = some (waiting FOp.store, 9) ∧ s.fj.sent.contains (waiting FOp.store) = true ∧ s.fjStill = false ∧ s.keyOf (waiting FOp.store).pkt.key = some key1) := by decide +kernel

theorem witness_TransitDrainMarkersAndLeases :
    (let q := { pkt 1 FOp.store 3 1 7 0 [] with dest := 0x99 }
     ((arrived fab q).takeRx 15 q).isSome = true ∧ q.dest ≠ (arrived fab q).device ∧ q.op ≠ FOp.drain) ∧
    (let q := { pkt 4 FOp.drain 0 0 0 0 [] with vc := 9, epoch := 1 }
     ((arrived fab q).rx 15).find? (fun x => x.vc = 9) = some q ∧ q.op = FOp.drain ∧ q.epoch = 1 ∧ badHead q = false) ∧
    (let q := (arriving (pkt 0 FOp.lease 0 0 0 0 (leBytes 16 0 ++ leBytes 8 1 ++ leBytes 8 1 ++ leBytes 8 1000 ++ leBytes 8 0)) 0xa91a7270295713f373f8608d06a5717f8e7379e86b7b2867f03c12bb5a3847aed38c65fba15b0e08eecc019f25f3ed 0x5ed0840832e266c07cdd39f1)
     let s := arrived fab q
     (toHub15 s q).isSome = true ∧ q.cls = 0 ∧ q.op = FOp.lease ∧ q.dest = s.device ∧ (toHub15 s q).map (fun u => (u.inspect q).1) = some Code.ok ∧ q.key = 0 ∧
      (toHub15 s q).map (fun u => s.leaseOk (u.inspect q).2.1.data) = some true) ∧
    (put live [(R.FJ_STATUS, F.FJ_STATUS_lease, 1)]).fg R.FJ_STATUS F.FJ_STATUS_lease = 1 := by decide +kernel

theorem witness_FabricManagerMessages :
    let q := (arriving (pkt 0 FOp.mgmt 0 0 0 1 (zeros 8)) 0x9475ad8f15de3520 0xcff07f73ad601e451fbee998)
     let s := arrived fab q
     (toHub15 s q).isSome = true ∧ q.cls = 0 ∧ q.dest = s.device ∧ (toHub15 s q).map (fun u => (u.inspect q).1) = some Code.ok ∧ mgmtKind q = 1 := by decide +kernel

theorem witness_JobKeysAreExchanged :
    (let q := (arriving (pkt 0 FOp.mgmt 0 0 0 0x14 (zeros 8)) 0x9475ad8f15de3520 0x56dddd3553ebe2952c41f768)
     let s := arrived fab q
     (toHub15 s q).isSome = true ∧ q.cls = 0 ∧ q.op = FOp.mgmt ∧ q.dest = s.device ∧ (toHub15 s q).map (fun u => (u.inspect q).1) = some Code.ok ∧ mgmtKind q = 0x14) ∧
    tget ({ fab with keys := { fab.keys with fetch := [(7, 0x41, 0, 0, 0)] } } : State).keys.fetch 7 = some (0x41, 0, 0, 0) := by decide +kernel

theorem witness_KeepPacketsOfPartnerAndWard :
    (let q := (arriving (pkt 4 FOp.keep 0xF0 0 0xFFFF (KKind.resync * 2 ^ 56) (zeros 8)) 0xb4b310e25a08cdde 0x519fa95324339c295fab4a05)
     let s := arrived fab q
     (toHub15 s q).isSome = true ∧ q.cls = 4 ∧ q.dest = s.device ∧ (toHub15 s q).map (fun u => (u.inspect q).1) = some Code.ok ∧ s.fj.parked = [] ∧
      q.flagged = false ∧ s.ripening q = none ∧ s.recovering q = none ∧ s.keepOpen q = true ∧ keepKind q = KKind.resync ∧ s.kpu.out = [] ∧
      s.keepCan ⟨q.src, KKind.pairReply, 0, 0xF1, 0, false, false, [], none⟩ = true) ∧ fab.keepCan ⟨keepPartner fab.img.cfg, KKind.pair, 0, 0xF1, 0, false, false, [], none⟩ = true ∧
    fab.img.recs.isSome = true ∧ keepPartner fab.img.cfg ≠ 0xFFFF ∧ fab.pairState ≠ 2 ∧ fab.inTest = false ∧ MState.configured ≤ fab.mstate ∧ fab.mstate ≤ MState.held ∧ fab.keys.keep.isSome = true := by decide +kernel

theorem witness_ParityChainsAndRipening :
    (let q := (arriving (pkt 4 FOp.keep 0xF0 0 0xFFFF (KKind.fetch * 2 ^ 56) (leBytes 16 (2 ^ 64))) 0xa41ce48a4357b264b4b310e25a08cdde 0xe9a4e9490fcc5f96d5c15cec)
     let s := arrived { fab with kpu := { fab.kpu with ward := some ⟨0x41, 0, 0, 4096, [], 0, 0, 0⟩ } } q
     (toHub15 s q).isSome = true ∧ (toHub15 s q).map (fun u => (u.inspect q).1) = some Code.ok ∧ s.fj.parked = [] ∧ q.flagged = false ∧ s.ripening q = none ∧ s.recovering q = none ∧ s.keepOpen q = true ∧ s.kpu.out = [] ∧ s.keepCan ⟨q.src, KKind.journal, 0, 0xF3, 0, false, false, [], none⟩ = true ∧
      (∀ dev ∈ [0x41, 0x42], s.keepCan ⟨dev, KKind.rebuild, 0, 0xF3, 0, false, false, [], none⟩ = true) ∧ s.unanswered 4 q.src 0xF3 + 2 ≤ 2 ^ 22 ∧ s.eruPresent = true ∧ 3 ≤ keepG s.img.cfg ∧
      keepKind q = KKind.fetch ∧ s.deltasOut = false ∧ s.thirdLoss = false ∧ (toHub15 s q).map (fun u => fieldAt (u.inspect q).2.1.data 8 1) = some 1 ∧ s.keys.keep.isSome = true) ∧
    (let r : Ripen := ⟨0, 0, 0, [], [], [], [], false⟩
     let s : State := { put live [(R.KPU_STATUS, F.KPU_STATUS_spare_state, 1)] with kpu := { live.kpu with ripen := some r } }
     s.kpu.ripen = some r ∧ s.fg R.KPU_STATUS F.KPU_STATUS_spare_state = 1 ∧ r.want = []) := by decide +kernel

theorem witness_CollectiveCallsCommitOrAbort :
    (let q := (arriving (pkt 3 FOp.coll 0 1 7 0 (leBytes 32 (63 + 5 * 256 + 5 * 2 ^ 32))) 0xcefd6b880a94e06b7c74f014b7d87c7eb9a90477b31319de10782859ae700f56 0x898d47a660a8e4506e9c8049)
     let s := { arrived fab q with bud := { fab.bud with ctr := [(budKey 1 6 0, { BudCtr.zero with left := 9 })] } }
     (s.group 63).isSome = true ∧ (toHub15 s q).isSome = true ∧ (toHub15 s q).map (fun u => (u.inspect q).1) = some Code.ok ∧
      (toHub15 s q).map (fun u => (fieldAt (u.inspect q).2.1.data 0 1, fieldAt (u.inspect q).2.1.data 1 1)) = some (63, 5) ∧ (s.grp 63).out = [] ∧ q.op = FOp.coll ∧ q.dest = s.device ∧ s.covers (s.collAct q) 6 0 1 = true ∧ (s.grp 63).undo = none ∧
      (s.group 63).map (fun r => s.collFalls r ⟨0, 0, 0, 0, false, 1, 0⟩) = some true ∧ (s.group 63).map grpRank = some 0) ∧
    (let d : CallDesc := ⟨0, 0, 0, 0, false, 1, 0⟩
     let r := recOf RT.group 63 32 [(0, 2), (2, 1), (4, 2 ^ 31)]
     let s : State := { put (conf live [r]) [(R.CLE_GRP 63, F.CLE_GRP_state, 6)] with
       cle := [(63, { CleGrp.empty with undo := some ⟨0, d, [], false, []⟩ })], seq := { live.seq with running := [(8 * 31 + 6, ins 31 3 (0x60 + 63 * 2 ^ 16) [])] } }
     s.group 63 = some r ∧ grpRank r ≠ 0 ∧ (s.grp 63).undo = some ⟨0, d, [], false, []⟩ ∧ s.grpState 63 = 6 ∧ s.collFalls r d = true ∧ grpCores r = [31] ∧
      (s.running 31 6).map (fun x => bits x.word 16 6) = some 63) ∧
    (let d : CallDesc := ⟨0, 0, 0, 0, false, 1, 0⟩
     ∀ st ∈ [1, 2, 4, 5], let s : State := { put fab [(R.CLE_GRP 63, F.CLE_GRP_state, st), (R.CLE_GRP 63, F.CLE_GRP_call, 5)] with cle := [(63, { CleGrp.empty with desc := some d, sent := true })] }
      (s.grp 63).desc = some d ∧ s.grpBusy 63 = true ∧ s.grpState 63 = st ∧ s.grpCall 63 = 5 ∧ (s.grp 63).sent = true ∧ s.grpHeld 63 = false) := by decide +kernel

/-- The module with the power state. -/
def powered (s : State) (n : Nat) : State := { s with power := n }

theorem witness_ModuleStartsLoseTheVolatileState :
    live.TwoSlots ∧ ({ live with host := { live.host with resetAt := some 5 } } : State).host.resetAt = some 5 ∧ live.power = 0 ∧ (∀ n, n < 6 → (powered live n).power = n) ∧
      ({ live with pins := { live.pins with inputOk := false } } : State).pins.inputOk = false ∧ ({ live with mgt := { live.mgt with restartAt := some 5 } } : State).mgt.restartAt = some 5 ∧
      ({ live with fw := { live.fw with trial := some 5 } } : State).fw.trial = some 5 := by
  refine ⟨⟨by decide +kernel, fun n h => by cases h⟩, ?_⟩
  decide +kernel

theorem witness_SuppliesAndStraps : live.pins.inputOk = true ∧ (379 < 380 ∨ 620 < 379) ∧ live.power ≠ 1 ∧ live.power ≠ 3 ∧ (63 ≠ live.pins.slotId ∨ 0 ≠ live.pins.rackId ∨ 0 ≠ live.pins.feedId) := by decide +kernel

theorem witness_FatalErrorsFaultAndDump :
    live.power = 0 ∧ (live.img.cfg = [] ∧ ((List.range 5).map (fun i => (recOf RT.memplan 0 80 [(64, 1)]).at (64 + 2 * i) 2)).sum * 2 ^ 20 ≤ 2 ^ 28 - 1) ∧
      (let s : State := { inState MState.faulted with mgt := { live.mgt with dump := some ⟨3, 1, true, 0, false⟩ } }
       s.mgt.dump = some ⟨3, 1, true, 0, false⟩ ∧ s.mstate = MState.faulted) := by decide +kernel

theorem witness_BootEndsReadyTrippedOrStopped :
    (let s : State := { State.reset with fuses := { State.reset.fuses with capability := 0 } }
     s.power = 0 ∧ s.mgt.stopped = false ∧ (s.mstate = MState.rennet ∨ s.mstate = MState.firmware) ∧ s.fuses.capability ≠ capabilityOf s.fuses.part) ∧
    (let s : State := { State.reset with store := { State.reset.store with tripPending := true } }
     s.mstate ≤ MState.firmware ∧ s.fuses.capability = capabilityOf s.fuses.part ∧ s.storeBad = false ∧ s.mgt.stopped = false ∧ s.store.tripPending = true) ∧
    (let s := put State.reset ((List.range 32).map fun c => (R.ARR_STATUS (c / 4) (c % 4), F.ARR_STATUS_canary_passed, 1))
     s.booting = true ∧ s.storeBad = false ∧ ∀ c, c < 32 → s.canaryRan c = true) := by decide +kernel

/-- The module with its management state. -/
def managed (m : MgtState) : State := { live with mgt := m }

theorem witness_SamplesFilterFailTripAndHeat :
    live.power ≠ 1 ∧ live.power ≠ 3 ∧ live.sensorPresent 419 = true ∧ ([(419, 0x0500)] : List (Nat × Nat)).find? (fun x => x.1 = 419) = some (419, 0x0500) ∧
      (managed { live.mgt with sens := [(419, { Sensor.empty with cause := 1 })] }).sensor 419 = { Sensor.empty with cause := 1 } ∧ tripLimit 407 = some 110 ∧
      (managed { live.mgt with sens := [(0, { Sensor.empty with hits := 2 })] }).sensor 0 = { Sensor.empty with hits := 2 } ∧ 16 * (110 : Int) ≤ sint 16 1760 ∧ outOfRangeTemp (sint 16 1760) = false ∧
      outOfRangeTemp (sint 16 2401) = true ∧ live.power = 0 ∧ MState.firmware ≤ live.mstate ∧ live.stackPresent 23 = true ∧
      live.fb (R.FMC_STK_STATUS 23) F.FMC_STK_STATUS_refresh_x2 = false := by decide +kernel

theorem witness_CooledLocationsStepBack :
    (∀ k ∈ [1000 + 319, 1320 + 46, 40 * 7, 320 + 46, 368 + 30, 400], tget (managed { live.mgt with cool := [(k, 5)] }).mgt.cool k = some 5) ∧ 24 ≤ 319 % 40 ∧ live.dieUp (1023 / 128) = true := by decide +kernel

theorem witness_TripAcksAlertsAndTheGovernor :
    live.hostOn 0 = true ∧ 0 = live.tokenPort ∧ live.power = 0 ∧ live.mgt.alertAt = none ∧ (managed { live.mgt with alertAt := some 5 }).mgt.alertAt = some 5 ∧
      (managed { live.mgt with alertOff := some 5 }).mgt.alertOff = some 5 ∧ (managed { live.mgt with checks := 9 }).mgt.checks < 10 ∧ live.time.offset = 0 ∧
      live.fg R.BUD_STATUS F.BUD_STATUS_gov_scale ≤ 16 := by decide +kernel

theorem witness_RackTimeFollowsItsTicks :
    let s : State := { live with time := { live.time with lastTick := some 7 } }
    s.power = 0 ∧ s.time.lost = false ∧ s.time.lastTick = some 7 ∧ s.now ≤ 7 + 40 * 24750 ∧ ({ live with time := { live.time with lost := true } } : State).time.lost = true ∧
      MState.rennet < live.mstate ∧ s.fb R.CLK_STATUS F.CLK_STATUS_tclk_holdover = false ∧ (put live [(R.TIME_STATUS, F.TIME_STATUS_slewing, 1)]).fb R.TIME_STATUS F.TIME_STATUS_slewing = true ∧
      (portIn live 8).spUp (12 + 3) = true := by decide +kernel

theorem witness_TiersCopyScrubAndMeasure :
    live.stackPresent 23 = true ∧ (let s := put live [(R.FMC_STK_STATUS 23, F.FMC_STK_STATUS_retire_state, 2), (R.FMC_STK_STATUS 23, F.FMC_STK_STATUS_retired_ch, 31)]
      s.Canon ∧ s.fg (R.FMC_STK_STATUS 23) F.FMC_STK_STATUS_retire_state = 2) ∧ 2 ^ 28 - 1 < tierLimit 3 ∧ live.scrubOff 3 (2 ^ 28 - 1) = false ∧ live.img.recs = none ∧
      (let s : State := { live with tiers := { live.tiers with ecc := [(scrubWord 0 (2 ^ 32 - 1), 1)] } }
       s.eccIn (scrubWord 0 (2 ^ 32 - 1)) (scrubWord 0 (2 ^ 32 - 1) + 1) = [(scrubWord 0 (2 ^ 32 - 1), 1)] ∧ 31 = (2 ^ 32 - 1) / 2 ^ 27) ∧
      (let s := put (inState MState.test) [(R.FMC_MARGIN_CTL, F.FMC_MARGIN_CTL_granules, 1)]
       s.hostOn 0 = true ∧ s.marginCode = Code.ok) ∧ ({ live with tiers := { live.tiers with marginRun := some 9 } } : State).tiers.marginRun = some 9 := by decide +kernel

/-- SIGNAL 63: mode 0 to ring 15 of core 31, or mode 1 to output port 9, with frames of the channel's words waiting at port 8. -/
def signal (mode : Nat) : State :=
  let s := conf live [recOf RT.signal 63 32 [(0, mode), (1, 0), (2, if mode = 1 then 9 else 8), (4, 4), (6, 1), (7, 1), (8, 31), (9, 15)], recOf RT.signal 64 64 [], recOf RT.ring 511 16 [(0, 0x10000), (4, 4096), (8, 4), (10, 31)],
    recOf RT.stream 9 28 [(0, 1), (2, 3)]]
  { s with host := { s.host with sguIn := [(if mode = 1 then 9 else 8, BitVec.ofNat 64 (if mode = 1 then 320 * 2 ^ 16 else 160 * 2 ^ 16) :: List.replicate 80 0)] } }

theorem witness_SguFramesReachRingAndPort :
    (∀ mode ∈ [0, 1], let s := signal mode
      s.Canon ∧ (s.sguChan 63).isSome = true ∧ (findRec s.img.cfg RT.signal 64).isSome = true ∧ (s.sguChan 63).map (fun r => r.at 0 1) = some mode ∧ s.sguTurn 63 = true ∧ (s.sguChan 63).map s.sguBad = some false) ∧
    (let s := signal 0
     s.ringFree 511 = true ∧ (ringCfg s.img.cfg 511).isSome = true ∧ (conf s (s.img.cfg.map fun r => if r.type = RT.signal then { r with body := r.body.set 4 0 } else r)).sguTurn 63 = true ∧
      ((conf s (s.img.cfg.map fun r => if r.type = RT.signal then { r with body := r.body.set 4 0 } else r)).sguChan 63).map s.sguBad = some true) ∧
    (let s := signal 1
     s.plain 9 = [] ∧ (s.staging 9).length < stagingRoom ∧ (streamCfg s.img.cfg 9).map (fun g => tget s.rind.chans g.channel) = some none) := by decide +kernel

/-- Hauno core 15, enabled for activity 0, may read and write all of core 31's SRAM and signal it. -/
def hauno : State := { put (conf live [recOf RT.hauno 15 64 [(0, 1), (2, 1), (8, 2), (9, 3), (10, 31), (24, 2 ^ 27)], recOf RT.memplan 0 80 [(64, 1)]]) [(R.RIND_STATUS, F.RIND_STATUS_owned, 1)] with
  mgt := { live.mgt with haunoUp := true }
  bud := { live.bud with ctr := [56, 57].map (fun i => (budKey 0 4 i, { BudCtr.zero with left := 9 })) } }

theorem witness_HaunoAccessesAndLocalEvents :
    hauno.Canon ∧ (hauno.haunoRec 15).isSome = true ∧ targetOf (2 * 2 ^ 48 + 31 * 2 ^ 27) = .sram 31 0 ∧ hauno.tiers.ecc = [] ∧ (hauno.haunoRec 15).map (fun r => (hauno.haunoBad r (.sram 31 0) 8 true, hauno.haunoWaits r (.sram 31 0) 8 true)) = some (false, false) ∧ haunoGrants hauno.img.cfg 15 31 1 = true ∧
      (hauno.haunoRec 15).map (fun r => hauno.haunoBad r (.sram 30 0) 8 true) = some true ∧
      (let s := put hauno [(R.HLC_TIMER 15, ⟨0, 64⟩, 9), (R.TIME_STATUS, F.TIME_STATUS_acquired, 1)]
       s.rd (R.HLC_TIMER 15) ≠ 0 ∧ s.fb R.TIME_STATUS F.TIME_STATUS_acquired = true ∧ tget s.time.timers 15 ≠ some (s.rd (R.HLC_TIMER 15)).toNat) := by decide +kernel

/-- The mailbox of port 0 in a state, with a message of type `ty` first in the Rind's order. -/
def mailed (m st ty : Nat) (body : Bytes) : State :=
  let s := put (inState m) [(R.RIND_MBOX_STATUS 0, F.RIND_MBOX_STATUS_state, st)]
  { s with rind := { s.rind with order := [0], mbox := [(0, ⟨wordsOf (leBytes 16 (ty + 2 ^ 16 + (16 + body.length) * 2 ^ 32) ++ body), []⟩)] } }

theorem witness_MailboxExchangesMessages :
    (∀ st, st < 4 → (mailed 5 st 1 []).mboxState 0 = st) ∧ (mailed 5 2 1 []).hostOn 0 = true ∧ (mailed 5 2 1 []).power = 0 ∧ (mailed 5 2 1 []).rind.order.head? = some 0 ∧
      (mailed 5 2 1 []).mboxOk 0 = false := by decide +kernel

theorem witness_RindMessagesAnswerAndAct :
    (∀ x ∈ [(1, MState.ready, 48), (2, MState.ready, 216), (3, MState.ready, 136), (4, MState.ready, 288), (6, MState.serving, 24), (7, MState.serving, 8), (8, MState.ready, 216), (9, MState.ready, 8), (5, MState.serving, 456), (10, MState.ready, 16), (11, MState.ready, 0)],
      let s := mailed x.2.1 2 x.1 (zeros x.2.2)
      s.power = 0 ∧ s.rind.order.head? = some 0 ∧ s.mboxType 0 = x.1 ∧ s.mboxOk 0 = true ∧ s.mboxPermits 0 x.1 = true) ∧
    (mailed MState.rennet 2 9 (zeros 8)).mboxPermits 0 9 = false := by decide +kernel

theorem witness_TrayControllerAndJtagAnswer : live.power ≠ 1 ∧ live.power ≠ 3 ∧ live.mgt.stopped = false ∧ (put live [(R.RIND_STATUS, F.RIND_STATUS_jtag_open, 1)]).fb R.RIND_STATUS F.RIND_STATUS_jtag_open = true ∧
    live.fb R.RIND_STATUS F.RIND_STATUS_jtag_open = false := by decide +kernel

theorem witness_EveryStepKeepsTheInvariant : State.reset.Kept ∧ (step State.reset matches .next _) = true :=
  ⟨⟨by decide +kernel, ⟨by decide +kernel, fun n h => by cases h⟩, by decide +kernel⟩, by decide +kernel⟩

theorem witness_CommandsChangeOnlyTheirParts : exec (.seqClearStall 0 31) State.reset matches .next _ ∧ ∀ p ∈ [Machine.Part.mem, .far, .stamps, .boot], p ∉ frameOf (.seqClearStall 0 31) := by decide +kernel

theorem witness_RetiredGranulesAreServedByTheOtherChannels :
    let s := put live [(R.FMC_STK_STATUS 23, F.FMC_STK_STATUS_retire_state, 4), (R.FMC_STK_STATUS 23, F.FMC_STK_STATUS_retired_ch, 31)]
    s.fg (R.FMC_STK_STATUS 23) F.FMC_STK_STATUS_retire_state = 4 ∧ s.fg (R.FMC_STK_STATUS 23) F.FMC_STK_STATUS_retired_ch = 31 := by decide +kernel

theorem witness_StepRunsTheFrontCommand : State.reset.time.offset = 0 := by decide +kernel

theorem witness_SubByteElementsArePackedLittleEndian : 1 < ([1, 2, 3].length + 1) / 2 ∧ 3 < 4 ∧ 4 * 0 + 3 < [1, 2, 3, 4].length ∧ 0x14 ∈ [0x06, 0x07, 0x14] ∧ 2 * 1 + 1 < 4 ∧ 0x13 ∈ [0x04, 0x05, 0x12, 0x13] := by decide

end Tests
end Sys2Proof
end

section
/-!
The packing of sub-byte elements (R82) and the 4-bit mode (R83). A byte string and a list of packed elements are both
read as the digits of one number: the bytes to base 256, the elements to base 2^b. Every claim about the place of an
element is then about one bit field (`bits`) of that number.
-/
namespace Sys2Proof
namespace Machine
set_option Elab.async false

/-! ### Numbers by their digits, bit fields of bit fields -/

/-- Digit `i` of a number given by its digits, zero past the last. -/
theorem ofDigits_digit {p : Nat} (hp : 0 < p) {L : List Nat} (h : ∀ d ∈ L, d < p) (i : Nat) :
    Nat.ofDigits p L / p ^ i % p = L.getD i 0 := by
  rw [Nat.ofDigits_div_pow_eq_ofDigits_drop i hp L h, Nat.ofDigits_mod_eq_head!, List.head!_eq_head?_getD,
    List.head?_drop, ← List.getD_eq_getElem?_getD, show (default : Nat) = 0 from rfl]
  by_cases hi : i < L.length
  · rw [List.getD_eq_getElem _ _ hi]
    exact Nat.mod_eq_of_lt (h _ (List.getElem_mem hi))
  · rw [List.getD_eq_default _ _ (Nat.le_of_not_lt hi), Nat.zero_mod]

/-- A field inside a field is the field of the number at the sum of the two places. -/
theorem bits_bits {a v w : Nat} (h : a + v ≤ w) (x lo : Nat) : bits (bits x lo w) a v = bits x (lo + a) v := by
  refine Nat.eq_of_testBit_eq fun i => ?_
  simp only [testBit_bits]
  by_cases hi : i < v
  · simp [hi, show a + i < w by omega, Nat.add_assoc]
  · simp [hi]

/-! ### Byte strings as numbers -/

theorem leNat_eq_ofDigits (bs : Bytes) : leNat bs = Nat.ofDigits 256 (bs.map BitVec.toNat) := by
  induction bs with
  | nil => rfl
  | cons b bs ih => rw [leNat, ih, List.map_cons, Nat.ofDigits_cons]

theorem mem_map_toNat_lt {bs : Bytes} : ∀ d ∈ bs.map BitVec.toNat, d < 256 := by
  intro d hd
  obtain ⟨b, -, rfl⟩ := List.mem_map.1 hd
  exact b.isLt

/-- A byte of a string is 8 bits of its number. -/
theorem toNat_getD_eq_bits (bs : Bytes) (j : Nat) : (bs.getD j 0).toNat = bits (leNat bs) (8 * j) 8 := by
  have h := ofDigits_digit (by decide) (mem_map_toNat_lt (bs := bs)) j
  rw [← leNat_eq_ofDigits, show (0 : Nat) = (0 : Byte).toNat from rfl, List.getD_map] at h
  rw [bits, Nat.pow_mul]
  exact h.symm

/-- A run of bytes of a string is a bit field of its number. -/
theorem leNat_take_drop (bs : Bytes) (k n : Nat) : leNat ((bs.drop k).take n) = bits (leNat bs) (8 * k) (8 * n) := by
  have hd : ∀ d ∈ (bs.map BitVec.toNat).drop k, d < 256 := fun d hd => mem_map_toNat_lt d (List.mem_of_mem_drop hd)
  rw [bits, Nat.pow_mul, Nat.pow_mul, leNat_eq_ofDigits, leNat_eq_ofDigits, List.map_take, List.map_drop,
    Nat.ofDigits_div_pow_eq_ofDigits_drop k (by decide) _ mem_map_toNat_lt,
    Nat.ofDigits_mod_pow_eq_ofDigits_take n (by decide) _ hd]

/-- Four bits of a byte are element 2j, the other four element 2j + 1. -/
theorem nibbles_of_byte (bs : Bytes) (j : Nat) :
    (bs.getD j 0).toNat % 16 = bits (leNat bs) (2 * j * 4) 4 ∧ (bs.getD j 0).toNat / 16 = bits (leNat bs) ((2 * j + 1) * 4) 4 := by
  have hlow : bits (bs.getD j 0).toNat 0 4 = bits (leNat bs) (2 * j * 4) 4 := by
    rw [toNat_getD_eq_bits, bits_bits (by decide)]
    congr 1; omega
  have hhigh : bits (bs.getD j 0).toNat 4 4 = bits (leNat bs) ((2 * j + 1) * 4) 4 := by
    rw [toNat_getD_eq_bits, bits_bits (by decide)]
    congr 1; omega
  have hlt : (bs.getD j 0).toNat < 256 := (bs.getD j 0).isLt
  rw [← hlow, ← hhigh, bits, bits]
  omega

/-- Six bits of a 3-byte group are one element of the four it holds. -/
theorem sextet_of_group (bs : Bytes) (g : Nat) {i : Nat} (hi : i < 4) :
    leNat ((bs.drop (3 * g)).take 3) / 2 ^ (6 * i) % 64 = bits (leNat bs) ((4 * g + i) * 6) 6 := by
  have h : bits (leNat ((bs.drop (3 * g)).take 3)) (6 * i) 6 = bits (leNat bs) ((4 * g + i) * 6) 6 := by
    rw [leNat_take_drop, bits_bits (by omega)]
    congr 1; omega
  exact h

/-! ### Packing -/

@[simp] theorem length_leBytes (n x : Nat) : (leBytes n x).length = n := by
  induction n generalizing x with
  | zero => rfl
  | succ n ih => rw [leBytes, List.length_cons, ih]

theorem leNat_leBytes (n x : Nat) : leNat (leBytes n x) = x % 256 ^ n := by
  induction n generalizing x with
  | zero => rw [leBytes, leNat, Nat.pow_zero, Nat.mod_one]
  | succ n ih =>
    calc leNat (leBytes (n + 1) x)
      _ = x % 256 + 256 * (x / 256 % 256 ^ n) := by rw [leBytes, leNat, ih, BitVec.toNat_ofNat]
      _ = x % 256 ^ (n + 1) := by rw [Nat.pow_succ', Nat.mod_mul]

theorem length_packRaw (b : Nat) (xs : List Nat) : (packRaw b xs).length = cdiv (xs.length * b) 8 := length_leBytes _ _

/-- The sum `packRaw` runs over the elements, from any place on, is the number with the elements as its digits. -/
theorem foldl_zipIdx_eq_ofDigits (b : Nat) (xs : List Nat) (t k : Nat) :
    (xs.zipIdx k).foldl (fun t p => t + p.1 % 2 ^ b * 2 ^ (p.2 * b)) t
      = t + 2 ^ (k * b) * Nat.ofDigits (2 ^ b) (xs.map (· % 2 ^ b)) := by
  induction xs generalizing t k with
  | nil => rfl
  | cons x xs ih =>
    rw [List.zipIdx_cons, List.foldl_cons, ih, List.map_cons, Nat.ofDigits_cons, Nat.succ_mul, Nat.pow_add]
    ring

theorem mem_map_mod_two_pow_lt (b : Nat) (xs : List Nat) : ∀ d ∈ xs.map (· % 2 ^ b), d < 2 ^ b := by
  intro d hd
  obtain ⟨x, -, rfl⟩ := List.mem_map.1 hd
  exact Nat.mod_lt _ (Nat.two_pow_pos b)

/-- The packed bytes have room for every element, so they read as the number with the elements as its digits. -/
theorem leNat_packRaw {b : Nat} (hb : 0 < b) (xs : List Nat) :
    leNat (packRaw b xs) = Nat.ofDigits (2 ^ b) (xs.map (· % 2 ^ b)) := by
  have hlt : Nat.ofDigits (2 ^ b) (xs.map (· % 2 ^ b)) < (2 ^ b) ^ xs.length := by
    simpa using Nat.ofDigits_lt_base_pow_length (Nat.one_lt_two_pow hb.ne') (mem_map_mod_two_pow_lt b xs)
  have hroom : (2 ^ b) ^ xs.length ≤ 256 ^ cdiv (xs.length * b) 8 := by
    rw [← Nat.pow_mul, show 256 = 2 ^ 8 from rfl, ← Nat.pow_mul, Nat.mul_comm b]
    exact Nat.pow_le_pow_right (by decide) (by rw [cdiv]; omega)
  rw [packRaw, leNat_leBytes, foldl_zipIdx_eq_ofDigits, Nat.zero_mul, Nat.pow_zero, Nat.one_mul, Nat.zero_add]
  exact Nat.mod_eq_of_lt (hlt.trans_le hroom)

/-- R82 for every width: element `i` stands in bits [(i + 1)b - 1 : ib] of the packed bytes, zeros past the last element. -/
theorem bits_leNat_packRaw {b : Nat} (hb : 0 < b) (xs : List Nat) (i : Nat) :
    bits (leNat (packRaw b xs)) (i * b) b = xs.getD i 0 % 2 ^ b :=
  calc bits (leNat (packRaw b xs)) (i * b) b
    _ = Nat.ofDigits (2 ^ b) (xs.map (· % 2 ^ b)) / (2 ^ b) ^ i % 2 ^ b := by
      rw [leNat_packRaw hb, bits, Nat.mul_comm i, Nat.pow_mul]
    _ = (xs.map (· % 2 ^ b)).getD i (0 % 2 ^ b) := by
      rw [ofDigits_digit (Nat.two_pow_pos b) (mem_map_mod_two_pow_lt b xs), Nat.zero_mod]
    _ = xs.getD i 0 % 2 ^ b := List.getD_map xs 0 (· % 2 ^ b)

/-! ### Reading -/

theorem rowRaw_getElem? (fmt : Nat) {cols i : Nat} (h : i < cols) (bs : Bytes) :
    (rowRaw fmt cols bs)[i]? = some (bits (leNat bs) (i * fmtBits fmt) (fmtBits fmt)) := by
  simp [rowRaw, h]

theorem fmtBits_eq_four : ∀ fmt ∈ [0x06, 0x07, 0x14], fmtBits fmt = 4 := by decide

theorem fmtBits_eq_six : ∀ fmt ∈ [0x04, 0x05, 0x12, 0x13], fmtBits fmt = 6 := by decide

/-! ### The 4-bit mode -/

theorem fmtOf_add (k : Nat) : fmtOf (k + 0x16) = none := rfl

/-- The format table of R80 marks exactly the codes that R83 names. -/
theorem any_four_fmtOf_iff (n : Nat) : (fmtOf n).any Fmt.four = true ↔ n ∈ [0x04, 0x05, 0x06, 0x07, 0x12, 0x13, 0x14] := by
  by_cases hn : n < 0x16
  · revert n
    decide
  · obtain ⟨k, rfl⟩ := Nat.exists_eq_add_of_le' (Nat.le_of_not_lt hn)
    have hnot : k + 0x16 ∉ [0x04, 0x05, 0x06, 0x07, 0x12, 0x13, 0x14] := by simp
    exact iff_of_false (by rw [fmtOf_add]; decide) hnot

theorem fourBit_eq (c : MmaCfg) : fourBit c = ((fmtOf c.fa).any Fmt.four && (fmtOf c.fb).any Fmt.four) := by
  unfold fourBit
  cases fmtOf c.fa <;> cases fmtOf c.fb <;> simp

/-! ### R82 by format -/

theorem packRaw_four_byte (xs : List Nat) {j : Nat} (hj : j < (xs.length + 1) / 2) :
    ∃ b, (packRaw 4 xs)[j]? = some b ∧ b.toNat % 16 = xs.getD (2 * j) 0 % 16 ∧ b.toNat / 16 = xs.getD (2 * j + 1) 0 % 16 := by
  have hlen : j < (packRaw 4 xs).length := by rw [length_packRaw, cdiv]; omega
  obtain ⟨hlow, hhigh⟩ := nibbles_of_byte (packRaw 4 xs) j
  rw [bits_leNat_packRaw (by decide), List.getD_eq_getElem _ _ hlen] at hlow hhigh
  exact ⟨_, List.getElem?_eq_getElem hlen, hlow, hhigh⟩

theorem packRaw_six_group (xs : List Nat) (g : Nat) {i : Nat} (hi : i < 4) :
    leNat (((packRaw 6 xs).drop (3 * g)).take 3) / 2 ^ (6 * i) % 64 = xs.getD (4 * g + i) 0 % 64 := by
  exact (sextet_of_group _ g hi).trans (bits_leNat_packRaw (by decide) xs (4 * g + i))

theorem rowRaw_four {fmt : Nat} (hf : fmt ∈ [0x06, 0x07, 0x14]) (cols : Nat) (bs : Bytes) (j : Nat) :
    (2 * j < cols → (rowRaw fmt cols bs)[2 * j]? = some ((bs.getD j 0).toNat % 16)) ∧
    (2 * j + 1 < cols → (rowRaw fmt cols bs)[2 * j + 1]? = some ((bs.getD j 0).toNat / 16)) := by
  obtain ⟨hlow, hhigh⟩ := nibbles_of_byte bs j
  constructor
  · intro h
    rw [rowRaw_getElem? fmt h, fmtBits_eq_four fmt hf, hlow]
  · intro h
    rw [rowRaw_getElem? fmt h, fmtBits_eq_four fmt hf, hhigh]

theorem rowRaw_six {fmt : Nat} (hf : fmt ∈ [0x04, 0x05, 0x12, 0x13]) {cols g i : Nat} (bs : Bytes) (hi : i < 4) (h : 4 * g + i < cols) :
    (rowRaw fmt cols bs)[4 * g + i]? = some (leNat ((bs.drop (3 * g)).take 3) / 2 ^ (6 * i) % 64) := by
  rw [rowRaw_getElem? fmt h, fmtBits_eq_six fmt hf, sextet_of_group _ _ hi]

/-- Settles O59: the packed bytes and the elements are the digits of one number, so a byte's halves and a 3-byte group's
sextets are its bit fields at the elements' places; the format table gives the 4-bit mode. -/
theorem subByteElementsArePackedLittleEndian : Obligations.SubByteElementsArePackedLittleEndian := by
  refine ⟨fun xs => ⟨?_, ?_, fun j hj => packRaw_four_byte xs hj, fun g i hi _ => packRaw_six_group xs g hi⟩,
    fun fmt cols bs => ⟨fun hf j => rowRaw_four hf cols bs j, fun hf g i hi h => rowRaw_six hf bs hi h⟩, fun c => ?_⟩
  · rw [length_packRaw, cdiv]; omega
  · rw [length_packRaw, cdiv]; omega
  · rw [fourBit_eq, Bool.and_eq_true, any_four_fmtOf_iff, any_four_fmtOf_iff]

end Machine
end Sys2Proof
end

section
/-!
The serving places of a retired channel (R174). `retireSource` reads the served granule back from its place, so granules of
the retired channel never meet; a place of theirs lies in the reserve, so it is no place of another channel's own granule.
The hash of R170 reads only the registers of its domain.
-/
namespace Sys2Proof
namespace Machine

/-! ### The other channels in ascending order -/

/-- The numbers below `n` without `x`, ascending: those below `x` keep their place, the later ones move down by one. -/
theorem getD_range_filter_ne {n x e : Nat} (hx : x < n) (he : e + 1 < n) :
    ((List.range n).filter (fun c => c ≠ x)).getD e 0 = if e < x then e else e + 1 := by
  have herase : (List.range n).filter (fun c => c ≠ x) = (List.range n).eraseIdx x := by
    rw [← List.Nodup.erase_getElem List.nodup_range x (by simpa using hx), List.getElem_range,
      List.Nodup.erase_eq_filter List.nodup_range]
    simp [bne, beq_eq_decide]
  rw [herase, List.getD_eq_getElem?_getD, List.getElem?_eraseIdx]
  split_ifs with h
  · rw [List.getElem?_range (by omega), Option.getD_some]
  · rw [List.getElem?_range he, Option.getD_some]

/-! ### The place of a retired channel's granule -/

theorem retireTarget_eq {ch : Nat} (hch : ch < 32) (r : Nat) :
    retireTarget ch r = (((List.range 32).filter (fun c => c ≠ ch)).getD (r % 31) 0, 10158080 + r / 31) := by
  rw [getD_range_filter_ne hch (by omega)]
  rfl

theorem reserveRow_le_retireTarget (ch r : Nat) : reserveRow ≤ (retireTarget ch r).2 := Nat.le_add_right _ _

/-- The place of a retired granule tells the granule: R174 read from either side. -/
theorem retireSource_retireTarget (ch r : Nat) : retireSource ch (retireTarget ch r).1 (retireTarget ch r).2 = r := by
  have hentry : (if (retireTarget ch r).1 < ch then (retireTarget ch r).1 else (retireTarget ch r).1 - 1) = r % 31 := by
    dsimp only [retireTarget]
    split_ifs <;> omega
  calc retireSource ch (retireTarget ch r).1 (retireTarget ch r).2
    _ = 31 * (reserveRow + r / 31 - reserveRow) + r % 31 := by rw [retireSource, hentry]; rfl
    _ = r := by rw [Nat.add_sub_cancel_left, Nat.div_add_mod]

theorem retireTarget_injective (ch : Nat) : Function.Injective (retireTarget ch) := by
  intro r r' h
  rw [← retireSource_retireTarget ch r, h, retireSource_retireTarget]

/-! ### Serving -/

theorem State.farServe_retired {s : State} {k ch : Nat} (r : Nat)
    (hstate : s.fg (R.FMC_STK_STATUS k) F.FMC_STK_STATUS_retire_state = 4)
    (hch : s.fg (R.FMC_STK_STATUS k) F.FMC_STK_STATUS_retired_ch = ch) : s.farServe k ch r = retireTarget ch r := by
  simp [State.farServe, hstate, hch]

theorem State.farServe_other {s : State} {k ch c : Nat} (r : Nat)
    (hch : s.fg (R.FMC_STK_STATUS k) F.FMC_STK_STATUS_retired_ch = ch) (hc : c ≠ ch) : s.farServe k c r = (c, r) := by
  simp [State.farServe, hch, hc.symm]

/-- A granule below the reserve is never served where a granule of the retired channel is. -/
theorem retireTarget_ne_own {ch c r r' : Nat} (hr : r < reserveRow) : retireTarget ch r' ≠ (c, r) := by
  intro h
  have hle := reserveRow_le_retireTarget ch r'
  rw [h] at hle
  exact absurd hr (Nat.not_lt.2 hle)

/-- Two granules below the reserve are served at one place only when they are one. -/
theorem State.farServe_inj {s : State} {k ch c c' r r' : Nat}
    (hstate : s.fg (R.FMC_STK_STATUS k) F.FMC_STK_STATUS_retire_state = 4)
    (hch : s.fg (R.FMC_STK_STATUS k) F.FMC_STK_STATUS_retired_ch = ch) (hr : r < reserveRow) (hr' : r' < reserveRow)
    (h : s.farServe k c r = s.farServe k c' r') : c = c' ∧ r = r' := by
  by_cases hc : c = ch <;> by_cases hc' : c' = ch
  · rw [hc, hc', farServe_retired r hstate hch, farServe_retired r' hstate hch] at h
    exact ⟨hc.trans hc'.symm, retireTarget_injective ch h⟩
  · rw [hc, farServe_retired r hstate hch, farServe_other r' hch hc'] at h
    exact absurd h (retireTarget_ne_own hr')
  · rw [hc', farServe_other r hch hc, farServe_retired r' hstate hch] at h
    exact absurd h.symm (retireTarget_ne_own hr)
  · rw [farServe_other r hch hc, farServe_other r' hch hc'] at h
    exact Prod.mk.inj h

/-! ### The hash of R170 and writes to other registers -/

theorem State.domStacks_fs {s : State} {i key : Nat} (f : Fld) (v : Nat) (hcfg : R.FMC_DOM_CFG i ≠ key) :
    (s.fs key f v).domStacks i = s.domStacks i := by
  simp only [State.domStacks, State.fg_fs_ne hcfg]
  rfl

theorem State.domShape_fs {s : State} {i key : Nat} (f : Fld) (v : Nat) (hcfg : R.FMC_DOM_CFG i ≠ key) :
    (s.fs key f v).domShape i = s.domShape i := by
  simp only [State.domShape, State.fg_fs_ne hcfg, State.domStacks_fs f v hcfg]
  rfl

theorem State.domMap_fs {s : State} {i key : Nat} (f : Fld) (v off : Nat) (hcfg : R.FMC_DOM_CFG i ≠ key)
    (hkey : R.FMC_DOM_KEY i ≠ key) : (s.fs key f v).domMap i off = s.domMap i off := by
  simp only [State.domMap, State.fg_fs_ne hcfg, State.fg_fs_ne hkey, State.domStacks_fs f v hcfg, State.domShape_fs f v hcfg]

/-- The domain registers lie below the stack registers. -/
theorem domRegs_ne_stackStatus {i : Nat} (k : Nat) (hi : i < 16) :
    R.FMC_DOM_CFG i ≠ R.FMC_STK_STATUS k ∧ R.FMC_DOM_KEY i ≠ R.FMC_STK_STATUS k := by
  unfold R.FMC_DOM_CFG R.FMC_DOM_KEY R.FMC_STK_STATUS
  omega

/-- Settles O60: `retireTarget` lists the other channels, `retireSource` inverts it, and the hash reads no stack register. -/
theorem retiredGranulesAreServedByTheOtherChannels : Obligations.RetiredGranulesAreServedByTheOtherChannels := by
  intro s k ch _ hlt st hstate hch
  refine ⟨fun r => ?_, fun c r hc => State.farServe_other r hch hc,
    fun c c' r r' _ _ hr hr' h => State.farServe_inj hstate hch hr hr' h, fun i off hk => ?_, fun v i off hi => ?_⟩
  · exact (State.farServe_retired r hstate hch).trans (retireTarget_eq hlt r)
  · subst hk; rfl
  · obtain ⟨hcfg, hkey⟩ := domRegs_ne_stackStatus k hi
    rw [State.domMap_fs _ _ _ hcfg hkey, State.domMap_fs _ _ _ hcfg hkey]

end Machine
end Sys2Proof
end
